-- ==== Sys2Proof/Word.lean ====
section
/-!
DEFINITION. Words, and the plainest arithmetic on them (R1, R61).
-/

namespace Sys2Proof

/-- A byte of memory. -/
abbrev Byte := BitVec 8

/-- A lane word of 32 bits (R59). -/
abbrev Word := BitVec 32

/-- A 64-bit value, as in an even register pair (R60). -/
abbrev DWord := BitVec 64

/-- The low word of a pair: bits 31:0 (R60). -/
def lo32 (x : DWord) : Word := x.setWidth 32

/-- The high word of a pair: bits 63:32 (R60). -/
def hi32 (x : DWord) : Word := (x >>> 32).setWidth 32

/-- A pair from its high and low words (R60). -/
def pair64 (hi lo : Word) : DWord := (hi.setWidth 64 <<< 32) ||| lo.setWidth 64

/-- 1 for true and 0 for false, as comparisons and votes write them (R61). -/
def boolWord (b : Bool) : Word := if b then 1 else 0

end Sys2Proof
end

