-- ==== Sys2Proof/Config.lean ====
section
/-!
DEFINITION. What an implementation fixes, and the free values: constants with no body, so that no proof can lean
on one of them. Each names the rule that leaves it open. An argument named `t` is the step counter of the state.
-/

namespace Sys2Proof.Config

/-- Which of the values of a location that R207 admits a quantum atomic returns.
Log: DESIGN CHOICE (entry 38). -/
opaque quantumRead (t lane : Nat) : Nat

/-- Whether the die cache cannot keep a tentative version of a line (R309).
Log: DESIGN CHOICE (entry 38). -/
opaque versionLost (t line : Nat) : Bool

/-- Which of the values of R276 a read of a register owned by the matrix engine gives: the old value, the final value or
one the engine wrote between.
Log: DESIGN CHOICE (entry 38). -/
opaque ownedRead (t lane reg : Nat) : Nat

/-- Which of them a register written while the engine owns it ends with (R276).
Log: DESIGN CHOICE (entry 38). -/
opaque ownedWrite (t lane reg : Nat) : Nat

/-- The words of the quarter-rate instructions where R105 and R106 leave more than one result.
Log: DESIGN CHOICE (entry 39). -/
opaque approx (fn : Nat) (x : Word) : Word

/-- Whether a short-lived word read past its 10 us reads as its value (true) or as poison (R157).
Log: DESIGN CHOICE (entry 38). -/
opaque shortLivedKept (t lane reg : Nat) : Bool

/-- A byte stored into a line that a copy is still filling (R173): true keeps the store's value.
Log: DESIGN CHOICE (entry 38). -/
opaque fillingKept (t addr : Nat) : Bool

/-- A byte of an image written between the end of the operand wait and the end of compute (R274): true reads it as it
stands at the end.
Log: DESIGN CHOICE (entry 38). -/
opaque engineSees (t addr : Nat) : Bool

/-- The byte read where the sector was written under another key (R370, R371).
Log: DESIGN CHOICE (entry 36), DEDUCED (entry 37). -/
opaque garble (key readKey addr : Nat) (sector : List Byte) : Byte

/-- SHAKE256 to 512 bits (R369); the function itself is outside the spec.
Log: DESIGN CHOICE (entry 41). -/
opaque shake256 (msg : List Byte) : BitVec 512

/-- Byte `i` of the SLH-DSA-SHAKE-256s signature over the record (R374).
Log: DESIGN CHOICE (entry 41). -/
opaque signature (record : List Byte) (i : Nat) : Byte

/-- What the speed fuses of a core hold (R15).
Log: DESIGN CHOICE (entry 6). -/
opaque speedEntry (core : Nat) : Nat

/-- The fused 128-bit device identifier (R374).
Log: DESIGN CHOICE (entry 6). -/
opaque deviceId : BitVec 128

/-- The silicon stepping (R382).
Log: DESIGN CHOICE (entry 6). -/
opaque stepping : BitVec 8

/-- The records, and byte `i`, of an image section whose layout R344 leaves open (sections 5 to 8), at image `t`.
Log: DESIGN CHOICE (entry 5). -/
opaque sectionRecords (t sect : Nat) : Nat
opaque sectionByte (t sect i : Nat) : Byte

/-- The wait data and the wait address of a lane record (R345), for each kind of wait.
Log: DESIGN CHOICE (entry 45). -/
opaque waitData (t who : Nat) : Word
opaque waitAddr (t who : Nat) : DWord

/-- The cause that a qlock on a queue other than the event's leaves in kstat: it is a fatal complex trap, of a code that R360
does not name.
Log: DESIGN CHOICE (entry 47). -/
opaque qlockCause : Byte

/-- The reason in the fault record of an access under an identifier that is not live (R318).
Log: DESIGN CHOICE (entry 126). -/
opaque deadReason : Nat

/-- Whether a die-cache line written under a key had been written back when the key was erased (R370).
Log: DESIGN CHOICE (entry 36). -/
opaque lineKept (t line : Nat) : Bool

/-- Whether the elements of a scrubbed structure that has a broken unit read back as zero (R374).
Log: DESIGN CHOICE (entry 48). -/
opaque scrubReads (t bit : Nat) : Bool

/-- How a hang report's entry names a wake condition (R379): part 0 is its kind, part 1 its cause and part 2 its data, for a kind of
wait and what it waits for.
Log: DESIGN CHOICE (entry 45). -/
opaque hangField (part wait what : Nat) : DWord

/-- The words 1 to 3 of the block that a pool query replaces (R362).
Log: DESIGN CHOICE (entry 46). -/
opaque poolWord (t i : Nat) : Word

/-- An HBM row's bank has a repair resource left, after `n` repairs (Table 22.4).
Log: DESIGN CHOICE (entry 48). -/
opaque hbmRepair (granule n : Nat) : Bool

/-- The answers of the I3C common command codes whose bytes the spec does not give (R385).
Log: DESIGN CHOICE (entry 48). -/
opaque i3cByte (code : Nat) (i : Nat) : Byte

/-- A byte read from another device of the domain where nothing says what stands there (R148).
Log: DESIGN CHOICE (entry 43). -/
opaque remoteByte (t dev addr : Nat) : Byte

/-- Whether a unit of another device's memory is poisoned, and whether a granule of it is tagged, where nothing says so
(R146, R147).
Log: DESIGN CHOICE (entry 43). -/
opaque remotePoison (t dev addr : Nat) : Bool
opaque remoteTag (t dev addr : Nat) : Bool

/-- Whether the home of a region on another device answers a join with open (R304).
Log: DESIGN CHOICE (entry 43). -/
opaque remoteOpen (t handle : Nat) : Bool

/-- What arstat reads of a region whose home is another device, but for the issuing group's own bits (R305).
Log: DESIGN CHOICE (entry 43). -/
opaque remoteStat (t handle : Nat) : Word

/-- What srd reads on a Kolesque core of a position or launch register, whose value there the spec does not state
(R162, R354).
Log: DESIGN CHOICE (entry 42). -/
opaque kolesqueSpecial (kcore id : Nat) : Word

/-- The microseconds a complex timer has run since it was written (R356).
Log: DESIGN CHOICE (entry 15). -/
opaque timerRun (t timer : Nat) : Nat

end Sys2Proof.Config
end

