-- ==== Sys2Proof/Syntax.lean ====
section
/-!
DEFINITION. The instructions: one constructor per row of the opcode table. 270 rows are instruction words (R22, R35) and 56 are
events of the device's agents. A word's operand fields are the arguments of its constructor. The rows of the one word
`priv` (R362) name its operations and take no argument: the fields D and A they share stand in the fetched word, which
the state's issue latch holds; an event takes no argument either: what its agent brings with it is an `EvArg` of the
state (Lean's runtime compiles no constructor with arguments beyond the 244th, which fixes this division and the order
of the constructors: those with arguments first, each part in the table's order). Hints are not rows: they are words
that govern the next word (R36) and stand in the issue latch.
-/

namespace Sys2Proof

/-- A register number 0 to 63 (R30, class 0). -/
abbrev Reg := BitVec 6

/-- A capability quad c0 to c15 (R22). -/
abbrev Quad := BitVec 4

/-- A channel ch0 to ch15 (R30, class 1). -/
abbrev Chan := BitVec 4

/-- A source field (R30): a register, a channel pop or a channel peek. -/
inductive Src where
  | reg (n : Reg)
  | pop (c : Chan)
  | peek (c : Chan)
deriving DecidableEq, Repr

/-- A destination field (R30): a register or a channel push. -/
inductive Dst where
  | reg (n : Reg)
  | push (c : Chan)
deriving DecidableEq, Repr

/-- What an error strikes (R165, R171, R366, Table 22.4). -/
inductive ErrUnit where
  /-- a word of the main register file -/
  | reg (group lane : Nat) (r : Reg)
  /-- a word of a fast window -/
  | window (group lane : Nat) (r : Reg)
  /-- the two copies of a quad's tag bit -/
  | regTag (group lane : Nat) (q : Quad)
  /-- a 64-bit word of a block's scratchpad, by space-2 offset -/
  | scratch (block off : Nat)
  /-- the two copies of a granule's tag bit -/
  | scratchTag (block granule : Nat)
  /-- a 32-byte sector of HBM -/
  | hbm (addr : Nat)
  /-- a 32-byte sector held in a die cache -/
  | dieCache (addr : Nat)
  /-- a 32-byte sector held in a compute core's L1 -/
  | l1 (core addr : Nat)
  /-- an 8-byte word of a Kolesque core's data memory -/
  | kdata (kcore addr : Nat)
deriving DecidableEq, Repr

/-- What another device of the domain asks of this one's memory (R209, R210, R317). -/
inductive RemoteOp where
  | read (size : Nat)
  /-- a store; with `tag`, one of a tagged capability (R146) -/
  | write (data : List Byte) (poison tag : Bool)
  /-- an atomic; `poison` is its operand's (R199) -/
  | atom (aop : BitVec 4) (operand compare : Word) (poison : Bool)
  /-- a speculative atomic of a lane of the asking group (R208) -/
  | speculate (lane : Nat) (aop : BitVec 4) (operand compare : Word) (poison : Bool)
  /-- the asking group passes a commit point (R208) -/
  | commit
  /-- the tentative operations of the asking group are discarded, or of one lane of it (R208) -/
  | discard (lane : Option Nat)
deriving DecidableEq, Repr

/-- A remote access request: the asking device, the physical address here, the operation, the key slot of the identifier it
was translated under (R317), and the group that asks, where one of its lanes does (R208). -/
structure RemoteReq where
  dev : Nat
  addr : Nat
  op : RemoteOp
  slot : Nat := 0
  group : Option Nat := none
deriving DecidableEq, Repr

/-- A message about a region from another device (R304, R305, R308, R310, R311): `region` is an object of this device, or
256 plus the cursor of the handle of a region of another home; `slot` is the key slot of the identifier that an address was
translated under (R317). -/
inductive RegionMsg where
  /-- a group of device `dev` joins -/
  | join (region dev group : Nat)
  /-- every unexited lane of that member group is parked at arvote -/
  | vote (region dev group : Nat)
  /-- that member group has been delivered or has continued -/
  | leave (region dev group : Nat)
  /-- a holder of the handle elsewhere seals the region -/
  | seal (region : Nat)
  /-- an abort cause seen elsewhere -/
  | abort (region : Nat) (reason : Byte)
  /-- a conflict with a region of another home: its count, when this device's region lost -/
  | lost (region count : Nat)
  /-- a tentative write, or an atomic, of a member elsewhere to a line of this device -/
  | write (region addr slot : Nat) (data : List Byte) (poison tag : Bool)
  | atom (region addr slot : Nat) (aop : BitVec 4) (operand compare : Word) (poison : Bool)
  /-- a member elsewhere reads a line of this device -/
  | read (region addr slot size : Nat)
  /-- the home's commit decision for a region with records or members here -/
  | commit (region : Nat)
deriving DecidableEq, Repr

/-- What an event's agent brings with it. Each event reads the fields its own meaning names. -/
structure EvArg where
  /-- the unit it concerns: a core, copy, group, context, region, queue, device, timer or access -/
  a : Nat := 0
  /-- a second number: a lane, die, node, row, address or size -/
  b : Nat := 0
  /-- a third number: a die or register -/
  c : Nat := 0
  /-- a choice: overwrite, write, poison, verified -/
  flag : Bool := false
  /-- a value written -/
  value : DWord := 0
  /-- bytes written or returned -/
  data : List Byte := []
  /-- the bytes returned are a tagged granule (R146) -/
  tag : Bool := false
  /-- a speculative atomic found no free record at its home (R208) -/
  overflow : Bool := false
  /-- what an error strikes -/
  unit : Option ErrUnit := none
  /-- another device's request -/
  req : Option RemoteReq := none
  /-- another device's message about a region -/
  msg : Option RegionMsg := none
deriving DecidableEq, Repr

set_option linter.unusedVariables false in
/-- The instructions and events of the opcode table. -/
inductive Instr where
  /-- IADD: Each active lane writes the wrapped 32-bit sum of A and B to D. (R97) -/
  | iadd (d : Dst) (a b : Src)
  /-- ISUB: Each active lane writes the wrapped difference A minus B to D. (R97) -/
  | isub (d : Dst) (a b : Src)
  /-- IMUL: Each active lane writes the low 32 bits of the product A times B to D. (R97) -/
  | imul (d : Dst) (a b : Src)
  /-- IMULH: Each active lane writes the high word of the signed 64-bit product A times B to D. (R97) -/
  | imulh (d : Dst) (a b : Src)
  /-- NMULH: Each active lane writes the high word of the unsigned 64-bit product A times B to D. (R97) -/
  | nmulh (d : Dst) (a b : Src)
  /-- IMAD: Each active lane writes the wrapped value A times B plus D back to D. (R97) -/
  | imad (d : Reg) (a b : Src)
  /-- IMIN: Each active lane writes the lesser of A and B, read as i32, to D. (R97) -/
  | imin (d : Dst) (a b : Src)
  /-- IMAX: Each active lane writes the greater of A and B, read as i32, to D. (R97) -/
  | imax (d : Dst) (a b : Src)
  /-- NMIN: Each active lane writes the lesser of A and B, read as n32, to D. (R97) -/
  | nmin (d : Dst) (a b : Src)
  /-- NMAX: Each active lane writes the greater of A and B, read as n32, to D. (R97) -/
  | nmax (d : Dst) (a b : Src)
  /-- IABS: Each active lane writes the wrapped absolute value of A to D. (R97) -/
  | iabs (d : Dst) (a : Src)
  /-- INEG: Each active lane writes the wrapped negation of A to D. (R97) -/
  | ineg (d : Dst) (a : Src)
  /-- AND: Each active lane writes A AND B to D. (R97) -/
  | and (d : Dst) (a b : Src)
  /-- OR: Each active lane writes A OR B to D. (R97) -/
  | or (d : Dst) (a b : Src)
  /-- XOR: Each active lane writes A XOR B to D. (R97) -/
  | xor (d : Dst) (a b : Src)
  /-- ANDN: Each active lane writes A AND NOT B to D. (R97) -/
  | andn (d : Dst) (a b : Src)
  /-- NOT: Each active lane writes the bitwise complement of A to D. (R97) -/
  | not (d : Dst) (a : Src)
  /-- SHL: Each active lane shifts A left by the count B, giving 0 for counts of 32 or more. (R98) -/
  | shl (d : Dst) (a : Src) (b : Reg)
  /-- SHR: Each active lane shifts A right with zero fill by the count B. (R98) -/
  | shr (d : Dst) (a : Src) (b : Reg)
  /-- SAR: Each active lane shifts A right with sign fill by the count B. (R98) -/
  | sar (d : Dst) (a : Src) (b : Reg)
  /-- ROTL: Each active lane rotates A left by B modulo 32. (R98) -/
  | rotl (d : Dst) (a : Src) (b : Reg)
  /-- POPC: Each active lane writes the number of set bits of A to D. (R97) -/
  | popc (d : Dst) (a : Src)
  /-- CLZ: Each active lane writes the count of leading zero bits of A to D. (R97) -/
  | clz (d : Dst) (a : Src)
  /-- BREV: Each active lane writes the bit reversal of A to D. (R97) -/
  | brev (d : Dst) (a : Src)
  /-- SEL: Each active lane writes A if its condition D is non-zero, else B, trapping on a poisoned condition. (R97) -/
  | sel (d : Reg) (a b : Src)
  /-- BFE: Each active lane extracts a bit field of A described by B, optionally sign-extended. (R99) -/
  | bfe (d : Dst) (a : Src) (b : Reg)
  /-- BFI: Each active lane inserts the low bits of A into the field of D described by B. (R99) -/
  | bfi (d : Reg) (a : Src) (b : Reg)
  /-- IADDS: Each active lane writes the i32-saturated sum of A and B to D. (R97) -/
  | iadds (d : Dst) (a b : Src)
  /-- ISUBS: Each active lane writes the i32-saturated difference of A and B to D. (R97) -/
  | isubs (d : Dst) (a b : Src)
  /-- MOV: Each active lane copies the word A unchanged to D. (R97) -/
  | mov (d : Dst) (a : Src)
  /-- ICMP_EQ: Each active lane writes 1 if A equals B as i32, else 0. (R101) -/
  | icmpEq (d : Dst) (a b : Src)
  /-- ICMP_NE: Each active lane writes 1 if A differs from B, else 0. (R101) -/
  | icmpNe (d : Dst) (a b : Src)
  /-- ICMP_LT: Each active lane writes 1 if A is less than B as i32. (R101) -/
  | icmpLt (d : Dst) (a b : Src)
  /-- ICMP_LE: Each active lane writes 1 if A is at most B as i32. (R101) -/
  | icmpLe (d : Dst) (a b : Src)
  /-- ICMP_GT: Each active lane writes 1 if A is greater than B as i32. (R101) -/
  | icmpGt (d : Dst) (a b : Src)
  /-- ICMP_GE: Each active lane writes 1 if A is at least B as i32. (R101) -/
  | icmpGe (d : Dst) (a b : Src)
  /-- ICMP_LTN: Each active lane writes 1 if A is less than B as n32. (R101) -/
  | icmpLtn (d : Dst) (a b : Src)
  /-- ICMP_LEN: Each active lane writes 1 if A is at most B as n32. (R101) -/
  | icmpLen (d : Dst) (a b : Src)
  /-- ICMP_GTN: Each active lane writes 1 if A is greater than B as n32. (R101) -/
  | icmpGtn (d : Dst) (a b : Src)
  /-- ICMP_GEN: Each active lane writes 1 if A is at least B as n32. (R101) -/
  | icmpGen (d : Dst) (a b : Src)
  /-- FCMP_EQ: Each active lane writes 1 if neither f32 operand is NaN and A equals B. (R101) -/
  | fcmpEq (d : Dst) (a b : Src)
  /-- FCMP_NE: Each active lane writes 1 if either f32 operand is NaN or A differs from B. (R101) -/
  | fcmpNe (d : Dst) (a b : Src)
  /-- FCMP_LT: Each active lane writes 1 if neither is NaN and A is less than B. (R101) -/
  | fcmpLt (d : Dst) (a b : Src)
  /-- FCMP_LE: Each active lane writes 1 if neither is NaN and A is at most B. (R101) -/
  | fcmpLe (d : Dst) (a b : Src)
  /-- FCMP_GT: Each active lane writes 1 if neither is NaN and A is greater than B. (R101) -/
  | fcmpGt (d : Dst) (a b : Src)
  /-- FCMP_GE: Each active lane writes 1 if neither is NaN and A is at least B. (R101) -/
  | fcmpGe (d : Dst) (a b : Src)
  /-- FCMP_UN: Each active lane writes 1 if either f32 operand is NaN. (R101) -/
  | fcmpUn (d : Dst) (a b : Src)
  /-- FADD: Each active lane writes the round-to-nearest-even f32 sum of A and B. (R102) -/
  | fadd (d : Dst) (a b : Src)
  /-- FSUB: Each active lane writes the rounded f32 difference A minus B. (R102) -/
  | fsub (d : Dst) (a b : Src)
  /-- FMUL: Each active lane writes the rounded f32 product of A and B. (R102) -/
  | fmul (d : Dst) (a b : Src)
  /-- FFMA: Each active lane writes A times B plus D with one rounding. (R102) -/
  | ffma (d : Reg) (a b : Src)
  /-- FMIN: Each active lane writes the lesser of A and B, treating NaN as missing data. (R103) -/
  | fmin (d : Dst) (a b : Src)
  /-- FMAX: Each active lane writes the greater of A and B, treating NaN as missing data. (R103) -/
  | fmax (d : Dst) (a b : Src)
  /-- FABS: Each active lane clears the sign bit of A. (R102) -/
  | fabs (d : Dst) (a : Src)
  /-- FNEG: Each active lane flips the sign bit of A. (R102) -/
  | fneg (d : Dst) (a : Src)
  /-- FSGN: Each active lane writes the magnitude of A with the sign of B. (R102) -/
  | fsgn (d : Dst) (a b : Src)
  /-- FRCP: Each active lane writes an approximate reciprocal of A at quarter rate. (R105) -/
  | frcp (d : Dst) (a : Src)
  /-- FRSQ: Each active lane writes an approximate reciprocal square root of A. (R105) -/
  | frsq (d : Dst) (a : Src)
  /-- FSQRT: Each active lane writes the correctly rounded square root of A. (R105) -/
  | fsqrt (d : Dst) (a : Src)
  /-- FEXP2: Each active lane writes an approximation of 2 to the power A. (R105) -/
  | fexp2 (d : Dst) (a : Src)
  /-- FLOG2: Each active lane writes an approximation of log2 A. (R105) -/
  | flog2 (d : Dst) (a : Src)
  /-- FSIN: Each active lane writes an approximation of sin A. (R105) -/
  | fsin (d : Dst) (a : Src)
  /-- FCOS: Each active lane writes an approximation of cos A. (R105) -/
  | fcos (d : Dst) (a : Src)
  /-- FTANH: Each active lane writes an approximation of tanh A. (R105) -/
  | ftanh (d : Dst) (a : Src)
  /-- FFLOOR: Each active lane writes the integral value of A rounded toward minus infinity. (R104) -/
  | ffloor (d : Dst) (a : Src)
  /-- FCEIL: Each active lane writes the integral value of A rounded toward plus infinity. (R104) -/
  | fceil (d : Dst) (a : Src)
  /-- FTRUNC: Each active lane writes the integral value of A rounded toward zero. (R104) -/
  | ftrunc (d : Dst) (a : Src)
  /-- FRINT: Each active lane writes the integral value nearest A, ties to even. (R104) -/
  | frint (d : Dst) (a : Src)
  /-- FCLASS: Each active lane writes a one-hot word classifying A. (R104) -/
  | fclass (d : Dst) (a : Src)
  /-- FSCALE: Each active lane writes A times 2 to the power B with one rounding. (R104) -/
  | fscale (d : Dst) (a : Src) (b : Reg)
  /-- FFMS: Each active lane writes D minus A times B with one rounding. (R102) -/
  | ffms (d : Reg) (a b : Src)
  /-- CVT_F32_I32: Each active lane converts A as i32 to a rounded f32. (R107) -/
  | cvtF32I32 (d : Dst) (a : Src)
  /-- CVT_F32_N32: Each active lane converts A as n32 to a rounded f32. (R107) -/
  | cvtF32N32 (d : Dst) (a : Src)
  /-- CVT_I32_F32: Each active lane converts f32 A to i32 toward zero with saturation. (R107) -/
  | cvtI32F32 (d : Dst) (a : Src)
  /-- CVT_N32_F32: Each active lane converts f32 A to n32 toward zero with saturation. (R107) -/
  | cvtN32F32 (d : Dst) (a : Src)
  /-- CVT_I32_F32_RN: Each active lane converts f32 A to i32 rounding to nearest even with saturation. (R107) -/
  | cvtI32F32Rn (d : Dst) (a : Src)
  /-- CVT_F16_F32: Each active lane rounds f32 A to f16 in bits 15:0. (R107) -/
  | cvtF16F32 (d : Dst) (a : Src)
  /-- CVT_F32_F16: Each active lane widens the f16 in bits 15:0 of A to f32 exactly. (R107) -/
  | cvtF32F16 (d : Dst) (a : Src)
  /-- CVT_E8M7_F32: Each active lane rounds f32 A to e8m7 in bits 15:0. (R107) -/
  | cvtE8m7F32 (d : Dst) (a : Src)
  /-- CVT_F32_E8M7: Each active lane widens the e8m7 in bits 15:0 of A to f32 exactly. (R107) -/
  | cvtF32E8m7 (d : Dst) (a : Src)
  /-- PACK_F16: Each active lane rounds A and B to f16 and packs them into one word. (R108) -/
  | packF16 (d : Dst) (a b : Src)
  /-- PACK_E8M7: Each active lane rounds A and B to e8m7 and packs them into one word. (R108) -/
  | packE8m7 (d : Dst) (a b : Src)
  /-- SEXT_8: Each active lane sign-extends bits 7:0 of A. (R107) -/
  | sext8 (d : Dst) (a : Src)
  /-- SEXT_16: Each active lane sign-extends bits 15:0 of A. (R107) -/
  | sext16 (d : Dst) (a : Src)
  /-- ZEXT_8: Each active lane zero-extends bits 7:0 of A. (R107) -/
  | zext8 (d : Dst) (a : Src)
  /-- ZEXT_16: Each active lane zero-extends bits 15:0 of A. (R107) -/
  | zext16 (d : Dst) (a : Src)
  /-- HADD_F16: Each active lane adds the two packed f16 elements of A and B element-wise. (R109) -/
  | haddF16 (d : Dst) (a b : Src)
  /-- HMUL_F16: Each active lane multiplies packed f16 elements element-wise. (R109) -/
  | hmulF16 (d : Dst) (a b : Src)
  /-- HFMA_F16: Each active lane forms a fused multiply-add of packed f16 elements into D. (R109) -/
  | hfmaF16 (d : Reg) (a b : Src)
  /-- HMIN_F16: Each active lane takes the element-wise fmin of packed f16 values. (R109) -/
  | hminF16 (d : Dst) (a b : Src)
  /-- HMAX_F16: Each active lane takes the element-wise fmax of packed f16 values. (R109) -/
  | hmaxF16 (d : Dst) (a b : Src)
  /-- HDOT_F16: Each active lane adds the exact dot product of two f16 pairs to f32 D with one rounding. (R110) -/
  | hdotF16 (d : Reg) (a b : Src)
  /-- HADD_E8M7: Each active lane adds packed e8m7 elements element-wise. (R109) -/
  | haddE8m7 (d : Dst) (a b : Src)
  /-- HMUL_E8M7: Each active lane multiplies packed e8m7 elements element-wise. (R109) -/
  | hmulE8m7 (d : Dst) (a b : Src)
  /-- HFMA_E8M7: Each active lane forms a fused multiply-add of packed e8m7 elements into D. (R109) -/
  | hfmaE8m7 (d : Reg) (a b : Src)
  /-- HMIN_E8M7: Each active lane takes the element-wise fmin of packed e8m7 values. (R109) -/
  | hminE8m7 (d : Dst) (a b : Src)
  /-- HMAX_E8M7: Each active lane takes the element-wise fmax of packed e8m7 values. (R109) -/
  | hmaxE8m7 (d : Dst) (a b : Src)
  /-- HDOT_E8M7: Each active lane adds the exact dot product of two e8m7 pairs to f32 D with one rounding. (R110) -/
  | hdotE8m7 (d : Reg) (a b : Src)
  /-- QSWP_H: Each participant takes A from the lane whose index is its own xor 1. (R89) -/
  | qswpH (d : Dst) (a : Src)
  /-- QSWP_V: Each participant takes A from the lane whose index is its own xor 2. (R89) -/
  | qswpV (d : Dst) (a : Src)
  /-- QSWP_D: Each participant takes A from the lane whose index is its own xor 3. (R89) -/
  | qswpD (d : Dst) (a : Src)
  /-- QBC: Each participant takes A from the lowest participant of its quad. (R89) -/
  | qbc (d : Dst) (a : Src)
  /-- SHFL_IDX: Each participant takes A from the lane indexed by B. (R89) -/
  | shflIdx (d : Dst) (a : Src) (b : Reg)
  /-- SHFL_UP: Each participant takes A from the lane B below it, or keeps its own if out of range. (R89) -/
  | shflUp (d : Dst) (a : Src) (b : Reg)
  /-- SHFL_DN: Each participant takes A from the lane B above it, or keeps its own if out of range. (R89) -/
  | shflDn (d : Dst) (a : Src) (b : Reg)
  /-- SHFL_XOR: Each participant takes A from the lane whose index is its own xor B. (R89) -/
  | shflXor (d : Dst) (a : Src) (b : Reg)
  /-- VOTE_ANY: Every participant receives 1 if some contributor's condition is non-zero. (R90) -/
  | voteAny (d : Dst) (a : Reg)
  /-- VOTE_ALL: Every participant receives 1 if every contributor's condition is non-zero. (R90) -/
  | voteAll (d : Dst) (a : Reg)
  /-- VOTE_MASK: Every participant receives a 64-bit mask of contributors whose condition is non-zero. (R90) -/
  | voteMask (d a : Reg)
  /-- VOTE_EQ: Every participant receives 1 if all contributors' A words are equal. (R90) -/
  | voteEq (d : Dst) (a : Reg)
  /-- RED_IADD: Every participant receives the wrapped sum of the contributors' A. (R90) -/
  | redIadd (d : Dst) (a : Src)
  /-- RED_IMIN: Every participant receives the least contributor A as i32. (R90) -/
  | redImin (d : Dst) (a : Src)
  /-- RED_IMAX: Every participant receives the greatest contributor A as i32. (R90) -/
  | redImax (d : Dst) (a : Src)
  /-- RED_FADD: Every participant receives the fixed pairwise-tree f32 sum of the contributors' A. (R73) -/
  | redFadd (d : Dst) (a : Src)
  /-- RED_FMIN: Every participant receives the fmin over contributors formed in the fixed tree. (R90) -/
  | redFmin (d : Dst) (a : Src)
  /-- RED_FMAX: Every participant receives the fmax over contributors formed in the fixed tree. (R90) -/
  | redFmax (d : Dst) (a : Src)
  /-- MATCH: Each participant receives the lowest contributor lane whose A equals its own. (R90) -/
  | matchLane (d : Dst) (a : Src)
  /-- IADDI: Each active lane adds the immediate to A. (R100) -/
  | iaddi (d : Dst) (a : Src) (imm : BitVec 12)
  /-- ANDI: Each active lane ANDs A with the zero-extended immediate. (R100) -/
  | andi (d : Dst) (a : Src) (imm : BitVec 12)
  /-- ORI: Each active lane ORs A with the zero-extended immediate. (R100) -/
  | ori (d : Dst) (a : Src) (imm : BitVec 12)
  /-- XORI: Each active lane XORs A with the zero-extended immediate. (R100) -/
  | xori (d : Dst) (a : Src) (imm : BitVec 12)
  /-- SHLI: Each active lane shifts A left by an immediate count of 0 to 31. (R100) -/
  | shli (d : Dst) (a : Src) (imm : BitVec 12)
  /-- SHRI: Each active lane shifts A right with zero fill by an immediate count. (R100) -/
  | shri (d : Dst) (a : Src) (imm : BitVec 12)
  /-- SARI: Each active lane shifts A right with sign fill by an immediate count. (R100) -/
  | sari (d : Dst) (a : Src) (imm : BitVec 12)
  /-- MOVI: Each active lane writes the sign-extended immediate, or a wide 32-bit value, to D. (R100) -/
  | movi (d : Dst) (imm : BitVec 12)
  /-- IMULI: Each active lane multiplies A by the immediate. (R100) -/
  | imuli (d : Dst) (a : Src) (imm : BitVec 12)
  /-- LDB: Each active lane loads one byte through capability cC and sign-extends it. (R143) -/
  | ldb (d : Dst) (c : Quad) (imm : BitVec 15)
  /-- LDBN: Each active lane loads one byte through cC and zero-extends it. (R143) -/
  | ldbn (d : Dst) (c : Quad) (imm : BitVec 15)
  /-- LDH: Each active lane loads a half-word through cC and sign-extends it. (R143) -/
  | ldh (d : Dst) (c : Quad) (imm : BitVec 15)
  /-- LDHN: Each active lane loads a half-word through cC and zero-extends it. (R143) -/
  | ldhn (d : Dst) (c : Quad) (imm : BitVec 15)
  /-- LDW: Each active lane loads a word through cC after the checks of R142, parking on an absent scratchpad line. (R143) -/
  | ldw (d : Dst) (c : Quad) (imm : BitVec 15)
  /-- LDD: Each active lane loads eight bytes into an even register pair. (R143) -/
  | ldd (d : Reg) (c : Quad) (imm : BitVec 15)
  /-- LDQ: Each active lane loads sixteen bytes into a register quad without a tag. (R143) -/
  | ldq (d : Reg) (c : Quad) (imm : BitVec 15)
  /-- LDC: Each active lane loads a capability with its granule tag into quad cD. (R143) -/
  | ldc (d : Reg) (c : Quad) (imm : BitVec 15)
  /-- STB: Each active lane stores the low byte of D through cC, clearing the granule tag. (R143) -/
  | stb (d : Src) (c : Quad) (imm : BitVec 15)
  /-- STH: Each active lane stores the low half-word of D through cC. (R143) -/
  | sth (d : Src) (c : Quad) (imm : BitVec 15)
  /-- STW: Each active lane stores the word D through cC. (R143) -/
  | stw (d : Src) (c : Quad) (imm : BitVec 15)
  /-- STD: Each active lane stores an even register pair through cC. (R143) -/
  | std (d : Reg) (c : Quad) (imm : BitVec 15)
  /-- STQ: Each active lane stores a register quad untagged through cC. (R143) -/
  | stq (d : Reg) (c : Quad) (imm : BitVec 15)
  /-- STC: Each active lane stores a capability quad and sets the granule tag to its tag, under R146. (R143) -/
  | stc (d : Reg) (c : Quad) (imm : BitVec 15)
  /-- FLD: Each active lane loads a word or capability from a frame through display entry dL. (R145) -/
  | fld (d : Dst) (l : BitVec 3) (k : Bool) (imm : BitVec 15)
  /-- FST: Each active lane stores a word or capability into a frame through display entry dL. (R145) -/
  | fst (d : Src) (l : BitVec 3) (k : Bool) (imm : BitVec 15)
  /-- ATOM_ADD: Each active lane atomically adds D to the word at cC and receives the old value. (R198) -/
  | atomAdd (d : Reg) (c : Quad) (ord : BitVec 2) (scope use : BitVec 3)
  /-- ATOM_AND: Each active lane atomically ANDs D into the word at cC. (R198) -/
  | atomAnd (d : Reg) (c : Quad) (ord : BitVec 2) (scope use : BitVec 3)
  /-- ATOM_OR: Each active lane atomically ORs D into the word at cC. (R198) -/
  | atomOr (d : Reg) (c : Quad) (ord : BitVec 2) (scope use : BitVec 3)
  /-- ATOM_XOR: Each active lane atomically XORs D into the word at cC. (R198) -/
  | atomXor (d : Reg) (c : Quad) (ord : BitVec 2) (scope use : BitVec 3)
  /-- ATOM_MIN: Each active lane atomically stores the i32 minimum of the word and D. (R198) -/
  | atomMin (d : Reg) (c : Quad) (ord : BitVec 2) (scope use : BitVec 3)
  /-- ATOM_MAX: Each active lane atomically stores the i32 maximum of the word and D. (R198) -/
  | atomMax (d : Reg) (c : Quad) (ord : BitVec 2) (scope use : BitVec 3)
  /-- ATOM_NMIN: Each active lane atomically stores the n32 minimum of the word and D. (R198) -/
  | atomNmin (d : Reg) (c : Quad) (ord : BitVec 2) (scope use : BitVec 3)
  /-- ATOM_NMAX: Each active lane atomically stores the n32 maximum of the word and D. (R198) -/
  | atomNmax (d : Reg) (c : Quad) (ord : BitVec 2) (scope use : BitVec 3)
  /-- ATOM_SWAP: Each active lane atomically replaces the word with D and receives the old value. (R198) -/
  | atomSwap (d : Reg) (c : Quad) (ord : BitVec 2) (scope use : BitVec 3)
  /-- ATOM_CAS: Each active lane writes D only if the word equals D+1, receiving the old value. (R198) -/
  | atomCas (d : Reg) (c : Quad) (ord : BitVec 2) (scope use : BitVec 3)
  /-- ATOM_FADD: Each active lane atomically adds f32 D to the word with one rounding. (R198) -/
  | atomFadd (d : Reg) (c : Quad) (ord : BitVec 2) (scope use : BitVec 3)
  /-- ATOM_FMIN: Each active lane atomically stores the fmin of the word and D. (R198) -/
  | atomFmin (d : Reg) (c : Quad) (ord : BitVec 2) (scope use : BitVec 3)
  /-- ATOM_FMAX: Each active lane atomically stores the fmax of the word and D. (R198) -/
  | atomFmax (d : Reg) (c : Quad) (ord : BitVec 2) (scope use : BitVec 3)
  /-- LDA: Each active lane loads a word as an acquire point at the named scope. (R201) -/
  | lda (d : Dst) (c : Quad) (scope : BitVec 3)
  /-- STL: Each active lane stores a word as a release point at the named scope. (R201) -/
  | stl (d : Src) (c : Quad) (scope : BitVec 3)
  /-- LDS: Each active lane performs an sc fence followed by an acquire load as one instruction. (R201) -/
  | lds (d : Dst) (c : Quad) (scope : BitVec 3)
  /-- STS: Each active lane performs a release store followed by an sc fence as one instruction. (R201) -/
  | sts (d : Src) (c : Quad) (scope : BitVec 3)
  /-- BRA: Each active lane moves its PC by the scaled 26-bit displacement. (R113) -/
  | bra (disp : BitVec 26)
  /-- BRZ: Each active lane branches when its condition A is zero, trapping on a poisoned condition. (R113) -/
  | brz (a : Reg) (disp : BitVec 19)
  /-- BRNZ: Each active lane branches when its condition A is non-zero. (R113) -/
  | brnz (a : Reg) (disp : BitVec 19)
  /-- CALL: Each active lane pushes a return capability and branches by the displacement. (R113) -/
  | call (disp : BitVec 26)
  /-- BRI: Each active lane checks capability cA and installs it as its code capability. (R113) -/
  | bri (a : Reg)
  /-- CALLI: Each active lane checks cA, pushes a return capability and installs cA as its code capability. (R113) -/
  | calli (a : Reg)
  /-- RCVWAIT: Each member lane arrives and is held at reconvergence record b until the record completes. (R124) -/
  | rcvwait (n : BitVec 6)
  /-- TRAP: Each active lane raises software trap 0x10 carrying the 6-bit code. (R119) -/
  | trap (code : BitVec 6)
  /-- RCVSET: Each group sets reconvergence record b to a target and its issuing lanes as members. (R123) -/
  | rcvset (b : BitVec 3) (imm : BitVec 12)
  /-- LOOP: Each active lane reads its trip count and enters loop state over the following body words. (R126) -/
  | loop (d : Reg) (len : BitVec 6)
  /-- CMOV: Each active lane copies a capability quad with its tag. (R137) -/
  | cmov (d a : Reg)
  /-- CADD: Each active lane moves a capability's cursor by B, clearing the tag if it leaves the bounds. (R137) -/
  | cadd (d a b : Reg)
  /-- CSETB: Each active lane narrows a capability's bounds to [cursor, cursor+B) rounded outward. (R138) -/
  | csetb (d a b : Reg)
  /-- CSETBX: Each active lane narrows bounds exactly to [cursor, cursor+B), trapping if not representable. (R138) -/
  | csetbx (d a b : Reg)
  /-- CBASE: Each active lane writes the capability's base to a register pair. (R137) -/
  | cbase (d a : Reg)
  /-- CLEN: Each active lane writes the capability's length to a register pair. (R137) -/
  | clen (d a : Reg)
  /-- CCUR: Each active lane writes the capability's cursor to a register pair. (R137) -/
  | ccur (d a : Reg)
  /-- CPERM: Each active lane writes the capability's perms, space and otype to D. (R137) -/
  | cperm (d a : Reg)
  /-- CANDP: Each active lane masks a capability's permissions with B, keeping FRM. (R137) -/
  | candp (d a b : Reg)
  /-- CSEAL: Each active lane seals cA with the otype given by sealing capability cB. (R139) -/
  | cseal (d a b : Reg)
  /-- CUNSEAL: Each active lane unseals cA when its otype matches sealing capability cB. (R139) -/
  | cunseal (d a b : Reg)
  /-- CTAG: Each active lane writes 1 if cA is tagged, else 0. (R137) -/
  | ctag (d a : Reg)
  /-- CSETC: Each active lane mints a space 1 or space 2 scratchpad root capability. (R140) -/
  | csetc (d a b : Reg)
  /-- CDISP: Each active lane reads display entry dL into cD. (R137) -/
  | cdisp (d : Reg) (l : BitVec 6)
  /-- CPYIN: Passing lanes of a group issue one copy from global memory into scratchpad, numbered from the engine sequence. (R176) -/
  | cpyin (d a b : Reg)
  /-- CPYOUT: Passing lanes of a group issue one copy from scratchpad to global memory. (R176) -/
  | cpyout (d a b : Reg)
  /-- CPYCVT: Passing lanes issue one copy that converts row-major source data into operand-image planes and scales. (R264) -/
  | cpycvt (d a b : Reg)
  /-- CPYWAIT: Each active lane parks while the named copy or an earlier one of its group is outstanding. (R178) -/
  | cpywait (a : Reg)
  /-- PRES: Each active lane writes 1 if the scratchpad line at its cursor is present. (R182) -/
  | pres (d : Dst) (a : Reg)
  /-- PCLR: Each active lane makes the lines of a scratchpad range pclr-pending. (R183) -/
  | pclr (a b : Reg)
  /-- CHBIND: A group binds a channel-table entry to a ring, arming the ring if unarmed. (R253) -/
  | chbind (n : Chan) (a b : Reg)
  /-- CHPUSH: Each active lane pushes A into the named channel, parking while the allowance is short. (R251) -/
  | chpush (n : Chan) (a : Src)
  /-- CHPOP: Each active lane pops one entry, parking while the ring is empty and open. (R249) -/
  | chpop (d : Dst) (n : Chan)
  /-- CHPEEK: Each active lane reads the next entries without removing them. (R249) -/
  | chpeek (d : Dst) (n : Chan)
  /-- CHSTAT: Each active lane writes the ring's count, bound, closed and drained status without waiting. (R254) -/
  | chstat (d : Reg) (n : Chan)
  /-- CHCLOSE: A group closes the bound ring and wakes its parked poppers. (R253) -/
  | chclose (n : Chan)
  /-- CHFREE: A group unbinds its entry and disarms the ring when no binding remains. (R253) -/
  | chfree (n : Chan)
  /-- BARINIT: Each active lane arms a barrier object for n members or repeats an identical arming. (R216) -/
  | barinit (a b : Reg)
  /-- BARARR: Each member arrives at a barrier, receives the phase token and may complete the phase. (R217) -/
  | bararr (d : Dst) (a : Reg)
  /-- BARWAIT: Each active lane parks while the barrier's phase equals its token. (R218) -/
  | barwait (a : Reg) (b : Src)
  /-- BARSYNC: Each member arrives and then waits on the token it received. (R217) -/
  | barsync (a : Reg)
  /-- BARDROP: A member leaves the barrier for good, possibly completing the phase. (R220) -/
  | bardrop (a : Reg)
  /-- CVINIT: Sets the count of convergence register cvN. (R226) -/
  | cvinit (n : BitVec 6) (a : Reg)
  /-- CVSIGN: Each non-helper lane makes a plain signature on cvN, completing the generation when the count is reached. (R226) -/
  | cvsign (n : BitVec 6)
  /-- STRAG: Each active lane reads a barrier's or grid's straggler record into a register quad. (R225) -/
  | strag (d a : Reg)
  /-- MX: Each active lane checks its format word and images and signs cvN with a matrix signature, held until the generation completes. (R271) -/
  | mx (d f : Reg) (ca cb : Quad) (cv : BitVec 4)
  /-- MXWAIT: Each active lane sets its crew register and parks until its last operation on cvN completes or fails. (R278) -/
  | mxwait (n : BitVec 6)
  /-- MXZERO: Each active lane writes +0.0 into sixteen registers from vD. (R278) -/
  | mxzero (d : Reg)
  /-- LAUNCH: Each active lane reads a launch record, allocates a frame and enqueues a child grid, returning its handle. (R239) -/
  | launch (d a : Reg)
  /-- LAUNCHA: As launch, with the child held until the predecessor grid named by cB completes. (R239) -/
  | launcha (d a b : Reg)
  /-- JOIN: Each active lane parks until the grid named by the handle has completed. (R242) -/
  | join (a : Reg)
  /-- JPOLL: Each active lane writes the done, failed and released status of a child grid without waiting. (R242) -/
  | jpoll (d : Dst) (a : Reg)
  /-- NEMIT: Each active lane emits a record to a node's bin on its die, parking while the bin is full. (R292) -/
  | nemit (a b : Reg)
  /-- BOUND: Sets the issuing group's bound to the least valid A among its lanes. (R292) -/
  | bound (a : Reg)
  /-- INCRD: Each active lane reads the key and tag of an incumbent slot from its die's replica. (R293) -/
  | incrd (d a : Reg)
  /-- INCIMP: Each active lane offers a key and tag to an incumbent slot at the home, improving it if lower. (R294) -/
  | incimp (d a b : Reg)
  /-- AROPEN: Each active lane opens a region object with a fresh age and receives its handle, or an untagged result when none is free. (R303) -/
  | aropen (d a : Reg)
  /-- AROPEN_REOPEN: With the reopen flag set, a lane reopens a region keeping the age of an aborted or stale handle. (R303) -/
  | aropenReopen (d a : Reg)
  /-- ARJOIN: A group joins an open region as a member and records its abort target. (R304) -/
  | arjoin (a b : Reg)
  /-- ARSEAL: Changes an open region to sealed. (R305) -/
  | arseal (a : Reg)
  /-- ARVOTE: A member lane parks at arvote until the region commits or aborts. (R306) -/
  | arvote (a : Reg)
  /-- ARABORT: Aborts an open or sealed region with reason 1. (R305) -/
  | arabort (a : Reg)
  /-- ARSTAT: Each active lane writes the region's state, members and abort reason without waiting. (R305) -/
  | arstat (d a : Reg)
  /-- SRD: Each active lane reads a special register, or the 64-bit cycle count into a pair. (R162) -/
  | srd (d : Dst) (id : BitVec 8)
  /-- SWR: Each active lane writes A to a writable special register. (R162) -/
  | swr (id : BitVec 8) (a : Src)
  /-- FENCE: Creates acquire or release points at the named scope and waits for earlier accesses as its kind requires. (R202) -/
  | fence (kind : BitVec 2) (scope : BitVec 3)
  /-- CSUM: Computes the register checksum fold over the group's active lanes into a register pair. (R228) -/
  | csum (d : Reg)
  /-- DBGMARK: Each group appends a 16-byte mark entry to the trace ring when one is configured. (R336) -/
  | dbgmark (mark : BitVec 8)
  /-- PERF: Each active lane reads a context performance counter. (R337) -/
  | perf (d : Dst) (id : BitVec 8)
  /-- EVWAIT: A Kolesque core ends its current event, releasing its queue lock, and parks until the next event record is delivered. (R360) -/
  | evwait (d : Reg)
  /-- QLOCK: A Kolesque core parks until the queue lock serves the current event's ticket. (R360) -/
  | qlock (a : Reg)
  /-- QUNLOCK: A Kolesque core advances the queue lock past the current ticket. (R360) -/
  | qunlock (a : Reg)
  /-- CTXRUN_RUN: Takes the lowest free context number and restores the named image into it. (R361) -/
  | ctxrunRun (d a : Reg)
  /-- CTXRUN_HALT: Halts a context by the stop walk. (R361) -/
  | ctxrunHalt (d a : Reg)
  /-- CTXRUN_RESUME: Resumes a halted or frozen context in place. (R361) -/
  | ctxrunResume (d a : Reg)
  /-- CTXRUN_SAVE: Pre-empts a context into the named image area as a kind 1 image. (R361) -/
  | ctxrunSave (d a : Reg)
  /-- CTXRUN_DUMP: Halts a context and writes its dump. (R361) -/
  | ctxrunDump (d a : Reg)
  /-- CTXRUN_KILL: Kills a context and tears it down. (R361) -/
  | ctxrunKill (d a : Reg)
  /-- CTXRUN_STATE: Returns a context's state code without an event. (R361) -/
  | ctxrunState (d a : Reg)
  /-- RGN: A row obtains a window slot, writes back its old map, stages up to four quads and sets their short-lived bits. (R154) -/
  | rgn (cnt : BitVec 2) (q0 q1 q2 q3 : Quad) (sl : BitVec 4)
  /-- BKPT: Each active lane raises breakpoint trap 0x11 carrying the tag. (R42) -/
  | bkpt (tag : BitVec 26)
  /-- RET: Each active lane pops its return stack into the code capability, or exits at depth 0. (R116) -/
  | ret
  /-- EXIT: Each active lane ends its thread, drops from barriers, counts as exited in reconvergence records and may complete its grid. (R117) -/
  | exit
  /-- YIELD: The issuing row is passed over for the next 64 gathers of its core while another ready row of equal or higher priority exists. (R118) -/
  | yield
  /-- KILLPT: A group with a bound is tested against the kill slot and killed if it cannot beat the incumbent. (R119) -/
  | killpt
  /-- NOP: Does nothing. (R119) -/
  | nop
  /-- RFT: Each active lane returns from its handler to tpc, restoring shadowed loop state and window map and clearing in-handler. (R120) -/
  | rft
  /-- GBAR: Each lane arrives at the grid barrier of a cooperative grid and parks until the generation completes. (R223) -/
  | gbar
  /-- BTAKE: Each active lane's crew takes a baton ticket and parks until it reaches the head. (R280) -/
  | btake
  /-- BPASS: A crew holding the baton removes its ticket and wakes the next holder. (R280) -/
  | bpass
  /-- FENCEOP: Makes earlier writes visible to the operand fetch of later matrix operations the thread signs. (R203) -/
  | fenceop
  /-- HALT: Halts the issuing lanes and then the whole context by the stop walk, raising a program-halt event. (R336) -/
  | halt
  /-- PRIV_TLB_INVALIDATE_ALL: Invalidates every TLB entry, completing when no covered translation is in use. (R323) -/
  | privTlbInvalidateAll
  /-- PRIV_TLB_INVALIDATE_ASID: Invalidates every TLB entry of one identifier. (R323) -/
  | privTlbInvalidateAsid
  /-- PRIV_TLB_INVALIDATE_RANGE: Invalidates the TLB entries of one identifier over an address range. (R323) -/
  | privTlbInvalidateRange
  /-- PRIV_IDENTIFIER_ENTRY: Writes an address-space identifier entry, invalidating its TLB entries when live is cleared. (R318) -/
  | privIdentifierEntry
  /-- PRIV_KEY_LOAD: Loads a memory key slot from key material read under the lease key, then zeroes the material. (R370) -/
  | privKeyLoad
  /-- PRIV_KEY_DESTROY: Erases a key slot and discards every die-cache line filled or written under it. (R370) -/
  | privKeyDestroy
  /-- PRIV_PLANT_BREAKPOINT: Plants a bkpt word in a debuggable context's code and records the original word. (R350) -/
  | privPlantBreakpoint
  /-- PRIV_REMOVE_BREAKPOINT: Restores the original word under a planted breakpoint and removes its table entry. (R350) -/
  | privRemoveBreakpoint
  /-- PRIV_REVOKE_DEBUG: Revokes a context's debug right, restoring planted words and resuming halted groups. (R351) -/
  | privRevokeDebug
  /-- PRIV_ENGINE_RESET: Resets a core's matrix engine, poisoning owned accumulators and emptying its baton queue. (R284) -/
  | privEngineReset
  /-- PRIV_DERATE: Sets the device derate and optionally Cicada's hang threshold. (R16) -/
  | privDerate
  /-- PRIV_FAULT_REPLAY: Answers a recoverable fault record with replay, releasing earlier writes and replaying its lanes and copies. (R322) -/
  | privFaultReplay
  /-- PRIV_FAULT_FAIL: Answers a recoverable fault record with fail, turning its lanes into fatal page faults and failing its copies. (R322) -/
  | privFaultFail
  /-- PRIV_READ_FAULT_RECORD: Returns the words of a die's fault record, ending a fatal record's pending state. (R321) -/
  | privReadFaultRecord
  /-- PRIV_POOL_QUERY: Returns the free-granule count of a context's frame pool. (R362) -/
  | privPoolQuery
  /-- PRIV_QUEUE_DISABLE: Disables a host queue so that its doorbells are dropped. (R362) -/
  | privQueueDisable
  /-- PRIV_QUEUE_ACTIVATE: Activates a host queue, clearing its error state and tickets. (R362) -/
  | privQueueActivate
  /-- PRIV_MSIX: Raises an MSI-X vector after earlier writes of the core are visible to the host. (R362) -/
  | privMsix
  /-- PRIV_HANDOVER: Checks a successor firmware image and stops the complex taking events so that it can be loaded. (R364) -/
  | privHandover
  /-- MX_OPERAND_WAIT_END: The engine's operand wait ends once header and image lines are present and the headers are checked. (R274) -/
  | mxOperandWaitEnd
  /-- MX_COMPUTE_END: Compute ends, the engine writes each output to its signer and the operation completes. (R276) -/
  | mxComputeEnd
  /-- COPY_ADVANCE: The copy engine translates and writes the next part of a copy, holding it on a recoverable fault. (R181) -/
  | copyAdvance
  /-- COPY_COMPLETE: A copy whose bytes are all written completes, advancing engdone and freeing its queue slot. (R177) -/
  | copyComplete
  /-- ASYNC_TRAP_DELIVERY: A pending engine fault or engine reset is taken by a lane at its next instruction boundary. (R327) -/
  | asyncTrapDelivery
  /-- FORAGER_DEAL: The Forager places the head block of a launch queue on the core with room and the smallest speed-weighted count. (R80) -/
  | foragerDeal
  /-- CONTEXT_COMPLETION: The context's completion signal becomes visible after all its writes are visible at its completion scope. (R211) -/
  | contextCompletion
  /-- BIN_TIMER_EXPIRY: A bin's timer expires and the bin makes a launch decision with the records it holds. (R287) -/
  | binTimerExpiry
  /-- IMPROVEMENT_REACHES_DIE: An incumbent improvement is applied by a die's replica, dropping bin records and killing parked groups that cannot beat it. (R290) -/
  | improvementReachesDie
  /-- KILL_TAKES_EFFECT: A kill takes effect in each lane at its next instruction boundary, ending it as exit with speculative atomics discarded. (R297) -/
  | killTakesEffect
  /-- REGION_INSTALL_COMPLETE: Every slice has installed the region's records; it becomes committed and its voters continue. (R311) -/
  | regionInstallComplete
  /-- REGION_ABORT_DELIVERY: An aborted region's member lane moves to its abort target at its next instruction boundary. (R311) -/
  | regionAbortDelivery
  /-- REMOTE_DATA_RETURN: Data for a load or returning atomic on another device returns and wakes the parked lane. (R210) -/
  | remoteDataReturn
  /-- REMOTE_ACCESS_TIMEOUT: A remote access not returned within 100 ms completes with poison or is dropped. (R384) -/
  | remoteAccessTimeout
  /-- DERATE_TAKES_EFFECT: A new derate takes effect at every core within 10 microseconds of its write. (R16) -/
  | derateTakesEffect
  /-- WINDOW_SLOT_AGE_GRANT: A row waiting 2^16 cycles at rgn is granted the slot of the least recently issuing holder. (R155) -/
  | windowSlotAgeGrant
  /-- SHORT_LIVED_EXPIRY: Ten microseconds after its last write or staging end, a short-lived word may read as poison. (R157) -/
  | shortLivedExpiry
  /-- HALT_COMPLETE: Once every group is halted and copies and engine operations have drained, the context's halt completes. (R335) -/
  | haltComplete
  /-- ROW_EVICTION: A row whose threads all stand at blocking points and own no accumulators is evicted for pre-emption. (R338) -/
  | rowEviction
  /-- EVENT_DELIVERY: The head event of the event queue is handed to the lowest-numbered idle Kolesque core. (R357) -/
  | eventDelivery
  /-- KTIMER_EXPIRY: A complex timer reaches zero and raises a timer-expiry event. (R356) -/
  | ktimerExpiry
  /-- WATCHDOG_EXPIRY: An event issues longer than the watchdog limit and the crash path starts. (R365) -/
  | watchdogExpiry
  /-- IMEM_UNCORRECTABLE_ERROR: An uncorrectable instruction-memory error reloads the core and redelivers its event, retiring it on repetition. (R366) -/
  | imemUncorrectableError
  /-- QUEUE_TABLE_ERROR: An uncorrectable error in a queue-table entry puts the queue into error and raises a queue-error event. (R366) -/
  | queueTableError
  /-- DOORBELL: A host write to a queue's doorbell raises or coalesces into a doorbell event. (R358) -/
  | doorbell
  /-- APERTURE_ACCESS: A host read or write through BAR4 reaches HBM under the selected key slot, or reads all ones when closed or empty. (R372) -/
  | apertureAccess
  /-- HOST_REGISTER_WRITE: A host write to a BAR0 register with no behaviour of its own updates the register. (R367) -/
  | hostRegisterWrite
  /-- LEASE_RESET_REQUEST: A lease reset request closes the aperture, stops everything, scrubs every structure, renews keys and writes the signed record. (R373) -/
  | leaseResetRequest
  /-- FWSTART: Writing fwstart in state 2 or 5 checks, measures and starts the firmware image. (R369) -/
  | fwstart
  /-- POWER_ON: Power-on verifies Belnov's stages and performs a lease reset. (R368) -/
  | powerOn
  /-- CORRECTED_ERROR: A corrected error is counted against its unit, marking it lasting at four in one window. (R375) -/
  | correctedError
  /-- UNCORRECTABLE_ERROR: An uncorrectable error poisons its word or unit and marks the unit lasting. (R165) -/
  | uncorrectableError
  /-- CE_WINDOW_END: A 2^20-tick corrected-error window ends and the counts start afresh. (R375) -/
  | ceWindowEnd
  /-- INPUT_VOLTAGE_OUT_OF_RANGE: Input outside 48 to 54 V holds the dies in reset or removes power within 1 ms. (R377) -/
  | inputVoltageOutOfRange
  /-- POWER_WINDOW_END: A 1 ms power window ends and the issue brake is applied or released. (R378) -/
  | powerWindowEnd
  /-- INLET_OVER_TEMPERATURE: A cold-plate inlet above 45 C applies the brake, and above 60 C removes power. (R378) -/
  | inletOverTemperature
  /-- CICADA_CLOCK_GATE: A core whose rows have all been blocked for 2^16 cycles is clock-gated. (R379) -/
  | cicadaClockGate
  /-- CICADA_POWER_GATE: A core blocked for 2^20 cycles is power-gated with its storage kept. (R379) -/
  | cicadaPowerGate
  /-- HANG_REPORT: A core blocked for the hang threshold raises one hang-report event. (R379) -/
  | hangReport
  /-- LINK_DOWN: The host link goes down and doorbells and aperture accesses are lost until retraining. (R381) -/
  | linkDown
  /-- LINK_RETRAIN: The host link retrains and host accesses resume. (R381) -/
  | linkRetrain
  /-- I3C_DOMID_WRITE: A board write of the domain id is applied in Sexton state 2 and ignored otherwise. (R385) -/
  | i3cDomidWrite
  /-- I3C_LEASEREQ: A board write of leasereq requests a lease reset without overwrite. (R385) -/
  | i3cLeasereq
  /-- ENTDAA: The I3C dynamic address assignment CCC. (R385) -/
  | entdaa
  /-- RSTDAA: The I3C reset dynamic address CCC. (R385) -/
  | rstdaa
  /-- SETDASA: The I3C set dynamic address from static address CCC. (R385) -/
  | setdasa
  /-- GETPID: The I3C get provisioned id CCC. (R385) -/
  | getpid
  /-- GETBCR: The I3C get bus characteristics register CCC. (R385) -/
  | getbcr
  /-- GETDCR: The I3C get device characteristics register CCC. (R385) -/
  | getdcr
  /-- GETSTATUS: The I3C get status CCC. (R385) -/
  | getstatus
  /-- ILLEGAL_INSTRUCTION: A fetched word of an illegal major, unassigned fn, aop or sub, or an illegal field or hint run, raises illegal instruction (0x01) in every active lane. (R34) -/
  | illegalInstruction
  /-- SCRUB_COMPLETE: The scrub of a lease reset ends, the signed record is written and Sexton's state goes from scrubbing to awaiting firmware. (R373) -/
  | scrubComplete
  /-- FABRIC_ROUTE_LOST: A route to another device of the domain is lost, aborting regions whose home or records lie beyond it with reason 8. (R384) -/
  | fabricRouteLost
  /-- FABRIC_ROUTE_RESTORED: An unreachable device becomes reachable again and installs the records of a region decided while it was away, ending the stall on its lines. (R311) -/
  | fabricRouteRestored
  /-- REMOTE_ACCESS_REQUEST: A load, store or atomic from another device of the domain arrives at this device's home die and is served there untranslated. (R209) -/
  | remoteAccessRequest
  /-- REMOTE_REGION_MESSAGE: A region join, vote, tentative write, commit or install message from a member or home on another device arrives and is applied. (R311) -/
  | remoteRegionMessage
deriving DecidableEq, Repr

end Sys2Proof
end

