-- ==== Sys2Proof/WellFormed.lean ====
section
/-!
DEFINITION. Which instructions are well formed: every rule of "Instruction words and the opcode map" that limits a value
beyond its field's width (R23 to R31, R44, R121), and the ranges of the events' arguments.
-/

namespace Sys2Proof

/-- The first register of a pair is even (R31). -/
def Reg.isPair (r : Reg) : Bool := r.toNat % 2 == 0

/-- A capability field or the first register of a quad has number bits 1:0 zero (R31). -/
def Reg.isQuad (r : Reg) : Bool := r.toNat % 4 == 0

/-- A destination that must be a register aligned to a quad. -/
def Dst.isQuad : Dst → Bool
  | .reg r => r.isQuad
  | .push _ => false

/-- A destination that must be a register aligned to a pair. -/
def Dst.isPair : Dst → Bool
  | .reg r => r.isPair
  | .push _ => false

/-- A store's data field that must be a register aligned to a quad. -/
def Src.isQuad : Src → Bool
  | .reg r => r.isQuad
  | _ => false

/-- The scope field takes 0 to 4 (R26, R29). -/
def scopeOk (scope : BitVec 3) : Bool := scope.toNat < 5

/-- The fields of an atom word (R26): `ordered` says the operation is swap or cas. -/
def atomOk (ord : BitVec 2) (scope use : BitVec 3) (ordered : Bool) : Bool :=
  scopeOk scope && decide (use.toNat < 5) && (use == 0 || ord == 0) && !(ordered && (use == 1 || use == 3))

/-- A capability moved by an F-format word (R23, R31). -/
def frameOk (quad : Bool) (k : Bool) (imm : BitVec 15) : Bool := !k || (quad && imm.toNat % 4 == 0)

/-- Special-register ids that decode (R44): 0x00 to 0x27, and 0x40 to 0x7F, which are the complex's. -/
def srdIdOk (id : BitVec 8) : Bool := id.toNat < 0x28 || (0x40 ≤ id.toNat && id.toNat < 0x80)

/-- Ids that Table 9.3 lists with access RW (R162). -/
def swrLaneId (id : BitVec 8) : Bool :=
  id.toNat == 0x15 || (0x16 ≤ id.toNat && id.toNat ≤ 0x19) || (0x1C ≤ id.toNat && id.toNat ≤ 0x21) || id.toNat == 0x23

/-- Ids a swr may name without being illegal at decode (R44). -/
def swrIdOk (id : BitVec 8) : Bool := swrLaneId id || (0x40 ≤ id.toNat && id.toNat < 0x80)

/-- The quads of rgn (R27): fields and sl bits beyond the count are zero, and no quad is named twice. -/
def rgnOk (cnt : BitVec 2) (q0 q1 q2 q3 : Quad) (sl : BitVec 4) : Bool :=
  (decide (cnt.toNat ≥ 1) || (q1 == 0 && sl.toNat < 2)) &&
  (decide (cnt.toNat ≥ 2) || (q2 == 0 && sl.toNat < 4)) &&
  (decide (cnt.toNat ≥ 3) || (q3 == 0 && sl.toNat < 8)) &&
  (decide (cnt.toNat < 1) || !(q0 == q1)) &&
  (decide (cnt.toNat < 2) || (!(q0 == q2) && !(q1 == q2))) &&
  (decide (cnt.toNat < 3) || (!(q0 == q3) && !(q1 == q3) && !(q2 == q3)))

/-- The shift immediates: imm12 bits 11:5 are zero (R23). -/
def shiftOk (imm : BitVec 12) : Bool := imm.toNat < 32

/-- Ranges of what an error names. -/
def ErrUnit.ok : ErrUnit → Bool
  | .reg _ lane _ => lane < 64
  | .window _ lane _ => lane < 64
  | .regTag _ lane _ => lane < 64
  | .scratch _ off => off < 2 ^ 23
  | .scratchTag _ g => g < 2 ^ 19
  | .hbm addr => addr < 2 ^ 39
  | .dieCache addr => addr < 2 ^ 39
  | .l1 core addr => decide (core < 160) && decide (addr < 2 ^ 39)
  | .kdata k addr => decide (k < 12) && decide (addr < 2 ^ 18)

/-- The well-formed instructions. -/
def wf : Instr → Bool
  | .iadd _ _ _ => true
  | .isub _ _ _ => true
  | .imul _ _ _ => true
  | .imulh _ _ _ => true
  | .nmulh _ _ _ => true
  | .imad _ _ _ => true
  | .imin _ _ _ => true
  | .imax _ _ _ => true
  | .nmin _ _ _ => true
  | .nmax _ _ _ => true
  | .iabs _ _ => true
  | .ineg _ _ => true
  | .and _ _ _ => true
  | .or _ _ _ => true
  | .xor _ _ _ => true
  | .andn _ _ _ => true
  | .not _ _ => true
  | .shl _ _ _ => true
  | .shr _ _ _ => true
  | .sar _ _ _ => true
  | .rotl _ _ _ => true
  | .popc _ _ => true
  | .clz _ _ => true
  | .brev _ _ => true
  | .sel _ _ _ => true
  | .bfe _ _ _ => true
  | .bfi _ _ _ => true
  | .iadds _ _ _ => true
  | .isubs _ _ _ => true
  | .mov _ _ => true
  | .icmpEq _ _ _ => true
  | .icmpNe _ _ _ => true
  | .icmpLt _ _ _ => true
  | .icmpLe _ _ _ => true
  | .icmpGt _ _ _ => true
  | .icmpGe _ _ _ => true
  | .icmpLtn _ _ _ => true
  | .icmpLen _ _ _ => true
  | .icmpGtn _ _ _ => true
  | .icmpGen _ _ _ => true
  | .fcmpEq _ _ _ => true
  | .fcmpNe _ _ _ => true
  | .fcmpLt _ _ _ => true
  | .fcmpLe _ _ _ => true
  | .fcmpGt _ _ _ => true
  | .fcmpGe _ _ _ => true
  | .fcmpUn _ _ _ => true
  | .fadd _ _ _ => true
  | .fsub _ _ _ => true
  | .fmul _ _ _ => true
  | .ffma _ _ _ => true
  | .fmin _ _ _ => true
  | .fmax _ _ _ => true
  | .fabs _ _ => true
  | .fneg _ _ => true
  | .fsgn _ _ _ => true
  | .frcp _ _ => true
  | .frsq _ _ => true
  | .fsqrt _ _ => true
  | .fexp2 _ _ => true
  | .flog2 _ _ => true
  | .fsin _ _ => true
  | .fcos _ _ => true
  | .ftanh _ _ => true
  | .ffloor _ _ => true
  | .fceil _ _ => true
  | .ftrunc _ _ => true
  | .frint _ _ => true
  | .fclass _ _ => true
  | .fscale _ _ _ => true
  | .ffms _ _ _ => true
  | .cvtF32I32 _ _ => true
  | .cvtF32N32 _ _ => true
  | .cvtI32F32 _ _ => true
  | .cvtN32F32 _ _ => true
  | .cvtI32F32Rn _ _ => true
  | .cvtF16F32 _ _ => true
  | .cvtF32F16 _ _ => true
  | .cvtE8m7F32 _ _ => true
  | .cvtF32E8m7 _ _ => true
  | .packF16 _ _ _ => true
  | .packE8m7 _ _ _ => true
  | .sext8 _ _ => true
  | .sext16 _ _ => true
  | .zext8 _ _ => true
  | .zext16 _ _ => true
  | .haddF16 _ _ _ => true
  | .hmulF16 _ _ _ => true
  | .hfmaF16 _ _ _ => true
  | .hminF16 _ _ _ => true
  | .hmaxF16 _ _ _ => true
  | .hdotF16 _ _ _ => true
  | .haddE8m7 _ _ _ => true
  | .hmulE8m7 _ _ _ => true
  | .hfmaE8m7 _ _ _ => true
  | .hminE8m7 _ _ _ => true
  | .hmaxE8m7 _ _ _ => true
  | .hdotE8m7 _ _ _ => true
  | .qswpH _ _ => true
  | .qswpV _ _ => true
  | .qswpD _ _ => true
  | .qbc _ _ => true
  | .shflIdx _ _ _ => true
  | .shflUp _ _ _ => true
  | .shflDn _ _ _ => true
  | .shflXor _ _ _ => true
  | .voteAny _ _ => true
  | .voteAll _ _ => true
  | .voteMask d _ => d.isPair
  | .voteEq _ _ => true
  | .redIadd _ _ => true
  | .redImin _ _ => true
  | .redImax _ _ => true
  | .redFadd _ _ => true
  | .redFmin _ _ => true
  | .redFmax _ _ => true
  | .matchLane _ _ => true
  | .iaddi _ _ _ => true
  | .andi _ _ _ => true
  | .ori _ _ _ => true
  | .xori _ _ _ => true
  | .shli _ _ imm => shiftOk imm
  | .shri _ _ imm => shiftOk imm
  | .sari _ _ imm => shiftOk imm
  | .movi _ _ => true
  | .imuli _ _ _ => true
  | .ldb _ _ _ => true
  | .ldbn _ _ _ => true
  | .ldh _ _ _ => true
  | .ldhn _ _ _ => true
  | .ldw _ _ _ => true
  | .ldd d _ _ => d.isPair
  | .ldq d _ _ => d.isQuad
  | .ldc d _ _ => d.isQuad
  | .stb _ _ _ => true
  | .sth _ _ _ => true
  | .stw _ _ _ => true
  | .std d _ _ => d.isPair
  | .stq d _ _ => d.isQuad
  | .stc d _ _ => d.isQuad
  | .fld d _ k imm => frameOk d.isQuad k imm
  | .fst d _ k imm => frameOk d.isQuad k imm
  | .atomAdd _ _ ord scope use => atomOk ord scope use false
  | .atomAnd _ _ ord scope use => atomOk ord scope use false
  | .atomOr _ _ ord scope use => atomOk ord scope use false
  | .atomXor _ _ ord scope use => atomOk ord scope use false
  | .atomMin _ _ ord scope use => atomOk ord scope use false
  | .atomMax _ _ ord scope use => atomOk ord scope use false
  | .atomNmin _ _ ord scope use => atomOk ord scope use false
  | .atomNmax _ _ ord scope use => atomOk ord scope use false
  | .atomSwap _ _ ord scope use => atomOk ord scope use true
  | .atomCas d _ ord scope use => atomOk ord scope use true && d.isPair
  | .atomFadd _ _ ord scope use => atomOk ord scope use false
  | .atomFmin _ _ ord scope use => atomOk ord scope use false
  | .atomFmax _ _ ord scope use => atomOk ord scope use false
  | .lda _ _ scope => scopeOk scope
  | .stl _ _ scope => scopeOk scope
  | .lds _ _ scope => scopeOk scope
  | .sts _ _ scope => scopeOk scope
  | .bra _ => true
  | .brz _ _ => true
  | .brnz _ _ => true
  | .call _ => true
  | .bri a => a.isQuad
  | .calli a => a.isQuad
  | .ret => true
  | .exit => true
  | .yield => true
  | .rcvwait n => decide (n.toNat < 8)
  | .killpt => true
  | .nop => true
  | .trap _ => true
  | .rft => true
  | .rcvset _ _ => true
  | .loop _ _ => true
  | .cmov d a => d.isQuad && a.isQuad
  | .cadd d a _ => d.isQuad && a.isQuad
  | .csetb d a _ => d.isQuad && a.isQuad
  | .csetbx d a _ => d.isQuad && a.isQuad
  | .cbase d a => d.isPair && a.isQuad
  | .clen d a => d.isPair && a.isQuad
  | .ccur d a => d.isPair && a.isQuad
  | .cperm _ a => a.isQuad
  | .candp d a _ => d.isQuad && a.isQuad
  | .cseal d a b => d.isQuad && a.isQuad && b.isQuad
  | .cunseal d a b => d.isQuad && a.isQuad && b.isQuad
  | .ctag _ a => a.isQuad
  | .csetc d a _ => d.isQuad && a.isQuad
  | .cdisp d l => d.isQuad && decide (l.toNat < 8)
  | .cpyin d a _ => d.isQuad && a.isQuad
  | .cpyout d a _ => d.isQuad && a.isQuad
  | .cpycvt d a _ => d.isQuad && a.isQuad
  | .cpywait _ => true
  | .pres _ a => a.isQuad
  | .pclr a _ => a.isQuad
  | .chbind _ a _ => a.isQuad
  | .chpush _ _ => true
  | .chpop _ _ => true
  | .chpeek _ _ => true
  | .chstat _ _ => true
  | .chclose _ => true
  | .chfree _ => true
  | .barinit a _ => a.isQuad
  | .bararr _ a => a.isQuad
  | .barwait a _ => a.isQuad
  | .barsync a => a.isQuad
  | .bardrop a => a.isQuad
  | .gbar => true
  | .cvinit n _ => decide (n.toNat < 16)
  | .cvsign n => decide (n.toNat < 16)
  | .strag d a => d.isQuad && a.isQuad
  | .mx _ _ _ _ _ => true
  | .mxwait n => decide (n.toNat < 16)
  | .btake => true
  | .bpass => true
  | .mxzero _ => true
  | .launch d a => d.isQuad && a.isQuad
  | .launcha d a b => d.isQuad && a.isQuad && b.isQuad
  | .join a => a.isQuad
  | .jpoll _ a => a.isQuad
  | .nemit a _ => a.isQuad
  | .bound _ => true
  | .incrd d _ => d.isPair
  | .incimp _ a _ => a.isPair
  | .aropen d _ => d.isQuad
  | .aropenReopen d _ => d.isQuad
  | .arjoin a b => a.isQuad && b.isQuad
  | .arseal a => a.isQuad
  | .arvote a => a.isQuad
  | .arabort a => a.isQuad
  | .arstat _ a => a.isQuad
  | .srd d id => srdIdOk id && (!(id == 0x10) || d.isPair)
  | .swr id _ => swrIdOk id
  | .fence _ scope => scopeOk scope
  | .fenceop => true
  | .csum d => d.isPair
  | .halt => true
  | .dbgmark _ => true
  | .perf _ _ => true
  | .evwait d => d.isQuad
  | .qlock _ => true
  | .qunlock _ => true
  | .ctxrunRun _ a => a.isQuad
  | .ctxrunHalt _ a => a.isQuad
  | .ctxrunResume _ a => a.isQuad
  | .ctxrunSave _ a => a.isQuad
  | .ctxrunDump _ a => a.isQuad
  | .ctxrunKill _ a => a.isQuad
  | .ctxrunState _ a => a.isQuad
  | .privTlbInvalidateAll => true
  | .privTlbInvalidateAsid => true
  | .privTlbInvalidateRange => true
  | .privIdentifierEntry => true
  | .privKeyLoad => true
  | .privKeyDestroy => true
  | .privPlantBreakpoint => true
  | .privRemoveBreakpoint => true
  | .privRevokeDebug => true
  | .privEngineReset => true
  | .privDerate => true
  | .privFaultReplay => true
  | .privFaultFail => true
  | .privReadFaultRecord => true
  | .privPoolQuery => true
  | .privQueueDisable => true
  | .privQueueActivate => true
  | .privMsix => true
  | .privHandover => true
  | .rgn cnt q0 q1 q2 q3 sl => rgnOk cnt q0 q1 q2 q3 sl
  | .bkpt _ => true
  | .mxOperandWaitEnd => true
  | .mxComputeEnd => true
  | .copyAdvance => true
  | .copyComplete => true
  | .asyncTrapDelivery => true
  | .foragerDeal => true
  | .contextCompletion => true
  | .binTimerExpiry => true
  | .improvementReachesDie => true
  | .killTakesEffect => true
  | .regionInstallComplete => true
  | .regionAbortDelivery => true
  | .remoteDataReturn => true
  | .remoteAccessTimeout => true
  | .derateTakesEffect => true
  | .windowSlotAgeGrant => true
  | .shortLivedExpiry => true
  | .haltComplete => true
  | .rowEviction => true
  | .eventDelivery => true
  | .ktimerExpiry => true
  | .watchdogExpiry => true
  | .imemUncorrectableError => true
  | .queueTableError => true
  | .doorbell => true
  | .apertureAccess => true
  | .hostRegisterWrite => true
  | .leaseResetRequest => true
  | .fwstart => true
  | .powerOn => true
  | .correctedError => true
  | .uncorrectableError => true
  | .ceWindowEnd => true
  | .inputVoltageOutOfRange => true
  | .powerWindowEnd => true
  | .inletOverTemperature => true
  | .cicadaClockGate => true
  | .cicadaPowerGate => true
  | .hangReport => true
  | .linkDown => true
  | .linkRetrain => true
  | .i3cDomidWrite => true
  | .i3cLeasereq => true
  | .entdaa => true
  | .rstdaa => true
  | .setdasa => true
  | .getpid => true
  | .getbcr => true
  | .getdcr => true
  | .getstatus => true
  | .illegalInstruction => true
  | .scrubComplete => true
  | .fabricRouteLost => true
  | .fabricRouteRestored => true
  | .remoteAccessRequest => true
  | .remoteRegionMessage => true

end Sys2Proof
end

