-- ==== Sys2Proof/Decode.lean ====
section
/-!
DEFINITION. The decoder, total on every word and every list of bytes, rejecting by name; and the encoder, written from
the same tables (Tables 2.1, 2.3 and 2.4). Hint runs are decoded by `decodeRun` (R36 to R45).
-/

namespace Sys2Proof

/-- Why a word is no instruction (R34, R35, R30, R23 to R31). -/
inductive Illegal where
  /-- a major of Table 2.3 marked illegal -/
  | major
  /-- a function, aop, sub or op value not assigned (R35, R359) -/
  | function
  /-- a field of the wrong class, or an unused field that is not zero (R30) -/
  | field
  /-- a value outside its range or alignment (R23 to R31, R44, R121) -/
  | value
  /-- a hint word where an instruction stands -/
  | hint
  /-- fewer than four bytes -/
  | short
deriving DecidableEq, Repr

/-- The bits `len` wide from bit `lo` of a word read as a number (R1). -/
def bitsAt (w lo len : Nat) : Nat := w / 2 ^ lo % 2 ^ len

/-- A destination field (R30). -/
def dstOf (f : Nat) : Option Dst :=
  if f < 64 then some (.reg (BitVec.ofNat 6 f))
  else if 96 ≤ f ∧ f < 112 then some (.push (BitVec.ofNat 4 f))
  else none

/-- A source field (R30). -/
def srcOf (f : Nat) : Option Src :=
  if f < 64 then some (.reg (BitVec.ofNat 6 f))
  else if 96 ≤ f ∧ f < 112 then some (.pop (BitVec.ofNat 4 f))
  else if f < 80 then some (.peek (BitVec.ofNat 4 f))
  else none

/-- A field that must be a register or a 6-bit constant: class 0 (R30). -/
def regOf (f : Nat) : Option Reg := if f < 64 then some (BitVec.ofNat 6 f) else none

/-- A field that must name a register whose number is a multiple of 4 (R31, R359). -/
def quadRegOf (f : Nat) : Option Reg := if f < 64 ∧ f % 4 = 0 then some (BitVec.ofNat 6 f) else none

/-- A field that must name a channel with bit 5 set (R251). -/
def popOf (f : Nat) : Option Chan := if 96 ≤ f ∧ f < 112 then some (BitVec.ofNat 4 f) else none

/-- A field that must name a channel peek (R251). -/
def peekOf (f : Nat) : Option Chan := if 64 ≤ f ∧ f < 80 then some (BitVec.ofNat 4 f) else none

/-- The barrier number of rcvset: bits 25:22 zero (R34). -/
def low3Of (f : Nat) : Option (BitVec 3) := if f < 8 then some (BitVec.ofNat 3 f) else none

/-- A field the instruction does not use (R30). -/
def zeroOf (f : Nat) : Option Unit := if f = 0 then some () else none

/-- An instruction of one operand field. -/
def fmt1 {α : Type} (fa : Nat → Option α) (mk : α → Instr) (a : Nat) : Except Illegal Instr :=
  match fa a with
  | some x => .ok (mk x)
  | none => .error .field

/-- An instruction of two operand fields. -/
def fmt2 {α β : Type} (fa : Nat → Option α) (fb : Nat → Option β) (mk : α → β → Instr) (a b : Nat) :
    Except Illegal Instr :=
  match fa a, fb b with
  | some x, some y => .ok (mk x y)
  | _, _ => .error .field

/-- An instruction of three operand fields. -/
def fmt3 {α β γ : Type} (fa : Nat → Option α) (fb : Nat → Option β) (fc : Nat → Option γ) (mk : α → β → γ → Instr)
    (a b c : Nat) : Except Illegal Instr :=
  match fa a, fb b, fc c with
  | some x, some y, some z => .ok (mk x y z)
  | _, _, _ => .error .field

/-- Major 0x01, INT (Table 2.4). -/
def decInt (d a b fn : Nat) : Except Illegal Instr :=
  match fn with
  | 0 => fmt3 dstOf srcOf srcOf (fun d a b => .iadd d a b) d a b
  | 1 => fmt3 dstOf srcOf srcOf (fun d a b => .isub d a b) d a b
  | 2 => fmt3 dstOf srcOf srcOf (fun d a b => .imul d a b) d a b
  | 3 => fmt3 dstOf srcOf srcOf (fun d a b => .imulh d a b) d a b
  | 4 => fmt3 dstOf srcOf srcOf (fun d a b => .nmulh d a b) d a b
  | 5 => fmt3 regOf srcOf srcOf (fun d a b => .imad d a b) d a b
  | 6 => fmt3 dstOf srcOf srcOf (fun d a b => .imin d a b) d a b
  | 7 => fmt3 dstOf srcOf srcOf (fun d a b => .imax d a b) d a b
  | 8 => fmt3 dstOf srcOf srcOf (fun d a b => .nmin d a b) d a b
  | 9 => fmt3 dstOf srcOf srcOf (fun d a b => .nmax d a b) d a b
  | 10 => fmt3 dstOf srcOf zeroOf (fun d a _ => .iabs d a) d a b
  | 11 => fmt3 dstOf srcOf zeroOf (fun d a _ => .ineg d a) d a b
  | 12 => fmt3 dstOf srcOf srcOf (fun d a b => .and d a b) d a b
  | 13 => fmt3 dstOf srcOf srcOf (fun d a b => .or d a b) d a b
  | 14 => fmt3 dstOf srcOf srcOf (fun d a b => .xor d a b) d a b
  | 15 => fmt3 dstOf srcOf srcOf (fun d a b => .andn d a b) d a b
  | 16 => fmt3 dstOf srcOf zeroOf (fun d a _ => .not d a) d a b
  | 17 => fmt3 dstOf srcOf regOf (fun d a b => .shl d a b) d a b
  | 18 => fmt3 dstOf srcOf regOf (fun d a b => .shr d a b) d a b
  | 19 => fmt3 dstOf srcOf regOf (fun d a b => .sar d a b) d a b
  | 20 => fmt3 dstOf srcOf regOf (fun d a b => .rotl d a b) d a b
  | 21 => fmt3 dstOf srcOf zeroOf (fun d a _ => .popc d a) d a b
  | 22 => fmt3 dstOf srcOf zeroOf (fun d a _ => .clz d a) d a b
  | 23 => fmt3 dstOf srcOf zeroOf (fun d a _ => .brev d a) d a b
  | 24 => fmt3 regOf srcOf srcOf (fun d a b => .sel d a b) d a b
  | 25 => fmt3 dstOf srcOf regOf (fun d a b => .bfe d a b) d a b
  | 26 => fmt3 regOf srcOf regOf (fun d a b => .bfi d a b) d a b
  | 27 => fmt3 dstOf srcOf srcOf (fun d a b => .iadds d a b) d a b
  | 28 => fmt3 dstOf srcOf srcOf (fun d a b => .isubs d a b) d a b
  | 29 => fmt3 dstOf srcOf zeroOf (fun d a _ => .mov d a) d a b
  | _ => .error .function

/-- Major 0x02, CMP (Table 2.4). -/
def decCmp (d a b fn : Nat) : Except Illegal Instr :=
  match fn with
  | 0 => fmt3 dstOf srcOf srcOf (fun d a b => .icmpEq d a b) d a b
  | 1 => fmt3 dstOf srcOf srcOf (fun d a b => .icmpNe d a b) d a b
  | 2 => fmt3 dstOf srcOf srcOf (fun d a b => .icmpLt d a b) d a b
  | 3 => fmt3 dstOf srcOf srcOf (fun d a b => .icmpLe d a b) d a b
  | 4 => fmt3 dstOf srcOf srcOf (fun d a b => .icmpGt d a b) d a b
  | 5 => fmt3 dstOf srcOf srcOf (fun d a b => .icmpGe d a b) d a b
  | 6 => fmt3 dstOf srcOf srcOf (fun d a b => .icmpLtn d a b) d a b
  | 7 => fmt3 dstOf srcOf srcOf (fun d a b => .icmpLen d a b) d a b
  | 8 => fmt3 dstOf srcOf srcOf (fun d a b => .icmpGtn d a b) d a b
  | 9 => fmt3 dstOf srcOf srcOf (fun d a b => .icmpGen d a b) d a b
  | 10 => fmt3 dstOf srcOf srcOf (fun d a b => .fcmpEq d a b) d a b
  | 11 => fmt3 dstOf srcOf srcOf (fun d a b => .fcmpNe d a b) d a b
  | 12 => fmt3 dstOf srcOf srcOf (fun d a b => .fcmpLt d a b) d a b
  | 13 => fmt3 dstOf srcOf srcOf (fun d a b => .fcmpLe d a b) d a b
  | 14 => fmt3 dstOf srcOf srcOf (fun d a b => .fcmpGt d a b) d a b
  | 15 => fmt3 dstOf srcOf srcOf (fun d a b => .fcmpGe d a b) d a b
  | 16 => fmt3 dstOf srcOf srcOf (fun d a b => .fcmpUn d a b) d a b
  | _ => .error .function

/-- Major 0x03, FLT (Table 2.4). -/
def decFlt (d a b fn : Nat) : Except Illegal Instr :=
  match fn with
  | 0 => fmt3 dstOf srcOf srcOf (fun d a b => .fadd d a b) d a b
  | 1 => fmt3 dstOf srcOf srcOf (fun d a b => .fsub d a b) d a b
  | 2 => fmt3 dstOf srcOf srcOf (fun d a b => .fmul d a b) d a b
  | 3 => fmt3 regOf srcOf srcOf (fun d a b => .ffma d a b) d a b
  | 4 => fmt3 dstOf srcOf srcOf (fun d a b => .fmin d a b) d a b
  | 5 => fmt3 dstOf srcOf srcOf (fun d a b => .fmax d a b) d a b
  | 6 => fmt3 dstOf srcOf zeroOf (fun d a _ => .fabs d a) d a b
  | 7 => fmt3 dstOf srcOf zeroOf (fun d a _ => .fneg d a) d a b
  | 8 => fmt3 dstOf srcOf srcOf (fun d a b => .fsgn d a b) d a b
  | 9 => fmt3 dstOf srcOf zeroOf (fun d a _ => .frcp d a) d a b
  | 10 => fmt3 dstOf srcOf zeroOf (fun d a _ => .frsq d a) d a b
  | 11 => fmt3 dstOf srcOf zeroOf (fun d a _ => .fsqrt d a) d a b
  | 12 => fmt3 dstOf srcOf zeroOf (fun d a _ => .fexp2 d a) d a b
  | 13 => fmt3 dstOf srcOf zeroOf (fun d a _ => .flog2 d a) d a b
  | 14 => fmt3 dstOf srcOf zeroOf (fun d a _ => .fsin d a) d a b
  | 15 => fmt3 dstOf srcOf zeroOf (fun d a _ => .fcos d a) d a b
  | 16 => fmt3 dstOf srcOf zeroOf (fun d a _ => .ftanh d a) d a b
  | 17 => fmt3 dstOf srcOf zeroOf (fun d a _ => .ffloor d a) d a b
  | 18 => fmt3 dstOf srcOf zeroOf (fun d a _ => .fceil d a) d a b
  | 19 => fmt3 dstOf srcOf zeroOf (fun d a _ => .ftrunc d a) d a b
  | 20 => fmt3 dstOf srcOf zeroOf (fun d a _ => .frint d a) d a b
  | 21 => fmt3 dstOf srcOf zeroOf (fun d a _ => .fclass d a) d a b
  | 22 => fmt3 dstOf srcOf regOf (fun d a b => .fscale d a b) d a b
  | 23 => fmt3 regOf srcOf srcOf (fun d a b => .ffms d a b) d a b
  | _ => .error .function

/-- Major 0x04, CVT (Table 2.4). -/
def decCvt (d a b fn : Nat) : Except Illegal Instr :=
  match fn with
  | 0 => fmt3 dstOf srcOf zeroOf (fun d a _ => .cvtF32I32 d a) d a b
  | 1 => fmt3 dstOf srcOf zeroOf (fun d a _ => .cvtF32N32 d a) d a b
  | 2 => fmt3 dstOf srcOf zeroOf (fun d a _ => .cvtI32F32 d a) d a b
  | 3 => fmt3 dstOf srcOf zeroOf (fun d a _ => .cvtN32F32 d a) d a b
  | 4 => fmt3 dstOf srcOf zeroOf (fun d a _ => .cvtI32F32Rn d a) d a b
  | 5 => fmt3 dstOf srcOf zeroOf (fun d a _ => .cvtF16F32 d a) d a b
  | 6 => fmt3 dstOf srcOf zeroOf (fun d a _ => .cvtF32F16 d a) d a b
  | 7 => fmt3 dstOf srcOf zeroOf (fun d a _ => .cvtE8m7F32 d a) d a b
  | 8 => fmt3 dstOf srcOf zeroOf (fun d a _ => .cvtF32E8m7 d a) d a b
  | 9 => fmt3 dstOf srcOf srcOf (fun d a b => .packF16 d a b) d a b
  | 10 => fmt3 dstOf srcOf srcOf (fun d a b => .packE8m7 d a b) d a b
  | 11 => fmt3 dstOf srcOf zeroOf (fun d a _ => .sext8 d a) d a b
  | 12 => fmt3 dstOf srcOf zeroOf (fun d a _ => .sext16 d a) d a b
  | 13 => fmt3 dstOf srcOf zeroOf (fun d a _ => .zext8 d a) d a b
  | 14 => fmt3 dstOf srcOf zeroOf (fun d a _ => .zext16 d a) d a b
  | _ => .error .function

/-- Major 0x05, PK16 (Table 2.4). -/
def decPk16 (d a b fn : Nat) : Except Illegal Instr :=
  match fn with
  | 0 => fmt3 dstOf srcOf srcOf (fun d a b => .haddF16 d a b) d a b
  | 1 => fmt3 dstOf srcOf srcOf (fun d a b => .hmulF16 d a b) d a b
  | 2 => fmt3 regOf srcOf srcOf (fun d a b => .hfmaF16 d a b) d a b
  | 3 => fmt3 dstOf srcOf srcOf (fun d a b => .hminF16 d a b) d a b
  | 4 => fmt3 dstOf srcOf srcOf (fun d a b => .hmaxF16 d a b) d a b
  | 5 => fmt3 regOf srcOf srcOf (fun d a b => .hdotF16 d a b) d a b
  | 6 => fmt3 dstOf srcOf srcOf (fun d a b => .haddE8m7 d a b) d a b
  | 7 => fmt3 dstOf srcOf srcOf (fun d a b => .hmulE8m7 d a b) d a b
  | 8 => fmt3 regOf srcOf srcOf (fun d a b => .hfmaE8m7 d a b) d a b
  | 9 => fmt3 dstOf srcOf srcOf (fun d a b => .hminE8m7 d a b) d a b
  | 10 => fmt3 dstOf srcOf srcOf (fun d a b => .hmaxE8m7 d a b) d a b
  | 11 => fmt3 regOf srcOf srcOf (fun d a b => .hdotE8m7 d a b) d a b
  | _ => .error .function

/-- Major 0x06, XCH (Table 2.4). -/
def decXch (d a b fn : Nat) : Except Illegal Instr :=
  match fn with
  | 0 => fmt3 dstOf srcOf zeroOf (fun d a _ => .qswpH d a) d a b
  | 1 => fmt3 dstOf srcOf zeroOf (fun d a _ => .qswpV d a) d a b
  | 2 => fmt3 dstOf srcOf zeroOf (fun d a _ => .qswpD d a) d a b
  | 3 => fmt3 dstOf srcOf zeroOf (fun d a _ => .qbc d a) d a b
  | 4 => fmt3 dstOf srcOf regOf (fun d a b => .shflIdx d a b) d a b
  | 5 => fmt3 dstOf srcOf regOf (fun d a b => .shflUp d a b) d a b
  | 6 => fmt3 dstOf srcOf regOf (fun d a b => .shflDn d a b) d a b
  | 7 => fmt3 dstOf srcOf regOf (fun d a b => .shflXor d a b) d a b
  | 8 => fmt3 dstOf regOf zeroOf (fun d a _ => .voteAny d a) d a b
  | 9 => fmt3 dstOf regOf zeroOf (fun d a _ => .voteAll d a) d a b
  | 10 => fmt3 regOf regOf zeroOf (fun d a _ => .voteMask d a) d a b
  | 11 => fmt3 dstOf regOf zeroOf (fun d a _ => .voteEq d a) d a b
  | 12 => fmt3 dstOf srcOf zeroOf (fun d a _ => .redIadd d a) d a b
  | 13 => fmt3 dstOf srcOf zeroOf (fun d a _ => .redImin d a) d a b
  | 14 => fmt3 dstOf srcOf zeroOf (fun d a _ => .redImax d a) d a b
  | 15 => fmt3 dstOf srcOf zeroOf (fun d a _ => .redFadd d a) d a b
  | 16 => fmt3 dstOf srcOf zeroOf (fun d a _ => .redFmin d a) d a b
  | 17 => fmt3 dstOf srcOf zeroOf (fun d a _ => .redFmax d a) d a b
  | 18 => fmt3 dstOf srcOf zeroOf (fun d a _ => .matchLane d a) d a b
  | _ => .error .function

/-- Major 0x27, CTL (Table 2.4). -/
def decCtl (d a b fn : Nat) : Except Illegal Instr :=
  match fn with
  | 0 => fmt3 zeroOf regOf zeroOf (fun _ a _ => .bri a) d a b
  | 1 => fmt3 zeroOf regOf zeroOf (fun _ a _ => .calli a) d a b
  | 2 => fmt3 zeroOf zeroOf zeroOf (fun _ _ _ => .ret) d a b
  | 3 => fmt3 zeroOf zeroOf zeroOf (fun _ _ _ => .exit) d a b
  | 4 => fmt3 zeroOf zeroOf zeroOf (fun _ _ _ => .yield) d a b
  | 5 => fmt3 zeroOf regOf zeroOf (fun _ n _ => .rcvwait n) d a b
  | 6 => fmt3 zeroOf zeroOf zeroOf (fun _ _ _ => .killpt) d a b
  | 7 => fmt3 zeroOf zeroOf zeroOf (fun _ _ _ => .nop) d a b
  | 8 => fmt3 zeroOf regOf zeroOf (fun _ code _ => .trap code) d a b
  | 9 => fmt3 zeroOf zeroOf zeroOf (fun _ _ _ => .rft) d a b
  | _ => .error .function

/-- Major 0x2A, CAP (Table 2.4). -/
def decCap (d a b fn : Nat) : Except Illegal Instr :=
  match fn with
  | 0 => fmt3 regOf regOf zeroOf (fun d a _ => .cmov d a) d a b
  | 1 => fmt3 regOf regOf regOf (fun d a b => .cadd d a b) d a b
  | 2 => fmt3 regOf regOf regOf (fun d a b => .csetb d a b) d a b
  | 3 => fmt3 regOf regOf regOf (fun d a b => .csetbx d a b) d a b
  | 4 => fmt3 regOf regOf zeroOf (fun d a _ => .cbase d a) d a b
  | 5 => fmt3 regOf regOf zeroOf (fun d a _ => .clen d a) d a b
  | 6 => fmt3 regOf regOf zeroOf (fun d a _ => .ccur d a) d a b
  | 7 => fmt3 regOf regOf zeroOf (fun d a _ => .cperm d a) d a b
  | 8 => fmt3 regOf regOf regOf (fun d a b => .candp d a b) d a b
  | 9 => fmt3 regOf regOf regOf (fun d a b => .cseal d a b) d a b
  | 10 => fmt3 regOf regOf regOf (fun d a b => .cunseal d a b) d a b
  | 11 => fmt3 regOf regOf zeroOf (fun d a _ => .ctag d a) d a b
  | 12 => fmt3 regOf regOf regOf (fun d a b => .csetc d a b) d a b
  | 13 => fmt3 regOf regOf zeroOf (fun d l _ => .cdisp d l) d a b
  | _ => .error .function

/-- Major 0x2B, COPY (Table 2.4). -/
def decCopy (d a b fn : Nat) : Except Illegal Instr :=
  match fn with
  | 0 => fmt3 regOf regOf regOf (fun d a b => .cpyin d a b) d a b
  | 1 => fmt3 regOf regOf regOf (fun d a b => .cpyout d a b) d a b
  | 2 => fmt3 regOf regOf regOf (fun d a b => .cpycvt d a b) d a b
  | 3 => fmt3 zeroOf regOf zeroOf (fun _ a _ => .cpywait a) d a b
  | 4 => fmt3 dstOf regOf zeroOf (fun d a _ => .pres d a) d a b
  | 5 => fmt3 zeroOf regOf regOf (fun _ a b => .pclr a b) d a b
  | _ => .error .function

/-- Major 0x2C, CHAN (Table 2.4). -/
def decChan (d a b fn : Nat) : Except Illegal Instr :=
  match fn with
  | 0 => fmt3 popOf regOf regOf (fun n a b => .chbind n a b) d a b
  | 1 => fmt3 popOf srcOf zeroOf (fun n a _ => .chpush n a) d a b
  | 2 => fmt3 dstOf popOf zeroOf (fun d n _ => .chpop d n) d a b
  | 3 => fmt3 dstOf peekOf zeroOf (fun d n _ => .chpeek d n) d a b
  | 4 => fmt3 regOf popOf zeroOf (fun d n _ => .chstat d n) d a b
  | 5 => fmt3 popOf zeroOf zeroOf (fun n _ _ => .chclose n) d a b
  | 6 => fmt3 popOf zeroOf zeroOf (fun n _ _ => .chfree n) d a b
  | _ => .error .function

/-- Major 0x2D, SYNC (Table 2.4). -/
def decSync (d a b fn : Nat) : Except Illegal Instr :=
  match fn with
  | 0 => fmt3 zeroOf regOf regOf (fun _ a b => .barinit a b) d a b
  | 1 => fmt3 dstOf regOf zeroOf (fun d a _ => .bararr d a) d a b
  | 2 => fmt3 zeroOf regOf srcOf (fun _ a b => .barwait a b) d a b
  | 3 => fmt3 zeroOf regOf zeroOf (fun _ a _ => .barsync a) d a b
  | 4 => fmt3 zeroOf regOf zeroOf (fun _ a _ => .bardrop a) d a b
  | 5 => fmt3 zeroOf zeroOf zeroOf (fun _ _ _ => .gbar) d a b
  | 6 => fmt3 regOf regOf zeroOf (fun n a _ => .cvinit n a) d a b
  | 7 => fmt3 regOf zeroOf zeroOf (fun n _ _ => .cvsign n) d a b
  | 8 => fmt3 regOf regOf zeroOf (fun d a _ => .strag d a) d a b
  | _ => .error .function

/-- Major 0x2F, MXA (Table 2.4). -/
def decMxa (d a b fn : Nat) : Except Illegal Instr :=
  match fn with
  | 0 => fmt3 zeroOf regOf zeroOf (fun _ n _ => .mxwait n) d a b
  | 1 => fmt3 zeroOf zeroOf zeroOf (fun _ _ _ => .btake) d a b
  | 2 => fmt3 zeroOf zeroOf zeroOf (fun _ _ _ => .bpass) d a b
  | 3 => fmt3 regOf zeroOf zeroOf (fun d _ _ => .mxzero d) d a b
  | _ => .error .function

/-- Major 0x30, LNCH (Table 2.4). -/
def decLnch (d a b fn : Nat) : Except Illegal Instr :=
  match fn with
  | 0 => fmt3 regOf regOf zeroOf (fun d a _ => .launch d a) d a b
  | 1 => fmt3 regOf regOf regOf (fun d a b => .launcha d a b) d a b
  | 2 => fmt3 zeroOf regOf zeroOf (fun _ a _ => .join a) d a b
  | 3 => fmt3 dstOf regOf zeroOf (fun d a _ => .jpoll d a) d a b
  | _ => .error .function

/-- Major 0x31, TASK (Table 2.4). -/
def decTask (d a b fn : Nat) : Except Illegal Instr :=
  match fn with
  | 0 => fmt3 zeroOf regOf regOf (fun _ a b => .nemit a b) d a b
  | 1 => fmt3 zeroOf regOf zeroOf (fun _ a _ => .bound a) d a b
  | 2 => fmt3 regOf regOf zeroOf (fun d a _ => .incrd d a) d a b
  | 3 => fmt3 regOf regOf regOf (fun d a b => .incimp d a b) d a b
  | _ => .error .function

/-- Major 0x32, REGN (Table 2.4). -/
def decRegn (d a b fn : Nat) : Except Illegal Instr :=
  match fn with
  | 0 => fmt3 regOf regOf zeroOf (fun d a _ => .aropen d a) d a b
  | 1 => fmt3 zeroOf regOf regOf (fun _ a b => .arjoin a b) d a b
  | 2 => fmt3 zeroOf regOf zeroOf (fun _ a _ => .arseal a) d a b
  | 3 => fmt3 zeroOf regOf zeroOf (fun _ a _ => .arvote a) d a b
  | 4 => fmt3 zeroOf regOf zeroOf (fun _ a _ => .arabort a) d a b
  | 5 => fmt3 regOf regOf zeroOf (fun d a _ => .arstat d a) d a b
  | _ => .error .function

/-- Major 0x21, atom (Table 2.4, R26). -/
def decAtom (d c aop ord scope use low3 : Nat) : Except Illegal Instr :=
  match aop with
  | 0 => fmt2 regOf zeroOf (fun d _ => .atomAdd d (BitVec.ofNat 4 c) (BitVec.ofNat 2 ord) (BitVec.ofNat 3 scope) (BitVec.ofNat 3 use)) d low3
  | 1 => fmt2 regOf zeroOf (fun d _ => .atomAnd d (BitVec.ofNat 4 c) (BitVec.ofNat 2 ord) (BitVec.ofNat 3 scope) (BitVec.ofNat 3 use)) d low3
  | 2 => fmt2 regOf zeroOf (fun d _ => .atomOr d (BitVec.ofNat 4 c) (BitVec.ofNat 2 ord) (BitVec.ofNat 3 scope) (BitVec.ofNat 3 use)) d low3
  | 3 => fmt2 regOf zeroOf (fun d _ => .atomXor d (BitVec.ofNat 4 c) (BitVec.ofNat 2 ord) (BitVec.ofNat 3 scope) (BitVec.ofNat 3 use)) d low3
  | 4 => fmt2 regOf zeroOf (fun d _ => .atomMin d (BitVec.ofNat 4 c) (BitVec.ofNat 2 ord) (BitVec.ofNat 3 scope) (BitVec.ofNat 3 use)) d low3
  | 5 => fmt2 regOf zeroOf (fun d _ => .atomMax d (BitVec.ofNat 4 c) (BitVec.ofNat 2 ord) (BitVec.ofNat 3 scope) (BitVec.ofNat 3 use)) d low3
  | 6 => fmt2 regOf zeroOf (fun d _ => .atomNmin d (BitVec.ofNat 4 c) (BitVec.ofNat 2 ord) (BitVec.ofNat 3 scope) (BitVec.ofNat 3 use)) d low3
  | 7 => fmt2 regOf zeroOf (fun d _ => .atomNmax d (BitVec.ofNat 4 c) (BitVec.ofNat 2 ord) (BitVec.ofNat 3 scope) (BitVec.ofNat 3 use)) d low3
  | 8 => fmt2 regOf zeroOf (fun d _ => .atomSwap d (BitVec.ofNat 4 c) (BitVec.ofNat 2 ord) (BitVec.ofNat 3 scope) (BitVec.ofNat 3 use)) d low3
  | 9 => fmt2 regOf zeroOf (fun d _ => .atomCas d (BitVec.ofNat 4 c) (BitVec.ofNat 2 ord) (BitVec.ofNat 3 scope) (BitVec.ofNat 3 use)) d low3
  | 10 => fmt2 regOf zeroOf (fun d _ => .atomFadd d (BitVec.ofNat 4 c) (BitVec.ofNat 2 ord) (BitVec.ofNat 3 scope) (BitVec.ofNat 3 use)) d low3
  | 11 => fmt2 regOf zeroOf (fun d _ => .atomFmin d (BitVec.ofNat 4 c) (BitVec.ofNat 2 ord) (BitVec.ofNat 3 scope) (BitVec.ofNat 3 use)) d low3
  | 12 => fmt2 regOf zeroOf (fun d _ => .atomFmax d (BitVec.ofNat 4 c) (BitVec.ofNat 2 ord) (BitVec.ofNat 3 scope) (BitVec.ofNat 3 use)) d low3
  | _ => .error .function

/-- Major 0x22, ordm (Table 2.4, R26): ord and use are zero. -/
def decOrdm (d c aop ord scope use low3 : Nat) : Except Illegal Instr :=
  match aop with
  | 0 => fmt3 dstOf zeroOf zeroOf (fun d _ _ => .lda d (BitVec.ofNat 4 c) (BitVec.ofNat 3 scope)) d (ord + use) low3
  | 1 => fmt3 srcOf zeroOf zeroOf (fun d _ _ => .stl d (BitVec.ofNat 4 c) (BitVec.ofNat 3 scope)) d (ord + use) low3
  | 2 => fmt3 dstOf zeroOf zeroOf (fun d _ _ => .lds d (BitVec.ofNat 4 c) (BitVec.ofNat 3 scope)) d (ord + use) low3
  | 3 => fmt3 srcOf zeroOf zeroOf (fun d _ _ => .sts d (BitVec.ofNat 4 c) (BitVec.ofNat 3 scope)) d (ord + use) low3
  | _ => .error .function

/-- SYS sub 14, ctxrun (R361): the op stands in the id field. -/
def decCtxrun (d a id : Nat) : Except Illegal Instr :=
  match id with
  | 0 => fmt2 regOf regOf (fun d a => .ctxrunRun d a) d a
  | 1 => fmt2 regOf regOf (fun d a => .ctxrunHalt d a) d a
  | 2 => fmt2 regOf regOf (fun d a => .ctxrunResume d a) d a
  | 3 => fmt2 regOf regOf (fun d a => .ctxrunSave d a) d a
  | 4 => fmt2 regOf regOf (fun d a => .ctxrunDump d a) d a
  | 5 => fmt2 regOf regOf (fun d a => .ctxrunKill d a) d a
  | 6 => fmt2 regOf regOf (fun d a => .ctxrunState d a) d a
  | _ => .error .function

/-- SYS sub 15, priv (R362): the op stands in the id field. -/
def decPriv (d a id : Nat) : Except Illegal Instr :=
  match id with
  | 0 => fmt2 regOf quadRegOf (fun _ _ => .privTlbInvalidateAll) d a
  | 1 => fmt2 regOf quadRegOf (fun _ _ => .privIdentifierEntry) d a
  | 2 => fmt2 regOf quadRegOf (fun _ _ => .privKeyLoad) d a
  | 3 => fmt2 regOf quadRegOf (fun _ _ => .privPlantBreakpoint) d a
  | 4 => fmt2 regOf quadRegOf (fun _ _ => .privRemoveBreakpoint) d a
  | 5 => fmt2 regOf quadRegOf (fun _ _ => .privRevokeDebug) d a
  | 6 => fmt2 regOf quadRegOf (fun _ _ => .privEngineReset) d a
  | 7 => fmt2 regOf quadRegOf (fun _ _ => .privDerate) d a
  | 8 => fmt2 regOf quadRegOf (fun _ _ => .privFaultReplay) d a
  | 9 => fmt2 regOf quadRegOf (fun _ _ => .privReadFaultRecord) d a
  | 10 => fmt2 regOf quadRegOf (fun _ _ => .privPoolQuery) d a
  | 11 => fmt2 regOf quadRegOf (fun _ _ => .privQueueDisable) d a
  | 12 => fmt2 regOf quadRegOf (fun _ _ => .privMsix) d a
  | 13 => fmt2 regOf quadRegOf (fun _ _ => .privHandover) d a
  | _ => .error .function

/-- Major 0x33, SYS (Table 2.4, R29). -/
def decSys (d a sub id : Nat) : Except Illegal Instr :=
  match sub with
  | 0 => fmt2 dstOf zeroOf (fun d _ => .srd d (BitVec.ofNat 8 id)) d a
  | 1 => fmt2 zeroOf srcOf (fun _ a => .swr (BitVec.ofNat 8 id) a) d a
  | 2 => fmt3 zeroOf zeroOf zeroOf (fun _ _ _ => .fence (BitVec.ofNat 2 (id / 8)) (BitVec.ofNat 3 id)) d a (id / 32)
  | 3 => fmt3 zeroOf zeroOf zeroOf (fun _ _ _ => .fenceop) d a id
  | 4 => fmt3 regOf zeroOf zeroOf (fun d _ _ => .csum d) d a id
  | 5 => fmt3 zeroOf zeroOf zeroOf (fun _ _ _ => .halt) d a id
  | 6 => fmt2 zeroOf zeroOf (fun _ _ => .dbgmark (BitVec.ofNat 8 id)) d a
  | 7 => fmt2 dstOf zeroOf (fun d _ => .perf d (BitVec.ofNat 8 id)) d a
  | 11 => fmt3 regOf zeroOf zeroOf (fun d _ _ => .evwait d) d a id
  | 12 => fmt3 zeroOf regOf zeroOf (fun _ a _ => .qlock a) d a id
  | 13 => fmt3 zeroOf regOf zeroOf (fun _ a _ => .qunlock a) d a id
  | 14 => decCtxrun d a id
  | 15 => decPriv d a id
  | _ => .error .function

/-- A word of a major (Tables 2.1 and 2.3), before the limits of `wf`. -/
def decodeMajor (major w : Nat) : Except Illegal Instr :=
  let d := bitsAt w 19 7
  let a := bitsAt w 12 7
  let b := bitsAt w 5 7
  let fn := bitsAt w 0 5
  let c := bitsAt w 15 4
  let imm12 := bitsAt w 0 12
  let imm15 := bitsAt w 0 15
  match major with
  | 0x01 => decInt d a b fn
  | 0x02 => decCmp d a b fn
  | 0x03 => decFlt d a b fn
  | 0x04 => decCvt d a b fn
  | 0x05 => decPk16 d a b fn
  | 0x06 => decXch d a b fn
  | 0x08 => fmt2 dstOf srcOf (fun d a => .iaddi d a (BitVec.ofNat 12 imm12)) d a
  | 0x09 => fmt2 dstOf srcOf (fun d a => .andi d a (BitVec.ofNat 12 imm12)) d a
  | 0x0A => fmt2 dstOf srcOf (fun d a => .ori d a (BitVec.ofNat 12 imm12)) d a
  | 0x0B => fmt2 dstOf srcOf (fun d a => .xori d a (BitVec.ofNat 12 imm12)) d a
  | 0x0C => fmt2 dstOf srcOf (fun d a => .shli d a (BitVec.ofNat 12 imm12)) d a
  | 0x0D => fmt2 dstOf srcOf (fun d a => .shri d a (BitVec.ofNat 12 imm12)) d a
  | 0x0E => fmt2 dstOf srcOf (fun d a => .sari d a (BitVec.ofNat 12 imm12)) d a
  | 0x0F => fmt2 dstOf zeroOf (fun d _ => .movi d (BitVec.ofNat 12 imm12)) d a
  | 0x10 => fmt2 dstOf srcOf (fun d a => .imuli d a (BitVec.ofNat 12 imm12)) d a
  | 0x11 => fmt1 dstOf (fun d => .ldb d (BitVec.ofNat 4 c) (BitVec.ofNat 15 imm15)) d
  | 0x12 => fmt1 dstOf (fun d => .ldbn d (BitVec.ofNat 4 c) (BitVec.ofNat 15 imm15)) d
  | 0x13 => fmt1 dstOf (fun d => .ldh d (BitVec.ofNat 4 c) (BitVec.ofNat 15 imm15)) d
  | 0x14 => fmt1 dstOf (fun d => .ldhn d (BitVec.ofNat 4 c) (BitVec.ofNat 15 imm15)) d
  | 0x15 => fmt1 dstOf (fun d => .ldw d (BitVec.ofNat 4 c) (BitVec.ofNat 15 imm15)) d
  | 0x16 => fmt1 regOf (fun d => .ldd d (BitVec.ofNat 4 c) (BitVec.ofNat 15 imm15)) d
  | 0x17 => fmt1 regOf (fun d => .ldq d (BitVec.ofNat 4 c) (BitVec.ofNat 15 imm15)) d
  | 0x18 => fmt1 regOf (fun d => .ldc d (BitVec.ofNat 4 c) (BitVec.ofNat 15 imm15)) d
  | 0x19 => fmt1 srcOf (fun d => .stb d (BitVec.ofNat 4 c) (BitVec.ofNat 15 imm15)) d
  | 0x1A => fmt1 srcOf (fun d => .sth d (BitVec.ofNat 4 c) (BitVec.ofNat 15 imm15)) d
  | 0x1B => fmt1 srcOf (fun d => .stw d (BitVec.ofNat 4 c) (BitVec.ofNat 15 imm15)) d
  | 0x1C => fmt1 regOf (fun d => .std d (BitVec.ofNat 4 c) (BitVec.ofNat 15 imm15)) d
  | 0x1D => fmt1 regOf (fun d => .stq d (BitVec.ofNat 4 c) (BitVec.ofNat 15 imm15)) d
  | 0x1E => fmt1 regOf (fun d => .stc d (BitVec.ofNat 4 c) (BitVec.ofNat 15 imm15)) d
  | 0x1F => fmt1 dstOf (fun d => .fld d (BitVec.ofNat 3 (bitsAt w 16 3)) (decide (bitsAt w 15 1 = 1)) (BitVec.ofNat 15 imm15)) d
  | 0x20 => fmt1 srcOf (fun d => .fst d (BitVec.ofNat 3 (bitsAt w 16 3)) (decide (bitsAt w 15 1 = 1)) (BitVec.ofNat 15 imm15)) d
  | 0x21 => decAtom d c (bitsAt w 11 4) (bitsAt w 9 2) (bitsAt w 6 3) (bitsAt w 3 3) (bitsAt w 0 3)
  | 0x22 => decOrdm d c (bitsAt w 11 4) (bitsAt w 9 2) (bitsAt w 6 3) (bitsAt w 3 3) (bitsAt w 0 3)
  | 0x23 => .ok (.bra (BitVec.ofNat 26 (bitsAt w 0 26)))
  | 0x24 => fmt1 regOf (fun a => .brz a (BitVec.ofNat 19 (bitsAt w 0 19))) d
  | 0x25 => fmt1 regOf (fun a => .brnz a (BitVec.ofNat 19 (bitsAt w 0 19))) d
  | 0x26 => .ok (.call (BitVec.ofNat 26 (bitsAt w 0 26)))
  | 0x27 => decCtl d a b fn
  | 0x28 => fmt2 low3Of zeroOf (fun b _ => .rcvset b (BitVec.ofNat 12 imm12)) d a
  | 0x29 => fmt3 regOf regOf zeroOf (fun d len _ => .loop d len) d a imm12
  | 0x2A => decCap d a b fn
  | 0x2B => decCopy d a b fn
  | 0x2C => decChan d a b fn
  | 0x2D => decSync d a b fn
  | 0x2E => fmt2 regOf regOf (fun d f => .mx d f (BitVec.ofNat 4 (bitsAt w 8 4)) (BitVec.ofNat 4 (bitsAt w 4 4)) (BitVec.ofNat 4 (bitsAt w 0 4))) d a
  | 0x2F => decMxa d a b fn
  | 0x30 => decLnch d a b fn
  | 0x31 => decTask d a b fn
  | 0x32 => decRegn d a b fn
  | 0x33 => decSys d a (bitsAt w 8 4) (bitsAt w 0 8)
  | 0x34 => fmt1 zeroOf (fun _ => .rgn (BitVec.ofNat 2 (bitsAt w 24 2)) (BitVec.ofNat 4 (bitsAt w 20 4)) (BitVec.ofNat 4 (bitsAt w 16 4)) (BitVec.ofNat 4 (bitsAt w 12 4)) (BitVec.ofNat 4 (bitsAt w 8 4)) (BitVec.ofNat 4 (bitsAt w 4 4))) (bitsAt w 0 4)
  | 0x3E => .ok (.bkpt (BitVec.ofNat 26 (bitsAt w 0 26)))
  | 0x3F => .error .hint
  | _ => .error .major

/-- A word by its major, bits 31:26. -/
def decodeRaw (w : Nat) : Except Illegal Instr := decodeMajor (bitsAt w 26 6) w

/-- Decode one word that is no hint: its major, its fields, then every limit on their values. -/
def decodeWord (w : Word) : Except Illegal Instr :=
  match decodeRaw w.toNat with
  | .ok i => if wf i then .ok i else .error .value
  | .error e => .error e

/-- The word stored at the head of a list of bytes, little-endian (R1, R19). -/
def wordOfBytes : List Byte → Option Word
  | b0 :: b1 :: b2 :: b3 :: _ => some (BitVec.ofNat 32 (b0.toNat + 256 * (b1.toNat + 256 * (b2.toNat + 256 * b3.toNat))))
  | _ => none

/-- The four bytes of a word, the lowest address first (R1). -/
def bytesOfWord (w : Word) : List Byte :=
  [w.setWidth 8, (w >>> 8).setWidth 8, (w >>> 16).setWidth 8, (w >>> 24).setWidth 8]

/-- Decode the instruction at the head of a list of bytes, and what follows it. -/
def decodeBytes (bs : List Byte) : Except Illegal (Instr × List Byte) :=
  match wordOfBytes bs with
  | none => .error .short
  | some w =>
    match decodeWord w with
    | .ok i => .ok (i, bs.drop 4)
    | .error e => .error e

/-- The instruction this decoder reads from a row's bits, laid out as memory holds them. -/
def decodeTableWord (nbits w : Nat) : Option Instr :=
  match decodeBytes (bytesOfWord (BitVec.ofNat 32 (w % 2 ^ min nbits 32))) with
  | .ok (i, _) => some i
  | .error _ => none

/-! ### Hint runs (R36 to R45), loop bodies (R127, R128) and the two kinds of core (R44, R355, R356) -/

/-- The major of a word. -/
def majorOf (w : Word) : Nat := bitsAt w.toNat 26 6

/-- A hint word (R36). -/
def isHint (w : Word) : Bool := majorOf w == 0x3F

/-- The kind of a hint word (Table 2.5). -/
def hintKind (w : Word) : Nat := bitsAt w.toNat 22 4

/-- The payload of a hint word. -/
def hintPayload (w : Word) : BitVec 22 := w.setWidth 22

/-- How many registers the fields D, A and B name: 0 where a field is no register operand (R30, R31, R38). -/
structure Uses where
  d : Nat
  a : Nat
  b : Nat
deriving DecidableEq, Repr

/-- The registers the fields of format R name, by major and fn. -/
def usesR (major fn : Nat) : Uses :=
  match major with
  | 0x01 => ⟨1, 1, if fn = 10 ∨ fn = 11 ∨ fn = 16 ∨ (21 ≤ fn ∧ fn ≤ 23) ∨ fn = 29 then 0 else 1⟩
  | 0x02 => ⟨1, 1, 1⟩
  | 0x03 => ⟨1, 1, if fn = 6 ∨ fn = 7 ∨ (9 ≤ fn ∧ fn ≤ 21) then 0 else 1⟩
  | 0x04 => ⟨1, 1, if fn = 9 ∨ fn = 10 then 1 else 0⟩
  | 0x05 => ⟨1, 1, 1⟩
  | 0x06 => ⟨if fn = 10 then 2 else 1, 1, if 4 ≤ fn ∧ fn ≤ 7 then 1 else 0⟩
  | 0x27 => ⟨0, if fn < 2 then 4 else 0, 0⟩
  | 0x2A =>
    match fn with
    | 0 => ⟨4, 4, 0⟩
    | 4 => ⟨2, 4, 0⟩
    | 5 => ⟨2, 4, 0⟩
    | 6 => ⟨2, 4, 0⟩
    | 7 => ⟨1, 4, 0⟩
    | 9 => ⟨4, 4, 4⟩
    | 10 => ⟨4, 4, 4⟩
    | 11 => ⟨1, 4, 0⟩
    | 13 => ⟨4, 0, 0⟩
    | _ => ⟨4, 4, 1⟩
  | 0x2B =>
    match fn with
    | 3 => ⟨0, 1, 0⟩
    | 4 => ⟨1, 4, 0⟩
    | 5 => ⟨0, 4, 1⟩
    | _ => ⟨4, 4, 1⟩
  | 0x2C =>
    match fn with
    | 0 => ⟨0, 4, 1⟩
    | 1 => ⟨0, 1, 0⟩
    | 2 => ⟨1, 0, 0⟩
    | 3 => ⟨1, 0, 0⟩
    | 4 => ⟨1, 0, 0⟩
    | _ => ⟨0, 0, 0⟩
  | 0x2D =>
    match fn with
    | 0 => ⟨0, 4, 1⟩
    | 1 => ⟨1, 4, 0⟩
    | 2 => ⟨0, 4, 1⟩
    | 3 => ⟨0, 4, 0⟩
    | 4 => ⟨0, 4, 0⟩
    | 6 => ⟨0, 1, 0⟩
    | 8 => ⟨4, 4, 0⟩
    | _ => ⟨0, 0, 0⟩
  | 0x2F => ⟨if fn = 3 then 1 else 0, 0, 0⟩
  | 0x30 =>
    match fn with
    | 0 => ⟨4, 4, 0⟩
    | 1 => ⟨4, 4, 4⟩
    | 2 => ⟨0, 4, 0⟩
    | _ => ⟨1, 4, 0⟩
  | 0x31 =>
    match fn with
    | 0 => ⟨0, 4, 1⟩
    | 1 => ⟨0, 1, 0⟩
    | 2 => ⟨2, 1, 0⟩
    | _ => ⟨1, 2, 1⟩
  | 0x32 =>
    match fn with
    | 0 => ⟨4, 1, 0⟩
    | 1 => ⟨0, 4, 4⟩
    | 5 => ⟨1, 4, 0⟩
    | _ => ⟨0, 4, 0⟩
  | _ => ⟨0, 0, 0⟩

/-- The registers the fields of format S name, by sub and id. -/
def usesS (sub id : Nat) : Uses :=
  match sub with
  | 0 => ⟨if id = 0x10 then 2 else 1, 0, 0⟩
  | 1 => ⟨0, 1, 0⟩
  | 4 => ⟨2, 0, 0⟩
  | 7 => ⟨1, 0, 0⟩
  | 11 => ⟨4, 0, 0⟩
  | 12 => ⟨0, 1, 0⟩
  | 13 => ⟨0, 1, 0⟩
  | 14 => ⟨1, 4, 0⟩
  | 15 => ⟨1, 4, 0⟩
  | _ => ⟨0, 0, 0⟩

/-- The formats a hint tells apart (Table 2.1). -/
inductive Format where
  | r | i | m | f | a | s | br | other
deriving DecidableEq, Repr

/-- The format of a major (Table 2.3); `br` is brz and brnz. -/
def formatOf (major : Nat) : Format :=
  if 0x01 ≤ major ∧ major ≤ 0x06 then .r
  else if 0x08 ≤ major ∧ major ≤ 0x10 then .i
  else if 0x11 ≤ major ∧ major ≤ 0x1E then .m
  else if major = 0x1F ∨ major = 0x20 then .f
  else if major = 0x21 ∨ major = 0x22 then .a
  else if major = 0x24 ∨ major = 0x25 then .br
  else if major = 0x27 then .r
  else if major = 0x28 ∨ major = 0x29 then .i
  else if (0x2A ≤ major ∧ major ≤ 0x2D) ∨ (0x2F ≤ major ∧ major ≤ 0x32) then .r
  else if major = 0x33 then .s
  else .other

/-- The registers the fields D, A and B of a word name. -/
def usesOf (w : Word) : Uses :=
  let n := w.toNat
  let major := majorOf w
  match formatOf major with
  | .r => usesR major (bitsAt n 0 5)
  | .i =>
    if major = 0x28 then ⟨0, 0, 0⟩ else if major = 0x29 then ⟨1, 0, 0⟩
    else ⟨1, if major = 0x0F then 0 else 1, 0⟩
  | .m =>
    ⟨if major = 0x16 ∨ major = 0x1C then 2
     else if major = 0x17 ∨ major = 0x18 ∨ major = 0x1D ∨ major = 0x1E then 4 else 1, 0, 0⟩
  | .f => ⟨if bitsAt n 15 1 = 1 then 4 else 1, 0, 0⟩
  | .a => ⟨if major = 0x21 ∧ bitsAt n 11 4 = 9 then 2 else 1, 0, 0⟩
  | .s => usesS (bitsAt n 8 4) (bitsAt n 0 8)
  | .br => ⟨0, 1, 0⟩
  | .other => ⟨0, 0, 0⟩

/-- The field a hint's selector names has class 0 in the word: brz and brnz hold A in bits 25:19. -/
def classZero (w : Word) (field : Nat) : Bool :=
  let lo := if field = 0 ∨ formatOf (majorOf w) = .br then 19 else if field = 1 then 12 else 5
  bitsAt w.toNat (lo + 6) 1 == 0

/-- An idx may select a field of the word (R38). -/
def idxFieldOk (w : Word) (field : Nat) : Bool :=
  let u := usesOf w
  decide (0 < (if field = 0 then u.d else if field = 1 then u.a else u.b)) && classZero w field

/-- The payload's own fields obey Table 2.5. -/
def hintFieldsOk (h : Word) : Bool :=
  let n := h.toNat
  match hintKind h with
  | 0 => bitsAt n 20 2 == 0
  | 1 => bitsAt n 5 17 == 0 && !(bitsAt n 0 3 == 0)
  | 2 => true
  | 3 => bitsAt n 2 20 == 0
  | 4 => bitsAt n 8 14 == 0
  | _ => false

/-- A hint stands where R36 and R39 allow it, after the hints `before` it, the nearest first. -/
def hintPlaceOk (before : List Word) (h : Word) : Bool :=
  if hintKind h = 2 then
    if before.any (fun b => hintKind b == 2) then
      match before with
      | b :: _ =>
        hintKind b == 2 && decide (bitsAt b.toNat 0 5 < bitsAt h.toNat 0 5) &&
          decide ((before.filter fun x => hintKind x == 2).length < 8)
      | [] => true
    else true
  else !(before.any fun b => hintKind b == hintKind h)

/-- The governed word admits the hint (R36 to R40); bkpt admits every hint (R42).
Log: DEDUCED (entry 20). -/
def hintAdmitted (h w : Word) : Bool :=
  let major := majorOf w
  if major = 0x3E then true
  else
    match hintKind h with
    | 0 => (decide (0x08 ≤ major) && decide (major ≤ 0x0B)) || major == 0x0F || major == 0x10 || major == 0x28
    | 1 =>
      (match formatOf major with | .other => false | _ => true) &&
      (bitsAt h.toNat 0 1 == 0 || idxFieldOk w 0) &&
      (bitsAt h.toNat 1 1 == 0 || idxFieldOk w 1) &&
      (bitsAt h.toNat 2 1 == 0 || idxFieldOk w 2)
    | 2 => major == 0x29 && decide (bitsAt h.toNat 0 5 ≤ bitsAt w.toNat 12 6)
    | 3 => (decide (0x11 ≤ major) && decide (major ≤ 0x22)) || (major == 0x2B && decide (bitsAt w.toNat 0 5 < 3))
    | _ => true

/-- The complex's special registers that Table 21.1 lists. -/
def complexId (id : Nat) : Bool := (0x40 ≤ id && id ≤ 0x46) || (0x48 ≤ id && id ≤ 0x58)

/-- Those of them it lists as RW. -/
def complexRw (id : Nat) : Bool := (0x42 ≤ id && id ≤ 0x44) || (0x48 ≤ id && id ≤ 0x57)

/-- Words that are instructions of the SK9 but illegal on a Kolesque core (R355, R356). -/
def illegalOnComplex (w : Word) : Bool :=
  let major := majorOf w
  let sub := bitsAt w.toNat 8 4
  let id := bitsAt w.toNat 0 8
  major == 0x1F || major == 0x20 || (decide (0x2B ≤ major) && decide (major ≤ 0x32)) || major == 0x34 ||
  (major == 0x33 &&
    ((decide (3 ≤ sub) && decide (sub ≤ 7)) ||
     (sub == 0 && decide (0x40 ≤ id) && !complexId id) ||
     (sub == 1 && decide (0x40 ≤ id) && !complexRw id)))

/-- The word whose row a core judges: on a compute core a ctxrun or priv word with an id that names no operation is as
privileged as any other of its sub (R44). -/
def judged (k : Bool) (w : Word) : Word :=
  if !k && majorOf w == 0x33 && decide (14 ≤ bitsAt w.toNat 8 4) && !(decodeWord w).isOk then w &&& 0xFFFFFF00 else w

/-- A word is an instruction of a core: of a Kolesque core if `k`. -/
def legalWord (k : Bool) (w : Word) : Bool := (decodeWord (judged k w)).isOk && !(k && illegalOnComplex w)

/-- A word is privileged on a compute core (R44). -/
def privileged (w : Word) : Bool :=
  majorOf w == 0x33 &&
  (decide (11 ≤ bitsAt w.toNat 8 4) ||
   (decide (bitsAt w.toNat 8 4 < 2) && decide (0x40 ≤ bitsAt w.toNat 0 8) && decide (bitsAt w.toNat 0 8 < 0x80)))

/-- The first hint of a run that breaks a rule, by its offset (R45).
Log: DEDUCED (entry 20). -/
def hintError (w : Word) : List Word → Nat → List Word → Option (Nat × Word)
  | _, _, [] => none
  | before, off, h :: t =>
    if hintFieldsOk h && hintPlaceOk before h && hintAdmitted h w then hintError w (h :: before) (off + 1) t
    else some (off, h)

/-- The first illegal word of a run of hints and its governed word, by its offset from the first hint (R45).
Log: DEDUCED (entry 20). -/
def runError (k : Bool) (hints : List Word) (w : Word) : Option (Nat × Word) :=
  match hintError w [] 0 hints with
  | some e => some e
  | none => if legalWord k w then none else some (hints.length, w)

/-- A major that may stand in a loop body (R127). -/
def bodyMajor (m : Nat) : Bool :=
  (decide (0x01 ≤ m) && decide (m ≤ 0x06)) || (decide (0x08 ≤ m) && decide (m ≤ 0x22)) ||
  (decide (0x2A ≤ m) && decide (m ≤ 0x2C)) || m == 0x3E

/-- A step of `len` bits at `lo` of an lstep payload is a multiple of `unit`; a unit of 0 admits no step (R128). -/
def stepOk (p lo len unit : Nat) : Bool :=
  let s := bitsAt p lo len
  if unit = 0 then s == 0 else s % unit == 0

/-- The steps an lstep payload carries are ones that the body word admits (R128). -/
def stepsOk (p : Nat) (w : Word) : Bool :=
  let u := usesOf w
  let fmt := formatOf (majorOf w)
  let d := if classZero w 0 && (fmt == .r || fmt == .i || fmt == .m || fmt == .f || fmt == .a) then u.d else 0
  let a := if classZero w 1 && (fmt == .r || fmt == .i) then u.a else 0
  let b := if classZero w 2 && fmt == .r then u.b else 0
  let imm := match fmt with
    | .i => 1
    | .m => 1
    | .f => if bitsAt w.toNat 15 1 = 1 then 4 else 1
    | _ => 0
  stepOk p 5 4 d && stepOk p 9 4 a && stepOk p 13 4 b && stepOk p 17 5 imm

/-- A word may stand in a loop body (R127). -/
def bodyWordOk (k : Bool) (w : Word) : Bool := bodyMajor (majorOf w) && legalWord k w

/-- The first lstep of a run that carries a step its body word does not allow, by its offset (R128, R45).
Log: DEDUCED (entry 34). -/
def stepError (body : List Word) : Nat → List Word → Option (Nat × Word)
  | _, [] => none
  | off, h :: t =>
    let p := (hintPayload h).toNat
    let w := body.getD (p % 32) 0
    if hintKind h = 2 && !stepsOk p w then some (off, h) else stepError body (off + 1) t

/-- The first illegal word of a loop body, by its offset (R127).
Log: DEDUCED (entry 34). -/
def bodyError (k : Bool) : Nat → List Word → Option (Nat × Word)
  | _, [] => none
  | off, w :: t => if bodyWordOk k w then bodyError k (off + 1) t else some (off, w)

/-- What makes a loop with its run and body illegal, in the order of the words (R45, R127, R128): an lstep of the run,
else a body word.
Log: DEDUCED (entry 34). -/
def loopError (k : Bool) (hints body : List Word) : Option (Nat × Word) :=
  match stepError body 0 hints with
  | some e => some e
  | none => bodyError k (hints.length + 1) body

/-- The bits of a destination field (R30). -/
def Dst.bits : Dst → Nat
  | .reg n => n.toNat
  | .push c => 96 + c.toNat

/-- The bits of a source field (R30). -/
def Src.bits : Src → Nat
  | .reg n => n.toNat
  | .pop c => 96 + c.toNat
  | .peek c => 64 + c.toNat

/-- Format R (Table 2.1). -/
def packR (major d a b fn : Nat) : Nat := major * 2 ^ 26 + d * 2 ^ 19 + a * 2 ^ 12 + b * 2 ^ 5 + fn

/-- Format I. -/
def packI (major d a imm : Nat) : Nat := major * 2 ^ 26 + d * 2 ^ 19 + a * 2 ^ 12 + imm

/-- Format M. -/
def packM (major d c imm : Nat) : Nat := major * 2 ^ 26 + d * 2 ^ 19 + c * 2 ^ 15 + imm

/-- Format F. -/
def packF (major d l k imm : Nat) : Nat := major * 2 ^ 26 + d * 2 ^ 19 + l * 2 ^ 16 + k * 2 ^ 15 + imm

/-- Format A. -/
def packA (major d c aop ord scope use : Nat) : Nat :=
  major * 2 ^ 26 + d * 2 ^ 19 + c * 2 ^ 15 + aop * 2 ^ 11 + ord * 2 ^ 9 + scope * 2 ^ 6 + use * 2 ^ 3

/-- Formats J (bra, call) and K. -/
def packJ (major disp : Nat) : Nat := major * 2 ^ 26 + disp

/-- Format J (brz, brnz). -/
def packB (major a disp : Nat) : Nat := major * 2 ^ 26 + a * 2 ^ 19 + disp

/-- Format X. -/
def packX (major d f ca cb cv : Nat) : Nat :=
  major * 2 ^ 26 + d * 2 ^ 19 + f * 2 ^ 12 + ca * 2 ^ 8 + cb * 2 ^ 4 + cv

/-- Format S. -/
def packS (major d a sub id : Nat) : Nat := major * 2 ^ 26 + d * 2 ^ 19 + a * 2 ^ 12 + sub * 2 ^ 8 + id

/-- Format G. -/
def packG (major cnt q0 q1 q2 q3 sl : Nat) : Nat :=
  major * 2 ^ 26 + cnt * 2 ^ 24 + q0 * 2 ^ 20 + q1 * 2 ^ 16 + q2 * 2 ^ 12 + q3 * 2 ^ 8 + sl * 2 ^ 4

/-- The op of a row of `priv` (Table 21.7).
Log: DESIGN CHOICE (entry 108). -/
def privOp : Instr → Option Nat
  | .privTlbInvalidateAll => some 0
  | .privTlbInvalidateAsid => some 0
  | .privTlbInvalidateRange => some 0
  | .privIdentifierEntry => some 1
  | .privKeyLoad => some 2
  | .privKeyDestroy => some 2
  | .privPlantBreakpoint => some 3
  | .privRemoveBreakpoint => some 4
  | .privRevokeDebug => some 5
  | .privEngineReset => some 6
  | .privDerate => some 7
  | .privFaultReplay => some 8
  | .privFaultFail => some 8
  | .privReadFaultRecord => some 9
  | .privPoolQuery => some 10
  | .privQueueDisable => some 11
  | .privQueueActivate => some 11
  | .privMsix => some 12
  | .privHandover => some 13
  | _ => none

/-- The word of a row of `priv` with its fields D and A (R359). -/
def encodePriv (i : Instr) (d a : Reg) : Option Word :=
  (privOp i).map fun op => BitVec.ofNat 32 (packS 51 d.toNat a.toNat 15 op)

/-- The word of an instruction as a number; an event has none, and a row of `priv` has the words of `encodePriv`. -/
def encodeNat : Instr → Option Nat
  | .iadd d a b => some (packR 1 d.bits a.bits b.bits 0)
  | .isub d a b => some (packR 1 d.bits a.bits b.bits 1)
  | .imul d a b => some (packR 1 d.bits a.bits b.bits 2)
  | .imulh d a b => some (packR 1 d.bits a.bits b.bits 3)
  | .nmulh d a b => some (packR 1 d.bits a.bits b.bits 4)
  | .imad d a b => some (packR 1 d.toNat a.bits b.bits 5)
  | .imin d a b => some (packR 1 d.bits a.bits b.bits 6)
  | .imax d a b => some (packR 1 d.bits a.bits b.bits 7)
  | .nmin d a b => some (packR 1 d.bits a.bits b.bits 8)
  | .nmax d a b => some (packR 1 d.bits a.bits b.bits 9)
  | .iabs d a => some (packR 1 d.bits a.bits 0 10)
  | .ineg d a => some (packR 1 d.bits a.bits 0 11)
  | .and d a b => some (packR 1 d.bits a.bits b.bits 12)
  | .or d a b => some (packR 1 d.bits a.bits b.bits 13)
  | .xor d a b => some (packR 1 d.bits a.bits b.bits 14)
  | .andn d a b => some (packR 1 d.bits a.bits b.bits 15)
  | .not d a => some (packR 1 d.bits a.bits 0 16)
  | .shl d a b => some (packR 1 d.bits a.bits b.toNat 17)
  | .shr d a b => some (packR 1 d.bits a.bits b.toNat 18)
  | .sar d a b => some (packR 1 d.bits a.bits b.toNat 19)
  | .rotl d a b => some (packR 1 d.bits a.bits b.toNat 20)
  | .popc d a => some (packR 1 d.bits a.bits 0 21)
  | .clz d a => some (packR 1 d.bits a.bits 0 22)
  | .brev d a => some (packR 1 d.bits a.bits 0 23)
  | .sel d a b => some (packR 1 d.toNat a.bits b.bits 24)
  | .bfe d a b => some (packR 1 d.bits a.bits b.toNat 25)
  | .bfi d a b => some (packR 1 d.toNat a.bits b.toNat 26)
  | .iadds d a b => some (packR 1 d.bits a.bits b.bits 27)
  | .isubs d a b => some (packR 1 d.bits a.bits b.bits 28)
  | .mov d a => some (packR 1 d.bits a.bits 0 29)
  | .icmpEq d a b => some (packR 2 d.bits a.bits b.bits 0)
  | .icmpNe d a b => some (packR 2 d.bits a.bits b.bits 1)
  | .icmpLt d a b => some (packR 2 d.bits a.bits b.bits 2)
  | .icmpLe d a b => some (packR 2 d.bits a.bits b.bits 3)
  | .icmpGt d a b => some (packR 2 d.bits a.bits b.bits 4)
  | .icmpGe d a b => some (packR 2 d.bits a.bits b.bits 5)
  | .icmpLtn d a b => some (packR 2 d.bits a.bits b.bits 6)
  | .icmpLen d a b => some (packR 2 d.bits a.bits b.bits 7)
  | .icmpGtn d a b => some (packR 2 d.bits a.bits b.bits 8)
  | .icmpGen d a b => some (packR 2 d.bits a.bits b.bits 9)
  | .fcmpEq d a b => some (packR 2 d.bits a.bits b.bits 10)
  | .fcmpNe d a b => some (packR 2 d.bits a.bits b.bits 11)
  | .fcmpLt d a b => some (packR 2 d.bits a.bits b.bits 12)
  | .fcmpLe d a b => some (packR 2 d.bits a.bits b.bits 13)
  | .fcmpGt d a b => some (packR 2 d.bits a.bits b.bits 14)
  | .fcmpGe d a b => some (packR 2 d.bits a.bits b.bits 15)
  | .fcmpUn d a b => some (packR 2 d.bits a.bits b.bits 16)
  | .fadd d a b => some (packR 3 d.bits a.bits b.bits 0)
  | .fsub d a b => some (packR 3 d.bits a.bits b.bits 1)
  | .fmul d a b => some (packR 3 d.bits a.bits b.bits 2)
  | .ffma d a b => some (packR 3 d.toNat a.bits b.bits 3)
  | .fmin d a b => some (packR 3 d.bits a.bits b.bits 4)
  | .fmax d a b => some (packR 3 d.bits a.bits b.bits 5)
  | .fabs d a => some (packR 3 d.bits a.bits 0 6)
  | .fneg d a => some (packR 3 d.bits a.bits 0 7)
  | .fsgn d a b => some (packR 3 d.bits a.bits b.bits 8)
  | .frcp d a => some (packR 3 d.bits a.bits 0 9)
  | .frsq d a => some (packR 3 d.bits a.bits 0 10)
  | .fsqrt d a => some (packR 3 d.bits a.bits 0 11)
  | .fexp2 d a => some (packR 3 d.bits a.bits 0 12)
  | .flog2 d a => some (packR 3 d.bits a.bits 0 13)
  | .fsin d a => some (packR 3 d.bits a.bits 0 14)
  | .fcos d a => some (packR 3 d.bits a.bits 0 15)
  | .ftanh d a => some (packR 3 d.bits a.bits 0 16)
  | .ffloor d a => some (packR 3 d.bits a.bits 0 17)
  | .fceil d a => some (packR 3 d.bits a.bits 0 18)
  | .ftrunc d a => some (packR 3 d.bits a.bits 0 19)
  | .frint d a => some (packR 3 d.bits a.bits 0 20)
  | .fclass d a => some (packR 3 d.bits a.bits 0 21)
  | .fscale d a b => some (packR 3 d.bits a.bits b.toNat 22)
  | .ffms d a b => some (packR 3 d.toNat a.bits b.bits 23)
  | .cvtF32I32 d a => some (packR 4 d.bits a.bits 0 0)
  | .cvtF32N32 d a => some (packR 4 d.bits a.bits 0 1)
  | .cvtI32F32 d a => some (packR 4 d.bits a.bits 0 2)
  | .cvtN32F32 d a => some (packR 4 d.bits a.bits 0 3)
  | .cvtI32F32Rn d a => some (packR 4 d.bits a.bits 0 4)
  | .cvtF16F32 d a => some (packR 4 d.bits a.bits 0 5)
  | .cvtF32F16 d a => some (packR 4 d.bits a.bits 0 6)
  | .cvtE8m7F32 d a => some (packR 4 d.bits a.bits 0 7)
  | .cvtF32E8m7 d a => some (packR 4 d.bits a.bits 0 8)
  | .packF16 d a b => some (packR 4 d.bits a.bits b.bits 9)
  | .packE8m7 d a b => some (packR 4 d.bits a.bits b.bits 10)
  | .sext8 d a => some (packR 4 d.bits a.bits 0 11)
  | .sext16 d a => some (packR 4 d.bits a.bits 0 12)
  | .zext8 d a => some (packR 4 d.bits a.bits 0 13)
  | .zext16 d a => some (packR 4 d.bits a.bits 0 14)
  | .haddF16 d a b => some (packR 5 d.bits a.bits b.bits 0)
  | .hmulF16 d a b => some (packR 5 d.bits a.bits b.bits 1)
  | .hfmaF16 d a b => some (packR 5 d.toNat a.bits b.bits 2)
  | .hminF16 d a b => some (packR 5 d.bits a.bits b.bits 3)
  | .hmaxF16 d a b => some (packR 5 d.bits a.bits b.bits 4)
  | .hdotF16 d a b => some (packR 5 d.toNat a.bits b.bits 5)
  | .haddE8m7 d a b => some (packR 5 d.bits a.bits b.bits 6)
  | .hmulE8m7 d a b => some (packR 5 d.bits a.bits b.bits 7)
  | .hfmaE8m7 d a b => some (packR 5 d.toNat a.bits b.bits 8)
  | .hminE8m7 d a b => some (packR 5 d.bits a.bits b.bits 9)
  | .hmaxE8m7 d a b => some (packR 5 d.bits a.bits b.bits 10)
  | .hdotE8m7 d a b => some (packR 5 d.toNat a.bits b.bits 11)
  | .qswpH d a => some (packR 6 d.bits a.bits 0 0)
  | .qswpV d a => some (packR 6 d.bits a.bits 0 1)
  | .qswpD d a => some (packR 6 d.bits a.bits 0 2)
  | .qbc d a => some (packR 6 d.bits a.bits 0 3)
  | .shflIdx d a b => some (packR 6 d.bits a.bits b.toNat 4)
  | .shflUp d a b => some (packR 6 d.bits a.bits b.toNat 5)
  | .shflDn d a b => some (packR 6 d.bits a.bits b.toNat 6)
  | .shflXor d a b => some (packR 6 d.bits a.bits b.toNat 7)
  | .voteAny d a => some (packR 6 d.bits a.toNat 0 8)
  | .voteAll d a => some (packR 6 d.bits a.toNat 0 9)
  | .voteMask d a => some (packR 6 d.toNat a.toNat 0 10)
  | .voteEq d a => some (packR 6 d.bits a.toNat 0 11)
  | .redIadd d a => some (packR 6 d.bits a.bits 0 12)
  | .redImin d a => some (packR 6 d.bits a.bits 0 13)
  | .redImax d a => some (packR 6 d.bits a.bits 0 14)
  | .redFadd d a => some (packR 6 d.bits a.bits 0 15)
  | .redFmin d a => some (packR 6 d.bits a.bits 0 16)
  | .redFmax d a => some (packR 6 d.bits a.bits 0 17)
  | .matchLane d a => some (packR 6 d.bits a.bits 0 18)
  | .iaddi d a imm => some (packI 8 d.bits a.bits imm.toNat)
  | .andi d a imm => some (packI 9 d.bits a.bits imm.toNat)
  | .ori d a imm => some (packI 10 d.bits a.bits imm.toNat)
  | .xori d a imm => some (packI 11 d.bits a.bits imm.toNat)
  | .shli d a imm => some (packI 12 d.bits a.bits imm.toNat)
  | .shri d a imm => some (packI 13 d.bits a.bits imm.toNat)
  | .sari d a imm => some (packI 14 d.bits a.bits imm.toNat)
  | .movi d imm => some (packI 15 d.bits 0 imm.toNat)
  | .imuli d a imm => some (packI 16 d.bits a.bits imm.toNat)
  | .ldb d c imm => some (packM 17 d.bits c.toNat imm.toNat)
  | .ldbn d c imm => some (packM 18 d.bits c.toNat imm.toNat)
  | .ldh d c imm => some (packM 19 d.bits c.toNat imm.toNat)
  | .ldhn d c imm => some (packM 20 d.bits c.toNat imm.toNat)
  | .ldw d c imm => some (packM 21 d.bits c.toNat imm.toNat)
  | .ldd d c imm => some (packM 22 d.toNat c.toNat imm.toNat)
  | .ldq d c imm => some (packM 23 d.toNat c.toNat imm.toNat)
  | .ldc d c imm => some (packM 24 d.toNat c.toNat imm.toNat)
  | .stb d c imm => some (packM 25 d.bits c.toNat imm.toNat)
  | .sth d c imm => some (packM 26 d.bits c.toNat imm.toNat)
  | .stw d c imm => some (packM 27 d.bits c.toNat imm.toNat)
  | .std d c imm => some (packM 28 d.toNat c.toNat imm.toNat)
  | .stq d c imm => some (packM 29 d.toNat c.toNat imm.toNat)
  | .stc d c imm => some (packM 30 d.toNat c.toNat imm.toNat)
  | .fld d l k imm => some (packF 31 d.bits l.toNat (if k then 1 else 0) imm.toNat)
  | .fst d l k imm => some (packF 32 d.bits l.toNat (if k then 1 else 0) imm.toNat)
  | .atomAdd d c ord scope use => some (packA 33 d.toNat c.toNat 0 ord.toNat scope.toNat use.toNat)
  | .atomAnd d c ord scope use => some (packA 33 d.toNat c.toNat 1 ord.toNat scope.toNat use.toNat)
  | .atomOr d c ord scope use => some (packA 33 d.toNat c.toNat 2 ord.toNat scope.toNat use.toNat)
  | .atomXor d c ord scope use => some (packA 33 d.toNat c.toNat 3 ord.toNat scope.toNat use.toNat)
  | .atomMin d c ord scope use => some (packA 33 d.toNat c.toNat 4 ord.toNat scope.toNat use.toNat)
  | .atomMax d c ord scope use => some (packA 33 d.toNat c.toNat 5 ord.toNat scope.toNat use.toNat)
  | .atomNmin d c ord scope use => some (packA 33 d.toNat c.toNat 6 ord.toNat scope.toNat use.toNat)
  | .atomNmax d c ord scope use => some (packA 33 d.toNat c.toNat 7 ord.toNat scope.toNat use.toNat)
  | .atomSwap d c ord scope use => some (packA 33 d.toNat c.toNat 8 ord.toNat scope.toNat use.toNat)
  | .atomCas d c ord scope use => some (packA 33 d.toNat c.toNat 9 ord.toNat scope.toNat use.toNat)
  | .atomFadd d c ord scope use => some (packA 33 d.toNat c.toNat 10 ord.toNat scope.toNat use.toNat)
  | .atomFmin d c ord scope use => some (packA 33 d.toNat c.toNat 11 ord.toNat scope.toNat use.toNat)
  | .atomFmax d c ord scope use => some (packA 33 d.toNat c.toNat 12 ord.toNat scope.toNat use.toNat)
  | .lda d c scope => some (packA 34 d.bits c.toNat 0 0 scope.toNat 0)
  | .stl d c scope => some (packA 34 d.bits c.toNat 1 0 scope.toNat 0)
  | .lds d c scope => some (packA 34 d.bits c.toNat 2 0 scope.toNat 0)
  | .sts d c scope => some (packA 34 d.bits c.toNat 3 0 scope.toNat 0)
  | .bra disp => some (packJ 35 disp.toNat)
  | .brz a disp => some (packB 36 a.toNat disp.toNat)
  | .brnz a disp => some (packB 37 a.toNat disp.toNat)
  | .call disp => some (packJ 38 disp.toNat)
  | .bri a => some (packR 39 0 a.toNat 0 0)
  | .calli a => some (packR 39 0 a.toNat 0 1)
  | .ret => some (packR 39 0 0 0 2)
  | .exit => some (packR 39 0 0 0 3)
  | .yield => some (packR 39 0 0 0 4)
  | .rcvwait n => some (packR 39 0 n.toNat 0 5)
  | .killpt => some (packR 39 0 0 0 6)
  | .nop => some (packR 39 0 0 0 7)
  | .trap code => some (packR 39 0 code.toNat 0 8)
  | .rft => some (packR 39 0 0 0 9)
  | .rcvset b imm => some (packI 40 b.toNat 0 imm.toNat)
  | .loop d len => some (packI 41 d.toNat len.toNat 0)
  | .cmov d a => some (packR 42 d.toNat a.toNat 0 0)
  | .cadd d a b => some (packR 42 d.toNat a.toNat b.toNat 1)
  | .csetb d a b => some (packR 42 d.toNat a.toNat b.toNat 2)
  | .csetbx d a b => some (packR 42 d.toNat a.toNat b.toNat 3)
  | .cbase d a => some (packR 42 d.toNat a.toNat 0 4)
  | .clen d a => some (packR 42 d.toNat a.toNat 0 5)
  | .ccur d a => some (packR 42 d.toNat a.toNat 0 6)
  | .cperm d a => some (packR 42 d.toNat a.toNat 0 7)
  | .candp d a b => some (packR 42 d.toNat a.toNat b.toNat 8)
  | .cseal d a b => some (packR 42 d.toNat a.toNat b.toNat 9)
  | .cunseal d a b => some (packR 42 d.toNat a.toNat b.toNat 10)
  | .ctag d a => some (packR 42 d.toNat a.toNat 0 11)
  | .csetc d a b => some (packR 42 d.toNat a.toNat b.toNat 12)
  | .cdisp d l => some (packR 42 d.toNat l.toNat 0 13)
  | .cpyin d a b => some (packR 43 d.toNat a.toNat b.toNat 0)
  | .cpyout d a b => some (packR 43 d.toNat a.toNat b.toNat 1)
  | .cpycvt d a b => some (packR 43 d.toNat a.toNat b.toNat 2)
  | .cpywait a => some (packR 43 0 a.toNat 0 3)
  | .pres d a => some (packR 43 d.bits a.toNat 0 4)
  | .pclr a b => some (packR 43 0 a.toNat b.toNat 5)
  | .chbind n a b => some (packR 44 (96 + n.toNat) a.toNat b.toNat 0)
  | .chpush n a => some (packR 44 (96 + n.toNat) a.bits 0 1)
  | .chpop d n => some (packR 44 d.bits (96 + n.toNat) 0 2)
  | .chpeek d n => some (packR 44 d.bits (64 + n.toNat) 0 3)
  | .chstat d n => some (packR 44 d.toNat (96 + n.toNat) 0 4)
  | .chclose n => some (packR 44 (96 + n.toNat) 0 0 5)
  | .chfree n => some (packR 44 (96 + n.toNat) 0 0 6)
  | .barinit a b => some (packR 45 0 a.toNat b.toNat 0)
  | .bararr d a => some (packR 45 d.bits a.toNat 0 1)
  | .barwait a b => some (packR 45 0 a.toNat b.bits 2)
  | .barsync a => some (packR 45 0 a.toNat 0 3)
  | .bardrop a => some (packR 45 0 a.toNat 0 4)
  | .gbar => some (packR 45 0 0 0 5)
  | .cvinit n a => some (packR 45 n.toNat a.toNat 0 6)
  | .cvsign n => some (packR 45 n.toNat 0 0 7)
  | .strag d a => some (packR 45 d.toNat a.toNat 0 8)
  | .mx d f ca cb cv => some (packX 46 d.toNat f.toNat ca.toNat cb.toNat cv.toNat)
  | .mxwait n => some (packR 47 0 n.toNat 0 0)
  | .btake => some (packR 47 0 0 0 1)
  | .bpass => some (packR 47 0 0 0 2)
  | .mxzero d => some (packR 47 d.toNat 0 0 3)
  | .launch d a => some (packR 48 d.toNat a.toNat 0 0)
  | .launcha d a b => some (packR 48 d.toNat a.toNat b.toNat 1)
  | .join a => some (packR 48 0 a.toNat 0 2)
  | .jpoll d a => some (packR 48 d.bits a.toNat 0 3)
  | .nemit a b => some (packR 49 0 a.toNat b.toNat 0)
  | .bound a => some (packR 49 0 a.toNat 0 1)
  | .incrd d a => some (packR 49 d.toNat a.toNat 0 2)
  | .incimp d a b => some (packR 49 d.toNat a.toNat b.toNat 3)
  | .aropen d a => some (packR 50 d.toNat a.toNat 0 0)
  | .aropenReopen d a => some (packR 50 d.toNat a.toNat 0 0)
  | .arjoin a b => some (packR 50 0 a.toNat b.toNat 1)
  | .arseal a => some (packR 50 0 a.toNat 0 2)
  | .arvote a => some (packR 50 0 a.toNat 0 3)
  | .arabort a => some (packR 50 0 a.toNat 0 4)
  | .arstat d a => some (packR 50 d.toNat a.toNat 0 5)
  | .srd d id => some (packS 51 d.bits 0 0 id.toNat)
  | .swr id a => some (packS 51 0 a.bits 1 id.toNat)
  | .fence kind scope => some (packS 51 0 0 2 (kind.toNat * 8 + scope.toNat))
  | .fenceop => some (packS 51 0 0 3 0)
  | .csum d => some (packS 51 d.toNat 0 4 0)
  | .halt => some (packS 51 0 0 5 0)
  | .dbgmark mark => some (packS 51 0 0 6 mark.toNat)
  | .perf d id => some (packS 51 d.bits 0 7 id.toNat)
  | .evwait d => some (packS 51 d.toNat 0 11 0)
  | .qlock a => some (packS 51 0 a.toNat 12 0)
  | .qunlock a => some (packS 51 0 a.toNat 13 0)
  | .ctxrunRun d a => some (packS 51 d.toNat a.toNat 14 0)
  | .ctxrunHalt d a => some (packS 51 d.toNat a.toNat 14 1)
  | .ctxrunResume d a => some (packS 51 d.toNat a.toNat 14 2)
  | .ctxrunSave d a => some (packS 51 d.toNat a.toNat 14 3)
  | .ctxrunDump d a => some (packS 51 d.toNat a.toNat 14 4)
  | .ctxrunKill d a => some (packS 51 d.toNat a.toNat 14 5)
  | .ctxrunState d a => some (packS 51 d.toNat a.toNat 14 6)
  | .privTlbInvalidateAll => none
  | .privTlbInvalidateAsid => none
  | .privTlbInvalidateRange => none
  | .privIdentifierEntry => none
  | .privKeyLoad => none
  | .privKeyDestroy => none
  | .privPlantBreakpoint => none
  | .privRemoveBreakpoint => none
  | .privRevokeDebug => none
  | .privEngineReset => none
  | .privDerate => none
  | .privFaultReplay => none
  | .privFaultFail => none
  | .privReadFaultRecord => none
  | .privPoolQuery => none
  | .privQueueDisable => none
  | .privQueueActivate => none
  | .privMsix => none
  | .privHandover => none
  | .rgn cnt q0 q1 q2 q3 sl => some (packG 52 cnt.toNat q0.toNat q1.toNat q2.toNat q3.toNat sl.toNat)
  | .bkpt tag => some (packJ 62 tag.toNat)
  | .mxOperandWaitEnd => none
  | .mxComputeEnd => none
  | .copyAdvance => none
  | .copyComplete => none
  | .asyncTrapDelivery => none
  | .foragerDeal => none
  | .contextCompletion => none
  | .binTimerExpiry => none
  | .improvementReachesDie => none
  | .killTakesEffect => none
  | .regionInstallComplete => none
  | .regionAbortDelivery => none
  | .remoteDataReturn => none
  | .remoteAccessTimeout => none
  | .derateTakesEffect => none
  | .windowSlotAgeGrant => none
  | .shortLivedExpiry => none
  | .haltComplete => none
  | .rowEviction => none
  | .eventDelivery => none
  | .ktimerExpiry => none
  | .watchdogExpiry => none
  | .imemUncorrectableError => none
  | .queueTableError => none
  | .doorbell => none
  | .apertureAccess => none
  | .hostRegisterWrite => none
  | .leaseResetRequest => none
  | .fwstart => none
  | .powerOn => none
  | .correctedError => none
  | .uncorrectableError => none
  | .ceWindowEnd => none
  | .inputVoltageOutOfRange => none
  | .powerWindowEnd => none
  | .inletOverTemperature => none
  | .cicadaClockGate => none
  | .cicadaPowerGate => none
  | .hangReport => none
  | .linkDown => none
  | .linkRetrain => none
  | .i3cDomidWrite => none
  | .i3cLeasereq => none
  | .entdaa => none
  | .rstdaa => none
  | .setdasa => none
  | .getpid => none
  | .getbcr => none
  | .getdcr => none
  | .getstatus => none
  | .illegalInstruction => none
  | .scrubComplete => none
  | .fabricRouteLost => none
  | .fabricRouteRestored => none
  | .remoteAccessRequest => none
  | .remoteRegionMessage => none

/-- The encoder: the word of an instruction word of the table. -/
def encode (i : Instr) : Option Word := (encodeNat i).map (BitVec.ofNat 32)

end Sys2Proof
end

