-- ==== Sys2Proof/Machine/State.lean ====
section
/-!
DEFINITION. The state of the SK9, as plain data: every register, memory, queue and mode the spec names, and the few
fields the model adds (marked MODEL). Tables keyed by number are lists in rising order of their key; what a key that is
not listed reads as is the `fresh` value of its type.
-/

namespace Sys2Proof.Machine

open Sys2Proof

/-- Why a step stops. -/
inductive Fault where
  /-- exec was asked for an instruction word while no gather is latched. Raised by every meaning of a word, and by no
  step: `step` latches the gather first. Safe: the machine has no such transition. -/
  | noGather
deriving DecidableEq, Repr

/-- Why a step has no meaning. -/
inductive Refusal where
  /-- An instruction whose meaning is not written yet. Raised by Dispatch alone. Safe. -/
  | notModelled (mnemonic : String)
deriving DecidableEq, Repr

/-! ### Words, capabilities, memories -/

/-- A lane word with its poison mark (R94, R165). -/
structure PWord where
  val : Word := 0
  poison : Bool := false
deriving DecidableEq, Repr

/-- A capability: cursor, metadata (Tables 8.1, 8.2) and tag (R131). -/
structure Cap where
  cursor : DWord := 0
  md : DWord := 0
  tag : Bool := false
deriving DecidableEq, Repr

/-- A memory: the bytes that are not zero in rising order of address, the tagged 16-byte granules, and the poisoned
units with a mask of the bytes written since (R146, R147). An unlisted byte reads as 0 (DESIGN CHOICE, log entries 9
and 107). -/
structure Memory where
  cells : List Host.Cell := []
  tags : List Nat := []
  poison : List (Nat × Nat) := []
deriving DecidableEq, Repr

/-! ### Lanes -/

/-- Loop state (R126): passes, current pass, body index, body length, the lstep payloads, and the body words fetched
when the loop issued; an empty body is fetched when the lane next issues (R130). -/
structure Loop where
  n : Word
  p : Word
  i : Nat
  len : Nat
  steps : List (BitVec 22)
  body : List PWord
deriving DecidableEq, Repr

/-- What a parked lane waits for: the rows of Table 5.3, with the wake condition's data. -/
inductive Wait where
  /-- barwait, barsync: the object's space-2 offset and the token (R218) -/
  | bar (off : Nat) (token : Word)
  /-- gbar: the generation (R223) -/
  | gbar (gen : Word)
  /-- on channel entry `n`, room for a batch of `k` on the ring at `off`; the value waits with the lane (R248, R93) -/
  | push (n off k : Nat) (value : PWord) (order : Nat)
  /-- on channel entry `n`, entries for a batch of `k`: field A (true) or B, popping or peeking (R248) -/
  | pop (n off k : Nat) (fieldA peek : Bool) (order : Nat)
  /-- a scratchpad line, by block and line of space 2 (R173) -/
  | line (block line : Nat)
  /-- an access to another device (R210, R384) -/
  | remote (access : Nat)
  /-- rgn without a window slot (R155) -/
  | window
  /-- mxwait: an operation, or a plain generation of a convergence register (R278) -/
  | op (op : Nat)
  | plain (cv gen : Nat)
  /-- cpywait: the group's numbers up to this one (R178) -/
  | copies (seq : Word)
  /-- btake, or an mx whose set waits for the baton (R273, R280) -/
  | baton
  /-- a signer held at its mx until the generation completes (R272) -/
  | signed (cv : Nat)
  /-- join: the grid (R242) -/
  | grid (grid : Nat)
  /-- arvote (R306) -/
  | vote
  /-- launch with the frame pool empty (R240) -/
  | granules
  /-- nemit to a full bin (R292) -/
  | bin (die node : Nat) (record : List PWord)
  /-- a page fault awaiting its answer: die, record (R322) -/
  | replay (die record : Nat)
  /-- a fault queue that is full (R321) -/
  | faultQueue (die : Nat)
  /-- evwait, and qlock on a queue, of a Kolesque core (R360) -/
  | event
  | lock (queue : Nat)
deriving DecidableEq, Repr

/-- Where a lane stands (R83, R345). -/
inductive LaneStatus where
  | ready
  /-- parked at a blocking point; `pc` is the address of the instruction word (Table 5.3) -/
  | parked (w : Wait) (pc : DWord)
  /-- held at rcvwait (R124) -/
  | held (b : Nat)
  /-- incimp's lane waits for every replica of a device register: D, the result, the register, the word (R294) -/
  | result (d : Nat) (value : Word) (reg : Nat) (pc : DWord)
  /-- halted by a halt-and-dump trap, with its PC at the instruction (R333) -/
  | faulted
  | exited
  /-- an empty slot (R76) -/
  | empty
deriving DecidableEq, Repr

/-- A pending asynchronous delivery (R181, R277, R284, R311). -/
inductive Async where
  /-- engine fault 0x0E or engine reset 0x0F with its two data words -/
  | engine (cause : Byte) (lo hi : Word)
  /-- a region abort with its reason -/
  | region (reason : Byte)
deriving DecidableEq, Repr

/-- The last signature of a thread on a convergence register (R278). -/
inductive Sig where
  | plain (gen : Nat)
  /-- a plain one whose generation has completed (R226) -/
  | passed
  | matrix (op : Nat)
deriving DecidableEq, Repr

/-- What delivery moves aside (R130, R159, R327). -/
structure Shadow where
  loop : Option Loop := none
  map : List Quad := []
deriving DecidableEq, Repr

/-- An access waiting for another device (R210, R384), with the identifier, the virtual address and the leaf (its first
address and its size) of its translation (R323), and the hint words and the word of the instruction that makes it. -/
structure Remote where
  id : Nat
  gid : Nat
  lane : Nat
  dev : Nat
  addr : Nat
  size : Nat
  asid : Nat := 0
  va : Nat := 0
  leaf : Nat × Nat := (0, 1)
  run : List Word := []
  word : Word := 0
deriving DecidableEq, Repr

/-- What another device has brought for an access: its bytes, whether they are poisoned, whether they are a tagged
granule (R146, R210), and whether its home had no free record for a speculative atomic (R208). -/
structure Returned where
  acc : Remote
  bytes : List Byte
  poison : Bool := false
  tag : Bool := false
  overflow : Bool := false
deriving DecidableEq, Repr

/-- A thread (R150, R345). -/
structure Lane where
  status : LaneStatus := .empty
  helper : Bool := false
  regs : List PWord := []
  tags : BitVec 16 := 0
  /-- the code capability, whose cursor is the PC (R111) -/
  code : Cap := {}
  /-- MODEL, DEDUCED (log entry 125): the cursor at which the code capability was installed, where its bounds decode (R111, R132) -/
  anchor : DWord := 0
  /-- the kernel entry (R327) -/
  entry : DWord := 0
  /-- the hardware part of the return stack, newest first, and the depth (R115) -/
  stack : List Cap := []
  depth : Nat := 0
  loop : Option Loop := none
  shadow : Shadow := {}
  tvec : Word := 0
  tcause : Word := 0
  tpc : DWord := 0
  tdata : DWord := 0
  tiletag : Word := 0
  x0 : Word := 0
  x1 : Word := 0
  x2 : Word := 0
  x3 : Word := 0
  arreason : Word := 0
  chflags : Word := 0
  /-- the thread's offset to its core's count (R163) -/
  cycOff : DWord := 0
  inHandler : Bool := false
  crew : Nat := 0
  /-- channel entries held for fields A and B (R93) -/
  heldA : Option PWord := none
  heldB : Option PWord := none
  async : List Async := []
  pendReplay : Bool := false
  /-- the virtual address of the lane's pending page fault -/
  faultVa : DWord := 0
  /-- the lane ends at its next boundary (R297) -/
  kill : Bool := false
  /-- halted (R335) -/
  halted : Bool := false
  /-- the core's cycle of its last issue and of its becoming ready (R84) -/
  lastIssue : Nat := 0
  /-- the last signature on each convergence register (R278) -/
  sigs : List (Nat × Sig) := []
  /-- owned accumulator ranges: first register, count, operation (R276) -/
  owned : List (Nat × Nat × Nat) := []
  /-- owned registers written meanwhile, whose final value is open (R276) -/
  dirty : List Nat := []
  /-- what the running compute writes to an owned register in between (R276) -/
  drafts : List (Nat × List PWord) := []
  /-- short-lived words past their 10 us, read as Config says (R157) -/
  stale : List Nat := []
  /-- registers that hold what birth left in them, and are not short-lived before they are written or marked (R150); bit n
  for vn -/
  unwritten : BitVec 64 := 0
  /-- the lane stands at a planted breakpoint it executes once as the original word (R350) -/
  stepOver : Bool := false
  /-- what other devices have brought for the instruction that the lane makes again (R146, R210) -/
  returned : List Returned := []
  /-- DEDUCED (log entry 114): the lane stands just past a blocking point that passes (R86) -/
  passed : Bool := false
  /-- for each scope, how many values atomics had replaced at its last acquire point, or at its start (R188, R207) -/
  acquired : List Nat := [0, 0, 0, 0, 0]
  /-- MODEL: the step at which it last began to wait, for the order of R284 -/
  parkedAt : Nat := 0
  /-- MODEL, DEDUCED (log entries 72 and 73): its last issue was held for a time and is made again (R185, R311) -/
  heldBack : Bool := false
  /-- the thread's cycle value at the stop, while it is halted or its row is evicted (R352) -/
  stopped : Option DWord := none
  /-- MODEL, DESIGN CHOICE (log entry 135): the token of a bararr that has arrived and waits for room to push it (R217, R248) -/
  token : Option Word := none
deriving DecidableEq, Repr

/-! ### Groups, rows, blocks, grids -/

/-- A reconvergence record (R122). -/
structure Rec where
  target : DWord := 0
  members : BitVec 64 := 0
  arrived : BitVec 64 := 0
deriving DecidableEq, Repr

/-- A channel-table entry (R246): `none` is unbound. -/
abbrev ChEntry := Option (Nat × Nat)

/-- A tentative speculative operation (R208): lane, physical device address, aop and operands. -/
structure SpecOp where
  lane : Nat
  key : Nat
  addr : Nat
  aop : BitVec 4
  operand : PWord
  compare : Word
deriving DecidableEq, Repr

/-- A value that an atomic replaced at a location, and how many had been replaced before it: a scratchpad's block or none for
HBM, and the address (R207). -/
structure Past where
  block : Option Nat
  addr : Nat
  at' : Nat
  value : PWord
deriving DecidableEq, Repr

/-- Region membership (R304, R309). -/
structure Member where
  /-- the handle's cursor -/
  handle : DWord
  target : Cap
  /-- MODEL, DEDUCED (log entry 125): where the target's bounds decode -/
  anchor : DWord := 0
  voted : Bool := false
  /-- the reason of an abort not yet delivered to every lane (R311) -/
  aborted : Option Byte := none
deriving DecidableEq, Repr

/-- Which core a group runs on. -/
inductive Agent where
  | core (c : Nat)
  /-- a Kolesque core (R354) -/
  | kcore (k : Nat)
deriving DecidableEq, Repr

/-- A group (R75, R345). -/
structure Group where
  gid : Nat
  agent : Agent := .core 0
  ctx : Nat := 0
  grid : Nat := 0
  block : Nat := 0
  gidx : Nat := 0
  width : Nat := 8
  regs : Nat := 8
  row : Nat := 0
  slot : Nat := 0
  lanes : List Lane := []
  engseq : Word := 0
  recs : List Rec := List.replicate 8 {}
  chans : List ChEntry := List.replicate 16 none
  csum : DWord := 0
  bound : Option Word := none
  region : Option Member := none
  nrec : Word := 0
  nodeid : Word := 0xFFFFFFFF
  taskKill : Bool := false
  /-- a kill has taken effect in a lane of it, and has been counted (R297) -/
  killed : Bool := false
  spec : List SpecOp := []
  begun : Bool := false
  /-- offsets of the rings of its block that this group has pushed to since they were armed (R334) -/
  pushed : List Nat := []
  /-- saved by pre-emption with its row, or restored and not placed yet (R338) -/
  evicted : Bool := false
  /-- restored: the map, sl bits and region base of its saved row, until it is placed (R387) -/
  saved : Option (List Quad × BitVec 16 × DWord) := none
  /-- every lane has exited and the slots are freed (R79) -/
  freed : Bool := false
deriving DecidableEq, Repr

/-- A row of a core (R78, R153, Table 9.2). -/
structure Row where
  grid : Nat
  regs : Nat
  map : List Quad := []
  slot : Option Nat := none
  sl : BitVec 16 := 0
  base : DWord := 0
  lastIssue : Nat := 0
  /-- DEDUCED (log entry 101): it held a ready thread after the last step, and the cycle at which it came to hold one (R83) -/
  ready : Bool := false
  readyAt : Nat := 0
  /-- the core's gather count until which the picker passes the row over (R118) -/
  passOver : Nat := 0
  /-- when the row began to wait at rgn (R155) -/
  rgnSince : Option Nat := none
  /-- the map it held when it was evicted (R159) -/
  kept : List Quad := []
deriving DecidableEq, Repr

/-- A share of a block on a core (R168): lines from `first`, `lines` of them. -/
structure Share where
  core : Nat
  first : Nat
  lines : Nat
  /-- DESIGN CHOICE (log entry 52): the chunks of 32 physical lines that it occupies, in order (R168) -/
  chunks : List Nat := []
deriving DecidableEq, Repr

/-- The straggler record of a completion (Table 12.6). -/
structure Straggler where
  valid : Bool := false
  fspeed : Nat := 0
  lspeed : Nat := 0
  gidx : Nat := 0
  core : Nat := 0
  kind : Nat := 0
  block : Nat := 0
  first : Word := 0
  last : Word := 0
deriving DecidableEq, Repr

/-- A barrier roster entry (R213). -/
structure Roster where
  off : Nat
  n : Nat
  arrived : Nat := 0
  dropped : Nat := 0
  /-- the phase has had an arrival (R224) -/
  began : Bool := false
  record : Straggler := {}
deriving DecidableEq, Repr

/-- A convergence register with its signer mask (R226, Table 12.7). -/
structure CvReg where
  kind : Nat := 0
  gen : Nat := 0
  signed : Nat := 0
  count : Nat := 0
  mask : Nat := 0
deriving DecidableEq, Repr

/-- An open tile-stamp record (R281, Table 16.5). -/
structure Stamp where
  block : Nat
  tag : Word
  lost : Bool := false
  ops : Nat := 0
  copies : Nat := 0
  outDone : Bool := false
  stamps : List (Option Word) := List.replicate 7 none
deriving DecidableEq, Repr

/-- The place of a saved ticket: the engine in whose queue it stood, and its place among the saved ones (R280, R283). -/
structure Rank where
  engine : Nat
  place : Nat
deriving DecidableEq, Repr

/-- What a restored block waits to be placed with: its crews with tickets, in order, and its open stamp records and
losses (R283, R338). -/
structure Resting where
  /-- the crews with their places in the saved order of their engine's tickets -/
  crews : List (Rank × Nat) := []
  stamps : List Stamp := []
  lost : List Word := []
  /-- the tickets that stood in the engines' queues at the restore: they came earlier (R283) -/
  early : List (Nat × Nat) := []
deriving DecidableEq, Repr

/-- A block (R75, R168, R213, R226). -/
structure Block where
  bid : Nat
  grid : Nat
  index : Nat
  shares : List Share := []
  /-- lines of the whole block and of each share but the last (R168) -/
  lines : Nat := 0
  q : Nat := 0
  scratch : Memory := {}
  /-- pclr-pending lines with the bytes written since (R172) -/
  pclr : List (Nat × Nat) := []
  /-- bytes stored to while a copy was still to write them (R173) -/
  racing : List Nat := []
  roster : List (Nat × Roster) := []
  cvs : List (Nat × CvReg) := []
  retired : Bool := false
  /-- restored and not placed yet (R338) -/
  rest : Option Resting := none
  /-- the places that its restored tickets had in the saved order, by crew (R283) -/
  ranks : List (Nat × Rank) := []
deriving DecidableEq, Repr

/-- A grid's life (R241). -/
inductive GridState where
  /-- in its launch queue, or being dealt -/
  | queued
  /-- every block dealt -/
  | placed
  | completed
  | failed
deriving DecidableEq, Repr

/-- A grid (R233, R236, R239, R241). -/
structure Grid where
  uid : Nat
  ctx : Nat
  /-- first granule and length of its frame; `framed`: the frame is allocated (R287) -/
  frame : Nat
  granules : Nat
  framed : Bool := true
  level : Nat
  depth : Nat
  display : List Cap
  code : Cap
  /-- MODEL, DEDUCED (log entry 125): where the code capability's bounds decode -/
  anchor : DWord := 0
  dimx : Nat
  dimy : Nat
  dimz : Nat
  blksize : Nat
  width : Nat
  regs : Nat
  lines : Nat
  coop : Bool := false
  /-- the launching grid, for the stop walk (R334) -/
  parent : Option Nat := none
  /-- the grid named by launcha (R241) -/
  pred : Option Nat := none
  next : Nat := 0
  assigned : List (Nat × Nat) := []
  state : GridState := .queued
  /-- a task group whose frame waits for the answer to a page fault (R232) -/
  held : Bool := false
  /-- a task group: node, records, die, bound (R287) -/
  task : Option (Nat × List (List PWord) × Nat × Word) := none
  /-- the core of block 0's share 0 (R223) -/
  home : Nat := 0
  /-- the grid barrier (R223, R224); the arrived threads by block and tidx -/
  gbarGen : Word := 0
  gbarArrived : List (Nat × Nat) := []
  gbarFirst : Word := 0
  gbarFspeed : Nat := 0
  gbarRecord : Straggler := {}
deriving DecidableEq, Repr

/-! ### Copies and matrix operations -/

/-- One end of a transfer: physical or virtual global memory, or a block's scratchpad by space-2 offset. -/
inductive Place where
  | global (va : Nat)
  | scratch (off : Nat)
deriving DecidableEq, Repr

/-- A conversion's fixed layout (R264): the eight header words as read at issue. -/
structure Conv where
  header : List Word
  image : Nat
  stride : Nat
  src : Nat
deriving DecidableEq, Repr

/-- A lane's transfer, or its conversion (R176, R264). -/
structure Xfer where
  lane : Nat
  src : Place
  dst : Place
  len : Nat
  /-- granules moved, or line segments converted -/
  done : Nat := 0
  total : Nat
  /-- cA has LDC and cD has STC (R180) -/
  tags : Bool := false
  /-- cD, for the rules of R146 -/
  through : Cap := {}
  conv : Option Conv := none
deriving DecidableEq, Repr

/-- The recoverable page fault that holds a copy (R181): the die and the index of its record, the copy's own faulting address and
the transfer that met it. -/
structure Hold where
  die : Nat
  index : Nat
  va : Nat
  xfer : Nat
deriving DecidableEq, Repr

/-- A copy of the copy queue (R176, R185). -/
structure Copy where
  id : Nat
  core : Nat
  ctx : Nat
  gid : Nat
  block : Nat
  pc : DWord
  entry : DWord
  seq : Word
  copyIn : Bool
  xfers : List Xfer
  /-- held on a recoverable page fault (R181) -/
  held : Option Hold := none
  /-- every byte written; or failed -/
  failed : Bool := false
  tag : Word := 0
deriving DecidableEq, Repr

/-- A signer of a matrix generation, with what it captured (R271). -/
structure Signer where
  gid : Nat
  lane : Nat
  tidx : Nat
  fmt : Word
  aOff : Nat
  bOff : Nat
  aTop : Nat
  bTop : Nat
  d : Nat
  f : Nat
  ca : Nat
  cb : Nat
deriving DecidableEq, Repr

/-- Where an operation stands (R272 to R276). -/
inductive OpPhase where
  /-- signatures being collected -/
  | signing
  /-- voted; waits for the baton or for room in the queue -/
  | baton
  | queued
  /-- operand wait, headers read: the eight words of A's, and of B's -/
  | operands (a b : List PWord)
  /-- the images as they stood at the end of the operand wait, header and all -/
  | computing (a b : List PWord)
deriving DecidableEq, Repr

/-- A matrix operation (R268, R273). -/
structure MxOp where
  id : Nat
  ctx : Nat
  block : Nat
  core : Nat
  cv : Nat
  pc : DWord
  entry : DWord
  signers : List Signer
  /-- the number of each group that holds a signer -/
  nums : List (Nat × Word) := []
  phase : OpPhase
  tag : Word := 0
deriving DecidableEq, Repr

/-! ### Cores and dies -/

/-- A TLB entry: one completed walk (R319). -/
structure TlbEntry where
  asid : Nat
  /-- virtual base and size -/
  va : Nat
  size : Nat
  dev : Nat
  pa : Nat
  rd : Bool
  w : Bool
  x : Bool
  pol : Nat
deriving DecidableEq, Repr

/-- Cicada's view of a core (R379). -/
structure Gate where
  clock : Bool := false
  power : Bool := false
  reported : Bool := false
deriving DecidableEq, Repr

/-- A compute core (R10, R15, R163, R267, R280). -/
structure Core where
  cycles : DWord := 0
  gathers : Nat := 0
  pipes : List Nat := [0, 0, 0, 0]
  rows : List (Nat × Row) := []
  tlb : List TlbEntry := []
  /-- the baton queue: crews (block, convergence register), head first -/
  tickets : List (Nat × Nat) := []
  stamps : List Stamp := []
  lostStamps : List (Nat × Word) := []
  gate : Gate := {}
  /-- withheld from placement (R375) -/
  withheld : Bool := false
deriving DecidableEq, Repr

/-- Kinds of access (R315). -/
inductive Kind where
  | read
  | write
  | rmw
  | fetch
deriving DecidableEq, Repr

/-- A fault record (Table 19.4) with the lanes and copies on it (R321). -/
structure FaultRec where
  va : Nat
  asid : Nat
  core : Nat
  reason : Nat
  level : Nat
  kind : Kind
  fatal : Bool
  lanes : List (Nat × Nat) := []
  copies : List Nat := []
  /-- bins holding a launch decision (R232) -/
  bins : List (Nat × Nat × Nat) := []
  /-- task groups in their launch queue that it holds (R232, R287) -/
  grids : List Nat := []
  /-- DEDUCED (log entry 84): the contexts whose save it holds, for an entry of a return region (R353) -/
  saves : List Nat := []
deriving DecidableEq, Repr

/-- A tentative write of a region (R307): words of bytes with their poison, and the tag, or an atomic
held with its operands. -/
inductive TWrite where
  | bytes (key addr : Nat) (chunks : List (List Byte × Bool)) (tag : Bool)
  | atom (key addr : Nat) (aop : BitVec 4) (operand : PWord) (compare : Word)
deriving DecidableEq, Repr

/-- A line record of a write-set directory (R307). -/
structure DirRec where
  line : Nat
  region : Nat
  writes : List TWrite
deriving DecidableEq, Repr

/-- A compute die (R289, R319, R321, R307). -/
structure Die where
  tlb : List TlbEntry := []
  faults : List (Nat × FaultRec) := []
  dir : List DirRec := []
  /-- DEDUCED (log entry 8): replicas of the incumbents: key and tag; unlisted ones read zeros, as the scrub leaves them (R373) -/
  replicas : List (Nat × Word × Word) := []
  /-- improvements on their way to this die, oldest first: register, key, tag (R289) -/
  coming : List (Nat × Word × Word) := []
deriving DecidableEq, Repr

/-! ### Contexts -/

/-- A frame's descriptor (R232). -/
structure Frame where
  granule : Nat
  len : Nat
  grid : Nat
  refs : Nat
  parent : Option Nat
  /-- the grid has completed; as failed -/
  done : Bool := false
  failed : Bool := false
deriving DecidableEq, Repr

/-- A bin (R286). -/
structure Bin where
  records : List (List PWord) := []
  timer : Bool := false
  expired : Bool := false
  /-- lanes parked on it: group and lane, in parking order (R292) -/
  waiters : List (Nat × Nat) := []
  /-- a launch decision held on a page fault (R232) -/
  held : Bool := false
deriving DecidableEq, Repr

/-- A node-table entry (Table 17.1), with the capability its task groups' frames hold (R56, R287). -/
structure Node where
  /-- sealed as a node handle (R285) -/
  code : Cap
  kill : Bool
  width : Nat
  regs : Nat
  size : Nat
  count : Nat
  timeout : Nat
  frame : Nat
  lines : Nat
  data : Cap := {}
deriving DecidableEq, Repr

/-- The header fields of a running context (Table 20.5). -/
structure Header where
  debug : Bool := false
  edited : Bool := false
  truncated : Bool := false
  log : Bool := false
  priority : Nat := 0
  domain : Bool := false
  kind : Nat := 0
  key : Byte := 0
  asid : Nat := 0
  tsect : Nat := 0
  poolbase : DWord := 0
  poolsize : Nat := 0
  privbase : DWord := 0
  dumpbase : DWord := 0
  dumpsize : DWord := 0
  dfaddr : DWord := 0
  logbase : DWord := 0
  logsize : Nat := 0
  logwritten : Word := 0
  logdropped : Word := 0
  stampbase : DWord := 0
  stampsize : Nat := 0
  stampwritten : Word := 0
  stampdropped : Word := 0
  tracebase : DWord := 0
  tracesize : Nat := 0
  tracewritten : Word := 0
  cycles : DWord := 0
  policy : List Byte := List.replicate 32 0
  perf : List Word := List.replicate 8 0
deriving DecidableEq, Repr

/-- A fault-record entry (R348). -/
structure FaultEntry where
  kind : Nat
  cause : Byte
  block : Nat
  gidx : Nat
  core : Nat
  lanes : DWord
  pc : DWord
  tdata : DWord
  addr : DWord
  seq : Word
deriving DecidableEq, Repr

/-- What the engine section keeps of an engine fault: the faulting address or the instruction's, the number, the reason
or the cause, and the lane transfer that met a copy's fault (R181, R277, R341). -/
structure Note where
  addr : DWord := 0
  seq : Word := 0
  what : Nat := 0
  xfers : List Xfer := []
deriving DecidableEq, Repr

/-- Table 21.6's states. -/
inductive CtxPhase where
  | free
  | running
  | halting
  | halted
  | frozen
  | saving
deriving DecidableEq, Repr

/-- What a context in transition does when it gets there (R333, R338, R349, R361). -/
inductive Request where
  | none
  /-- a halt for the command complex: its finish event carries this op -/
  | halt (op : Nat)
  /-- halt by the halt instruction: the group's block and gidx -/
  | program
  /-- halt and dump by a trap; kill afterwards (R330) -/
  | dump (kill : Bool)
  /-- dump asked by ctxrun -/
  | ctxDump
  /-- teardown (R332); `event` if ctxrun asked it -/
  | kill (event : Bool)
  /-- pre-emption into an image area; `after` a dump (R361) -/
  | save (image : Nat)
deriving DecidableEq, Repr

/-- A context (R231, R285 to R298, R342, R350). -/
structure Ctx where
  phase : CtxPhase := .free
  hdr : Header := {}
  /-- granule generations that are not 0 (R232) -/
  gens : List (Nat × Word) := []
  frames : List Frame := []
  /-- lanes parked for granules: group, lane, granules (R240) -/
  granQ : List (Nat × Nat × Nat) := []
  /-- MODEL, DEDUCED (log entry 116): the grids whose completion was a failure and orders nothing, each with the first granule of
  its frame and that granule's generation (R238, R243) -/
  failures : List (Nat × Nat × Word) := []
  nodes : List (Nat × Node) := []
  /-- bins by die × 256 + node -/
  bins : List (Nat × Bin) := []
  hasNodes : Bool := false
  /-- incumbent slots granted: slot, device register (R288) -/
  slots : List (Nat × Nat) := []
  dropEmit : DWord := 0
  dropBin : DWord := 0
  kills : DWord := 0
  /-- planted breakpoints: address and original word (R350) -/
  bkpts : List (Nat × Word) := []
  entries : List FaultEntry := []
  /-- DEDUCED (log entry 89): Cicada's reports on the blocked rows of the context (R379) -/
  reports : List FaultEntry := []
  /-- engine fault reasons and losses kept for the engine section (R181, R277, R281) -/
  notes : List Note := []
  stampLoss : Nat := 0
  request : Request := .none
  /-- ctxrun operations whose finish event is sent when the context's halt or teardown is complete (R361) -/
  owed : List Nat := []
  /-- a save or a pre-emption waiting for the context to be resumed (Table 20.4) -/
  waiting : Option Nat := none
  /-- the trap that killed the context: written at dumpbase (R332) -/
  lastEntry : Option FaultEntry := none
  /-- DEDUCED (log entry 84): pages of return regions whose faults were answered with fail during the save (R322, R353) -/
  givenUp : List Nat := []
  /-- status of its completion: none while it runs (R211, Table 21.4) -/
  ending : Option Nat := none
deriving DecidableEq, Repr

/-! ### Device, complex, Sexton, power, board -/

/-- An identifier entry (Table 19.3). -/
structure Asid where
  live : Bool := false
  key : Nat := 0
  root : Nat := 0
deriving DecidableEq, Repr

/-- A region's state (Table 18.2). -/
inductive RegionState where
  | free
  | opened
  | sealed
  | committing
  | committed
  | aborted
deriving DecidableEq, Repr

/-- A region object (R299, R300). Objects of this device have the keys 0 to 255; a region of another home that a group
here has joined stands under 256 plus its handle's cursor (DEDUCED, log entry 44). -/
structure Region where
  state : RegionState := .free
  /-- the count of its age -/
  count : Nat := 0
  ctx : Nat := 0
  /-- member groups of this device, and of others as (device, group) -/
  members : List Nat := []
  remote : List (Nat × Nat) := []
  /-- remote members that have voted -/
  remoteVoted : List (Nat × Nat) := []
  /-- other devices that hold records of it (R311) -/
  holders : List Nat := []
  reason : Byte := 0
deriving DecidableEq, Repr

/-- An event record (Table 21.3) with the model's note of what it concerns. -/
structure EventRec where
  kind : Byte := 0
  err : Bool := false
  redo : Bool := false
  queue : Nat := 0
  ticket : Word := 0
  w2 : Word := 0
  w3 : Word := 0
  /-- arrival order, for redelivery (R365) -/
  order : Nat := 0
  /-- it is of a queue -/
  ofQueue : Bool := false
  /-- MODEL, DESIGN CHOICE (log entry 152): its ticket went when its queue was set active (R362) -/
  void : Bool := false
  /-- redelivered after an instruction-memory error (R366) -/
  imem : Bool := false
  /-- what a dump fault carries: the first address that failed, and the section (R349) -/
  dfaddr : DWord := 0
  tsect : Nat := 0
deriving DecidableEq, Repr

/-- A command queue (R360, R362, R366). -/
structure Queue where
  active : Bool := false
  err : Bool := false
  /-- the next ticket, and the ticket the lock serves -/
  next : Word := 0
  serving : Word := 0
  /-- tickets after the one served whose events have ended -/
  done : List Word := []
deriving DecidableEq, Repr

/-- A Kolesque core's state (R354, R360, R364, R366). -/
inductive KStatus where
  /-- held in reset -/
  | reset
  | running
  /-- parked at evwait for its next event -/
  | idle
  /-- parked at a qlock -/
  | qlock
  /-- stopped for a handover -/
  | stopped
  | retired
deriving DecidableEq, Repr

/-- A Kolesque core. -/
structure KCore where
  status : KStatus := .reset
  event : Option EventRec := none
  /-- the current event has released its lock -/
  released : Bool := false
  /-- evwait's destination -/
  dest : Nat := 0
  cycles : DWord := 0
  imem : Memory := {}
  dmem : Memory := {}
  /-- addresses of uncorrectable instruction-memory errors (R366) -/
  errs : List Nat := []
deriving DecidableEq, Repr

/-- BAR0's complex state (R358). -/
inductive ComplexState where
  | reset
  | running
  | handover
  | crashed
deriving DecidableEq, Repr

/-- The command complex's shared registers (Tables 21.1, 21.2). -/
structure Complex where
  state : ComplexState := .reset
  wdog : Word := 100000
  pstab : DWord := 0
  fwimg : DWord := 0
  /-- timers that are armed, with the microseconds written -/
  ktimers : List (Nat × Word) := []
  cause : Byte := 0
  crashes : Nat := 0
  handover : Bool := false
  warm : Bool := false
  /-- a handover under way: the successor's address (R364) -/
  successor : Option Nat := none
deriving DecidableEq, Repr

/-- The signed scrub record (Table 22.3), but for its signature, which Config gives. -/
structure Record where
  valid : Bool := false
  lease : DWord := 0
  nonce : BitVec 256 := 0
  scrubbed : BitVec 14 := 0
  hbmspares : Nat := 0
  onspares : Nat := 0
  disabled : List Nat := []
  retired : Nat := 0
  meas : BitVec 512 := 0
  handovers : Word := 0
deriving DecidableEq, Repr

/-- Sexton (Table 22.1). -/
structure Sexton where
  /-- 0 booting, 1 scrubbing, 2 awaiting firmware, 3 running, 4 boot failed, 5 firmware refused -/
  state : Nat := 0
  degraded : Bool := false
  recvalid : Bool := false
  overwrite : Bool := false
  fwaddr : DWord := 0
  nonce : BitVec 256 := 0
  meas : BitVec 512 := 0
  handovers : Word := 0
  lease : DWord := 0
  record : Record := {}
  /-- the closing lease's chain, and the nonce at the request, while scrubbing (R374) -/
  closing : BitVec 512 × Word := (0, 0)
  atRequest : BitVec 256 := 0
  /-- a request accepted while booting: the nonce as it stood, and whether it asked for overwrite (R373) -/
  asked : Option (BitVec 256 × Bool) := none
deriving DecidableEq, Repr

/-- The power controller (R377, R378, Table 23.1). -/
structure Power where
  on : Bool := true
  volts : Nat := 0
  watts : Nat := 0
  inlet : Nat := 0
  hottest : Nat := 0
  pwrBrake : Bool := false
  thermBrake : Bool := false
  /-- the brake was applied within the present window, and holds through the next (R378) -/
  fresh : Bool := false
  /-- cores that issued in their last cycle under the brake (R378) -/
  braked : List Nat := []
  /-- in-band interrupts raised to the board (R385) -/
  ibi : Nat := 0
deriving DecidableEq, Repr

/-- A unit of Table 22.4, whose errors are counted. -/
inductive Site where
  | hbmRow (granule : Nat)
  | regRow (core row reg : Nat)
  | windowRow (core slot : Nat)
  /-- a physical line of a core's scratchpad, by its bank (R167) -/
  | scratchLine (core bank line : Nat)
  | cacheLine (die line : Nat)
deriving DecidableEq, Repr

/-- Hints in force for the governed instruction (R36 to R40). -/
structure Hints where
  /-- the wide payload -/
  wide : Option Nat := none
  /-- the idx payload -/
  idx : Option Nat := none
  memh : Option Nat := none
  lsteps : List (BitVec 22) := []
deriving DecidableEq, Repr

/-- A trap raised in a lane (R325): cause, saved PC (R41), data, and what the fault record keeps of it (R348). -/
structure Trap where
  lane : Nat × Nat
  cause : Byte
  pc : DWord
  data : DWord
  addr : DWord := 0
  seq : Word := 0
deriving DecidableEq, Repr

/-- MODEL: the gather being executed (R84): who issues, the lanes by ascending slot as (group, lane), the address of
the instruction word, the address of the first hint of its run, the word, the hints, and the traps of the lanes whose
fetch failed. -/
structure Latch where
  agent : Agent
  row : Nat
  lanes : List (Nat × Nat)
  pc : DWord
  start : DWord
  word : Word
  hints : Hints := {}
  /-- the hint words of the run, in order -/
  run : List Word := []
  late : List Trap := []
deriving DecidableEq, Repr

/-- MODEL: one entry of the agenda: which agent acts next. -/
inductive Action where
  /-- a compute core's picker acts for one cycle -/
  | issue (core : Nat)
  /-- a Kolesque core issues -/
  | kissue (kcore : Nat)
  /-- an event of the table, with what its agent brings -/
  | event (i : Instr) (arg : EvArg)
  /-- a core counts cycles without issuing -/
  | elapse (core cycles : Nat)
  /-- a TLB drops an entry (R319: which entries a TLB keeps changes time only) -/
  | tlbDrop (core : Nat) (die : Bool) (asid va : Nat)
  /-- a core's L1 drops the line of an address (R11: which lines an L1 keeps changes time only) -/
  | l1Drop (core addr : Nat)
deriving DecidableEq, Repr

/-- MODEL: an image this machine wrote, with the parts whose byte layout the spec leaves open (R344, sections 5 to 8):
by the bytes of those sections, and the context as it stood. `blocks` gives each block's identifier with its grid's and
its index. -/
structure Saved where
  /-- the bytes of sections 5 to 8 whose layout is open, as they were written -/
  sections : List (List Byte) := []
  /-- the check of the image (R343) -/
  check : DWord := 0
  ctx : Ctx
  grids : List Grid
  copies : List Copy
  ops : List MxOp
  /-- the engine of each ticket, and its crew -/
  tickets : List (Nat × (Nat × Nat))
  stamps : List Stamp := []
  lost : List (Nat × Word) := []
  blocks : List (Nat × Nat × Nat) := []
  /-- the regions the context opened: index and count -/
  regions : List (Nat × Nat) := []
  groups : List Group
deriving DecidableEq, Repr

/-- The machine. -/
structure State where
  /-- MODEL, DESIGN CHOICE (log entry 1): who acts next -/
  agenda : List Action := []
  /-- MODEL, DESIGN CHOICE (log entry 2): steps taken, the argument of the free values -/
  steps : Nat := 0
  /-- MODEL, DESIGN CHOICE (log entry 3): the gather being executed -/
  issue : Option Latch := none
  /-- MODEL, DESIGN CHOICE (log entries 3 and 108): what the event being executed brings -/
  ev : EvArg := {}
  /-- MODEL, DESIGN CHOICE (log entry 4): the next internal identifier -/
  nextId : Nat := 0
  /-- MODEL, DESIGN CHOICE (log entry 1): the agent that issued last, for the default order of agents -/
  turn : Nat := 0
  /-- MODEL, DESIGN CHOICE (log entry 5) -/
  images : List Saved := []
  cores : List (Nat × Core) := []
  dies : List (Nat × Die) := []
  groups : List Group := []
  blocks : List Block := []
  grids : List Grid := []
  /-- the launch queue of each priority, by grid (R81, R241) -/
  launchQ : List (Nat × List Nat) := []
  copies : List Copy := []
  ops : List MxOp := []
  ctxs : List (Nat × Ctx) := []
  hbm : Memory := {}
  /-- the key of every sector not listed in `sectorKeys`, and the sectors last written under another, with it (R370).
  Keys are numbered: 3n the lease key of lease n, 3m + 1 that of key material m, 3k + 2 one that nothing reads under
  (DESIGN CHOICE, log entry 36). -/
  baseKey : Nat := 0
  sectorKeys : List (Nat × Nat) := []
  /-- poisoned sectors of the cores' L1s: by core × 2^34 + sector, with the mask of its bytes written since (R147) -/
  l1 : List (Nat × Nat) := []
  asids : List (Nat × Asid) := []
  /-- loaded key slots 1 to 63, with the key (R370) -/
  keys : List (Nat × Nat) := []
  /-- slot 0 has been destroyed: the lease key is erased (R370) -/
  leaseLost : Bool := false
  /-- DEDUCED (log entry 8): the incumbents' home key and tag; unlisted ones read zeros, as the scrub leaves them (R373) -/
  incumbents : List (Nat × Word × Word) := []
  regions : List (Nat × Region) := []
  openCount : BitVec 48 := 0
  /-- MODEL, DEDUCED (log entry 116): the values that atomics have replaced (R207) -/
  past : List Past := []
  /-- committed speculative operations that wait while a region installs its records on their lines, each with its context
  here if it has one (R208, R310) -/
  delayed : List (Option Nat × SpecOp) := []
  /-- tentative speculative operations of groups of other devices on this one's memory, with the device and the group (R208) -/
  farSpec : List ((Nat × Nat) × SpecOp) := []
  derate : Nat := 0
  derateNext : Option Nat := none
  hangMs : Nat := 1000
  retired : List Nat := []
  ce : List (Site × Nat) := []
  lasting : List Site := []
  /-- lasting units that no spare replaced (R374, R375) -/
  unspared : List Site := []
  /-- spares used by each bank or slice -/
  spares : List (Site × Nat) := []
  kcores : List (Nat × KCore) := []
  complex : Complex := {}
  eventQ : List EventRec := []
  /-- events that their sources hold while the event queue is full, in order (R357) -/
  eventHeld : List EventRec := []
  queues : List (Nat × Queue) := []
  queueMem : Memory := {}
  eventOrder : Nat := 0
  msix : List Nat := []
  sexton : Sexton := {}
  aperBase : DWord := 0
  aperSlot : DWord := 0
  power : Power := {}
  linkUp : Bool := true
  domid : Byte := 0xFF
  i3cAddr : Option (BitVec 7) := none
  routes : List Nat := []
  remotes : List Remote := []
  /-- return entries spilled to other devices, by device and granule (R115) -/
  spilled : List (Nat × Cap) := []
  /-- MODEL, DESIGN CHOICE (log entry 13): what the last read of the host, the board or another device returned, and whether its bytes are poisoned -/
  hostRead : List Byte := []
  hostPoison : Bool := false
  /-- what another device read is a tagged granule (R146) -/
  hostTag : Bool := false
  /-- the speculative atomic that another device last asked for found no free record (R208) -/
  hostOver : Bool := false
deriving DecidableEq, Repr

/-- The values the spec does not give are those of the log (DESIGN CHOICE: entries 1 to 7, 9, 11 to 13, 98; DEDUCED:
entries 8 and 10). The machine right after reset: Sexton booting, nothing resident, the complex held in reset, memory listing
nothing.
Log: DESIGN CHOICE (entry 12). -/
def State.reset : State := {}

end Sys2Proof.Machine
end

