-- ==== Sys2Proof/Machine/Ops.lean ====
section
/-!
DEFINITION. The named operations: tables, memories with tags and poison (R1, R146, R147), the accessors of the state,
the registers (R95, R150, R157, R276), delivery of a trap (R327) and return from it (R120, R328).
-/

namespace Sys2Proof.Machine

open Sys2Proof

/-! ### Tables -/

/-- The value a table lists for a key. -/
def tget {α : Type} (k : Nat) : List (Nat × α) → Option α
  | [] => none
  | (j, v) :: t => if j = k then some v else tget k t

/-- Set a key of a table, keeping the keys in rising order. -/
def tput {α : Type} (k : Nat) (v : α) : List (Nat × α) → List (Nat × α)
  | [] => [(k, v)]
  | (j, w) :: t => if j < k then (j, w) :: tput k v t else if j = k then (k, v) :: t else (k, v) :: (j, w) :: t

/-- Remove a key of a table. -/
def tdel {α : Type} (k : Nat) (t : List (Nat × α)) : List (Nat × α) := t.filter fun e => !(e.1 == k)

/-- Put a number into a rising list. -/
def sput (k : Nat) : List Nat → List Nat
  | [] => [k]
  | j :: t => if j < k then j :: sput k t else if j = k then j :: t else k :: j :: t

/-- Remove a number from a list. -/
def sdel (k : Nat) (t : List Nat) : List Nat := t.filter fun j => !(j == k)

/-- Bit `i` of a mask held as a number. -/
def mbit (m i : Nat) : Bool := m / 2 ^ i % 2 == 1

/-- A mask with bit `i` set. -/
def mset (m i : Nat) : Nat := if mbit m i then m else m + 2 ^ i

/-- A mask with bit `i` clear. -/
def mclr (m i : Nat) : Nat := if mbit m i then m - 2 ^ i else m

/-- The numbers below `n` in rising order. -/
def upto (n : Nat) : List Nat := List.range n

/-- Insert into a sorted list, after what it does not precede. -/
def insertBy {α : Type} (before : α → α → Bool) (x : α) : List α → List α
  | [] => [x]
  | y :: t => if before x y then x :: y :: t else y :: insertBy before x t

/-- Sort a list by a strict order; what it leaves equal keeps its place. -/
def sortBy {α : Type} (before : α → α → Bool) (l : List α) : List α := l.foldl (fun s x => insertBy before x s) []

/-! ### Numbers (R61) -/

/-- wrap32: the lane word of an integer. -/
def wrap32 (x : Int) : Word := BitVec.ofInt 32 x

/-- as_i32: a word read as i32. -/
def asI32 (w : Word) : Int := w.toInt

/-- as_n32: a word read as n32. -/
def asN32 (w : Word) : Int := (w.toNat : Int)

/-- sat_i32. -/
def satI32 (x : Int) : Word := wrap32 (min (max x (-2147483648)) 2147483647)

/-- sat_n32. -/
def satN32 (x : Int) : Word := wrap32 (min (max x 0) 4294967295)

/-- rotl64(h, 5) xor w, the fold of R227 and R343. -/
def foldStep (h : DWord) (w : Word) : DWord := (h.rotateLeft 5) ^^^ w.setWidth 64

/-! ### Memories -/

/-- The byte a list of cells gives at an address; an unlisted byte is 0. -/
def cellAt (a : Nat) : List Host.Cell → Byte
  | [] => 0
  | (k, b) :: t => if k = a then b else cellAt a t

/-- Set a byte, keeping the cells in rising order and listing no 0. -/
def cellSet (a : Nat) (b : Byte) : List Host.Cell → List Host.Cell
  | [] => if b = 0 then [] else [(a, b)]
  | (k, c) :: t =>
    if k < a then (k, c) :: cellSet a b t
    else if k = a then (if b = 0 then t else (a, b) :: t)
    else if b = 0 then (k, c) :: t else (a, b) :: (k, c) :: t

/-- The keys of a list rise strictly from above `lo`. -/
def risingFrom (lo : Int) : List Nat → Bool
  | [] => true
  | k :: t => decide (lo < (k : Int)) && risingFrom k t

/-- The canonical form of a memory: addresses strictly rising and no byte 0 listed; tags and poison units rising.
Log: DESIGN CHOICE (entries 9, 107). -/
def Memory.wf (m : Memory) : Bool :=
  risingFrom (-1) (m.cells.map (·.1)) && m.cells.all (fun c => !(c.2 == 0)) &&
  risingFrom (-1) m.tags && risingFrom (-1) (m.poison.map (·.1))

/-- One byte of a memory.
Log: DESIGN CHOICE (entry 9). -/
def Memory.byte (m : Memory) (a : Nat) : Byte := cellAt a m.cells

/-- `n` bytes from an address, the lowest first. -/
def Memory.bytes (m : Memory) (a : Nat) : Nat → List Byte
  | 0 => []
  | n + 1 => m.byte a :: Memory.bytes m (a + 1) n

/-- Set one byte and nothing else.
Log: DESIGN CHOICE (entry 107). -/
def Memory.setByte (m : Memory) (a : Nat) (b : Byte) : Memory := { m with cells := cellSet a b m.cells }

/-- Set bytes from an address.
Log: DESIGN CHOICE (entry 107). -/
def Memory.setBytes (m : Memory) (a : Nat) : List Byte → Memory
  | [] => m
  | b :: t => Memory.setBytes (m.setByte a b) (a + 1) t

/-- The tag of the granule that holds an address (R146). -/
def Memory.tag (m : Memory) (a : Nat) : Bool := m.tags.contains (a / 16)

/-- The granules, or units of size `u`, that `n` bytes from `a` touch. -/
def unitsOf (u a n : Nat) : List Nat := if n = 0 then [] else (upto ((a + n - 1) / u - a / u + 1)).map (· + a / u)

/-- Clear the tags of the granules a write touches (R146). -/
def Memory.untag (m : Memory) (a n : Nat) : Memory :=
  { m with tags := (unitsOf 16 a n).foldl (fun t g => sdel g t) m.tags }

/-- Set the tag of the granule at an address. -/
def Memory.setTag (m : Memory) (a : Nat) (v : Bool) : Memory :=
  { m with tags := if v then sput (a / 16) m.tags else sdel (a / 16) m.tags }

/-- Some unit that `n` bytes from `a` touch is poisoned (R147). -/
def Memory.poisoned (m : Memory) (u a n : Nat) : Bool := (unitsOf u a n).any fun k => (tget k m.poison).isSome

/-- Mark units poisoned: no byte of them has been written since (R147). -/
def Memory.mark (m : Memory) (u a n : Nat) : Memory :=
  { m with poison := (unitsOf u a n).foldl (fun t k => tput k 0 t) m.poison }

/-- The mask of the bytes of unit `k` of size `u` that `n` bytes from `a` cover. -/
def coverMask (u k a n : Nat) : Nat :=
  (upto u).foldl (fun m i => if a ≤ k * u + i ∧ k * u + i < a + n then mset m i else m) 0

/-- Count written bytes towards the clearing of poisoned units (R147). -/
def Memory.cleanse (m : Memory) (u a n : Nat) : Memory :=
  { m with poison := (unitsOf u a n).foldl (fun t k =>
      match tget k t with
      | none => t
      | some w =>
        let w' := (upto u).foldl (fun x i => if mbit (coverMask u k a n) i then mset x i else x) w
        if w' = 2 ^ u - 1 then tdel k t else tput k w' t) m.poison }

/-- A plain write of bytes: the bytes, tags cleared, poison counted down (R143, R146, R147). -/
def Memory.write (m : Memory) (u a : Nat) (bs : List Byte) : Memory :=
  ((m.setBytes a bs).untag a bs.length).cleanse u a bs.length

/-- The number a list of bytes holds, little-endian (R1). -/
def leNat : List Byte → Nat
  | [] => 0
  | b :: t => b.toNat + 256 * leNat t

/-- The `n` bytes of a number, little-endian. -/
def leBytes : Nat → Nat → List Byte
  | 0, _ => []
  | n + 1, x => BitVec.ofNat 8 x :: leBytes n (x / 256)

/-- A word as 4 bytes with its poison written at an address. -/
def Memory.writeWord (m : Memory) (u a : Nat) (w : PWord) : Memory :=
  let m := m.write u a (leBytes 4 w.val.toNat)
  if w.poison then m.mark u a 4 else m

/-- The word at an address, poisoned if its unit is. -/
def Memory.word (m : Memory) (u a : Nat) : PWord :=
  { val := BitVec.ofNat 32 (leNat (m.bytes a 4)), poison := m.poisoned u a 4 }

/-! ### Accessors of the state -/

/-- The fused speed entry e_c of a core, 0 to 20 (R15).
Log: DESIGN CHOICE (entry 6). -/
def fusedEntry (c : Nat) : Nat := Config.speedEntry c % 21

/-- A core (R10). -/
def State.core (s : State) (c : Nat) : Core := (tget c s.cores).getD {}

/-- Change a core. -/
def State.modCore (s : State) (c : Nat) (f : Core → Core) : State := { s with cores := tput c (f (s.core c)) s.cores }

/-- A die. -/
def State.die (s : State) (d : Nat) : Die := (tget d s.dies).getD {}

/-- Change a die. -/
def State.modDie (s : State) (d : Nat) (f : Die → Die) : State := { s with dies := tput d (f (s.die d)) s.dies }

/-- A context. -/
def State.ctx (s : State) (c : Nat) : Ctx := (tget c s.ctxs).getD {}

/-- Change a context. -/
def State.modCtx (s : State) (c : Nat) (f : Ctx → Ctx) : State := { s with ctxs := tput c (f (s.ctx c)) s.ctxs }

/-- A Kolesque core. -/
def State.kcore (s : State) (k : Nat) : KCore := (tget k s.kcores).getD {}

/-- Change a Kolesque core. -/
def State.modKcore (s : State) (k : Nat) (f : KCore → KCore) : State :=
  { s with kcores := tput k (f (s.kcore k)) s.kcores }

/-- A command queue. -/
def State.queue (s : State) (q : Nat) : Queue := (tget q s.queues).getD {}

/-- Change a command queue. -/
def State.modQueue (s : State) (q : Nat) (f : Queue → Queue) : State :=
  { s with queues := tput q (f (s.queue q)) s.queues }

/-- A region object. -/
def State.region (s : State) (i : Nat) : Region := (tget i s.regions).getD {}

/-- Change a region object. -/
def State.modRegion (s : State) (i : Nat) (f : Region → Region) : State :=
  { s with regions := tput i (f (s.region i)) s.regions }

/-- An identifier entry (R318). -/
def State.asid (s : State) (a : Nat) : Asid := (tget a s.asids).getD {}

/-- A group, by its identifier. -/
def State.group (s : State) (gid : Nat) : Group := (s.groups.find? (·.gid == gid)).getD { gid := gid }

/-- Change a group. -/
def State.modGroup (s : State) (gid : Nat) (f : Group → Group) : State :=
  { s with groups := s.groups.map fun g => if g.gid == gid then f g else g }

/-- A lane by group and number. -/
abbrev LRef := Nat × Nat

/-- A lane. -/
def State.lane (s : State) (r : LRef) : Lane := ((s.group r.1).lanes[r.2]?).getD {}

/-- Change a lane. -/
def State.modLane (s : State) (r : LRef) (f : Lane → Lane) : State :=
  s.modGroup r.1 fun g => { g with lanes := g.lanes.modify r.2 f }

/-- A block. -/
def State.block (s : State) (b : Nat) : Block :=
  (s.blocks.find? (·.bid == b)).getD { bid := b, grid := 0, index := 0 }

/-- Change a block. -/
def State.modBlock (s : State) (b : Nat) (f : Block → Block) : State :=
  { s with blocks := s.blocks.map fun x => if x.bid == b then f x else x }

/-- A grid that is not held. -/
def noGrid (g : Nat) : Grid :=
  { uid := g, ctx := 0, frame := 0, granules := 0, level := 0, depth := 0, display := [], code := {},
    dimx := 0, dimy := 0, dimz := 0, blksize := 0, width := 8, regs := 8, lines := 0 }

/-- A grid. -/
def State.grid (s : State) (g : Nat) : Grid := (s.grids.find? (·.uid == g)).getD (noGrid g)

/-- Change a grid. -/
def State.modGrid (s : State) (g : Nat) (f : Grid → Grid) : State :=
  { s with grids := s.grids.map fun x => if x.uid == g then f x else x }

/-- Change a copy. -/
def State.modCopy (s : State) (c : Nat) (f : Copy → Copy) : State :=
  { s with copies := s.copies.map fun x => if x.id == c then f x else x }

/-- Change an operation. -/
def State.modOp (s : State) (o : Nat) (f : MxOp → MxOp) : State :=
  { s with ops := s.ops.map fun x => if x.id == o then f x else x }

/-- A row of a core. -/
def State.row (s : State) (c r : Nat) : Row := (tget r (s.core c).rows).getD { grid := 0, regs := 0 }

/-- Change a row of a core, if it is resident. -/
def State.modRow (s : State) (c r : Nat) (f : Row → Row) : State :=
  s.modCore c fun k =>
    match tget r k.rows with
    | some x => { k with rows := tput r (f x) k.rows }
    | none => k

/-- The core a compute group runs on. -/
def Group.coreOf (g : Group) : Nat :=
  match g.agent with
  | .core c => c
  | .kcore k => k

/-- The group runs on a Kolesque core. -/
def Group.isK (g : Group) : Bool :=
  match g.agent with
  | .core _ => false
  | .kcore _ => true

/-- The die of a compute core (R10). -/
def dieOf (c : Nat) : Nat := c / 40

/-- Take a fresh internal identifier.
Log: DESIGN CHOICE (entry 4). -/
def State.fresh (s : State) : State × Nat := ({ s with nextId := s.nextId + 1 }, s.nextId)

/-- A lane that has neither exited nor is an empty slot. -/
def Lane.unexited (l : Lane) : Bool :=
  match l.status with
  | .exited => false
  | .empty => false
  | _ => true

/-- The wait is at a blocking point of Table 5.3: a page fault's is none, and a held signer counts as one at rcvwait
(R272). -/
def Wait.blocking : Wait → Bool
  | .replay _ _ => false
  | .faultQueue _ => false
  | .signed _ => false
  | _ => true

/-- The lane is in an incimp that has its result but not its replicas (R294).
Log: DEDUCED (entry 57). -/
def Lane.awaitsResult (l : Lane) : Bool := match l.status with | .result _ _ _ _ => true | _ => false

/-- The hint words and the word of an instruction that the lane has begun, and for which another device has answered (R384).
Log: DESIGN CHOICE (entry 43). -/
def Lane.begun (l : Lane) : Option (List Word × Word) := l.returned.head?.map fun x => (x.acc.run, x.acc.word)

/-- The lane is within an instruction that it has begun and that it goes on with as it issues: it takes what another device has
brought, and stands at no instruction boundary (R384).
Log: DESIGN CHOICE (entry 43). -/
def Lane.midway (l : Lane) : Bool := l.status == .ready && !l.returned.isEmpty

/-- A lane parked at a blocking point of Table 5.3. -/
def Lane.atBlocking (l : Lane) : Bool :=
  match l.status with
  | .parked w _ => w.blocking
  | _ => false

/-- The lanes of a group, by number. -/
def Group.numbered (g : Group) : List (Nat × Lane) := (upto g.lanes.length).zip g.lanes

/-- The thread's index in its block (Table 5.1). -/
def Group.tidx (g : Group) (lane : Nat) : Nat := g.gidx * g.width + lane

/-! ### Capabilities (R131 to R136) -/

/-- The metadata word of bytes 8 to 11. -/
def Cap.mlo (c : Cap) : Word := lo32 c.md

/-- The metadata word of bytes 12 to 15. -/
def Cap.mhi (c : Cap) : Word := hi32 c.md

/-- Permission bits (Table 8.3). -/
def Cap.perms (c : Cap) : Nat := c.mhi.toNat / 2 ^ 24

/-- Permission bit `i`. -/
def Cap.perm (c : Cap) (i : Nat) : Bool := mbit c.perms i

/-- The space (R134). -/
def Cap.space (c : Cap) : Nat := c.mhi.toNat / 2 ^ 20 % 16

/-- The object type (R135). -/
def Cap.otype (c : Cap) : Nat := c.mhi.toNat / 2 ^ 16 % 16

/-- The bounds exponent. -/
def Cap.exp (c : Cap) : Nat := c.mhi.toNat / 2 ^ 10 % 64

/-- The base field B. -/
def Cap.bField (c : Cap) : Nat := c.mhi.toNat % 2 ^ 10 * 2 ^ 11 + c.mlo.toNat / 2 ^ 21

/-- The top field T. -/
def Cap.tField (c : Cap) : Nat := c.mlo.toNat % 2 ^ 21

/-- The base (R132). -/
def Cap.base (c : Cap) : Int :=
  let a := c.cursor.toNat / 2 ^ c.exp
  let am := a % 2 ^ 21
  ((a : Int) - ((am + 2 ^ 21 - c.bField) % 2 ^ 21 : Nat)) * 2 ^ c.exp

/-- The top (R132). -/
def Cap.top (c : Cap) : Int :=
  let a := c.cursor.toNat / 2 ^ c.exp
  let am := a % 2 ^ 21
  ((a + (c.tField + 2 ^ 21 - am) % 2 ^ 21 : Nat) : Int) * 2 ^ c.exp

/-- An access of `n` bytes at `a` is within bounds (R132). -/
def Cap.within (c : Cap) (a n : Nat) : Bool := decide (c.base ≤ (a : Int)) && decide ((a : Int) + n ≤ c.top)

/-- Metadata from its fields. -/
def mkMeta (perms space otype exp b t : Nat) : DWord :=
  BitVec.ofNat 64 (((perms % 256 * 2 ^ 24 + space % 16 * 2 ^ 20 + otype % 16 * 2 ^ 16 + exp % 64 * 2 ^ 10 +
    b / 2 ^ 11 % 2 ^ 10) * 2 ^ 32) + (b % 2 ^ 11 * 2 ^ 21 + t % 2 ^ 21))

/-- The least exponent from `e` upward at which [b, t) fits after rounding outward (R138), with the rounded bounds. -/
def fitBounds (b t : Nat) : Nat → Nat → Nat × Nat × Nat
  | 0, e => (e, b / 2 ^ e * 2 ^ e, (t + 2 ^ e - 1) / 2 ^ e * 2 ^ e)
  | fuel + 1, e =>
    let nb := b / 2 ^ e * 2 ^ e
    let nt := (t + 2 ^ e - 1) / 2 ^ e * 2 ^ e
    if nt - nb ≤ (2 ^ 21 - 1) * 2 ^ e then (e, nb, nt) else fitBounds b t fuel (e + 1)

/-- A tagged capability with the given fields and bounds rounded outward (R138). -/
def mkCap (cursor : Nat) (perms space otype base top : Nat) : Cap :=
  let (e, nb, nt) := fitBounds base top 44 0
  { cursor := BitVec.ofNat 64 cursor, md := mkMeta perms space otype e (nb / 2 ^ e % 2 ^ 21) (nt / 2 ^ e % 2 ^ 21), tag := true }

/-- A capability with its cursor moved and its tag kept. -/
def Cap.at (c : Cap) (a : DWord) : Cap := { c with cursor := a }

/-- A handle: a sealed capability with base = top = cursor and E = 0 (R238, R299). -/
def mkHandle (cursor : Nat) (perms otype : Nat) : Cap :=
  { cursor := BitVec.ofNat 64 cursor,
    md := mkMeta perms 0 otype 0 (cursor % 2 ^ 21) (cursor % 2 ^ 21), tag := true }

/-- The four words of a capability, from its lowest register up (R131). -/
def Cap.words (c : Cap) : List Word := [lo32 c.cursor, hi32 c.cursor, c.mlo, c.mhi]

/-- The invariants of R132: the decode of its bounds is exact. -/
def Cap.sound (c : Cap) : Bool :=
  decide (c.exp ≤ 43) && decide (c.base ≤ (c.cursor.toNat : Int)) && decide ((c.cursor.toNat : Int) ≤ c.top) &&
  decide (0 ≤ c.base) && decide (c.top - c.base ≤ ((2 ^ 21 - 1) * 2 ^ c.exp : Nat))

/-- A capability from its four words. -/
def capOfWords (w : List Word) (tag : Bool) : Cap :=
  { cursor := pair64 (w.getD 1 0) (w.getD 0 0), md := pair64 (w.getD 3 0) (w.getD 2 0), tag := tag }

/-- The capability in the 16 bytes of a granule. -/
def capOfBytes (bs : List Byte) (tag : Bool) : Cap :=
  capOfWords ((upto 4).map fun j => BitVec.ofNat 32 (leNat ((bs.drop (4 * j)).take 4))) tag

/-- The bytes of a capability. -/
def Cap.bytes (c : Cap) : List Byte := c.words.flatMap fun w => leBytes 4 w.toNat

/-- The capability in the bytes at an address that another device sends. It is tagged only where it is a whole granule that an
SK9 may have stored off its device: sound, with SHR, and not with FRM, which only frame capabilities have and none of those has
SHR (R132, R133, R146, R233).
Log: DESIGN CHOICE (entry 43). -/
def farCap (a : Nat) (bs : List Byte) (tag : Bool) : Cap :=
  let c := capOfBytes bs true
  capOfBytes bs (tag && bs.length == 16 && a % 16 == 0 && c.sound && c.perm 7 && !c.perm 6)

/-! ### Registers (R95, R150, R157, R276) -/

/-- The operation that owns a register, if one does (R276).
Log: DESIGN CHOICE (entry 38). -/
def Lane.ownerOf (l : Lane) (n : Nat) : Option Nat :=
  (l.owned.find? fun o => decide (o.1 ≤ n) && decide (n < o.1 + o.2.1)).map (·.2.2)

/-- One word of a list, or of what is before it: which one is open (R276).
Log: DESIGN CHOICE (entry 38). -/
def oneOf (k : Nat) (x : PWord) (t : List PWord) : PWord := (x :: t).getD (k % (t.length + 1)) x

/-- What the matrix engine writes to a register it owns while its compute runs (R276).
Log: DESIGN CHOICE (entry 38). -/
def Lane.draftsOf (l : Lane) (n : Nat) : List PWord := (tget n l.drafts).getD []

/-- Read a register: its word; while the matrix engine owns it, the word before the operation or one the engine writes,
which one is open (R276); its word or poison, which is open, once a short-lived word is past its 10 us (R157). -/
def State.reg (s : State) (r : LRef) (n : Nat) : PWord :=
  let l := s.lane r
  match l.ownerOf n with
  | some _ => oneOf (Config.ownedRead s.steps (r.1 * 64 + r.2) n) (l.regs.getD n {}) (l.draftsOf n)
  | none =>
    let w := l.regs.getD n {}
    if l.stale.contains n && !Config.shortLivedKept s.steps (r.1 * 64 + r.2) n then { w with poison := true } else w

/-- Set one register word of a lane, which starts its 10 us again (R157). -/
def Lane.setReg (l : Lane) (n : Nat) (w : PWord) : Lane :=
  { l with
    regs := l.regs.set n w
    stale := l.stale.filter fun k => !(k == n)
    unwritten := l.unwritten &&& ~~~(1#64 <<< n) }

/-- Write one register word of a lane, whose quad keeps its tag. A register that the matrix engine owns takes no word of a
program: the write leaves its final value open (R276). -/
def Lane.putReg (l : Lane) (n : Nat) (w : PWord) : Lane :=
  if (l.ownerOf n).isSome then { l with dirty := sput n l.dirty } else l.setReg n w

/-- Some register of a quad is owned by the matrix engine. -/
def Lane.quadOwned (l : Lane) (n : Nat) : Bool := (upto 4).any fun i => (l.ownerOf (n + i)).isSome

/-- Set or clear a quad's tag bit. -/
def Lane.putTag (l : Lane) (q : Nat) (v : Bool) : Lane :=
  { l with tags := if v then l.tags ||| (1#16 <<< q) else l.tags &&& ~~~(1#16 <<< q) }

/-- A non-capability write of a register: the tag of its quad is cleared (R95). -/
def Lane.wr (l : Lane) (n : Nat) (w : PWord) : Lane := (l.putReg n w).putTag (n / 4) false

/-- A non-capability write of a register of a lane of the state. -/
def State.wr (s : State) (r : LRef) (n : Nat) (w : PWord) : State := s.modLane r fun l => l.wr n w

/-- Write consecutive registers. -/
def State.wrs (s : State) (r : LRef) (n : Nat) : List PWord → State
  | [] => s
  | w :: t => State.wrs (s.wr r n w) r (n + 1) t

/-- The tag of the quad whose first register is `n`. -/
def Lane.tagOf (l : Lane) (n : Nat) : Bool := l.tags.getLsbD (n / 4)

/-- The four words of a quad as they read. -/
def State.quadWords (s : State) (r : LRef) (n : Nat) : List PWord :=
  [s.reg r n, s.reg r (n + 1), s.reg r (n + 2), s.reg r (n + 3)]

/-- The capability in the quad whose first register is `n` (R131). -/
def State.cap (s : State) (r : LRef) (n : Nat) : Cap :=
  capOfWords ((s.quadWords r n).map (·.val)) ((s.lane r).tagOf n)

/-- A capability write: four words and the tag (R137), which stays clear where the engine owns a word of the quad (R276). -/
def State.wrCap (s : State) (r : LRef) (n : Nat) (c : Cap) (poison : List Bool) : State :=
  s.modLane r fun l =>
    (((((l.putReg n { val := lo32 c.cursor, poison := poison.getD 0 false }).putReg (n + 1)
      { val := hi32 c.cursor, poison := poison.getD 1 false }).putReg (n + 2)
      { val := c.mlo, poison := poison.getD 2 false }).putReg (n + 3)
      { val := c.mhi, poison := poison.getD 3 false }).putTag (n / 4) (c.tag && !l.quadOwned n))

/-- Some word of a quad is poisoned. -/
def State.quadPoison (s : State) (r : LRef) (n : Nat) : Bool := (s.quadWords r n).any (·.poison)

/-! ### The L1s (R11, R147, R148) -/

/-- A sector of an address, as held in the L1 of a core.
Log: DEDUCED (entry 142). -/
def l1Key (core a : Nat) : Nat := core * 2 ^ 34 + a / 32

/-- A sector that `n` bytes touch is poisoned in a core's L1 (R147).
Log: DEDUCED (entry 142). -/
def State.l1Poison (s : State) (core a n : Nat) : Bool :=
  (unitsOf 32 a n).any fun k => (tget (core * 2 ^ 34 + k) s.l1).isSome

/-- A core's L1 drops the lines that `n` bytes touch (R11).
Log: DEDUCED (entry 142). -/
def State.dropLines (s : State) (core a n : Nat) : State :=
  { s with l1 := s.l1.filter fun e => !(e.1 / 2 ^ 34 == core && (unitsOf 128 a n).contains (e.1 % 2 ^ 34 / 4)) }

/-- The L1 of the core that a lane runs on drops the lines that `n` bytes touch (R11); a Kolesque core has none.
Log: DEDUCED (entry 142). -/
def State.dropOwn (s : State) (r : LRef) (a n : Nat) : State :=
  match (s.group r.1).agent with
  | .core c => s.dropLines c a n
  | .kcore _ => s

/-- What the L1s hold poisoned once `n` bytes have been written: a sector written whole since it was marked is clean (R147).
Log: DEDUCED (entry 142). -/
def l1Written (l1 : List (Nat × Nat)) (a n : Nat) : List (Nat × Nat) :=
  l1.filterMap fun e =>
    let m := e.2 ||| coverMask 32 (e.1 % 2 ^ 34) a n
    if m = 2 ^ 32 - 1 then none else some (e.1, m)

/-- A core's L1 drops every line: threads are born there, or come there from an image, with what was ordered before them
(R11, R190, R243).
Log: DEDUCED (entry 142). -/
def State.dropL1 (s : State) (core : Nat) : State := { s with l1 := s.l1.filter fun e => !(e.1 / 2 ^ 34 == core) }

/-- The L1 of the core that a lane runs on drops every line, as it does at an acquire point (R11, R188).
Log: DEDUCED (entry 142). -/
def State.freshL1 (s : State) (r : LRef) : State :=
  match (s.group r.1).agent with
  | .core c => s.dropL1 c
  | .kcore _ => s

/-! ### Acquire points (R188) -/

/-- An acquire point of a lane at a scope, made when atomics have replaced `t` values: it counts at every scope within (R188).
Log: DEDUCED (entry 116). -/
def Lane.acquire (l : Lane) (scope t : Nat) : Lane :=
  { l with acquired := ((upto l.acquired.length).zip l.acquired).map fun x => if x.1 ≤ scope then t else x.2 }

/-- Block, device and domain scope, as the encoding numbers them (Table 2.4). -/
def blockScope : Nat := 1
/-- Device scope. -/
def deviceScope : Nat := 3
/-- Domain scope. -/
def domainScope : Nat := 4

/-- A lane makes an acquire point now, and its core's L1 drops what it holds (R11).
Log: DEDUCED (entries 116, 142). -/
def State.acquires (s : State) (r : LRef) (scope : Nat) : State :=
  (s.freshL1 r).modLane r fun l => l.acquire scope s.past.length

/-! ### The PC, delivery and return (R111, R120, R159, R327, R328) -/

/-- The PC of a lane. -/
def Lane.pc (l : Lane) : DWord := l.code.cursor

/-- The code capability as it was installed: what it decodes to never changes while it stays in place (R111).
Log: DEDUCED (entry 125). -/
def Lane.codeCap (l : Lane) : Cap := l.code.at l.anchor

/-- Move the cursor of the code capability. -/
def Lane.goto (l : Lane) (a : DWord) : Lane := { l with code := l.code.at a }

/-- The row map of a lane's group. -/
def State.mapOf (s : State) (r : LRef) : List Quad :=
  let g := s.group r.1
  (s.row g.coreOf g.row).map

/-- Entries of channels taken for an instruction are given up (R93).
Log: DEDUCED (entry 22). -/
def Lane.dropHeld (l : Lane) : Lane := { l with heldA := none, heldB := none }

/-- TAKING AN EXCEPTION (R327): the cause, the saved PC and the data are recorded, the loop state and the row's window
map move to the trap shadow, the lane is in its handler, and its PC is the kernel entry plus tvec. -/
def State.deliver (s : State) (r : LRef) (cause : Byte) (pc data : DWord) : State :=
  let map := s.mapOf r
  s.modLane r fun l =>
    { l.dropHeld with
      tcause := cause.setWidth 32
      tpc := pc
      tdata := data
      shadow := { loop := l.loop, map := map }
      loop := none
      inHandler := true
      heldBack := false
      pendReplay := false
      stepOver := false
      returned := []
      token := none
      passed := false
      status := .ready
      code := l.code.at (l.entry + l.tvec.setWidth 64) }

/-- A trap of a lane enters its handler, rather than being a double trap (R327). -/
def Lane.canDeliver (l : Lane) : Bool := !(l.tvec == 0) && !l.inHandler

/-- RETURN FROM AN EXCEPTION (R120, R328): the PC is tpc, a shadowed loop state is restored and the shadow cleared, and
the lane is no longer in its handler. -/
def Lane.returnTrap (l : Lane) : Lane :=
  { l with
    code := l.code.at l.tpc
    loop := match l.shadow.loop with
      | some x => some { x with body := [] }
      | none => l.loop
    shadow := {}
    inHandler := false }

end Sys2Proof.Machine
end

