-- ==== Sys2Proof/Machine/Flags.lean ====
section
/-!
DEFINITION. Conditions. The SK9 has no arithmetic flags (R64, R96): what other machines keep as flags is here the 0 or 1 a
comparison writes (R61, R101), the truth of a word used as a condition (R61), and the channel-closed flag of chflags
(R249). The integer comparisons and the lesser and greater of two words stand here too.
-/

namespace Sys2Proof.Machine

open Sys2Proof

/-- A condition is true when the whole word is not zero (R61). -/
def condTrue (w : Word) : Bool := !(w == 0)

/-- The relations of the comparisons (Table 6.5). -/
inductive Rel where
  | eq | ne | lt | le | gt | ge
deriving DecidableEq, Repr

/-- A relation between two integers. -/
def Rel.holds (r : Rel) (x y : Int) : Bool :=
  match r with
  | .eq => decide (x = y)
  | .ne => decide (x ≠ y)
  | .lt => decide (x < y)
  | .le => decide (x ≤ y)
  | .gt => decide (x > y)
  | .ge => decide (x ≥ y)

/-- A signed comparison (R101). -/
def icmpS (r : Rel) (a b : Word) : Word := boolWord (r.holds (asI32 a) (asI32 b))

/-- An unsigned comparison (R101). -/
def icmpN (r : Rel) (a b : Word) : Word := boolWord (r.holds (asN32 a) (asN32 b))

/-- The lesser as i32. -/
def lesserS (a b : Word) : Word := if asI32 b < asI32 a then b else a

/-- The greater as i32. -/
def greaterS (a b : Word) : Word := if asI32 b > asI32 a then b else a

/-- The lesser as n32. -/
def lesserN (a b : Word) : Word := if asN32 b < asN32 a then b else a

/-- The greater as n32. -/
def greaterN (a b : Word) : Word := if asN32 b > asN32 a then b else a

/-- The channel-closed flag, bit 0 of chflags, set (R249). -/
def Lane.setClosed (l : Lane) : Lane := { l with chflags := l.chflags ||| 1 }

end Sys2Proof.Machine
end

