-- ==== Sys2Proof/Machine/Operands.lean ====
section
/-!
DEFINITION. Operand forms. The work of one instruction on its gather, the register numbers of its fields per lane (R30 to
R32, R38, R128, R160), the register-bounds check (R32, R160), its sources (R33, R77, R93), its immediates (R23, R37,
R128), its destinations, and the advance of the PC with the loop's pass end (R126, R129).
-/

namespace Sys2Proof.Machine

open Sys2Proof

/-- An instruction at work: the state, the gather, the lanes still in it by ascending slot, the helper lanes that would
have trapped (R77), the traps raised, and the lanes that have not issued with it after all (R84). -/
structure Work where
  s : State
  l : Latch
  live : List LRef
  zero : List LRef := []
  traps : List Trap := []
  apart : List LRef := []
deriving DecidableEq, Repr

/-- Begin an instruction on the latched gather.
Log: DESIGN CHOICE (entry 3). -/
def withGather (s : State) (f : Work → Host.Outcome State Fault Refusal) : Host.Outcome State Fault Refusal :=
  match s.issue with
  | none => .fault .noGather
  | some l => f { s := s, l := l, live := l.lanes, traps := l.late }

/-- Two words of tdata.
Log: DEDUCED (entry 26). -/
def tdata (lo hi : Word) : DWord := pair64 hi lo

/-- A lane fails a check: it leaves the gather and traps; a helper lane traps nothing (R77).
Log: DEDUCED (entry 26). -/
def Work.strike (w : Work) (r : LRef) (cause : Byte) (data : DWord) : Work :=
  let live := w.live.filter fun x => !(x == r)
  if (w.s.lane r).helper then { w with live := live, zero := w.zero ++ [r] }
  else { w with live := live, traps := w.traps ++ [{ lane := r, cause := cause, pc := w.l.start, data := data }] }

/-- A lane that passes or fails a check with a cause and data. -/
abbrev Verdict := Option (Byte × DWord)

/-- Apply a check to every lane of the gather, in lane order. -/
def Work.check (w : Work) (f : State → LRef → Verdict) : Work :=
  w.live.foldl (fun w r =>
    match f w.s r with
    | some (c, d) => w.strike r c d
    | none => w) w

/-- Park a lane at a blocking point: it leaves the gather (R86).
Log: DEDUCED (entry 22). -/
def Work.park (w : Work) (r : LRef) (wait : Wait) : Work :=
  { w with
    s := w.s.modLane r fun l => { l with status := .parked wait w.l.pc, parkedAt := w.s.steps }
    live := w.live.filter fun x => !(x == r) }

/-! ### Register numbers -/

/-- A signed field of `len` bits at `lo` of a hint's payload. -/
def signedBits (w lo len : Nat) : Int :=
  let x := w / 2 ^ lo % 2 ^ len
  if x < 2 ^ (len - 1) then x else (x : Int) - 2 ^ len

/-- Field codes (R32): D, A and B. -/
def codeD : Nat := 1
/-- The code of A. -/
def codeA : Nat := 2
/-- The code of B. -/
def codeB : Nat := 4

/-- The index register an idx payload selects, if it selects the field (R38). -/
def idxValue (l : Lane) (h : Hints) (code : Nat) : Int :=
  match h.idx with
  | none => 0
  | some p =>
    let selected := (code == codeD && mbit p 0) || (code == codeA && mbit p 1) || (code == codeB && mbit p 2)
    if selected then asI32 (match p / 8 % 4 with | 0 => l.x0 | 1 => l.x1 | 2 => l.x2 | _ => l.x3) else 0

/-- The lstep payload that a loop state holds for its body word (R39). -/
def stepOf (lp : Loop) : Nat := ((lp.steps.find? fun p => p.toNat % 32 == lp.i).getD 0).toNat

/-- What the loop state adds to a field's number (R128). -/
def loopStep (l : Lane) (code : Nat) : Int :=
  match l.loop with
  | none => 0
  | some lp =>
    let p := stepOf lp
    let step := if code = codeD then signedBits p 5 4 else if code = codeA then signedBits p 9 4
      else if code = codeB then signedBits p 13 4 else 0
    (lp.p.toNat : Int) * step

/-- The register number a field names in a lane (R128, R160). -/
def Work.num (w : Work) (r : LRef) (code n : Nat) : Int :=
  let l := w.s.lane r
  (n : Int) + idxValue l w.l.hints code + loopStep l code

/-- The register a field names in a lane that has passed the bounds check. -/
def Work.rnum (w : Work) (r : LRef) (code n : Nat) : Nat := (w.num r code n).toNat

/-- A field that names registers: its code, its number and how many registers it names. -/
structure Fld where
  code : Nat
  num : Nat
  width : Nat := 1
deriving DecidableEq, Repr

/-- The field is in range in a lane of `n` registers (R32, R160). -/
def inRange (m : Int) (width n : Nat) : Bool :=
  decide (0 ≤ m) && decide (m + width ≤ n) && (decide (width = 1) || decide (m % width = 0) || decide (4 < width))

/-- Step 4 of R43: the first field out of range decides the trap, which reports its number and code (R32). -/
def boundsVerdict (w : Work) (flds : List Fld) (r : LRef) : Verdict :=
  let n := (w.s.group r.1).regs
  match flds.find? fun f => !inRange (w.num r f.code f.num) f.width n with
  | some f => some (0x03, tdata (wrap32 (w.num r f.code f.num)) (BitVec.ofNat 32 f.code))
  | none => none

/-- The bounds check of every lane of the gather. -/
def Work.bounds (w : Work) (flds : List Fld) : Work :=
  w.live.foldl (fun v r =>
    match boundsVerdict w flds r with
    | some (c, d) => v.strike r c d
    | none => v) w

/-- A register of a field, which may name a range of another width in each lane, lies outside the row's map in some lane (R152). -/
def Work.strays (w : Work) (f : LRef → Fld) : Bool :=
  w.live.any fun r =>
    let m := w.rnum r (f r).code (f r).num
    let map := (w.s.mapOf r).map (·.toNat)
    (unitsOf 4 m (f r).width).any fun q => !map.contains q

/-- A field counts as unstaged if a register of it lies outside the row's map in some lane (R337, counter 1). -/
def Work.unstaged (w : Work) (flds : List Fld) : Nat := (flds.filter fun f => w.strays fun _ => f).length

/-- Add to a perf counter of a context (R337).
Log: DEDUCED (entry 72). -/
def State.count (s : State) (ctx i n : Nat) : State :=
  s.modCtx ctx fun c => { c with hdr := { c.hdr with perf := c.hdr.perf.modify i (· + BitVec.ofNat 32 n) } }

/-- The context of the gather. -/
def Work.ctx (w : Work) : Nat := match w.live with | r :: _ => (w.s.group r.1).ctx | [] => 0

/-- Count the unstaged fields of a gather of a compute core, once where it is held and issued again (R337, counter 1).
Log: DEDUCED (entry 72). -/
def Work.tally (w : Work) (n : Nat) : Work :=
  match w.l.agent with
  | .core _ => if w.live.all fun r => (w.s.lane r).heldBack then w else { w with s := w.s.count w.ctx 1 n }
  | .kcore _ => w

/-- Begin an instruction: its perf counts, then its bounds check. -/
def Work.begin (w : Work) (flds : List Fld) : Work := (w.tally (w.unstaged flds)).bounds flds

/-- The register field of a destination. -/
def dstFlds (d : Dst) : List Fld :=
  match d with
  | .reg n => [{ code := codeD, num := n.toNat }]
  | .push _ => []

/-- The register field of a source. -/
def srcFlds (a : Src) (code : Nat) : List Fld :=
  match a with
  | .reg n => [{ code := code, num := n.toNat }]
  | _ => []

/-- A field that must name registers. -/
def rfld (code : Nat) (n : Reg) (width : Nat := 1) : Fld := { code := code, num := n.toNat, width := width }

/-- A quad field of formats M and A (code 16). -/
def qfld (c : Quad) (code : Nat := 16) : Fld := { code := code, num := 4 * c.toNat, width := 4 }

/-! ### Sources, immediates -/

/-- The word a source field gives a lane (R33, R77): a register, or the entry taken for it. -/
def Work.src (w : Work) (r : LRef) (code : Nat) (a : Src) : PWord :=
  match a with
  | .reg n => w.s.reg r (w.rnum r code n.toNat)
  | _ =>
    let l := w.s.lane r
    if l.helper then {}
    else (if code = codeA then l.heldA else l.heldB).getD {}

/-- The word of a register field. -/
def Work.regOf (w : Work) (r : LRef) (code : Nat) (n : Reg) : PWord := w.s.reg r (w.rnum r code n.toNat)

/-- The raw immediate of `width` bits after the loop's step (R128). -/
def Work.rawImm (w : Work) (r : LRef) (width imm : Nat) : Nat :=
  match (w.s.lane r).loop with
  | none => imm
  | some lp => (((imm : Int) + (lp.p.toNat : Int) * signedBits (stepOf lp) 17 5) % ((2 ^ width : Nat) : Int)).toNat

/-- An imm12 extended, or the 32 bits of a wide hint (R23, R37).
Log: DEDUCED (entry 130). -/
def Work.imm12 (w : Work) (r : LRef) (signed : Bool) (imm : BitVec 12) : Word :=
  match w.l.hints.wide with
  | some p => BitVec.ofNat 32 (p * 2 ^ 12 + imm.toNat)
  | none =>
    let raw : BitVec 12 := BitVec.ofNat 12 (w.rawImm r 12 imm.toNat)
    if signed then raw.signExtend 32 else raw.setWidth 32

/-- The signed imm15 of format M. -/
def Work.imm15s (w : Work) (r : LRef) (imm : BitVec 15) : Int := (BitVec.ofNat 15 (w.rawImm r 15 imm.toNat)).toInt

/-- The unsigned imm15 of format F. -/
def Work.imm15n (w : Work) (r : LRef) (imm : BitVec 15) : Nat := w.rawImm r 15 imm.toNat

/-! ### Advance -/

/-- A lane moves past the word at `pc`: the next word, the next body word, or the pass end, which is a blocking point that
passes (R126, R129, Table 5.3). -/
def Lane.advance (l : Lane) (pc : DWord) : Lane :=
  let l := { l.dropHeld with status := .ready, pendReplay := false, stepOver := false, returned := [], heldBack := false, token := none }
  match l.loop with
  | none => l.goto (pc + 4)
  | some lp =>
    if lp.i + 1 < lp.len then { l.goto (pc + 4) with loop := some { lp with i := lp.i + 1 } }
    else if lp.p + 1 = lp.n then { l.goto (pc + 4) with loop := none, passed := true }
    else { l.goto (pc - 4 * BitVec.ofNat 64 (lp.len - 1)) with loop := some { lp with i := 0, p := lp.p + 1 }, passed := true }

/-- The lane ends a pass by moving past the word it stands at: a blocking point that passes (R129, Table 5.3). -/
def Lane.atPassEnd (l : Lane) : Bool :=
  match l.loop with
  | none => false
  | some lp => decide (lp.len ≤ lp.i + 1)

/-- Write the same number of zero words to a destination register field of the helper lanes that would have trapped.
Log: DEDUCED (entry 23). -/
def Work.zeroRegs (w : Work) (code num width : Nat) : Work :=
  w.zero.foldl (fun w r =>
    if inRange (w.num r code num) width (w.s.group r.1).regs then
      { w with s := w.s.wrs r (w.rnum r code num) (List.replicate width {}) }
    else w) w

/-- Write one word per live lane to a register field. -/
def Work.writeRegs (w : Work) (code num : Nat) (f : State → LRef → List PWord) : Work :=
  let vals := w.live.map fun r => (r, f w.s r)
  { w with s := vals.foldl (fun s v => s.wrs v.1 (w.rnum v.1 code num) v.2) w.s }

end Sys2Proof.Machine
end

