-- ==== Sys2Proof/Machine/Translate.lean ====
section
/-!
DEFINITION. Physical HBM under its keys (R317, R370, R371, R375), the page walk and the TLBs (R313 to R316, R319), the
event queue's arrival (R357), fault records (R321) and the answer to them (R322).
-/

namespace Sys2Proof.Machine

open Sys2Proof

/-! ### HBM -/

/-- HBM holds physical addresses below 2^39 (R317). -/
def hbmSize : Nat := 2 ^ 39

/-- The number of the key that Sexton drew for this lease (R370).
Log: DESIGN CHOICE (entry 36). -/
def State.drawnKey (s : State) : Nat := 3 * s.sexton.lease.toNat

/-- The lease key (R370). What is accessed under it asks first whether slot 0 still holds it (State.leaseLost).
Log: DEDUCED (entry 24), DESIGN CHOICE (entry 36). -/
def State.leaseKey (s : State) : Nat := s.drawnKey

/-- The key of a key slot (R370): slot 0 the lease key; an empty slot has none.
Log: DESIGN CHOICE (entry 36). -/
def State.keyOf (s : State) (slot : Nat) : Option Nat :=
  if slot = 0 then (if s.leaseLost then none else some s.drawnKey) else tget slot s.keys

/-- The key a sector was last written under. -/
def State.sectorKey (s : State) (a : Nat) : Nat := (tget (a / 32) s.sectorKeys).getD s.baseKey

/-- The byte at a physical address read under a key (R370): the plain byte, or what a wrong key makes of its sector.
Log: DESIGN CHOICE (entries 9, 36). -/
def State.hbmByte (s : State) (key a : Nat) : Byte :=
  let b := s.hbm.byte a
  if s.sectorKey a = key then b else Config.garble (s.sectorKey a) key a (s.hbm.bytes (a / 32 * 32) 32)

/-- Bytes of HBM under a key. -/
def State.hbmBytes (s : State) (key a n : Nat) : List Byte := (upto n).map fun i => s.hbmByte key (a + i)

/-- A granule of 4 KiB is retired (R375). -/
def State.isRetired (s : State) (a : Nat) : Bool := s.retired.contains (a / 4096)

/-- A sector was last written in an earlier lease (R371): it is not listed, and the base key is not this lease's.
Log: DEDUCED (entry 37). -/
def State.isStale (s : State) (a : Nat) : Bool :=
  (tget (a / 32) s.sectorKeys).isNone && s.baseKey != s.drawnKey

/-- The sectors that `n` bytes touch hold poison; a retired granule always does, and else a sector of an earlier lease never
(R371, R375). -/
def State.hbmPoison (s : State) (a n : Nat) : Bool :=
  (unitsOf 32 a n).any fun k => s.isRetired (32 * k) || ((tget k s.hbm.poison).isSome && !s.isStale (32 * k))

/-- The tag of a granule read under a key: clear in a sector of an earlier lease, and in a retired granule (R371, R375), and
under another key than the sector's, where the bytes are no capability that was stored (R136, R146).
Log: DEDUCED (entries 37, 131). -/
def State.hbmTag (s : State) (key a : Nat) : Bool :=
  !(s.isStale a || s.isRetired a) && s.sectorKey a == key && s.hbm.tag a

/-- The sectors of a write take the key they are written under. -/
def setKeys (keys : List (Nat × Nat)) (base key a n : Nat) : List (Nat × Nat) :=
  (unitsOf 32 a n).foldl (fun t k => if key = base then tdel k t else tput k key t) keys

/-- Before a write under another key than a sector's, the sector's other bytes become what that key reads (R370), which is no
capability that was stored (R146).
Log: DEDUCED (entry 131). -/
def State.rekey (s : State) (key a n : Nat) : State :=
  (unitsOf 32 a n).foldl (fun s k =>
    if s.sectorKey (k * 32) = key then s
    else
      let bs := s.hbmBytes key (k * 32) 32
      { s with hbm := (s.hbm.setBytes (k * 32) bs).untag (k * 32) 32 }) s

/-- Write bytes of one 4 KiB granule to HBM under a key; nothing writes a retired granule (R375). -/
def State.hbmPiece (s : State) (key a : Nat) (bs : List Byte) : State :=
  if s.isRetired a then s
  else
    let s := s.rekey key a bs.length
    { s with
      hbm := s.hbm.write 32 a bs
      sectorKeys := setKeys s.sectorKeys s.baseKey key a bs.length
      l1 := l1Written s.l1 a bs.length }

/-- Write bytes to HBM under a key, granule by granule. -/
def State.hbmWrite (s : State) (key a : Nat) (bs : List Byte) : State :=
  (unitsOf 4096 a bs.length).foldl (fun s g =>
    let lo := max a (4096 * g)
    s.hbmPiece key lo ((bs.drop (lo - a)).take (4096 * (g + 1) - lo))) s

/-- Write one word with its poison to HBM under a key (R147).
Log: DEDUCED (entry 24). -/
def State.hbmWord (s : State) (key a : Nat) (w : PWord) : State :=
  let s := s.hbmWrite key a (leBytes 4 w.val.toNat)
  if w.poison && !s.isRetired a then { s with hbm := s.hbm.mark 32 a 4 } else s

/-- Set or clear a granule's tag in HBM. -/
def State.hbmSetTag (s : State) (a : Nat) (v : Bool) : State :=
  if s.isRetired a then s else { s with hbm := s.hbm.setTag a v }

/-- The stack and the home die of a physical address (R317, R11). -/
def homeDie (a : Nat) : Nat := a / 4096 % 8 / 2

/-! ### The event queue -/

/-- The events that the event queue holds (R357).
Log: DEDUCED (entry 93). -/
def eventLimit : Nat := 4096

/-- An event enters the event queue (R357), and one of a command queue takes its next ticket (R360).
Log: DEDUCED (entries 88, 93). -/
def State.enqueue (s : State) (e : EventRec) : State :=
  let e := { e with order := s.eventOrder, ticket := if e.ofQueue then (s.queue e.queue).next else e.ticket }
  let s := if e.ofQueue then s.modQueue e.queue fun x => { x with next := x.next + 1 } else s
  { s with eventQ := s.eventQ ++ [e], eventOrder := s.eventOrder + 1 }

/-- An event arises: it enters the event queue, or is held by its source while the queue is full or another is held before it
(R357).
Log: DEDUCED (entry 93). -/
def State.offer (s : State) (e : EventRec) : State :=
  if s.eventHeld.isEmpty && decide (s.eventQ.length < eventLimit) then s.enqueue e
  else { s with eventHeld := s.eventHeld ++ [e] }

/-- An event of a kind without a queue arises (R357). -/
def State.event (s : State) (kind : Byte) (w2 w3 : Word) : State := s.offer { kind := kind, w2 := w2, w3 := w3 }

/-- A held event enters the queue once there is room (R357).
Log: DEDUCED (entry 93). -/
def State.refill (s : State) : State :=
  match s.eventHeld with
  | e :: t => if s.eventQ.length < eventLimit then { s with eventHeld := t }.enqueue e else s
  | [] => s

/-! ### The walk -/

/-- What a walk ends with (R315): a translation, or a reason and the level at which it stopped. -/
inductive Walked where
  | ok (e : TlbEntry)
  | recoverable (reason level : Nat)
  | fatal (reason level : Nat)
deriving DecidableEq, Repr

/-- The dev of an entry names this device (R314, R317). -/
def State.isHere (s : State) (dev : Nat) : Bool := dev == 0xFF || dev == s.domid.toNat

/-- A page-table entry lacks what an access of a kind needs (R315). -/
def lacks (k : Kind) (rd w x : Bool) : Bool :=
  match k with
  | .read => !rd
  | .write => !w
  | .rmw => !(rd && w)
  | .fetch => !x

/-- The index bits of a level (Table 19.1). -/
def vaIndex (va level : Nat) : Nat := va / 2 ^ (12 + 9 * level) % (if level = 4 then 256 else 512)

/-- The size of a leaf at a level, contiguous or not (Table 19.1). -/
def leafSize (level : Nat) (c : Bool) : Nat :=
  match level with
  | 0 => if c then 2 ^ 16 else 2 ^ 12
  | 1 => 2 ^ 21
  | _ => if c then 2 ^ 36 else 2 ^ 30

/-- The walk of R315 from the table at `pa` at level `fuel - 1`.
Log: DEDUCED (entry 24). -/
def walkFrom (s : State) (asid va : Nat) (k : Kind) : Nat → Nat → Walked
  | 0, _ => .fatal 3 0
  | lvl + 1, pa =>
    let at' := pa + 8 * vaIndex va lvl
    if hbmSize ≤ at' then .fatal 7 lvl
    else if s.hbmPoison at' 8 then .fatal 1 lvl
    else
      let e := leNat (s.hbmBytes s.leaseKey at' 8)
      let v := mbit e 0
      let l := mbit e 1
      let dev := e / 2 ^ 56
      let frame := e / 2 ^ 12 % 2 ^ 40 * 2 ^ 12
      let c := mbit e 7
      if !v then .recoverable 0 lvl
      else if e / 2 ^ 52 % 16 ≠ 0 ∨ e / 2 ^ 10 % 4 ≠ 0 ∨ e / 2 ^ 5 % 4 ≠ 0 ∨ (192 ≤ dev ∧ dev ≤ 254) ∨
          (¬ l ∧ (e / 2 ^ 2 % 8 ≠ 0 ∨ c ∨ e / 2 ^ 8 % 4 ≠ 0)) then .fatal 2 lvl
      else if !l then
        if lvl = 0 then .fatal 3 lvl
        else if !s.isHere dev then .fatal 4 lvl
        else walkFrom s asid va k lvl frame
      else if 2 < lvl then .fatal 3 lvl
      else if lvl = 1 ∧ c then .fatal 2 lvl
      else if !s.isHere dev ∧ ¬ s.routes.contains dev then .fatal 2 lvl
      else if frame % leafSize lvl false ≠ 0 then .fatal 5 lvl
      else
        let size := leafSize lvl c
        let rd := mbit e 2
        let w := mbit e 3
        let x := mbit e 4
        let base := frame / size * size
        if lacks k rd w x then .recoverable 6 lvl
        else if s.isHere dev ∧ hbmSize < base + size then .fatal 7 lvl
        else .ok { asid := asid, va := va / size * size, size := size, dev := if s.isHere dev then 0xFF else dev,
                   pa := base, rd := rd, w := w, x := x, pol := e / 2 ^ 8 % 4 }

/-- A whole walk under an identifier (R315). Under one that is not live no translation is made (R318): the access faults,
with a reason that the spec does not name. With the lease key erased the walker's slot is empty (R370).
Log: DEDUCED (entry 24), DESIGN CHOICE (entries 36, 126). -/
def State.walk (s : State) (asid va : Nat) (k : Kind) : Walked :=
  if !(s.asid asid).live then .fatal (Config.deadReason % 16) 4
  else if s.leaseLost then .fatal 8 4
  else walkFrom s asid va k 5 (s.asid asid).root

/-- A TLB entry covers an address of an identifier. -/
def TlbEntry.covers (e : TlbEntry) (asid va : Nat) : Bool :=
  e.asid == asid && decide (e.va ≤ va) && decide (va < e.va + e.size)

/-- The level of a leaf, from its size. -/
def TlbEntry.level (e : TlbEntry) : Nat := if e.size ≤ 2 ^ 16 then 0 else if e.size = 2 ^ 21 then 1 else 2

/-- Translate under an identifier for a core, or for a die's copies where `core` is none (R315, R319): a held entry that
allows the access is used; else a walk is made, which sees the tables as they stand (R322), and is held.
Log: DEDUCED (entry 25). -/
def State.translate (s : State) (core : Option Nat) (die asid va : Nat) (k : Kind) : State × Walked :=
  let mine := match core with | some c => (s.core c).tlb | none => []
  match (mine ++ (s.die die).tlb).find? fun e => e.covers asid va && !lacks k e.rd e.w e.x with
  | some e => (s, .ok e)
  | none =>
    match s.walk asid va k with
    | .ok e =>
      let s := s.modDie die fun d => { d with tlb := e :: d.tlb.take 8191 }
      let s := match core with
        | some c => s.modCore c fun x => { x with tlb := e :: x.tlb.take 63 }
        | none => s
      (s, .ok e)
    | r => (s, r)

/-- The leaf that an access of a kind has just been translated with: its first address and its size.
Log: DEDUCED (entry 25). -/
def State.leafOf (s : State) (core asid va : Nat) (k : Kind) : Nat × Nat :=
  match ((s.core core).tlb ++ (s.die (dieOf core)).tlb).find? fun e => e.covers asid va && !lacks k e.rd e.w e.x with
  | some e => (e.va, e.size)
  | none => (va, 1)

/-- Where a translated access goes: local HBM with the key of the identifier's slot, or another device. -/
inductive Phys where
  | hbm (key pa : Nat)
  | remote (dev pa : Nat)
deriving DecidableEq, Repr

/-- Translate one access of `n` bytes to its place (R134, R315, R370): an address with bits 63:56 set is reason 9 at
level 7, and an empty key slot reason 8. -/
def State.locate (s : State) (core : Option Nat) (die asid va : Nat) (k : Kind) :
    State × Except (Bool × Nat × Nat) Phys :=
  if 2 ^ 56 ≤ va then (s, .error (true, 9, 7))
  else
    match s.translate core die asid va k with
    | (s, .recoverable n l) => (s, .error (false, n, l))
    | (s, .fatal n l) => (s, .error (true, n, l))
    | (s, .ok e) =>
      match s.keyOf (s.asid asid).key with
      | none => (s, .error (true, 8, e.level))
      | some key =>
        let pa := e.pa + va % e.size
        (s, .ok (if e.dev = 0xFF then .hbm key pa else .remote e.dev pa))

/-! ### Fault records -/

/-- A record that a fault of the same identifier, page, kind and fatal bit joins (R321). -/
def FaultRec.joins (f : FaultRec) (asid va : Nat) (k : Kind) (fatal : Bool) : Bool :=
  f.asid == asid && f.va / 4096 == va / 4096 && f.kind == k && f.fatal == fatal

/-- The lowest record index below 1,024 that is free. -/
def freeIndex (faults : List (Nat × FaultRec)) : Option Nat := (upto 1024).find? fun i => (tget i faults).isNone

/-- The kind field of Table 19.4. -/
def Kind.code : Kind → Nat
  | .read => 0
  | .write => 1
  | .rmw => 2
  | .fetch => 3

/-- Place or join a fault record in a die's queue (R321): its index, or none while the queue is full. A new record sends
event 0x05 and counts in counter 5 of the context, if one made the access.
Log: DEDUCED (entry 102). -/
def State.fault (s : State) (die asid va : Nat) (k : Kind) (fatal : Bool) (reason level core : Nat) (ctx : Option Nat)
    (lane : Option LRef) (copy : Option Nat) (bin : Option (Nat × Nat × Nat)) : State × Option Nat :=
  let add := fun (f : FaultRec) =>
    { f with
      lanes := f.lanes ++ lane.toList
      copies := f.copies ++ copy.toList
      bins := f.bins ++ bin.toList }
  match (s.die die).faults.find? fun e => e.2.joins asid va k fatal with
  | some (i, f) => (s.modDie die fun d => { d with faults := tput i (add f) d.faults }, some i)
  | none =>
    match freeIndex (s.die die).faults with
    | none => (s, none)
    | some i =>
      let f : FaultRec := { va := va, asid := asid, core := core, reason := reason, level := level, kind := k, fatal := fatal }
      let s := s.modDie die fun d => { d with faults := tput i (add f) d.faults }
      let s := match ctx with | some c => s.count c 5 1 | none => s
      (s.event 0x05 (BitVec.ofNat 32 (die * 2 ^ 16 + i)) (BitVec.ofNat 32 asid), some i)

/-- The record of a physical access of the complex that finds slot 0 empty (R370): reason 8, at the address it names, in the
queue of the address's home die; none while that queue is full.
Log: DESIGN CHOICE (entry 144). -/
def State.complexFault (s : State) (a : Nat) (k : Kind) : State × Option Nat :=
  s.fault (homeDie a) 0 a k true 8 7 0xFF none none none none

/-- A record as four words (Table 19.4). -/
def FaultRec.words (f : FaultRec) : List Word :=
  [BitVec.ofNat 32 f.va, BitVec.ofNat 32 (f.va / 2 ^ 32), BitVec.ofNat 32 f.asid,
   BitVec.ofNat 32 (f.core * 2 ^ 16 + f.reason * 2 ^ 8 + f.level * 2 ^ 5 + f.kind.code * 2 ^ 3 + if f.fatal then 4 else 0)]

end Sys2Proof.Machine
end

