-- ==== Sys2Proof/Machine/Queues.lean ====
section
/-!
DEFINITION. The command queues: tickets, locks and events (R357, R360, R365).
-/

namespace Sys2Proof.Machine

open Sys2Proof

/-- The next ticket a lock serves: past those whose events have ended out of turn.
Log: DEDUCED (entry 91). -/
def skipDone : Nat → Word → List Word → Word × List Word
  | 0, t, d => (t, d)
  | n + 1, t, d => if d.contains t then skipDone n (t + 1) (d.filter fun x => x != t) else (t, d)

/-- The lock of a queue passes a ticket, or will when it gets there (R360).
Log: DEDUCED (entry 91). -/
def Queue.release (q : Queue) (t : Word) : Queue :=
  let d := t :: q.done
  let r := skipDone d.length q.serving d
  { q with serving := r.1, done := r.2 }

/-- The lock of a queue serves a redelivered ticket first (R365): tickets it had passed since stay passed. -/
def Queue.reopen (q : Queue) (t : Word) : Queue :=
  let n := (q.serving - t).toNat
  if 0 < n ∧ n < 2 ^ 31 then
    { q with serving := t, done := (((upto n).map fun i => t + BitVec.ofNat 32 i) ++ q.done).filter fun x => x != t }
  else { q with done := q.done.filter fun x => x != t }

/-- An event of a command queue arises, to take the queue's next ticket as it enters (R360).
Log: DEDUCED (entry 93). -/
def State.queueEvent (s : State) (kind : Byte) (q : Nat) (w2 w3 : Word) : State :=
  s.offer { kind := kind, queue := q, w2 := w2, w3 := w3, ofQueue := true }

/-- The record of an event as it is delivered (Table 21.3). -/
def State.eventWords (s : State) (e : EventRec) : List Word :=
  let err := e.err || (e.ofQueue && (s.queue e.queue).err)
  [BitVec.ofNat 32 (e.kind.toNat * 2 ^ 24 + (if err then 2 ^ 23 else 0) + (if e.redo then 2 ^ 22 else 0) + e.queue % 1024),
   e.ticket, e.w2, e.w3]

/-- The tickets of a queue go, with what its lock served: the events that took them have none any more (R362).
Log: DESIGN CHOICE (entry 152). -/
def State.voidTickets (s : State) (q : Nat) : State :=
  let void := fun (e : EventRec) => if e.ofQueue && e.queue == q then { e with void := true } else e
  { s with
    eventQ := s.eventQ.map void
    kcores := s.kcores.map fun (x : Nat × KCore) => (x.1, { x.2 with event := x.2.event.map void }) }

/-- A Kolesque core's event holds the lock of its queue: the lock serves its ticket (R360).
Log: DEDUCED (entry 91). -/
def State.holdsLock (s : State) (k : Nat) : Bool :=
  match (s.kcore k).event with
  | some e => e.ofQueue && !e.void && !(s.kcore k).released && (s.queue e.queue).serving == e.ticket
  | none => false

/-- A qlock passes: the lock serves the ticket of the core's event, or that has none any more (R360, R362).
Log: DESIGN CHOICE (entry 152). -/
def State.passesLock (s : State) (k : Nat) : Bool :=
  s.holdsLock k || match (s.kcore k).event with | some e => e.void | none => false

/-- A Kolesque core gives up its event's place at its queue's lock (R360).
Log: DEDUCED (entry 91). -/
def State.releaseLock (s : State) (k : Nat) : State :=
  match (s.kcore k).event with
  | some e =>
    if e.ofQueue && !e.void && !(s.kcore k).released then
      (s.modQueue e.queue fun q => q.release e.ticket).modKcore k fun x => { x with released := true }
    else s
  | none => s

/-- Put events back at the head of the event queue in their old order, with redo set; their queues' locks serve them
first (R365).
Log: DEDUCED (entries 92, 106). -/
def State.requeue (s : State) (evs : List EventRec) : State :=
  let s := evs.foldl (fun (s : State) e => if e.ofQueue && !e.void then s.modQueue e.queue fun q => q.reopen e.ticket else s) s
  let back := sortBy (fun (a b : EventRec) => decide (a.order < b.order)) (evs.map fun e => { e with redo := true })
  { s with eventQ := back ++ s.eventQ }

end Sys2Proof.Machine
end

