-- ==== Sys2Proof/Machine/Float.lean ====
section
/-!
DEFINITION. Floating point (R62 to R67, R101 to R110): values as exact dyadic numbers, one rounding to nearest even,
and the operations on f32, f16 and e8m7 words.
-/

namespace Sys2Proof.Machine

open Sys2Proof

/-- A floating-point format (Table 4.2): fraction bits, exponent bits, bias. -/
structure Fmt where
  m : Nat
  ebits : Nat
  bias : Nat
deriving DecidableEq, Repr

/-- f32. -/
def f32 : Fmt := ⟨23, 8, 127⟩
/-- f16. -/
def f16 : Fmt := ⟨10, 5, 15⟩
/-- e8m7. -/
def e8m7 : Fmt := ⟨7, 8, 127⟩

/-- The exponent field at its maximum. -/
def Fmt.emax (f : Fmt) : Nat := 2 ^ f.ebits - 1

/-- The canonical NaN (Table 4.2). -/
def Fmt.nan (f : Fmt) : Nat := f.emax * 2 ^ f.m + 2 ^ (f.m - 1)

/-- The sign bit of a word of the format. -/
def Fmt.signBit (f : Fmt) : Nat := 2 ^ (f.m + f.ebits)

/-- An infinity of the format. -/
def Fmt.inf (f : Fmt) (neg : Bool) : Nat := f.emax * 2 ^ f.m + if neg then f.signBit else 0

/-- The value of a word: NaN, an infinity, or (−1)^neg · mant · 2^exp (R62). -/
inductive FVal where
  | nan
  | inf (neg : Bool)
  | fin (neg : Bool) (mant : Nat) (exp : Int)
deriving DecidableEq, Repr

/-- Read a word of a format (R62). -/
def Fmt.read (f : Fmt) (w : Nat) : FVal :=
  let frac := w % 2 ^ f.m
  let e := w / 2 ^ f.m % 2 ^ f.ebits
  let neg := w / f.signBit % 2 == 1
  if e = f.emax then (if frac = 0 then .inf neg else .nan)
  else if e = 0 then .fin neg frac (1 - f.bias - f.m)
  else .fin neg (2 ^ f.m + frac) ((e : Int) - f.bias - f.m)

/-- The integer nearest m / 2^s, ties to even (R65). -/
def roundShift (m s : Nat) : Nat :=
  let q := m / 2 ^ s
  let r := m % 2 ^ s
  if s = 0 then m
  else if 2 * r > 2 ^ s ∨ (2 * r = 2 ^ s ∧ q % 2 = 1) then q + 1 else q

/-- rne_F of a value (R65): the word of the format. -/
def Fmt.rne (f : Fmt) : FVal → Nat
  | .nan => f.nan
  | .inf neg => f.inf neg
  | .fin neg mant exp =>
    let sign := if neg then f.signBit else 0
    if mant = 0 then sign
    else
      let top := (Nat.log2 mant : Int) + exp
      let e := max top (1 - (f.bias : Int))
      let g := e - f.m
      let n := if g ≤ exp then mant * 2 ^ (exp - g).toNat else roundShift mant (g - exp).toNat
      if n < 2 ^ f.m then sign + n
      else
        let field := (g + f.m + f.bias).toNat
        let bits := field * 2 ^ f.m + (n - 2 ^ f.m)
        if bits ≥ f.emax * 2 ^ f.m then sign + f.emax * 2 ^ f.m else sign + bits

/-- The exact sum (R66): equal exponents, and the sign of a zero sum. -/
def FVal.add : FVal → FVal → FVal
  | .nan, _ => .nan
  | _, .nan => .nan
  | .inf a, .inf b => if a == b then .inf a else .nan
  | .inf a, .fin .. => .inf a
  | .fin .., .inf b => .inf b
  | .fin sa ma ea, .fin sb mb eb =>
    let e := min ea eb
    let x : Int := (ma : Int) * 2 ^ (ea - e).toNat
    let y : Int := (mb : Int) * 2 ^ (eb - e).toNat
    let z := (if sa then -x else x) + (if sb then -y else y)
    if z = 0 then .fin (if ma = 0 ∧ mb = 0 then sa && sb else false) 0 0 else .fin (decide (z < 0)) z.natAbs e

/-- The exact product (R66). -/
def FVal.mul : FVal → FVal → FVal
  | .nan, _ => .nan
  | _, .nan => .nan
  | .inf a, .inf b => .inf (a != b)
  | .inf a, .fin sb mb _ => if mb = 0 then .nan else .inf (a != sb)
  | .fin sa ma _, .inf b => if ma = 0 then .nan else .inf (sa != b)
  | .fin sa ma ea, .fin sb mb eb => .fin (sa != sb) (ma * mb) (ea + eb)

/-- The negative of a value. -/
def FVal.neg : FVal → FVal
  | .nan => .nan
  | .inf a => .inf !a
  | .fin s m e => .fin (!s) m e

/-- Comparison of two values that are not NaN, −0 equal to +0 (R101): `none` if one is NaN. -/
def FVal.cmp : FVal → FVal → Option Ordering
  | .nan, _ => none
  | _, .nan => none
  | .inf a, .inf b => some (if a == b then .eq else if a then .lt else .gt)
  | .inf a, .fin .. => some (if a then .lt else .gt)
  | .fin .., .inf b => some (if b then .gt else .lt)
  | .fin sa ma ea, .fin sb mb eb =>
    let e := min ea eb
    let x : Int := (ma : Int) * 2 ^ (ea - e).toNat
    let y : Int := (mb : Int) * 2 ^ (eb - e).toNat
    let x := if sa then -x else x
    let y := if sb then -y else y
    some (if x < y then .lt else if x = y then .eq else .gt)

/-- The value of an f32 word. -/
def fval (w : Word) : FVal := f32.read w.toNat

/-- rne_f32 as a word. -/
def rneF32 (v : FVal) : Word := BitVec.ofNat 32 (f32.rne v)

/-- The word is an f32 NaN. -/
def isNaN (w : Word) : Bool := fval w == .nan

/-- The canonical f32 NaN. -/
def nanWord : Word := 0x7FC00000

/-- fadd (R102). -/
def fadd (a b : Word) : Word := rneF32 ((fval a).add (fval b))
/-- fsub.
Log: DEDUCED (entry 127). -/
def fsub (a b : Word) : Word := rneF32 ((fval a).add (fval b).neg)
/-- fmul. -/
def fmul (a b : Word) : Word := rneF32 ((fval a).mul (fval b))
/-- ffma: A × B + D with one rounding. -/
def ffma (a b d : Word) : Word := rneF32 (((fval a).mul (fval b)).add (fval d))
/-- ffms: D − A × B with one rounding.
Log: DEDUCED (entry 127). -/
def ffms (a b d : Word) : Word := rneF32 ((fval d).add ((fval a).mul (fval b)).neg)

/-- A floating-point relation (R101). -/
def fcmp (r : Rel) (a b : Word) : Word :=
  boolWord (match (fval a).cmp (fval b), r with
    | none, .ne => true
    | none, _ => false
    | some .lt, .lt => true
    | some .lt, .le => true
    | some .lt, .ne => true
    | some .eq, .eq => true
    | some .eq, .le => true
    | some .eq, .ge => true
    | some .gt, .gt => true
    | some .gt, .ge => true
    | some .gt, .ne => true
    | _, _ => false)

/-- fcmp.un. -/
def fcmpUn (a b : Word) : Word := boolWord (isNaN a || isNaN b)

/-- The fmin and fmax rule on words of a format (R103): NaN is missing data, −0 is below +0, the chosen word is kept. -/
def Fmt.minmax (f : Fmt) (max : Bool) (a b : Nat) : Nat :=
  match f.read a, f.read b with
  | .nan, .nan => f.nan
  | .nan, _ => b
  | _, .nan => a
  | x, y =>
    match x.cmp y with
    | some .lt => if max then b else a
    | some .gt => if max then a else b
    | _ => if (a / f.signBit % 2 == 1) == max then b else a

/-- fmin. -/
def fmin (a b : Word) : Word := BitVec.ofNat 32 (f32.minmax false a.toNat b.toNat)
/-- fmax. -/
def fmax (a b : Word) : Word := BitVec.ofNat 32 (f32.minmax true a.toNat b.toNat)

/-- How a value is rounded to an integer. -/
inductive Rnd where
  | floor | ceil | trunc | near
deriving DecidableEq, Repr

/-- The integer (−1)^neg · mant · 2^exp rounds to. -/
def roundInt (r : Rnd) (neg : Bool) (mant : Nat) (exp : Int) : Int :=
  if 0 ≤ exp then (if neg then -1 else 1) * ((mant * 2 ^ exp.toNat : Nat) : Int)
  else
    let s := (-exp).toNat
    let q := mant / 2 ^ s
    let exact := mant % 2 ^ s = 0
    let n : Nat :=
      match r with
      | .trunc => q
      | .near => roundShift mant s
      | .floor => if neg ∧ ¬ exact then q + 1 else q
      | .ceil => if ¬ neg ∧ ¬ exact then q + 1 else q
    (if neg then -1 else 1) * (n : Int)

/-- ffloor, fceil, ftrunc and frint (R104). -/
def fround (r : Rnd) (a : Word) : Word :=
  match fval a with
  | .nan => nanWord
  | .inf _ => a
  | .fin neg m e =>
    if 0 ≤ e ∨ m = 0 then a
    else
      let n := roundInt r neg m e
      rneF32 (.fin neg n.natAbs 0)

/-- fscale (R104): A × 2^as_i32(B). A scale beyond ±400 gives what ±400 gives. -/
def fscale (a b : Word) : Word :=
  match fval a with
  | .nan => nanWord
  | .inf _ => a
  | .fin neg m e => if m = 0 then a else rneF32 (.fin neg m (e + max (-400) (min (asI32 b) 400)))

/-- fclass (Table 6.7). -/
def fclass (a : Word) : Word :=
  let neg := a.toNat / 2 ^ 31 == 1
  let e := a.toNat / 2 ^ 23 % 256
  let f := a.toNat % 2 ^ 23
  let bit :=
    if e = 255 then (if f ≠ 0 then 8 else if neg then 0 else 7)
    else if e = 0 then (if f = 0 then (if neg then 3 else 4) else if neg then 2 else 5)
    else if neg then 1 else 6
  BitVec.ofNat 32 (2 ^ bit)

/-- A conversion of f32 to an integer (R67), by its rounding and saturation. -/
def cvtInt (r : Rnd) (signed : Bool) (a : Word) : Word :=
  match fval a with
  | .nan => 0
  | .inf neg => if signed then (if neg then 0x80000000 else 0x7FFFFFFF) else (if neg then 0 else 0xFFFFFFFF)
  | .fin neg m e =>
    let n := roundInt r neg m e
    if signed then satI32 n else satN32 n

/-- An integer as an exact value. -/
def fOfInt (x : Int) : FVal := .fin (decide (x < 0)) x.natAbs 0

/-- A conversion between floating formats (R67): from the low bits to the low bits. -/
def cvtFmt (src dst : Fmt) (a : Word) : Word :=
  BitVec.ofNat 32 (dst.rne (src.read (a.toNat % 2 ^ (src.m + src.ebits + 1))))

/-- A packed word from two halves (R63). -/
def packHalves (lo hi : Nat) : Word := BitVec.ofNat 32 (hi % 65536 * 65536 + lo % 65536)

/-- Element `i` of a packed word (R63). -/
def half (w : Word) (i : Nat) : Nat := w.toNat / 65536 ^ i % 65536

/-- pack.F (R108). -/
def packF32 (f : Fmt) (a b : Word) : Word := packHalves (f.rne (fval a)) (f.rne (fval b))

/-- An element-wise operation of PK16 on values (R109). -/
def pkOp (f : Fmt) (op : FVal → FVal → FVal → FVal) (a b d : Word) : Word :=
  let e := fun i => f.rne (op (f.read (half a i)) (f.read (half b i)) (f.read (half d i)))
  packHalves (e 0) (e 1)

/-- hmin and hmax (R103, R109). -/
def pkMinMax (f : Fmt) (max : Bool) (a b : Word) : Word :=
  packHalves (f.minmax max (half a 0) (half b 0)) (f.minmax max (half a 1) (half b 1))

/-- hdot (R110): one rounding of the exact sum of three terms. An exact zero sum is −0 only of three −0 terms. -/
def hdot (f : Fmt) (a b d : Word) : Word :=
  let p := fun i => (f.read (half a i)).mul (f.read (half b i))
  rneF32 (((p 0).add (p 1)).add (fval d))

/-! ### The quarter-rate functions (R105, R106) -/

/-- The integer square root by digits: the greatest r with r² ≤ n, from bit `k` down. -/
def isqrtFrom (n : Nat) : Nat → Nat → Nat
  | 0, r => r
  | k + 1, r => isqrtFrom n k (if (r + 2 ^ k) * (r + 2 ^ k) ≤ n then r + 2 ^ k else r)

/-- The square root of mant · 2^exp to 40 bits with a sticky bit, as an exact value. -/
def sqrtVal (mant : Nat) (exp : Int) : FVal :=
  let (m, e) := if exp % 2 = 0 then (mant, exp) else (2 * mant, exp - 1)
  let m' := m * 2 ^ 80
  let r := isqrtFrom m' 60 0
  .fin false (2 * r + if r * r = m' then 0 else 1) ((e - 80) / 2 - 1)

/-- The quotient 1 / (mant · 2^exp) to 80 bits with a sticky bit. -/
def recipVal (neg : Bool) (mant : Nat) (exp : Int) : FVal :=
  let n := 2 ^ 110
  .fin neg (2 * (n / mant) + if n % mant = 0 then 0 else 1) (-exp - 110 - 1)

/-- fsqrt: correctly rounded (Table 6.8).
Log: DESIGN CHOICE (entry 39). -/
def fsqrt (a : Word) : Word :=
  match fval a with
  | .nan => nanWord
  | .inf neg => if neg then nanWord else a
  | .fin neg m e => if m = 0 then a else if neg then nanWord else rneF32 (sqrtVal m e)

/-- The rational |x| of a finite value, as numerator and denominator. -/
def ratOf (mant : Nat) (exp : Int) : Nat × Nat :=
  if 0 ≤ exp then (mant * 2 ^ exp.toNat, 1) else (mant, 2 ^ (-exp).toNat)

/-- ulp(y) of R105 as an exponent of two, from floor(log2 |y|). -/
def ulpExp (l : Int) : Int := max l (-126) - 23

/-- A candidate word is a positive value within `k` units of 2^u of p/q.
Log: DESIGN CHOICE (entry 39). -/
def nearRat (cand : Word) (p q : Nat) (k : Nat) (u : Int) : Bool :=
  match fval cand with
  | .fin false m e =>
    let (cn, cd) := ratOf m e
    let (un, ud) := ratOf k u
    -- |cn/cd - p/q| ≤ un/ud
    let x : Int := (cn : Int) * q - (p : Int) * cd
    decide (x.natAbs * ud ≤ un * cd * q)
  | _ => false

/-- frcp (Table 6.8, R106): the exact cases, else the fixed algorithm's word, which is open within 1 ulp.
Log: DESIGN CHOICE (entry 39). -/
def frcp (a : Word) : Word :=
  match fval a with
  | .nan => nanWord
  | .inf neg => if neg then 0x80000000 else 0
  | .fin neg m e =>
    if m = 0 then (if neg then 0xFF800000 else 0x7F800000)
    else
      let exact := rneF32 (recipVal neg m e)
      if m = 2 ^ Nat.log2 m then exact
      else
        let sign : Word := if neg then 0x80000000 else 0
        -- an exact reciprocal above the largest finite value gives an infinity
        let (p, q) := ratOf m e
        if q * 2 ^ 23 > (2 ^ 24 - 1) * 2 ^ 127 * p then sign ||| 0x7F800000
        else
          let cand := Config.approx 9 a
          let l : Int := -(Nat.log2 m : Int) - e - 1
          if nearRat (cand ^^^ sign) q p 1 (ulpExp l) then cand else exact

/-- frsq (Table 6.8, R106).
Log: DESIGN CHOICE (entry 39). -/
def frsq (a : Word) : Word :=
  match fval a with
  | .nan => nanWord
  | .inf neg => if neg then nanWord else 0
  | .fin neg m e =>
    if m = 0 then (if neg then 0xFF800000 else 0x7F800000)
    else if neg then nanWord
    else
      match sqrtVal m e with
      | .fin _ sm se =>
        let exact := rneF32 (recipVal false sm se)
        if m = 2 ^ Nat.log2 m ∧ (e + Nat.log2 m) % 2 = 0 then exact
        else
          let cand := Config.approx 10 a
          -- |c − y| ≤ ulp, checked on squares: (c − u)² · x ≤ 1 ≤ (c + u)² · x
          match fval cand with
          | .fin false cm ce =>
            let l : Int := -((Nat.log2 sm : Int) + se) - 1
            let g := min ce (ulpExp l)
            let c := cm * 2 ^ (ce - g).toNat
            let u := 2 ^ (ulpExp l - g).toNat
            let (p, q) := ratOf m (e + 2 * g)
            if (c - u) * (c - u) * p ≤ q ∧ q ≤ (c + u) * (c + u) * p then cand else exact
          | _ => exact
      | _ => nanWord

/-- A free word of a function whose range is [−1, 1] (R105): what lies outside becomes 0. -/
def clampUnit (w : Word) : Word := if w.toNat % 2 ^ 31 ≤ 0x3F800000 then w else 0

/-! Real values with 96 bits after the point, for the bounds of Table 6.8. -/

/-- ln 2 · 2^96, rounded down.
Log: DEDUCED (entry 40). -/
def ln2Fix : Int := 54916777467707473351141471128

/-- π · 2^96, rounded down.
Log: DEDUCED (entry 40). -/
def piFix : Int := 4591442807048218921384805199743311128454155024418 / 2 ^ 64

/-- The product of two fixed-point numbers. -/
def fixMul (x y : Int) : Int := x * y / 2 ^ 96

/-- A finite value in fixed point.
Log: DEDUCED (entry 40). -/
def fixOf (neg : Bool) (m : Nat) (e : Int) : Int :=
  let x : Int := if -96 ≤ e then ((m * 2 ^ (e + 96).toNat : Nat) : Int) else ((m / 2 ^ (-(e + 96)).toNat : Nat) : Int)
  if neg then -x else x

/-- The sum of term · y^j / (k+1)…(k+j): the exponential series, `fuel` terms.
Log: DEDUCED (entry 40). -/
def expSeries (y : Int) : Nat → Nat → Int → Int
  | 0, _, _ => 0
  | fuel + 1, k, term => term + expSeries y fuel (k + 1) (fixMul term y / (k + 1))

/-- 2^x for x in fixed point: a fraction in [1, 2) and an exponent.
Log: DEDUCED (entry 40). -/
def exp2Fix (x : Int) : Int × Int :=
  let n := x / 2 ^ 96
  (expSeries (fixMul (x - n * 2 ^ 96) ln2Fix) 40 0 (2 ^ 96), n)

/-- The sine or cosine series: term, minus term · y²/((k+1)(k+2)), and so on.
Log: DEDUCED (entry 40). -/
def trigSeries (y2 : Int) : Nat → Nat → Int → Int
  | 0, _, _ => 0
  | fuel + 1, k, term => term + trigSeries y2 fuel (k + 2) (-(fixMul term y2) / ((k + 1) * (k + 2)))

/-- The series of atanh: t + t³/3 + …
Log: DEDUCED (entry 40). -/
def atanhSeries (t2 : Int) : Nat → Nat → Int → Int
  | 0, _, _ => 0
  | fuel + 1, k, term => term / k + atanhSeries t2 fuel (k + 2) (fixMul term t2)

/-- sin (true) or cos of x in fixed point, after taking out whole turns where |x| > π.
Log: DEDUCED (entry 40). -/
def trigFix (sine : Bool) (x : Int) : Int :=
  let y := if x.natAbs ≤ piFix.natAbs then x else x - (x + piFix) / (2 * piFix) * (2 * piFix)
  if sine then trigSeries (fixMul y y) 24 1 y else trigSeries (fixMul y y) 24 0 (2 ^ 96)

/-- log2 of mant · 2^exp in fixed point.
Log: DEDUCED (entry 40). -/
def log2Fix (mant : Nat) (exp : Int) : Int :=
  let l := Nat.log2 mant
  let x : Int := ((mant * 2 ^ 96 / 2 ^ l : Nat) : Int)
  let t := (x - 2 ^ 96) * 2 ^ 96 / (x + 2 ^ 96)
  2 * atanhSeries (fixMul t t) 40 1 t * 2 ^ 96 / ln2Fix + (exp + l) * 2 ^ 96

/-- A word that the fixed algorithm may return: it differs from y by at most `k` · 2^u (Table 6.8), less 2^(u - 40), which
covers the error of the approximation of y.
Log: DESIGN CHOICE (entry 39), DEDUCED (entry 40). -/
def within (cand : Word) (y : FVal) (k : Nat) (u : Int) : Bool :=
  match fval cand, y with
  | .fin cs cm ce, .fin ys ym ye =>
    let g := min (min ce ye) (u - 40)
    let at' := fun (neg : Bool) (m : Nat) (e : Int) =>
      let x : Int := ((m * 2 ^ (e - g).toNat : Nat) : Int)
      if neg then -x else x
    decide ((at' cs cm ce - at' ys ym ye).natAbs ≤ (k * 2 ^ 40 - 1) * 2 ^ (u - 40 - g).toNat)
  | _, _ => false

/-- An exact value that lies just nearer to 0, or just farther from it, than a number that f32 holds, by less than a spacing:
every f32 compares with it alike.
Log: DEDUCED (entry 40). -/
def beside (neg : Bool) (m : Nat) (e : Int) (nearer : Bool) : FVal :=
  .fin neg (if nearer then m * 2 ^ 40 - 1 else m * 2 ^ 40 + 1) (e - 40)

/-- The free word where it keeps the bound, else the approximation rounded.
Log: DESIGN CHOICE (entry 39). -/
def choose (fn : Nat) (a : Word) (y : FVal) (ok : Word → Bool) : Word :=
  if ok (Config.approx fn a) then Config.approx fn a else rneF32 y

/-- floor(log2) of a finite value that is not zero. -/
def FVal.lg : FVal → Int
  | .fin _ m e => (Nat.log2 m : Int) + e
  | _ => 0

/-- The same, of a value less 2^16 units of its last place: no more than that of the exact value it approximates, also where
the two lie on either side of a power of two.
Log: DEDUCED (entry 40). -/
def FVal.lgLow : FVal → Int
  | .fin _ m e => (Nat.log2 (m - 2 ^ 16) : Int) + e
  | _ => 0

/-- A fixed-point number as a value. -/
def fvOfFix (x : Int) : FVal := .fin (decide (x < 0)) x.natAbs (-96)

/-- fexp2 (Table 6.8, R106).
Log: DESIGN CHOICE (entry 39). -/
def fexp2 (a : Word) : Word :=
  match fval a with
  | .nan => nanWord
  | .inf neg => if neg then 0 else 0x7F800000
  | .fin neg m e =>
    let n := roundInt .floor neg m e
    if 128 ≤ n then 0x7F800000
    else if n < -150 then 0
    else if roundInt .trunc neg m e = roundInt .ceil neg m e ∧ roundInt .floor neg m e = roundInt .ceil neg m e ∧ -149 ≤ n then
      rneF32 (.fin false 1 n)
    else
      let (y, k) := exp2Fix (fixOf neg m e)
      let v : FVal := if (Nat.log2 m : Int) + e < -30 then beside false 1 0 neg else .fin false y.toNat (k - 96)
      choose 12 a v fun c => decide (c.toNat < 2 ^ 31) && within c v 2 (ulpExp v.lg)

/-- flog2 (Table 6.8, R106).
Log: DESIGN CHOICE (entry 39). -/
def flog2 (a : Word) : Word :=
  match fval a with
  | .nan => nanWord
  | .inf neg => if neg then nanWord else a
  | .fin neg m e =>
    if m = 0 then 0xFF800000
    else if neg then nanWord
    else if m = 2 ^ Nat.log2 m then rneF32 (fOfInt (e + Nat.log2 m))
    else
      let v := fvOfFix (log2Fix m e)
      let half := 0x3F000000 ≤ a.toNat ∧ a.toNat ≤ 0x40000000
      choose 13 a v fun c =>
        within c v 2 (ulpExp v.lgLow) && (!decide half || within c v 1 (-22))

/-- fsin (true) and fcos (Table 6.8, R106).
Log: DESIGN CHOICE (entry 39). -/
def ftrig (sine : Bool) (a : Word) : Word :=
  let fn := if sine then 14 else 15
  match fval a with
  | .nan => nanWord
  | .inf _ => nanWord
  | .fin neg m e =>
    if m = 0 then (if sine then a else 0x3F800000)
    else if (m : Int) * 2 ^ (e + 200).toNat > 2 ^ 217 then clampUnit (Config.approx fn a)
    else
      let x := fixOf neg m e
      let tiny := (Nat.log2 m : Int) + e < -16
      let v : FVal :=
        if tiny then (if sine then beside neg m e true else beside false 1 0 true) else fvOfFix (trigFix sine x)
      let bound : Nat × Int := if x.natAbs ≤ piFix.natAbs then (2, ulpExp v.lgLow) else (1, -21)
      choose fn a v fun c => clampUnit c == c && within c v bound.1 bound.2

/-- ftanh (Table 6.8, R106).
Log: DESIGN CHOICE (entry 39). -/
def ftanh (a : Word) : Word :=
  match fval a with
  | .nan => nanWord
  | .inf neg => if neg then 0xBF800000 else 0x3F800000
  | .fin neg m e =>
    if m = 0 then a
    else if 10 ≤ roundInt .floor false m e then (if neg then 0xBF800000 else 0x3F800000)
    else
      let tiny := (Nat.log2 m : Int) + e < -16
      let (y, k) := exp2Fix ((2 * fixOf false m e) * 2 ^ 96 / ln2Fix)
      let z := y * 2 ^ k.toNat
      let v : FVal := if tiny then beside neg m e true else .fin neg ((z - 2 ^ 96) * 2 ^ 96 / (z + 2 ^ 96)).toNat (-96)
      choose 16 a v fun c => within c v 2 (ulpExp v.lgLow) && clampUnit c == c

end Sys2Proof.Machine
end

