-- ==== Sys2Proof/Machine/Image.lean ====
section
/-!
DEFINITION. Matrix operand images: the format word (R255, R256), the header and its validity (R258, R260), the layout
(R259), the seeded sparsity (R261), and the bytes one line segment of a conversion writes (R264).
-/

namespace Sys2Proof.Machine

open Sys2Proof

/-- A field of `len` bits from bit `lo` of a word. -/
def field (w : Word) (lo len : Nat) : Nat := w.toNat / 2 ^ lo % 2 ^ len

/-! ### The format word -/

/-- A format word read by its fields (Table 15.1). -/
structure Fwd where
  pa : Nat
  pb : Nat
  asg : Bool
  bsg : Bool
  kseg : Nat
  sparsity : Nat
  scales : Nat
  acc : Nat
deriving DecidableEq, Repr

/-- The fields of a format word. -/
def fwdOf (w : Word) : Fwd :=
  { pa := field w 0 4, pb := field w 4 4, asg := field w 8 1 == 1, bsg := field w 9 1 == 1, kseg := 32 * 2 ^ field w 10 2,
    sparsity := field w 12 2, scales := field w 14 2, acc := field w 16 2 }

/-- The largest magnitude of a p-bit element, signed or natural (Table 4.4). -/
def maxMag (p : Nat) (signed : Bool) : Nat := if signed then 2 ^ (p - 1) else 2 ^ p - 1

/-- Why a format word is illegal (R256), by its reason. -/
def formatReason (w : Word) : Option Nat :=
  let f := fwdOf w
  if field w 20 12 ≠ 0 ∨ field w 18 2 ≠ 0 ∨ f.acc = 3 ∨ f.scales = 3 ∨ f.sparsity = 3 ∨
      f.pa = 0 ∨ 8 < f.pa ∨ f.pb = 0 ∨ 8 < f.pb then some 1
  else if 8388479 < maxMag f.pa f.asg * maxMag f.pb f.bsg * f.kseg then some 2
  else if f.acc = 2 ∧ f.scales ≠ 0 then some 3
  else none

/-! ### The header -/

/-- A header read by its fields (Table 15.3). -/
structure Hdr where
  magic : Word
  version : Nat
  density : Nat
  ksegCode : Nat
  role : Bool
  scales : Bool
  signed : Bool
  planes : Nat
  segs : Nat
  seed : Word
  planeoff : Nat
  scaleoff : Nat
  size : Nat
  /-- some reserved bit is set -/
  rsv : Bool
deriving DecidableEq, Repr

/-- The fields of eight header words. -/
def hdrOf (ws : List Word) : Hdr :=
  let w1 := ws.getD 1 0
  let w2 := ws.getD 2 0
  { magic := ws.getD 0 0, version := field w1 24 8, density := field w1 16 2, ksegCode := field w1 14 2,
    role := field w1 13 1 == 1, scales := field w1 12 1 == 1, signed := field w1 8 1 == 1, planes := field w1 0 4,
    segs := field w2 0 9, seed := ws.getD 3 0, planeoff := (ws.getD 4 0).toNat, scaleoff := (ws.getD 5 0).toNat,
    size := (ws.getD 6 0).toNat,
    rsv := !(field w1 18 6 == 0) || !(field w1 9 3 == 0) || !(field w1 4 4 == 0) || !(field w2 9 23 == 0) || !(ws.getD 7 0 == 0) }

/-- The segment length. -/
def Hdr.kseg (h : Hdr) : Nat := 32 * 2 ^ h.ksegCode

/-- The kept density d (R255). -/
def Hdr.d (h : Hdr) : Nat := match h.density with | 1 => 4 | 2 => 2 | _ => 8

/-- K, the logical positions of a line. -/
def Hdr.k (h : Hdr) : Nat := h.segs * h.kseg

/-- rowbytes (R259). -/
def Hdr.rowbytes (h : Hdr) : Nat := 16 * ((h.k * h.d / 8 + 127) / 128)

/-- planebytes (R259). -/
def Hdr.planebytes (h : Hdr) : Nat := 64 * h.rowbytes

/-- scalebytes (R259). -/
def Hdr.scalebytes (h : Hdr) : Nat := 128 * h.segs

/-- Stored bytes of one segment of a line. -/
def Hdr.segbytes (h : Hdr) : Nat := h.kseg * h.d / 64

/-- The end of the planes. -/
def Hdr.planeEnd (h : Hdr) : Nat := h.planeoff + h.planes * h.planebytes

/-- What makes a header invalid: reasons 1 to 4 of Table 15.4. -/
def Hdr.invalid (h : Hdr) : Option Nat :=
  if h.magic ≠ 0x1A9EB17E then some 1
  else if h.version ≠ 1 then some 2
  else if h.rsv ∨ h.planes = 0 ∨ 8 < h.planes ∨ h.density = 3 ∨ h.segs = 0 ∨ 256 < h.segs ∨ 8192 < h.k ∨
      (h.role ∧ h.density ≠ 0) then some 3
  else if h.planeoff < 32 ∨ h.planeoff % 16 ≠ 0 ∨ h.size % 16 ≠ 0 ∨ h.size < h.planeEnd ∨
      (h.scales ∧ (h.scaleoff % 16 ≠ 0 ∨ h.scaleoff < 32 ∨ h.size < h.scaleoff + h.scalebytes ∨
        (h.scaleoff < h.planeEnd ∧ h.planeoff < h.scaleoff + h.scalebytes))) then some 4
  else none

/-- Reason 5 for an image in its role: its header disagrees with the format word (Table 15.4). -/
def Hdr.disagrees (h : Hdr) (f : Fwd) (b : Bool) : Bool :=
  if b then
    !h.role || h.planes != f.pb || h.signed != f.bsg || h.kseg != f.kseg || h.scales != (f.scales == 1)
  else
    h.role || h.planes != f.pa || h.signed != f.asg || h.kseg != f.kseg || h.density != f.sparsity ||
      h.scales != !(f.scales == 0)

/-! ### Seeded sparsity (R261) -/

/-- mix32. -/
def mix32 (x : Word) : Word :=
  let x := (x ^^^ (x >>> 16)) * 0x85EBCA6B#32
  let x := (x ^^^ (x >>> 13)) * 0xC2B2AE35#32
  x ^^^ (x >>> 16)

/-- Swap two places of a list. -/
def swapAt (l : List Nat) (i j : Nat) : List Nat := (l.set i (l.getD j 0)).set j (l.getD i 0)

/-- The swaps for n from `n` down to 1. -/
def permFrom (h : Word) : Nat → List Nat → List Nat
  | 0, l => l
  | n + 1, l => permFrom h n (swapAt l (n + 1) ((h.toNat / 2 ^ (3 * (7 - (n + 1)))) % (n + 2)))

/-- kept(i, g). -/
def keptAt (seed : Word) (d i g : Nat) : List Nat :=
  let h := mix32 (seed + 0x9E3779B9#32 * BitVec.ofNat 32 (i * 1024 + g))
  let perm := (permFrom h 7 [0, 1, 2, 3, 4, 5, 6, 7]).take d
  (upto 8).filter fun k => perm.contains k

/-- The logical positions stored for segment `s` of line `u`, in stored order. -/
def Hdr.positions (h : Hdr) (u s : Nat) : List Nat :=
  if h.density = 0 then (upto h.kseg).map (· + s * h.kseg)
  else
    (upto (h.kseg / 8)).flatMap fun g =>
      let gg := s * (h.kseg / 8) + g
      (keptAt h.seed h.d u gg).map (· + 8 * gg)

/-! ### Conversions -/

/-- The bytes of plane `q` that hold segment `s` of line `u`, the line's padding with its last segment: offset from
the header and length. -/
def Hdr.segRange (h : Hdr) (q u s : Nat) : Nat × Nat :=
  let off := h.planeoff + q * h.planebytes + u * h.rowbytes + s * h.segbytes
  (off, if s + 1 = h.segs then h.rowbytes - s * h.segbytes else h.segbytes)

/-- The offset of the scale of line `u`, segment `s`. -/
def Hdr.scaleAt (h : Hdr) (u s : Nat) : Nat := h.scaleoff + 2 * (64 * s + u)

/-- The ranges that step `t` of a conversion writes: line `t / S`, segment `t % S`. -/
def Hdr.stepRanges (h : Hdr) (t : Nat) : List (Nat × Nat) :=
  let u := t / h.segs
  let s := t % h.segs
  (upto h.planes).map (fun q => h.segRange q u s) ++ (if h.scales then [(h.scaleAt u s, 2)] else [])

/-- A range touches line `line` of 128 bytes when it lies at `base`. -/
def touches (base : Nat) (r : Nat × Nat) (line : Nat) : Bool :=
  decide (0 < r.2) && decide ((base + r.1) / 128 ≤ line) && decide (line ≤ (base + r.1 + r.2 - 1) / 128)

/-- A lane transfer or conversion still has bytes to write into a line of its block's scratchpad (R172). -/
def Xfer.pendingAt (x : Xfer) (line : Nat) : Bool :=
  match x.dst with
  | .global _ => false
  | .scratch off =>
    match x.conv with
    | none => decide (x.done < x.total) && touches off (16 * x.done, 16 * (x.total - x.done)) line
    | some c =>
      let h := hdrOf c.header
      (upto (x.total - x.done)).any fun t => (h.stepRanges (x.done + t)).any fun r => touches c.image r line

/-- A line of a block is copy-pending (R172). -/
def State.copyPending (s : State) (block line : Nat) : Bool :=
  s.copies.any fun c => c.block == block && !c.failed && c.xfers.any fun x => x.pendingAt line

/-- The presence bit of a line (R172). -/
def State.present (s : State) (block line : Nat) : Bool :=
  (tget line (s.block block).pclr).isNone && !s.copyPending block line

end Sys2Proof.Machine
end

