-- ==== Sys2Proof/Machine/Access.lean ====
section
/-!
DEFINITION. Memory access by lanes. The scratchpad of a block (R134, R168, R171 to R173), HBM under a group's view (R208,
R307 to R310), atomics (R198, R199), the checks of R142, and the paths of loads and stores (R143, R148, R149, R210).
-/

namespace Sys2Proof.Machine

open Sys2Proof

/-- Words to store: bytes, and whether the register word they come from is poisoned. -/
abbrev Chunk := List Byte × Bool

/-- The words of one store together: a poisoned one marks each unit that the store writes (R147).
Log: DEDUCED (entry 115). -/
def joined (cs : List Chunk) : Chunk := (cs.flatMap (·.1), cs.any (·.2))

/-- A store of words to a memory with units of `u` bytes, and its tag (R143, R146, R147).
Log: DEDUCED (entry 115). -/
def Memory.store (m : Memory) (u a : Nat) (cs : List Chunk) (tag : Bool) : Memory :=
  let c := joined cs
  let m := m.write u a c.1
  let m := if c.2 then m.mark u a c.1.length else m
  if tag then m.setTag a true else m

/-! ### Scratchpad -/

/-- The share of a block on a core (R168).
Log: DESIGN CHOICE (entry 52). -/
def Block.shareOn (b : Block) (core : Nat) : Share :=
  (b.shares.find? (·.core == core)).getD { core := core, first := 0, lines := 0 }

/-- The size of space 1 or 2 for a block on a core (R134). -/
def Block.size (b : Block) (core space : Nat) : Nat :=
  if space = 1 then 128 * (b.shareOn core).lines else 128 * b.lines

/-- The space-2 offset of an address in space 1 or 2 (R168). -/
def Block.offset (b : Block) (core space a : Nat) : Nat := if space = 1 then 128 * (b.shareOn core).first + a else a

/-- The bytes of a line counted as written towards the end of pclr-pending (R172). -/
def pclrCount (t : List (Nat × Nat)) (a n : Nat) : List (Nat × Nat) :=
  (unitsOf 128 a n).foldl (fun t k =>
    match tget k t with
    | none => t
    | some m =>
      let m' := (upto 128).foldl (fun x i => if mbit (coverMask 128 k a n) i then mset x i else x) m
      if m' = 2 ^ 128 - 1 then tdel k t else tput k m' t) t

/-- Write a chunk to a block's scratchpad, with its poison and the count of pclr (R143, R147, R172). -/
def Block.put (b : Block) (a : Nat) (c : Chunk) : Block :=
  let m := b.scratch.write 8 a c.1
  { b with
    scratch := if c.2 then m.mark 8 a c.1.length else m
    pclr := pclrCount b.pclr a c.1.length }

/-- A copy of this block targets a byte (true: it is still to be written). -/
def State.copyTarget (s : State) (block a : Nat) : Option Bool :=
  (s.copies.filter fun c => c.block == block && !c.failed).foldl (fun o c =>
    c.xfers.foldl (fun o x =>
      match x.dst, x.conv with
      | .scratch off, none =>
        if off ≤ a ∧ a < off + 16 * x.total then
          some ((o.getD false) || decide (off + 16 * x.done ≤ a))
        else o
      | .scratch _, some cv =>
        let h := hdrOf cv.header
        let hit := fun t => (h.stepRanges t).any fun r => decide (cv.image + r.1 ≤ a) && decide (a < cv.image + r.1 + r.2)
        if (upto (x.total - x.done)).any fun t => hit (x.done + t) then some true
        else if (upto x.done).any hit then some (o.getD false) else o
      | _, _ => o) o) none

/-- The tag of a granule whose bytes come from two writers, where it is known which bytes came to stand there: the one
writer's, where all are its bytes, and else none (R146). -/
def mixedTag (bs one other : List Byte) (oneTag otherTag : Bool) : Bool := if bs = one then oneTag else bs = other && otherTag

/-- A thread's store into the scratchpad, with the tag of the granule it fills. A byte a copy is still filling holds the
store's value or the copy's (R173): Config chooses, now where the copy has written it, and at the copy's write where it has
not. -/
def State.scratchStore (s : State) (block a : Nat) (c : Chunk) (tag : Bool := false) : State :=
  let tagged := fun (b : Block) (v : Bool) => if v then { b with scratch := b.scratch.setTag a true } else b
  if (unitsOf 128 a c.1.length).any fun k => s.copyPending block k then
    let old := (s.block block).scratch
    let bs := (c.1.zip (upto c.1.length)).map fun x =>
      if s.copyTarget block (a + x.2) = some false ∧ Config.fillingKept s.steps (a + x.2) = false then old.byte (a + x.2) else x.1
    let racing := (upto c.1.length).filter fun i => s.copyTarget block (a + i) == some true
    s.modBlock block fun b =>
      tagged { b.put a (bs, c.2) with racing := racing.foldl (fun t i => sput (a + i) t) b.racing }
        (mixedTag bs c.1 (old.bytes a c.1.length) tag (old.tag a))
  else s.modBlock block fun b => tagged (b.put a c) tag

/-- A store of words, and of a tag, into the scratchpad (R144, R146).
Log: DEDUCED (entry 115). -/
def State.scratchChunks (s : State) (block a : Nat) (cs : List Chunk) (tag : Bool) : State :=
  s.scratchStore block a (joined cs) tag

/-! ### HBM -/

/-- Write a chunk to HBM under a key (R147). -/
def State.hbmChunk (s : State) (key a : Nat) (c : Chunk) : State :=
  let s := s.hbmWrite key a c.1
  if c.2 && !s.isRetired a then { s with hbm := s.hbm.mark 32 a c.1.length } else s

/-- Store words and a tag in HBM (R143, R146).
Log: DESIGN CHOICE (entry 14). -/
def State.hbmStore (s : State) (key a : Nat) (cs : List Chunk) (tag : Bool) : State :=
  let s := s.hbmChunk key a (joined cs)
  if tag then s.hbmSetTag a true else s

/-! ### Atomics (R198, R199) -/

/-- The new word of an atom operation (Table 11.2); cas gives its D. -/
def atomNew (aop : Nat) (old d : Word) : Word :=
  match aop with
  | 0 => old + d
  | 1 => old &&& d
  | 2 => old ||| d
  | 3 => old ^^^ d
  | 4 => lesserS old d
  | 5 => greaterS old d
  | 6 => lesserN old d
  | 7 => greaterN old d
  | 8 => d
  | 9 => d
  | 10 => fadd old d
  | 11 => fmin old d
  | _ => fmax old d

/-- What an atom writes over an old word: nothing, or a word and its poison (R198, R199). -/
def atomWrite (aop : Nat) (old d : PWord) (compare : Word) : Option PWord :=
  if aop = 9 then
    if old.poison || !(old.val == compare) then none else some d
  else if aop = 8 then some d
  else some { val := atomNew aop old.val d.val, poison := old.poison || d.poison }

/-- The word of HBM at an address under a key.
Log: DESIGN CHOICE (entry 14). -/
def State.hbmRead (s : State) (key a : Nat) : PWord :=
  { val := BitVec.ofNat 32 (leNat (s.hbmBytes key a 4)), poison := s.hbmPoison a 4 }

/-- An atomic replaces a value of a location.
Log: DEDUCED (entry 116). -/
def State.replaced (s : State) (block : Option Nat) (a : Nat) (old : PWord) : State :=
  { s with past := { block := block, addr := a, at' := s.past.length, value := old } :: s.past }

/-- An atomic on HBM (R198). -/
def State.hbmAtom (s : State) (key a aop : Nat) (d : PWord) (compare : Word) : State × PWord :=
  let old := s.hbmRead key a
  match atomWrite aop old d compare with
  | none => (s, old)
  | some n => ((s.hbmWord key a n).replaced none a old, old)

/-- An atomic on a block's scratchpad. -/
def State.scratchAtom (s : State) (block a aop : Nat) (d : PWord) (compare : Word) : State × PWord :=
  let old := (s.block block).scratch.word 8 a
  match atomWrite aop old d compare with
  | none => (s, old)
  | some n => ((s.scratchStore block a (leBytes 4 n.val.toNat, n.poison)).replaced (some block) a old, old)

/-! ### Regions: records, conflicts and aborts (R307 to R311) -/

/-- The key a group's accesses use. -/
def State.keyOfGroup (s : State) (gid : Nat) : Nat :=
  (s.keyOf (s.asid (s.ctx (s.group gid).ctx).hdr.asid).key).getD s.leaseKey

/-- Apply one tentative write (R307, R311). -/
def State.applyT (s : State) (w : TWrite) : State :=
  match w with
  | .bytes key addr cs tag => s.hbmStore key addr cs tag
  | .atom key addr aop d compare => (s.hbmAtom key addr aop.toNat d compare).1

/-- The region a handle's cursor names, if it is not stale (R300): an object of this device, or a region of another home
that a group here has joined.
Log: DEDUCED (entry 82). -/
def State.regionOf (s : State) (cursor : DWord) : Option Nat :=
  let c := cursor.toNat
  if c / 256 % 256 = s.domid.toNat then
    let r := s.region (c % 256)
    if r.state ≠ .free ∧ r.count = c / 65536 then some (c % 256) else none
  else if (s.region (256 + c)).state ≠ .free then some (256 + c)
  else none

/-- The region a group is a member of and that has not been aborted. -/
def State.memberOf (s : State) (gid : Nat) : Option Nat :=
  match (s.group gid).region with
  | some m => if m.aborted.isSome then none else s.regionOf m.handle
  | none => none

/-- The lane's region has been aborted and its delivery is pending: its writes belong to no version (R311). -/
def State.memberLost (s : State) (r : LRef) : Bool :=
  (s.lane r).async.any fun a => match a with | .region _ => true | .engine _ _ _ => false

/-- The age of a region (R299) as one number: count, home device, index. -/
def State.age (s : State) (i : Nat) : Nat :=
  if i < 256 then (s.region i).count * 65536 + s.domid.toNat * 256 + i else i - 256

/-- The record of a line, and its region. -/
def State.lineRec (s : State) (a : Nat) : Option DirRec := (s.die (homeDie a)).dir.find? (·.line == a / 128)

/-- Discard every record of a region. -/
def State.dropRecords (s : State) (i : Nat) : State :=
  (upto 4).foldl (fun s d => if (s.die d).dir.isEmpty then s else
    s.modDie d fun x => { x with dir := x.dir.filter fun r => !(r.region == i) }) s

/-- Free a region that is decided and has no member (R300). -/
def State.freeRegion (s : State) (i : Nat) : State :=
  let r := s.region i
  if (r.state == .committed || r.state == .aborted) && r.members.isEmpty && r.remote.isEmpty then
    { s with regions := tdel i s.regions }
  else s

/-- The speculative operations that a saved group's image holds go from the model's note of it.
Log: DEDUCED (entry 139). -/
def State.dropSaved (s : State) (gid : Nat) : State :=
  { s with images := s.images.map fun (x : Saved) =>
      { x with groups := x.groups.map fun (g : Group) => if g.gid == gid then { g with spec := [] } else g } }

/-- Abort a region (R311): it takes effect while the region is open or sealed; the records and the tentative operations of its
members, saved ones too, go (R208), and each unexited member lane's delivery is pending. -/
def State.abortRegion (s : State) (i : Nat) (reason : Byte) : State :=
  let r := s.region i
  if r.state == .opened || r.state == .sealed then
    let s := (s.dropRecords i).modRegion i fun x => { x with state := .aborted, reason := reason }
    let s := r.members.foldl (fun s gid => if s.groups.any fun g => g.gid == gid then s else s.dropSaved gid) s
    let s := r.members.foldl (fun s gid => s.modGroup gid fun g =>
      { g with
        region := g.region.map fun m => { m with aborted := some reason }
        spec := []
        lanes := g.lanes.map fun l =>
          if l.unexited && !l.helper then { l with async := l.async ++ [.region reason] } else l }) s
    s.freeRegion i
  else s

/-- Region X is older than region Y (R299). -/
def State.older (s : State) (x y : Nat) : Bool := decide (s.age x < s.age y)

/-- A region loses a conflict to another (R310); if their homes differ, a loser of this home raises the open counter above
the winner's count (R299). -/
def State.loseTo (s : State) (loser winner : Nat) : State :=
  let s := s.abortRegion loser 3
  if loser < 256 ∧ 256 ≤ winner then
    { s with openCount := BitVec.ofNat 48 (max s.openCount.toNat (s.age winner / 65536 + 1)) }
  else s

/-- What a write to a line may do (Table 18.6). -/
inductive Admit where
  /-- apply it -/
  | apply (s : State)
  /-- record it for the writer's region -/
  | record (s : State) (region : Nat)
  /-- it waits: the line's region is committing -/
  | wait
  /-- the writer's own region has aborted -/
  | lost (s : State)

/-- A write to a line by a member of a region, or by a writer outside every region (R310).
Log: DEDUCED (entry 99). -/
def State.admission (s : State) (writer : Option Nat) (a : Nat) : Admit :=
  match s.lineRec a, writer with
  | none, none => .apply s
  | none, some y => .record s y
  | some r, w =>
    if (s.region r.region).state == .committing then .wait
    else
      match w with
      | none => .apply (s.abortRegion r.region 2)
      | some y =>
        if y = r.region then .record s y
        else if s.older y r.region then .record (s.loseTo r.region y) y
        else .lost (s.loseTo y r.region)

/-- The line records a slice holds (Table 1.5). -/
def dirCapacity : Nat := 32768

/-- The line records in use in a die's slice: those of regions, and one for each group, of this device or another, and line
with speculative atomics (R208). -/
def State.dirUsed (s : State) (d : Nat) : Nat :=
  (s.die d).dir.length +
  (s.groups.map fun g => ((g.spec.filter fun o => homeDie o.addr == d).map fun o => o.addr / 128).dedup.length).sum +
  ((s.farSpec.filter fun o => homeDie o.2.addr == d).map fun o => (o.1, o.2.addr / 128)).dedup.length

/-- Apply the operations of a list that lie on a line. -/
def State.applyOps (s : State) (ops : List SpecOp) (a : Nat) : State :=
  (ops.filter fun o => o.addr / 128 == a / 128).foldl (fun s o =>
    (s.hbmAtom o.key o.addr o.aop.toNat o.operand o.compare).1) s

/-- Record a tentative write for a region (R307); with no free record, or where the die cache cannot keep the tentative
version, the region aborts with reason 4 (R309).
Log: DESIGN CHOICE (entry 38). -/
def State.record (s : State) (i a : Nat) (w : TWrite) : State :=
  let d := homeDie a
  let dir := (s.die d).dir
  if Config.versionLost s.steps (a / 128) then s.abortRegion i 4
  else if dir.any fun r => r.line == a / 128 then
    s.modDie d fun x =>
      { x with dir := x.dir.map fun r => if r.line == a / 128 then { r with writes := r.writes ++ [w] } else r }
  else if dirCapacity ≤ s.dirUsed d then s.abortRegion i 4
  else s.modDie d fun x => { x with dir := x.dir ++ [{ line := a / 128, region := i, writes := [w] }] }

/-- The memory as a group sees a line: the committed line with its region's tentative writes (R308), or with the
group's own speculative atomics (R208). -/
def State.viewed (s : State) (gid a : Nat) : State :=
  let s1 := match s.lineRec a with
    | some r => if s.memberOf gid == some r.region then r.writes.foldl State.applyT s else s
    | none => s
  s1.applyOps (s.group gid).spec a

/-! ### Speculative atomics and installation (R208, R310, R311) -/

/-- An unpaired atomic of a writer outside every region, on a line that no region is installing: a cas that does not compare
equal writes nothing (R198, R199), and so conflicts with no region (R310). -/
def State.outsideAtom (s : State) (key a : Nat) (aop : BitVec 4) (d : PWord) (cmp : Word) : State :=
  match atomWrite aop.toNat (s.hbmRead key a) d cmp, s.admission none a with
  | some _, .apply s => (s.hbmAtom key a aop.toNat d cmp).1
  | _, _ => s

/-- A line stalls every access: its region is committing (R311).
Log: DEDUCED (entry 73). -/
def State.stalled (s : State) (a : Nat) : Bool :=
  match s.lineRec a with
  | some r => (s.region r.region).state == .committing
  | none => false

/-- Apply committed speculative operations in issue order, each as an unpaired atomic. One that meets a line whose region is
committing waits until the region has installed its records (R310).
Log: DEDUCED (entry 141). -/
def applySpec (s : State) (ops : List (Option Nat × SpecOp)) : State :=
  ops.foldl (fun (s : State) x =>
    let o := x.2
    if s.stalled o.addr then { s with delayed := s.delayed ++ [x] }
    else s.outsideAtom o.key o.addr o.aop o.operand o.compare) s

/-- A commit point of a group (R208). -/
def State.commitSpec (s : State) (gid : Nat) : State :=
  let g := s.group gid
  (applySpec s (g.spec.map fun o => (some g.ctx, o))).modGroup gid fun g => { g with spec := [] }

/-- A group with these tentative operations may record one more (R208). -/
def State.roomFor (s : State) (ops : List SpecOp) (o : SpecOp) : Bool :=
  (ops.any fun x => x.addr / 128 == o.addr / 128) || decide (s.dirUsed (homeDie o.addr) < dirCapacity)

/-- A speculative atomic outside a region (R208): recorded for its group, or, counted as an overflow, made at once for want of a
record.
Log: DEDUCED (entry 139). -/
def State.speculate (s : State) (gid : Nat) (o : SpecOp) : State :=
  let g := s.group gid
  if s.roomFor g.spec o then s.modGroup gid fun g => { g with spec := g.spec ++ [o] }
  else applySpec (s.count g.ctx 3 1) [(some g.ctx, o)]

/-- The tentative operations here of a group of another device, in issue order (R208).
Log: DEDUCED (entry 143). -/
def State.farOps (s : State) (g : Nat × Nat) : List SpecOp := (s.farSpec.filter fun x => x.1 == g).map (·.2)

/-- Install the records of a region that this device holds (R311). -/
def State.installRecords (s : State) (i : Nat) : State :=
  (upto 4).foldl (fun (s : State) d =>
    ((s.die d).dir.filter fun r => r.region == i).foldl (fun (s : State) r => r.writes.foldl State.applyT s) s) s

/-- A commit point of a group that is on the device, or that has been saved (R208, R309).
Log: DEDUCED (entry 139). -/
def State.commitMember (s : State) (gid : Nat) : State :=
  if s.groups.any fun g => g.gid == gid then s.commitSpec gid
  else
    let ops := (s.images.findSome? fun (x : Saved) => x.groups.find? fun g => g.gid == gid).map (·.spec)
    applySpec (s.dropSaved gid) ((ops.getD []).map fun o => (none, o))

/-- A committing region has installed its records: it is committed, a commit point of its member groups, saved ones too, and the
operations that waited for it are made (R208, R309, R310, R311).
Log: DEDUCED (entry 141). -/
def State.finishInstall (s : State) (i : Nat) : State :=
  if (s.region i).state == .committing then
    let members := (s.region i).members
    let s := ((s.installRecords i).dropRecords i).modRegion i fun x => { x with state := .committed }
    let s := (members.foldl State.commitMember s).freeRegion i
    applySpec { s with delayed := [] } s.delayed
  else s

/-- The regions whose records lie on the lines that `n` bytes touch. -/
def State.regionsOn (s : State) (a n : Nat) : List Nat :=
  ((unitsOf 128 a n).filterMap fun k => (s.lineRec (128 * k)).map (·.region)).dedup

/-- An access of the hardware, the host or another device to lines that are being installed waits for the installation: it
comes first (R311).
Log: DEDUCED (entries 99, 141). -/
def State.awaitLines (s : State) (a n : Nat) : State :=
  (s.regionsOn a n).foldl (fun s i => s.finishInstall i) s

/-- A write of the hardware, the host or another device, outside every region: it waits for installations, and aborts the
regions whose records it meets (Table 18.6).
Log: DEDUCED (entry 99). -/
def State.admitOutside (s : State) (a n : Nat) : State :=
  (unitsOf 128 a n).foldl (fun (s : State) k =>
    match s.admission none (128 * k) with
    | .apply s => s
    | _ => s) (s.awaitLines a n)

/-- A store of the hardware, the host or another device to HBM (R310).
Log: DEDUCED (entries 99, 115). -/
def State.hbmOutside (s : State) (key a : Nat) (cs : List Chunk) (tag : Bool) : State :=
  (s.admitOutside a (joined cs).1.length).hbmStore key a cs tag

/-! ### The checks of R142 -/

/-- Where a checked access lands. -/
inductive Spot where
  | hbm (key pa : Nat)
  | remote (dev pa va : Nat)
  | scratch (block off : Nat)
  /-- a Kolesque core's data memory, and the shared queue tables (R354) -/
  | kdata (k a : Nat)
  | queues (a : Nat)
deriving DecidableEq, Repr

/-- An access: the capability with its poison, the address and size, the permissions it needs, and its kind. -/
structure Acc where
  cap : Cap
  poison : Bool
  addr : DWord
  size : Nat
  /-- the alignment of step 6 -/
  align : Nat
  perms : List Nat
  kind : Kind
deriving Repr

/-- A lane that cannot go on now keeps its place and issues again (R321, R311): time only.
Log: DEDUCED (entry 73). -/
def Work.hold (w : Work) (r : LRef) : Work :=
  { w with
    s := w.s.modLane r fun l => { l with heldBack := true }
    live := w.live.filter fun x => !(x == r) }

/-- Strike with a faulting virtual address for the fault record (R348). -/
def Work.strikeAt (w : Work) (r : LRef) (cause : Byte) (data addr : DWord) : Work :=
  let v := w.strike r cause data
  { v with traps := v.traps.map fun t => if t.lane == r && t.cause == cause then { t with addr := addr } else t }

/-- A page fault of a lane (R321, R322): a record is placed or joined; a recoverable fault parks the lane for replay, a
fatal one traps; with the queue full the lane parks until a place frees. What other devices have brought for the instruction
goes, for the lane makes every access of it again. -/
def Work.pageFault (w : Work) (r : LRef) (a : DWord) (kind : Kind) (fatal : Bool) (reason level : Nat) : Work :=
  let g := w.s.group r.1
  let core := g.coreOf
  let die := dieOf core
  let ctx := g.ctx
  let asid := (w.s.ctx ctx).hdr.asid
  match w.s.fault die asid a.toNat kind fatal reason level core (some ctx) (if fatal then none else some r) none none with
  | (s, none) => { w with s := s.modLane r fun l => { l with returned := [] } }.park r (.faultQueue die)
  | (s, some i) =>
    if fatal then { w with s := s }.strikeAt r 0x09 a a
    else
      let s := s.modLane r fun l => { l with pendReplay := true, faultVa := a, returned := [] }
      { w with s := s }.park r (.replay die i)

/-- A Kolesque thread's access to memory with slot 0 empty (R370): the record, and cause 0x09; with the queue full the thread
issues the word again.
Log: DESIGN CHOICE (entry 144). -/
def Work.keyFault (w : Work) (r : LRef) (a : DWord) (kind : Kind) : Work :=
  match w.s.complexFault a.toNat kind with
  | (s, none) => { w with s := s }.hold r
  | (s, some _) => { w with s := s }.strikeAt r 0x09 a a

/-- Steps 1 to 6 of R142. -/
def Acc.verdict (x : Acc) : Verdict :=
  if x.poison then some (0x0A, x.cap.cursor)
  else if !x.cap.tag then some (0x04, x.cap.cursor)
  else if x.cap.otype ≠ 0 then some (0x07, x.cap.cursor)
  else if 2 < x.cap.space ∨ x.perms.any (fun p => !x.cap.perm p) then some (0x06, x.addr)
  else if !x.cap.within x.addr.toNat x.size then some (0x05, x.addr)
  else if x.addr.toNat % x.align ≠ 0 then some (0x0B, x.addr)
  else none

/-- What another device has brought for an access of `n` bytes at `va` that a lane makes again (R210).
Log: DESIGN CHOICE (entry 43). -/
def Lane.broughtAt (l : Lane) (va n : Nat) : Option Returned :=
  l.returned.find? fun x => x.acc.va == va && decide (n ≤ x.bytes.length)

/-- All of R142 but step 8: the place of the access, or none when the lane has left the gather. An access to another device
that has come back was translated when it was made (R210, R384). -/
def Work.resolve (w : Work) (r : LRef) (x : Acc) : Work × Option Spot :=
  match x.verdict with
  | some (c, d) => (w.strike r c d, none)
  | none =>
    let g := w.s.group r.1
    let a := x.addr.toNat
    match g.agent with
    | .kcore k =>
      match x.cap.space with
      | 0 =>
        if hbmSize < a + x.size then (w.strikeAt r 0x09 x.addr x.addr, none)
        else if w.s.leaseLost then (w.keyFault r x.addr x.kind, none)
        else (w, some (.hbm w.s.leaseKey a))
      | 1 => if 2 ^ 18 < a + x.size then (w.strike r 0x05 x.addr, none) else (w, some (.kdata k a))
      | _ => if 2 ^ 21 < a + x.size then (w.strike r 0x05 x.addr, none) else (w, some (.queues a))
    | .core core =>
      if x.cap.space = 0 then
        match (w.s.lane r).broughtAt a x.size with
        | some y => (w, some (.remote y.acc.dev y.acc.addr a))
        | none =>
          match w.s.locate (some core) (dieOf core) (w.s.ctx g.ctx).hdr.asid a x.kind with
          | (s, .error (fatal, reason, level)) =>
            if (s.lane r).helper then ({ w with s := s }.strike r 0x09 x.addr, none)
            else (({ w with s := s }.pageFault r x.addr x.kind fatal reason level), none)
          | (s, .ok (.hbm key pa)) => ({ w with s := s }, some (.hbm key pa))
          | (s, .ok (.remote dev pa)) => ({ w with s := s }, some (.remote dev pa a))
      else
        let b := w.s.block g.block
        if b.size core x.cap.space < a + x.size then (w.strike r 0x05 x.addr, none)
        else (w, some (.scratch b.bid (b.offset core x.cap.space a)))

/-! ### Loads -/

/-- What a load brings: its bytes, and whether each register word of the destination is poisoned, and the tag. -/
structure Loaded where
  bytes : List Byte
  poison : List Bool
  tag : Bool
deriving DecidableEq, Repr

/-- The register words that `n` bytes from `a` fill, each with its poison. -/
def poisonWords (f : Nat → Nat → Bool) (a n : Nat) : List Bool :=
  if n ≤ 4 then [f a n] else (upto (n / 4)).map fun i => f (a + 4 * i) 4

/-- A load of a lane overlaps poison: in HBM, or in the L1 of its core (R147, R148).
Log: DEDUCED (entry 142). -/
def State.loadPoison (s : State) (r : LRef) (a n : Nat) : Bool :=
  s.hbmPoison a n || match (s.group r.1).agent with
    | .core c => s.l1Poison c a n
    | .kcore _ => false

/-- Perform a checked load, or leave the gather: parked on an absent line (R173) or on another device (R210), or held
while the line's region installs (R311).
Log: DESIGN CHOICE (entry 43). -/
def Work.fetchSpot (w : Work) (r : LRef) (p : Spot) (n : Nat) (k : Kind) : Work × Option Loaded :=
  match p with
  | .scratch block off =>
    if w.s.present block (off / 128) then
      let m := (w.s.block block).scratch
      (w, some { bytes := m.bytes off n, poison := poisonWords (m.poisoned 8) off n, tag := m.tag off })
    else (w.park r (.line block (off / 128)), none)
  | .hbm key pa =>
    if w.s.stalled pa then (w.hold r, none)
    else
      let v := w.s.viewed r.1 pa
      (w, some { bytes := v.hbmBytes key pa n, poison := poisonWords (v.loadPoison r) pa n, tag := v.hbmTag key pa })
  | .remote dev pa va =>
    match (w.s.lane r).broughtAt va n with
    | some x =>
      (w, some { bytes := x.bytes.take n, poison := poisonWords (fun _ _ => x.poison) pa n, tag := x.tag })
    | none =>
      let (s, id) := w.s.fresh
      let g := s.group r.1
      let asid := (s.ctx g.ctx).hdr.asid
      let one : Remote :=
        { id := id, gid := r.1, lane := r.2, dev := dev, addr := pa, size := n, asid := asid, va := va
          leaf := s.leafOf g.coreOf asid va k, run := w.l.run, word := w.l.word }
      let s := { s with remotes := s.remotes ++ [one] }
      ({ w with s := s }.park r (.remote id), none)
  | .kdata k a =>
    let m := (w.s.kcore k).dmem
    (w, some { bytes := m.bytes a n, poison := poisonWords (m.poisoned 8) a n, tag := m.tag a })
  | .queues a =>
    let m := w.s.queueMem
    (w, some { bytes := m.bytes a n, poison := poisonWords (m.poisoned 8) a n, tag := m.tag a })

/-- A whole load of a lane. -/
def Work.load (w : Work) (r : LRef) (x : Acc) : Work × Option Loaded :=
  match w.resolve r x with
  | (w, none) => (w, none)
  | (w, some p) => w.fetchSpot r p x.size x.kind

/-- The checks of an access that is read in parts: all of R142 but the translation, which each part takes for itself. -/
def Work.whole (w : Work) (r : LRef) (x : Acc) : Work × Bool :=
  match x.verdict with
  | some (c, d) => (w.strike r c d, false)
  | none =>
    if x.cap.space = 0 then (w, true)
    else match w.resolve r x with | (w, p) => (w, p.isSome)

/-! ### Stores -/

/-- A write of a lane to space 0 of this device: recorded while its group is a region's member, applied otherwise, with
the conflicts of R310; its core's L1 drops the line (R11). -/
def Work.writeHbm (w : Work) (r : LRef) (key pa : Nat) (cs : List Chunk) (tag : Bool) : Work :=
  if w.s.memberLost r then w
  else
    match w.s.admission (w.s.memberOf r.1) pa with
    | .wait => w.hold r
    | .apply s => { w with s := (s.hbmStore key pa cs tag).dropOwn r pa (joined cs).1.length }
    | .record s i => { w with s := (s.record i pa (.bytes key pa cs tag)).dropOwn r pa (joined cs).1.length }
    | .lost s => { w with s := s.dropOwn r pa (joined cs).1.length }

/-- A member's write to a line of another device is recorded there (R307, R311); where no route leads there any more, its region
aborts with reason 8 (R384). -/
def State.recordFar (s : State) (gid dev : Nat) : State :=
  match s.memberOf gid with
  | some i =>
    let s := s.modRegion i fun x => { x with holders := sput dev x.holders }
    if s.routes.contains dev then s else s.abortRegion i 8
  | none => s

/-- Perform a checked store. A store to another device leaves this one (R210). -/
def Work.storeSpot (w : Work) (r : LRef) (p : Spot) (cs : List Chunk) (tag : Bool) : Work :=
  match p with
  | .scratch block off =>
    { w with s := w.s.scratchChunks block off cs tag }
  | .hbm key pa => w.writeHbm r key pa cs tag
  | .remote dev _ _ => { w with s := w.s.recordFar r.1 dev }
  | .kdata k a => { w with s := w.s.modKcore k fun x => { x with dmem := x.dmem.store 8 a cs tag } }
  | .queues a => { w with s := { w.s with queueMem := w.s.queueMem.store 8 a cs tag } }

/-- The bases of the frames that a frame capability may be stored of, into the frame that holds `base`: that frame's
own, and those its grid's display names below its level (R234). -/
def State.frameBases (s : State) (ctx : Nat) (base : Int) : List Int :=
  let c := s.ctx ctx
  let at' := fun (f : Frame) => (c.hdr.poolbase.toNat + 256 * f.granule : Nat)
  match c.frames.find? fun f => decide ((at' f : Int) ≤ base) && decide (base < at' f + 256 * f.len) with
  | none => []
  | some f =>
    let g := s.grid f.grid
    (at' f : Int) :: (g.display.take g.level).map (·.base)

/-- Step 8 of R142, the rules of R146 and R234 on a tagged quad: FRM goes only through FRM, and then only a frame its
target may name; off the device only with SHR. -/
def State.tagVerdict (s : State) (ctx : Nat) (through stored : Cap) (p : Spot) (a : DWord) : Verdict :=
  if stored.tag && stored.perm 6 && (!through.perm 6 || !(s.frameBases ctx through.base).contains stored.base) then
    some (0x06, a)
  else
    match p with
    | .remote _ _ _ => if stored.tag && !stored.perm 7 then some (0x06, a) else none
    | _ => none

/-- A whole store of a lane, of words of data. -/
def Work.store (w : Work) (r : LRef) (x : Acc) (cs : List Chunk) : Work :=
  match w.resolve r x with
  | (w, none) => w
  | (w, some p) => w.storeSpot r p cs false

/-- A whole store of a capability. -/
def Work.storeCap (w : Work) (r : LRef) (x : Acc) (c : Cap) (cs : List Chunk) : Work :=
  match w.resolve r x with
  | (w, none) => w
  | (w, some p) =>
    match w.s.tagVerdict (w.s.group r.1).ctx x.cap c p x.addr with
    | some (k, d) => w.strike r k d
    | none => w.storeSpot r p cs c.tag

end Sys2Proof.Machine
end

