-- ==== Sys2Proof/Machine/Barrier.lean ====
section
/-!
DEFINITION. Barrier objects (R212, R213, R216 to R220), the grid barrier (R223), straggler records (R224), and the
checksum fold with its log (R227, R229, R386).
-/

namespace Sys2Proof.Machine

open Sys2Proof

/-! ### Words written for the context by the hardware (R386) -/

/-- Bytes at a virtual address, cut where pages end. -/
def pagePieces (va : Nat) (bs : List Byte) : List (Nat × List Byte) :=
  (unitsOf 4096 va bs.length).map fun k =>
    let lo := max va (4096 * k)
    (lo, (bs.drop (lo - va)).take (4096 * (k + 1) - lo))

/-- The places of pieces at virtual addresses of a context, for writing: none where one does not translate. -/
def quietSpots (core asid : Nat) : List (Nat × List Byte) → State → Option (State × List (Phys × List Byte))
  | [], s => some (s, [])
  | p :: t, s =>
    match s.locate (some core) (dieOf core) asid p.1 .write with
    | (s, .ok q) => (quietSpots core asid t s).map fun x => (x.1, (q, p.2) :: x.2)
    | (_, .error _) => none

/-- Write bytes at a virtual address of a context with the permissions of a store, without faults, events or tags: none, and
nothing written, where some page of them does not translate.
Log: DEDUCED (entries 55, 84, 104). -/
def State.quietWrite (s : State) (ctx core va : Nat) (bs : List Byte) : Option State :=
  (quietSpots core (s.ctx ctx).hdr.asid (pagePieces va bs) s).map fun x =>
    x.2.foldl (fun (s : State) p =>
      match p.1 with
      | .hbm key pa => s.hbmOutside key pa [(p.2, false)] false
      | .remote _ _ => s) x.1

/-- The number of a granule of another device. -/
def farGranule (dev pa : Nat) : Nat := dev * 2 ^ 52 + pa / 16

/-- A spill to another device: no program and no other thread writes there (R115).
Log: DESIGN CHOICE (entry 43). -/
def State.spillFar (s : State) (dev pa : Nat) (e : Cap) : State := { s with spilled := tput (farGranule dev pa) e s.spilled }

/-- A return entry on another device: what was spilled there, or what that device has.
Log: DESIGN CHOICE (entry 43). -/
def State.farEntry (s : State) (dev pa : Nat) : Cap :=
  match tget (farGranule dev pa) s.spilled with
  | some e => e
  | none => farCap pa ((upto 16).map fun i => Config.remoteByte s.steps dev (pa + i)) (Config.remoteTag s.steps dev (pa / 16))

/-- A return entry at a virtual address of a context, or none where it cannot be read.
Log: DEDUCED (entry 84). -/
def State.quietEntry (s : State) (ctx core va : Nat) : Option Cap :=
  match s.locate (some core) (dieOf core) (s.ctx ctx).hdr.asid va .read with
  | (s, .ok (.hbm key pa)) => some (capOfBytes (s.hbmBytes key pa 16) (s.hbmTag key pa))
  | (s, .ok (.remote dev pa)) => some (s.farEntry dev pa)
  | (_, .error _) => none

/-- The return region of a lane in its resident slot.
Log: DEDUCED (entry 55). -/
def State.returnRegion (s : State) (r : LRef) : Nat :=
  let g := s.group r.1
  (s.ctx g.ctx).hdr.privbase.toNat + 4096 * (g.coreOf * 32768 + g.row * 256 + g.slot + r.2)

/-! ### The object -/

/-- A word of the object at an offset.
Log: DESIGN CHOICE (entry 136). -/
def Block.objWord (b : Block) (off i : Nat) : Word := (b.scratch.word 8 (off + 4 * i)).val

/-- Write a word of the object. -/
def Block.setObj (b : Block) (off i : Nat) (w : Word) : Block :=
  { b with scratch := b.scratch.writeWord 8 (off + 4 * i) { val := w } }

/-- The roster entry of an object, if it is armed (R213). -/
def Block.armed (b : Block) (off : Nat) : Option (Nat × Roster) :=
  if field (b.objWord off 0) 28 4 = 0xB then
    let slot := field (b.objWord off 3) 8 5
    match tget slot b.roster with
    | some e => if e.off = off then some (slot, e) else none
    | none => none
  else none

/-- Word 0 of an armed object (Table 12.1).
Log: DESIGN CHOICE (entry 153). -/
def barWord (arrived expected : Nat) : Word := BitVec.ofNat 32 (0xB * 2 ^ 28 + arrived % 4096 * 65536 + expected % 4096)

/-- Members arrived, and expected. -/
def Block.arrivedAt (b : Block) (off : Nat) : Nat := field (b.objWord off 0) 16 12
/-- Members not dropped. -/
def Block.expectedAt (b : Block) (off : Nat) : Nat := field (b.objWord off 0) 0 12

/-- The core that is the home of an offset of a block (R212). -/
def Block.homeCore (b : Block) (off : Nat) : Nat :=
  ((b.shares[off / (128 * max b.q 1)]?).map (·.core)).getD ((b.shares.head?.map (·.core)).getD 0)

/-- A thread's place in its block: block, tidx, gidx and core. -/
structure Whose where
  block : Nat
  tidx : Nat
  gidx : Nat
  core : Nat
deriving DecidableEq, Repr

/-- The place of a lane. -/
def State.whose (s : State) (r : LRef) : Whose :=
  let g := s.group r.1
  { block := g.block, tidx := g.tidx r.2, gidx := g.gidx, core := g.coreOf }

/-- The straggler record of a completion (Table 12.6). -/
def mkStraggler (s : State) (t : Whose) (kind fspeed : Nat) (first last : Word) : Straggler :=
  { valid := true, fspeed := fspeed, lspeed := (fusedEntry t.core), gidx := t.gidx, core := t.core, kind := kind,
    block := (s.block t.block).index, first := first, last := last }

/-- The cycle count of a core, bits 31:0.
Log: DEDUCED (entry 103). -/
def State.clock (s : State) (core : Nat) : Word := lo32 (s.core core).cycles

/-- Complete the phase of an object, by thread t (R219). Waiting lanes find the phase changed. -/
def State.completePhase (s : State) (t : Whose) (off slot : Nat) (e : Roster) : State :=
  let b := s.block t.block
  let home := b.homeCore off
  let now := s.clock home
  let first := if e.began then b.objWord off 2 else now
  let fspeed := if e.began then field (b.objWord off 3) 0 5 else (fusedEntry t.core)
  let rec' := mkStraggler s t 0 fspeed first now
  let expected := b.expectedAt off
  let s := s.modBlock t.block fun b =>
    let b := b.setObj off 1 (b.objWord off 1 + 1)
    let b := b.setObj off 2 0
    let b := b.setObj off 3 (BitVec.ofNat 32 (slot * 256))
    let b := b.setObj off 0 (if expected = 0 then 0 else barWord 0 expected)
    { b with roster :=
        if expected = 0 then tdel slot b.roster
        else tput slot { e with arrived := 0, began := false, record := rec' } b.roster }
  s.count (s.grid b.grid).ctx 7 1

/-- Thread t arrives at an armed object (R217).
Log: DESIGN CHOICE (entry 153). -/
def State.arrive (s : State) (t : Whose) (off slot : Nat) (e : Roster) : State :=
  let b := s.block t.block
  let arrived := b.arrivedAt off
  let expected := b.expectedAt off
  let home := b.homeCore off
  let now := s.clock home
  let entry := (fusedEntry t.core)
  let e := { e with arrived := mset e.arrived t.tidx, began := true }
  let s := s.modBlock t.block fun b =>
    let b := if arrived = 0 then (b.setObj off 2 now).setObj off 3 (BitVec.ofNat 32 (slot * 256 + entry % 32)) else b
    { b.setObj off 0 (barWord (arrived + 1) expected) with roster := tput slot e b.roster }
  if arrived + 1 = expected then s.completePhase t off slot e else s

/-- Thread t drops from an armed object (R220).
Log: DESIGN CHOICE (entry 153). -/
def State.dropFrom (s : State) (t : Whose) (off slot : Nat) (e : Roster) : State :=
  let b := s.block t.block
  let had := mbit e.arrived t.tidx
  let arrived := if had then b.arrivedAt off - 1 else b.arrivedAt off
  let expected := b.expectedAt off - 1
  let e := { e with arrived := mclr e.arrived t.tidx, dropped := mset e.dropped t.tidx }
  let s := s.modBlock t.block fun b =>
    { b.setObj off 0 (barWord arrived expected) with roster := tput slot e b.roster }
  if expected = 0 ∨ (arrived = expected ∧ 0 < arrived) then s.completePhase t off slot e else s

/-- The implicit drops of a thread that ends (R220): every armed barrier that counts it. -/
def State.dropAll (s : State) (t : Whose) : State :=
  (s.block t.block).roster.foldl (fun s x =>
    match (s.block t.block).armed x.2.off with
    | some (slot, e) =>
      if slot = x.1 ∧ t.tidx < e.n ∧ !mbit e.dropped t.tidx then s.dropFrom t x.2.off slot e else s
    | none => s) s

/-! ### The grid barrier -/

/-- The threads of a grid that have not exited and are no helpers, as (block, tidx). -/
def State.gridThreads (s : State) (grid : Nat) : List (Nat × Nat) :=
  (s.groups.filter fun g => g.grid == grid).flatMap fun g =>
    (g.numbered.filter fun x => x.2.unexited && !x.2.helper).map fun x => (g.block, g.tidx x.1)

/-- Complete the grid's generation if every such thread has arrived (R223); t made it so.
Log: DESIGN CHOICE (entry 147). -/
def State.gbarCheck (s : State) (grid : Nat) (t : Whose) : State :=
  let g := s.grid grid
  let all := s.gridThreads grid
  if g.coop && !g.gbarArrived.isEmpty && all.all fun x => g.gbarArrived.contains x then
    let now := s.clock g.home
    let rec' := mkStraggler s t 1 g.gbarFspeed g.gbarFirst now
    let s := s.modGrid grid fun g =>
      { g with gbarGen := g.gbarGen + 1, gbarArrived := [], gbarRecord := rec' }
    s.count g.ctx 7 1
  else s

/-- A thread arrives at the grid barrier (R223). -/
def State.gbarArrive (s : State) (grid : Nat) (t : Whose) : State :=
  let g := s.grid grid
  let s := s.modGrid grid fun x =>
    { x with
      gbarArrived := x.gbarArrived ++ [(t.block, t.tidx)]
      gbarFirst := if g.gbarArrived.isEmpty then s.clock g.home else x.gbarFirst
      gbarFspeed := if g.gbarArrived.isEmpty then (fusedEntry t.core) else x.gbarFspeed }
  s.gbarCheck grid t

/-- The four words strag writes (Table 12.6). -/
def Straggler.words (x : Straggler) : List Word :=
  [BitVec.ofNat 32 ((if x.valid then 2 ^ 31 else 0) + x.fspeed % 32 * 2 ^ 21 + x.lspeed % 32 * 2 ^ 16 + x.gidx % 256 * 256 + x.core % 256),
   BitVec.ofNat 32 (x.kind % 2 * 2 ^ 31 + x.block % 2 ^ 31), x.first, x.last]

/-! ### The checksum (R227 to R229) -/

/-- The word of a register that a fold takes: 0 for poison or an owned register (R227).
Log: DESIGN CHOICE (entry 132). -/
def Lane.foldWord (l : Lane) (n : Nat) : Word :=
  if (l.ownerOf n).isSome || (l.regs.getD n {}).poison then 0 else (l.regs.getD n {}).val

/-- The fold of R227 over lanes of a group. -/
def Group.fold (g : Group) (lanes : List Nat) : DWord :=
  lanes.foldl (fun h k =>
    (upto g.regs).foldl (fun h n => foldStep h (((g.lanes[k]?).getD {}).foldWord n)) h) 0

/-- Some word that a fold took as 0 was poisoned. -/
def Group.foldPoison (g : Group) (lanes : List Nat) : Bool :=
  lanes.any fun k => (upto g.regs).any fun n => ((((g.lanes[k]?).getD {}).regs.getD n {}).poison)

/-- An arrival folds the group's registers, and logs the fold if the context asks it (R227, R229, R386).
Log: DEDUCED (entry 30). -/
def State.foldArrival (s : State) (gid : Nat) (lanes : List Nat) (pc : DWord) (phase : Word) (kind off : Nat) : State :=
  let g := s.group gid
  let h := g.fold lanes
  let s' := s.modGroup gid fun x => { x with csum := h }
  let hdr := (s.ctx g.ctx).hdr
  if !hdr.log ∨ hdr.logsize < 32 then s'
  else if hdr.logsize / 32 ≤ hdr.logwritten.toNat then
    s'.modCtx g.ctx fun c => { c with hdr := { c.hdr with logdropped := c.hdr.logdropped + 1 } }
  else
    let blk := (s.block g.block).index
    let entry := leBytes 8 pc.toNat ++ leBytes 8 h.toNat ++ leBytes 4 phase.toNat ++
      leBytes 4 ((if g.foldPoison lanes then 2 ^ 31 else 0) + blk % 2 ^ 31) ++ leBytes 4 (kind * 65536 + g.gidx % 65536) ++ leBytes 4 off
    match s'.quietWrite g.ctx g.coreOf (hdr.logbase.toNat + 32 * hdr.logwritten.toNat) entry with
    | some s' => s'.modCtx g.ctx fun c => { c with hdr := { c.hdr with logwritten := c.hdr.logwritten + 1 } }
    | none => s'.modCtx g.ctx fun c => { c with hdr := { c.hdr with logdropped := c.hdr.logdropped + 1 } }

end Sys2Proof.Machine
end

