-- ==== Sys2Proof/Machine/Life.lean ====
section
/-!
DEFINITION. How threads, groups, blocks, grids and frames end: exit and kills (R77, R79, R117, R124, R125, R208, R331),
tile-stamp records (R281, R282), blocks (R169), frames and their references (R232, R235), grids (R241).
-/

namespace Sys2Proof.Machine

open Sys2Proof

/-! ### Reconvergence records (R124, R125) -/

/-- A lane has arrived at a record or has exited. -/
def Rec.met (x : Rec) (i : Nat) (l : Lane) : Bool := !x.members.getLsbD i || x.arrived.getLsbD i || !l.unexited

/-- Complete every record whose members have all arrived or exited: held lanes continue past the target. -/
def Group.settleRecs (g : Group) : Group :=
  ((upto 8).zip g.recs).foldl (fun g x =>
    let (b, r) := x
    if r.members != 0 && g.numbered.all (fun y => r.met y.1 y.2) then
      { g with
        recs := g.recs.set b {}
        lanes := g.lanes.map fun l =>
          if l.status == .held b then { l.goto (r.target + 4) with status := .ready } else l }
    else g) g

/-! ### Tile stamps (R281, R282) -/

/-- The core that keeps a block's stamp records and convergence registers: that of its share 0. -/
def Block.core0 (b : Block) : Nat := (b.shares.head?.map (·.core)).getD 0

/-- The kinds of stamp, by the word of Table 16.5 that holds them, from word 4. -/
def cinIssue : Nat := 0
/-- Last copy-in completion. -/
def cinDone : Nat := 1
/-- Last generation completion. -/
def stSigned : Nat := 2
/-- Last end of operand wait. -/
def stWait : Nat := 3
/-- Last end of compute. -/
def stCompute : Nat := 4
/-- First copy-out issue. -/
def coutIssue : Nat := 5
/-- Last copy-out completion. -/
def coutDone : Nat := 6

/-- Report a tagged event (R281): `what` is its stamp, and `op`, `copy` count an operation or a copy.
Log: DEDUCED (entry 103). -/
def State.stamp (s : State) (block : Nat) (tag : Word) (what : Nat) (op copy : Bool) : State :=
  if tag = 0 then s
  else
    let b := s.block block
    let core := b.core0
    let now := s.clock core
    let mark := fun (x : Stamp) =>
      { x with
        ops := x.ops + if op then 1 else 0
        copies := x.copies + if copy then 1 else 0
        outDone := x.outDone || what == coutDone
        stamps := x.stamps.modify what fun old =>
          if (what == cinIssue || what == coutIssue) && old.isSome then old else some now }
    let st := (s.core core).stamps
    if st.any fun x => x.block == block && x.tag == tag then
      s.modCore core fun k =>
        { k with stamps := k.stamps.map fun x => if x.block == block && x.tag == tag then mark x else x }
    else if 64 ≤ st.length then
      (s.modCore core fun k => { k with lostStamps := k.lostStamps ++ [(block, tag)] }).modCtx (s.grid b.grid).ctx fun c =>
        { c with stampLoss := c.stampLoss + 1 }
    else
      let lost := (s.core core).lostStamps.contains (block, tag)
      s.modCore core fun k =>
        { k with
          stamps := k.stamps ++ [mark { block := block, tag := tag, lost := lost }]
          lostStamps := k.lostStamps.filter fun x => !(x == (block, tag)) }

/-- The 64 bytes of a stamp record (Table 16.5). -/
def Stamp.bytes (x : Stamp) (core speed index : Nat) : List Byte :=
  let valid := (upto 7).foldl (fun m k => if (x.stamps.getD k none).isSome then m + 2 ^ k else m) 0
  leBytes 4 x.tag.toNat ++
  leBytes 4 ((if x.lost then 2 ^ 23 else 0) + valid * 2 ^ 16 + speed % 32 * 256 + core % 256) ++
  leBytes 4 (index % 2 ^ 31) ++ leBytes 4 (x.ops % 65536 * 65536 + x.copies % 65536) ++
  (upto 7).flatMap (fun k => leBytes 4 ((x.stamps.getD k none).getD 0).toNat) ++ List.replicate 20 0

/-- Write a closing record to the context's stamp ring (R282, R386).
Log: DEDUCED (entry 104). -/
def State.writeStamp (s : State) (core : Nat) (x : Stamp) : State :=
  let b := s.block x.block
  let ctx := (s.grid b.grid).ctx
  let hdr := (s.ctx ctx).hdr
  let s := s.modCore core fun k =>
    { k with stamps := k.stamps.filter fun y => !(y.block == x.block && y.tag == x.tag) }
  if hdr.stampsize < 64 then s
  else
    let dropped := s.modCtx ctx fun c => { c with hdr := { c.hdr with stampdropped := c.hdr.stampdropped + 1 } }
    if hdr.stampsize / 64 ≤ hdr.stampwritten.toNat then dropped
    else
      match s.quietWrite ctx core (hdr.stampbase.toNat + 64 * hdr.stampwritten.toNat) (x.bytes core (fusedEntry core) b.index) with
      | some s => s.modCtx ctx fun c => { c with hdr := { c.hdr with stampwritten := c.hdr.stampwritten + 1 } }
      | none => dropped

/-- A record may close (R282): a copy-out has completed, and nothing that carries its tag is outstanding or unexited. -/
def State.stampDone (s : State) (x : Stamp) : Bool :=
  x.outDone && !(s.copies.any fun c => c.block == x.block && c.tag == x.tag) &&
  !(s.ops.any fun o => o.block == x.block && o.tag == x.tag && o.phase != .signing) &&
  !(s.groups.any fun g => g.block == x.block && g.lanes.any fun l => l.unexited && l.tiletag == x.tag)

/-- Close the records of a core that may close. -/
def State.closeStamps (s : State) (core : Nat) : State :=
  (s.core core).stamps.foldl (fun s x => if s.stampDone x then s.writeStamp core x else s) s

/-! ### The end of a lane -/

/-- A crew's ticket goes, and with it its place among restored ones. -/
def State.removeTicket (s : State) (block crew : Nat) : State :=
  (s.modCore (s.block block).core0 fun k => { k with tickets := k.tickets.filter fun t => !(t == (block, crew)) }).modBlock block
    fun b => { b with ranks := tdel crew b.ranks }

/-- Remove the ticket of a crew once every thread whose crew register names it has exited (R280): some have, and none is left;
helper lanes are no threads.
Log: DEDUCED (entry 50). -/
def State.dropTicket (s : State) (block crew : Nat) : State :=
  let named := fun (p : Lane → Bool) =>
    s.groups.any fun g => g.block == block && g.lanes.any fun l => p l && !l.helper && l.crew == crew
  if (s.core (s.block block).core0).tickets.contains (block, crew) && named (·.status == .exited) && !named (·.unexited) then
    s.removeTicket block crew
  else s

/-- A lane's crew register is set (R271, R278); the ticket of a crew that it leaves may go (R280).
Log: DEDUCED (entry 50). -/
def State.setCrew (s : State) (r : LRef) (n : Nat) : State :=
  let old := (s.lane r).crew
  let s := s.modLane r fun l => { l with crew := n }
  if old = n then s else s.dropTicket (s.group r.1).block old

/-- A lane that has ended holds nothing a thread holds but its registers. -/
def Lane.ended (l : Lane) : Lane :=
  { l.dropHeld with
    status := .exited, stack := [], depth := 0, loop := none, shadow := {}, async := [], kill := false, halted := false
    pendReplay := false, stepOver := false, returned := [], owned := [], dirty := [], drafts := [], passed := false
    heldBack := false, token := none }

/-- Engine faults still pending in a lane that is killed are kept in the engine section and dropped (R341). -/
def Lane.notes (l : Lane) : List Note :=
  l.async.filterMap fun a =>
    match a with
    | .engine cause lo hi => some { addr := hi.setWidth 64, seq := lo, what := cause.toNat }
    | .region _ => none

/-- A lane ends, by exit or, if `killed`, by a kill (R117, R331, R297). -/
def State.endLane (s : State) (r : LRef) (killed : Bool) : State :=
  let l := s.lane r
  let g := s.group r.1
  let t := s.whose r
  if !l.unexited then s
  else
    let s := if killed then
        (s.modGroup r.1 fun g => { g with spec := g.spec.filter fun o => o.lane != r.2 }).modCtx g.ctx fun c =>
          { c with notes := c.notes ++ l.notes }
      else s
    let s := s.modLane r Lane.ended
    let s := s.modGroup r.1 Group.settleRecs
    if g.isK || l.helper then s
    else
      let s := s.dropAll t
      let s := if (s.grid g.grid).coop then s.gbarCheck g.grid t else s
      let s := match s.memberOf r.1, g.region with
        | some i, some m =>
          if killed then s.abortRegion i 6 else if m.voted then s else s.abortRegion i 5
        | _, _ => s
      s.dropTicket g.block l.crew

/-- Helper lanes of quads whose other lanes have all exited exit (R77).
Log: DEDUCED (entry 145). -/
def State.endHelpers (s : State) (gid : Nat) : State :=
  let g := s.group gid
  (g.numbered.filter fun x => x.2.helper && x.2.unexited).foldl (fun s x =>
    if g.numbered.all fun y => y.1 / 4 != x.1 / 4 || y.2.helper || !y.2.unexited then s.endLane (gid, x.1) false else s) s

/-- A whole ending: the lane, and the helper lanes that it leaves alone. -/
def State.exitLane (s : State) (r : LRef) (killed : Bool) : State := (s.endLane r killed).endHelpers r.1

/-! ### Groups, blocks and grids -/

/-- A group none of whose lanes is left: its last commit point, its membership and its slots (R79, R208, R300). -/
def State.endGroup (s : State) (gid : Nat) : State :=
  let s := s.commitSpec gid
  let g := s.group gid
  if !g.spec.isEmpty then s
  else
    let i := g.region.bind fun m => s.regionOf m.handle
    let s := s.modGroup gid fun g => { g with freed := true, region := none }
    let s := match i with
      | some i => (s.modRegion i fun x => { x with members := x.members.filter fun m => m != gid }).freeRegion i
      | none => s
    if s.groups.any fun h => h.agent == g.agent && h.row == g.row && !h.freed then s
    else s.modCore g.coreOf fun k => { k with rows := tdel g.row k.rows }

/-- A block retires when its groups have exited and their copies are done (R169): its stamp records are written, and
its tickets and the operations none of whose signers is left leave the engine (R280). -/
def State.settleBlocks (s : State) : State :=
  (s.blocks.filter fun b => !(s.groups.any fun g => g.block == b.bid && !g.freed) && !(s.copies.any fun c => c.block == b.bid)).foldl
    (fun s b =>
      let core := b.core0
      let s := ((s.core core).stamps.filter fun x => x.block == b.bid).foldl (fun s x => s.writeStamp core x) s
      let s := s.modCore core fun k => { k with tickets := k.tickets.filter fun t => t.1 != b.bid }
      { s with
        blocks := s.blocks.filter fun x => x.bid != b.bid
        groups := s.groups.filter fun g => g.block != b.bid || g.isK
        ops := s.ops.filter fun o => o.block != b.bid }) s

/-- The generation of a granule (R232). -/
def Ctx.genOf (c : Ctx) (granule : Nat) : Word := (tget granule c.gens).getD 0

/-- One reference to a frame goes (R235); at none left the frame is freed: its granules return, the generation of its
first granule advances, its grid's record goes, and its static parent loses a reference.
Log: DEDUCED (entry 33). -/
def State.release (s : State) (ctx : Nat) : Nat → Nat → State
  | 0, _ => s
  | fuel + 1, granule =>
    match (s.ctx ctx).frames.find? fun f => f.granule == granule with
    | none => s
    | some f =>
      if 1 < f.refs then
        s.modCtx ctx fun c =>
          { c with frames := c.frames.map fun x => if x.granule == granule then { x with refs := x.refs - 1 } else x }
      else
        let s := s.modCtx ctx fun c =>
          { c with
            frames := c.frames.filter fun x => x.granule != granule
            gens := tput granule (c.genOf granule + 1) c.gens }
        let s := { s with grids := s.grids.filter fun g => g.uid != f.grid }
        match f.parent with
        | some p => State.release s ctx fuel p
        | none => s

/-- A grid completes (R241): its frame loses its reference. Of one that failed it is kept that its completion orders nothing (R243).
Log: DEDUCED (entries 33, 116). -/
def State.completeGrid (s : State) (g : Nat) (failed : Bool) : State :=
  let x := s.grid g
  let s := s.modGrid g fun y => { y with state := if failed then .failed else .completed }
  let s := s.modCtx x.ctx fun c =>
    { c with
      frames := c.frames.map fun f => if f.grid == g then { f with done := true, failed := failed } else f
      failures := c.failures ++ if failed then [(g, x.frame, c.genOf x.frame)] else [] }
  s.release x.ctx 64 x.frame

/-- The completion of a grid was a failure (R243).
Log: DEDUCED (entry 116). -/
def Ctx.failedGrid (c : Ctx) (grid : Nat) : Bool := c.failures.any fun x => x.1 == grid

/-- The grid that a handle named failed, though its frame is gone (R238, R243).
Log: DEDUCED (entry 116). -/
def Ctx.failedHandle (c : Ctx) (cursor : DWord) : Bool :=
  c.failures.any fun x => x.2.1 == cursor.toNat % 2 ^ 24 && x.2.2 == hi32 cursor

/-- Grids all of whose blocks were dealt and are gone complete. -/
def State.settleGrids (s : State) : State :=
  (s.grids.filter fun g => g.state == .placed && !(s.blocks.any fun b => b.grid == g.uid)).foldl
    (fun s g => s.completeGrid g.uid false) s

/-- A grid has completed, or its frame is gone (R242). -/
def State.gridDone (s : State) (g : Nat) : Bool :=
  match s.grids.find? fun x => x.uid == g with
  | some x => x.state == .completed || x.state == .failed
  | none => true

/-! ### Frame pool (R232) -/

/-- The granules `lo` to `lo + n - 1` are all free. -/
def Ctx.runFree (c : Ctx) (lo n : Nat) : Bool :=
  c.frames.all fun f => decide (lo + n ≤ f.granule) || decide (f.granule + f.len ≤ lo)

/-- The lowest run of `n` free granules: it starts at 0 or where a live frame ends. -/
def Ctx.findRun (c : Ctx) (n : Nat) : Option Nat :=
  let starts := (0 :: c.frames.map fun f => f.granule + f.len).filter fun lo =>
    decide (lo + n ≤ c.hdr.poolsize) && c.runFree lo n
  starts.min?

/-- The head of a context's queue for granules: lanes saved with their rows keep their places and are passed over (R240, R338).
Log: DESIGN CHOICE (entry 154). -/
def State.granHead (s : State) (ctx : Nat) : Option (Nat × Nat × Nat) :=
  (s.ctx ctx).granQ.find? fun e => !(s.group e.1).evicted

/-- The free granules of a pool.
Log: DEDUCED (entry 33). -/
def Ctx.freeGranules (c : Ctx) : Nat := c.hdr.poolsize - (c.frames.map (·.len)).sum

end Sys2Proof.Machine
end

