-- ==== Sys2Proof/Machine/Ring.lean ====
section
/-!
DEFINITION. Rings and channel fields (R245 to R250, R252): the checks before any channel moves, batches popped, peeked
and pushed, and the queues of parked batches.
-/

namespace Sys2Proof.Machine

open Sys2Proof

/-! ### The ring -/

/-- A word of a ring's header. -/
def Block.ringWord (b : Block) (off i : Nat) : PWord := b.scratch.word 8 (off + 4 * i)

/-- Write a word of a ring, header or entry: its granule's tag is cleared and no line becomes present (R246, R249). -/
def Block.setRing (b : Block) (a : Nat) (w : PWord) : Block := { b with scratch := b.scratch.writeWord 8 a w }

/-- The ring is armed (Table 14.1). -/
def Block.ringArmed (b : Block) (off : Nat) : Bool := field (b.ringWord off 0).val 28 4 == 0xC

/-- The ring is closed. -/
def Block.ringClosed (b : Block) (off : Nat) : Bool := field (b.ringWord off 0).val 27 1 == 1

/-- The ring's capacity, by its header. -/
def Block.ringCap (b : Block) (off : Nat) : Nat := field (b.ringWord off 0).val 0 13

/-- Entries present: (tail - head) mod 2^32 (R245). -/
def Block.ringCount (b : Block) (off : Nat) : Nat := ((b.ringWord off 2).val - (b.ringWord off 1).val).toNat

/-- Room: cap - count. -/
def Block.ringRoom (b : Block) (off : Nat) : Nat := b.ringCap off - b.ringCount off

/-- The address of entry i of the stream. -/
def Block.entryAt (b : Block) (off : Nat) (i : Word) : Nat := off + 16 + 4 * (i.toNat % max (b.ringCap off) 1)

/-- Entry j after the head. -/
def Block.entry (b : Block) (off j : Nat) : PWord := b.scratch.word 8 (b.entryAt off ((b.ringWord off 1).val + BitVec.ofNat 32 j))

/-- Remove the head entry. -/
def Block.popHead (b : Block) (off : Nat) : Block :=
  b.setRing (off + 4) { val := (b.ringWord off 1).val + 1, poison := (b.ringWord off 1).poison }

/-- Append an entry. -/
def Block.pushTail (b : Block) (off : Nat) (w : PWord) : Block :=
  let tail := (b.ringWord off 2).val
  (b.setRing (b.entryAt off tail) w).setRing (off + 8) { val := tail + 1, poison := (b.ringWord off 2).poison }

/-- A header word is poisoned, of those that a channel operation reads (R252). -/
def Block.ringPoison (b : Block) (ws : List Nat) (off : Nat) : Bool := ws.any fun i => (b.ringWord off i).poison

/-- The header words that channel fields and chstat read: the first with the capacity, head and tail (R245). -/
def countWords : List Nat := [0, 1, 2]

/-! ### Batches -/

/-- The groups of a gather, in ascending slot order. -/
def groupsOf (ls : List LRef) : List Nat := (ls.map (·.1)).dedup

/-- The lanes of a group in a list that are no helpers.
Log: DEDUCED (entry 51). -/
def State.actual (s : State) (gid : Nat) (ls : List LRef) : List LRef :=
  ls.filter fun r => r.1 == gid && !(s.lane r).helper

/-- A batch waits for entries of the ring at `off`.
Log: DEDUCED (entry 51). -/
def State.popWaiting (s : State) (block off : Nat) : Bool :=
  s.groups.any fun g => g.block == block && !g.isK && g.lanes.any fun l =>
    match l.status with
    | .parked (.pop _ o _ _ _ _) _ => o == off
    | _ => false

/-- A batch waits for room in the ring at `off`.
Log: DEDUCED (entry 51). -/
def State.pushWaiting (s : State) (block off : Nat) : Bool :=
  s.groups.any fun g => g.block == block && !g.isK && g.lanes.any fun l =>
    match l.status with
    | .parked (.push _ o _ _ _) _ => o == off
    | _ => false

/-- Put a value into the entry held for field A or B (R93). -/
def Lane.hold (l : Lane) (fieldA : Bool) (w : PWord) : Lane :=
  if fieldA then { l with heldA := some w } else { l with heldB := some w }

/-- Serve a batch of lanes from a ring (R249): one entry to each, in lane order; a closed and empty ring gives 0 and
sets the flag. Either is an acquire point (R250).
Log: DEDUCED (entry 51). -/
def State.serve (s : State) (block off : Nat) (fieldA peek : Bool) (batch : List LRef) : State :=
  (batch.foldl (fun (p : State × Nat) r =>
    let (s, j) := p
    let s := s.acquires r blockScope
    let b := s.block block
    if peek then
      if j < b.ringCount off then (s.modLane r fun l => l.hold fieldA (b.entry off j), j + 1)
      else (s.modLane r fun l => (l.hold fieldA {}).setClosed, j + 1)
    else
      if 0 < b.ringCount off then
        ((s.modBlock block fun b => b.popHead off).modLane r fun l => l.hold fieldA (b.entry off 0), j)
      else (s.modLane r fun l => (l.hold fieldA {}).setClosed, j)) (s, 0)).1

/-- Strike every lane of a list.
Log: DEDUCED (entry 58). -/
def Work.strikeAll (w : Work) (ls : List LRef) (cause : Byte) (data : DWord) : Work :=
  ls.foldl (fun w r => w.strike r cause data) w

/-- tdata of channel misuse (R252). -/
def chanData (reason n : Nat) : DWord := tdata (BitVec.ofNat 32 reason) (BitVec.ofNat 32 n)

/-- The channel that a source names, and whether it peeks. -/
def srcChan : Src → Option (Nat × Bool)
  | .reg _ => none
  | .pop c => some (c.toNat, false)
  | .peek c => some (c.toNat, true)

/-- The channel that a destination pushes to. -/
def dstChan : Dst → Option Nat
  | .reg _ => none
  | .push c => some c.toNat

/-- The ring that entry `n` of a group's channel table names. -/
def State.ringOf (s : State) (gid n : Nat) : Option Nat := ((s.group gid).chans.getD n none).map (·.1)

/-- Steps 1, 3 and 4 of R252 over the channel fields of an instruction, in the order A, B, D: the cause and data of the
first check that fails. `ws` are the header words that it reads. -/
def State.chanVerdict (s : State) (gid : Nat) (ws ns : List Nat) : Verdict :=
  let b := s.block (s.group gid).block
  if ns.any fun n => match s.ringOf gid n with | some off => b.ringPoison ws off | none => false then some (0x0A, 0)
  else
    match ns.find? fun n => (s.ringOf gid n).isNone with
    | some n => some (0x0C, chanData 1 n)
    | none =>
      match ns.find? fun n => match s.ringOf gid n with | some off => !b.ringArmed off | none => false with
      | some n => some (0x0C, chanData 7 n)
      | none => none

/-- The checks of R252 for every channel field of an instruction, before any channel moves.
Log: DESIGN CHOICE (entry 137). -/
def Work.chanChecks (w : Work) (ns : List Nat) : Work :=
  if ns.isEmpty then w
  else
    (groupsOf w.live).foldl (fun w gid =>
      match w.s.chanVerdict gid countWords ns with
      | some (c, d) => w.strikeAll (w.s.actual gid w.live) c d
      | none => w) w

/-- Take the batch of one source field (R247, R248). Lanes that already hold an entry for it keep that entry.
Log: DESIGN CHOICE (entry 151). -/
def Work.takeField (w : Work) (fieldA : Bool) (a : Src) : Work :=
  match srcChan a with
  | none => w
  | some (n, peek) =>
    (groupsOf w.live).foldl (fun w gid =>
      let batch := (w.s.actual gid w.live).filter fun r =>
        (if fieldA then (w.s.lane r).heldA else (w.s.lane r).heldB).isNone
      let k := batch.length
      let g := w.s.group gid
      match g.chans.getD n none with
      | none => w
      | some (off, _) =>
        let b := w.s.block g.block
        if k = 0 then w
        else if b.ringCap off < k then w.strikeAll batch 0x0C (chanData 2 n)
        else if !w.s.popWaiting g.block off && (decide (k ≤ b.ringCount off) || b.ringClosed off) then
          { w with s := w.s.serve g.block off fieldA peek batch }
        else
          let (s, order) := w.s.fresh
          batch.foldl (fun w r => w.park r (.pop n off k fieldA peek order)) { w with s := s }) w

/-- Write a batch's entries at a ring's tail, in lane order, and note that the group has pushed to the ring (R334). -/
def State.pushAll (s : State) (gid block off : Nat) (vals : List PWord) : State :=
  let s := vals.foldl (fun s v => s.modBlock block fun b => b.pushTail off v) s
  s.modGroup gid fun g => { g with pushed := sput off g.pushed }

/-- Push one value per live lane that is no helper (R247 to R249).
Log: DESIGN CHOICE (entry 151). -/
def Work.push (w : Work) (n : Nat) (f : State → LRef → PWord) : Work :=
  (groupsOf w.live).foldl (fun w gid =>
    let batch := w.s.actual gid w.live
    let k := batch.length
    let g := w.s.group gid
    match g.chans.getD n none with
    | none => w
    | some (off, _) =>
      let b := w.s.block g.block
      if k = 0 then w
      else if b.ringCap off < k then w.strikeAll batch 0x0C (chanData 2 n)
      else if b.ringClosed off then w.strikeAll batch 0x0C (chanData 3 n)
      else if !w.s.pushWaiting g.block off && decide (k ≤ b.ringRoom off) then
        { w with s := w.s.pushAll gid g.block off (batch.map (f w.s)) }
      else
        let (s, order) := w.s.fresh
        let vals := batch.map fun r => (r, f w.s r)
        vals.foldl (fun w v => w.park v.1 (.push n off k v.2 order)) { w with s := s }) w

/-- Write one word per live lane to a destination field: a register, or a push. -/
def Work.writeDst (w : Work) (d : Dst) (f : State → LRef → PWord) : Work :=
  match d with
  | .reg n => (w.writeRegs codeD n.toNat fun s r => [f s r]).zeroRegs codeD n.toNat 1
  | .push c => w.push c.toNat f

/-! ### The queues of parked batches -/

/-- A lane that may be woken: it is not halted, and no kill is to end it where it stands (R297). -/
def Lane.wakes (l : Lane) : Bool := !l.halted && !l.kill

/-- The lanes parked on a ring, with their wait: pops or pushes. -/
def State.ringWaiters (s : State) (push : Bool) : List (LRef × Nat × Nat × Wait) :=
  (s.groups.filter fun g => !g.isK && !g.evicted).flatMap fun g =>
    g.numbered.filterMap fun x =>
      match x.2.status with
      | .parked w _ =>
        match w with
        | .push _ off _ _ order => if push && x.2.wakes then some ((g.gid, x.1), g.block * 2 ^ 24 + off, order, w) else none
        | .pop _ off _ _ _ order => if !push && x.2.wakes then some ((g.gid, x.1), g.block * 2 ^ 24 + off, order, w) else none
        | _ => none
      | _ => none

/-- Serve the head batch of each ring's queue once (R248). A ring's head is the batch of least order. -/
def State.serveHeads (s : State) (push : Bool) : State :=
  let ws := s.ringWaiters push
  ws.foldl (fun s x =>
    let (r, ring, order, wait) := x
    let same := ws.filter fun y => y.2.1 == ring
    let batch := same.filter fun y => y.2.2.1 == order
    let isHead := same.all fun y => decide (order ≤ y.2.2.1)
    let isFirst := (batch.head?.map (·.1)) == some r
    if !(isHead && isFirst) then s
    else
      let block := (s.group r.1).block
      let b := s.block block
      let lanes := batch.map (·.1)
      match wait with
      | .push _ off _ _ _ =>
        if !b.ringArmed off then
          lanes.foldl (fun s r => s.modLane r fun l => { l with status := .ready }) s
        else if b.ringClosed off then s
        else if lanes.length ≤ b.ringRoom off then
          let vals := batch.map fun y => match y.2.2.2 with | .push _ _ _ v _ => v | _ => {}
          let s := s.pushAll r.1 block off vals
          lanes.foldl (fun s r => s.modLane r fun l =>
            match l.status with
            | .parked _ pc => l.advance pc
            | _ => l) s
        else s
      | .pop _ off _ fieldA peek _ =>
        if lanes.length ≤ b.ringCount off ∨ b.ringClosed off ∨ !b.ringArmed off then
          let s := if b.ringArmed off then s.serve block off fieldA peek lanes else s
          lanes.foldl (fun s r => s.modLane r fun l => { l with status := .ready }) s
        else s
      | _ => s) s

/-- Serve the queues of every ring until nothing moves, within a bound. -/
def State.serveRings (s : State) : Nat → State
  | 0 => s
  | fuel + 1 =>
    let n := (s.ringWaiters true).length + (s.ringWaiters false).length
    if n = 0 then s
    else
      let s' := (s.serveHeads true).serveHeads false
      if (s'.ringWaiters true).length + (s'.ringWaiters false).length = n then s' else State.serveRings s' fuel

/-- No group of a block counts any more as one that has pushed to a ring, which is no longer bound (R334). -/
def State.forgetPushes (s : State) (block off : Nat) : State :=
  { s with groups := s.groups.map fun g => if g.block == block && !g.isK then { g with pushed := sdel off g.pushed } else g }

/-- Free a group's channel entry: unbind it, and disarm the ring at the last one (R253).
Log: DESIGN CHOICE (entry 155). -/
def State.freeChan (s : State) (gid n : Nat) : State :=
  let g := s.group gid
  match g.chans.getD n none with
  | none => s
  | some (off, _) =>
    let s := s.modGroup gid fun g => { g with chans := g.chans.set n none }
    let b := s.block g.block
    let bound := field (b.ringWord off 3).val 0 16 - 1
    if !b.ringArmed off then s
    else if bound = 0 then
      (s.modBlock g.block fun b => (upto 4).foldl (fun b i => b.setRing (off + 4 * i) {}) b).forgetPushes g.block off
    else s.modBlock g.block fun b => b.setRing (off + 12) { val := BitVec.ofNat 32 bound }

/-- Every channel entry of a group whose lanes have exited is freed (R246). -/
def State.freeChans (s : State) (gid : Nat) : State := (upto 16).foldl (fun s n => s.freeChan gid n) s

end Sys2Proof.Machine
end

