-- ==== Sys2Proof/Machine/Traps.lean ====
section
/-!
DEFINITION. What a trap leads to: the policies (R326, R329 to R333), halts of a context (R334, R335), kills (R332),
freezes (R340), the crash path and start of the Kolesque complex (R354, R355, R364, R365), and the end of an instruction.
-/

namespace Sys2Proof.Machine

open Sys2Proof

/-! ### Halts and kills of a context -/

/-- The words of a lane past their 10 us are kept as whatever they then read (R158). -/
def Lane.refresh (l : Lane) (t who : Nat) : Lane :=
  { l with
    regs := l.stale.foldl (fun rs n =>
      if Config.shortLivedKept t who n then rs else rs.modify n fun w => { w with poison := true }) l.regs
    stale := [] }

/-- Words of some quads past their 10 us are kept as whatever they then read (R157). -/
def Lane.refreshQuads (l : Lane) (t who : Nat) (quads : List Nat) : Lane :=
  let mine := l.stale.filter fun n => quads.contains (n / 4)
  { ({ l with stale := mine }.refresh t who) with stale := l.stale.filter fun n => !mine.contains n }

/-- The lanes of a row. -/
def State.onRow (s : State) (core row : Nat) (f : Nat → Lane → Lane) : State :=
  { s with groups := s.groups.map fun (g : Group) =>
      if g.agent == .core core && g.row == row && !g.freed then
        { g with lanes := g.numbered.map fun x => f (g.gid * 64 + x.1) x.2 }
      else g }

/-- Every register word of a group is refreshed (R158). -/
def Group.refreshed (t : Nat) (g : Group) : Group :=
  { g with lanes := g.numbered.map fun x => x.2.refresh t (g.gid * 64 + x.1) }

/-- A lane stops at its core's cycle `now`: its cycle value is kept until it goes on (R352). One that had stopped keeps the value
it has, and one that is restored and not placed yet has its saved value in `cycOff`.
Log: DEDUCED (entry 103). -/
def Lane.stopAt (l : Lane) (placed : Bool) (now : DWord) : Lane :=
  { l with stopped := some (l.stopped.getD (if placed then now + l.cycOff else l.cycOff)) }

/-- Every lane of a group stops at its core's cycle `now` (R352).
Log: DEDUCED (entry 103). -/
def Group.stopAt (now : DWord) (g : Group) : Group :=
  { g with lanes := g.lanes.map fun l => l.stopAt g.saved.isNone now }

/-- A group as it halts (R335): every register word is refreshed first (R158), every lane halts where it stands, and a kill
that has not begun to take effect is undone (R341).
Log: DEDUCED (entry 57). -/
def Group.halt (t : Nat) (now : DWord) (g : Group) : Group :=
  Group.stopAt now { g with lanes := g.numbered.map fun x =>
      let l := x.2.refresh t (g.gid * 64 + x.1)
      if l.unexited then { l with halted := true, kill := l.kill && g.killed } else l }

/-- Operations of a halting context that have not passed their operand wait are pending again (R283).
Log: DESIGN CHOICE (entry 158). -/
def State.pendOps (s : State) (ctx : Nat) : State :=
  { s with ops := s.ops.map fun o =>
      match o.phase with
      | .operands _ _ => if o.ctx == ctx then { o with phase := .queued } else o
      | _ => o }

/-- How far an operation has come in its engine: it computes, its operand wait has begun, or it waits for its turn. -/
def OpPhase.rank : OpPhase → Option Nat
  | .computing _ _ => some 0
  | .operands _ _ => some 1
  | .queued => some 2
  | _ => none

/-- The operations of a context that an engine has taken and that have not passed their operand wait enter the queue anew,
in their order and ahead of what comes later, when the context goes on (R283).
Log: DESIGN CHOICE (entry 158). -/
def State.requeueOps (s : State) (ctx : Nat) : State :=
  let pending := fun (o : MxOp) => o.ctx == ctx && match o.phase.rank with | some 0 => false | some _ => true | none => false
  { s with ops := (s.ops.filter fun o => !pending o) ++ (s.ops.filter pending).map fun o => { o with phase := .queued } }

/-- Grid `a` was launched by grid `b`, or by one that `b` launched: each unit of fuel is a launch. -/
def State.launchedBy (s : State) (b : Nat) : Nat → Nat → Bool
  | 0, _ => false
  | n + 1, a =>
    match (s.grid a).parent with
    | some p => p == b || s.launchedBy b n p
    | none => false

/-- Group `g` depends on group `h` (R334): its grid was launched by `h`'s, or it is bound to a ring that `h` has pushed to.
Log: DEDUCED (entry 57). -/
def State.stopsAfter (s : State) (g h : Group) : Bool :=
  s.launchedBy h.grid 8 g.grid ||
  (g.block == h.block && h.pushed.any fun off =>
    g.chans.any fun c => match c with | some (o, _) => o == off | none => false)

/-- Some groups of a list and those that they depend on, directly or through others; each unit of fuel adds what those found so
far depend on.
Log: DEDUCED (entry 57). -/
def dependedOn (after : Group → Group → Bool) (gs : List Group) : Nat → List Group → List Group
  | 0, found => found
  | n + 1, found =>
    dependedOn after gs n
      (found ++ gs.filter fun h => !(found.any fun g => g.gid == h.gid) && found.any fun g => after g h)

/-- Group `g` of a list is visited after group `h`: it depends on it, directly or through others, and `h` does not depend on it in
turn, for the two would stand in a cycle (R334).
Log: DEDUCED (entry 57). -/
def mustFollow (after : Group → Group → Bool) (gs : List Group) (g h : Group) : Bool :=
  let needs := fun (a b : Group) => (dependedOn after gs gs.length [a]).any fun x => x.gid == b.gid
  needs g h && !needs h g

/-- The groups of a list in the order in which the stop walk visits them: each time the first that follows none of those left.
Log: DEDUCED (entry 57). -/
def stopOrder (follows : Group → Group → Bool) : Nat → List Group → List Nat
  | 0, gs => gs.map (·.gid)
  | n + 1, gs =>
    match gs.find? fun g => !(gs.any (follows g)) with
    | none => []
    | some g => g.gid :: stopOrder follows n (gs.filter fun h => h.gid != g.gid)

/-- The stop walk's order over a context's groups (R334); ties go by frame granule, block index and gidx.
Log: DEDUCED (entry 57). -/
def State.stopWalk (s : State) (ctx : Nat) : List Nat :=
  let key := fun (g : Group) => ((s.grid g.grid).frame * 2 ^ 32 + (s.block g.block).index) * 2 ^ 16 + g.gidx
  let gs := sortBy (fun a b => decide (key a < key b)) (s.groups.filter fun g => g.ctx == ctx && !g.isK)
  stopOrder (mustFollow s.stopsAfter gs) gs.length gs

/-- Halt the groups of a context in the order of the stop walk (R334, R335).
Log: DEDUCED (entry 57). -/
def State.haltLanes (s : State) (ctx : Nat) : State :=
  (s.stopWalk ctx).foldl (fun s gid => s.modGroup gid (Group.halt s.steps (s.core (s.group gid).coreOf).cycles)) (s.pendOps ctx)

/-- Halt every group of a context at once, without the stop walk (R332, R340).
Log: DEDUCED (entry 106). -/
def State.stopLanes (s : State) (ctx : Nat) : State :=
  let s := s.pendOps ctx
  { s with groups := s.groups.map fun g => if g.ctx == ctx && !g.isK then g.halt s.steps (s.core g.coreOf).cycles else g }

/-- A loop state whose body is fetched again when the lane next issues (R126, R130). -/
def Loop.refetch (lp : Loop) : Loop := { lp with body := [] }

/-- The lanes of a context are halted no more. A lane that stood at a planted breakpoint executes the original word once (R350), a
loop's body is fetched again (R130), and pending operations are queued again (R283).
Log: DEDUCED (entry 85). -/
def State.freeLanes (s : State) (ctx : Nat) : State :=
  let planted := (s.ctx ctx).bkpts.map (·.1)
  let s := s.requeueOps ctx
  { s with groups := s.groups.map fun g =>
      if g.ctx == ctx && !g.isK then
        { g with lanes := g.lanes.map fun l =>
            if l.unexited then
              { l with halted := false, loop := l.loop.map Loop.refetch, stepOver := planted.contains l.code.cursor.toNat }
            else l }
      else g }

/-- Let every lane of a context issue again (R361): a faulted lane issues its instruction again (R333), and no lane stands
stopped (R352). -/
def State.unhaltLanes (s : State) (ctx : Nat) : State :=
  let s := s.freeLanes ctx
  { s with groups := s.groups.map fun g =>
      if g.ctx == ctx && !g.isK then
        { g with lanes := g.lanes.map fun l =>
            { l with status := if l.status == .faulted then .ready else l.status, stopped := none } }
      else g }

/-- The rows of a context that were evicted for a save that is put off go on. -/
def State.keepRows (s : State) (ctx : Nat) : State :=
  if (s.ctx ctx).phase == .saving then
    { s with
      groups := s.groups.map fun (g : Group) =>
        if g.ctx == ctx && !g.isK && !((s.block g.block).rest.isSome) then { g with evicted := false } else g
      cores := s.cores.map fun (x : Nat × Core) =>
        (x.1, { x.2 with rows := x.2.rows.map fun (y : Nat × Row) =>
          (y.1, if (s.grid y.2.grid).ctx == ctx then { y.2 with kept := [] } else y.2) }) }
  else s

/-- What a halting context is for, once it is to be dumped too: a dump that a kill follows stays one, and a kill writes no dump
(R332, Table 20.4). -/
def Request.dumped (r : Request) (kill : Bool) : Request :=
  match r with
  | .kill e => .kill e
  | .dump k => .dump (k || kill)
  | _ => .dump kill

/-- Begin the halt of a context for a reason (R333, R336, R361). A context already halting keeps its first reason, but
that a dump is then written too, as one is of a context that had halted or frozen; one being saved is saved once it is resumed
(Table 20.4). -/
def State.haltCtx (s : State) (ctx : Nat) (why : Request) : State :=
  let s := (s.haltLanes ctx).keepRows ctx
  s.modCtx ctx fun c =>
    let c := { c with owed := c.owed ++ (match why with | .halt op => [op] | .ctxDump => [4] | _ => []) }
    match c.phase with
    | .running => { c with phase := .halting, request := why }
    | .halting =>
      match why with
      | .dump k => { c with request := c.request.dumped k }
      | _ => c
    | .saving =>
      match c.request with
      | .save im => { c with phase := .halting, request := why, waiting := some im }
      | _ => c
    | .halted | .frozen =>
      match why with
      | .dump _ => { c with phase := .halting, request := why }
      | _ => c
    | .free => c

/-- A context is to be saved, now or when it is resumed. -/
def Ctx.toSave (c : Ctx) : Bool := c.waiting.isSome || match c.request with | .save _ => true | _ => false

/-- A trap halts and dumps a context (R333): a context that had halted or frozen has a new dump, whose first entry is its own
trigger (R348). -/
def State.dumpCtx (s : State) (ctx : Nat) (es : List FaultEntry) (kill : Bool) : State :=
  (s.modCtx ctx fun c =>
    { c with entries := (if c.phase == .halted || c.phase == .frozen then [] else c.entries) ++ es }).haltCtx ctx (.dump kill)

/-- Begin the teardown of a context (R332). A save that it was to make is not made, and ends with its finish event, as the kill
does (R361). -/
def State.killCtx (s : State) (ctx : Nat) (event : Bool) : State :=
  let s := s.stopLanes ctx
  s.modCtx ctx fun c =>
    let owed := c.owed ++ if c.toSave then [3] else []
    match c.phase, c.request with
    | .halting, .dump _ => { c with request := .dump true, waiting := none, owed := owed ++ if event then [5] else [] }
    | .halting, .kill e => { c with request := .kill (e || event), waiting := none, owed := owed }
    | _, _ => { c with phase := .halting, request := .kill event, waiting := none, owed := owed }

/-- A trap kills a context (R332): the first one that does leaves its entry.
Log: DEDUCED (entry 57). -/
def State.killBy (s : State) (ctx : Nat) (e : Option FaultEntry) : State :=
  (s.modCtx ctx fun c =>
    match c.phase, c.request with
    | .halting, .kill _ => c
    | .halting, .dump true => c
    | _, _ => { c with lastEntry := e }).killCtx ctx false

/-- The event of a ctxrun operation's finish (R361). -/
def State.opFinished (s : State) (ctx op : Nat) : State := s.event 0x03 (BitVec.ofNat 32 ctx) (BitVec.ofNat 32 op)

/-- The finish events that a context owes (R361). -/
def State.payOwed (s : State) (ctx : Nat) : State :=
  let s := (s.ctx ctx).owed.foldl (fun (s : State) op => s.opFinished ctx op) s
  s.modCtx ctx fun c => { c with owed := [] }

/-- A context freezes (R340): what it was halting or torn down for, and a save it was to make, end here, each with its finish
event (R361).
Log: DEDUCED (entry 106). -/
def State.freeze (s : State) (ctx : Nat) : State :=
  let c := s.ctx ctx
  let s := ((s.stopLanes ctx).keepRows ctx).payOwed ctx
  let s := if c.toSave then s.opFinished ctx 3 else s
  let s := match c.request with | .kill true => s.opFinished ctx 5 | _ => s
  s.modCtx ctx fun c => { c with phase := .frozen, request := .none, waiting := none }

/-- Freeze every context (R340, R365) that has not ended.
Log: DEDUCED (entry 106). -/
def State.freezeAll (s : State) : State :=
  s.ctxs.foldl (fun s x => if x.2.phase == .free || x.2.ending.isSome then s else s.freeze x.1) s

/-! ### The complex's start and crash -/

/-- The group identifier of a Kolesque core's thread.
Log: DESIGN CHOICE (entry 4). -/
def kGid (k : Nat) : Nat := 2 ^ 40 + k

/-- A firmware image's header, read physically under the lease key: entry, code length and data length (R364); none once
slot 0 is empty (R370).
Log: DESIGN CHOICE (entry 144). -/
def State.firmware (s : State) (a : Nat) : Option (Nat × Nat × Nat) :=
  let w := fun i => leNat (s.hbmBytes s.leaseKey (a + 4 * i) 4)
  if s.leaseLost ∨ hbmSize < a + 32 then none
  else if w 0 = 0x4B6F1E55 ∧ w 1 = 1 ∧ w 3 ≤ 2 ^ 17 ∧ w 4 ≤ 2 ^ 18 ∧ w 5 = 0 ∧ w 6 = 0 ∧ w 7 = 0 ∧
      a + 32 + w 3 + w 4 ≤ hbmSize then some (w 2, w 3, w 4)
  else none

/-- The memory that holds given bytes from address 0. -/
def memoryOf (bs : List Byte) : Memory := Memory.setBytes {} 0 bs

/-- A Kolesque core's thread at the entry (R354). -/
def kLane (entry : Nat) : Lane :=
  let caps : List Cap := [mkCap 0 0x1F 0 0 0 hbmSize, mkCap 0 0x1F 1 0 0 (2 ^ 18), mkCap 0 0x13 2 0 0 (2 ^ 21)]
  let ws := caps.flatMap Cap.words
  { status := .ready
    regs := (ws ++ List.replicate 52 0).map fun w => { val := w }
    tags := 7
    code := mkCap entry 0x20 0 0 0 (2 ^ 17)
    entry := BitVec.ofNat 64 entry }

/-- Load one core's memories from the image at `a` and set its thread at the entry (R364). -/
def State.loadCore (s : State) (k a : Nat) : State :=
  match s.firmware a with
  | none => s
  | some (entry, clen, dlen) =>
    let s := s.modKcore k fun x =>
      { x with
        status := .running, event := none, released := false
        imem := memoryOf (s.hbmBytes s.leaseKey (a + 32) clen)
        dmem := memoryOf (s.hbmBytes s.leaseKey (a + 32 + clen) dlen) }
    let g : Group := { gid := kGid k, agent := .kcore k, width := 1, regs := 64, lanes := [kLane entry] }
    { s with groups := (s.groups.filter fun x => x.gid != kGid k) ++ [g] }

/-- Load every core that is not retired, and start it. -/
def State.loadCores (s : State) (a : Nat) : State :=
  (upto 12).foldl (fun s k => if (s.kcore k).status == .retired then s else s.loadCore k a) s

/-- Some core can run the firmware at `a`: its header holds, and a core is left.
Log: DEDUCED (entry 106). -/
def State.canServe (s : State) (a : Nat) : Bool :=
  (s.firmware a).isSome && (upto 12).any fun k => (s.kcore k).status != .retired

/-- The crash path (R365): what Table 21.1 gives at the start is set. Where no core can run the firmware, the complex does not
serve: its cores stay in reset.
Log: DEDUCED (entry 106). -/
def State.crash (s : State) (cause : Byte) : State :=
  let s := s.freezeAll
  let s := s.requeue (s.kcores.filterMap fun x => x.2.event)
  let ok := s.canServe s.complex.fwimg.toNat
  let s := { s with
    kcores := s.kcores.map fun (x : Nat × KCore) =>
      (x.1, { x.2 with event := none, released := false, status := if x.2.status == KStatus.retired then KStatus.retired else KStatus.reset })
    complex := { s.complex with
      state := if ok then .running else .crashed
      wdog := 100000, ktimers := []
      cause := cause, crashes := min 15 (s.complex.crashes + 1), warm := true, successor := none } }
  if ok then s.loadCores s.complex.fwimg.toNat else { s with groups := s.groups.filter fun g => !g.isK }

/-! ### Policies -/

/-- The policy of a cause (R326): 0 deliver, 1 halt and dump, 2 kill lanes, 3 kill context. -/
def State.policy (s : State) (ctx : Nat) (cause : Byte) : Nat :=
  ((s.ctx ctx).hdr.policy.getD cause.toNat 0).toNat % 4

/-- How a trap is handled: its policy, or a double trap as halt and dump (R327). -/
inductive Handling where
  | deliver
  | dump (double : Bool)
  | killLane
  | killCtx
deriving DecidableEq, Repr

/-- How a trap of a lane is handled. -/
def State.handling (s : State) (t : Trap) : Handling :=
  match s.policy (s.group t.lane.1).ctx t.cause with
  | 0 => if (s.lane t.lane).canDeliver then .deliver else .dump true
  | 1 => .dump false
  | 2 => .killLane
  | _ => .killCtx

/-- The fault-record entry of one group and cause (R348): the mask of its lanes, with the data of the lowest. -/
def entryOf (s : State) (ts : List (Trap × Handling)) (gid : Nat) (cause : Byte) : Option FaultEntry :=
  let mine := ts.filter fun x => x.1.lane.1 == gid && x.1.cause == cause
  match mine with
  | [] => none
  | (t, h) :: _ =>
    let g := s.group gid
    some { kind := if h == .dump true then 3 else 0, cause := cause, block := (s.block g.block).index, gidx := g.gidx,
           core := g.coreOf, lanes := mine.foldl (fun m x => m ||| (1#64 <<< x.1.lane.2)) 0, pc := t.pc, tdata := t.data,
           addr := t.addr, seq := t.seq }

/-- Sort entries by (block, gidx, cause). -/
def sortEntries (es : List FaultEntry) : List FaultEntry :=
  let key := fun (e : FaultEntry) => (e.block * 2 ^ 16 + e.gidx) * 256 + e.cause.toNat
  es.foldl (fun l e => (l.filter fun x => decide (key x ≤ key e)) ++ [e] ++ l.filter fun x => decide (key e < key x)) []

/-- The entries of a gather's halting traps (R333): the one that holds the lowest-slotted lane first. -/
def entriesOf (s : State) (ts : List (Trap × Handling)) : List FaultEntry :=
  match ts with
  | [] => []
  | (t0, _) :: _ =>
    let keys := (ts.map fun x => (x.1.lane.1, x.1.cause)).dedup
    let first := entryOf s ts t0.lane.1 t0.cause
    let rest := (keys.filter fun k => k != (t0.lane.1, t0.cause)).filterMap fun k => entryOf s ts k.1 k.2
    first.toList ++ sortEntries rest

/-- Handle the traps of one gather of a context (R330): deliveries, then kills of lanes, then the context's halt or
kill.
Log: DEDUCED (entries 22, 56). -/
def State.handle (s : State) (ctx : Nat) (ts : List Trap) : State :=
  let slot := fun (t : Trap) => (s.group t.lane.1).slot + t.lane.2
  let hs := (sortBy (fun a b => decide (slot a < slot b)) ts).map fun t => (t, s.handling t)
  let s := hs.foldl (fun s x =>
    if x.2 == .deliver then (s.deliver x.1.lane x.1.cause x.1.pc x.1.data).count ctx 6 1 else s) s
  let s := hs.foldl (fun s x => if x.2 == .killLane then s.exitLane x.1.lane true else s) s
  let stops := hs.filter fun x => x.2 != .deliver && x.2 != .killLane
  if stops.isEmpty then s
  else
    let es := entriesOf s stops
    let s := stops.foldl (fun s x =>
      s.modLane x.1.lane fun l => { l.dropHeld with status := .faulted, code := l.code.at x.1.pc }) s
    let kill := stops.any fun x => x.2 == .killCtx
    if stops.any fun x => x.2 != .killCtx then
      s.dumpCtx ctx es kill
    else s.killBy ctx es.head?

/-- Handle the traps an instruction raised: those of a Kolesque core take the crash path (R355). -/
def Work.settleTraps (w : Work) : State :=
  match w.traps with
  | [] => w.s
  | t :: _ =>
    match w.l.agent with
    | .kcore _ => w.s.crash t.cause
    | .core _ => w.s.handle (w.s.group t.lane.1).ctx w.traps

/-! ### Kill points (R296) -/

/-- The key and tag of an incumbent register on a die (R289).
Log: DEDUCED (entry 8). -/
def State.replica (s : State) (die reg : Nat) : Word × Word :=
  (tget reg (s.die die).replicas).getD (0, 0)

/-- A bound cannot beat a key (R290): b ≥ k. -/
def cannotBeat (b k : Word) : Bool := fcmp .ge b k == 1

/-- The kill slot's key on a die, if the context has a valid slot 0 (R288). -/
def State.killKey (s : State) (ctx die : Nat) : Option Word :=
  (tget 0 (s.ctx ctx).slots).map fun reg => (s.replica die reg).1

/-- A kill point of a group (R296): killed, every lane at its next boundary, or passed, which is a commit point. A group that
is halted is tested at its next kill point after it resumes (R341).
Log: DEDUCED (entry 66). -/
def State.killPoint (s : State) (gid : Nat) : State :=
  let g := s.group gid
  match g.bound, s.killKey g.ctx (dieOf g.coreOf) with
  | some b, some k =>
    if cannotBeat b k then
      if g.lanes.any fun l => l.kill || l.halted then s
      else s.modGroup gid fun g =>
        { g with lanes := g.lanes.map fun l => if l.unexited then { l with kill := true } else l }
    else s.commitSpec gid
  | some _, none => s.commitSpec gid
  | none, _ => s

/-- Lanes reach a blocking point: a kill point if the group's node says so (R296). -/
def State.blockingPoint (s : State) (ls : List LRef) : State :=
  (groupsOf ls).foldl (fun s gid => if (s.group gid).taskKill then s.killPoint gid else s) s

/-- Lanes pass a blocking point: they stand just past it, where pre-emption may act (R86).
Log: DEDUCED (entry 114). -/
def State.passingPoint (s : State) (ls : List LRef) : State :=
  (ls.foldl (fun s r => s.modLane r fun l => if l.unexited then { l with passed := true } else l) s).blockingPoint ls

/-! ### The end of an instruction -/

/-- Lanes that remain move past the word; a pass end is a blocking point that passes (R129, Table 5.3). -/
def Work.advance (w : Work) : Work :=
  let ends := w.live.filter fun r => (w.s.lane r).atPassEnd
  let s := (w.live ++ w.zero).foldl (fun s r => s.modLane r fun l => l.advance w.l.pc) w.s
  { w with s := s.blockingPoint ends, live := [], zero := [] }

/-- The lanes that an instruction parked have reached a blocking point. -/
def State.parkedPoint (s : State) (ls : List LRef) : State :=
  s.blockingPoint (ls.filter fun r => (s.lane r).atBlocking && !(s.lane r).halted)

/-- The end of an instruction: its traps are handled. -/
def Work.done (w : Work) : Host.Outcome State Fault Refusal := .next (w.settleTraps.parkedPoint w.l.lanes)

/-- The end of an instruction that is a blocking point that passes: the remaining lanes go on at the next word (Table 5.3).
Log: DEDUCED (entry 114). -/
def Work.finishPassing (w : Work) : Host.Outcome State Fault Refusal :=
  let v := w.advance
  { v with s := v.s.passingPoint w.live }.done

/-- The end of an instruction that is a blocking point: lanes that go on without waiting have reached it too (R296).
Log: DEDUCED (entry 66). -/
def Work.finishPoint (w : Work) : Host.Outcome State Fault Refusal :=
  let v := w.advance
  { v with s := v.s.blockingPoint w.live }.done

/-- The end of an instruction after which the remaining lanes go on at the next word. -/
def Work.finish (w : Work) : Host.Outcome State Fault Refusal := w.advance.done

end Sys2Proof.Machine
end

