-- ==== Sys2Proof/Machine/Fetch.lean ====
section
/-!
DEFINITION. Fetching: the checks of a fetch (R20, R112), hint runs (R36, R41, R43), loop bodies (R126, R130), and the row
of the opcode table that a gather's word stands for.
-/

namespace Sys2Proof.Machine

open Sys2Proof

/-! ### One word -/

/-- Checks 1 to 3 of R112 on a lane's code capability. -/
def fetchVerdict (l : Lane) (a : DWord) : Verdict :=
  if l.code.space ≠ 0 then some (0x06, a)
  else if a.toNat % 4 ≠ 0 then some (0x0B, a)
  else if !l.codeCap.within a.toNat 4 then some (0x05, a)
  else none

/-- Of two lanes, the one that has waited longer since its own last issue (R84).
Log: DEDUCED (entry 19). -/
def State.longer (s : State) (a b : LRef) : LRef := if (s.lane b).lastIssue < (s.lane a).lastIssue then b else a

/-- The word at an address of HBM as a group sees it, a region's member with its tentative writes (R308), and its poison.
Log: DEDUCED (entry 19). -/
def State.wordFor (s : State) (key pa gid : Nat) : Word × Bool :=
  let v := s.viewed gid pa
  (BitVec.ofNat 32 (leNat (v.hbmBytes key pa 4)), v.hbmPoison pa 4)

/-- Fetch the word at `a` for every lane of a gather: lanes that fail leave it (R112), and so do the lanes of groups that see
another word there than the lane that has waited longest, which have not issued (R84, R308).
Log: DEDUCED (entry 19), DESIGN CHOICE (entry 74). -/
def Work.fetch (w : Work) (a : DWord) : Work × Option Word :=
  let w := w.check fun s r => fetchVerdict (s.lane r) a
  match w.live with
  | [] => (w, none)
  | r :: t =>
    match w.l.agent with
    | .kcore k =>
      let x := (w.s.kcore k).imem.word 8 a.toNat
      if x.poison then (w.strikeAll w.live 0x0A a, none) else (w, some x.val)
    | .core core =>
      let asid := (w.s.ctx (w.s.group r.1).ctx).hdr.asid
      match w.s.locate (some core) (dieOf core) asid a.toNat .fetch with
      | (s, .error (fatal, reason, level)) =>
        (w.live.foldl (fun v x => v.pageFault x a .fetch fatal reason level) { w with s := s }, none)
      | (s, .ok (.hbm key pa)) =>
        let w := { w with s := s }
        if s.stalled pa then (w.live.foldl Work.hold w, none)
        else
          let x := s.wordFor key pa (t.foldl s.longer r).1
          let other := (groupsOf w.live).filter fun gid => s.wordFor key pa gid != x
          let w :=
            if other.isEmpty then w
            else { w with live := w.live.filter fun y => !other.contains y.1, apart := w.apart ++ w.live.filter fun y => other.contains y.1 }
          if x.2 then (w.strikeAll w.live 0x0A a, none) else (w, some x.1)
      | (s, .ok (.remote dev pa)) =>
        let w := { w with s := s }
        if Config.remotePoison s.steps dev (pa / 32) then (w.strikeAll w.live 0x0A a, none)
        else (w, some (BitVec.ofNat 32 (leNat ((upto 4).map fun i => Config.remoteByte s.steps dev (pa + i)))))

/-- The word a lane executes at `a`: the original word under a planted breakpoint that the lane executes once (R350). -/
def State.under (s : State) (r : LRef) (a : DWord) (w : Word) : Word :=
  if (s.lane r).stepOver then (tget a.toNat (s.ctx (s.group r.1).ctx).bkpts).getD w else w

/-! ### Runs -/

/-- The hints a run is followed for: as many as there are instruction addresses, so that no run is cut but one that leads back
to where it began.
Log: DEDUCED (entry 19). -/
def runLimit : Nat := 2 ^ 62

/-- Fetch a run from `a`: hint words, oldest first, then the governed word.
Log: DEDUCED (entry 19), DESIGN CHOICE (entry 74). -/
def fetchRun (w : Work) (a : DWord) : Nat → List Word → Work × Option (List Word × Word)
  | 0, hs =>
    match w.fetch a with
    | (w, some x) => (w, some (hs, x))
    | (w, none) => (w, none)
  | fuel + 1, hs =>
    match w.fetch a with
    | (w, none) => (w, none)
    | (w, some x) =>
      let x := match w.live with | r :: _ => w.s.under r a x | [] => x
      if isHint x then fetchRun w (a + 4) fuel (hs ++ [x]) else (w, some (hs, x))

/-- Fetch `n` words from `a`, as a loop's body (R126). -/
def fetchWords (w : Work) (a : DWord) : Nat → List Word → Work × Option (List Word)
  | 0, ws => (w, some ws)
  | n + 1, ws =>
    match w.fetch a with
    | (w, none) => (w, none)
    | (w, some x) => fetchWords w (a + 4) n (ws ++ [x])

/-- What the hint words of a run set (R36 to R40). -/
def hintsOf (ws : List Word) : Hints :=
  let find := fun k => (ws.find? fun h => hintKind h == k).map fun h => (hintPayload h).toNat
  { wide := find 0, idx := find 1, memh := find 3, lsteps := (ws.filter fun h => hintKind h == 2).map hintPayload }

/-! ### Loop bodies -/

/-- The lane's loop body is not held, and it stands at word `i` of `len`.
Log: DEDUCED (entry 112). -/
def Lane.lacksBody (l : Lane) (i len : Nat) : Bool :=
  l.begun.isNone && match l.loop with
  | some lp => lp.body.isEmpty && lp.i == i && lp.len == len
  | none => false

/-- Lanes that stand in a loop whose body is not held fetch it again from the loop address (R130); those that stand at
another place of another loop than the first of them do so when they next issue. A fetch that fails is raised at the word
where the lane stands, and the words fetched are not checked under R127 again.
Log: DESIGN CHOICE (entry 74), DEDUCED (entry 112). -/
def Work.refetchBody (w : Work) : Work :=
  match w.live.findSome? fun r => (w.s.lane r).loop.bind fun lp =>
      if lp.body.isEmpty && (w.s.lane r).begun.isNone then some (r, lp) else none with
  | none => w
  | some (r, lp) =>
    let need := w.live.filter fun x => (w.s.lane x).lacksBody lp.i lp.len
    let others := w.live.filter fun x => !need.contains x
    let order := w.live
    match fetchWords { w with live := need } ((w.s.lane r).pc - 4 * BitVec.ofNat 64 lp.i) lp.len [] with
    | (w, none) => { w with live := others }
    | (w, some ws) =>
      let fill := fun (l : Lane) => { l with loop := l.loop.map fun y => { y with body := ws.map fun v => { val := v } } }
      { w with
        s := w.live.foldl (fun s x => s.modLane x fill) w.s
        live := order.filter fun x => others.contains x || w.live.contains x }

/-- The body word a lane in a loop runs. -/
def Lane.bodyWord (l : Lane) : Option Word :=
  match l.loop with
  | some lp => if lp.body.isEmpty then none else some ((lp.body.getD lp.i {}).val)
  | none => none

/-! ### The row of the table -/

/-- The operand of a priv or region word in its lowest lane. -/
def Work.firstWord (w : Work) (code n : Nat) : Word :=
  match w.live with
  | r :: _ => (w.s.reg r (w.rnum r code n)).val
  | [] => 0

/-- The row that a word's operands select where the table gives one word several rows (R303, R362).
Log: DESIGN CHOICE (entry 108). -/
def Work.selectRow (w : Work) (i : Instr) : Instr :=
  let a := bitsAt w.l.word.toNat 12 6
  let at' := fun k => (w.firstWord codeA (a + k)).toNat
  match i with
  | .aropen d x => if (w.firstWord codeA x.toNat).toNat % 2 = 1 then .aropenReopen d x else i
  | .privTlbInvalidateAll =>
    if at' 0 % 4 = 1 then .privTlbInvalidateAsid else if at' 0 % 4 = 2 then .privTlbInvalidateRange else i
  | .privKeyLoad => if at' 3 % 2 = 1 then .privKeyDestroy else i
  | .privFaultReplay => if at' 2 = 1 then .privFaultFail else i
  | .privQueueDisable => if at' 1 = 1 then .privQueueActivate else i
  | _ => i

end Sys2Proof.Machine
end

