-- ==== Sys2Proof/Machine/Sched.lean ====
section
/-!
DEFINITION. The picker of a core (R83 to R85, R118), and placing blocks on cores: room (R13, R168), packing (R79), the
deal (R80, R81) and the birth of threads (R76, R150).
-/

namespace Sys2Proof.Machine

open Sys2Proof

/-! ### The picker -/

/-- A lane is ready and stands at no pending delivery or kill; a delivery waits until an instruction that is under way is
complete.
Log: DEDUCED (entry 161). -/
def Lane.canIssue (l : Lane) : Bool := l.status == .ready && !l.halted && (l.async.isEmpty || l.midway) && !l.kill

/-- The lanes of a row with their slots, in ascending slot order. -/
def State.rowLanes (s : State) (core row : Nat) : List (Nat × LRef × Lane) :=
  let gs := s.groups.filter fun g => g.agent == .core core && g.row == row && !g.freed && !g.evicted
  let ls := gs.flatMap fun g => g.numbered.map fun x => (g.slot + x.1, (g.gid, x.1), x.2)
  sortBy (fun a b => decide (a.1 < b.1)) ls

/-- The pipe of a slot accepts an issue.
Log: DEDUCED (entry 18). -/
def Core.pipeFree (c : Core) (slot : Nat) : Bool := decide (c.pipes.getD (slot / 64) 0 ≤ c.cycles.toNat)

/-- The ready lanes of a row that may issue. A lane of a context that is being saved stays just past a blocking point that
passes until its row is evicted (R86, R338).
Log: DEDUCED (entry 114). -/
def State.issuable (s : State) (core row : Nat) : List (Nat × LRef × Lane) :=
  let saving := (s.ctx (s.grid (s.row core row).grid).ctx).phase == .saving
  (s.rowLanes core row).filter fun x => x.2.2.canIssue && !(saving && x.2.2.passed)

/-- The eligible lanes of a row.
Log: DEDUCED (entry 18). -/
def State.eligible (s : State) (core row : Nat) : List (Nat × LRef × Lane) :=
  (s.issuable core row).filter fun x => (s.core core).pipeFree x.1

/-- The priority of a row: its context's. -/
def State.rowPriority (s : State) (r : Row) : Nat := (s.ctx (s.grid r.grid).ctx).hdr.priority

/-- Of two rows, the one that the picker takes: the least recently issued, then the lowest number. -/
def earlier (a b : Nat × Row) : Nat × Row :=
  if a.2.lastIssue < b.2.lastIssue ∨ (a.2.lastIssue = b.2.lastIssue ∧ a.1 ≤ b.1) then a else b

/-- The row of R84, step 1, among the rows that hold an eligible thread. A row that yielded is passed over while another
ready row of its priority or above is there (R118), unless that holds of every ready row.
Log: DEDUCED (entry 70). -/
def State.pickRow (s : State) (core : Nat) : Option Nat :=
  let c := s.core core
  let ready := c.rows.filter fun x => !(s.issuable core x.1).isEmpty
  let wait := fun (x : Nat × Row) => c.cycles.toNat - max x.2.lastIssue x.2.readyAt
  let passed := fun (x : Nat × Row) =>
    decide (c.gathers < x.2.passOver) &&
    ready.any fun y => y.1 != x.1 && decide (s.rowPriority x.2 ≤ s.rowPriority y.2)
  let rows := ready.filter fun x => !(s.eligible core x.1).isEmpty && (!passed x || ready.all passed)
  let old := rows.filter fun x => decide (2 ^ 16 ≤ wait x)
  let top := (rows.map fun x => s.rowPriority x.2).foldl max 0
  let among := if old.isEmpty then rows.filter fun x => s.rowPriority x.2 == top else old
  match among with
  | [] => none
  | x :: t => some (t.foldl earlier x).1

/-- The gather of R84, steps 2 and 3: the PC of the lane that has waited longest, ties to the lowest slot, and every
eligible lane of the row at that PC. -/
def State.pickGather (s : State) (core : Nat) : Option (Nat × List LRef) :=
  match s.pickRow core with
  | none => none
  | some row =>
    match s.eligible core row with
    | [] => none
    | x :: t =>
      let first := t.foldl (fun a b => if b.2.2.lastIssue < a.2.2.lastIssue then b else a) x
      some (row, ((x :: t).filter fun y => y.2.2.pc == first.2.2.pc).map fun y => y.2.1)

/-! ### Placement -/

/-- The chunks a share of `lines` lines costs (R168). -/
def chunksOf (lines : Nat) : Nat := (lines + 31) / 32

/-- The chunks of a core in use. -/
def State.chunksUsed (s : State) (core : Nat) : Nat :=
  (s.blocks.map fun b => ((b.shares.filter fun x => x.core == core).map fun x => chunksOf x.lines).sum).sum

/-- The chunks of a core that no share occupies, in rising order (R168).
Log: DESIGN CHOICE (entry 52). -/
def State.freeChunks (s : State) (core : Nat) : List Nat :=
  let used := s.blocks.flatMap fun b => (b.shares.filter fun x => x.core == core).flatMap (·.chunks)
  (upto 384).filter fun c => !used.contains c

/-- Shares with the chunks they take: the lowest free ones of their cores (R168).
Log: DESIGN CHOICE (entry 52). -/
def State.withChunks (s : State) (shares : List Share) : List Share :=
  shares.map fun x => { x with chunks := (s.freeChunks x.core).take (chunksOf x.lines) }

/-- The aligned slots of a row of a grid are free of groups: the lowest run of `w`. -/
def State.freeSlot (s : State) (core row w : Nat) : Option Nat :=
  let gs := s.groups.filter fun g => g.agent == .core core && g.row == row && !g.freed
  (upto (256 / max w 1)).map (· * w) |>.find? fun k =>
    gs.all fun g => decide (k + w ≤ g.slot) || decide (g.slot + g.width ≤ k)

/-- The register words of the rows of a core. -/
def Core.regWords (c : Core) : Nat := (c.rows.map fun x => 256 * x.2.regs).sum

/-- Where the next group of a grid goes on a core (R79): a row and slot, and the core with the row opened if need be.
Log: DESIGN CHOICE (entries 111, 124). -/
def State.placeGroup (s : State) (core grid regs w : Nat) : Option (State × Nat × Nat) :=
  let c := s.core core
  let have' := c.rows.findSome? fun x =>
    if x.2.grid = grid then (s.freeSlot core x.1 w).map fun k => (x.1, k) else none
  match have' with
  | some (row, k) => some (s, row, k)
  | none =>
    if 128 ≤ c.rows.length ∨ 1048576 < c.regWords + 256 * regs then none
    else
      match (upto 128).find? fun r => (tget r c.rows).isNone with
      | none => none
      | some row =>
        let new : Row := { grid := grid, regs := regs, readyAt := c.cycles.toNat, lastIssue := 0 }
        some (s.modCore core fun k => { k with rows := tput row new k.rows }, row, 0)

/-- A thread at birth (R76, R150, R241): every register 0 and untagged, its PC at the kernel entry. `n` threads of the
block stand in this group.
Log: DESIGN CHOICE (entry 111). -/
def birthLane (s : State) (core : Nat) (g : Grid) (n lane : Nat) : Lane :=
  let helpers := (n + 3) / 4 * 4
  { status := if lane < helpers then .ready else .empty
    helper := decide (n ≤ lane) && decide (lane < helpers)
    regs := List.replicate g.regs {}, unwritten := BitVec.allOnes 64
    code := g.code, entry := g.code.cursor
    anchor := g.anchor, acquired := List.replicate 5 s.past.length
    lastIssue := (s.core core).cycles.toNat }

/-- A group at birth in its place. -/
def birthGroup (s : State) (gid : Nat) (g : Grid) (block core gidx row slot : Nat) : Group :=
  let n := min g.width (g.blksize - gidx * g.width)
  { gid := gid, agent := .core core, ctx := g.ctx, grid := g.uid, block := block, gidx := gidx, width := g.width,
    regs := g.regs, row := row, slot := slot, lanes := (upto g.width).map (birthLane s core g n),
    bound := g.task.map fun t => t.2.2.2
    nrec := match g.task with | some t => BitVec.ofNat 32 t.2.1.length | none => 0
    nodeid := match g.task with | some t => BitVec.ofNat 32 t.1 | none => 0xFFFFFFFF
    taskKill := match g.task with
      | some t => ((tget t.1 (s.ctx g.ctx).nodes).map (·.kill)).getD false
      | none => false }

/-- The groups of a block. -/
def Grid.groupCount (g : Grid) : Nat := (g.blksize + g.width - 1) / max g.width 1

/-- Place `n` groups from index `i` on a list of cores, in order: each core takes groups while it has room, and only then
the next (R81). Answers none when some group finds no room. Each unit of fuel places a group or leaves a core. -/
def placeGroups (g : Grid) (block : Nat) : Nat → State → List Nat → Nat → Nat → Option State
  | 0, s, _, _, n => if n = 0 then some s else none
  | fuel + 1, s, cores, i, n =>
    if n = 0 then some s
    else
      match cores with
      | [] => none
      | core :: rest =>
        match s.placeGroup core g.uid g.regs g.width with
        | some (s, row, slot) =>
          let (s, gid) := s.fresh
          let s := { s.dropL1 core with groups := s.groups ++ [birthGroup s gid g block core i row slot] }
          placeGroups g block fuel s cores (i + 1) (n - 1)
        | none => placeGroups g block fuel s rest i n

/-- Core a precedes core b for a grid (R80), exactly in integers. -/
def State.coreBefore (_s : State) (g : Grid) (a b : Nat) : Bool :=
  let k := fun c => (tget c g.assigned).getD 0 + 1
  let x := k a * (72 + (fusedEntry b))
  let y := k b * (72 + (fusedEntry a))
  decide (x < y) || (x == y && decide (a < b))

/-- Cores in the order of R80 for a grid. -/
def State.coreOrder (s : State) (g : Grid) (cores : List Nat) : List Nat :=
  sortBy (s.coreBefore g) cores

/-- The shares of a block of `lines` lines over a list of cores (R168).
Log: DESIGN CHOICE (entry 52). -/
def sharesOf (lines : Nat) (cores : List Nat) : List Share :=
  let q := (lines + cores.length - 1) / max cores.length 1
  ((upto cores.length).zip cores).map fun x =>
    { core := x.2, first := min (x.1 * q) lines, lines := min ((x.1 + 1) * q) lines - min (x.1 * q) lines }

/-- Place one block of a grid on a list of cores, all or nothing. A task group's records go into its scratchpad. -/
def State.placeOn (s : State) (g : Grid) (index : Nat) (cores : List Nat) : Option State :=
  let shares := s.withChunks (sharesOf g.lines cores)
  if shares.any fun x => decide (384 < s.chunksUsed x.core + chunksOf x.lines) then none
  else
    let (s, bid) := s.fresh
    match placeGroups g bid (g.groupCount + cores.length) s cores 0 g.groupCount with
    | none => none
    | some s =>
      let recs := match g.task with | some t => t.2.1 | none => []
      let scratch := (recs.foldl (fun (p : Memory × Nat) rec' =>
        (((upto rec'.length).zip rec').foldl (fun m x => m.writeWord 8 (p.2 + 4 * x.1) x.2) p.1, p.2 + 4 * rec'.length)) (({} : Memory), 0)).1
      let b : Block :=
        { bid := bid, grid := g.uid, index := index, shares := shares, lines := g.lines,
          q := (g.lines + cores.length - 1) / max cores.length 1, scratch := scratch,
          cvs := [] }
      let s := { s with blocks := s.blocks ++ [b] }
      some (s.modGrid g.uid fun y =>
        { y with
          next := y.next + 1
          home := if index = 0 then cores.headD 0 else y.home
          assigned := cores.foldl (fun t c => tput c ((tget c t).getD 0 + 1) t) y.assigned })

/-- The cores that take blocks: 160, but for those withheld (R375); a task group's are those of its bin's die (R287). -/
def State.coresFor (s : State) (g : Grid) : List Nat :=
  let all := match g.task with
    | some t => (upto 40).map (· + 40 * t.2.2.1)
    | none => upto 160
  all.filter fun c => !(s.core c).withheld

/-- The attempts to place a block, in the order of R80 and R81: each core alone, then n cores of a die. -/
def State.placeBlock (s : State) (g : Grid) (index : Nat) : Option State :=
  let cores := s.coresFor g
  let single := s.coreOrder g cores
  match single.findSome? fun c => s.placeOn g index [c] with
  | some s => some s
  | none =>
    (upto 4).findSome? fun die =>
      [2, 3, 4].findSome? fun n =>
        let q := (g.lines + n - 1) / n
        let fit := s.coreOrder g (cores.filter fun c => dieOf c == die && decide (s.chunksUsed c + chunksOf q ≤ 384))
        if fit.length < n then none else s.placeOn g index (fit.take n)

/-- The blocks of a grid. -/
def Grid.blocks (g : Grid) : Nat := g.dimx * g.dimy * g.dimz

/-- Place every block of a cooperative grid, or none (R82). -/
def placeAll (g : Nat) : Nat → State → Option State
  | 0, s => some (s.modGrid g fun y => { y with state := .placed })
  | n + 1, s =>
    match s.placeBlock (s.grid g) (s.grid g).next with
    | some s => placeAll g n s
    | none => none

/-- A block of the grid could be placed on four empty cores of a die (R81; reason 4 of Table 13.3). -/
def Grid.fits (g : Grid) : Bool :=
  let perRow := 256 / max g.width 1
  let rows := (g.groupCount + perRow - 1) / max perRow 1
  let maxRows := min 128 (1048576 / (256 * max g.regs 1))
  decide (g.lines ≤ 49152) &&
  [1, 2, 3, 4].any fun n =>
    decide (chunksOf ((g.lines + n - 1) / n) ≤ 384) && decide (rows ≤ maxRows * n)

end Sys2Proof.Machine
end

