-- ==== Sys2Proof/Machine/Engine.lean ====
section
/-!
DEFINITION. Numbers of copies and operations (R177), convergence registers (R226), the baton (R280), the vote over a
joint set and the engine's queue (R267, R272, R273), and what a core's engine does next.
-/

namespace Sys2Proof.Machine

open Sys2Proof

/-! ### Numbers (R177, R273) -/

/-- The numbers of a group's outstanding copies and operations. -/
def State.numbersOf (s : State) (gid : Nat) : List Word :=
  (s.copies.filter fun c => c.gid == gid).map (·.seq) ++
  s.ops.flatMap fun o => (o.nums.filter fun x => x.1 == gid).map (·.2)

/-- engdone: the oldest outstanding number, or engseq (R177). -/
def State.engdone (s : State) (gid : Nat) : Word :=
  let seq := (s.group gid).engseq
  (s.numbersOf gid).foldl (fun old n => if (seq - old).toNat < (seq - n).toNat then n else old) seq

/-- outstanding(n) of a group (R177). -/
def State.outstanding (s : State) (gid : Nat) (n : Word) : Bool :=
  let done := s.engdone gid
  decide ((n - done).toNat < ((s.group gid).engseq - done).toNat)

/-! ### Convergence registers (R226) -/

/-- A convergence register of a block. -/
def Block.cv (b : Block) (n : Nat) : CvReg := (tget n b.cvs).getD {}

/-- Change a convergence register. -/
def Block.setCv (b : Block) (n : Nat) (v : CvReg) : Block := { b with cvs := tput n v b.cvs }

/-- A signature by tidx t of a kind (1 plain, 2 matrix): the register, and whether the generation completed. -/
def CvReg.sign (v : CvReg) (kind t : Nat) : CvReg × Bool :=
  if v.signed + 1 = v.count then ({ v with gen := (v.gen + 1) % 64, signed := 0, kind := 0, mask := 0 }, true)
  else ({ v with kind := kind, signed := v.signed + 1, mask := mset v.mask t }, false)

/-! ### The baton (R280) -/

/-- A crew has a ticket on an engine.
Log: DEDUCED (entry 63). -/
def State.hasTicket (s : State) (core : Nat) (crew : Nat × Nat) : Bool := (s.core core).tickets.contains crew

/-- A ticket was saved ahead of another in one engine's queue (R283).
Log: DEDUCED (entry 63). -/
def Rank.before (a b : Rank) : Bool := a.engine == b.engine && decide (a.place < b.place)

/-- A restored ticket waits while a block that its context was restored with, and that is not placed yet, brings one that was saved
before it in the same engine's queue (R283).
Log: DEDUCED (entry 63). -/
def State.defers (s : State) (crew : Nat × Nat) : Bool :=
  let b := s.block crew.1
  match tget crew.2 b.ranks with
  | none => false
  | some k => s.blocks.any fun x =>
      (s.grid x.grid).ctx == (s.grid b.grid).ctx && match x.rest with | some y => y.crews.any fun c => c.1.before k | none => false

/-- A crew holds the baton. -/
def State.holdsBaton (s : State) (core : Nat) (crew : Nat × Nat) : Bool :=
  (s.core core).tickets.head? == some crew && !s.defers crew

/-- Append a ticket for a crew that has none. -/
def State.takeTicket (s : State) (core : Nat) (crew : Nat × Nat) : State :=
  if s.hasTicket core crew then s else s.modCore core fun k => { k with tickets := k.tickets ++ [crew] }

/-! ### Joint sets (R268, R272, R273) -/

/-- Signers by rank: ascending tidx (R268). -/
def MxOp.ranked (o : MxOp) : List Signer := sortBy (fun a b => decide (a.tidx < b.tidx)) o.signers

/-- Accumulators per signer. -/
def MxOp.perSigner (o : MxOp) : Nat := 4096 / max o.signers.length 1

/-- Ranges of registers overlap. -/
def overlap (a n b m : Nat) : Bool := decide (a < b + m) && decide (b < a + n)

/-- The vote's reason for divergence, if it fails (R272). -/
def MxOp.divergence (o : MxOp) : Option Nat :=
  match o.signers with
  | [] => none
  | x :: t =>
    let a := o.perSigner
    if t.any fun y => y.fmt != x.fmt then some 1
    else if t.any fun y => y.aOff != x.aOff || y.bOff != x.bOff then some 2
    else if (fwdOf x.fmt).acc ≠ 1 ∧ o.signers.any fun y =>
        overlap y.d a y.f 1 || overlap y.d a (4 * y.ca) 4 || overlap y.d a (4 * y.cb) 4 then some 3
    else none

/-- A signer's lane is still there. -/
def State.signerLives (s : State) (x : Signer) : Bool := (s.lane (x.gid, x.lane)).unexited

/-- The engine begins work of a context: it is not halted (R283).
Log: DEDUCED (entry 63). -/
def State.engineServes (s : State) (ctx : Nat) : Bool :=
  match (s.ctx ctx).phase with
  | .running => true
  | .saving => true
  | _ => false

/-- The operations that an engine has taken and not ended, in its order: what it works on first, then the others as they
came. Those of a halted context that have not passed their operand wait are kept aside until it resumes (R283). -/
def State.engineOps (s : State) (core : Nat) : List MxOp :=
  let mine := s.ops.filter fun o => o.core == core && match o.phase.rank with
    | some 0 => true
    | some _ => s.engineServes o.ctx
    | none => false
  sortBy (fun a b => decide (a.phase.rank.getD 0 < b.phase.rank.getD 0)) mine

/-- An engine's queue of 4 (R267). Where a context that goes on brings its operations back, those beyond 4 wait for a
place. -/
def State.engineQueue (s : State) (core : Nat) : List MxOp := (s.engineOps core).take 4

/-- Put an operation into its engine's queue (R273): numbers, ownership, and the signers go on. -/
def State.enterQueue (s : State) (id : Nat) : State :=
  match s.ops.find? fun o => o.id == id with
  | none => s
  | some o =>
    let gids := (o.signers.map (·.gid)).dedup
    let nums := gids.map fun g => (g, (s.group g).engseq)
    let s := gids.foldl (fun s g => s.modGroup g fun x => { x with engseq := x.engseq + 1 }) s
    let a := o.perSigner
    let s := o.signers.foldl (fun s x =>
      if s.signerLives x then
        s.modLane (x.gid, x.lane) fun l =>
          let l := { l with owned := l.owned ++ [(x.d, a, id)] }
          match l.status with
          | .parked .baton pc => l.advance pc
          | _ => l
      else s) s
    let s := s.modOp id fun o => { o with nums := nums, phase := .queued }
    { s with ops := (s.ops.filter fun x => x.id != id) ++ (s.ops.filter fun x => x.id == id) }

/-- Operations whose crew holds the baton enter their engine's queue while it has room (R267, R273). -/
def State.settleEngines (s : State) : State :=
  (s.ops.filter fun o => o.phase == .baton && s.engineServes o.ctx).foldl (fun s o =>
    if s.holdsBaton o.core (o.block, o.cv) && decide ((s.engineOps o.core).length < 4) then s.enterQueue o.id else s) s

/-- The lane waits at an mx for its set's ticket, not at a btake. -/
def State.atMx (s : State) (r : LRef) : Bool :=
  s.ops.any fun o => o.phase == .baton && o.signers.any fun x => x.gid == r.1 && x.lane == r.2

/-- An operation takes its vote, its generation being complete (R272, R273): the traps of a failed vote, or a ticket. -/
def State.vote (s : State) (id : Nat) : State × List Trap :=
  match s.ops.find? fun o => o.id == id with
  | none => (s, [])
  | some o =>
    match o.divergence with
    | some reason =>
      let s := { s with ops := s.ops.filter fun x => x.id != id }
      let s := o.signers.foldl (fun s x => s.modLane (x.gid, x.lane) fun l => { l with sigs := tdel o.cv l.sigs }) s
      (s, (o.signers.filter s.signerLives).map fun x =>
        { lane := (x.gid, x.lane), cause := 0x02, pc := (s.lane (x.gid, x.lane)).pc, data := tdata x.fmt (BitVec.ofNat 32 reason) })
    | none =>
      let tag := match o.ranked with | x :: _ => (s.lane (x.gid, x.lane)).tiletag | [] => 0
      let s := s.modOp id fun o => { o with phase := .baton, tag := tag }
      let s := s.stamp o.block tag stSigned true false
      let s := s.takeTicket o.core (o.block, o.cv)
      let s := o.signers.foldl (fun s x =>
        s.modLane (x.gid, x.lane) fun l =>
          match l.status with
          | .parked (.signed _) pc => { l with status := .parked .baton pc, parkedAt := s.steps }
          | _ => l) s
      (s, [])

end Sys2Proof.Machine
end

