-- ==== Sys2Proof/Machine/Forager.lean ====
section
/-!
DEFINITION. Window slots (R153 to R155), frames allocated and zeroed (R232), bins and their launch decisions (R286,
R287, R290, R292), and the launch queues (R81, R82, R241).
-/

namespace Sys2Proof.Machine

open Sys2Proof

/-! ### Window slots -/

/-- Every unexited thread of a row is parked, held at rcvwait or halted (R155). A thread at rgn of a row that holds a slot
has just been granted it, and is no longer parked. -/
def State.rowBlocked (s : State) (core row : Nat) : Bool :=
  (s.rowLanes core row).all fun x =>
    !x.2.2.unexited || x.2.2.halted ||
    match x.2.2.status with
    | .parked .window _ => (s.row core row).slot.isNone
    | .parked _ _ => true
    | .held _ => true
    | .faulted => true
    | _ => false

/-- A row gives up its slot: its map empties (R155). -/
def Row.loseSlot (r : Row) : Row := { r with slot := none, map := [] }

/-- A row is evicted: it gives up its slot, and the map it held is kept for the image (R155, R159).
Log: DEDUCED (entry 71). -/
def Row.evict (r : Row) : Row := { r.loseSlot with kept := r.map, rgnSince := none }

/-- The lanes of a row that are parked at rgn. -/
def State.atWindow (s : State) (core row : Nat) : List Lane :=
  (s.groups.filter fun g => g.agent == .core core && g.row == row && !g.freed && !g.evicted).flatMap fun g =>
    g.lanes.filter fun l => match l.status with | .parked .window _ => true | _ => false

/-- Each row of a core waits at rgn from when its first lane there began to, until it holds a slot again.
Log: DEDUCED (entry 71). -/
def State.noteWindow (s : State) (core : Nat) : State :=
  s.modCore core fun k => { k with rows := k.rows.map fun (x : Nat × Row) =>
    (x.1, { x.2 with rgnSince :=
      if x.2.slot.isSome || (s.atWindow core x.1).isEmpty then none else some (x.2.rgnSince.getD k.cycles.toNat) }) }

/-- The slot that a row may have now: a free one, or that of the lowest-numbered blocked row (R155). -/
def State.findSlot (s : State) (core : Nat) : Option (Nat × Option Nat) :=
  let rows := (s.core core).rows
  match (upto 16).find? fun k => rows.all fun x => x.2.slot != some k with
  | some k => some (k, none)
  | none =>
    rows.findSome? fun x =>
      match x.2.slot with
      | some k => if s.rowBlocked core x.1 then some (k, some x.1) else none
      | none => none

/-- Give a row a slot, taken from another row if need be.
Log: DEDUCED (entry 71). -/
def State.giveSlot (s : State) (core row slot : Nat) (victim : Option Nat) : State :=
  let s := match victim with
    | some v => s.modRow core v Row.loseSlot
    | none => s
  s.modRow core row fun r => { r with slot := some slot, rgnSince := none }

/-- A row obtains a slot if it can.
Log: DEDUCED (entry 71). -/
def State.obtainSlot (s : State) (core row : Nat) : Option State :=
  (s.findSlot core).map fun x => s.giveSlot core row x.1 x.2

/-- The rows of a core that wait for a slot and are not halted, in the order in which they began to wait (R155).
Log: DEDUCED (entry 71). -/
def State.slotQueue (s : State) (core : Nat) : List (Nat × Row) :=
  sortBy (fun (a b : Nat × Row) => decide (a.2.rgnSince.getD 0 < b.2.rgnSince.getD 0))
    ((s.core core).rows.filter fun x =>
      x.2.rgnSince.isSome && x.2.slot.isNone && (s.atWindow core x.1).any fun l => !l.halted)

/-- Grant slots to the rows of a core parked at rgn, in the order in which they began to wait (R155).
Log: DEDUCED (entry 71). -/
def State.grantSlots (s : State) (core : Nat) : State :=
  (s.slotQueue core).foldl (fun s x => (s.obtainSlot core x.1).getD s) s

/-- A row of a core that has waited 2^16 cycles for a slot while others hold every one (R155).
Log: DEDUCED (entry 71). -/
def State.slotOverdue (s : State) (core : Nat) : Option Nat :=
  let k := s.core core
  if k.rows.any fun x => x.2.slot.isSome then
    ((s.slotQueue core).find? fun x => decide (x.2.rgnSince.getD 0 + 65536 ≤ k.cycles.toNat)).map (·.1)
  else none

/-! ### Frames (R232) -/

/-- What writing to a context's memory for it may meet: the zeroing of a frame, a return stack that is spilled. -/
inductive Zeroed where
  | ok (s : State)
  | fault (s : State) (va : Nat) (fatal : Bool) (reason level : Nat)

/-- Zero `n` granules from a virtual address through the context's translation, tags cleared. -/
def zeroGranules (core : Option Nat) (die asid : Nat) : Nat → State → Nat → Zeroed
  | 0, s, _ => .ok s
  | n + 1, s, va =>
    match s.locate core die asid va .write with
    | (s, .error (fatal, reason, level)) => .fault s va fatal reason level
    | (s, .ok (.hbm key pa)) => zeroGranules core die asid n (s.hbmOutside key pa [(List.replicate 256 0, false)] false) (va + 256)
    | (s, .ok (.remote _ _)) => zeroGranules core die asid n s (va + 256)

/-- The virtual address of a granule. -/
def Ctx.granuleAt (c : Ctx) (k : Nat) : Nat := c.hdr.poolbase.toNat + 256 * k

/-- Make a run of granules a live frame of a grid, with its reference and its parent's (R235). -/
def State.addFrame (s : State) (ctx granule len grid : Nat) (parent : Option Nat) : State :=
  s.modCtx ctx fun c =>
    let up := c.frames.map fun f => if some f.granule == parent then { f with refs := f.refs + 1 } else f
    { c with frames := up ++ [{ granule := granule, len := len, grid := grid, refs := 1, parent := parent }] }

/-- The display capability of a frame (R233). -/
def Ctx.frameCap (c : Ctx) (granule len : Nat) : Cap :=
  mkCap (c.granuleAt granule) 0x5F 0 0 (c.granuleAt granule) (c.granuleAt granule + 256 * len)

/-! ### Launch queues (R241) -/

/-- The launch queue of a priority.
Log: DEDUCED (entry 31). -/
def State.launchQueue (s : State) (p : Nat) : List Nat := (tget p s.launchQ).getD []

/-- Put a grid at the back of its context's launch queue. -/
def State.enqueueGrid (s : State) (g : Grid) : State :=
  let p := (s.ctx g.ctx).hdr.priority
  { s with grids := s.grids ++ [g], launchQ := tput p (s.launchQueue p ++ [g.uid]) s.launchQ }

/-- Take a grid out of every launch queue. -/
def State.dequeueGrid (s : State) (g : Nat) : State :=
  { s with launchQ := s.launchQ.map fun x => (x.1, x.2.filter fun y => y != g) }

/-! ### Bins -/

/-- A bin of a context. -/
def Ctx.bin (c : Ctx) (die node : Nat) : Bin := (tget (die * 256 + node) c.bins).getD {}

/-- Change a bin. -/
def State.modBin (s : State) (ctx die node : Nat) (f : Bin → Bin) : State :=
  s.modCtx ctx fun c => { c with bins := tput (die * 256 + node) (f (c.bin die node)) c.bins }

/-- The bound of a record: its word 0. -/
def recBound (r : List PWord) : Word := (r.getD 0 {}).val

/-- A record cannot beat its die's kill-slot key (R290). -/
def State.hopeless (s : State) (ctx die : Nat) (r : List PWord) : Bool :=
  match s.killKey ctx die with
  | some k => cannotBeat (recBound r) k
  | none => false

/-- The drop rule in a bin (R290). -/
def State.dropInBin (s : State) (ctx die node : Nat) : State :=
  let recs := ((s.ctx ctx).bin die node).records
  let kept := recs.filter fun r => !s.hopeless ctx die r
  let n := recs.length - kept.length
  if n = 0 then s
  else
    (s.modBin ctx die node fun b => { b with records := kept }).modCtx ctx fun c =>
      { c with dropBin := c.dropBin + BitVec.ofNat 64 n }

/-- The least bound of a list of records. -/
def leastBound (rs : List (List PWord)) : Word :=
  match rs with
  | [] => nanWord
  | r :: t => t.foldl (fun b x => fmin b (recBound x)) (recBound r)

/-- The code capability of a node's kernel: the table holds it sealed as a node handle (R285). -/
def Node.entry (n : Node) : Cap := { n.code with md := n.code.md &&& ~~~(BitVec.ofNat 64 (0xF * 2 ^ 48)) }

/-- The task group's grid for records taken from a bin (R287).
Log: DESIGN CHOICE (entry 148). -/
def taskGrid (uid ctx die node : Nat) (n : Node) (recs : List (List PWord)) : Grid :=
  { uid := uid, ctx := ctx, frame := 0, granules := max n.frame 1, framed := false, level := 0, depth := 1, display := [],
    code := n.entry, anchor := n.code.cursor, dimx := 1, dimy := 1, dimz := 1, blksize := n.width, width := n.width, regs := n.regs,
    lines := max n.lines ((n.count * n.size + 127) / 128),
    task := some (node, recs, die, leastBound recs) }

/-- Try to give a task grid its frame, zeroed, with the data capability in its bytes 0 to 15 (R287). -/
inductive Framed where
  | ok (s : State)
  /-- no run of granules is free -/
  | wait
  | fault (s : State) (va : Nat) (fatal : Bool) (reason level : Nat)

/-- Allocate the frame of a task grid.
Log: DESIGN CHOICE (entry 149). -/
def State.frameTask (s : State) (die : Nat) (g : Grid) (data : Cap) : Framed :=
  let c := s.ctx g.ctx
  if !c.granQ.isEmpty then .wait
  else
    match c.findRun g.granules with
    | none => .wait
    | some k =>
      match zeroGranules none die c.hdr.asid g.granules s (c.granuleAt k) with
      | .fault s va fatal reason level => .fault s va fatal reason level
      | .ok s =>
        let s := match s.locate none die c.hdr.asid (c.granuleAt k) .write with
          | (s, .ok (.hbm key pa)) => s.hbmOutside key pa [(data.words.flatMap fun (w : Word) => leBytes 4 w.toNat, false)] data.tag
          | (s, _) => s
        let s := s.addFrame g.ctx k g.granules g.uid none
        let cap := c.frameCap k g.granules
        .ok { s with grids := s.grids.map fun (x : Grid) =>
                if x.uid == g.uid then { x with frame := k, framed := true, display := [cap] } else x }

/-- A launch decision held on a page fault (R232): its record, with core field 0xFF. While the fault queue is full the
decision is made again at once.
Log: DEDUCED (entry 102). -/
def State.holdDecision (s : State) (ctx die node va : Nat) (reason level : Nat) : State :=
  match s.fault die (s.ctx ctx).hdr.asid va .write false reason level 0xFF (some ctx) none none (some (ctx, die, node)) with
  | (s, some _) => s.modBin ctx die node fun b => { b with held := true }
  | (s, none) => s

/-- A task group that stands in its launch queue is held on a page fault as its decision would be (R232).
Log: DEDUCED (entry 102). -/
def State.holdGrid (s : State) (g : Grid) (die va : Nat) (reason level : Nat) : State :=
  match s.fault die (s.ctx g.ctx).hdr.asid va .write false reason level 0xFF (some g.ctx) none none none with
  | (s, some i) =>
    (s.modDie die fun d =>
      { d with faults := d.faults.map fun (x : Nat × FaultRec) =>
          if x.1 = i then (i, { x.2 with grids := x.2.grids ++ [g.uid] }) else x }).modGrid g.uid fun x => { x with held := true }
  | (s, none) => s

/-- The fault-record entry of a page fault of a launch decision: no group took it (R232, R348).
Log: DEDUCED (entry 102). -/
def decisionEntry (va : Nat) : FaultEntry :=
  { kind := 0, cause := 0x09, block := 0, gidx := 0, core := 0xFF, lanes := 0, pc := 0, tdata := BitVec.ofNat 64 va,
    addr := BitVec.ofNat 64 va, seq := 0 }

/-- `taken` records of a failed decision are discarded and counted, and the fault takes the context's policy for 0x09 with
no lanes to deliver to; under a policy that neither halts nor kills it is recorded in the image (R181, R232).
Log: DEDUCED (entry 102). -/
def State.failRecords (s : State) (ctx taken va : Nat) : State :=
  let s := s.modCtx ctx fun c => { c with dropBin := c.dropBin + BitVec.ofNat 64 taken }
  match s.policy ctx 0x09 with
  | 1 => s.dumpCtx ctx [decisionEntry va] false
  | 3 => s.killBy ctx (some (decisionEntry va))
  | _ => s.modCtx ctx fun c => { c with notes := c.notes ++ [{ addr := BitVec.ofNat 64 va, what := 0x09 }] }

/-- The decision of a bin fails: the `n` records it would have taken are discarded (R232).
Log: DESIGN CHOICE (entry 150). -/
def State.failDecision (s : State) (ctx die node n va : Nat) : State :=
  let taken := min n ((s.ctx ctx).bin die node).records.length
  let s := s.modBin ctx die node fun b =>
    { b with records := b.records.drop n, held := false, timer := !(b.records.drop n).isEmpty }
  s.failRecords ctx taken va

/-- A task group that stands in its launch queue fails: the group is gone with its records (R232).
Log: DEDUCED (entry 102). -/
def State.failGrid (s : State) (uid va : Nat) : State :=
  let g := s.grid uid
  let taken := match g.task with | some t => t.2.1.length | none => 0
  let s := s.dequeueGrid uid
  { s with grids := s.grids.filter fun x => x.uid != uid }.failRecords g.ctx taken va

/-- The fatal fault record of a launch decision, with core field 0xFF (R232, R321): none while the fault queue is full, and the
decision is then made again.
Log: DEDUCED (entry 102). -/
def State.fatalDecision (s : State) (ctx die va reason level : Nat) : Option State :=
  match s.fault die (s.ctx ctx).hdr.asid va .write true reason level 0xFF (some ctx) none none none with
  | (s, some _) => some s
  | (_, none) => none

/-- Launch decisions of a bin, as many as whole sets of records allow (R287). -/
def State.launchDecision (s : State) (ctx die node : Nat) : Nat → State
  | 0 => s
  | fuel + 1 =>
    match tget node (s.ctx ctx).nodes with
    | none => s
    | some n =>
      let b := (s.ctx ctx).bin die node
      if b.held || !(decide (n.count ≤ b.records.length) || (!b.records.isEmpty && b.expired)) then s
      else
        let s := s.dropInBin ctx die node
        let recs := (((s.ctx ctx).bin die node).records).take n.count
        if recs.isEmpty then s.modBin ctx die node fun b => { b with timer := false, expired := false }
        else
          let (s, uid) := s.fresh
          let g := taskGrid uid ctx die node n recs
          let after := fun (s : State) => s.modBin ctx die node fun b =>
            let rest := b.records.drop n.count
            { b with records := rest, timer := !rest.isEmpty, expired := false }
          match (s.enqueueGrid g).frameTask die g n.data with
          | .ok s => State.launchDecision (after s) ctx die node fuel
          | .wait => State.launchDecision (after (s.enqueueGrid g)) ctx die node fuel
          | .fault _ va fatal reason level =>
            if fatal then
              match s.fatalDecision ctx die va reason level with
              | some s => s.failDecision ctx die node n.count va
              | none => s
            else s.holdDecision ctx die node va reason level

/-- A record arrives at its bin: dropped, or appended, which may bring decisions (R287, R290, R292). -/
def State.binArrive (s : State) (ctx die node : Nat) (r : List PWord) : State :=
  if s.hopeless ctx die r then s.modCtx ctx fun c => { c with dropEmit := c.dropEmit + 1 }
  else
    let s := s.modBin ctx die node fun b =>
      { b with
        records := b.records ++ [r]
        timer := true
        expired := if b.records.isEmpty then false else b.expired }
    s.launchDecision ctx die node 300

/-- A bin holds 4 × count records (R286). -/
def Ctx.binFull (c : Ctx) (die node : Nat) : Bool :=
  match tget node c.nodes with
  | some n => decide (4 * n.count ≤ (c.bin die node).records.length)
  | none => false

/-- A record that comes to a bin waits: the bin is full, or a lane that came before it waits there still and may go on (R292). -/
def State.binBusy (s : State) (ctx die node : Nat) : Bool :=
  (s.ctx ctx).binFull die node ||
  ((s.ctx ctx).bin die node).waiters.any fun r => (s.lane r).wakes && !(s.group r.1).evicted

/-! ### Restored blocks (R283, R338, R353, R387) -/

/-- Write return entries to their addresses through a context's translation, up to the first that does not translate. -/
def spillInto (core asid : Nat) : List (Nat × Cap) → State → Zeroed
  | [], s => .ok s
  | (va, e) :: t, s =>
    match s.locate (some core) (dieOf core) asid va .write with
    | (s, .error (fatal, reason, level)) => .fault s va fatal reason level
    | (s, .ok (.hbm key pa)) => spillInto core asid t (s.hbmOutside key pa [(e.bytes, false)] e.tag)
    | (s, .ok (.remote dev pa)) => spillInto core asid t (s.spillFar dev pa e)

/-- Only the top 8 entries of a lane's return stack stay in it.
Log: DEDUCED (entry 84). -/
def State.cutStack (s : State) (r : LRef) : State := s.modLane r fun l => { l with stack := l.stack.take 8 }

/-- Entries of a restored return stack beyond the top 8 go to the return region of the lane's new slot (R353). Where a page of it
does not translate the lane keeps them.
Log: DEDUCED (entry 84). -/
def State.spillRest (s : State) (r : LRef) : Zeroed :=
  let l := s.lane r
  let g := s.group r.1
  let old := l.stack.reverse.take (l.stack.length - 8)
  let spots := ((upto old.length).zip old).map fun x => (s.returnRegion r + 16 * x.1, x.2)
  match spillInto g.coreOf (s.ctx g.ctx).hdr.asid spots s with
  | .ok s => .ok (s.cutStack r)
  | .fault s va fatal reason level => .fault s va fatal reason level

/-- A restored group stands in its new place: its threads' cycles go on from the saved values (R352), and its row takes
the saved map and base if the group opened it, and the AND of the sl bits (R159, R387). -/
def State.standAt (s : State) (gid core row slot : Nat) : State :=
  let g := s.group gid
  let first := !(s.groups.any fun h => h.agent == .core core && h.row == row && !h.freed)
  let now := (s.core core).cycles
  let s := (s.dropL1 core).modGroup gid fun g =>
    { g with
      agent := .core core, row := row, slot := slot, evicted := false, saved := none
      lanes := g.lanes.map fun l => { l with cycOff := l.cycOff - now, lastIssue := now.toNat } }
  let s := match g.saved with
    | none => s
    | some (map, sl, base) =>
      if first then
        let s := s.modRow core row fun r => { r with sl := sl, base := base }
        match s.obtainSlot core row with
        | some s => s.modRow core row fun r => { r with map := map }
        | none => s
      else s.modRow core row fun r => { r with sl := r.sl &&& sl }
  (upto g.width).foldl (fun s k => match s.spillRest (gid, k) with | .ok s => s | .fault s _ _ _ _ => s) s

/-- Place restored groups on a list of cores, in order; each unit of fuel places a group or leaves a core.
Log: DEDUCED (entry 83). -/
def placeResting : Nat → State → List Nat → List Nat → Option State
  | 0, s, _, gs => if gs.isEmpty then some s else none
  | _ + 1, s, _, [] => some s
  | _ + 1, _, [], _ :: _ => none
  | fuel + 1, s, core :: rest, gid :: t =>
    let g := s.group gid
    match s.placeGroup core g.grid g.regs g.width with
    | some (s', row, slot) => placeResting fuel (s'.standAt gid core row slot) (core :: rest) t
    | none => placeResting fuel s rest (gid :: t)

/-- The place that a ticket had in the saved order, if its crew is of a restored block of the context (R283).
Log: DEDUCED (entry 63). -/
def State.rankOf (s : State) (ctx : Nat) (t : Nat × Nat) : Option Rank :=
  let b := s.block t.1
  if (s.grid b.grid).ctx = ctx then tget t.2 b.ranks else none

/-- The crew at the head of a baton queue uses the baton: a thread of it does not wait for it, or the engine has an operation of
it (R280).
Log: DEDUCED (entry 63). -/
def State.usesBaton (s : State) (crew : Nat × Nat) : Bool :=
  (s.ops.any fun o => o.block == crew.1 && o.cv == crew.2 && o.phase.rank.isSome) ||
  s.groups.any fun g => g.block == crew.1 && g.lanes.any fun l => l.unexited && !l.helper && l.crew == crew.2 &&
    match l.status with | .parked .baton _ => false | _ => true

/-- Put a restored ticket into a baton queue: behind the tickets that stood there at the restore and the restored ones of its
context but those that were saved behind it in the same engine's queue, ahead of any other, but not of a crew that uses the baton,
as a restored one that was saved after it does not yet (R283).
Log: DEDUCED (entry 63). -/
def State.joinTickets (s : State) (ctx : Nat) (early : List (Nat × Nat)) (rank : Rank) (t : Nat × Nat) (q : List (Nat × Nat)) :
    List (Nat × Nat) :=
  let ahead := fun (x : Nat × Nat) => early.contains x || match s.rankOf ctx x with | some k => !rank.before k | none => false
  let n := match q with
    | [] => 0
    | head :: rest =>
      let later := match s.rankOf ctx head with | some k => rank.before k | none => false
      if s.usesBaton head && !later then 1 + (rest.takeWhile ahead).length else (q.takeWhile ahead).length
  q.take n ++ t :: q.drop n

/-- Place a restored block on a list of cores, all or nothing, with its tickets, operations, copies and stamps; of its open stamp
records a core that holds 64 loses those beyond (R281).
Log: DEDUCED (entries 83, 103). -/
def State.placeRestOn (s : State) (b : Block) (cores : List Nat) : Option State :=
  let shares := s.withChunks (sharesOf b.lines cores)
  let rest := b.rest.getD {}
  let core0 := cores.headD 0
  if shares.any fun x => decide (384 < s.chunksUsed x.core + chunksOf x.lines) then none
  else
    let gs := sortBy (fun (x y : Group) => decide (x.gidx < y.gidx)) (s.groups.filter fun g => g.block == b.bid && !g.freed)
    match placeResting (gs.length + cores.length) s cores (gs.map (·.gid)) with
    | none => none
    | some s =>
      let s := s.modBlock b.bid fun x =>
        { x with shares := shares, q := (b.lines + cores.length - 1) / max cores.length 1, rest := none }
      let ctx := (s.grid b.grid).ctx
      let room := 64 - (s.core core0).stamps.length
      let none' := rest.stamps.drop room
      let s := s.modCore core0 fun k =>
        { k with
          tickets := rest.crews.foldl (fun t c => s.joinTickets ctx rest.early c.1 (b.bid, c.2) t) k.tickets
          stamps := k.stamps ++ rest.stamps.take room
          lostStamps := k.lostStamps ++ (rest.lost ++ none'.map (·.tag)).map fun t => (b.bid, t) }
      let s := s.modCtx ctx fun c => { c with stampLoss := c.stampLoss + none'.length }
      let s := { s with
        ops := s.ops.map fun (o : MxOp) => if o.block == b.bid then { o with core := core0 } else o
        copies := s.copies.map fun (c : Copy) => if c.block == b.bid then { c with core := (s.group c.gid).coreOf } else c }
      some (s.modGrid b.grid fun y =>
        { y with
          home := if b.index = 0 then core0 else y.home
          assigned := cores.foldl (fun t c => tput c ((tget c t).getD 0 + 1) t) y.assigned })

/-- The attempts to place a restored block, as for a new one (R80, R81).
Log: DEDUCED (entry 83). -/
def State.placeRest (s : State) (b : Block) : Option State :=
  let g := s.grid b.grid
  let cores := s.coresFor g
  match (s.coreOrder g cores).findSome? fun c => s.placeRestOn b [c] with
  | some s => some s
  | none =>
    (upto 4).findSome? fun die =>
      [2, 3, 4].findSome? fun n =>
        let q := (b.lines + n - 1) / n
        let fit := s.coreOrder g (cores.filter fun c => dieOf c == die && decide (s.chunksUsed c + chunksOf q ≤ 384))
        if fit.length < n then none else s.placeRestOn b (fit.take n)

/-! ### Dealing -/

/-- Serve the launch queue of a priority once: place the head block, or find why not (R80 to R82, R241, R287). The queue is
served strictly in order: a head grid that is held for its predecessor, or for the answer to a page fault, or whose context
does not run, holds up those behind it (R81).
Log: DEDUCED (entry 83). -/
def State.dealNew (s : State) (p : Nat) : Option State :=
  match (s.launchQueue p).head? with
  | none => none
  | some u =>
    let g := s.grid u
    if (s.ctx g.ctx).phase != .running || g.held || !(match g.pred with | some q => s.gridDone q | none => true) then none
    else if !g.framed then
      match g.task with
      | none => none
      | some (node, _, die, _) =>
        match s.frameTask die g (((tget node (s.ctx g.ctx).nodes).map (·.data)).getD {}) with
        | .ok s => some s
        | .wait => none
        | .fault s va fatal reason level =>
          if fatal then (s.fatalDecision g.ctx die va reason level).map fun s => s.failGrid u va
          else
            let t := s.holdGrid g die va reason level
            if (t.grid u).held then some t else none
    else if g.coop then
      match placeAll u g.blocks s with
      | some s => some (s.dequeueGrid u)
      | none => some ((s.dequeueGrid u).completeGrid u true)
    else
      match s.placeBlock g g.next with
      | none => none
      | some s =>
        if g.next + 1 = g.blocks then some ((s.dequeueGrid u).modGrid u fun y => { y with state := .placed }) else some s

/-- Serve a priority once: a restored block first, in the order of restoring, else the launch queue.
Log: DEDUCED (entries 31, 83). -/
def State.deal (s : State) (p : Nat) : Option State :=
  let mine := fun (b : Block) =>
    let c := s.ctx (s.grid b.grid).ctx
    b.rest.isSome && c.phase == .running && c.hdr.priority == p
  match s.blocks.find? mine with
  | some b => s.placeRest b
  | none => s.dealNew p

end Sys2Proof.Machine
end

