-- ==== Sys2Proof/Machine/Settle.lean ====
section
/-!
DEFINITION. What follows from a step by itself: reconvergence, ends of groups, blocks and grids, batches of rings, the
engines' queues, window slots, stamp records, and the waking of lanes whose condition holds (Table 5.3, R83).
-/

namespace Sys2Proof.Machine

open Sys2Proof

/-- Groups none of whose lanes is left end: their channel entries, then their slots (R79, R246). -/
def State.settleGroups (s : State) : State :=
  (s.groups.filter fun g => !g.freed && !g.isK && g.lanes.all fun l => !l.unexited).foldl
    (fun s g => (s.freeChans g.gid).endGroup g.gid) s

/-- A context's queue for granules keeps the lanes that wait there, those saved with their rows too, or are on their way to
issue the launch again (R240, R244).
Log: DESIGN CHOICE (entry 154). -/
def State.settleGranules (s : State) : State :=
  if s.ctxs.all fun x => x.2.granQ.isEmpty then s
  else
    { s with ctxs := s.ctxs.map fun (x : Nat × Ctx) =>
        (x.1, { x.2 with granQ := x.2.granQ.filter fun e =>
          let l := s.lane (e.1, e.2.1)
          (l.heldBack || match l.status with | .parked .granules _ => true | _ => false) }) }

/-- Whether the condition of a parked lane holds now: it goes on at the next word (`true`), or issues its instruction
again (`false`); none while it must wait (Table 5.3). Waits that other operations end answer none.
Log: DESIGN CHOICE (entry 154). -/
def State.wakeOf (s : State) (r : LRef) (w : Wait) : Option Bool :=
  let g := s.group r.1
  let b := s.block g.block
  match w with
  | .bar off token => if b.objWord off 1 == token then none else some true
  | .gbar gen => if (s.grid g.grid).gbarGen == gen then none else some true
  | .push _ _ _ _ _ => none
  | .pop _ _ _ _ _ _ => none
  | .line block line => if s.present block line then some false else none
  | .remote _ => none
  | .window => if (s.row g.coreOf g.row).slot.isSome then some false else none
  | .op op => if s.ops.any fun o => o.id == op then none else some true
  | .plain cv gen => if (b.cv cv).gen == gen then none else some true
  | .copies seq => if s.outstanding r.1 seq then none else some true
  | .baton => if s.holdsBaton b.core0 (b.bid, (s.lane r).crew) && !s.atMx r then some true else none
  | .signed _ => none
  | .grid grid => if s.gridDone grid then some true else none
  | .vote =>
    match g.region.bind fun m => s.regionOf m.handle with
    | some i => if (s.region i).state == .committed then some true else none
    | none => if g.region.isNone then some true else none
  | .granules =>
    match s.granHead g.ctx with
    | some (gid, lane, n) => if (gid, lane) = r ∧ ((s.ctx g.ctx).findRun n).isSome then some false else none
    | none => some false
  | .bin _ _ _ => none
  | .replay _ _ => none
  | .faultQueue die => if (freeIndex (s.die die).faults).isSome then some false else none
  | .event => none
  | .lock _ => none

/-- Every replica has applied every improvement of a register (R294).
Log: DEDUCED (entry 68). -/
def State.replicated (s : State) (reg : Nat) : Bool := s.dies.all fun x => x.2.coming.all fun y => y.1 != reg

/-- The lanes of incimps whose result every replica has met go on, halted or not (R294).
Log: DEDUCED (entry 68). -/
def State.settleResults (s : State) : State :=
  { s with groups := s.groups.map fun (g : Group) =>
      if g.isK then g
      else { g with lanes := g.lanes.map fun l =>
        match l.status with
        | .result d v reg pc => if s.replicated reg then (l.wr d { val := v }).advance pc else l
        | _ => l } }

/-- A member group that is done with its region: its voters have gone on after the commit, or its lanes have all been
delivered after the abort (R300). -/
def State.memberDone (s : State) (g : Group) (m : Member) : Bool :=
  if m.aborted.isSome then
    !(g.lanes.any fun l => l.async.any fun a => match a with | .region _ => true | .engine _ _ _ => false)
  else
    match s.regionOf m.handle with
    | some i =>
      (s.region i).state == .committed &&
      !(g.lanes.any fun l => l.unexited && match l.status with | .parked .vote _ => true | _ => false)
    | none => true

/-- Members that are done leave their regions. -/
def State.settleMembers (s : State) : State :=
  (s.groups.filter fun g => !g.isK && g.region.isSome).foldl (fun (s : State) g =>
    let g := s.group g.gid
    match g.region with
    | none => s
    | some m =>
      if !s.memberDone g m then s
      else
        let s' := s.modGroup g.gid fun x => { x with region := none }
        match s.regionOf m.handle with
        | some i => (s'.modRegion i fun x => { x with members := x.members.filter fun k => k != g.gid }).freeRegion i
        | none => s') s

/-- The scope of the acquire point that a lane makes as it goes on from a wait (R221, R223, R226, R241, R279, R312, R363).
Log: DEDUCED (entry 116). -/
def Wait.acquires : Wait → Option Nat
  | .bar _ _ => some blockScope
  | .gbar _ => some deviceScope
  | .op _ => some blockScope
  | .plain _ _ => some blockScope
  | .grid _ => some deviceScope
  | .vote => some domainScope
  | .lock _ => some deviceScope
  | _ => none

/-- A wait whose end orders nothing: a join on a grid that failed (R243).
Log: DEDUCED (entry 116). -/
def State.orderless (s : State) (r : LRef) (w : Wait) : Bool :=
  match w with
  | .grid g => (s.ctx (s.group r.1).ctx).failedGrid g
  | _ => false

/-- A lane goes on past the word at which it waited. What the copies that a cpywait waited for have written is before it, so that
its core's L1 drops what it holds (R178). -/
def State.goOn (s : State) (r : LRef) (w : Wait) (pc : DWord) : State :=
  let t := s.modLane r fun l => l.advance pc
  match w, w.acquires with
  | .copies _, _ => t.freshL1 r
  | _, some scope => if s.orderless r w then t else t.acquires r scope
  | _, none => t

/-- Wake a lane of the state if its condition holds and it may be woken. -/
def State.wake (s : State) (r : LRef) : State :=
  let l := s.lane r
  if !l.wakes then s
  else
    match l.status with
    | .parked w pc =>
      match s.wakeOf r w with
      | some true => s.goOn r w pc
      | some false => s.modLane r fun l => { l with status := .ready, heldBack := l.heldBack || w == .granules }
      | none => s
    | _ => s

/-- The lanes that are parked and may be woken. -/
def State.parkedLanes (s : State) : List LRef :=
  (s.groups.filter fun g => !g.isK && !g.evicted && !g.freed).flatMap fun g =>
    (g.numbered.filter fun x => match x.2.status with | .parked _ _ => true | _ => false).map fun x => (g.gid, x.1)

/-- Bins with room take the records of the lanes parked on them, in parking order (R292); one that is halted, killed or saved stays
as it stands (R297, R338). -/
def State.settleBins (s : State) : State :=
  s.ctxs.foldl (fun s x =>
    x.2.bins.foldl (fun s y =>
      y.2.waiters.foldl (fun s r =>
        let die := y.1 / 256
        let node := y.1 % 256
        match (s.lane r).status with
        | .parked (.bin _ _ rec') pc =>
          if !(s.lane r).wakes || (s.group r.1).evicted || (s.ctx x.1).binFull die node then s
          else
            let s := s.modBin x.1 die node fun b => { b with waiters := b.waiters.filter fun q => q != r }
            (s.binArrive x.1 die node rec').modLane r fun l => l.advance pc
        | _ => s.modBin x.1 die node fun b => { b with waiters := b.waiters.filter fun q => q != r }) s) s) s

/-- Rows note whether they hold a ready thread, and since when (R83).
Log: DEDUCED (entry 101). -/
def State.settleRows (s : State) : State :=
  { s with cores := s.cores.map fun (x : Nat × Core) =>
      (x.1, { x.2 with
        gate := if x.2.rows.any fun y => (s.rowLanes x.1 y.1).any fun z => z.2.2.canIssue then {} else x.2.gate
        rows := x.2.rows.map fun (y : Nat × Row) =>
        let now := (s.rowLanes x.1 y.1).any fun z => z.2.2.canIssue
        (y.1, { y.2 with ready := now, readyAt := if now && !y.2.ready then x.2.cycles.toNat else y.2.readyAt }) }) }

/-- Stamp records of every core that may close do. -/
def State.settleStamps (s : State) : State :=
  s.cores.foldl (fun s x => if x.2.stamps.isEmpty then s else s.closeStamps x.1) s

/-- Rows waiting for a window slot get one where they can. -/
def State.settleSlots (s : State) : State :=
  s.cores.foldl (fun s x =>
    if x.2.rows.any fun y => y.2.rgnSince.isSome || !(s.atWindow x.1 y.1).isEmpty then (s.noteWindow x.1).grantSlots x.1
    else s) s

/-- A bin calls for a launch decision (R287). -/
def Ctx.decides (c : Ctx) (key : Nat) (b : Bin) : Bool :=
  match tget (key % 256) c.nodes with
  | some n => !b.held && (decide (n.count ≤ b.records.length) || (!b.records.isEmpty && b.expired))
  | none => false

/-- Bins of running contexts that call for a launch decision make it, those of a restored image too (R287, R298). -/
def State.settleDecisions (s : State) : State :=
  (s.ctxs.filter fun x => x.2.phase == .running).foldl (fun s x =>
    (x.2.bins.filter fun y => x.2.decides y.1 y.2).foldl (fun (s : State) y => s.launchDecision x.1 (y.1 / 256) (y.1 % 256) 300) s) s

/-- The traps of a group's lanes that are parked for room on a ring that has closed: reason 3 (R249). -/
def State.closedPushers (s : State) (g : Group) : List Trap :=
  let b := s.block g.block
  g.numbered.filterMap fun x =>
    match x.2.status with
    | .parked (.push n off _ _ _) _ =>
      if x.2.wakes && b.ringArmed off && b.ringClosed off then
        some { lane := (g.gid, x.1), cause := 0x0C, pc := x.2.pc, data := chanData 3 n }
      else none
    | _ => none

/-- Pushers parked on a ring that closes wake and trap (R249). -/
def State.settleClosed (s : State) : State :=
  (s.groups.filter fun g => !g.isK && !g.evicted).foldl (fun s g =>
    let ts := s.closedPushers (s.group g.gid)
    if ts.isEmpty then s else s.handle g.ctx ts) s

/-- Kolesque cores whose event's ticket the lock they wait at serves go on (R360). -/
def State.settleLocks (s : State) : State :=
  s.kcores.foldl (fun (s : State) x =>
    match (s.lane (kGid x.1, 0)).status with
    | .parked (.lock q) pc =>
      if s.passesLock x.1 then
        (s.modKcore x.1 fun c => { c with status := .running }).goOn (kGid x.1, 0) (.lock q) pc
      else s
    | _ => s) s

/-- What follows from the state by itself, once. -/
def State.settleOnce (s : State) : State :=
  let s := { s with groups := s.groups.map fun (g : Group) => if g.isK then g else g.settleRecs }
  let s := s.settleGroups.settleBlocks.settleGrids
  let s := s.settleClosed.serveRings 64
  let s := s.settleEngines.settleSlots.settleDecisions.settleBins.settleGranules.settleResults
  (s.parkedLanes.foldl State.wake s).settleMembers.settleLocks

/-- The lanes that stand at the end of a pass while they are parked. -/
def State.parkedEnds (s : State) : List LRef :=
  (s.parkedLanes ++ (s.groups.filter fun g => !g.isK).flatMap fun g =>
    (g.numbered.filter fun x => match x.2.status with | .result _ _ _ _ => true | _ => false).map fun x => (g.gid, x.1)).filter
    fun r => (s.lane r).atPassEnd

/-- What follows from a step. A parked lane that goes on from the last word of a pass meets the pass end, a blocking
point (R129).
Log: DEDUCED (entry 101). -/
def State.settle (s : State) : State :=
  let ends := s.parkedEnds
  let t := s.settleOnce
  let passed := ends.filter fun r => (t.lane r).unexited && (t.lane r).loop != (s.lane r).loop
  (t.blockingPoint passed).settleStamps.settleRows

end Sys2Proof.Machine
end

