-- ==== Sys2Proof/Machine/Matrix.lean ====
section
/-!
DEFINITION. The matrix engine at work: reading images (R259, R261, R274), the sums (R68 to R72, R275), the end of an
operation (R276) and its failure (R277), and what an engine may do next (R267).
-/

namespace Sys2Proof.Machine

open Sys2Proof

/-! ### Images -/

/-- Words of a block's scratchpad. -/
def Block.wordsAt (b : Block) (off n : Nat) : List PWord := (upto n).map fun i => b.scratch.word 8 (off + 4 * i)

/-- Every line that `n` bytes from an offset touch is present. -/
def State.linesPresent (s : State) (block off n : Nat) : Bool := (unitsOf 128 off n).all fun k => s.present block k

/-- The least top of an image's bounds among those the signers captured (R271). -/
def leastTop (f : Signer → Nat) (ss : List Signer) : Nat :=
  match ss with
  | [] => 0
  | x :: t => t.foldl (fun m y => min m (f y)) (f x)

/-- What one image's header is wrong in: reasons 9, 1 to 4, 8 (R274). -/
def imageReason (ws : List PWord) (off top : Nat) : Option Nat :=
  if ws.any (·.poison) then some 9
  else
    let h := hdrOf (ws.map (·.val))
    match h.invalid with
    | some r => some r
    | none => if top < off + h.size then some 8 else none

/-- What the headers are wrong in, in the order of R274. -/
def MxOp.reason (o : MxOp) (a b : List PWord) : Option Nat :=
  match o.signers with
  | [] => none
  | x :: _ =>
    let ha := hdrOf (a.map (·.val))
    let hb := hdrOf (b.map (·.val))
    let f := fwdOf x.fmt
    match imageReason a x.aOff (leastTop (·.aTop) o.signers) with
    | some r => some r
    | none =>
      match imageReason b x.bOff (leastTop (·.bTop) o.signers) with
      | some r => some r
      | none =>
        if ha.disagrees f false || hb.disagrees f true then some 5
        else if ha.segs ≠ hb.segs then some 6
        else none

/-- An image as its bytes with their poison. -/
abbrev View := List (Byte × Bool)

/-- The bytes of words. -/
def viewOf (ws : List PWord) : View := ws.flatMap fun w => (leBytes 4 w.val.toNat).map fun b => (b, w.poison)

/-- The bytes the engine reads: of those that changed since the end of the operand wait, Config says which (R274).
Log: DESIGN CHOICE (entry 38). -/
def engineView (t off : Nat) (old now : View) : View :=
  ((old.zip now).zip (upto old.length)).map fun x =>
    if x.1.1 = x.1.2 then x.1.1 else if Config.engineSees t (off + x.2) then x.1.2 else x.1.1

/-- One segment of one line: the stored elements with their logical positions, the scale, and whether a word is
poisoned (R275). -/
structure Seg where
  elems : List (Nat × Int)
  scale : Nat
  poison : Bool

/-- The value of the element at a stored position of a line (R68). -/
def Hdr.elem (h : Hdr) (v : View) (u st : Nat) : Int :=
  (upto h.planes).foldl (fun x q =>
    let byte := (v.getD (h.planeoff + q * h.planebytes + u * h.rowbytes + st / 8) (0, false)).1
    let bit : Int := if byte.getLsbD (st % 8) then 1 else 0
    x + bit * (if h.signed && q + 1 == h.planes then -((2 ^ q : Nat) : Int) else ((2 ^ q : Nat) : Int))) 0

/-- A segment of a line. -/
def Hdr.seg (h : Hdr) (v : View) (u s : Nat) : Seg :=
  let pos := h.positions u s
  let first := s * (h.kseg * h.d / 8)
  let bad := fun (off n : Nat) => (upto n).any fun i => (v.getD (off + i) (0, false)).2
  { elems := (pos.zip (upto pos.length)).map fun x => (x.1 - s * h.kseg, h.elem v u (first + x.2))
    scale := if h.scales then leNat ((upto 2).map fun i => (v.getD (h.scaleAt u s + i) (0, false)).1) else 0
    poison := ((upto h.planes).any fun q => bad (h.planeoff + q * h.planebytes + u * h.rowbytes + s * h.segbytes) h.segbytes) ||
      (h.scales && bad (h.scaleAt u s) 2) }

/-- The exact dot product of two segments of B dense (R71). -/
def dotSeg (a b : Seg) : Int := a.elems.foldl (fun x e => x + e.2 * (b.elems.getD e.1 (0, 0)).2) 0

/-- One segment's step on an output (R72, R275): `first` for the first segment. -/
def stepSeg (f : Fwd) (first : Bool) (a b : Seg) (c : PWord) : PWord :=
  let i := dotSeg a b
  let bad := a.poison || b.poison
  let t : FVal := match f.scales with
    | 0 => .fin false 1 0
    | 1 => fval (rneF32 ((e8m7.read a.scale).mul (e8m7.read b.scale)))
    | _ => e8m7.read a.scale
  if f.acc = 2 then { val := wrap32 (asI32 c.val + i), poison := c.poison || bad }
  else if f.acc = 1 ∧ first then { val := rneF32 ((fOfInt i).mul t), poison := bad }
  else { val := rneF32 (((fOfInt i).mul t).add (fval c.val)), poison := c.poison || bad }

/-- What one output holds after each segment of a row and a column; the last is the output itself.
Log: DESIGN CHOICE (entry 38). -/
def partials (f : Fwd) : Bool → List Seg → List Seg → PWord → List PWord
  | first, a :: ta, b :: tb, c => let x := stepSeg f first a b c; x :: partials f false ta tb x
  | _, _, _, _ => []

/-- All segments of a row and a column on one output. -/
def sumSegs (f : Fwd) : Bool → List Seg → List Seg → PWord → PWord
  | first, a :: ta, b :: tb, c => sumSegs f false ta tb (stepSeg f first a b c)
  | _, _, _, c => c

/-! ### The operation -/

/-- A list of owned ranges covers a register. -/
def ownedBy (owned : List (Nat × Nat × Nat)) (n : Nat) : Bool := owned.any fun x => decide (x.1 ≤ n) && decide (n < x.1 + x.2.1)

/-- Ownership of an operation's registers ends in a lane, and with it what the engine wrote to them meanwhile.
Log: DESIGN CHOICE (entry 38). -/
def Lane.disown (l : Lane) (op : Nat) : Lane :=
  let owned := l.owned.filter fun x => x.2.2 != op
  let ended := l.owned.filter fun x => x.2.2 == op
  { l with
    owned := owned
    dirty := l.dirty.filter (ownedBy owned)
    drafts := l.drafts.filter fun x => !ownedBy ended x.1 }

/-- The engine writes an output register. A register that a program wrote meanwhile ends with the word before the
operation, the output, or one that the engine wrote in between: which one is open (R276). -/
def Lane.output (l : Lane) (t who n : Nat) (w : PWord) : Lane :=
  let v := if l.dirty.contains n then oneOf (Config.ownedWrite t who n) (l.regs.getD n {}) (l.draftsOf n ++ [w]) else w
  (l.setReg n v).putTag (n / 4) false

/-- The engine may have written partial sums to an output register from the beginning of its compute (R276): its writes are no
capability writes, so the quad has no tag from then on (R95).
Log: DESIGN CHOICE (entry 38). -/
def Lane.draft (l : Lane) (n : Nat) (ws : List PWord) : Lane := { l with drafts := tput n ws l.drafts }.putTag (n / 4) false

/-- The matrix signature of a signer is settled; ownership ends. -/
def State.releaseOp (s : State) (o : MxOp) : State :=
  let s := o.signers.foldl (fun s x => s.modLane (x.gid, x.lane) fun l => l.disown o.id) s
  { s with ops := s.ops.filter fun x => x.id != o.id }

/-- Each unexited signer of an operation takes an asynchronous cause, with the operation's number in its group and the
mx word's offset from the kernel entry (R277, R284). -/
def State.tellSigners (s : State) (o : MxOp) (cause : Byte) : State :=
  o.signers.foldl (fun s x =>
    if s.signerLives x then
      let num := ((o.nums.find? fun y => y.1 == x.gid).map (·.2)).getD 0
      s.modLane (x.gid, x.lane) fun l => { l with async := l.async ++ [.engine cause num (lo32 (o.pc - o.entry))] }
    else s) s

/-- An operation fails with a reason (R277). -/
def State.failOp (s : State) (o : MxOp) (reason : Nat) : State :=
  let num := ((o.nums.head?).map (·.2)).getD 0
  let s := s.modCtx o.ctx fun c => { c with notes := c.notes ++ [{ addr := o.pc, seq := num, what := reason }] }
  (s.releaseOp o).tellSigners o 0x0E

/-- Apply an operation's sums to each output register of its signers that are left: `g` has the lane, its name, the
register, the format, and the segments of the row and of the column (R268, R275). -/
def State.eachOutput (s : State) (o : MxOp) (a b : List PWord)
    (g : Lane → Nat → Nat → Fwd → List Seg → List Seg → Lane) : State :=
  match o.ranked with
  | [] => s
  | x0 :: _ =>
    let f := fwdOf x0.fmt
    let now := s.block o.block
    let va := engineView s.steps x0.aOff (viewOf a) (viewOf (now.wordsAt x0.aOff a.length))
    let vb := engineView s.steps x0.bOff (viewOf b) (viewOf (now.wordsAt x0.bOff b.length))
    let ha := hdrOf (a.map (·.val))
    let hb := hdrOf (b.map (·.val))
    let rows := (upto 64).map fun u => (upto ha.segs).map fun g => ha.seg va u g
    let cols := (upto 64).map fun u => (upto hb.segs).map fun g => hb.seg vb u g
    let n := o.perSigner
    ((upto o.signers.length).zip o.ranked).foldl (fun s y =>
      let x := y.2
      if s.signerLives x then
        s.modLane (x.gid, x.lane) fun l =>
          (upto n).foldl (fun (l : Lane) j =>
            let e := y.1 * n + j
            g l (x.gid * 64 + x.lane) (x.d + j) f (rows.getD (e / 64) []) (cols.getD (e % 64) [])) l
      else s) s

/-- Compute begins: the engine may write partial sums to the registers it owns.
Log: DESIGN CHOICE (entry 38). -/
def State.beginCompute (s : State) (o : MxOp) (a b : List PWord) : State :=
  (s.modOp o.id fun o => { o with phase := .computing a b }).eachOutput o a b fun l _ n f r c =>
    l.draft n (partials f true r c (l.regs.getD n {}))

/-- An operation completes: outputs, ownership, stamps (R275, R276, R281).
Log: DESIGN CHOICE (entry 132). -/
def State.completeOp (s : State) (o : MxOp) (a b : List PWord) : State :=
  let t := s.eachOutput o a b fun l who n f r c => l.output s.steps who n (sumSegs f true r c (l.regs.getD n {}))
  (t.releaseOp o).stamp o.block o.tag stCompute false false

/-- The head operation of an engine: it alone is served (R267). -/
def State.engineHead (s : State) (core : Nat) : Option MxOp := (s.engineQueue core).head?

/-- The next stage of an operation's operand wait, if it may end now (R274): the headers are read, or the images are
there and compute begins; a failed header check fails the operation. -/
def State.operandStage (s : State) (o : MxOp) : Option State :=
  match o.signers with
  | [] => none
  | x :: _ =>
    match o.phase with
    | .queued =>
      if s.linesPresent o.block x.aOff 32 && s.linesPresent o.block x.bOff 32 then
        let b := s.block o.block
        let ha := b.wordsAt x.aOff 8
        let hb := b.wordsAt x.bOff 8
        match o.reason ha hb with
        | some r => some (s.failOp o r)
        | none => some (s.modOp o.id fun o => { o with phase := .operands ha hb })
      else none
    | .operands ha hb =>
      let na := (hdrOf (ha.map (·.val))).size
      let nb := (hdrOf (hb.map (·.val))).size
      if s.linesPresent o.block x.aOff na && s.linesPresent o.block x.bOff nb then
        let b := s.block o.block
        let a := ha ++ (b.wordsAt x.aOff (na / 4)).drop 8
        let c := hb ++ (b.wordsAt x.bOff (nb / 4)).drop 8
        some ((s.beginCompute o a c).stamp o.block o.tag stWait false false)
      else none
    | _ => none

/-- An engine whose head operation can end a stage of its operand wait. -/
def State.operandDue (s : State) (core : Nat) : Option MxOp :=
  match s.engineHead core with
  | some o => if (s.operandStage o).isSome then some o else none
  | none => none

end Sys2Proof.Machine
end

