-- ==== Sys2Proof/Machine/Alu.lean ====
section
/-!
DEFINITION. The shapes of the lane instructions (R92 to R96): one operation per lane over sources, a read destination, a
count or an immediate, with poison and channels handled once.
-/

namespace Sys2Proof.Machine

open Sys2Proof

/-- A result with the poison of its one operand. -/
def pure1 (f : Word → Word) (a : PWord) : PWord := { val := f a.val, poison := a.poison }

/-- A result with the poison of its operands (R94). -/
def pure2 (f : Word → Word → Word) (a b : PWord) : PWord := { val := f a.val b.val, poison := a.poison || b.poison }

/-- A result with the poison of its three operands. -/
def pure3 (f : Word → Word → Word → Word) (a b d : PWord) : PWord :=
  { val := f a.val b.val d.val, poison := a.poison || b.poison || d.poison }

/-- The channels that a destination and sources name, in the order A, B, D (R247). -/
def chansOf (d : Option Dst) (srcs : List Src) : List Nat :=
  srcs.filterMap (fun a => (srcChan a).map (·.1)) ++ (d.bind dstChan).toList

/-- What comes before a lane's own work: bounds, channel checks, and the batches of A and B.
Log: DESIGN CHOICE (entry 151). -/
def Work.sources (w : Work) (flds : List Fld) (d : Option Dst) (a b : Option Src) : Work :=
  let w := (w.begin flds).chanChecks (chansOf d (a.toList ++ b.toList))
  let w := match a with | some x => w.takeField true x | none => w
  match b with | some x => w.takeField false x | none => w

/-- D := f(A). -/
def alu1 (d : Dst) (a : Src) (f : PWord → PWord) (s : State) : Host.Outcome State Fault Refusal :=
  withGather s fun w =>
    let w := w.sources (dstFlds d ++ srcFlds a codeA) (some d) (some a) none
    (w.writeDst d fun _ r => f (w.src r codeA a)).finish

/-- D := f(A, B). -/
def alu2 (d : Dst) (a b : Src) (f : PWord → PWord → PWord) (s : State) : Host.Outcome State Fault Refusal :=
  withGather s fun w =>
    let w := w.sources (dstFlds d ++ srcFlds a codeA ++ srcFlds b codeB) (some d) (some a) (some b)
    (w.writeDst d fun _ r => f (w.src r codeA a) (w.src r codeB b)).finish

/-- D := f(A, B, D), D read after A and B. -/
def alu3 (d : Reg) (a b : Src) (f : PWord → PWord → PWord → PWord) (s : State) : Host.Outcome State Fault Refusal :=
  withGather s fun w =>
    let w := w.sources (rfld codeD d :: (srcFlds a codeA ++ srcFlds b codeB)) none (some a) (some b)
    (w.writeDst (.reg d) fun _ r => f (w.src r codeA a) (w.src r codeB b) (w.regOf r codeD d)).finish

/-- D := f(A, B) with B a count, a register. -/
def aluCount (d : Dst) (a : Src) (b : Reg) (f : Word → Word → Word) (s : State) : Host.Outcome State Fault Refusal :=
  alu2 d a (.reg b) (pure2 f) s

/-- D := f(A, imm), the immediate extended as its instruction says (R23, R37). -/
def aluImm (d : Dst) (a : Src) (signed : Bool) (imm : BitVec 12) (f : Word → Word → Word) (s : State) :
    Host.Outcome State Fault Refusal :=
  withGather s fun w =>
    let w := w.sources (dstFlds d ++ srcFlds a codeA) (some d) (some a) none
    (w.writeDst d fun _ r => pure1 (fun x => f x (w.imm12 r signed imm)) (w.src r codeA a)).finish

end Sys2Proof.Machine
end

