-- ==== Sys2Proof/Machine/Mem.lean ====
section
/-!
DEFINITION. Loads and stores, majors 0x11 to 0x20 (R141 to R146), with the shapes that ordered loads and stores share.
-/

namespace Sys2Proof.Machine

open Sys2Proof

/-! ### Shapes -/

/-- The capability of quad C, with the access of a lane at an offset from its cursor. -/
def Work.accC (w : Work) (r : LRef) (c : Quad) (off : Int) (size : Nat) (perms : List Nat) (kind : Kind) : Acc :=
  let cap := w.s.cap r (4 * c.toNat)
  { cap := cap, poison := w.s.quadPoison r (4 * c.toNat), addr := cap.cursor + BitVec.ofInt 64 off, size := size,
    align := size, perms := perms, kind := kind }

/-- The access of a lane at an offset of a frame that its grid's display names (R145). -/
def Work.accD (w : Work) (r : LRef) (l : BitVec 3) (off : Int) (size : Nat) (perms : List Nat) (kind : Kind) : Acc :=
  let cap := (w.s.grid (w.s.group r.1).grid).display.getD l.toNat {}
  { cap := cap, poison := false, addr := cap.cursor + BitVec.ofInt 64 off, size := size, align := size, perms := perms, kind := kind }

/-- Load in every lane of the gather, before any destination is written (R144). -/
def Work.loadAll (w : Work) (mk : Work → LRef → Acc) : Work × List (LRef × Loaded) :=
  w.live.foldl (fun (p : Work × List (LRef × Loaded)) r =>
    match p.1.load r (mk p.1 r) with
    | (w, some x) => (w, p.2 ++ [(r, x)])
    | (w, none) => (w, p.2)) (w, [])

/-- What was loaded for a lane. -/
def loadedOf (l : List (LRef × Loaded)) (r : LRef) : Loaded :=
  ((l.find? fun x => x.1 == r).map (·.2)).getD { bytes := [], poison := [], tag := false }

/-- The register word of a load of 4 bytes or fewer, extended (R143). -/
def Loaded.word (x : Loaded) (signed : Bool) : PWord :=
  let n := leNat x.bytes
  let k := 8 * x.bytes.length
  { val := if signed ∧ k < 32 ∧ 2 ^ (k - 1) ≤ n then BitVec.ofInt 32 ((n : Int) - 2 ^ k) else BitVec.ofNat 32 n
    poison := x.poison.headD false }

/-- The register words of a wider load. -/
def Loaded.words (x : Loaded) : List PWord :=
  (upto (x.bytes.length / 4)).map fun i =>
    { val := BitVec.ofNat 32 (leNat ((x.bytes.drop (4 * i)).take 4)), poison := x.poison.getD i false }

/-- A load of one word into a destination field. -/
def loadWord (d : Dst) (flds : List Fld) (signed : Bool) (mk : Work → LRef → Acc) (s : State) : Host.Outcome State Fault Refusal :=
  withGather s fun w =>
    let w := w.sources (dstFlds d ++ flds) (some d) none none
    let (w, l) := w.loadAll mk
    (w.writeDst d fun _ r => (loadedOf l r).word signed).finish

/-- A load of 2 or 4 registers. -/
def loadWide (d : Reg) (n : Nat) (flds : List Fld) (mk : Work → LRef → Acc) (s : State) : Host.Outcome State Fault Refusal :=
  withGather s fun w =>
    let w := w.sources (rfld codeD d n :: flds) none none none
    let (w, l) := w.loadAll mk
    ((w.writeRegs codeD d.toNat fun _ r => (loadedOf l r).words).zeroRegs codeD d.toNat n).finish

/-- A load of a capability: four words and the granule's tag. -/
def loadCap (d : Reg) (flds : List Fld) (mk : Work → LRef → Acc) (s : State) : Host.Outcome State Fault Refusal :=
  withGather s fun w =>
    let w := w.sources (rfld codeD d 4 :: flds) none none none
    let (w, l) := w.loadAll mk
    let s := w.live.foldl (fun s r =>
      let x := loadedOf l r
      s.wrCap r (w.rnum r codeD d.toNat) (capOfWords (x.words.map (·.val)) x.tag) x.poison) w.s
    ({ w with s := s }.zeroRegs codeD d.toNat 4).finish

/-- The lanes that act: no helpers (R77).
Log: DEDUCED (entry 23). -/
def Work.actors (w : Work) : List LRef := w.live.filter fun r => !(w.s.lane r).helper

/-- A store of the low `n` bytes of a source field, and what follows it in the lanes that made it. -/
def storeWordThen (after : Work → Work) (d : Src) (n : Nat) (flds : List Fld) (mk : Work → LRef → Acc) (s : State) :
    Host.Outcome State Fault Refusal :=
  withGather s fun w =>
    let w := w.sources (srcFlds d codeD ++ flds) none none none
    let w := (w.chanChecks (chansOf none [d])).takeField true d
    let value := fun (w : Work) (r : LRef) => match d with
      | .reg x => w.regOf r codeD x
      | _ => w.src r codeA d
    (after (w.actors.foldl (fun w r =>
      let v := value w r
      w.store r (mk w r) [(leBytes n v.val.toNat, v.poison)]) w)).finish

/-- A store of the low `n` bytes of a source field. -/
def storeWord (d : Src) (n : Nat) (flds : List Fld) (mk : Work → LRef → Acc) (s : State) : Host.Outcome State Fault Refusal :=
  storeWordThen id d n flds mk s

/-- The chunks of consecutive registers. -/
def Work.chunks (w : Work) (r : LRef) (d : Reg) (n : Nat) : List Chunk :=
  (upto n).map fun i =>
    let v := w.s.reg r (w.rnum r codeD d.toNat + i)
    (leBytes 4 v.val.toNat, v.poison)

/-- A store of 2 or 4 registers. -/
def storeWide (d : Reg) (n : Nat) (flds : List Fld) (mk : Work → LRef → Acc) (s : State) : Host.Outcome State Fault Refusal :=
  withGather s fun w =>
    let w := w.sources (rfld codeD d n :: flds) none none none
    (w.actors.foldl (fun w r => w.store r (mk w r) (w.chunks r d n)) w).finish

/-- A store of a capability with its tag (R143, R146). -/
def storeQuad (d : Reg) (flds : List Fld) (mk : Work → LRef → Acc) (s : State) : Host.Outcome State Fault Refusal :=
  withGather s fun w =>
    let w := w.sources (rfld codeD d 4 :: flds) none none none
    (w.actors.foldl (fun w r => w.storeCap r (mk w r) (w.s.cap r (w.rnum r codeD d.toNat)) (w.chunks r d 4)) w).finish

/-- The access of a format-M word. -/
def accM (c : Quad) (imm : BitVec 15) (size : Nat) (perms : List Nat) (kind : Kind) (w : Work) (r : LRef) : Acc :=
  w.accC r c (w.imm15s r imm * size) size perms kind

/-- The access of a format-F word. -/
def accF (l : BitVec 3) (imm : BitVec 15) (size : Nat) (perms : List Nat) (kind : Kind) (w : Work) (r : LRef) : Acc :=
  w.accD r l (4 * (w.imm15n r imm : Int)) size perms kind

/-- The register that a destination field of a capability names (wf: it is no push). -/
def dstReg (d : Dst) : Reg := match d with | .reg r => r | .push _ => 0

/-- The register that a store's capability field names. -/
def srcReg (d : Src) : Reg := match d with | .reg r => r | _ => 0

/-! ### Instructions -/

/-- LDB (R141, R143). -/
def execLdb (d : Dst) (c : Quad) (imm : BitVec 15) (s : State) : Host.Outcome State Fault Refusal :=
  loadWord d [qfld c] true (accM c imm 1 [0] .read) s

/-- LDBN (R141, R143). -/
def execLdbn (d : Dst) (c : Quad) (imm : BitVec 15) (s : State) : Host.Outcome State Fault Refusal :=
  loadWord d [qfld c] false (accM c imm 1 [0] .read) s

/-- LDH (R141, R143). -/
def execLdh (d : Dst) (c : Quad) (imm : BitVec 15) (s : State) : Host.Outcome State Fault Refusal :=
  loadWord d [qfld c] true (accM c imm 2 [0] .read) s

/-- LDHN (R141, R143). -/
def execLdhn (d : Dst) (c : Quad) (imm : BitVec 15) (s : State) : Host.Outcome State Fault Refusal :=
  loadWord d [qfld c] false (accM c imm 2 [0] .read) s

/-- LDW (R141, R143). -/
def execLdw (d : Dst) (c : Quad) (imm : BitVec 15) (s : State) : Host.Outcome State Fault Refusal :=
  loadWord d [qfld c] false (accM c imm 4 [0] .read) s

/-- LDD (R141, R143). -/
def execLdd (d : Reg) (c : Quad) (imm : BitVec 15) (s : State) : Host.Outcome State Fault Refusal :=
  loadWide d 2 [qfld c] (accM c imm 8 [0] .read) s

/-- LDQ (R141, R143). -/
def execLdq (d : Reg) (c : Quad) (imm : BitVec 15) (s : State) : Host.Outcome State Fault Refusal :=
  loadWide d 4 [qfld c] (accM c imm 16 [0] .read) s

/-- LDC (R141, R143). -/
def execLdc (d : Reg) (c : Quad) (imm : BitVec 15) (s : State) : Host.Outcome State Fault Refusal :=
  loadCap d [qfld c] (accM c imm 16 [0, 2] .read) s

/-- STB (R141, R143). -/
def execStb (d : Src) (c : Quad) (imm : BitVec 15) (s : State) : Host.Outcome State Fault Refusal :=
  storeWord d 1 [qfld c] (accM c imm 1 [1] .write) s

/-- STH (R141, R143). -/
def execSth (d : Src) (c : Quad) (imm : BitVec 15) (s : State) : Host.Outcome State Fault Refusal :=
  storeWord d 2 [qfld c] (accM c imm 2 [1] .write) s

/-- STW (R141, R143). -/
def execStw (d : Src) (c : Quad) (imm : BitVec 15) (s : State) : Host.Outcome State Fault Refusal :=
  storeWord d 4 [qfld c] (accM c imm 4 [1] .write) s

/-- STD (R141, R143). -/
def execStd (d : Reg) (c : Quad) (imm : BitVec 15) (s : State) : Host.Outcome State Fault Refusal :=
  storeWide d 2 [qfld c] (accM c imm 8 [1] .write) s

/-- STQ (R141, R143). -/
def execStq (d : Reg) (c : Quad) (imm : BitVec 15) (s : State) : Host.Outcome State Fault Refusal :=
  storeWide d 4 [qfld c] (accM c imm 16 [1] .write) s

/-- STC (R141, R143, R146). -/
def execStc (d : Reg) (c : Quad) (imm : BitVec 15) (s : State) : Host.Outcome State Fault Refusal :=
  storeQuad d [qfld c] (accM c imm 16 [1, 3] .write) s

/-- FLD (R145): a word, or with k a capability. -/
def execFld (d : Dst) (l : BitVec 3) (k : Bool) (imm : BitVec 15) (s : State) : Host.Outcome State Fault Refusal :=
  if k then loadCap (dstReg d) [] (accF l imm 16 [0, 2] .read) s
  else loadWord d [] false (accF l imm 4 [0] .read) s

/-- FST (R145, R146): a word, or with k a capability. -/
def execFst (d : Src) (l : BitVec 3) (k : Bool) (imm : BitVec 15) (s : State) : Host.Outcome State Fault Refusal :=
  if k then storeQuad (srcReg d) [] (accF l imm 16 [1, 3] .write) s
  else storeWord d 4 [] (accF l imm 4 [1] .write) s

end Sys2Proof.Machine
end

