-- ==== Sys2Proof/Machine/Atom.lean ====
section
/-!
DEFINITION. Atomics, and ordered loads and stores, majors 0x21 and 0x22 (R197 to R208). One instruction of one lane runs
at a time, so every ordering the rules demand holds.
-/

namespace Sys2Proof.Machine

open Sys2Proof

/-- The declared use of an atomic (Table 11.4): 1 commutative, 3 quantum, 4 speculative. -/
abbrev Use := BitVec 3

/-- The lanes that remain have made an acquire point. -/
def Work.acquireAll (w : Work) (yes : Bool) (scope : Nat) : Work :=
  if yes then { w with s := w.live.foldl (fun s r => s.acquires r scope) w.s } else w

/-- The earlier values of a location that a quantum read may return beside the last one: those that stood there since the
lane's last acquire point at the scope, or since its start (R207).
Log: DEDUCED (entry 116). -/
def State.recent (s : State) (r : LRef) (block : Option Nat) (a scope : Nat) : List PWord :=
  let since := (s.lane r).acquired.getD scope 0
  (s.past.filter fun p => p.block == block && p.addr == a && decide (since ≤ p.at')).map (·.value)

/-- The old value is delivered to D, unless the use is commutative (R198); a quantum read gives that value or an earlier one
of the location (R207), and poison where the old value is poisoned (R199).
Log: DEDUCED (entry 116). -/
def Work.deliverOld (w : Work) (r : LRef) (n : Nat) (u : Use) (old : PWord) (earlier : List PWord) : Work :=
  if u = 1 then w
  else
    let v := if u = 3 ∧ !old.poison then oneOf (Config.quantumRead w.s.steps (r.1 * 64 + r.2)) old earlier else old
    { w with s := w.s.wr r n v }

/-- The write of an atomic to HBM: a member's is tentative (R307), a speculative one waits for the commit point (R208),
any other is applied; the lane waits while the line's region installs (R310). The core's L1 drops the line (R209).
Log: DEDUCED (entry 117). -/
def Work.atomHbm (w : Work) (r : LRef) (key pa : Nat) (aop : BitVec 4) (d : PWord) (cmp : Word) (u : Use) : Work :=
  if w.s.memberLost r then w
  else
    let w := { w with s := w.s.dropOwn r pa 4 }
    match w.s.memberOf r.1 with
    | some y =>
      match w.s.admission (some y) pa with
      | .record s i => { w with s := s.record i pa (.atom key pa aop d cmp) }
      | .lost s => { w with s := s }
      | _ => w
    | none =>
      if u = 4 then
        { w with s := w.s.speculate r.1 { lane := r.2, key := key, addr := pa, aop := aop, operand := d, compare := cmp } }
      else
        { w with s := w.s.outsideAtom key pa aop d cmp }

/-- One lane of an atom (R198 to R200), an acquire point if `acq` (R188). `n` is the number of its register D. A helper lane is
checked and makes none (R77). What a group sees of its own tentative operations decides its old, and the committed word the
write (R208); a member's old is that of the member view (R307). An atomic of another device's memory is recorded there from
its issue (R307), and a speculative one that found no record there counts here (R208).
Log: DEDUCED (entries 28, 117), DESIGN CHOICE (entry 129). -/
def Work.atomLane (w : Work) (r : LRef) (c : Quad) (aop : BitVec 4) (u : Use) (acq : Bool) (scope n : Nat) : Work :=
  let x := w.accC r c 0 4 [0, 1, 4] .rmw
  match w.resolve r x with
  | (w, none) => w
  | (w, some p) =>
    let d := w.s.reg r n
    let cmp := if aop = 9 then w.s.reg r (n + 1) else {}
    if cmp.poison then w.strike r 0x0A 0
    else if u = 4 ∧ x.cap.space ≠ 0 then w.strike r 0x06 x.addr
    else if (w.s.lane r).helper then w
    else
      let now := fun (w : Work) => if acq then { w with s := w.s.acquires r scope } else w
      match p with
      | .scratch block off =>
        if w.s.present block (off / 128) then
          let earlier := w.s.recent r (some block) off scope
          let (s, old) := (now w).s.scratchAtom block off aop.toNat d cmp.val
          { w with s := s }.deliverOld r n u old earlier
        else w.park r (.line block (off / 128))
      | .hbm key pa =>
        if w.s.stalled pa then w.hold r
        else
          let old := (w.s.viewed r.1 pa).hbmRead key pa
          let earlier := w.s.recent r none pa scope
          ((now w).atomHbm r key pa aop d cmp.val u).deliverOld r n u old (if (w.s.group r.1).region.isSome then [] else earlier)
      | .remote dev _ va =>
        let w := { w with s := w.s.recordFar r.1 dev }
        if u = 1 then now w
        else
          match w.fetchSpot r p 4 .rmw with
          | (w, some v) =>
            let lost := u == 4 && ((w.s.lane r).broughtAt va 4).any (·.overflow)
            let w := if lost then { w with s := w.s.count (w.s.group r.1).ctx 3 1 } else w
            (now w).deliverOld r n u (v.word false) []
          | (w, none) => w
      | .kdata k a =>
        let m := (w.s.kcore k).dmem
        let old := m.word 8 a
        let s := match atomWrite aop.toNat old d cmp.val with
          | some v => w.s.modKcore k fun y => { y with dmem := m.writeWord 8 a v }
          | none => w.s
        now ({ w with s := s }.deliverOld r n u old [])
      | .queues a =>
        let old := w.s.queueMem.word 8 a
        let s := match atomWrite aop.toNat old d cmp.val with
          | some v => { w.s with queueMem := w.s.queueMem.writeWord 8 a v }
          | none => w.s
        now ({ w with s := s }.deliverOld r n u old [])

/-- An atom instruction. Its lanes are applied one by one in ascending order, commutative ones and those of an fadd too, as
one of the orders that R205 allows; a helper lane that would trap has its destination zeroed (R77).
Log: DESIGN CHOICE (entries 14, 118), DEDUCED (entry 28). -/
def atomOp (aop : BitVec 4) (d : Reg) (c : Quad) (ord : BitVec 2) (scope : BitVec 3) (use : Use) (s : State) :
    Host.Outcome State Fault Refusal :=
  withGather s fun w =>
    let w := w.sources [rfld codeD d (if aop = 9 then 2 else 1), qfld c] none none none
    let w := w.live.foldl (fun w r => w.atomLane r c aop use (ord == 1 || ord == 3) scope.toNat (w.rnum r codeD d.toNat)) w
    let w := if use = 1 then w else w.zeroRegs codeD d.toNat 1
    w.finish

/-- ATOM_ADD (R198). -/
def execAtomAdd (d : Reg) (c : Quad) (ord : BitVec 2) (scope use : BitVec 3) (s : State) : Host.Outcome State Fault Refusal :=
  atomOp 0 d c ord scope use s

/-- ATOM_AND (R198). -/
def execAtomAnd (d : Reg) (c : Quad) (ord : BitVec 2) (scope use : BitVec 3) (s : State) : Host.Outcome State Fault Refusal :=
  atomOp 1 d c ord scope use s

/-- ATOM_OR (R198). -/
def execAtomOr (d : Reg) (c : Quad) (ord : BitVec 2) (scope use : BitVec 3) (s : State) : Host.Outcome State Fault Refusal :=
  atomOp 2 d c ord scope use s

/-- ATOM_XOR (R198). -/
def execAtomXor (d : Reg) (c : Quad) (ord : BitVec 2) (scope use : BitVec 3) (s : State) : Host.Outcome State Fault Refusal :=
  atomOp 3 d c ord scope use s

/-- ATOM_MIN (R198). -/
def execAtomMin (d : Reg) (c : Quad) (ord : BitVec 2) (scope use : BitVec 3) (s : State) : Host.Outcome State Fault Refusal :=
  atomOp 4 d c ord scope use s

/-- ATOM_MAX (R198). -/
def execAtomMax (d : Reg) (c : Quad) (ord : BitVec 2) (scope use : BitVec 3) (s : State) : Host.Outcome State Fault Refusal :=
  atomOp 5 d c ord scope use s

/-- ATOM_NMIN (R198). -/
def execAtomNmin (d : Reg) (c : Quad) (ord : BitVec 2) (scope use : BitVec 3) (s : State) : Host.Outcome State Fault Refusal :=
  atomOp 6 d c ord scope use s

/-- ATOM_NMAX (R198). -/
def execAtomNmax (d : Reg) (c : Quad) (ord : BitVec 2) (scope use : BitVec 3) (s : State) : Host.Outcome State Fault Refusal :=
  atomOp 7 d c ord scope use s

/-- ATOM_SWAP (R198). -/
def execAtomSwap (d : Reg) (c : Quad) (ord : BitVec 2) (scope use : BitVec 3) (s : State) : Host.Outcome State Fault Refusal :=
  atomOp 8 d c ord scope use s

/-- ATOM_CAS (R198). -/
def execAtomCas (d : Reg) (c : Quad) (ord : BitVec 2) (scope use : BitVec 3) (s : State) : Host.Outcome State Fault Refusal :=
  atomOp 9 d c ord scope use s

/-- ATOM_FADD (R198). -/
def execAtomFadd (d : Reg) (c : Quad) (ord : BitVec 2) (scope use : BitVec 3) (s : State) : Host.Outcome State Fault Refusal :=
  atomOp 10 d c ord scope use s

/-- ATOM_FMIN (R198). -/
def execAtomFmin (d : Reg) (c : Quad) (ord : BitVec 2) (scope use : BitVec 3) (s : State) : Host.Outcome State Fault Refusal :=
  atomOp 11 d c ord scope use s

/-- ATOM_FMAX (R198). -/
def execAtomFmax (d : Reg) (c : Quad) (ord : BitVec 2) (scope use : BitVec 3) (s : State) : Host.Outcome State Fault Refusal :=
  atomOp 12 d c ord scope use s

/-- A load of one word that is an acquire point of its lanes (R188, R201). -/
def loadAcquire (scope : BitVec 3) (d : Dst) (flds : List Fld) (mk : Work → LRef → Acc) (s : State) :
    Host.Outcome State Fault Refusal :=
  withGather s fun w =>
    let w := w.sources (dstFlds d ++ flds) (some d) none none
    let (w, l) := w.loadAll mk
    ((w.acquireAll true scope.toNat).writeDst d fun _ r => (loadedOf l r).word false).finish

/-- LDA (R201). -/
def execLda (d : Dst) (c : Quad) (scope : BitVec 3) (s : State) : Host.Outcome State Fault Refusal :=
  loadAcquire scope d [qfld c] (fun w r => w.accC r c 0 4 [0] .read) s

/-- STL (R201). -/
def execStl (d : Src) (c : Quad) (_scope : BitVec 3) (s : State) : Host.Outcome State Fault Refusal :=
  storeWord d 4 [qfld c] (fun w r => w.accC r c 0 4 [1] .write) s

/-- LDS (R201). -/
def execLds (d : Dst) (c : Quad) (scope : BitVec 3) (s : State) : Host.Outcome State Fault Refusal :=
  loadAcquire scope d [qfld c] (fun w r => w.accC r c 0 4 [0] .read) s

/-- STS (R201): the store, and after it a fence of kind sc, which is an acquire point (R188). -/
def execSts (d : Src) (c : Quad) (scope : BitVec 3) (s : State) : Host.Outcome State Fault Refusal :=
  storeWordThen (fun w => w.acquireAll true scope.toNat) d 4 [qfld c] (fun w r => w.accC r c 0 4 [1] .write) s

end Sys2Proof.Machine
end

