-- ==== Sys2Proof/Machine/Ctl.lean ====
section
/-!
DEFINITION. Control flow, majors 0x23 to 0x29, and the breakpoint word (R42, R113 to R127): branches, calls and the
return stack, exit, traps, reconvergence, loops.
-/

namespace Sys2Proof.Machine

open Sys2Proof

/-! ### Jumps -/

/-- A lane goes on at an address. -/
def Lane.jump (l : Lane) (a : DWord) : Lane :=
  { l.dropHeld with status := .ready, pendReplay := false, stepOver := false, returned := [], heldBack := false, token := none }.goto a

/-- Lanes go where `f` says; a taken branch to `pc` or below is a blocking point that passes (R113). -/
def Work.jumps (w : Work) (f : State → LRef → DWord) : Work :=
  let s0 := w.s
  let back := w.live.filter fun r => decide ((f s0 r).toNat ≤ w.l.pc.toNat)
  let s := w.live.foldl (fun s r => s.modLane r fun l => l.jump (f s0 r)) w.s
  { w with s := s.passingPoint back, live := [] }

/-- A displacement of words from the instruction word. -/
def Work.target (w : Work) (disp : Int) : DWord := w.l.pc + BitVec.ofInt 64 (4 * disp)

/-- The lanes whose check of A failed take no branch; helper lanes among them go on at the next word.
Log: DEDUCED (entry 26). -/
def Work.passZero (w : Work) : Work :=
  { w with
    s := w.zero.foldl (fun s r => s.modLane r fun l => l.jump (w.l.pc + 4)) w.s
    zero := [] }

/-- brz and brnz. -/
def branchIf (a : Reg) (disp : BitVec 19) (taken : Word → Bool) (s : State) : Host.Outcome State Fault Refusal :=
  withGather s fun w =>
    let w := w.sources [rfld codeA a] none none none
    let w := w.live.foldl (fun v r => if (w.regOf r codeA a).poison then v.strike r 0x0A 0 else v) w
    let goes := w.live.filter fun r => taken (w.regOf r codeA a).val
    let v := { w with live := goes }.jumps fun _ _ => w.target disp.toInt
    let stay := w.live.filter fun r => !goes.contains r
    { v.passZero with live := stay }.finish

/-- BRA (R113). -/
def execBra (disp : BitVec 26) (s : State) : Host.Outcome State Fault Refusal :=
  withGather s fun w => (w.jumps fun _ _ => w.target disp.toInt).done

/-- BRZ (R113). -/
def execBrz (a : Reg) (disp : BitVec 19) (s : State) : Host.Outcome State Fault Refusal :=
  branchIf a disp (fun x => !condTrue x) s

/-- BRNZ (R113). -/
def execBrnz (a : Reg) (disp : BitVec 19) (s : State) : Host.Outcome State Fault Refusal :=
  branchIf a disp condTrue s

/-! ### The return stack (R115, R116, R353) -/

/-- A page fault on a spill or its read-back: of a helper lane none is raised (R77).
Log: DEDUCED (entry 55). -/
def Work.spillFault (w : Work) (r : LRef) (a : Nat) (kind : Kind) (fatal : Bool) (reason level : Nat) : Work :=
  if (w.s.lane r).helper then w.strike r 0x09 0 else w.pageFault r (BitVec.ofNat 64 a) kind fatal reason level

/-- Push an entry in a lane; the lane leaves the gather if the push traps or parks. A Kolesque core keeps its whole
stack in hardware.
Log: DEDUCED (entries 54, 55). -/
def Work.pushReturn (w : Work) (r : LRef) (e : Cap) : Work :=
  let l := w.s.lane r
  let base := w.s.returnRegion r
  let enter := fun (w : Work) =>
    { w with s := w.s.modLane r fun l =>
        { l with stack := (e :: l.stack).take (if (w.s.group r.1).isK then 256 else 8), depth := l.depth + 1 } }
  if 256 ≤ l.depth then w.strike r 0x05 (BitVec.ofNat 64 (base + 3968))
  else if l.depth < 8 ∨ (w.s.group r.1).isK then enter w
  else
    let core := (w.s.group r.1).coreOf
    let a := base + 16 * (l.depth - 8)
    let old := l.stack.getD 7 {}
    match w.s.locate (some core) (dieOf core) (w.s.ctx (w.s.group r.1).ctx).hdr.asid a .write with
    | (s, .error (fatal, reason, level)) => { w with s := s }.spillFault r a .write fatal reason level
    | (s, .ok (.hbm key pa)) => enter { w with s := s.hbmOutside key pa [(old.bytes, false)] old.tag }
    | (s, .ok (.remote dev pa)) => enter { w with s := s.spillFar dev pa old }

/-- Pop the top entry in a lane and make it the code capability (R116); while a region installs on the line read, the lane
waits (R311).
Log: DESIGN CHOICE (entry 43), DEDUCED (entry 54). -/
def Work.popReturn (w : Work) (r : LRef) : Work :=
  let l := w.s.lane r
  let top := l.stack.headD {}
  let leave := fun (w : Work) (below : List Cap) =>
    { w with s := w.s.modLane r fun l =>
        { (l.jump l.pc) with code := top, anchor := top.cursor, stack := l.stack.tail ++ below, depth := l.depth - 1 } }
  if l.depth < 9 ∨ (w.s.group r.1).isK then leave w []
  else
    let core := (w.s.group r.1).coreOf
    let a := w.s.returnRegion r + 16 * (l.depth - 9)
    match w.s.locate (some core) (dieOf core) (w.s.ctx (w.s.group r.1).ctx).hdr.asid a .read with
    | (s, .error (fatal, reason, level)) => { w with s := s }.spillFault r a .read fatal reason level
    | (s, .ok (.hbm key pa)) =>
      if s.stalled pa then { w with s := s }.hold r
      else if s.hbmPoison pa 16 then { w with s := s }.strike r 0x0A 0
      else leave { w with s := s } [capOfBytes (s.hbmBytes key pa 16) (s.hbmTag key pa)]
    | (s, .ok (.remote dev pa)) =>
      if Config.remotePoison s.steps dev (pa / 32) then { w with s := s }.strike r 0x0A 0
      else leave { w with s := s } [s.farEntry dev pa]

/-- Push the return address in every lane. -/
def Work.pushAllReturns (w : Work) : Work :=
  w.live.foldl (fun w r => w.pushReturn r ((w.s.lane r).code.at (w.l.pc + 4))) w

/-- CALL (R113, R115). -/
def execCall (disp : BitVec 26) (s : State) : Host.Outcome State Fault Refusal :=
  withGather s fun w => ((w.pushAllReturns).jumps fun _ _ => w.target disp.toInt).passZero.done

/-- check(c) of bri and calli (R114). -/
def codeVerdict (c : Cap) (poison : Bool) : Verdict :=
  if poison then some (0x0A, c.cursor)
  else if !c.tag then some (0x04, c.cursor)
  else if c.otype ≠ 0 then some (0x07, c.cursor)
  else if !c.perm 5 then some (0x06, c.cursor)
  else none

/-- The lanes whose new code capability passes. -/
def Work.checkCode (w : Work) (a : Reg) : Work :=
  w.check fun s r => codeVerdict (s.cap r (w.rnum r codeA a.toNat)) (s.quadPoison r (w.rnum r codeA a.toNat))

/-- Lanes take a code capability from a register. -/
def Work.install (w : Work) (a : Reg) : Work :=
  let caps := w.live.map fun r => (r, w.s.cap r (w.rnum r codeA a.toNat))
  let capOf := fun (r : LRef) => ((caps.find? fun x => x.1 == r).map (·.2)).getD {}
  let w := { w with s := w.live.foldl (fun s r => s.modLane r fun l => { l with code := capOf r, anchor := (capOf r).cursor }) w.s }
  w.jumps fun _ r => (capOf r).cursor

/-- BRI (R113, R114). -/
def execBri (a : Reg) (s : State) : Host.Outcome State Fault Refusal :=
  withGather s fun w => (((w.sources [rfld codeA a 4] none none none).checkCode a).install a).passZero.done

/-- CALLI (R113 to R115). -/
def execCalli (a : Reg) (s : State) : Host.Outcome State Fault Refusal :=
  withGather s fun w => ((((w.sources [rfld codeA a 4] none none none).checkCode a).pushAllReturns).install a).passZero.done

/-- RET (R116). -/
def execRet (s : State) : Host.Outcome State Fault Refusal :=
  withGather s fun w =>
    let w := w.begin []
    let ends := w.live.filter fun r => (w.s.lane r).depth == 0
    let w := (w.live.filter fun r => !ends.contains r).foldl (fun w r => w.popReturn r) w
    let s := ends.foldl (fun s r => s.exitLane r false) w.s
    ({ w with s := s, live := [] }.passZero).done

/-! ### The other CTL words -/

/-- EXIT (R117). -/
def execExit (s : State) : Host.Outcome State Fault Refusal :=
  withGather s fun w =>
    let w := w.begin []
    { w with s := w.live.foldl (fun s r => s.exitLane r false) w.s, live := [] }.done

/-- YIELD (R118).
Log: DEDUCED (entry 70). -/
def execYield (s : State) : Host.Outcome State Fault Refusal :=
  withGather s fun w =>
    let w := w.begin []
    match w.l.agent with
    | .core c =>
      { w with s := w.s.modRow c w.l.row fun r => { r with passOver := (w.s.core c).gathers + 64 } }.finish
    | .kcore _ => w.finish

/-- KILLPT (R119, R296). -/
def execKillpt (s : State) : Host.Outcome State Fault Refusal :=
  withGather s fun w =>
    let w := w.begin []
    { w with s := (groupsOf w.live).foldl State.killPoint w.s }.finish

/-- NOP (R119). -/
def execNop (s : State) : Host.Outcome State Fault Refusal := withGather s fun w => (w.begin []).finish

/-- The offset in words of the instruction word from the saved PC. -/
def Work.offset (w : Work) : Word := lo32 ((w.l.pc - w.l.start) >>> 2)

/-- TRAP (R119): the software trap. -/
def execTrap (code : BitVec 6) (s : State) : Host.Outcome State Fault Refusal :=
  withGather s fun w =>
    let w := w.begin []
    (w.strikeAll w.live 0x10 (tdata (code.setWidth 32) w.offset)).finish

/-- BKPT (R42). -/
def execBkpt (tag : BitVec 26) (s : State) : Host.Outcome State Fault Refusal :=
  withGather s fun w =>
    let w := w.begin []
    (w.strikeAll w.live 0x11 (tdata (tag.setWidth 32) w.offset)).finish

/-- The row stages a lane's shadowed window map again, if it differs and a slot is to be had (R159); as with an rgn, the words of
its quads keep whatever they then read (R157).
Log: DEDUCED (entry 60). -/
def State.restage (s : State) (r : LRef) : State :=
  let g := s.group r.1
  let row := s.row g.coreOf g.row
  let map := (s.lane r).shadow.map
  if g.isK || !(s.lane r).inHandler || map == row.map then s
  else
    let s := if row.slot.isSome then s else (s.obtainSlot g.coreOf g.row).getD s
    if (s.row g.coreOf g.row).slot.isSome then
      (s.onRow g.coreOf g.row fun who l => l.refreshQuads s.steps who (map.map (·.toNat))).modRow g.coreOf g.row fun x =>
        { x with map := map }
    else s

/-- RFT (R120, R159, R328).
Log: DEDUCED (entry 60). -/
def execRft (s : State) : Host.Outcome State Fault Refusal :=
  withGather s fun w =>
    let w := w.begin []
    { w with
      s := w.live.foldl (fun s r => (s.restage r).modLane r fun l => (l.jump l.pc).returnTrap) w.s
      live := [] }.done

/-! ### Reconvergence (R122 to R124) -/

/-- RCVSET (R123): helper lanes take part. -/
def execRcvset (b : BitVec 3) (imm : BitVec 12) (s : State) : Host.Outcome State Fault Refusal :=
  withGather s fun w =>
    let w := w.begin []
    ((groupsOf w.live).foldl (fun w gid =>
      let mine := w.live.filter fun r => r.1 == gid
      let g := w.s.group gid
      if g.lanes.any fun l => l.status == .held b.toNat then
        w.strikeAll mine 0x0D (tdata 14 (b.setWidth 32))
      else
        let target := match mine with
          | r :: _ => w.target (asI32 (w.imm12 r true imm))
          | [] => 0
        let members := mine.foldl (fun (m : BitVec 64) r => m ||| (1#64 <<< r.2)) 0
        { w with s := w.s.modGroup gid fun g =>
            { g with recs := g.recs.set b.toNat { target := target, members := members, arrived := 0 } } }) w).finish

/-- RCVWAIT (R124). -/
def execRcvwait (n : BitVec 6) (s : State) : Host.Outcome State Fault Refusal :=
  withGather s fun w =>
    let w := w.begin []
    let b := n.toNat
    let w := w.live.foldl (fun w r =>
      let x := (w.s.group r.1).recs.getD b {}
      if !x.members.getLsbD r.2 then w
      else if w.l.pc ≠ x.target then w.strike r 0x0D (tdata 15 (BitVec.ofNat 32 b))
      else
        let s := w.s.modGroup r.1 fun g =>
          { g with
            recs := g.recs.modify b fun y => { y with arrived := y.arrived ||| (1#64 <<< r.2) }
            lanes := g.lanes.modify r.2 fun l => { l.dropHeld with status := .held b } }
        { w with s := s, live := w.live.filter fun y => y != r }) w
    let s := (groupsOf w.l.lanes).foldl (fun s gid => s.modGroup gid Group.settleRecs) w.s
    { w with s := s }.finish

/-! ### Loops (R126, R127) -/

/-- LOOP: the body is fetched and checked as the loop issues; a lane of count 0 goes past it.
Log: DEDUCED (entry 34). -/
def execLoop (d : Reg) (len : BitVec 6) (s : State) : Host.Outcome State Fault Refusal :=
  withGather s fun w =>
    let k := match w.l.agent with | .kcore _ => true | .core _ => false
    let n := len.toNat + 1
    match fetchWords w (w.l.pc + 4) n [] with
    | (w, none) => w.finish
    | (w, some body) =>
      match loopError k w.l.run body with
      | some (off, bad) => (w.strikeAll w.live 0x01 (tdata bad (BitVec.ofNat 32 off))).finish
      | none =>
        let w := w.sources [rfld codeD d] none none none
        let w := w.live.foldl (fun v r => if (w.regOf r codeD d).poison then v.strike r 0x0A 0 else v) w
        let start := fun (r : LRef) (l : Lane) =>
          let c := (w.regOf r codeD d).val
          if c = 0 then l.jump (w.l.pc + 4 * BitVec.ofNat 64 (n + 1))
          else
            { l.jump (w.l.pc + 4) with
              loop := some { n := c, p := 0, i := 0, len := n, steps := w.l.hints.lsteps, body := body.map fun x => { val := x } } }
        ({ w with s := w.live.foldl (fun s r => s.modLane r (start r)) w.s, live := [] }.passZero).done

end Sys2Proof.Machine
end

