-- ==== Sys2Proof/Machine/CapOps.lean ====
section
/-!
DEFINITION. The capability instructions, major 0x2A (R137 to R140), and cdisp (R233).
-/

namespace Sys2Proof.Machine

open Sys2Proof

/-- A capability with its metadata fields changed and its bounds kept. -/
def Cap.setMeta (c : Cap) (perms space otype : Nat) : Cap :=
  { c with md := mkMeta perms space otype c.exp c.bField c.tField }

/-- A capability with exact bounds [nb, nt) at exponent e (R138). -/
def Cap.setBounds (c : Cap) (e nb nt : Nat) : Cap :=
  { c with md := mkMeta c.perms c.space c.otype e (nb / 2 ^ e % 2 ^ 21) (nt / 2 ^ e % 2 ^ 21) }

/-- Checks P, T, S and W (Table 8.5), as far as `t`, `sl` and `len` ask for them; tdata is the cursor.
Log: DEDUCED (entry 27). -/
def capVerdict (c : Cap) (poison t sl : Bool) (len : Option Nat) : Verdict :=
  if poison then some (0x0A, c.cursor)
  else if t && !c.tag then some (0x04, c.cursor)
  else if sl && c.otype ≠ 0 then some (0x07, c.cursor)
  else
    match len with
    | some n =>
      if (c.cursor.toNat : Int) < c.base ∨ c.top < (c.cursor.toNat : Int) + n then some (0x05, c.cursor) else none
    | none => none

/-- The number of a quad field of a lane. -/
def Work.quadA (w : Work) (r : LRef) (a : Reg) : Nat := w.rnum r codeA a.toNat

/-- A CAP instruction that reads cA and vB and writes a capability: the verdict decides, then the result. -/
def capOp (d a : Reg) (b : Option Reg) (verdict : State → LRef → Cap → Bool → PWord → Verdict)
    (result : State → LRef → Cap → Word → Cap) (s : State) : Host.Outcome State Fault Refusal :=
  withGather s fun w =>
    let w := w.sources ([rfld codeD d 4, rfld codeA a 4] ++ (b.map fun x => rfld codeB x).toList) none none none
    let capOf := fun (w : Work) (r : LRef) => w.s.cap r (w.quadA r a)
    let bOf := fun (w : Work) (r : LRef) => match b with | some x => w.regOf r codeB x | none => {}
    let w := w.live.foldl (fun v r =>
      match verdict w.s r (capOf w r) (w.s.quadPoison r (w.quadA r a)) (bOf w r) with
      | some (c, t) => v.strike r c t
      | none => v) w
    let s := w.live.foldl (fun s r =>
      s.wrCap r (w.rnum r codeD d.toNat) (result w.s r (capOf w r) (bOf w r).val) []) w.s
    ({ w with s := s }.zeroRegs codeD d.toNat 4).finish

/-- A CAP instruction that reads a field of cA into `n` registers; poison of cA passes to every one of them (check R). -/
def capRead (d a : Reg) (n : Nat) (f : Cap → List Word) (s : State) : Host.Outcome State Fault Refusal :=
  withGather s fun w =>
    let w := w.sources [rfld codeD d n, rfld codeA a 4] none none none
    ((w.writeRegs codeD d.toNat fun s r =>
      let bad := s.quadPoison r (w.quadA r a)
      (f (s.cap r (w.quadA r a))).map fun x => { val := x, poison := bad }).zeroRegs codeD d.toNat n).finish

/-- The two words of a 64-bit value. -/
def twoWords (x : Int) : List Word :=
  let v : DWord := BitVec.ofInt 64 x
  [lo32 v, hi32 v]

/-- CMOV (R137): four words, tag and poison. -/
def execCmov (d a : Reg) (s : State) : Host.Outcome State Fault Refusal :=
  withGather s fun w =>
    let w := w.sources [rfld codeD d 4, rfld codeA a 4] none none none
    let s := w.live.foldl (fun s r =>
      let n := w.quadA r a
      s.wrCap r (w.rnum r codeD d.toNat) (s.cap r n) ((s.quadWords r n).map (·.poison))) w.s
    ({ w with s := s }.zeroRegs codeD d.toNat 4).finish

/-- CADD (R137).
Log: DEDUCED (entry 27). -/
def execCadd (d a b : Reg) (s : State) : Host.Outcome State Fault Refusal :=
  capOp d a (some b) (fun _ _ c p x => capVerdict c (p || x.poison) false true none)
    (fun _ _ c x =>
      let n := c.cursor + BitVec.ofInt 64 (asI32 x)
      { c with cursor := n, tag := c.tag && decide (c.base ≤ (n.toNat : Int)) && decide ((n.toNat : Int) ≤ c.top) }) s

/-- csetb and csetbx (R138). -/
def setBoundsOp (exact : Bool) (d a b : Reg) (s : State) : Host.Outcome State Fault Refusal :=
  let fit := fun (c : Cap) (n : Nat) => fitBounds c.cursor.toNat (c.cursor.toNat + n) 63 0
  capOp d a (some b) (fun _ _ c p x =>
      match capVerdict c (p || x.poison) true true (some x.val.toNat) with
      | some v => some v
      | none =>
        let f := fit c x.val.toNat
        if exact && (f.2.1 != c.cursor.toNat || f.2.2 != c.cursor.toNat + x.val.toNat) then some (0x05, c.cursor) else none)
    (fun _ _ c x =>
      let f := fit c x.toNat
      c.setBounds f.1 f.2.1 f.2.2) s

/-- CSETB (R137, R138). -/
def execCsetb (d a b : Reg) (s : State) : Host.Outcome State Fault Refusal := setBoundsOp false d a b s

/-- CSETBX (R137, R138). -/
def execCsetbx (d a b : Reg) (s : State) : Host.Outcome State Fault Refusal := setBoundsOp true d a b s

/-- CBASE (R137). -/
def execCbase (d a : Reg) (s : State) : Host.Outcome State Fault Refusal := capRead d a 2 (fun c => twoWords c.base) s

/-- CLEN (R137). -/
def execClen (d a : Reg) (s : State) : Host.Outcome State Fault Refusal :=
  capRead d a 2 (fun c => twoWords (c.top - c.base)) s

/-- CCUR (R137). -/
def execCcur (d a : Reg) (s : State) : Host.Outcome State Fault Refusal :=
  capRead d a 2 (fun c => [lo32 c.cursor, hi32 c.cursor]) s

/-- CPERM (R137). -/
def execCperm (d a : Reg) (s : State) : Host.Outcome State Fault Refusal :=
  capRead d a 1 (fun c => [BitVec.ofNat 32 (c.perms + c.space * 2 ^ 8 + c.otype * 2 ^ 12)]) s

/-- CANDP (R137): FRM is kept.
Log: DEDUCED (entry 27). -/
def execCandp (d a b : Reg) (s : State) : Host.Outcome State Fault Refusal :=
  capOp d a (some b) (fun _ _ c p x => capVerdict c (p || x.poison) false true none)
    (fun _ _ c x => c.setMeta (c.perms &&& ((x.toNat % 256) ||| 0x40)) c.space c.otype) s

/-- What is wrong with a sealing capability (R139). -/
def sealVerdict (c k : Cap) (poison : Bool) : Verdict :=
  if poison then some (0x0A, c.cursor)
  else if !k.tag || k.otype ≠ 0 || k.space ≠ 15 || (k.cursor.toNat : Int) < k.base || k.top ≤ (k.cursor.toNat : Int) then
    some (0x06, c.cursor)
  else none

/-- cseal and cunseal: checks on cA, then on cB (R139). -/
def sealOp (d a b : Reg) (checkA : Cap → Bool → Verdict) (checkB : Cap → Cap → Bool) (result : Cap → Cap → Cap) (s : State) :
    Host.Outcome State Fault Refusal :=
  withGather s fun w =>
    let w := w.sources [rfld codeD d 4, rfld codeA a 4, rfld codeB b 4] none none none
    let ca := fun (w : Work) (r : LRef) => w.s.cap r (w.quadA r a)
    let cb := fun (w : Work) (r : LRef) => w.s.cap r (w.rnum r codeB b.toNat)
    let w := w.live.foldl (fun v r =>
      match checkA (ca w r) (w.s.quadPoison r (w.quadA r a)) with
      | some (c, t) => v.strike r c t
      | none =>
        match sealVerdict (ca w r) (cb w r) (w.s.quadPoison r (w.rnum r codeB b.toNat)) with
        | some (c, t) => v.strike r c t
        | none => if checkB (ca w r) (cb w r) then v else v.strike r 0x06 (ca w r).cursor) w
    let s := w.live.foldl (fun s r => s.wrCap r (w.rnum r codeD d.toNat) (result (ca w r) (cb w r)) []) w.s
    ({ w with s := s }.zeroRegs codeD d.toNat 4).finish

/-- CSEAL (R137, R139). -/
def execCseal (d a b : Reg) (s : State) : Host.Outcome State Fault Refusal :=
  sealOp d a b (fun c p => capVerdict c p true true none)
    (fun _ k => decide (4 ≤ k.cursor.toNat) && decide (k.cursor.toNat ≤ 15))
    (fun c k => c.setMeta c.perms c.space k.cursor.toNat) s

/-- CUNSEAL (R137, R139). -/
def execCunseal (d a b : Reg) (s : State) : Host.Outcome State Fault Refusal :=
  sealOp d a b (fun c p =>
      match capVerdict c p true false none with
      | some v => some v
      | none => if c.otype < 4 then some (0x07, c.cursor) else none)
    (fun c k => c.otype == k.cursor.toNat)
    (fun c _ => c.setMeta c.perms c.space 0) s

/-- CTAG (R137). -/
def execCtag (d a : Reg) (s : State) : Host.Outcome State Fault Refusal := capRead d a 1 (fun c => [boolWord c.tag]) s

/-- The size of space 1 or 2 as a lane reaches it (R134, R354). -/
def State.spaceSize (s : State) (r : LRef) (space : Nat) : Nat :=
  let g := s.group r.1
  match g.agent with
  | .core c => (s.block g.block).size c space
  | .kcore _ => if space = 1 then 2 ^ 18 else 2 ^ 21

/-- CSETC (R140): a scratchpad root. -/
def execCsetc (d a b : Reg) (s : State) : Host.Outcome State Fault Refusal :=
  capOp d a (some b) (fun _ _ c p x =>
      match capVerdict c (p || x.poison) true true none with
      | some v => some v
      | none =>
        if x.val ≠ 1 ∧ x.val ≠ 2 then some (0x06, x.val.setWidth 64)
        else if !(c.perm 0 || c.perm 1) then some (0x06, c.cursor)
        else none)
    (fun s r c x => mkCap 0 (c.perms % 32) x.toNat 0 0 (s.spaceSize r x.toNat)) s

/-- CDISP (R137, R233): the display capability as held. -/
def execCdisp (d : Reg) (l : BitVec 6) (s : State) : Host.Outcome State Fault Refusal :=
  withGather s fun w =>
    let w := w.sources [rfld codeD d 4] none none none
    let s := w.live.foldl (fun s r =>
      s.wrCap r (w.rnum r codeD d.toNat) ((s.grid (s.group r.1).grid).display.getD l.toNat {}) []) w.s
    ({ w with s := s }.zeroRegs codeD d.toNat 4).finish

end Sys2Proof.Machine
end

