-- ==== Sys2Proof/Machine/Copy.lean ====
section
/-!
DEFINITION. The copy engine (R172 to R185, R262 to R265): the COPY instructions, major 0x2B, a copy's advance, failure and
completion.
-/

namespace Sys2Proof.Machine

open Sys2Proof

/-! ### Moving data -/

/-- A copy's write into scratchpad, with the tag that it carries. A byte that a thread stored to meanwhile holds either value
(R173), and the tag of a granule goes with its bytes (R144, R146). -/
def State.copyWrite (s : State) (block off : Nat) (c : Chunk) (tag : Bool) : State :=
  let old := s.block block
  let idx := upto c.1.length
  let bs := (c.1.zip idx).map fun x =>
    if old.racing.contains (off + x.2) && Config.fillingKept s.steps (off + x.2) then old.scratch.byte (off + x.2) else x.1
  s.modBlock block fun b =>
    let b := b.put off (bs, c.2)
    { b with
      racing := b.racing.filter fun a => decide (a < off) || decide (off + c.1.length ≤ a)
      scratch := (unitsOf 16 off c.1.length).foldl (fun m g =>
        let a := 16 * g
        if off ≤ a ∧ a + 16 ≤ off + c.1.length ∧
            mixedTag (m.bytes a 16) ((c.1.drop (a - off)).take 16) (old.scratch.bytes a 16) tag (old.scratch.tag a) then
          m.setTag a true
        else m) b.scratch }

/-- What one move of a copy comes to. -/
inductive Moved where
  | ok (s : State)
  /-- it must wait -/
  | wait
  | fault (s : State) (va : Nat) (k : Kind) (fatal : Bool) (reason level : Nat)

/-- The virtual pages of global memory that a lane transfer has still to write. -/
def Xfer.pagesLeft (x : Xfer) : List Nat :=
  match x.dst with
  | .global a => unitsOf 4096 (a + 16 * x.done) (16 * (x.total - x.done))
  | .scratch _ => []

/-- The physical page of a translated place. -/
def Phys.page : Phys → Phys
  | .hbm _ pa => .hbm 0 (pa / 4096)
  | .remote dev pa => .remote dev (pa / 4096)

/-- A lane transfer of an earlier copy has still to write into a physical page, or into one not yet known (R179).
Log: DEDUCED (entry 61). -/
def State.mayWrite (s : State) (e : Copy) (x : Xfer) (p : Phys) : Bool :=
  x.pagesLeft.any fun k =>
    match (s.locate none (dieOf e.core) (s.ctx e.ctx).hdr.asid (4096 * k) .write).2 with
    | .ok q => q.page == p.page
    | .error _ => true

/-- Earlier copies, in order of issue.
Log: DEDUCED (entry 61). -/
def State.before (s : State) (c : Copy) : List Copy := s.copies.takeWhile fun x => x.id != c.id

/-- A move that reads scratchpad lines, or writes lines or global memory, must wait for an earlier copy: of the block for
what it reads (R179), of the group for what it writes.
Log: DEDUCED (entry 61). -/
def State.mustWait (s : State) (c : Copy) (reads writes : List Nat) (aim : Option Phys) : Bool :=
  (s.before c).any fun e => e.block == c.block && !e.failed && e.xfers.any fun x =>
    (reads.any fun l => x.pendingAt l) ||
    (e.gid == c.gid && ((writes.any fun l => x.pendingAt l) || aim.any (s.mayWrite e x)))

/-- A copy carries a granule's tag to a place (R180): the capabilities through which it goes allow it, and R146 does. -/
def State.carries (s : State) (c : Copy) (x : Xfer) (cap : Cap) (p : Spot) : Bool :=
  x.tags && cap.tag && (s.tagVerdict c.ctx x.through cap p 0).isNone

/-- Move one granule of a lane transfer.
Log: DEDUCED (entries 61, 102, 109). -/
def State.moveGranule (s : State) (c : Copy) (x : Xfer) : Moved :=
  let die := dieOf c.core
  let asid := (s.ctx c.ctx).hdr.asid
  let i := 16 * x.done
  match x.src, x.dst with
  | .global va, .scratch off =>
    if s.mustWait c [] [(off + i) / 128] none then .wait
    else
      match s.locate none die asid (va + i) .read with
      | (s, .error (fatal, reason, level)) => .fault s (va + i) .read fatal reason level
      | (s, .ok (.hbm key pa)) =>
        if s.stalled pa then .wait
        else
          let bs := s.hbmBytes key pa 16
          let tag := s.carries c x (capOfBytes bs (s.hbmTag key pa)) (.scratch c.block (off + i))
          .ok (s.copyWrite c.block (off + i) (bs, s.hbmPoison pa 16) tag)
      | (s, .ok (.remote dev pa)) =>
        let bs := (upto 16).map fun j => Config.remoteByte s.steps dev (pa + j)
        let cap := farCap pa bs (Config.remoteTag s.steps dev (pa / 16))
        let tag := s.carries c x cap (.scratch c.block (off + i))
        .ok (s.copyWrite c.block (off + i) (bs, Config.remotePoison s.steps dev (pa / 32)) tag)
  | .scratch off, .global va =>
    match s.locate none die asid (va + i) .write with
    | (s', .error (fatal, reason, level)) =>
      if s.mustWait c [(off + i) / 128] [] none then .wait else .fault s' (va + i) .write fatal reason level
    | (s', .ok p) =>
      if s.mustWait c [(off + i) / 128] [] (some p) then .wait
      else
        match p with
        | .remote _ _ => .ok s'
        | .hbm key pa =>
          match s'.admission none pa with
          | .apply s =>
            let m := (s.block c.block).scratch
            let bs := m.bytes (off + i) 16
            let tag := s.carries c x (capOfBytes bs (m.tag (off + i))) (.hbm key pa)
            .ok (s.hbmStore key pa [(bs, m.poisoned 8 (off + i) 16)] tag)
          | _ => .wait
  | _, _ => .ok s

/-! ### Conversions (R264, R265) -/

/-- The size of a source element: f32, e8m7, i8. -/
def srcSize (src : Nat) : Nat := match src with | 0 => 4 | 1 => 2 | _ => 1

/-- A source element as its exact value. -/
def srcValue (src n : Nat) : FVal :=
  match src with
  | 0 => f32.read n
  | 1 => e8m7.read n
  | _ => fOfInt (if 128 ≤ n then (n : Int) - 256 else n)

/-- The address of the source element of line `u` at position `k`. -/
def Conv.elemAt (cv : Conv) (h : Hdr) (base u k : Nat) : Nat :=
  let z := srcSize cv.src
  if h.role then base + k * cv.stride + u * z else base + u * cv.stride + k * z

/-- The place of a source element holds poison: its unit does (R265). -/
def State.elemPoison (s : State) (z : Nat) : Phys → Bool
  | .hbm _ pa => s.hbmPoison pa z
  | .remote dev pa => (unitsOf 32 pa z).any fun k => Config.remotePoison s.steps dev k

/-- Some unit that holds any element of a segment of line `u`, kept or not, is poisoned (R265).
Log: DESIGN CHOICE (entry 156). -/
def Conv.segPoison (cv : Conv) (h : Hdr) (base u g die asid : Nat) (s : State) : Bool :=
  (upto h.kseg).any fun k =>
    match (s.locate none die asid (cv.elemAt h base u (k + g * h.kseg)) .read).2 with
    | .ok p => s.elemPoison (srcSize cv.src) p
    | .error _ => false

/-- Read source elements, or the fault met. -/
def readElems (cv : Conv) (h : Hdr) (base u die asid : Nat) :
    List Nat → State → List FVal → State × Except (Option (Nat × Bool × Nat × Nat)) (List FVal)
  | [], s, vs => (s, .ok vs)
  | k :: t, s, vs =>
    let va := cv.elemAt h base u k
    let z := srcSize cv.src
    match s.locate none die asid va .read with
    | (s, .error (fatal, reason, level)) => (s, .error (some (va, fatal, reason, level)))
    | (s, .ok (.hbm key pa)) =>
      if s.stalled pa then (s, .error none)
      else readElems cv h base u die asid t s (vs ++ [srcValue cv.src (leNat (s.hbmBytes key pa z))])
    | (s, .ok (.remote dev pa)) =>
      readElems cv h base u die asid t s
        (vs ++ [srcValue cv.src (leNat ((upto z).map fun i => Config.remoteByte s.steps dev (pa + i)))])

/-- The exponent of a segment's scale (R264). -/
def scaleExp (h : Hdr) (vs : List FVal) : Int :=
  let logs := vs.filterMap fun v => match v with | .fin _ m e => if m = 0 then none else some ((Nat.log2 m : Int) + e) | _ => none
  match logs with
  | [] => 0
  | x :: t => if h.scales then max (-133) (min (t.foldl max x - ((h.planes : Int) - 2)) 127) else 0

/-- An element quantised (R264). -/
def quantise (h : Hdr) (e : Int) (v : FVal) : Int :=
  let lo : Int := if h.signed then -2 ^ (h.planes - 1) else 0
  let hi : Int := if h.signed then 2 ^ (h.planes - 1) - 1 else 2 ^ h.planes - 1
  match v with
  | .nan => 0
  | .inf neg => if neg then lo else hi
  | .fin neg m ex => max lo (min (roundInt .near neg m (ex - e)) hi)

/-- The bytes of plane `q` for quantised elements. -/
def planeBytes (q n : Nat) (xs : List Int) : List Byte :=
  (upto n).map fun i => (upto 8).foldl (fun (b : Byte) j =>
    if (xs.getD (8 * i + j) 0) / 2 ^ q % 2 = 1 then b ||| (1#8 <<< j) else b) 0

/-- A lower lane of the same copy has still to write into some line: the higher lane's bytes are final (R266).
Log: DEDUCED (entry 61). -/
def Copy.lowerPending (c : Copy) (x : Xfer) (lines : List Nat) : Bool :=
  c.xfers.any fun y => decide (y.lane < x.lane) && lines.any fun l => y.pendingAt l

/-- Convert one segment of one line.
Log: DEDUCED (entry 109). -/
def State.moveSegment (s : State) (c : Copy) (x : Xfer) (cv : Conv) : Moved :=
  let h := hdrOf cv.header
  let u := x.done / h.segs
  let g := x.done % h.segs
  let base := match x.src with | .global a => a | .scratch _ => 0
  let die := dieOf c.core
  let asid := (s.ctx c.ctx).hdr.asid
  let lines := (h.stepRanges x.done).flatMap fun r => unitsOf 128 (cv.image + r.1) r.2
  if s.mustWait c [] lines none || c.lowerPending x lines then .wait
  else
    match readElems cv h base u die asid (h.positions u g) s [] with
    | (_, .error none) => .wait
    | (s, .error (some (va, fatal, reason, level))) => .fault s va .read fatal reason level
    | (s, .ok vs) =>
      let bad := cv.segPoison h base u g die asid s
      let e := scaleExp h vs
      let xs := vs.map (quantise h e)
      let s := (upto h.planes).foldl (fun s q =>
        let r := h.segRange q u g
        let s := s.copyWrite c.block (cv.image + r.1) (planeBytes q h.segbytes xs, bad) false
        s.copyWrite c.block (cv.image + r.1 + h.segbytes) (List.replicate (r.2 - h.segbytes) 0, false) false) s
      .ok (if h.scales then
        s.copyWrite c.block (cv.image + h.scaleAt u g) (leBytes 2 (e8m7.rne (.fin false 1 e)), bad) false else s)

/-! ### Advance, failure, completion -/

/-- The offset of a copy's issuing word from the kernel entry. -/
def Copy.offset (c : Copy) : Word := lo32 (c.pc - c.entry)

/-- What a failing copy leaves of a transfer: bytes not yet written are poisoned in scratchpad, and stay in global memory
(R181). -/
def State.spoil (s : State) (block : Nat) (x : Xfer) : State :=
  let mark := fun (s : State) (off n : Nat) => s.modBlock block fun b => { b with scratch := b.scratch.mark 8 off n }
  match x.dst, x.conv with
  | .scratch off, none => mark s (off + 16 * x.done) (16 * (x.total - x.done))
  | .scratch _, some cv =>
    let h := hdrOf cv.header
    (upto (x.total - x.done)).foldl (fun s t =>
      (h.stepRanges (x.done + t)).foldl (fun s r => mark s (cv.image + r.1) r.2) s) s
  | .global _, _ => s

/-- A block forgets which bytes were stored to while a copy filled them, where no copy is to write them any more (R173).
Log: DEDUCED (entry 163). -/
def State.settleRaces (s : State) (block : Nat) : State :=
  s.modBlock block fun b => { b with racing := b.racing.filter fun a => s.copyTarget block a == some true }

/-- A copy fails at an address that its transfer `i` met (R181): its lanes take engine fault at their next boundary; with none
left, the context's policy for 0x0E acts with no lanes to deliver to.
Log: DEDUCED (entries 32, 62, 163). -/
def State.failCopy (s : State) (c : Copy) (va i : Nat) : State :=
  let s := c.xfers.foldl (fun s x => s.spoil c.block x) s
  let s := { s with copies := s.copies.filter fun x => x.id != c.id }.settleRaces c.block
  let lanes := (c.xfers.map (·.lane)).filter fun k => (s.lane (c.gid, k)).unexited
  let s := s.modCtx c.ctx fun k => { k with notes := k.notes ++ [{ addr := BitVec.ofNat 64 va, seq := c.seq, what := 0x0E, xfers := c.xfers[i]?.toList }] }
  if !lanes.isEmpty then
    lanes.foldl (fun s k => s.modLane (c.gid, k) fun l => { l with async := l.async ++ [.engine 0x0E c.seq c.offset] }) s
  else
    let g := s.group c.gid
    let e : FaultEntry :=
      { kind := 0, cause := 0x0E, block := (s.block c.block).index, gidx := g.gidx, core := c.core, lanes := 0, pc := c.pc,
        tdata := tdata c.seq c.offset, addr := 0, seq := c.seq }
    match s.policy c.ctx 0x0E with
    | 1 => s.dumpCtx c.ctx [e] false
    | 3 => s.killBy c.ctx (some e)
    | _ => s

/-- A copy's next move in one of its transfers, if it can be made now: data moves, or the copy is held on a recoverable
page fault, or it fails on a fatal one (R181). While the fault queue is full the copy waits.
Log: DEDUCED (entry 109). -/
def State.copyStep (s : State) (c : Copy) (i : Nat) : Option State :=
  if c.held.isSome || c.failed || (s.block c.block).rest.isSome then none
  else
    match c.xfers[i]? with
    | none => none
    | some x =>
      if x.total ≤ x.done then none
      else
        match (match x.conv with | some cv => s.moveSegment c x cv | none => s.moveGranule c x) with
        | .wait => none
        | .ok s =>
          some (s.modCopy c.id fun y => { y with xfers := y.xfers.modify i fun z => { z with done := z.done + 1 } })
        | .fault s va k fatal reason level =>
          match s.fault (dieOf c.core) (s.ctx c.ctx).hdr.asid va k fatal reason level 0xFF (some c.ctx) none
              (if fatal then none else some c.id) none with
          | (_, none) => none
          | (s, some rec') =>
            if fatal then some (s.failCopy c va i)
            else some (s.modCopy c.id fun y => { y with held := some { die := dieOf c.core, index := rec', va := va, xfer := i } })

/-- Every byte of a copy is written. -/
def Copy.written (c : Copy) : Bool := c.held.isNone && c.xfers.all fun x => decide (x.total ≤ x.done)

/-- A copy completes (R177, R281). -/
def State.completeCopy (s : State) (c : Copy) : State :=
  { s.stamp c.block c.tag (if c.copyIn then cinDone else coutDone) false false with
    copies := s.copies.filter fun x => x.id != c.id }

/-- The transfer of a copy that can go on.
Log: DEDUCED (entry 109). -/
def State.copyDue (s : State) (c : Copy) : Option Nat := (upto c.xfers.length).find? fun i => (s.copyStep c i).isSome

/-- COPY_ADVANCE: copy `a` of its transfer `b` (R181).
Log: DEDUCED (entry 109). -/
def execCopyAdvance (s : State) : Host.Outcome State Fault Refusal :=
  .next (match s.copies.find? fun c => c.id == s.ev.a with
    | some c => (s.copyStep c s.ev.b).getD s
    | none => s)

/-- COPY_COMPLETE: copy `a` (R177). -/
def execCopyComplete (s : State) : Host.Outcome State Fault Refusal :=
  .next (match s.copies.find? fun c => c.id == s.ev.a with
    | some c => if c.written then s.completeCopy c else s
    | none => s)

/-! ### The instructions -/

/-- Quad and count fields of a copy instruction. -/
def copyFlds (d a b : Reg) : List Fld := [rfld codeD d 4, rfld codeA a 4, rfld codeB b]

/-- The operands of a lane: cD and cA with their poison, and vB. -/
structure CopyArgs where
  cd : Cap
  pd : Bool
  ca : Cap
  pa : Bool
  b : PWord

/-- The operands of a lane. -/
def Work.copyArgs (w : Work) (r : LRef) (d a b : Reg) : CopyArgs :=
  let nd := w.rnum r codeD d.toNat
  let na := w.rnum r codeA a.toNat
  { cd := w.s.cap r nd, pd := w.s.quadPoison r nd, ca := w.s.cap r na, pa := w.s.quadPoison r na, b := w.regOf r codeB b }

/-- Steps 1 to 4 of R175, cD before cA at each: `spd` and `spa` say which spaces are required, `pd` the permissions of cD. -/
def CopyArgs.verdict (x : CopyArgs) (din : Bool) (pd : List Nat) : Verdict :=
  let scratch := fun (c : Cap) => c.space == 1 || c.space == 2
  let okD := (if din then scratch x.cd else x.cd.space == 0) && pd.all x.cd.perm
  let okA := (if din then x.ca.space == 0 else scratch x.ca) && x.ca.perm 0
  if x.pd then some (0x0A, x.cd.cursor)
  else if x.pa then some (0x0A, x.ca.cursor)
  else if x.b.poison then some (0x0A, 0)
  else if !x.cd.tag then some (0x04, x.cd.cursor)
  else if !x.ca.tag then some (0x04, x.ca.cursor)
  else if x.cd.otype ≠ 0 then some (0x07, x.cd.cursor)
  else if x.ca.otype ≠ 0 then some (0x07, x.ca.cursor)
  else if !okD then some (0x06, x.cd.cursor)
  else if !okA then some (0x06, x.ca.cursor)
  else none

/-- Steps 5 to 7 of R175. -/
def State.moveVerdict (s : State) (r : LRef) (x : CopyArgs) : Verdict :=
  let n := x.b.val.toNat
  let beyond := fun (c : Cap) => (c.space == 1 || c.space == 2) && decide (s.spaceSize r c.space < c.cursor.toNat + n)
  if !x.cd.within x.cd.cursor.toNat n then some (0x05, x.cd.cursor)
  else if !x.ca.within x.ca.cursor.toNat n then some (0x05, x.ca.cursor)
  else if x.cd.cursor.toNat % 16 ≠ 0 then some (0x0B, x.cd.cursor)
  else if x.ca.cursor.toNat % 16 ≠ 0 then some (0x0B, x.ca.cursor)
  else if n % 16 ≠ 0 then some (0x0B, x.b.val.setWidth 64)
  else if beyond x.cd then some (0x05, x.cd.cursor)
  else if beyond x.ca then some (0x05, x.ca.cursor)
  else none

/-- Where a capability points. -/
def State.placeOf (s : State) (r : LRef) (c : Cap) : Place :=
  let g := s.group r.1
  if c.space = 0 then .global c.cursor.toNat else .scratch ((s.block g.block).offset g.coreOf c.space c.cursor.toNat)

/-- Issue the copies of a gather, one per group with a passing lane (R176): a number, the record in the core's queue, the
stamp. With the queue full the group's lanes are held (R185).
Log: DEDUCED (entry 61). -/
def Work.issueCopies (w : Work) (copyIn : Bool) (xfer : State → LRef → Xfer) : Work :=
  (groupsOf w.live).foldl (fun w gid =>
    let lanes := w.s.actual gid w.live
    match lanes with
    | [] => w
    | r0 :: _ =>
      let g := w.s.group gid
      if 128 ≤ (w.s.copies.filter fun c => c.core == g.coreOf).length then
        let w := if (w.s.lane r0).heldBack then w else { w with s := w.s.count g.ctx 4 1 }
        lanes.foldl Work.hold w
      else
        let xs := lanes.map (xfer w.s)
        let tag := (w.s.lane r0).tiletag
        let (s, id) := w.s.fresh
        let c : Copy :=
          { id := id, core := g.coreOf, ctx := g.ctx, gid := gid, block := g.block, pc := w.l.pc, entry := (w.s.lane r0).entry,
            seq := g.engseq, copyIn := copyIn, xfers := xs, tag := tag }
        let s := s.modGroup gid fun x => { x with engseq := x.engseq + 1 }
        let s := s.stamp g.block tag (if copyIn then cinIssue else coutIssue) false true
        let s := { s with copies := s.copies ++ [c] }
        { w with s := if c.written then s.completeCopy c else s }) w

/-- cpyin and cpyout. -/
def moveCopy (copyIn : Bool) (d a b : Reg) (s : State) : Host.Outcome State Fault Refusal :=
  withGather s fun w =>
    let w := w.sources (copyFlds d a b) none none none
    let w := w.actors.foldl (fun v r =>
      let x := w.copyArgs r d a b
      match x.verdict copyIn [1] with
      | some (c, t) => v.strike r c t
      | none => match v.s.moveVerdict r x with | some (c, t) => v.strike r c t | none => v) w
    (w.issueCopies copyIn fun s r =>
      let x := w.copyArgs r d a b
      { lane := r.2, src := s.placeOf r x.ca, dst := s.placeOf r x.cd, len := x.b.val.toNat, total := x.b.val.toNat / 16,
        tags := x.ca.perm 2 && x.cd.perm 3, through := x.cd }).finish

/-- CPYIN (R174 to R180). -/
def execCpyin (d a b : Reg) (s : State) : Host.Outcome State Fault Refusal := moveCopy true d a b s

/-- CPYOUT (R174 to R180). -/
def execCpyout (d a b : Reg) (s : State) : Host.Outcome State Fault Refusal := moveCopy false d a b s

/-- An engine fault raised precisely, with its reason (R263).
Log: DEDUCED (entry 62). -/
def cvtFault (reason : Nat) : Byte × DWord := (0x0E, tdata (BitVec.ofNat 32 reason) 0xFFFFFFFF)

/-- The header words of a conversion's image. -/
def State.headerAt (s : State) (r : LRef) (c : Cap) : List PWord :=
  match s.placeOf r c with
  | .scratch off => (s.block (s.group r.1).block).wordsAt off 8
  | .global _ => []

/-- The conversion that a lane contributes. -/
def State.convOf (s : State) (r : LRef) (x : CopyArgs) : Conv :=
  { header := (s.headerAt r x.cd).map (·.val)
    image := match s.placeOf r x.cd with | .scratch off => off | .global _ => 0
    stride := x.b.val.toNat / 2 ^ 16, src := field x.b.val 0 2 }

/-- Steps 5 to 7 of R263.
Log: DEDUCED (entry 62). -/
def State.cvtVerdict (s : State) (r : LRef) (x : CopyArgs) : Verdict :=
  let z := srcSize (field x.b.val 0 2)
  if field x.b.val 2 14 ≠ 0 ∨ field x.b.val 0 2 = 3 then some (cvtFault 7)
  else if x.cd.cursor.toNat % 16 ≠ 0 then some (0x0B, x.cd.cursor)
  else if x.ca.cursor.toNat % z ≠ 0 then some (0x0B, x.ca.cursor)
  else if x.b.val.toNat / 2 ^ 16 % z ≠ 0 then some (0x0B, x.b.val.setWidth 64)
  else if !x.cd.within x.cd.cursor.toNat 32 ∨ s.spaceSize r x.cd.space < x.cd.cursor.toNat + 32 then some (0x05, x.cd.cursor)
  else none

/-- Steps 9 and 10 of R263, and the poison of step 8. -/
def State.imageVerdict (s : State) (r : LRef) (x : CopyArgs) : Verdict :=
  let ws := s.headerAt r x.cd
  let h := hdrOf (ws.map (·.val))
  let z := srcSize (field x.b.val 0 2)
  let stride := x.b.val.toNat / 2 ^ 16
  let span := if h.role then (h.k - 1) * stride + 64 * z else 63 * stride + h.k * z
  if ws.any (·.poison) then some (0x0A, x.cd.cursor)
  else
    match h.invalid with
    | some n => some (cvtFault n)
    | none =>
      if !x.cd.within x.cd.cursor.toNat h.size ∨ s.spaceSize r x.cd.space < x.cd.cursor.toNat + h.size then some (0x05, x.cd.cursor)
      else if !x.ca.within x.ca.cursor.toNat span then some (0x05, x.ca.cursor)
      else none

/-- The engine sequence number a precise engine fault would name is kept with it (R348). -/
def Work.strikeSeq (w : Work) (r : LRef) (cause : Byte) (data : DWord) : Work :=
  let v := w.strike r cause data
  { v with traps := v.traps.map fun t =>
      if t.lane == r && cause == 0x0E then { t with seq := (w.s.group r.1).engseq } else t }

/-- CPYCVT (R262 to R265). -/
def execCpycvt (d a b : Reg) (s : State) : Host.Outcome State Fault Refusal :=
  withGather s fun w =>
    let w := w.sources (copyFlds d a b) none none none
    let w := w.actors.foldl (fun v r =>
      let x := w.copyArgs r d a b
      match x.verdict true [0, 1] with
      | some (c, t) => v.strike r c t
      | none =>
        match v.s.cvtVerdict r x with
        | some (c, t) => v.strikeSeq r c t
        | none =>
          match v.s.placeOf r x.cd with
          | .global _ => v
          | .scratch off =>
            let blk := (v.s.group r.1).block
            match (unitsOf 128 off 32).find? fun k => !v.s.present blk k with
            | some k => v.park r (.line blk k)
            | none => match v.s.imageVerdict r x with | some (c, t) => v.strikeSeq r c t | none => v) w
    (w.issueCopies true fun s r =>
      let x := w.copyArgs r d a b
      let cv := s.convOf r x
      let h := hdrOf cv.header
      { lane := r.2, src := s.placeOf r x.ca, dst := s.placeOf r x.cd, len := h.size, total := 64 * h.segs, conv := some cv }).finish

/-- CPYWAIT (R178): what the copies of a lane that goes on have written is before it, so that its core's L1 drops what it holds.
Log: DEDUCED (entries 32, 142). -/
def execCpywait (a : Reg) (s : State) : Host.Outcome State Fault Refusal :=
  withGather s fun w =>
    let w := w.sources [rfld codeA a] none none none
    (w.live.foldl (fun v r =>
      let x := w.regOf r codeA a
      if x.poison then v.strike r 0x0A 0
      else if v.s.outstanding r.1 x.val then v.park r (.copies x.val)
      else { v with s := v.s.freshL1 r }) w).finishPoint

/-- Steps 1 to 4 of R175 on one scratchpad capability. -/
def scratchVerdict (c : Cap) (poison : Bool) (perm : Nat) : Verdict :=
  if poison then some (0x0A, c.cursor)
  else if !c.tag then some (0x04, c.cursor)
  else if c.otype ≠ 0 then some (0x07, c.cursor)
  else if !(c.space == 1 || c.space == 2) || !c.perm perm then some (0x06, c.cursor)
  else none

/-- PRES (R182). -/
def execPres (d : Dst) (a : Reg) (s : State) : Host.Outcome State Fault Refusal :=
  withGather s fun w =>
    let w := w.sources (dstFlds d ++ [rfld codeA a 4]) (some d) none none
    let capOf := fun (w : Work) (r : LRef) => w.s.cap r (w.quadA r a)
    let w := w.live.foldl (fun v r =>
      let c := capOf w r
      match scratchVerdict c (w.s.quadPoison r (w.quadA r a)) 0 with
      | some (k, t) => v.strike r k t
      | none => if w.s.spaceSize r c.space ≤ c.cursor.toNat then v.strike r 0x05 c.cursor else v) w
    (w.writeDst d fun s r =>
      match s.placeOf r (capOf w r) with
      | .scratch off => { val := boolWord (s.present (s.group r.1).block (off / 128)) }
      | .global _ => {}).finish

/-- PCLR (R183). -/
def execPclr (a b : Reg) (s : State) : Host.Outcome State Fault Refusal :=
  withGather s fun w =>
    let w := w.sources [rfld codeA a 4, rfld codeB b] none none none
    (w.actors.foldl (fun w r =>
      let c := w.s.cap r (w.quadA r a)
      let n := (w.regOf r codeB b).val.toNat
      match scratchVerdict c (w.s.quadPoison r (w.quadA r a)) 1 with
      | some (k, t) => if k = 0x0A ∨ !(w.regOf r codeB b).poison then w.strike r k t else w.strike r 0x0A 0
      | none =>
        if (w.regOf r codeB b).poison then w.strike r 0x0A 0
        else if !c.within c.cursor.toNat n then w.strike r 0x05 c.cursor
        else if w.s.spaceSize r c.space < c.cursor.toNat + n then w.strike r 0x05 c.cursor
        else
          match w.s.placeOf r c with
          | .global _ => w
          | .scratch off =>
            { w with s := w.s.modBlock (w.s.group r.1).block fun b =>
                { b with pclr := (unitsOf 128 off n).foldl (fun t k => tput k 0 t) b.pclr } }) w).finish

end Sys2Proof.Machine
end

