-- ==== Sys2Proof/Machine/Sync.lean ====
section
/-!
DEFINITION. The SYNC instructions, major 0x2D (R212 to R226), and csum (R228).
-/

namespace Sys2Proof.Machine

open Sys2Proof

/-! ### Shared parts -/

/-- tdata of barrier misuse (Table 12.4). -/
def barData (reason v : Nat) : DWord := tdata (BitVec.ofNat 32 reason) (BitVec.ofNat 32 v)

/-- Steps 1 to 3 of R215.
Log: DESIGN CHOICE (entry 133). -/
def objVerdict (c : Cap) (poison bPoison : Bool) : Verdict :=
  if poison || bPoison then some (0x0A, c.cursor)
  else if !c.tag then some (0x04, c.cursor)
  else if c.otype ≠ 0 then some (0x07, c.cursor)
  else none

/-- Steps 4 to 6 of R215, over `n` bytes at the cursor. -/
def State.objRange (s : State) (r : LRef) (c : Cap) (n : Nat) : Verdict :=
  let a := c.cursor.toNat
  if !(c.space == 1 || c.space == 2) || !(c.perm 0 && c.perm 1) then some (0x06, c.cursor)
  else if a % 16 ≠ 0 then some (0x0B, c.cursor)
  else if !c.within a n || decide (s.spaceSize r c.space < a + n) then some (0x05, c.cursor)
  else none

/-- The space-2 offset a capability names. -/
def State.offsetOf (s : State) (r : LRef) (c : Cap) : Nat :=
  match s.placeOf r c with
  | .scratch off => off
  | .global _ => 0

/-- Steps 4 to 7 of R215: the object's offset, or none when the lane has left the gather. R173 says that barrier objects do
not wait on presence bits, step 7 of R215 that an absent object line parks the lane: the step decides.
Log: DEDUCED (entry 122). -/
def Work.object (w : Work) (r : LRef) (c : Cap) : Work × Option Nat :=
  match w.s.objRange r c 16 with
  | some (k, d) => (w.strike r k d, none)
  | none =>
    let off := w.s.offsetOf r c
    let blk := (w.s.group r.1).block
    if w.s.present blk (off / 128) then (w, some off) else (w.park r (.line blk (off / 128)), none)

/-- Run a SYNC instruction on the object of each lane, in lane order: `b` gives the lane's B. -/
def Work.onObjects (w : Work) (a : Reg) (b : Work → LRef → PWord) (f : Work → LRef → Nat → Word → Work) : Work :=
  w.live.foldl (fun w r =>
    let n := w.quadA r a
    let c := w.s.cap r n
    let x := b w r
    match objVerdict c (w.s.quadPoison r n) x.poison with
    | some (k, d) => w.strike r k d
    | none =>
      match w.object r c with
      | (w, none) => w
      | (w, some off) => f w r off x.val) w

/-- No B. -/
def noB (_ : Work) (_ : LRef) : PWord := {}

/-- A thread waits on the object at an offset of a block (R216).
Log: DESIGN CHOICE (entry 134). -/
def State.barWaiting (s : State) (block off : Nat) : Bool :=
  s.groups.any fun g => g.block == block && !g.isK && g.lanes.any fun l =>
    match l.status with
    | .parked (.bar o _) _ => o == off
    | _ => false

/-- barinit on the object at an offset, for n members (R216): a free roster entry is the lowest one.
Log: DESIGN CHOICE (entry 123). -/
def Work.barInit (w : Work) (r : LRef) (off : Nat) (n : Word) : Work :=
  let bid := (w.s.group r.1).block
  let b := w.s.block bid
  let blksize := (w.s.grid b.grid).blksize
  if n = 0 ∨ blksize < n.toNat then w.strike r 0x0D (barData 5 off)
  else
    match b.armed off with
    | some (slot, e) =>
      if b.expectedAt off = n.toNat then w
      else if b.arrivedAt off ≠ 0 ∨ w.s.barWaiting bid off then w.strike r 0x0D (barData 5 off)
      else
        { w with s := w.s.modBlock bid fun b =>
            { b.setObj off 0 (barWord 0 n.toNat) with
              roster := tput slot { off := e.off, n := n.toNat } b.roster } }
    | none =>
      match (upto 32).find? fun k => (tget k b.roster).isNone with
      | none => w.strike r 0x0D (barData 6 off)
      | some slot =>
        { w with s := w.s.modBlock bid fun b =>
            { ((b.setObj off 0 (barWord 0 n.toNat)).setObj off 2 0).setObj off 3 (BitVec.ofNat 32 (slot * 256)) with
              roster := tput slot { off := off, n := n.toNat } b.roster } }

/-- What is wrong with an arrival (`arrival`) or a drop of a thread: reasons 1 to 4 (Table 12.4). -/
def Block.memberReason (b : Block) (off t : Nat) (arrival : Bool) : Option Nat :=
  match b.armed off with
  | none => some 1
  | some (_, e) =>
    if e.n ≤ t then some 2
    else if arrival && mbit e.arrived t then some 3
    else if mbit e.dropped t then some 4
    else none

/-- The arrival of a lane at an object: the token it receives, or none when it has left the gather. A helper lane takes
the phase as it stands, unless the object is not armed: of the reasons it is spared 2 to 4 (R77). -/
def Work.arriveLane (w : Work) (r : LRef) (off : Nat) : Work × Option Word :=
  let b := w.s.block (w.s.group r.1).block
  let token := b.objWord off 1
  let t := w.s.whose r
  match b.armed off with
  | none => (w.strike r 0x0D (barData 1 off), none)
  | some (slot, e) =>
    if (w.s.lane r).helper then (w, some token)
    else
      match b.memberReason off t.tidx true with
      | none => ({ w with s := w.s.arrive t off slot e }, some token)
      | some n => (w.strike r 0x0D (barData n off), none)

/-- A lane that has arrived, with its token or generation and the offset of its object. -/
abbrev Arrival := LRef × Word × Nat

/-- Each group folds the registers of its lanes that arrive (R227). The log's phase and offset are those of the lowest
one. An arrival changes no register, so that the fold may stand after it, where the tokens are known.
Log: DEDUCED (entry 30). -/
def Work.foldArrivals (w : Work) (kind : Nat) (as : List Arrival) : Work :=
  let mine := as.filter fun x => !(w.s.lane x.1).helper
  (groupsOf (mine.map (·.1))).foldl (fun w gid =>
    match mine.filter fun x => x.1.1 == gid with
    | [] => w
    | x :: t => { w with s := w.s.foldArrival gid ((x :: t).map (·.1.2)) w.l.pc x.2.1 kind x.2.2 }) w

/-- The arrivals of bararr and barsync (R215, R217), each followed by `f`, then the fold of the lanes that arrived (R227):
the lanes that received a token, with it. -/
def Work.arriveAll (w : Work) (kind : Nat) (a : Reg) (f : Work → LRef → Nat → Word → Work) : Work × List Arrival :=
  let p := w.live.foldl (fun (p : Work × List Arrival) r =>
    let w := p.1
    let n := w.quadA r a
    match objVerdict (w.s.cap r n) (w.s.quadPoison r n) false with
    | some (k, x) => (w.strike r k x, p.2)
    | none =>
      match w.object r (w.s.cap r n) with
      | (w, none) => (w, p.2)
      | (w, some off) =>
        match w.arriveLane r off with
        | (w, some t) => (f w r off t, p.2 ++ [(r, t, off)])
        | (w, none) => (w, p.2)) (w, [])
  (p.1.foldArrivals kind p.2, p.2)

/-- A lane waits while the object's phase is the token (R218), and goes on with an acquire point (R221). -/
def Work.waitPhase (w : Work) (r : LRef) (off : Nat) (token : Word) : Work :=
  if (w.s.block (w.s.group r.1).block).objWord off 1 = token then w.park r (.bar off token)
  else { w with s := w.s.acquires r blockScope }

/-! ### Barriers -/

/-- BARINIT (R215, R216). -/
def execBarinit (a b : Reg) (s : State) : Host.Outcome State Fault Refusal :=
  withGather s fun w =>
    let w := w.sources [rfld codeA a 4, rfld codeB b] none none none
    (w.onObjects a (fun w r => w.regOf r codeB b) fun w r off n =>
      if (w.s.lane r).helper then w else w.barInit r off n).finish

/-- The token that a lane has of an arrival whose push had no room, if this is that bararr issued again (R248).
Log: DESIGN CHOICE (entry 135). -/
def Lane.tokenFor (l : Lane) (d : Dst) : Option Word :=
  match d with
  | .push _ => l.token
  | .reg _ => none

/-- A lane that waits for room to push a token keeps it, and does not arrive again where it is saved there (R217, R248).
Log: DESIGN CHOICE (entry 135). -/
def Lane.keepToken (l : Lane) : Lane :=
  match l.status with
  | .parked (.push _ _ _ v _) _ => { l with token := some v.val }
  | _ => l

/-- BARARR (R215, R217, R227): the token goes to D. A lane that has arrived, and was saved as it waited for room to push its token,
pushes it.
Log: DESIGN CHOICE (entry 135). -/
def execBararr (d : Dst) (a : Reg) (s : State) : Host.Outcome State Fault Refusal :=
  withGather s fun w =>
    let w := w.sources (dstFlds d ++ [rfld codeA a 4]) (some d) none none
    let came := w.live.filterMap fun r => ((w.s.lane r).tokenFor d).map fun t => (r, t)
    let lanes := w.live
    let p := { w with live := lanes.filter fun r => !came.any fun x => x.1 == r }.arriveAll 0 a fun w _ _ _ => w
    let tokens := came ++ p.2.map fun x => (x.1, x.2.1)
    let w := { p.1 with live := lanes.filter fun r => p.1.live.contains r || came.any fun x => x.1 == r }
    let w := w.writeDst d fun _ r => { val := ((tokens.find? fun x => x.1 == r).map (·.2)).getD 0 }
    { w with s := tokens.foldl (fun (s : State) (x : LRef × Word) => s.modLane x.1 Lane.keepToken) w.s }.finish

/-- BARWAIT (R215, R218). -/
def execBarwait (a : Reg) (b : Src) (s : State) : Host.Outcome State Fault Refusal :=
  withGather s fun w =>
    let w := w.sources (rfld codeA a 4 :: srcFlds b codeB) none none (some b)
    (w.onObjects a (fun w r => w.src r codeB b) fun w r off x => w.waitPhase r off x).finishPoint

/-- BARSYNC (R215, R217, R218, R227). -/
def execBarsync (a : Reg) (s : State) : Host.Outcome State Fault Refusal :=
  withGather s fun w =>
    let w := w.sources [rfld codeA a 4] none none none
    (w.arriveAll 1 a Work.waitPhase).1.finishPoint

/-- BARDROP (R215, R220). -/
def execBardrop (a : Reg) (s : State) : Host.Outcome State Fault Refusal :=
  withGather s fun w =>
    let w := w.sources [rfld codeA a 4] none none none
    (w.onObjects a noB fun w r off _ =>
      if (w.s.lane r).helper then w
      else
        let b := w.s.block (w.s.group r.1).block
        let t := w.s.whose r
        match b.memberReason off t.tidx false, b.armed off with
        | none, some (slot, e) => { w with s := w.s.dropFrom t off slot e }
        | some n, _ => w.strike r 0x0D (barData n off)
        | none, none => w).finish

/-- GBAR (R223, R227): a helper lane waits without arriving (R77).
Log: DESIGN CHOICE (entry 128). -/
def execGbar (s : State) : Host.Outcome State Fault Refusal :=
  withGather s fun w =>
    let w := w.begin []
    let gridOf := fun (w : Work) (r : LRef) => (w.s.group r.1).grid
    match w.live with
    | [] => w.finish
    | r0 :: _ =>
      let g := w.s.grid (gridOf w r0)
      if !g.coop then (w.strikeAll w.live 0x0D (barData 7 0xFFFFFFFF)).finish
      else
        let p := w.live.foldl (fun (p : Work × List Arrival) r =>
          let w := p.1
          let gen := (w.s.grid g.uid).gbarGen
          let w := if (w.s.lane r).helper then w else { w with s := w.s.gbarArrive g.uid (w.s.whose r) }
          (if (w.s.grid g.uid).gbarGen = gen then w.park r (.gbar gen) else { w with s := w.s.acquires r deviceScope }, p.2 ++ [(r, gen, 0xFFFFFFFF)])) (w, [])
        (p.1.foldArrivals 2 p.2).finishPoint

/-! ### Convergence registers -/

/-- CVINIT (R226). -/
def execCvinit (n : BitVec 6) (a : Reg) (s : State) : Host.Outcome State Fault Refusal :=
  withGather s fun w =>
    let w := w.sources [rfld codeA a] none none none
    (w.live.foldl (fun w r =>
      let x := w.regOf r codeA a
      let bid := (w.s.group r.1).block
      let v := (w.s.block bid).cv n.toNat
      if x.poison then w.strike r 0x0A 0
      else if (w.s.lane r).helper then w
      else if x.val = 0 ∨ (w.s.grid (w.s.group r.1).grid).blksize < x.val.toNat ∨ v.signed ≠ 0 then
        w.strike r 0x0D (barData 11 n.toNat)
      else { w with s := w.s.modBlock bid fun b => b.setCv n.toNat { v with count := x.val.toNat } }) w).finish

/-- What is wrong with a signature of a kind by a thread: reasons 8 to 10 (R226). -/
def CvReg.signReason (v : CvReg) (kind t : Nat) : Option Nat :=
  if v.count = 0 then some 8
  else if mbit v.mask t then some 9
  else if v.kind ≠ 0 ∧ v.kind ≠ kind then some 10
  else none

/-- A plain generation is complete: an mxwait on a signature of it goes past, as an acquire point (R226, R278).
Log: DEDUCED (entry 116). -/
def State.passSigs (s : State) (block cv : Nat) : State :=
  { s with groups := s.groups.map fun g =>
      if g.block == block && !g.isK then { g with lanes := g.lanes.map fun l =>
            { l with sigs := l.sigs.map fun (x : Nat × Sig) =>
                match x.2 with
                | .plain _ => if x.1 = cv then (cv, .passed) else x
                | _ => x } }
      else g }

/-- CVSIGN (R226): lanes that are no helpers sign in ascending order. -/
def execCvsign (n : BitVec 6) (s : State) : Host.Outcome State Fault Refusal :=
  withGather s fun w =>
    let w := w.begin []
    (w.actors.foldl (fun w r =>
      let g := w.s.group r.1
      let v := (w.s.block g.block).cv n.toNat
      let t := g.tidx r.2
      match v.signReason 1 t with
      | some k => w.strike r 0x0D (barData k n.toNat)
      | none =>
        let s := w.s.modBlock g.block fun b => b.setCv n.toNat (v.sign 1 t).1
        let s := s.modLane r fun l => { l with sigs := tput n.toNat (.plain v.gen) l.sigs }
        { w with s := if (v.sign 1 t).2 then s.passSigs g.block n.toNat else s }) w).finish

/-! ### Records -/

/-- The record that strag reads for a lane, or none when the lane has left the gather (R225).
Log: DEDUCED (entry 65). -/
def Work.stragOf (w : Work) (r : LRef) (c : Cap) : Work × Option (List Word) :=
  if c.space = 0 ∧ c.perm 6 then
    let g := w.s.grid (w.s.group r.1).grid
    let own := g.display.getD g.level {}
    if c.base = own.base ∧ c.top = own.top ∧ c.cursor = own.cursor then
      (w, some (if g.coop then g.gbarRecord.words else List.replicate 4 0))
    else (w.strike r 0x0D (barData 12 0xFFFFFFFF), none)
  else
    match w.object r c with
    | (w, none) => (w, none)
    | (w, some off) =>
      match (w.s.block (w.s.group r.1).block).armed off with
      | some (_, e) => (w, some e.record.words)
      | none => (w, some (List.replicate 4 0))

/-- The words of a record that holds nothing are zero. -/
def plainWords (ws : List Word) : List PWord := ws.map fun x => { val := x }

/-- STRAG (R224, R225). -/
def execStrag (d a : Reg) (s : State) : Host.Outcome State Fault Refusal :=
  withGather s fun w =>
    let w := w.sources [rfld codeD d 4, rfld codeA a 4] none none none
    let (w, recs) := w.live.foldl (fun (p : Work × List (LRef × List Word)) r =>
      let w := p.1
      let n := w.quadA r a
      let c := w.s.cap r n
      match objVerdict c (w.s.quadPoison r n) false with
      | some (k, x) => (w.strike r k x, p.2)
      | none =>
        match w.stragOf r c with
        | (w, some ws) => (w, p.2 ++ [(r, ws)])
        | (w, none) => (w, p.2)) (w, [])
    ((w.writeRegs codeD d.toNat fun _ r => plainWords (((recs.find? fun x => x.1 == r).map (·.2)).getD [])).zeroRegs
      codeD d.toNat 4).finish

/-- CSUM (R227, R228). -/
def execCsum (d : Reg) (s : State) : Host.Outcome State Fault Refusal :=
  withGather s fun w =>
    let w := w.sources [rfld codeD d 2] none none none
    let sums := (groupsOf w.live).map fun gid => (gid, (w.s.group gid).fold ((w.s.actual gid w.live).map (·.2)))
    ((w.writeRegs codeD d.toNat fun _ r =>
      let h := (tget r.1 sums).getD 0
      plainWords [lo32 h, hi32 h]).zeroRegs codeD d.toNat 2).finish

end Sys2Proof.Machine
end

