-- ==== Sys2Proof/Machine/Chan.lean ====
section
/-!
DEFINITION. The CHAN instructions, major 0x2C (R246, R251 to R254).
-/

namespace Sys2Proof.Machine

open Sys2Proof

/-- The capacities a ring may have: powers of two from 16 to 4,096. -/
def ringCaps : List Nat := [16, 32, 64, 128, 256, 512, 1024, 2048, 4096]

/-- The header words that a chbind of capacity `k` would read of the ring its capability names are poisoned: the first, and of
an armed ring of that capacity the last. The offset counts where the capability has a scratchpad's space (R252, R253). -/
def State.headerPoison (s : State) (r : LRef) (c : Cap) (k : Nat) : Bool :=
  let b := s.block (s.group r.1).block
  let off := s.offsetOf r c
  c.tag && (c.space == 1 || c.space == 2) && b.ringPoison (if b.ringArmed off && b.ringCap off == k then [0, 3] else [0]) off

/-- Steps 1 and 2 of R252 for a lane of chbind, on cA and vB: a poisoned word of the capability, of B, or of the header it
names comes before every check of R215.
Log: DEDUCED (entries 26, 51). -/
def State.bindVerdict (s : State) (r : LRef) (n : Nat) (c : Cap) (poison : Bool) (b : PWord) : Verdict :=
  match objVerdict c (poison || s.headerPoison r c b.val.toNat) b.poison with
  | some v => some v
  | none =>
    let a := c.cursor.toNat
    let k := b.val.toNat
    if !(c.space == 1 || c.space == 2) || !(c.perm 0 && c.perm 1) then some (0x06, c.cursor)
    else if a % 16 ≠ 0 then some (0x0B, c.cursor)
    else if !ringCaps.contains k then some (0x0C, chanData 4 n)
    else if !c.within a (16 + 4 * k) || decide (s.spaceSize r c.space < a + 16 + 4 * k) then some (0x05, c.cursor)
    else none

/-- Bind entry `n` of a group to the ring at an offset with capacity `k` (R253), or the reason why not. -/
def State.bindChan (s : State) (gid n off k : Nat) : Except Nat State :=
  let g := s.group gid
  let b := s.block g.block
  let bindTo := fun (s : State) => s.modGroup gid fun g => { g with chans := g.chans.set n (some (off, k)) }
  if (g.chans.getD n none).isSome then .error 6
  else if !b.ringArmed off then
    .ok (bindTo (s.modBlock g.block fun b =>
      (((b.setRing off { val := BitVec.ofNat 32 (0xC * 2 ^ 28 + k) }).setRing (off + 4) {}).setRing (off + 8) {}).setRing
        (off + 12) { val := 1 }))
  else if b.ringCap off ≠ k then .error 5
  else
    .ok (bindTo (s.modBlock g.block fun b =>
      let w := (b.ringWord off 3).val
      b.setRing (off + 12) { val := BitVec.ofNat 32 (w.toNat / 2 ^ 16 * 2 ^ 16 + (field w 0 16 + 1) % 2 ^ 16) }))

/-- CHBIND (R252, R253): once for each group. -/
def execChbind (n : Chan) (a b : Reg) (s : State) : Host.Outcome State Fault Refusal :=
  withGather s fun w =>
    let w := w.sources [rfld codeA a 4, rfld codeB b] none none none
    let capOf := fun (w : Work) (r : LRef) => w.s.cap r (w.quadA r a)
    let w := w.actors.foldl (fun v r =>
      match w.s.bindVerdict r n.toNat (capOf w r) (w.s.quadPoison r (w.quadA r a)) (w.regOf r codeB b) with
      | some (k, d) => v.strike r k d
      | none => v) w
    ((groupsOf w.live).foldl (fun v gid =>
      let lanes := w.s.actual gid w.live
      let asked := lanes.map fun r => (w.s.offsetOf r (capOf w r), (w.regOf r codeB b).val.toNat)
      match asked with
      | [] => v
      | (off, k) :: t =>
        if t.any fun x => x != (off, k) then v.strikeAll lanes 0x0C (chanData 9 n.toNat)
        else
          match v.s.bindChan gid n.toNat off k with
          | .ok s => { v with s := s }
          | .error reason => v.strikeAll lanes 0x0C (chanData reason n.toNat)) w).finish

/-- CHPUSH (R251): mov into a channel. -/
def execChpush (n : Chan) (a : Src) (s : State) : Host.Outcome State Fault Refusal := alu1 (.push n) a id s

/-- CHPOP (R251): mov from a channel. -/
def execChpop (d : Dst) (n : Chan) (s : State) : Host.Outcome State Fault Refusal := alu1 d (.pop n) id s

/-- CHPEEK (R251): mov from a channel's entries, which stay. -/
def execChpeek (d : Dst) (n : Chan) (s : State) : Host.Outcome State Fault Refusal := alu1 d (.peek n) id s

/-- The word of Table 14.4. -/
def Block.chanWord (b : Block) (off : Nat) : Word :=
  let count := b.ringCount off
  let closed := b.ringClosed off
  BitVec.ofNat 32 (count % 2 ^ 13 * 2 ^ 16 + 4 + (if closed then 2 else 0) + if closed && count == 0 then 1 else 0)

/-- CHSTAT (R252, R254): a lane that reads closed as 1 makes an acquire point (R250). -/
def execChstat (d : Reg) (n : Chan) (s : State) : Host.Outcome State Fault Refusal :=
  withGather s fun w =>
    let w := w.sources [rfld codeD d] none none none
    let w := (groupsOf w.live).foldl (fun v gid =>
      let mine := w.live.filter fun r => r.1 == gid
      if (w.s.ringOf gid n.toNat).isNone then v
      else
        match w.s.chanVerdict gid countWords [n.toNat] with
        | some (k, x) => v.strikeAll mine k x
        | none => v) w
    let closed := fun (r : LRef) => match w.s.ringOf r.1 n.toNat with
      | some off => (w.s.block (w.s.group r.1).block).ringClosed off
      | none => false
    let w := { w with s := (w.live.filter closed).foldl (fun s r => s.acquires r blockScope) w.s }
    (w.writeDst (.reg d) fun s r =>
      match s.ringOf r.1 n.toNat with
      | some off => { val := (s.block (s.group r.1).block).chanWord off }
      | none => {}).finish

/-- Run an instruction once for each group of a gather that has a lane that is no helper, after the checks of R252; `ws` are the
header words that it reads. -/
def onChannel (n : Nat) (ws : List Nat) (f : Work → Nat → List LRef → Work) (s : State) : Host.Outcome State Fault Refusal :=
  withGather s fun w =>
    let w := w.begin []
    let w := (groupsOf w.live).foldl (fun w gid =>
      match w.s.chanVerdict gid ws [n] with
      | some (c, d) => w.strikeAll (w.s.actual gid w.live) c d
      | none => w) w
    ((groupsOf w.live).foldl (fun w gid =>
      let lanes := w.s.actual gid w.live
      if lanes.isEmpty then w else f w gid lanes) w).finish

/-- CHCLOSE (R253): the ring is closed; its parked poppers and pushers are woken as the step closes. -/
def execChclose (n : Chan) (s : State) : Host.Outcome State Fault Refusal :=
  onChannel n.toNat [0] (fun w gid _ =>
    match w.s.ringOf gid n.toNat with
    | some off =>
      { w with s := w.s.modBlock (w.s.group gid).block fun b =>
          let x := b.ringWord off 0
          b.setRing off { x with val := x.val ||| 0x08000000 } }
    | none => w) s

/-- A lane of a group is parked on channel entry `n` (R252, reason 8). -/
def Group.parkedOn (g : Group) (n : Nat) : Bool :=
  g.lanes.any fun l =>
    match l.status with
    | .parked (.push m _ _ _ _) _ => m == n
    | .parked (.pop m _ _ _ _ _) _ => m == n
    | _ => false

/-- CHFREE (R253). -/
def execChfree (n : Chan) (s : State) : Host.Outcome State Fault Refusal :=
  onChannel n.toNat [0, 3] (fun w gid lanes =>
    match w.s.ringOf gid n.toNat with
    | some _ =>
      if (w.s.group gid).parkedOn n.toNat then w.strikeAll lanes 0x0C (chanData 8 n.toNat)
      else { w with s := w.s.freeChan gid n.toNat }
    | none => w) s

end Sys2Proof.Machine
end

