-- ==== Sys2Proof/Machine/Mx.lean ====
section
/-!
DEFINITION. The matrix instructions, majors 0x2E and 0x2F (R256, R270 to R273, R278, R280), and the engine's events (R274 to
R277).
-/

namespace Sys2Proof.Machine

open Sys2Proof

/-! ### Signing -/

/-- The accumulators of a signer on a convergence register, as mx's bounds check counts them (R270). -/
def State.accumulators (s : State) (r : LRef) (cv : Nat) : Nat :=
  let m := ((s.block (s.group r.1).block).cv cv).count
  if m = 64 ∨ m = 128 ∨ m = 256 then 4096 / m else 16

/-- Step 3 of Table 16.2 on one image capability. -/
def State.imageCapVerdict (s : State) (r : LRef) (c : Cap) (poison : Bool) : Verdict :=
  let a := c.cursor.toNat
  match scratchVerdict c poison 0 with
  | some v => some v
  | none =>
    if a % 16 ≠ 0 then some (0x0B, c.cursor)
    else if !c.within a 32 || decide (s.spaceSize r c.space < a + 32) then some (0x05, c.cursor)
    else none

/-- Step 4 of Table 16.2: the reason (Table 12.4). -/
def CvReg.matrixReason (v : CvReg) (t : Nat) : Option Nat :=
  if v.count = 0 then some 8
  else if v.count ≠ 64 ∧ v.count ≠ 128 ∧ v.count ≠ 256 then some 13
  else v.signReason 2 t

/-- The checks of Table 16.2. -/
def Work.mxVerdict (w : Work) (r : LRef) (f : Reg) (ca cb : Quad) (cv : Nat) : Verdict :=
  let fw := w.regOf r 8 f
  if fw.poison then some (0x0A, 0)
  else
    match formatReason fw.val with
    | some n => some (0x01, tdata fw.val (BitVec.ofNat 32 (0xF0000000 + n)))
    | none =>
      match w.s.imageCapVerdict r (w.s.cap r (4 * ca.toNat)) (w.s.quadPoison r (4 * ca.toNat)) with
      | some v => some v
      | none =>
        match w.s.imageCapVerdict r (w.s.cap r (4 * cb.toNat)) (w.s.quadPoison r (4 * cb.toNat)) with
        | some v => some v
        | none =>
          let g := w.s.group r.1
          (((w.s.block g.block).cv cv).matrixReason (g.tidx r.2)).map fun k => (0x0D, barData k cv)

/-- The space-2 offset of the top of an image capability, or of its space's end where that comes first (R271, R274). -/
def State.topOf (s : State) (r : LRef) (c : Cap) : Nat :=
  let g := s.group r.1
  (s.block g.block).offset g.coreOf c.space (min c.top.toNat (s.spaceSize r c.space))

/-- What a signer captures (R271). -/
def Work.signerOf (w : Work) (r : LRef) (d f : Reg) (ca cb : Quad) : Signer :=
  let a := w.s.cap r (4 * ca.toNat)
  let b := w.s.cap r (4 * cb.toNat)
  { gid := r.1, lane := r.2, tidx := (w.s.group r.1).tidx r.2, fmt := (w.regOf r 8 f).val, aOff := w.s.offsetOf r a,
    bOff := w.s.offsetOf r b, aTop := w.s.topOf r a, bTop := w.s.topOf r b, d := d.toNat, f := f.toNat, ca := ca.toNat,
    cb := cb.toNat }

/-- The operation whose signatures a convergence register collects. -/
def State.signing (s : State) (block cv : Nat) : Option MxOp :=
  s.ops.find? fun o => o.block == block && o.cv == cv && o.phase == .signing

/-- A lane signs with kind 2 and is held; the last signature brings the vote (R271, R272).
Log: DESIGN CHOICE (entry 157). -/
def Work.signMatrix (w : Work) (r : LRef) (d f : Reg) (ca cb : Quad) (cv : Nat) : Work :=
  let x := w.signerOf r d f ca cb
  let g := w.s.group r.1
  let b := w.s.block g.block
  let signed := (b.cv cv).sign 2 x.tidx
  let s := w.s.modBlock g.block fun b => b.setCv cv signed.1
  let (s, id) := match s.signing g.block cv with
    | some o => (s.modOp o.id fun o => { o with signers := o.signers ++ [x] }, o.id)
    | none =>
      let (s, id) := s.fresh
      let o : MxOp :=
        { id := id, ctx := g.ctx, block := g.block, core := b.core0, cv := cv, pc := w.l.pc, entry := (s.lane r).entry,
          signers := [x], phase := .signing }
      ({ s with ops := s.ops ++ [o] }, id)
  let s := (s.modLane r fun l => { l with sigs := tput cv (.matrix id) l.sigs }).setCrew r cv
  let w := { w with s := s }.park r (.signed cv)
  if signed.2 then
    let (s, ts) := w.s.vote id
    { w with s := s, traps := w.traps ++ ts }
  else w

/-- MX (R256, R270 to R273). A helper lane neither signs nor owns registers (R77). D names as many registers as the lane would
own, for the count of unstaged fields as for the bounds check (R270, R337). -/
def execMx (d f : Reg) (ca cb : Quad) (cv : BitVec 4) (s : State) : Host.Outcome State Fault Refusal :=
  withGather s fun w =>
    let range := fun (r : LRef) => rfld codeD d (s.accumulators r cv.toNat)
    let others := [rfld 8 f, qfld ca, qfld cb 32]
    let w := w.tally ((if w.strays range then 1 else 0) + w.unstaged others)
    let w := w.live.foldl (fun v r =>
      match boundsVerdict w (range r :: others) r with
      | some (k, x) => v.strike r k x
      | none => v) w
    (w.actors.foldl (fun w r =>
      match w.mxVerdict r f ca cb cv.toNat with
      | some (k, x) => w.strike r k x
      | none => w.signMatrix r d f ca cb cv.toNat) w).finish

/-! ### Waiting, zeroing, the baton -/

/-- MXWAIT (R278): the crew register is set; the lane waits for what it last signed on cvN, and goes on with an acquire
point (R226, R279). -/
def execMxwait (n : BitVec 6) (s : State) : Host.Outcome State Fault Refusal :=
  withGather s fun w =>
    let w := w.begin []
    (w.live.foldl (fun (w : Work) (r : LRef) =>
      let w : Work := { w with s := w.s.setCrew r n.toNat }
      match (tget n.toNat (w.s.lane r).sigs : Option Sig) with
      | some (.matrix op) =>
        if w.s.ops.any fun o => o.id == op then w.park r (.op op) else { w with s := w.s.acquires r blockScope }
      | some (.plain gen) =>
        if ((w.s.block (w.s.group r.1).block).cv n.toNat).gen = gen then w.park r (.plain n.toNat gen)
        else { w with s := w.s.acquires r blockScope }
      | some .passed => { w with s := w.s.acquires r blockScope }
      | none => w) w).finishPoint

/-- MXZERO (R278). -/
def execMxzero (d : Reg) (s : State) : Host.Outcome State Fault Refusal :=
  withGather s fun w =>
    let w := w.sources [rfld codeD d 16] none none none
    ((w.writeRegs codeD d.toNat fun _ _ => List.replicate 16 {}).zeroRegs codeD d.toNat 16).finish

/-- The crew of a lane: its block and its crew register (R280). -/
def State.crewOf (s : State) (r : LRef) : Nat × Nat := ((s.group r.1).block, (s.lane r).crew)

/-- BTAKE (R280). -/
def execBtake (s : State) : Host.Outcome State Fault Refusal :=
  withGather s fun w =>
    let w := w.begin []
    (w.actors.foldl (fun (w : Work) r =>
      let crew := w.s.crewOf r
      let core := (w.s.block crew.1).core0
      let w := { w with s := w.s.takeTicket core crew }
      if w.s.holdsBaton core crew then w else w.park r .baton) w).finishPoint

/-- BPASS (R280): each crew of the gather passes once.
Log: DEDUCED (entry 64). -/
def execBpass (s : State) : Host.Outcome State Fault Refusal :=
  withGather s fun w =>
    let w := w.begin []
    let crews := (w.actors.map w.s.crewOf).dedup
    { w with s := crews.foldl (fun (s : State) (crew : Nat × Nat) =>
        let core := (s.block crew.1).core0
        if s.holdsBaton core crew then s.removeTicket crew.1 crew.2 else s) w.s }.finish

/-! ### The engine -/

/-- MX_OPERAND_WAIT_END: engine `a` ends a stage of the operand wait of its head operation (R274). -/
def execMxOperandWaitEnd (s : State) : Host.Outcome State Fault Refusal :=
  .next (match s.engineHead s.ev.a with
    | some o => (s.operandStage o).getD s
    | none => s)

/-- MX_COMPUTE_END: engine `a` ends the compute of its head operation (R275, R276). -/
def execMxComputeEnd (s : State) : Host.Outcome State Fault Refusal :=
  .next (match s.engineHead s.ev.a with
    | some o =>
      match o.phase with
      | .computing a b => s.completeOp o a b
      | _ => s
    | none => s)

end Sys2Proof.Machine
end

