-- ==== Sys2Proof/Machine/Lnch.lean ====
section
/-!
DEFINITION. The LNCH instructions, major 0x30 (R232 to R242): launch records, frames, handles.
-/

namespace Sys2Proof.Machine

open Sys2Proof

/-! ### Handles -/

/-- The checks of R238 on a handle. -/
def State.handleVerdict (s : State) (ctx : Nat) (c : Cap) (poison : Bool) : Verdict :=
  if poison then some (0x0A, c.cursor)
  else if !c.tag then some (0x04, c.cursor)
  else if c.otype ≠ 2 ∨ c.cursor.toNat / 2 ^ 24 % 256 ≠ (s.ctx ctx).hdr.key.toNat then some (0x07, c.cursor)
  else none

/-- The live frame that a handle names (R238). -/
def Ctx.named (c : Ctx) (cursor : DWord) : Option Frame :=
  let k := cursor.toNat % 2 ^ 24
  if c.genOf k = hi32 cursor then c.frames.find? fun f => f.granule == k else none

/-- The handle of the frame at a granule (R238). -/
def Ctx.handleOf (c : Ctx) (granule : Nat) : Cap :=
  mkHandle (granule + c.hdr.key.toNat * 2 ^ 24 + (c.genOf granule).toNat * 2 ^ 32) 0 2

/-! ### Records -/

/-- A launch record read (R236). -/
structure LaunchRec where
  code : Cap
  ws : List PWord
deriving Repr

/-- A word of a record.
Log: DEDUCED (entry 69). -/
def LaunchRec.word (r : LaunchRec) (i : Nat) : Word := (r.ws.getD i {}).val

/-- The 32 bytes at cA, checked as one access and read by halves, each on its own page, or none when the lane has left the
gather (R239).
Log: DEDUCED (entry 69). -/
def Work.loadRecord (w : Work) (r : LRef) (c : Cap) (poison : Bool) : Work × Option LaunchRec :=
  let acc := fun (k n : Nat) => ({ cap := c, poison := poison, addr := c.cursor + BitVec.ofNat 64 k, size := n, align := 16,
                                   perms := [0, 2], kind := .read } : Acc)
  match w.whole r (acc 0 32) with
  | (w, false) => (w, none)
  | (w, true) =>
    match w.load r (acc 0 16) with
    | (w, none) => (w, none)
    | (w, some x) =>
      match w.load r (acc 16 16) with
      | (w, none) => (w, none)
      | (w, some y) => (w, some { code := capOfWords (x.words.map (·.val)) x.tag, ws := x.words ++ y.words })

/-- The fields of bytes 16 to 31 (Table 13.1). -/
def LaunchRec.dimx (r : LaunchRec) : Nat := (r.word 4).toNat
/-- Blocks in y. -/
def LaunchRec.dimy (r : LaunchRec) : Nat := field (r.word 5) 0 16
/-- Blocks in z. -/
def LaunchRec.dimz (r : LaunchRec) : Nat := field (r.word 5) 16 16
/-- Threads per block. -/
def LaunchRec.blksize (r : LaunchRec) : Nat := field (r.word 6) 0 12
/-- Group width. -/
def LaunchRec.width (r : LaunchRec) : Nat := 8 * 2 ^ field (r.word 6) 12 2
/-- Declared count. -/
def LaunchRec.regs (r : LaunchRec) : Nat := 8 * (field (r.word 6) 14 3 + 1)
/-- Lexical level. -/
def LaunchRec.level (r : LaunchRec) : Nat := field (r.word 6) 17 3
/-- Cooperative. -/
def LaunchRec.coop (r : LaunchRec) : Bool := field (r.word 6) 20 1 == 1
/-- Scratchpad lines. -/
def LaunchRec.lines (r : LaunchRec) : Nat := field (r.word 7) 0 16
/-- Frame granules asked for. -/
def LaunchRec.frame (r : LaunchRec) : Nat := field (r.word 7) 16 10
/-- Granules taken. -/
def LaunchRec.granules (r : LaunchRec) : Nat := max r.frame 1

/-- The child's code capability: the tagged quad, or the launcher's with its cursor moved, whose bounds stay (R236). -/
def LaunchRec.codeFor (r : LaunchRec) (l : Lane) : Cap :=
  if r.code.tag then r.code else l.code.at (l.entry + r.code.cursor)

/-- The grid of a record, launched by a lane of grid `p`. -/
def LaunchRec.grid (r : LaunchRec) (uid : Nat) (p : Grid) (l : Lane) (pred : Option Nat) : Grid :=
  { uid := uid, ctx := p.ctx, frame := 0, granules := r.granules, level := r.level, depth := p.depth + 1, display := [],
    code := r.codeFor l, anchor := if r.code.tag then r.code.cursor else l.anchor, dimx := r.dimx, dimy := r.dimy,
    dimz := r.dimz, blksize := r.blksize, width := r.width, regs := r.regs, lines := r.lines, coop := r.coop, parent := some p.uid, pred := pred }

/-- Reasons 1 to 7 of Table 13.3. -/
def LaunchRec.reason (r : LaunchRec) (p : Grid) (l : Lane) : Option Nat :=
  let c := r.code
  if if c.tag then c.otype ≠ 0 ∨ c.space ≠ 0 ∨ c.perm 5 = false else c.md ≠ 0 then some 1
  else if r.dimx = 0 ∨ r.dimy = 0 ∨ r.dimz = 0 ∨ 2 ^ 31 < r.dimx * r.dimy * r.dimz then some 2
  else if r.blksize = 0 ∨ 2048 < r.blksize ∨ field (r.word 6) 21 11 ≠ 0 then some 3
  else if !(r.grid 0 p l none).fits then some 4
  else if p.level + 1 < r.level then some 5
  else if 64 ≤ p.depth then some 6
  else if 512 < r.frame ∨ field (r.word 7) 26 6 ≠ 0 then some 7
  else none

/-! ### launch and launcha -/

/-- The queue for granules lets a lane take its run: it is empty, or the lane is its head (R240). -/
def State.mayTake (s : State) (ctx : Nat) (r : LRef) : Bool :=
  match s.granHead ctx with
  | none => true
  | some (gid, lane, _) => gid == r.1 && lane == r.2

/-- A lane waits for granules, keeping the place it has. -/
def Work.parkGranules (w : Work) (r : LRef) (ctx n : Nat) : Work :=
  { w with s := w.s.modCtx ctx fun c =>
      if c.granQ.any fun e => e.1 == r.1 && e.2.1 == r.2 then c else { c with granQ := c.granQ ++ [(r.1, r.2, n)] } }.park r .granules

/-- A lane leaves the queue for granules. -/
def State.leaveGranules (s : State) (ctx : Nat) (r : LRef) : State :=
  s.modCtx ctx fun c => { c with granQ := c.granQ.filter fun e => !(e.1 == r.1 && e.2.1 == r.2) }

/-- The grid is made with its frame at granule `k`, its bytes zeroed (R232, R233, R235). -/
def State.makeGrid (s : State) (g : Grid) (p : Grid) (k : Nat) : State × Grid :=
  let c := s.ctx g.ctx
  let inherited := p.display.take g.level
  let g := { g with frame := k, display := inherited ++ [c.frameCap k g.granules] }
  let parent := if g.level = 0 then none
    else (inherited[g.level - 1]?).map fun (d : Cap) => ((d.base - (c.hdr.poolbase.toNat : Int)) / 256).toNat
  (s.addFrame g.ctx k g.granules g.uid parent, g)

/-- The grid of a passing record starts (R239): a cooperative one from launch is placed at once, or nothing of it is left;
any other is queued. -/
def State.startGrid (s : State) (g : Grid) (p : Grid) (k : Nat) (now : Bool) : Option State :=
  let (t, g) := s.makeGrid g p k
  if g.coop && now then
    placeAll g.uid g.blocks { t with grids := t.grids ++ [{ g with state := .placed }] }
  else some (t.enqueueGrid g)

/-- One lane of launch or launcha, from its record on.
Log: DESIGN CHOICE (entry 154). -/
def Work.launchLane (w : Work) (r : LRef) (n : Nat) (c : Cap) (x : LaunchRec) (pred : Option Cap) : Work :=
  let l := w.s.lane r
  let grp := w.s.group r.1
  let p := w.s.grid grp.grid
  let ctx := w.s.ctx p.ctx
  let size := ctx.hdr.poolsize
  if x.ws.any (·.poison) then w.strike r 0x0A c.cursor
  else
    match x.reason p l with
    | some k => w.strike r 0x14 (BitVec.ofNat 64 k)
    | none =>
      if size < x.granules then w.strike r 0x13 (tdata (BitVec.ofNat 32 x.granules) (BitVec.ofNat 32 size))
      else
        match if w.s.mayTake p.ctx r then ctx.findRun x.granules else none with
        | none => w.parkGranules r p.ctx x.granules
        | some k =>
          let core := grp.coreOf
          match zeroGranules (some core) (dieOf core) ctx.hdr.asid x.granules w.s (ctx.granuleAt k) with
          | .fault s va fatal reason level => { w with s := s }.pageFault r (BitVec.ofNat 64 va) .write fatal reason level
          | .ok s =>
            let (s, uid) := (s.leaveGranules p.ctx r).fresh
            let before := pred.bind fun h => (ctx.named h.cursor).map (·.grid)
            match s.startGrid (x.grid uid p l before) p k pred.isNone with
            | none => { w with s := s }.strike r 0x14 8
            | some s => { w with s := s.wrCap r n ((s.ctx p.ctx).handleOf k) [] }

/-- launch and launcha (R239): helper lanes launch nothing and receive 0 (R237). -/
def launchOp (d a : Reg) (b : Option Reg) (s : State) : Host.Outcome State Fault Refusal :=
  withGather s fun w =>
    let w := w.sources ([rfld codeD d 4, rfld codeA a 4] ++ (b.map fun x => rfld codeB x 4).toList) none none none
    let w := w.actors.foldl (fun w r =>
      let na := w.quadA r a
      let nb := (b.map fun x => w.rnum r codeB x.toNat).getD 0
      let c := w.s.cap r na
      match w.loadRecord r c (w.s.quadPoison r na) with
      | (w, none) => w
      | (w, some x) =>
        let pred := b.map fun _ => w.s.cap r nb
        match pred.bind fun h => w.s.handleVerdict (w.s.group r.1).ctx h (w.s.quadPoison r nb) with
        | some (k, t) => w.strike r k t
        | none => w.launchLane r (w.rnum r codeD d.toNat) c x pred) w
    let helpers := w.live.filter fun r => (w.s.lane r).helper
    ({ w with s := helpers.foldl (fun s r => s.wrs r (w.rnum r codeD d.toNat) (List.replicate 4 {})) w.s }.zeroRegs
      codeD d.toNat 4).finish

/-- LAUNCH (R232 to R240). -/
def execLaunch (d a : Reg) (s : State) : Host.Outcome State Fault Refusal := launchOp d a none s

/-- LAUNCHA (R232 to R241). -/
def execLauncha (d a b : Reg) (s : State) : Host.Outcome State Fault Refusal := launchOp d a (some b) s

/-! ### join and jpoll -/

/-- The lanes whose handle passes. -/
def Work.checkHandles (w : Work) (a : Reg) : Work :=
  w.actors.foldl (fun v r =>
    match w.s.handleVerdict (w.s.group r.1).ctx (w.s.cap r (w.quadA r a)) (w.s.quadPoison r (w.quadA r a)) with
    | some (k, d) => v.strike r k d
    | none => v) w

/-- The frame that a lane's handle names. -/
def Work.namedBy (w : Work) (r : LRef) (a : Reg) : Option Frame :=
  (w.s.ctx (w.s.group r.1).ctx).named (w.s.cap r (w.quadA r a)).cursor

/-- A lane's handle names a grid that has completed, and did not fail: one whose frame is freed has completed (R238), and a
failed one's completion orders nothing (R243).
Log: DEDUCED (entry 116). -/
def Work.ordersBy (w : Work) (r : LRef) (a : Reg) : Bool :=
  match w.namedBy r a with
  | some f => f.done && !f.failed
  | none => !(w.s.ctx (w.s.group r.1).ctx).failedHandle (w.s.cap r (w.quadA r a)).cursor

/-- JOIN (R242): a lane that goes on makes an acquire point where the completion orders something (R243). -/
def execJoin (a : Reg) (s : State) : Host.Outcome State Fault Refusal :=
  withGather s fun w =>
    let w := (w.sources [rfld codeA a 4] none none none).checkHandles a
    (w.actors.foldl (fun v r =>
      match (w.namedBy r a).filter fun f => !f.done with
      | some f => v.park r (.grid f.grid)
      | none => if w.ordersBy r a then { v with s := v.s.acquires r deviceScope } else v) w).finishPoint

/-- The status word of Table 13.4.
Log: DEDUCED (entry 33). -/
def jpollWord (f : Option Frame) : Word :=
  match f with
  | some f => if f.done then (if f.failed then 3 else 1) else 0
  | none => 5

/-- JPOLL (R242): a helper lane receives 0 (R237). A lane that reads done as 1 of a grid that did not fail makes an acquire
point (R243). -/
def execJpoll (d : Dst) (a : Reg) (s : State) : Host.Outcome State Fault Refusal :=
  withGather s fun w =>
    let w := (w.sources (dstFlds d ++ [rfld codeA a 4]) (some d) none none).checkHandles a
    let done := fun (r : LRef) => !(w.s.lane r).helper && w.ordersBy r a
    let w := { w with s := (w.live.filter done).foldl (fun s r => s.acquires r deviceScope) w.s }
    (w.writeDst d fun s r => if (s.lane r).helper then {} else { val := jpollWord (w.namedBy r a) }).finish

end Sys2Proof.Machine
end

