-- ==== Sys2Proof/Machine/Task.lean ====
section
/-!
DEFINITION. The TASK instructions, major 0x31, and the events of bins and incumbents (R286 to R297).
-/

namespace Sys2Proof.Machine

open Sys2Proof

/-! ### nemit and bound -/

/-- A word read as f32 is a NaN. -/
def isNaN32 (w : Word) : Bool := match fval w with | .nan => true | _ => false

/-- Load the words of a record one after another.
Log: DEDUCED (entry 69). -/
def Work.loadWords (w : Work) (r : LRef) (c : Cap) : List Nat → List PWord → Work × Option (List PWord)
  | [], ws => (w, some ws)
  | k :: t, ws =>
    let x : Acc := { cap := c, poison := false, addr := c.cursor + BitVec.ofNat 64 (4 * k), size := 4, align := 4,
                     perms := [0], kind := .read }
    match w.load r x with
    | (w, none) => (w, none)
    | (w, some v) => Work.loadWords w r c t (ws ++ [v.word false])

/-- The record at cA: one access of `n` words with alignment 4, read word by word, each on its own page, or none when the lane has
left the gather (R292).
Log: DEDUCED (entry 69). -/
def Work.loadTask (w : Work) (r : LRef) (c : Cap) (poison : Bool) (n : Nat) : Work × Option (List PWord) :=
  let x : Acc := { cap := c, poison := poison, addr := c.cursor, size := 4 * n, align := 4, perms := [0], kind := .read }
  match w.whole r x with
  | (w, false) => (w, none)
  | (w, true) => w.loadWords r c (upto n) []

/-- A record goes to its bin on the issuing core's die, or its lane waits for room there (R292). -/
def Work.emit (w : Work) (r : LRef) (node : Nat) (rec' : List PWord) : Work :=
  let g := w.s.group r.1
  let die := dieOf g.coreOf
  if w.s.binBusy g.ctx die node then
    { w with s := w.s.modBin g.ctx die node fun b => { b with waiters := b.waiters ++ [r] } }.park r (.bin die node rec')
  else { w with s := w.s.binArrive g.ctx die node rec' }

/-- NEMIT (R292). -/
def execNemit (a b : Reg) (s : State) : Host.Outcome State Fault Refusal :=
  withGather s fun w =>
    let w := w.sources [rfld codeA a 4, rfld codeB b] none none none
    (w.actors.foldl (fun (w : Work) (r : LRef) =>
      let n := w.regOf r codeB b
      if n.poison then w.strike r 0x0A 0
      else
        match if 256 ≤ n.val.toNat then none else tget n.val.toNat (w.s.ctx (w.s.group r.1).ctx).nodes with
        | none => w.strike r 0x14 (tdata 9 n.val)
        | some node =>
          let na := w.quadA r a
          match w.loadTask r (w.s.cap r na) (w.s.quadPoison r na) (node.size / 4) with
          | (w, none) => w
          | (w, some rec') =>
            let k := rec'.headD {}
            if k.poison then w.strike r 0x0A 0
            else if isNaN32 k.val then w.strike r 0x12 (k.val.setWidth 64)
            else w.emit r n.val.toNat rec') w).finish

/-- BOUND (R292): the least bound of the lanes that pass becomes their group's. -/
def execBound (a : Reg) (s : State) : Host.Outcome State Fault Refusal :=
  withGather s fun w =>
    let w := w.sources [rfld codeA a] none none none
    let w := w.actors.foldl (fun v r =>
      let x := w.regOf r codeA a
      if x.poison then v.strike r 0x0A 0
      else if isNaN32 x.val then v.strike r 0x12 (x.val.setWidth 64)
      else v) w
    { w with s := (groupsOf w.live).foldl (fun s gid =>
        match (w.s.actual gid w.live).map fun r => (w.regOf r codeA a).val with
        | [] => s
        | x :: t => s.modGroup gid fun g => { g with bound := some (t.foldl fmin x) }) w.s }.finish

/-! ### Incumbents -/

/-- The device register that a slot of a context names, if it is granted (R288). -/
def State.slotReg (s : State) (ctx slot : Nat) : Option Nat := tget slot (s.ctx ctx).slots

/-- The home's key and tag of a device register (R289).
Log: DEDUCED (entry 8). -/
def State.home (s : State) (reg : Nat) : Word × Word := (tget reg s.incumbents).getD (0, 0)

/-- INCRD (R293). -/
def execIncrd (d a : Reg) (s : State) : Host.Outcome State Fault Refusal :=
  withGather s fun w =>
    let w := w.sources [rfld codeD d 2, rfld codeA a] none none none
    let regOf := fun (w : Work) (r : LRef) => w.s.slotReg (w.s.group r.1).ctx (w.regOf r codeA a).val.toNat
    let w := w.actors.foldl (fun v r =>
      let x := w.regOf r codeA a
      if x.poison then v.strike r 0x0A 0
      else if 16 ≤ x.val.toNat ∨ (regOf w r).isNone then v.strike r 0x15 (x.val.setWidth 64)
      else v) w
    ((w.writeRegs codeD d.toNat fun s r =>
      match if (s.lane r).helper then none else regOf w r with
      | some reg =>
        let x := s.replica (dieOf (s.group r.1).coreOf) reg
        [{ val := x.1 }, { val := x.2 }]
      | none => [{}, {}]).zeroRegs codeD d.toNat 2).finish

/-- An improvement at the home, on its way to every replica (R289, R294). -/
def State.improve (s : State) (reg : Nat) (key tag : Word) : State :=
  (upto 4).foldl (fun (s : State) die => s.modDie die fun d => { d with coming := d.coming ++ [(reg, key, tag)] })
    { s with incumbents := tput reg (key, tag) s.incumbents }

/-- INCIMP (R294): the lane reads the home, an acquire point (R295), and completes once every replica has what the home had. -/
def execIncimp (d a b : Reg) (s : State) : Host.Outcome State Fault Refusal :=
  withGather s fun w =>
    let w := w.sources [rfld codeD d, rfld codeA a 2, rfld codeB b] none none none
    let w := w.actors.foldl (fun (w : Work) (r : LRef) =>
      let n := w.rnum r codeA a.toNat
      let key := w.s.reg r n
      let tag := w.s.reg r (n + 1)
      let slot := w.regOf r codeB b
      if slot.poison || key.poison || tag.poison then w.strike r 0x0A 0
      else
        match if 16 ≤ slot.val.toNat then none else w.s.slotReg (w.s.group r.1).ctx slot.val.toNat with
        | none => w.strike r 0x15 (slot.val.setWidth 64)
        | some reg =>
          if isNaN32 key.val then w.strike r 0x12 (key.val.setWidth 64)
          else
            let better := fcmp .lt key.val (w.s.home reg).1 == 1
            let s := w.s.acquires r deviceScope
            let s := if better then s.improve reg key.val tag.val else s
            { w with
              s := s.modLane r fun l =>
                { l.dropHeld with status := .result (w.rnum r codeD d.toNat) (boolWord better) reg w.l.pc }
              live := w.live.filter fun x => !(x == r) }) w
    ((w.writeRegs codeD d.toNat fun _ _ => [{}]).zeroRegs codeD d.toNat 1).finish

/-! ### Events -/

/-- A group that an improvement on its die tests (R296): its node's kill bit is set, it has a bound, a lane of it is parked
at a blocking point, none is halted, and it is not saved. -/
def Group.testedBy (g : Group) (die ctx : Nat) : Bool :=
  !g.isK && !g.freed && !g.evicted && g.ctx == ctx && dieOf g.coreOf == die && g.taskKill && g.bound.isSome &&
  (g.lanes.any fun l => l.unexited && l.atBlocking) && !(g.lanes.any fun l => l.unexited && l.halted)

/-- What an improvement does to a context on the die that it reaches (R290, R296). -/
def State.reaches (s : State) (die ctx : Nat) : State :=
  let s := ((s.ctx ctx).bins.filter fun x => x.1 / 256 == die).foldl (fun (s : State) x => s.dropInBin ctx die (x.1 % 256)) s
  (s.groups.filter fun g => g.testedBy die ctx).foldl (fun (s : State) g => s.killPoint g.gid) s

/-- IMPROVEMENT_REACHES_DIE: die `a` applies the oldest improvement on its way (R289, R290). -/
def execImprovementReachesDie (s : State) : Host.Outcome State Fault Refusal :=
  let die := s.ev.a
  .next (match (s.die die).coming with
    | [] => s
    | (reg, key, tag) :: rest =>
      let s := s.modDie die fun d => { d with coming := rest, replicas := tput reg (key, tag) d.replicas }
      (s.ctxs.filter fun x => tget 0 x.2.slots == some reg).foldl (fun (s : State) x => s.reaches die x.1) s)

/-- BIN_TIMER_EXPIRY: the timer of the bin of node `c` of context `a` on die `b` expires (R287). A context that does not
run has its timers stopped (R298).
Log: DESIGN CHOICE (entry 15). -/
def execBinTimerExpiry (s : State) : Host.Outcome State Fault Refusal :=
  let b := (s.ctx s.ev.a).bin s.ev.b s.ev.c
  .next (if b.timer && !b.records.isEmpty && (s.ctx s.ev.a).phase == .running then
      (s.modBin s.ev.a s.ev.b s.ev.c fun x => { x with timer := false, expired := true }).launchDecision s.ev.a s.ev.b s.ev.c 300
    else s)

end Sys2Proof.Machine
end

