-- ==== Sys2Proof/Machine/Regn.lean ====
section
/-!
DEFINITION. The REGN instructions, major 0x32 (R299 to R306), and the events of regions on this device (R311).
-/

namespace Sys2Proof.Machine

open Sys2Proof

/-! ### Objects -/

/-- tdata of region misuse (R302). -/
def regData (reason : Nat) (cursor : DWord) : DWord := tdata (BitVec.ofNat 32 reason) (BitVec.ofNat 32 (cursor.toNat % 65536))

/-- The checks of R302. -/
def regVerdict (c : Cap) (poison : Bool) : Verdict :=
  if poison then some (0x0A, c.cursor)
  else if !c.tag then some (0x04, c.cursor)
  else if c.otype ≠ 1 then some (0x07, c.cursor)
  else none

/-- The lanes whose handle in A passes. -/
def Work.checkRegion (w : Work) (a : Reg) : Work :=
  w.actors.foldl (fun v r =>
    match regVerdict (w.s.cap r (w.quadA r a)) (w.s.quadPoison r (w.quadA r a)) with
    | some (k, d) => v.strike r k d
    | none => v) w

/-- The cursor of a lane's handle. -/
def Work.handleA (w : Work) (r : LRef) (a : Reg) : DWord := (w.s.cap r (w.quadA r a)).cursor

/-- The lowest region object of this device that is free. -/
def State.freeObject (s : State) : Option Nat := (upto 256).find? fun i => (s.region i).state == .free

/-- A handle's home is this device (Table 18.1).
Log: DEDUCED (entry 44). -/
def State.isHome (s : State) (cursor : DWord) : Bool := cursor.toNat / 256 % 256 == s.domid.toNat

/-- A reopen keeps the age of a handle: this device's, stale or aborted (R303).
Log: DEDUCED (entry 59). -/
def State.keepsAge (s : State) (c : Cap) : Bool :=
  c.tag && c.otype == 1 && s.isHome c.cursor &&
  match s.regionOf c.cursor with
  | some i => (s.region i).state == .aborted
  | none => true

/-- A member group has voted: one that is saved keeps its vote (R306, R309). -/
def State.hasVoted (s : State) (gid : Nat) : Bool :=
  let saved := s.images.flatMap (·.groups)
  match (s.groups ++ saved).find? fun g => g.gid == gid with
  | some g => match g.region with | some m => m.voted | none => true
  | none => true

/-- Every member of a region of this device has voted (R306). -/
def State.allVoted (s : State) (i : Nat) : Bool :=
  let r := s.region i
  (r.members.all fun g => s.hasVoted g) &&
  r.remote.all fun x => r.remoteVoted.contains x

/-- The commit decision of a region of this device (R311): one without members is committed and freed at once. -/
def State.decideRegion (s : State) (i : Nat) : State :=
  let r := s.region i
  if decide (i < 256) && r.state == .sealed && s.allVoted i then
    if r.members.isEmpty && r.remote.isEmpty then { s with regions := tdel i s.regions }
    else s.modRegion i fun x => { x with state := .committing }
  else s

/-! ### Instructions -/

/-- One lane's open (R303).
Log: DEDUCED (entry 59). -/
def Work.openLane (w : Work) (r : LRef) (n : Nat) (reopen : Bool) : Work :=
  match w.s.freeObject with
  | none => { w with s := w.s.wrCap r n {} [] }
  | some i =>
    let old := w.s.cap r n
    let keep := reopen && !w.s.quadPoison r n && w.s.keepsAge old
    let count := if keep then old.cursor.toNat / 65536 else w.s.openCount.toNat
    let ctx := (w.s.group r.1).ctx
    let s := w.s.modRegion i fun _ => { state := .opened, count := count, ctx := ctx }
    let s := if keep then s else { s with openCount := s.openCount + 1 }
    { w with s := s.wrCap r n (mkHandle (count * 65536 + s.domid.toNat * 256 + i) 0x80 1) [] }

/-- aropen: each active lane opens a region; helper lanes receive 0 (R301). -/
def openOp (d a : Reg) (s : State) : Host.Outcome State Fault Refusal :=
  withGather s fun w =>
    let w := w.sources [rfld codeD d 4, rfld codeA a] none none none
    let w := w.live.foldl (fun (w : Work) r =>
      let n := w.rnum r codeD d.toNat
      let x := w.regOf r codeA a
      if x.poison then w.strike r 0x0A 0
      else if (w.s.lane r).helper then { w with s := w.s.wrs r n (List.replicate 4 {}) }
      else w.openLane r n (x.val.getLsbD 0)) w
    (w.zeroRegs codeD d.toNat 4).finish

/-- AROPEN (R303), the lowest lane's reopen flag clear. -/
def execAropen (d a : Reg) (s : State) : Host.Outcome State Fault Refusal := openOp d a s

/-- AROPEN_REOPEN (R303), the lowest lane's reopen flag set.
Log: DEDUCED (entry 59). -/
def execAropenReopen (d a : Reg) (s : State) : Host.Outcome State Fault Refusal := openOp d a s

/-- The abort target that a lane's cB names, with where its bounds decode, or what is wrong with it (R304).
Log: DEDUCED (entry 58). -/
def Work.abortTarget (w : Work) (r : LRef) (b : Reg) : Except (Byte × DWord) (Cap × DWord) :=
  let n := w.rnum r codeB b.toNat
  let c := w.s.cap r n
  let l := w.s.lane r
  if w.s.quadPoison r n then .error (0x0A, c.cursor)
  else if c.tag then
    if c.otype ≠ 0 then .error (0x07, c.cursor)
    else if !c.perm 5 then .error (0x06, c.cursor)
    else .ok (c, c.cursor)
  else if c.md ≠ 0 then .error (0x04, c.cursor)
  else .ok (l.code.at (l.entry + c.cursor), l.anchor)

/-- The region that a join meets: an open one of this device, or of another home that has a route, as that home answers (R304,
R384).
Log: DESIGN CHOICE (entry 43). -/
def State.joinable (s : State) (cursor : DWord) : Option (State × Nat) :=
  match s.regionOf cursor with
  | some i => if (s.region i).state == .opened then some (s, i) else none
  | none =>
    if !s.isHome cursor && s.routes.contains (cursor.toNat / 256 % 256) && Config.remoteOpen s.steps cursor.toNat then
      let i := 256 + cursor.toNat
      some (s.modRegion i fun _ => { state := .opened, count := cursor.toNat / 65536 }, i)
    else none

/-- A group joins the region of a handle (R304), or the reason why not.
Log: DEDUCED (entry 44). -/
def State.joinRegion (s : State) (gid : Nat) (cursor : DWord) (target : Cap × DWord) : Except Nat State :=
  let g := s.group gid
  let mine := match g.region with | some m => m.handle == cursor | none => false
  if g.region.isSome && !mine then .error 2
  else
    match s.joinable cursor with
    | none => .error 1
    | some (s, i) =>
      if mine then .ok (s.modGroup gid fun g => { g with region := g.region.map fun m => { m with target := target.1, anchor := target.2 } })
      else
        let full := decide (4096 ≤ (s.region i).members.length + (s.region i).remote.length)
        let s := s.modGroup gid fun g => { g with region := some { handle := cursor, target := target.1, anchor := target.2 } }
        let s := s.modRegion i fun x => { x with members := x.members ++ [gid] }
        .ok (if full then s.abortRegion i 4 else s)

/-- ARJOIN (R302, R304): once for each group.
Log: DEDUCED (entry 58), DESIGN CHOICE (entry 159). -/
def execArjoin (a b : Reg) (s : State) : Host.Outcome State Fault Refusal :=
  withGather s fun w =>
    let w := (w.sources [rfld codeA a 4, rfld codeB b 4] none none none).checkRegion a
    ((groupsOf w.live).foldl (fun v gid =>
      let lanes := w.s.actual gid w.live
      match lanes with
      | [] => v
      | r :: t =>
        let h := w.handleA r a
        match w.abortTarget r b with
        | .error (k, d) => v.strikeAll lanes k d
        | .ok target =>
          if t.any fun x => w.handleA x a != h then lanes.foldl (fun v x => v.strike x 0x16 (regData 3 (w.handleA x a))) v
          else
            match v.s.joinRegion gid h target with
            | .ok s => { v with s := s }
            | .error n => v.strikeAll lanes 0x16 (regData n h)) w).finish

/-- ARSEAL (R305). -/
def execArseal (a : Reg) (s : State) : Host.Outcome State Fault Refusal :=
  withGather s fun w =>
    let w := (w.sources [rfld codeA a 4] none none none).checkRegion a
    { w with s := w.actors.foldl (fun (s : State) r =>
        match s.regionOf (w.handleA r a) with
        | some i =>
          if (s.region i).state == RegionState.opened then (s.modRegion i fun x => { x with state := RegionState.sealed }).decideRegion i else s
        | none => s) w.s }.finish

/-- Every unexited lane of a group that is no helper is parked at arvote (R306). -/
def Group.allAtVote (g : Group) : Bool :=
  g.lanes.all fun l => !l.unexited || l.helper || match l.status with | .parked .vote _ => true | _ => false

/-- A group votes if all its lanes are there (R306). -/
def State.voteGroup (s : State) (gid : Nat) : State :=
  match s.memberOf gid with
  | some i =>
    if (s.group gid).allAtVote then
      (s.modGroup gid fun g => { g with region := g.region.map fun m => { m with voted := true } }).decideRegion i
    else s
  | none => s

/-- ARVOTE (R302, R306). -/
def execArvote (a : Reg) (s : State) : Host.Outcome State Fault Refusal :=
  withGather s fun w =>
    let w := (w.sources [rfld codeA a 4] none none none).checkRegion a
    let gids := groupsOf w.live
    let w := w.actors.foldl (fun (w : Work) r =>
      let h := w.handleA r a
      let member := match (w.s.group r.1).region with | some m => m.handle == h | none => false
      if member then w.park r .vote else w.strike r 0x16 (regData 4 h)) w
    { w with s := gids.foldl State.voteGroup w.s }.finish

/-- ARABORT (R305). -/
def execArabort (a : Reg) (s : State) : Host.Outcome State Fault Refusal :=
  withGather s fun w =>
    let w := (w.sources [rfld codeA a 4] none none none).checkRegion a
    { w with s := w.actors.foldl (fun (s : State) r =>
        match s.regionOf (w.handleA r a) with
        | some i => s.abortRegion i 1
        | none => s) w.s }.finish

/-- The code of a state (Table 18.2). -/
def RegionState.code : RegionState → Nat
  | .free => 0
  | .opened => 1
  | .sealed => 2
  | .committing => 3
  | .committed => 4
  | .aborted => 5

/-- What arstat reads of a region of another home but for the group's own bits (Table 18.5): the state is what is held here
of a joined region, and else one that the home answers, as are the members, and the reason of an abort.
Log: DESIGN CHOICE (entry 43). -/
def State.farStat (s : State) (cursor : DWord) : Nat :=
  let x := (Config.remoteStat s.steps cursor.toNat).toNat
  let here := (s.regionOf cursor).map s.region
  let state := match here with
    | some r => r.state.code
    | none => x % 6
  let reason := match here with
    | some r => r.reason.toNat
    | none => 1 + x / 8 % 8
  if state = 0 then 0
  else x / 2 ^ 16 % 4097 * 2 ^ 16 + (if state = 5 then reason * 256 else 0) + state

/-- The word of Table 18.5 for a group.
Log: DESIGN CHOICE (entry 43). -/
def State.statWord (s : State) (gid : Nat) (cursor : DWord) : Word :=
  let own := match (s.group gid).region with
    | some m => if m.handle = cursor then (if m.voted then 24 else 8) else 0
    | none => 0
  if s.isHome cursor then
    match s.regionOf cursor with
    | none => 0
    | some i =>
      let r := s.region i
      BitVec.ofNat 32 ((r.members.length + r.remote.length) * 2 ^ 16 +
        (if r.state == .aborted then r.reason.toNat * 256 else 0) + own + r.state.code)
  else BitVec.ofNat 32 (s.farStat cursor) ||| BitVec.ofNat 32 own

/-- ARSTAT (R302, R305): a helper lane receives 0. -/
def execArstat (d a : Reg) (s : State) : Host.Outcome State Fault Refusal :=
  withGather s fun w =>
    let w := (w.sources [rfld codeD d, rfld codeA a 4] none none none).checkRegion a
    (w.writeDst (.reg d) fun s r => if (s.lane r).helper then {} else { val := s.statWord r.1 (w.handleA r a) }).finish

/-! ### Events -/

/-- REGION_INSTALL_COMPLETE: region `a` has installed its records and is committed, which is a commit point of its member
groups (R208, R311). -/
def execRegionInstallComplete (s : State) : Host.Outcome State Fault Refusal := .next (s.finishInstall s.ev.a)

/-- A lane is delivered to its region's abort target (R311). The membership ends with its group's last lane, as the step
closes.
Log: DEDUCED (entry 29). -/
def State.deliverAbort (s : State) (r : LRef) (reason : Byte) : State :=
  match (s.group r.1).region with
  | none => s
  | some m =>
    let s := s.modLane r fun l =>
      { l.dropHeld with
        status := .ready, code := m.target, anchor := m.anchor, passed := false, arreason := reason.setWidth 32, loop := none, async := l.async.tail
        pendReplay := false, heldBack := false, stepOver := false, returned := [], token := none }
    s.modGroup r.1 fun g => { g with recs := List.replicate 8 {} }

/-- A lane stands at an instruction boundary where something pending may act.
Log: DEDUCED (entries 32, 161). -/
def Lane.atBoundary (l : Lane) : Bool := l.unexited && !l.halted && !l.awaitsResult && !l.midway

/-- A kill may end the lane (R297): what an instruction under way still has to deliver goes with it.
Log: DESIGN CHOICE (entry 43). -/
def Lane.mayEnd (l : Lane) : Bool := l.unexited && !l.halted && !l.awaitsResult

/-- REGION_ABORT_DELIVERY: lane `b` of group `a` goes to its abort target (R311). -/
def execRegionAbortDelivery (s : State) : Host.Outcome State Fault Refusal :=
  let r : LRef := (s.ev.a, s.ev.b)
  let l := s.lane r
  .next (match l.async with
    | .region reason :: _ => if l.atBoundary then s.deliverAbort r reason else s
    | _ => s)

/-- ASYNC_TRAP_DELIVERY: lane `b` of group `a` takes its engine fault or engine reset (R325, R327). -/
def execAsyncTrapDelivery (s : State) : Host.Outcome State Fault Refusal :=
  let r : LRef := (s.ev.a, s.ev.b)
  let l := s.lane r
  .next (match l.async with
    | .engine cause lo hi :: rest =>
      if l.atBoundary then
        (s.modLane r fun l => { l with async := rest }).handle (s.group r.1).ctx
          [{ lane := r, cause := cause, pc := l.pc, data := tdata lo hi, seq := lo }]
      else s
    | _ => s)

/-- KILL_TAKES_EFFECT: a killed lane `b` of group `a` ends at its next instruction boundary; its group is counted once and its speculative atomics, those of
lanes that have exited too, are discarded (R208, R297). -/
def execKillTakesEffect (s : State) : Host.Outcome State Fault Refusal :=
  let r : LRef := (s.ev.a, s.ev.b)
  let g := s.group r.1
  .next (if (s.lane r).kill && (s.lane r).mayEnd then
      let s := if g.killed then s
        else (s.modGroup r.1 fun g => { g with killed := true, spec := [] }).modCtx g.ctx fun c => { c with kills := c.kills + 1 }
      s.exitLane r true
    else s)

end Sys2Proof.Machine
end

