-- ==== Sys2Proof/Machine/Sys.lean ====
section
/-!
DEFINITION. The SYS instructions that every core has, and rgn (R16, R17, R154 to R157, R162, R163, R202, R203, R336, R337,
R356).
-/

namespace Sys2Proof.Machine

open Sys2Proof

/-! ### Reading special registers -/

/-- The dimensions of a block's index, x varying fastest (R80). -/
def Grid.coord (g : Grid) (index : Nat) (axis : Nat) : Nat :=
  match axis with
  | 0 => index % max g.dimx 1
  | 1 => index / max g.dimx 1 % max g.dimy 1
  | _ => index / (max g.dimx 1 * max g.dimy 1)

/-- A thread's 64-bit cycle (R163, R354).
Log: DESIGN CHOICE (entry 7), DEDUCED (entry 103). -/
def State.cycle (s : State) (r : LRef) : DWord :=
  match (s.group r.1).agent with
  | .core c => (s.core c).cycles + (s.lane r).cycOff
  | .kcore k => (s.kcore k).cycles

/-- The registers that are state of a thread or of its group, ids 0x10 to 0x27 (Table 9.3). -/
def State.threadSpecial (s : State) (r : LRef) (id : Nat) : Word :=
  let g := s.group r.1
  let l := s.lane r
  match id with
  | 0x10 => lo32 (s.cycle r)
  | 0x11 => lo32 (s.cycle r)
  | 0x12 => hi32 (s.cycle r)
  | 0x13 => g.engseq
  | 0x14 => s.engdone r.1
  | 0x15 => l.tiletag
  | 0x16 => l.x0
  | 0x17 => l.x1
  | 0x18 => l.x2
  | 0x19 => l.x3
  | 0x1A => g.nrec
  | 0x1B => g.nodeid
  | 0x1C => l.tvec
  | 0x1D => l.tcause
  | 0x1E => lo32 l.tpc
  | 0x1F => hi32 l.tpc
  | 0x20 => lo32 l.tdata
  | 0x21 => hi32 l.tdata
  | 0x22 => l.arreason
  | 0x23 => l.chflags
  | 0x24 => BitVec.ofNat 32 g.regs
  | 0x25 => lo32 g.csum
  | 0x26 => hi32 g.csum
  | _ => g.bound.getD nanWord

/-- The registers of position and launch, ids 0x00 to 0x0F (Tables 5.1, 9.3, 1.6). -/
def State.placeSpecial (s : State) (r : LRef) (id : Nat) : Word :=
  let g := s.group r.1
  let d := s.grid g.grid
  let b := (s.block g.block).index
  BitVec.ofNat 32 (match id with
    | 0x00 => r.2
    | 0x01 => r.2 % 4
    | 0x02 => g.width
    | 0x03 => g.gidx
    | 0x04 => g.tidx r.2
    | 0x05 => d.coord b 0
    | 0x06 => d.coord b 1
    | 0x07 => d.coord b 2
    | 0x08 => d.dimx
    | 0x09 => d.dimy
    | 0x0A => d.dimz
    | 0x0B => d.blksize
    | 0x0C => g.coreOf
    | 0x0D => dieOf g.coreOf
    | 0x0E => s.derate % 8 * 256 + (fusedEntry g.coreOf) % 32
    | _ => d.level)

/-- kstat (Table 21.2). -/
def State.kstat (s : State) : Word :=
  let c := s.complex
  let retired := s.kcores.foldl (fun m x => if x.2.status == .retired then mset m x.1 else m) 0
  BitVec.ofNat 32 (c.cause.toNat * 2 ^ 24 + c.crashes % 16 * 2 ^ 20 + (if c.handover then 2 ^ 17 else 0) +
    (if c.warm then 2 ^ 16 else 0) + retired % 4096)

/-- A complex special register (Table 21.1); none where the table lists no such id.
Log: DESIGN CHOICE (entry 42). -/
def State.complexSpecial (s : State) (k id : Nat) : Option Word :=
  let c := s.complex
  if 0x48 ≤ id ∧ id ≤ 0x57 then
    some (match tget (id - 0x48) c.ktimers with
      | some n => n - BitVec.ofNat 32 (Config.timerRun s.steps (id - 0x48) % max n.toNat 1)
      | none => 0)
  else
    match id with
    | 0x40 => some (BitVec.ofNat 32 k)
    | 0x41 => some s.kstat
    | 0x42 => some c.wdog
    | 0x43 => some (lo32 c.pstab)
    | 0x44 => some (hi32 c.pstab)
    | 0x45 => some (lo32 c.fwimg)
    | 0x46 => some (hi32 c.fwimg)
    | 0x58 => some (BitVec.ofNat 32 (min eventLimit s.eventQ.length))
    | _ => none

/-- What srd reads of id in a lane; none where the id is illegal on its core (R44, R356).
Log: DESIGN CHOICE (entry 42). -/
def State.special (s : State) (r : LRef) (id : Nat) : Option Word :=
  match (s.group r.1).agent with
  | .core _ => if id < 0x10 then some (s.placeSpecial r id) else if id < 0x28 then some (s.threadSpecial r id) else none
  | .kcore k =>
    if 0x40 ≤ id then s.complexSpecial k id
    else if id < 0x05 then some (s.placeSpecial r id)
    else if id < 0x10 then some (Config.kolesqueSpecial k id)
    else if id < 0x28 then some (s.threadSpecial r id)
    else none

/-- An id of the complex is a privilege fault on a compute core (R44, R356).
Log: DESIGN CHOICE (entry 42). -/
def Work.foreignId (w : Work) (id : Nat) : Bool :=
  match w.l.agent with
  | .core _ => decide (0x40 ≤ id) && decide (id < 0x80)
  | .kcore _ => false

/-- Strike every lane with the illegal instruction of an id that Table 9.3 or 21.1 does not allow (R44, R45, R356).
Log: DESIGN CHOICE (entry 42). -/
def Work.illegalId (w : Work) : Work :=
  w.strikeAll w.live 0x01 (tdata w.l.word (lo32 ((w.l.pc - w.l.start) >>> 2)))

/-- A word that traps in every lane writes 0 to a destination register of the helper lanes (R77). -/
def Work.zeroDst (w : Work) (d : Dst) : Work :=
  match d with
  | .reg n => w.zeroRegs codeD n.toNat 1
  | .push _ => w

/-- SRD (R162): any special register; cycle into a register pair. -/
def execSrd (d : Dst) (id : BitVec 8) (s : State) : Host.Outcome State Fault Refusal :=
  withGather s fun w =>
    if w.foreignId id.toNat then ((w.strikeAll w.live 0x15 (w.l.word.setWidth 64)).zeroDst d).finish
    else if w.live.any fun r => (w.s.special r id.toNat).isNone then (w.illegalId.zeroDst d).finish
    else if id = 0x10 then
      let n := dstReg d
      let w := w.sources [rfld codeD n 2] none none none
      ((w.writeRegs codeD n.toNat fun s r => plainWords [lo32 (s.cycle r), hi32 (s.cycle r)]).zeroRegs codeD n.toNat 2).finish
    else
      let w := w.sources (dstFlds d) (some d) none none
      (w.writeDst d fun s r => { val := (s.special r id.toNat).getD 0 }).finish

/-! ### Writing special registers -/

/-- Write a special register of a thread (Table 9.3); reserved bits read 0 (R4). -/
def Lane.setSpecial (l : Lane) (id : Nat) (v : Word) : Lane :=
  match id with
  | 0x15 => { l with tiletag := v }
  | 0x16 => { l with x0 := v }
  | 0x17 => { l with x1 := v }
  | 0x18 => { l with x2 := v }
  | 0x19 => { l with x3 := v }
  | 0x1C => { l with tvec := v }
  | 0x1D => { l with tcause := v &&& 0xFF }
  | 0x1E => { l with tpc := pair64 (hi32 l.tpc) v }
  | 0x1F => { l with tpc := pair64 v (lo32 l.tpc) }
  | 0x20 => { l with tdata := pair64 (hi32 l.tdata) v }
  | 0x21 => { l with tdata := pair64 v (lo32 l.tdata) }
  | 0x23 => { l with chflags := v &&& 1 }
  | _ => l

/-- Write a complex special register (Table 21.1); none where it is read-only or not listed. -/
def State.setComplex (s : State) (id : Nat) (v : Word) : Option State :=
  let c := s.complex
  if 0x48 ≤ id ∧ id ≤ 0x57 then
    let k := id - 0x48
    some { s with complex := { c with ktimers := if v = 0 then tdel k c.ktimers else tput k v c.ktimers } }
  else
    match id with
    | 0x42 => some { s with complex := { c with wdog := v } }
    | 0x43 => some { s with complex := { c with pstab := pair64 (hi32 c.pstab) v } }
    | 0x44 => some { s with complex := { c with pstab := pair64 v (lo32 c.pstab) } }
    | _ => none

/-- SWR (R44, R162, R356). -/
def execSwr (id : BitVec 8) (a : Src) (s : State) : Host.Outcome State Fault Refusal :=
  withGather s fun w =>
    if w.foreignId id.toNat then (w.strikeAll w.live 0x15 (w.l.word.setWidth 64)).finish
    else if !swrIdOk id || (decide (0x40 ≤ id.toNat) && (w.s.setComplex id.toNat 0).isNone) then w.illegalId.finish
    else
      let w := w.sources (srcFlds a codeA) none (some a) none
      let w := w.live.foldl (fun v r => if (w.src r codeA a).poison then v.strike r 0x0A 0 else v) w
      { w with s := w.live.foldl (fun (s : State) r =>
          let v := (w.src r codeA a).val
          if 0x40 ≤ id.toNat then (s.setComplex id.toNat v).getD s else s.modLane r fun l => l.setSpecial id.toNat v) w.s }.finish

/-! ### Fences, marks, counters, halt -/

/-- FENCE (R202): one lane's instruction runs at a time, so every ordering the fence asks for holds already; all kinds but
rel are acquire points (R188).
Log: DESIGN CHOICE (entry 14). -/
def execFence (kind : BitVec 2) (scope : BitVec 3) (s : State) : Host.Outcome State Fault Refusal :=
  withGather s fun w => ((w.begin []).acquireAll (!(kind == 1)) scope.toNat).finish

/-- FENCEOP (R203): as a fence.
Log: DESIGN CHOICE (entry 14). -/
def execFenceop (s : State) : Host.Outcome State Fault Refusal := withGather s fun w => (w.begin []).finish

/-- Append an entry to a context's trace ring (R336, R386): a lost one still advances the count.
Log: DEDUCED (entries 103, 104). -/
def State.trace (s : State) (gid : Nat) (pc : DWord) (mark : Nat) : State :=
  let g := s.group gid
  let h := (s.ctx g.ctx).hdr
  if h.tracesize < 16 then s
  else
    let slot := h.tracewritten.toNat % (h.tracesize / 16)
    let entry := leBytes 8 pc.toNat ++
      leBytes 4 (mark % 256 + g.coreOf % 256 * 256 + g.gidx % 65536 * 65536) ++ leBytes 4 (s.clock g.coreOf).toNat
    let t := (s.quietWrite g.ctx g.coreOf (h.tracebase.toNat + 16 * slot) entry).getD s
    t.modCtx g.ctx fun c => { c with hdr := { c.hdr with tracewritten := c.hdr.tracewritten + 1 } }

/-- DBGMARK (R336): nothing for a group whose active lanes are all helpers (R77). -/
def execDbgmark (mark : BitVec 8) (s : State) : Host.Outcome State Fault Refusal :=
  withGather s fun w =>
    let w := w.begin []
    { w with s := (groupsOf w.actors).foldl (fun (s : State) gid => s.trace gid w.l.pc mark.toNat) w.s }.finish

/-- PERF (R336, R337).
Log: DEDUCED (entry 72). -/
def execPerf (d : Dst) (id : BitVec 8) (s : State) : Host.Outcome State Fault Refusal :=
  withGather s fun w =>
    let w := w.sources (dstFlds d) (some d) none none
    (w.writeDst d fun s r => { val := (s.ctx (s.group r.1).ctx).hdr.perf.getD id.toNat 0 }).finish

/-- HALT (R336): the lanes go past the word, then the context halts; a program-halt event names the issuing group.
Log: DEDUCED (entry 67). -/
def execHalt (s : State) : Host.Outcome State Fault Refusal :=
  withGather s fun w =>
    let w := w.begin []
    match w.live with
    | [] => w.finish
    | r :: _ =>
      let g := w.s.group r.1
      let w := w.advance
      let s := w.s
      let place := BitVec.ofNat 32 ((s.block g.block).index % 65536 * 65536 + g.gidx % 65536)
      let s := if (s.ctx g.ctx).phase == .running || (s.ctx g.ctx).phase == .saving then (s.haltCtx g.ctx .program).event 0x04 (BitVec.ofNat 32 g.ctx) place else s
      { w with s := s }.done

/-! ### rgn -/

/-- The words of quads that an rgn marks are short-lived, written since their birth or not (R150, R154).
Log: DESIGN CHOICE (entry 124). -/
def Lane.marked (l : Lane) (quads : List Nat) : Lane :=
  { l with unwritten := quads.foldl (fun m q => m &&& ~~~(0xF#64 <<< (4 * q))) l.unwritten }

/-- The map, base and short-lived bits that an rgn leaves (R154). -/
def Row.setRegion (r : Row) (quads : List Quad) (sl : BitVec 4) (pc : DWord) : Row :=
  { r with
    map := quads
    base := pc
    sl := ((upto quads.length).zip quads).foldl (fun (m : BitVec 16) x =>
      if sl.getLsbD x.1 then m ||| (1#16 <<< x.2.toNat) else m &&& ~~~(1#16 <<< x.2.toNat)) r.sl }

/-- RGN (R154, R155): where the row holds a slot it is a blocking point that passes. -/
def execRgn (cnt : BitVec 2) (q0 q1 q2 q3 : Quad) (sl : BitVec 4) (s : State) : Host.Outcome State Fault Refusal :=
  withGather s fun w =>
    let quads := [q0, q1, q2, q3].take (cnt.toNat + 1)
    let flds := ((upto quads.length).zip quads).map fun x => qfld x.2 (64 + x.1)
    let w := w.bounds flds
    match w.live, w.l.agent with
    | [], _ => w.finish
    | _, .kcore _ => w.finish
    | _, .core core =>
      let row := w.l.row
      let s := if (w.s.row core row).slot.isSome then w.s else (w.s.obtainSlot core row).getD w.s
      if (s.row core row).slot.isNone then
        let now := (s.core core).cycles.toNat
        let s := s.modRow core row fun r => { r with rgnSince := some (r.rgnSince.getD now) }
        (w.live.foldl (fun (w : Work) r => w.park r .window) { w with s := s }).finish
      else
        let short := (((upto quads.length).zip quads).filter fun x => sl.getLsbD x.1).map fun x => x.2.toNat
        let s := s.onRow core row fun who l => (l.refreshQuads s.steps who (quads.map (·.toNat))).marked short
        { w with s := s.modRow core row fun r => r.setRegion quads sl w.l.pc }.finishPassing

/-- WINDOW_SLOT_AGE_GRANT: row `b` of core `a` has waited 2^16 cycles and takes the slot of the holder that issued least
recently (R155).
Log: DEDUCED (entry 71). -/
def execWindowSlotAgeGrant (s : State) : Host.Outcome State Fault Refusal :=
  let core := s.ev.a
  let row := s.ev.b
  let holders := (s.core core).rows.filter fun x => x.2.slot.isSome
  .next (match s.slotOverdue core == some row, holders with
    | true, h :: t =>
      let v := t.foldl earlier h
      match v.2.slot with
      | some k => s.giveSlot core row k (some v.1)
      | none => s
    | _, _ => s)

/-- SHORT_LIVED_EXPIRY: register `c` of lane `b` of group `a` is past its 10 us (R157), if its quad is short-lived and not
staged, and it does not stand as birth left it (R150). The words of a row that is halted or saved are refreshed (R158).
Log: DESIGN CHOICE (entry 124). -/
def execShortLivedExpiry (s : State) : Host.Outcome State Fault Refusal :=
  let g := s.group s.ev.a
  let row := s.row g.coreOf g.row
  let q := s.ev.c / 4
  let l := s.lane (s.ev.a, s.ev.b)
  .next (if !g.isK && !g.freed && !g.evicted && row.sl.getLsbD q && !(row.map.any fun x => x.toNat == q) && !l.halted &&
        !l.unwritten.getLsbD s.ev.c then
      s.modLane (s.ev.a, s.ev.b) fun l => { l with stale := if l.stale.contains s.ev.c then l.stale else s.ev.c :: l.stale }
    else s)

/-- ILLEGAL_INSTRUCTION: a fetched word that is illegal strikes every active lane (R34, R45); the step that fetched it
gives its offset and the word.
Log: DESIGN CHOICE (entry 120). -/
def execIllegalInstruction (s : State) : Host.Outcome State Fault Refusal :=
  withGather s fun w =>
    ((w.begin []).strikeAll w.live 0x01 (tdata (lo32 s.ev.value) (BitVec.ofNat 32 s.ev.a))).done

end Sys2Proof.Machine
end

