-- ==== Sys2Proof/Machine/Save.lean ====
section
/-!
DEFINITION. Context images written: the header (Table 20.5), the sections (Table 20.6, R345, R387), the fault record (R348),
the check (R343), the dump of R349, and the pre-emption save of R338.
-/

namespace Sys2Proof.Machine

open Sys2Proof

/-- Bytes padded with zeros to a length. -/
def padTo (n : Nat) (bs : List Byte) : List Byte := bs ++ List.replicate (n - bs.length) 0

/-- A mask of the numbers below `n` that satisfy a test. -/
def maskOf (n : Nat) (p : Nat → Bool) : Nat := (upto n).foldl (fun m i => if p i then m + 2 ^ i else m) 0

/-! ### Group order (R345) -/

/-- The first granule of a grid's frame. -/
def State.frameOf (s : State) (g : Group) : Nat := (s.grid g.grid).frame

/-- The linear index of a group's block. -/
def State.indexOf (s : State) (g : Group) : Nat := (s.block g.block).index

/-- The groups of a context, in group order. -/
def State.imageGroups (s : State) (ctx : Nat) : List Group :=
  let key := fun (g : Group) => (s.frameOf g * 2 ^ 32 + s.indexOf g) * 2 ^ 16 + g.gidx
  sortBy (fun a b => decide (key a < key b)) (s.groups.filter fun g => !g.isK && g.ctx == ctx)

/-- The distinct entries of a list, each where it first stands. -/
def firsts {α : Type} [BEq α] (l : List α) : List α := l.foldl (fun t x => if t.contains x then t else t ++ [x]) []

/-- The rows of an image, as core and row, in the order of their lowest group. A group that is restored and not placed yet
stands for a row of its own. -/
def imageRows (gs : List Group) : List (Agent × Nat × Nat) :=
  firsts ((gs.filter fun g => !g.freed).map fun g => (g.agent, g.row, if g.saved.isSome then g.gid + 1 else 0))

/-- The blocks of an image, in the order of their first group. -/
def State.imageBlocks (s : State) (gs : List Group) : List Block := (firsts (gs.map (·.block))).map s.block

/-! ### Lane and group records (R345) -/

/-- The row of Table 5.3 that a wait is. -/
def Wait.row : Wait → Nat
  | .bar _ _ => 1
  | .gbar _ => 2
  | .push _ _ _ _ _ => 3
  | .pop _ _ _ _ _ _ => 4
  | .line _ _ => 5
  | .remote _ => 6
  | .window => 7
  | .op _ => 9
  | .plain _ _ => 9
  | .copies _ => 10
  | .baton => 11
  | .grid _ => 12
  | .vote => 13
  | .granules => 14
  | .bin _ _ _ => 15
  | .replay _ _ => 0
  | .faultQueue _ => 0
  | .signed _ => 0
  | .event => 0
  | .lock _ => 0

/-- The state code of a lane record, and its wait kind. -/
def Lane.code' (l : Lane) : Nat × Nat :=
  match l.status with
  | .ready => (if l.inHandler then 3 else 0, 0)
  | .parked (.signed _) _ => (2, 0)
  | .parked w _ => (1, w.row)
  | .held _ => (2, 0)
  | .result _ _ _ _ => (1, 0)
  | .faulted => (4, 0)
  | .exited => (if l.helper then 6 else 5, 0)
  | .empty => (6, 0)

/-- The state word.
Log: DEDUCED (entry 79). -/
def Lane.stateWord (l : Lane) : Nat :=
  let c := l.code'
  c.1 + c.2 * 2 ^ 4 + (if l.inHandler then 2 ^ 8 else 0) + (if l.pendReplay then 2 ^ 9 else 0) +
  (if l.loop.isSome then 2 ^ 10 else 0) + (if l.async.isEmpty then 0 else 2 ^ 11) + (if l.code.tag then 2 ^ 31 else 0)

/-- A loop state in 48 bytes. -/
def loopBytes (lp : Option Loop) : List Byte :=
  match lp with
  | none => List.replicate 48 0
  | some x =>
    padTo 48 (leBytes 4 x.n.toNat ++ leBytes 4 x.p.toNat ++ leBytes 4 x.i ++ leBytes 4 x.len ++
      (x.steps.take 8).flatMap fun p => leBytes 4 p.toNat)

/-- A window map in 4 bytes (R387). -/
def mapBytes (m : List Quad) : List Byte := padTo 4 ((m.take 4).map fun q => BitVec.ofNat 8 (128 + q.toNat))

/-- A thread's cycle value at the stop (R352): of one restored and not placed yet, the value it was saved with.
Log: DEDUCED (entry 103). -/
def State.cycleAt (s : State) (g : Group) (l : Lane) : DWord :=
  l.stopped.getD (if g.saved.isSome then l.cycOff else (s.core g.coreOf).cycles + l.cycOff)

/-- A lane record.
Log: DESIGN CHOICE (entry 45). -/
def State.laneBytes (s : State) (rows : List (Agent × Nat × Nat)) (g : Group) (k : Nat) (l : Lane) : List Byte :=
  let who := g.gid * 64 + k
  let waits := l.code'.1 == 1 || l.code'.1 == 2
  let row := (rows.idxOf? (g.agent, g.row, if g.saved.isSome then g.gid + 1 else 0)).getD 0
  if l.status == .empty then padTo 256 (List.replicate 16 0 ++ leBytes 4 6)
  else
    padTo 256 (l.code.bytes ++ leBytes 4 l.stateWord ++
      leBytes 4 (if waits then (Config.waitData s.steps who).toNat else 0) ++
      leBytes 8 (if waits then (Config.waitAddr s.steps who).toNat else 0) ++
      leBytes 4 l.tvec.toNat ++ leBytes 4 l.tcause.toNat ++ leBytes 8 l.tpc.toNat ++ leBytes 8 l.tdata.toNat ++
      leBytes 4 l.x0.toNat ++ leBytes 4 l.x1.toNat ++ leBytes 4 l.x2.toNat ++ leBytes 4 l.x3.toNat ++
      leBytes 4 l.tiletag.toNat ++ leBytes 4 l.chflags.toNat ++ leBytes 4 l.arreason.toNat ++ leBytes 4 l.crew ++
      leBytes 8 l.entry.toNat ++ loopBytes l.loop ++ loopBytes l.shadow.loop ++ mapBytes l.shadow.map ++
      leBytes 8 (s.cycleAt g l).toNat ++ leBytes 4 row ++
      leBytes 4 (l.heldA.getD {}).val.toNat ++ leBytes 4 (l.heldB.getD {}).val.toNat ++
      leBytes 4 ((if l.heldA.isSome then 1 else 0) + if l.heldB.isSome then 2 else 0))

/-- The width code. -/
def widthCode (w : Nat) : Nat := if w ≤ 8 then 0 else if w ≤ 16 then 1 else if w ≤ 32 then 2 else 3

/-- A group record: the head and the lane records.
Log: DESIGN CHOICE (entry 160). -/
def State.groupBytes (s : State) (rows : List (Agent × Nat × Nat)) (g : Group) : List Byte :=
  let task := (s.grid g.grid).task.isSome
  let flags := (if g.bound.isSome then 1 else 0) + (if g.region.isSome then 2 else 0) +
    (match g.region with | some m => if m.voted then 4 else 0 | none => 0) + (if task then 8 else 0) +
    g.nrec.toNat % 256 * 2 ^ 8 + (if task then g.nodeid.toNat % 256 * 2 ^ 16 else 0)
  let head := leBytes 4 (s.frameOf g) ++ leBytes 4 (s.indexOf g) ++
    leBytes 4 (g.gidx % 65536 + widthCode g.width * 2 ^ 16 + (g.regs / 8 - 1) % 8 * 2 ^ 18) ++
    leBytes 4 (s.grid g.grid).blksize ++ leBytes 4 g.engseq.toNat ++ leBytes 4 (s.engdone g.gid).toNat ++
    leBytes 4 (g.bound.getD nanWord).toNat ++ leBytes 4 flags ++
    (match g.region with
      | some m => (mkHandle m.handle.toNat 0x80 1).bytes ++ m.target.bytes
      | none => List.replicate 32 0) ++
    (g.recs.take 8).flatMap fun r => leBytes 8 r.target.toNat ++ leBytes 8 r.members.toNat ++ leBytes 8 r.arrived.toNat
  padTo 256 head ++ g.numbered.flatMap fun x => s.laneBytes rows g x.1 x.2

/-- Section 0: groups, and the breakpoint table (R350). -/
def State.groupsSection (s : State) (ctx : Nat) (gs : List Group) : List Byte :=
  let rows := imageRows gs
  gs.flatMap (s.groupBytes rows) ++
  padTo 1024 (((s.ctx ctx).bkpts.take 64).flatMap fun b => leBytes 8 b.1 ++ padTo 8 (leBytes 4 b.2.toNat))

/-! ### Registers -/

/-- The first entry of the spilled return stacks of a context whose page faults recoverably as it is read for the save, and whose
fault was not answered with fail: the core, the address, the reason and the level (R322, R353).
Log: DEDUCED (entry 84). -/
def State.stackFault (s : State) (ctx : Nat) : Option (Nat × Nat × Nat × Nat) :=
  (s.imageGroups ctx).findSome? fun g => g.numbered.findSome? fun x =>
    (upto (x.2.depth - x.2.stack.length)).findSome? fun i =>
      let va := s.returnRegion (g.gid, x.1) + 16 * i
      match (s.locate (some g.coreOf) (dieOf g.coreOf) (s.ctx ctx).hdr.asid va .read).2 with
      | .error (false, reason, level) =>
        if (s.ctx ctx).givenUp.contains (va / 4096) then none else some (g.coreOf, va, reason, level)
      | _ => none

/-- The save of a context waits: for the answer to such a fault, or for room in the fault queue of its die (R321, R322).
Log: DEDUCED (entry 84). -/
def State.saveWaits (s : State) (ctx : Nat) : Bool :=
  (s.dies.any fun d => d.2.faults.any fun f => f.2.saves.contains ctx) ||
  match s.stackFault ctx with
  | some x => (freeIndex (s.die (dieOf x.1)).faults).isNone
  | none => false

/-- The page fault that a save met: its record names no lane, and the save waits for the answer (R322, R353).
Log: DEDUCED (entry 84). -/
def State.holdSave (s : State) (ctx : Nat) (x : Nat × Nat × Nat × Nat) : State :=
  match s.fault (dieOf x.1) (s.ctx ctx).hdr.asid x.2.1 .read false x.2.2.1 x.2.2.2 x.1 (some ctx) none none none with
  | (s, some i) =>
    s.modDie (dieOf x.1) fun d =>
      { d with faults := d.faults.map fun (f : Nat × FaultRec) =>
          if f.1 = i then (i, { f.2 with saves := f.2.saves ++ [ctx] }) else f }
  | (s, none) => s

/-- A lane's whole return stack, oldest first (R353): an entry of the return region that cannot be read is zero.
Log: DEDUCED (entries 78, 84). -/
def State.wholeStack (s : State) (r : LRef) : List (List Byte) :=
  let l := s.lane r
  let g := s.group r.1
  let below := (upto (l.depth - l.stack.length)).map fun i =>
    match s.quietEntry g.ctx g.coreOf (s.returnRegion r + 16 * i) with
    | some e => e.bytes
    | none => List.replicate 16 0
  below ++ l.stack.reverse.map Cap.bytes

/-- A lane of the registers section. -/
def State.regBytes (s : State) (g : Group) (k : Nat) (l : Lane) : List Byte :=
  let words := (upto g.regs).map fun n => l.regs.getD n {}
  let poison := maskOf g.regs fun n => ((words.getD n {}).poison)
  leBytes 8 poison ++ leBytes 2 l.tags.toNat ++ leBytes 2 l.depth ++ List.replicate 4 0 ++
  words.flatMap (fun w => leBytes 4 w.val.toNat) ++ (s.wholeStack (g.gid, k)).flatMap id

/-- The window state of a row (R387): of an evicted one, with the map it held. -/
def State.windowBytes (s : State) (gs : List Group) (x : Agent × Nat × Nat) : List Byte :=
  let st := match gs.find? fun g => g.gid + 1 == x.2.2 with
    | some g => g.saved.getD ([], 0, 0)
    | none =>
      match x.1 with
      | .core c => let r := s.row c x.2.1; (if r.map.isEmpty then r.kept else r.map, r.sl, r.base)
      | .kcore _ => ([], 0, 0)
  mapBytes st.1 ++ leBytes 2 st.2.1.toNat ++ List.replicate 2 0 ++ leBytes 8 st.2.2.toNat

/-- Section 1: registers and row window states.
Log: DEDUCED (entry 77). -/
def State.regsSection (s : State) (gs : List Group) : List Byte :=
  gs.flatMap (fun g => g.numbered.flatMap fun x => s.regBytes g x.1 x.2) ++
  (imageRows gs).flatMap (s.windowBytes gs)

/-! ### Scratchpad, barriers, channels (R387) -/

/-- A line of the scratchpad section. -/
def State.lineBytes (s : State) (b : Block) (line : Nat) : List Byte :=
  let a := 128 * line
  let pend := tget line b.pclr
  b.scratch.bytes a 128 ++ leBytes 1 (maskOf 8 fun g => b.scratch.tag (a + 16 * g)) ++
  leBytes 2 (maskOf 16 fun w => b.scratch.poisoned 8 (a + 8 * w) 8) ++
  leBytes 1 ((if s.present b.bid line then 1 else 0) + if pend.isSome then 2 else 0) ++
  List.replicate 4 0 ++ leBytes 16 (pend.getD 0)

/-- Section 2: the shares of each block. A restored block that is not placed yet is one share.
Log: DEDUCED (entry 78). -/
def State.scratchSection (s : State) (bs : List Block) : List Byte :=
  bs.flatMap fun b =>
    let shares := if b.rest.isSome then [({ core := 0, first := 0, lines := b.lines } : Share)] else b.shares
    shares.flatMap fun x =>
      leBytes 4 b.index ++ leBytes 4 (s.grid b.grid).frame ++ leBytes 4 (128 * x.first) ++ leBytes 4 x.lines ++
      (upto x.lines).flatMap fun i => s.lineBytes b (x.first + i)

/-- The straggler record in 16 bytes. -/
def Straggler.bytes (x : Straggler) : List Byte := x.words.flatMap fun w => leBytes 4 w.toNat

/-- The word of Table 12.7. -/
def CvReg.word (v : CvReg) : Nat := v.kind % 4 * 2 ^ 30 + v.gen % 64 * 2 ^ 24 + v.signed % 4096 * 2 ^ 12 + v.count % 4096

/-- A block of the barrier-state section. -/
def State.barrierBytes (s : State) (b : Block) : List Byte :=
  let armed := b.roster.filter fun x => match b.armed x.2.off with | some y => y.1 == x.1 | none => false
  padTo 16 (leBytes 4 b.index ++ leBytes 4 (s.grid b.grid).frame ++ leBytes 4 armed.length) ++
  armed.flatMap (fun x =>
    padTo 16 (leBytes 4 x.2.off ++ leBytes 4 x.2.n ++ leBytes 4 x.1) ++ leBytes 256 x.2.arrived ++ leBytes 256 x.2.dropped ++
    x.2.record.bytes) ++
  (upto 16).flatMap fun n => padTo 16 (leBytes 4 (b.cv n).word) ++ leBytes 256 (b.cv n).mask

/-- The gbar state of a cooperative grid. -/
def Grid.gbarBytes (g : Grid) : List Byte :=
  padTo 32 (leBytes 4 g.frame ++ leBytes 4 g.gbarGen.toNat ++ leBytes 4 g.gbarArrived.dedup.length ++ leBytes 4 g.gbarFirst.toNat ++
    leBytes 4 (g.gbarFspeed % 32)) ++ g.gbarRecord.bytes

/-- The cooperative grids of a context, by frame granule. -/
def State.coopGrids (s : State) (ctx : Nat) : List Grid :=
  sortBy (fun a b => decide (a.frame < b.frame)) (s.grids.filter fun g => g.ctx == ctx && g.coop)

/-- Section 3: barrier state. -/
def State.barrierSection (s : State) (ctx : Nat) (gs : List Group) (bs : List Block) : List Byte :=
  bs.flatMap s.barrierBytes ++ gs.flatMap (fun g => padTo 16 (leBytes 8 g.csum.toNat)) ++
  (s.coopGrids ctx).flatMap Grid.gbarBytes

/-- Section 4: channel tables. -/
def chansSection (gs : List Group) : List Byte :=
  gs.flatMap fun g => (upto 16).flatMap fun n =>
    match g.chans.getD n none with
    | some (off, cap) => leBytes 4 off ++ leBytes 2 cap ++ leBytes 2 1
    | none => List.replicate 8 0

/-! ### The fault record (R348) -/

/-- An entry in 64 bytes. -/
def FaultEntry.bytes (e : FaultEntry) : List Byte :=
  padTo 64 (leBytes 4 (e.cause.toNat * 256 + e.kind % 256) ++ leBytes 4 e.block ++ leBytes 4 (e.gidx % 65536) ++
    leBytes 4 (e.core % 256) ++ leBytes 8 e.lanes.toNat ++ leBytes 8 e.pc.toNat ++ leBytes 8 e.tdata.toNat ++
    leBytes 8 e.addr.toNat ++ leBytes 4 e.seq.toNat)

/-- The pending entries of a group: page faults awaiting an answer, one for each instruction address, and engine faults,
one for each saved PC, cause and data.
Log: DESIGN CHOICE (entry 162). -/
def State.pendingEntries (s : State) (g : Group) : List FaultEntry :=
  let blank : FaultEntry :=
    { kind := 1, cause := 0x08, block := s.indexOf g, gidx := g.gidx, core := g.coreOf, lanes := 0, pc := 0, tdata := 0,
      addr := 0, seq := 0 }
  let replays := g.numbered.filter fun x => x.2.pendReplay && x.2.unexited
  let pcs := firsts (replays.map fun x => x.2.pc)
  let one := pcs.map fun p =>
    let mine := replays.filter fun x => x.2.pc == p
    let va := ((mine.head?).map fun x => x.2.faultVa).getD 0
    { blank with lanes := BitVec.ofNat 64 (maskOf 64 fun k => mine.any fun x => x.1 == k), pc := p, tdata := va, addr := va }
  let engine := g.numbered.flatMap fun x => x.2.async.filterMap fun a =>
    match a with
    | .engine cause lo hi => some (x.1, x.2.pc, cause, lo, hi)
    | .region _ => none
  let keys := firsts (engine.map (·.2))
  let two := keys.map fun k =>
    { blank with
      kind := 2, cause := k.2.1, pc := k.1, tdata := tdata k.2.2.1 k.2.2.2, seq := k.2.2.1
      lanes := BitVec.ofNat 64 (maskOf 64 fun i => engine.any fun x => x.1 == i && x.2 == k) }
  one ++ two

/-- Section 9: the entries of R348, and Cicada's reports after them (R379).
Log: DEDUCED (entry 89). -/
def State.faultSection (s : State) (ctx : Nat) (gs : List Group) : List Byte :=
  let byBlock := sortBy (fun (a b : Group) => decide (s.indexOf a * 2 ^ 16 + a.gidx < s.indexOf b * 2 ^ 16 + b.gidx)) gs
  ((s.ctx ctx).entries ++ byBlock.flatMap s.pendingEntries ++ (s.ctx ctx).reports).flatMap FaultEntry.bytes

/-! ### The whole image -/

/-- An open section's bytes: free ones, in 64-byte records.
Log: DESIGN CHOICE (entry 5). -/
def State.openSection (s : State) (n : Nat) : List Byte :=
  (upto (64 * Config.sectionRecords s.steps n)).map (Config.sectionByte s.steps n)

/-- The 32 bytes of a node-table entry (Table 17.1). -/
def Node.bytes (n : Node) : List Byte :=
  n.code.bytes ++
  leBytes 4 (2 ^ 31 + (if n.kill then 2 ^ 30 else 0) + widthCode n.width * 2 ^ 28 + (n.regs / 8 - 1) % 8 * 2 ^ 25 +
    (n.size / 4 - 1) % 64 * 2 ^ 16 + (n.count - 1) % 64 * 2 ^ 8) ++
  leBytes 4 n.timeout ++ leBytes 4 (n.frame % 1024 * 2 ^ 16 + n.lines % 65536) ++ leBytes 4 0

/-- The node table: 256 entries, of which one that is not declared is zero (R285). -/
def Ctx.nodeBytes (c : Ctx) : List Byte :=
  (upto 256).flatMap fun k => match tget k c.nodes with | some n => n.bytes | none => List.replicate 32 0

/-- The slot entries, each granted one with its register's home key and tag, each other one as at reset (Table 17.2).
Log: DEDUCED (entry 8). -/
def State.slotBytes (s : State) (c : Ctx) : List Byte :=
  (upto 16).flatMap fun k =>
    match tget k c.slots with
    | some reg =>
      let v := (tget reg s.incumbents).getD (0, 0)
      leBytes 4 (2 ^ 31 + reg % 16) ++ leBytes 4 v.1.toNat ++ leBytes 4 v.2.toNat ++ leBytes 4 0
    | none => leBytes 4 0 ++ leBytes 4 0x7F800000 ++ leBytes 4 0xFFFFFFFF ++ leBytes 4 0

/-- The counters (R298): records dropped at emission, records dropped in bins, groups killed. -/
def Ctx.counterBytes (c : Ctx) : List Byte :=
  padTo 64 (leBytes 8 c.dropEmit.toNat ++ leBytes 8 c.dropBin.toNat ++ leBytes 8 c.kills.toNat)

/-- Section 7, in the order in which R298 names its parts: the node table, the bins, whose layout is open, the slot entries
and the counters.
Log: DESIGN CHOICE (entry 5), DEDUCED (entry 119). -/
def State.tasksSection (s : State) (ctx : Nat) : List Byte :=
  let c := s.ctx ctx
  c.nodeBytes ++ s.openSection 7 ++ s.slotBytes c ++ c.counterBytes

/-- The part of section 7 that holds the bins.
Log: DEDUCED (entry 119). -/
def binPart (bs : List Byte) : List Byte := (bs.drop 8192).take (bs.length - 8512)

/-- The parts of sections 5 to 8 whose layout is open.
Log: DESIGN CHOICE (entry 5). -/
def openParts (secs : List (List Byte)) : List (List Byte) :=
  [secs.getD 5 [], secs.getD 6 [], binPart (secs.getD 7 []), secs.getD 8 []]

/-- The ten sections in section order. -/
def State.sections (s : State) (ctx : Nat) : List (List Byte) :=
  let gs := s.imageGroups ctx
  let bs := s.imageBlocks gs
  [s.groupsSection ctx gs, s.regsSection gs, s.scratchSection bs, s.barrierSection ctx gs bs, chansSection gs] ++
  [s.openSection 5, s.openSection 6, s.tasksSection ctx, s.openSection 8, s.faultSection ctx gs]

/-- The words of a byte list. -/
def wordsIn (bs : List Byte) : List Word :=
  (upto (bs.length / 4)).map fun i => BitVec.ofNat 32 (leNat ((bs.drop (4 * i)).take 4))

/-- The check over sections (R343). -/
def checkOf (secs : List (List Byte)) : DWord := (secs.flatMap wordsIn).foldl foldStep 0

/-- The order in which a save writes its sections (R344). -/
def saveOrder : List Nat := [9, 0, 1, 2, 3, 4, 5, 6, 7, 8]

/-- The offsets of the sections in the order of writing, from a page boundary. -/
def layout (secs : List (List Byte)) : List Nat → Nat → List (Nat × Nat)
  | [], _ => []
  | n :: t, off =>
    let len := (secs.getD n []).length
    if len = 0 then layout secs t off else (n, off) :: layout secs t (off + (len + 4095) / 4096 * 4096)

/-- The greatest cycle value among the lane records. -/
def State.greatestCycle (s : State) (ctx : Nat) : Nat :=
  ((s.imageGroups ctx).flatMap fun g =>
    (g.lanes.filter fun l => l.status != .empty).map fun l => (s.cycleAt g l).toNat).foldl max 0

/-- What a header says besides its context's fields: kind, truncation, the section entries written and the check. -/
structure Stamped where
  kind : Nat
  truncated : Bool := false
  tsect : Nat := 0
  dfaddr : Nat := 0
  entries : List (Nat × Nat × Nat) := []
  check : DWord := 0

/-- The header's 512 bytes (Table 20.5). -/
def State.headerBytes (s : State) (ctx : Nat) (st : Stamped) : List Byte :=
  let c := s.ctx ctx
  let h := c.hdr
  let flag := fun (b : Bool) (i : Nat) => if b then 2 ^ i else 0
  padTo 512 (leBytes 4 0x1A6EC0DE ++
    leBytes 4 (2 ^ 24 + flag h.debug 15 + flag h.edited 14 + flag st.truncated 13 + flag h.log 12 + h.priority % 4 * 2 ^ 10 +
      flag h.domain 9 + st.kind % 16) ++
    leBytes 4 (h.key.toNat * 2 ^ 16 + h.asid % 512) ++ leBytes 4 (st.tsect % 16) ++
    leBytes 8 h.poolbase.toNat ++ leBytes 4 h.poolsize ++ leBytes 4 c.freeGranules ++ leBytes 8 h.privbase.toNat ++
    leBytes 8 h.dumpbase.toNat ++ leBytes 8 h.dumpsize.toNat ++ leBytes 8 st.dfaddr ++
    leBytes 8 h.logbase.toNat ++ leBytes 4 h.logsize ++ leBytes 4 h.logwritten.toNat ++ leBytes 4 h.logdropped.toNat ++
    leBytes 4 0 ++ leBytes 8 h.stampbase.toNat ++ leBytes 4 h.stampsize ++ leBytes 4 h.stampwritten.toNat ++
    leBytes 4 h.stampdropped.toNat ++ leBytes 4 0 ++ leBytes 8 h.tracebase.toNat ++ leBytes 4 h.tracesize ++
    leBytes 4 h.tracewritten.toNat ++ leBytes 8 st.check.toNat ++ leBytes 8 (s.greatestCycle ctx) ++
    padTo 32 ((h.policy.take 32).map fun b => b &&& 3) ++ padTo 32 ((h.perf.take 8).flatMap fun w => leBytes 4 w.toNat) ++
    (upto 10).flatMap fun n =>
      match st.entries.find? fun e => e.1 == n with
      | some e => leBytes 8 e.2.1 ++ leBytes 8 e.2.2
      | none => List.replicate 16 0)

/-! ### The dump (R349) -/

/-- Bytes from an address cut at page boundaries; each unit of fuel is a piece. -/
def pieces : Nat → Nat → List Byte → List (Nat × List Byte)
  | 0, _, _ => []
  | fuel + 1, a, bs =>
    let k := 4096 - a % 4096
    if bs.isEmpty then [] else (a, bs.take k) :: pieces fuel (a + k) (bs.drop k)

/-- Write bytes at an offset of the dump area, or give the first address that fails. The context's translations use the core
field `core`.
Log: DEDUCED (entries 75, 88). -/
def State.dumpPut (s : State) (ctx off : Nat) (bs : List Byte) : State × Option Nat :=
  let h := (s.ctx ctx).hdr
  let room := h.dumpsize.toNat - off
  let base := h.dumpbase.toNat
  let r := (pieces (bs.length / 4096 + 2) (base + off) (bs.take room)).foldl (fun (x : State × Option Nat) p =>
    match x.2 with
    | some _ => x
    | none =>
      match x.1.quietWrite ctx 0 p.1 p.2 with
      | some s => (s, none)
      | none => (x.1, some p.1)) (s, none)
  match r.2 with
  | some a => (r.1, some a)
  | none => if room < bs.length then (r.1, some (base + h.dumpsize.toNat)) else r

/-- Write sections in order until one fails: the state, the entries written, and the failing section with its address. -/
def dumpSections (ctx : Nat) (secs : List (List Byte)) : List (Nat × Nat) → State → List (Nat × Nat × Nat) →
    State × List (Nat × Nat × Nat) × Option (Nat × Nat)
  | [], s, es => (s, es, none)
  | (n, off) :: t, s, es =>
    let bs := secs.getD n []
    match s.dumpPut ctx off bs with
    | (s, none) => dumpSections ctx secs t s (es ++ [(n, off, bs.length)])
    | (s, some a) => (s, es, some (n, a))

/-- The tickets of a context with their engines, each engine's in the order of its queue (R283). A crew of a restored block that is
not placed yet stands with those that were saved in the same engine's queue as it, on the core where they are now, or else as on
an engine of its own.
Log: DEDUCED (entry 63). -/
def State.savedTickets (s : State) (ctx : Nat) (bs : List Block) : List (Nat × (Nat × Nat)) :=
  let placed := s.cores.flatMap fun x => (x.2.tickets.filter fun t => bs.any fun b => b.bid == t.1).map fun t => (x.1, t)
  let resting := bs.flatMap fun b => (b.rest.getD {}).crews.map fun c => (c.1, (b.bid, c.2))
  (sortBy (fun a b => decide (a.1.place < b.1.place)) resting).foldl (fun (q : List (Nat × (Nat × Nat))) x =>
    let near := q.find? fun t => match s.rankOf ctx t.2 with | some k => k.engine == x.1.engine | none => false
    let engine := match near with | some t => t.1 | none => 160 + x.1.engine
    (q.filter fun t => t.1 != engine) ++
      (s.joinTickets ctx [] x.1 x.2 ((q.filter fun t => t.1 == engine).map (·.2))).map fun t => (engine, t)) placed

/-- MODEL: what a context is, for the parts of an image whose layout is open.
Log: DESIGN CHOICE (entry 5). -/
def State.savedParts (s : State) (ctx : Nat) (secs : List (List Byte)) : Saved :=
  let gs := s.imageGroups ctx
  let bs := s.imageBlocks gs
  let mine := fun (bid : Nat) => bs.any fun b => b.bid == bid
  { sections := openParts secs
    check := checkOf secs
    ctx := s.ctx ctx
    grids := s.grids.filter fun g => g.ctx == ctx
    copies := s.copies.filter fun c => c.ctx == ctx
    ops := s.ops.filter fun o => o.ctx == ctx
    tickets := s.savedTickets ctx bs
    stamps := (s.cores.flatMap fun x => x.2.stamps.filter fun t => mine t.block) ++ bs.flatMap fun b => (b.rest.getD {}).stamps
    lost := (s.cores.flatMap fun x => x.2.lostStamps.filter fun t => mine t.1) ++
      bs.flatMap fun b => (b.rest.getD {}).lost.map fun t => (b.bid, t)
    blocks := bs.map fun b => (b.bid, b.grid, b.index)
    regions := (s.regions.filter fun x => x.2.ctx == ctx && decide (x.1 < 256)).map fun x => (x.1, x.2.count)
    groups := gs }

/-- Write a context's dump. A dump fault sends its event with the address that failed and the section, which the header keeps too,
and the context stays halted.
Log: DEDUCED (entries 53, 88). -/
def State.dump (s : State) (ctx : Nat) : State :=
  let secs := s.sections ctx
  let fault := fun (s : State) (n a : Nat) =>
    let s := s.modCtx ctx fun c => { c with hdr := { c.hdr with truncated := true, tsect := n, dfaddr := BitVec.ofNat 64 a } }
    s.offer { kind := 0x07, w2 := BitVec.ofNat 32 ctx, dfaddr := BitVec.ofNat 64 a, tsect := n }
  match s.dumpPut ctx 0 (s.headerBytes ctx { kind := 4 }) with
  | (s, some a) => fault s 0xF a
  | (s, none) =>
    match dumpSections ctx secs (layout secs saveOrder 4096) s [] with
    | (s, es, some (n, a)) =>
      fault (s.dumpPut ctx 0 (s.headerBytes ctx { kind := 4, truncated := true, tsect := n, dfaddr := a, entries := es })).1 n a
    | (s, es, none) =>
      let parts := s.savedParts ctx secs
      let s := (s.dumpPut ctx 0 (s.headerBytes ctx { kind := 4, entries := es, check := checkOf secs })).1
      { s with images := parts :: s.images }

/-! ### The save (R338) -/

/-- A write from outside every region to physical memory (R310).
Log: DEDUCED (entry 99). -/
def State.outsideWrite (s : State) (key a : Nat) (bs : List Byte) : State :=
  if hbmSize < a + bs.length then s else s.hbmOutside key a [(bs, false)] false

/-- A context's image of kind 1 at a physical address, under the lease key; with slot 0 empty nothing is written (R370).
Log: DEDUCED (entries 53, 75), DESIGN CHOICE (entry 144). -/
def State.writeImage (s : State) (ctx a : Nat) : State :=
  if s.leaseLost then (s.complexFault a .write).1
  else
  let secs := s.sections ctx
  let lay := layout secs saveOrder 4096
  let parts := s.savedParts ctx secs
  let es := lay.map fun x => (x.1, x.2, (secs.getD x.1 []).length)
  let key := s.leaseKey
  let s := s.outsideWrite key a (s.headerBytes ctx { kind := 1, entries := es, check := checkOf secs })
  let s := lay.foldl (fun (s : State) x => s.outsideWrite key (a + x.2) (secs.getD x.1 [])) s
  { s with images := parts :: s.images }

/-! ### Leaving the device -/

/-- A context has drained: no copy but held ones, no operation past its operand wait (R184, R283).
Log: DEDUCED (entry 57). -/
def State.drained (s : State) (ctx : Nat) : Bool :=
  (s.copies.all fun c => c.ctx != ctx || c.held.isSome || (s.block c.block).rest.isSome) &&
  (s.ops.all fun o => o.ctx != ctx || match o.phase with | .computing _ _ => false | _ => true) &&
  (s.groups.all fun g => g.isK || g.ctx != ctx || g.lanes.all fun l => !l.awaitsResult)

/-- The context number that region objects stand under whose context has left, saved or at its end: no context has it.
Log: DEDUCED (entry 82). -/
def savedCtx : Nat := 256

/-- A context leaves the device: its rows, groups, blocks, grids, copies, operations and tickets go, and the region objects that it
opened are no context's any more (R300, R309).
Log: DEDUCED (entry 82). -/
def State.leave (s : State) (ctx : Nat) : State :=
  let gone := fun (g : Nat) => (s.grid g).ctx == ctx
  let blk := fun (b : Nat) => gone (s.block b).grid && s.blocks.any fun x => x.bid == b
  let grp := fun (g : Nat) => s.groups.any fun x => x.gid == g && !x.isK && x.ctx == ctx
  { s with
    cores := s.cores.map fun (x : Nat × Core) =>
      (x.1, { x.2 with
        rows := x.2.rows.filter fun y => !gone y.2.grid
        tickets := x.2.tickets.filter fun t => !blk t.1
        stamps := x.2.stamps.filter fun t => !blk t.block
        lostStamps := x.2.lostStamps.filter fun t => !blk t.1 })
    dies := s.dies.map fun (x : Nat × Die) =>
      (x.1, { x.2 with faults := x.2.faults.map fun (y : Nat × FaultRec) =>
        (y.1, { y.2 with
          lanes := y.2.lanes.filter fun r => !grp r.1
          copies := y.2.copies.filter fun c => !(s.copies.any fun z => z.id == c && z.ctx == ctx)
          bins := y.2.bins.filter fun b => b.1 != ctx
          grids := y.2.grids.filter fun g => !gone g
          saves := y.2.saves.filter fun c => c != ctx }) })
    groups := s.groups.filter fun g => g.isK || g.ctx != ctx
    blocks := s.blocks.filter fun b => !gone b.grid
    grids := s.grids.filter fun g => g.ctx != ctx
    launchQ := s.launchQ.map fun (x : Nat × List Nat) => (x.1, x.2.filter fun g => !gone g)
    copies := s.copies.filter fun c => c.ctx != ctx
    ops := s.ops.filter fun o => o.ctx != ctx
    remotes := s.remotes.filter fun r => !grp r.gid
    regions := s.regions.map fun (x : Nat × Region) =>
      (x.1, if x.2.ctx == ctx && decide (x.1 < 256) then { x.2 with ctx := savedCtx } else x.2) }

/-- A pre-emption save (R338): every word is refreshed, the image written, and the context leaves; its regions stay
(R309).
Log: DEDUCED (entries 53, 82). -/
def State.preempt (s : State) (ctx a : Nat) : State :=
  let s := { s with groups := s.groups.map fun (g : Group) =>
    if g.ctx == ctx && !g.isK then g.refreshed s.steps else g }
  let s := (s.writeImage ctx a).leave ctx
  { s with ctxs := tdel ctx s.ctxs }

end Sys2Proof.Machine
end

