-- ==== Sys2Proof/Machine/Run.lean ====
section
/-!
DEFINITION. What acts next, and how a gather is made ready for its instruction: the agenda and the default order of the
agents, the gather of a core (R84) or of a Kolesque core (R354), its words (R20, R36, R43, R130), and what closes a step.
-/

namespace Sys2Proof.Machine

open Sys2Proof

/-! ### A gather becomes a latched instruction -/

/-- What a step is about to do: nothing more, or one instruction or event. -/
inductive Prep where
  | settled (s : State)
  | run (s : State) (i : Instr)

/-- The instruction of a run of words: the decoded one with the row its operands select, or the illegal instruction with
the offset and word of R45. -/
def instrOf (w : Work) (k : Bool) (word : Word) (error : Option (Nat × Word)) : State × Instr :=
  match error, decodeWord (judged k word) with
  | none, .ok i => (w.s, { w with l := { w.l with word := word } }.selectRow i)
  | some (off, bad), _ => ({ w.s with ev := { a := off, value := bad.setWidth 64 } }, .illegalInstruction)
  | none, .error _ => ({ w.s with ev := { a := 0, value := word.setWidth 64 } }, .illegalInstruction)

/-- What makes a run illegal (R45). Where a word of a loop's run is at fault, an lstep before it that carries a step its
body word does not admit comes first: the body is fetched for it, and the lanes whose fetch fails leave.
Log: DEDUCED (entries 20, 34). -/
def Work.runVerdict (w : Work) (k : Bool) (pc : DWord) (hints : List Word) (word : Word) : Work × Option (Nat × Word) :=
  match runError k hints word with
  | none => (w, none)
  | some (off, bad) =>
    if majorOf word == 0x29 && (hints.take off).any fun h => hintKind h == 2 then
      match fetchWords w (pc + 4 * BitVec.ofNat 64 (hints.length + 1)) (bitsAt word.toNat 12 6 + 1) [] with
      | (w, none) => (w, none)
      | (w, some body) => (w, some ((stepError body 0 (hints.take off)).getD (off, bad)))
    else (w, some (off, bad))

/-- Lanes have issued, or tried to: they wait from the core's next cycle on (R84).
Log: DESIGN CHOICE (entry 111). -/
def State.touch (s : State) (agent : Agent) (lanes : List LRef) : State :=
  match agent with
  | .kcore _ => s
  | .core c =>
    let now := (s.core c).cycles.toNat
    lanes.foldl (fun s r => s.modLane r fun l => { l with lastIssue := now + 1, passed := false }) s

/-- A restored lane that still keeps more than 8 return entries spills them before it issues; where a page of its return region
does not translate it takes the page fault of the write (R322, R353), after a fatal one without them. A helper lane goes on without
them.
Log: DEDUCED (entry 84). -/
def Work.spillFirst (w : Work) : Work :=
  (w.live.filter fun r => !(w.s.group r.1).isK && decide (8 < (w.s.lane r).stack.length)).foldl (fun w r =>
    match w.s.spillRest r with
    | .ok s => { w with s := s }
    | .fault s va fatal reason level =>
      if (s.lane r).helper then { w with s := s.cutStack r }
      else
        let v := { w with s := s }.pageFault r (BitVec.ofNat 64 va) .write fatal reason level
        if (v.s.lane r).status == .ready then { v with s := v.s.cutStack r } else v) w

/-- Latch the gather `lanes` of an agent at `pc` and find its instruction. Lanes that have begun an instruction go on with its
words (R384), lanes in a loop run its body words, and the others fetch; only the lanes whose words are those of the lane that
has waited longest go on, and the others have not issued (R84, R85, R126). A helper lane whose fetch fails stays at its PC and fetches again when it is next picked.
Log: DEDUCED (entries 19, 20, 72, 84), DESIGN CHOICE (entry 113). -/
def State.latch (s : State) (agent : Agent) (row : Nat) (lanes : List LRef) (pc : DWord) : Prep :=
  let k := match agent with | .kcore _ => true | .core _ => false
  let w : Work := { s := s, l := { agent := agent, row := row, lanes := lanes, pc := pc, start := pc, word := 0 }, live := lanes }
  let w := w.spillFirst.refetchBody
  let inBody := w.live.filter fun r => (w.s.lane r).begun.isNone && (w.s.lane r).bodyWord.isSome
  let plain := w.live.filter fun r => (w.s.lane r).begun.isNone && (w.s.lane r).loop.isNone
  let once := match plain with | r :: t => (w.s.lane (t.foldl w.s.longer r)).stepOver | [] => false
  let plain := plain.filter fun r => (w.s.lane r).stepOver == once
  let (v, run) := if plain.isEmpty then (w, none) else fetchRun { w with live := plain } pc runLimit []
  let bodies := inBody.map fun r => (r, ([] : List Word), v.s.under r pc (((v.s.lane r).bodyWord).getD 0))
  let fetched := match run with | some (hs, x) => v.live.map fun r => (r, hs, x) | none => []
  let begun := w.live.filterMap fun r => (w.s.lane r).begun.map fun x => (r, x)
  let cands := w.live.filterMap fun r => (begun ++ bodies ++ fetched).find? fun c => c.1 == r
  let apart := fun (live : List LRef) => lanes.filter fun r =>
    !live.contains r && (v.apart.contains r || (cands.any fun c => c.1 == r) || (w.live.contains r && !v.live.contains r && !plain.contains r))
  match cands with
  | [] => .settled (v.settleTraps.touch agent (lanes.filter fun r => !(apart []).contains r))
  | c0 :: t =>
    let (r0, hs, word) := t.foldl (fun a b => if v.s.longer a.1 b.1 == a.1 then a else b) c0
    let live := (cands.filter fun c => c.2.1 == hs && c.2.2 == word).map (·.1)
    let issued := lanes.filter fun r => !(apart live).contains r
    let (v, error) := { v with live := live }.runVerdict k pc hs word
    let live := v.live
    let l : Latch :=
      { agent := agent, row := row, lanes := live, pc := pc + 4 * BitVec.ofNat 64 hs.length, start := pc, word := word
        hints := hintsOf hs, run := hs, late := v.traps }
    if live.isEmpty then .settled (v.settleTraps.touch agent issued)
    else
      let s := groupsOf live |>.foldl (fun s gid => s.modGroup gid fun g => { g with begun := true }) (v.s.touch agent issued)
      let s := if k || live.all fun r => (s.lane r).heldBack then s else s.count (s.group r0.1).ctx 0 1
      let s := { s with issue := some l }
      let (s, i) := instrOf { s := s, l := l, live := live } k word error
      .run s i

/-- The pipes an instruction holds: four cycles for the eight quarter-rate ones (R84, R91).
Log: DEDUCED (entry 18). -/
def pipeCycles (i : Instr) : Nat :=
  match i with
  | .frcp _ _ => 4
  | .frsq _ _ => 4
  | .fsqrt _ _ => 4
  | .fexp2 _ _ => 4
  | .flog2 _ _ => 4
  | .fsin _ _ => 4
  | .fcos _ _ => 4
  | .ftanh _ _ => 4
  | _ => 1

/-- The pipes of the slots of a gather are held.
Log: DEDUCED (entry 18). -/
def State.holdPipes (s : State) (core : Nat) (lanes : List LRef) (n : Nat) : State :=
  let now := (s.core core).cycles.toNat
  let slots := lanes.map fun r => (s.group r.1).slot + r.2
  s.modCore core fun c =>
    { c with pipes := (upto 4).map fun p =>
        if slots.any fun k => k / 64 == p then now + n else c.pipes.getD p 0 }

/-- One cycle of a compute core (R84, R163, R378): its counter advances, and its picker issues a gather if it can.
Log: DESIGN CHOICE (entries 7, 111). -/
def State.issueCore (s : State) (core : Nat) : Prep :=
  let braked := s.power.braked.contains core
  let brake := s.power.pwrBrake || s.power.thermBrake
  let s := { s with
    power := { s.power with braked := sdel core s.power.braked }
    turn := core }
  let tick := fun (s : State) => s.modCore core fun c => { c with cycles := c.cycles + 1 }
  if braked && brake then .settled (tick s)
  else
    match s.pickGather core with
    | none => .settled (tick s)
    | some (row, lanes) =>
      let pc := match lanes with | r :: _ => (s.lane r).pc | [] => 0
      let now := (s.core core).cycles.toNat
      let s := s.modRow core row fun r => { r with lastIssue := now + 1 }
      let s := s.modCore core fun c => { c with gathers := c.gathers + 1, gate := {} }
      let s := if brake then { s with power := { s.power with braked := sput core s.power.braked } } else s
      match s.latch (.core core) row lanes pc with
      | .settled t => .settled (tick t)
      | .run t i =>
        let held := match t.issue with | some l => l.lanes | none => []
        .run (tick (t.holdPipes core held (pipeCycles i))) i

/-- One issue of a Kolesque core (R354).
Log: DESIGN CHOICE (entry 7). -/
def State.issueKcore (s : State) (k : Nat) : Prep :=
  let r : LRef := (kGid k, 0)
  let s := { s with turn := 160 + k }
  let s := s.modKcore k fun c => { c with cycles := c.cycles + 1 }
  if (s.kcore k).status == .running && (s.lane r).status == .ready then s.latch (.kcore k) 0 [r] (s.lane r).pc
  else .settled s

/-! ### What acts next -/

/-- The lanes at which something is pending that acts at their next instruction boundary. -/
def State.pendingLane (s : State) (f : Lane → Bool) : Option LRef :=
  (s.groups.filter fun g => !g.isK && !g.freed && !g.evicted).findSome? fun g =>
    (g.numbered.find? fun x => x.2.unexited && !x.2.halted && !x.2.awaitsResult && f x.2).map fun x => (g.gid, x.1)

/-- A row of a context that is being saved may be evicted: every thread of it is parked or held, or stands just past a
blocking point that passes, and none owns accumulators (R86, R338).
Log: DEDUCED (entries 114, 146). -/
def State.evictable (s : State) (core row : Nat) : Bool :=
  let r := s.row core row
  (s.ctx (s.grid r.grid).ctx).phase == .saving &&
  (s.groups.any fun g => g.agent == .core core && g.row == row && !g.freed && !g.evicted) &&
  (s.rowLanes core row).all fun x =>
    !x.2.2.unexited ||
    (x.2.2.owned.isEmpty && (x.2.2.passed || match x.2.2.status with
      | .parked _ _ => true
      | .held _ => true
      | _ => false))

/-- Every row of a context that is being saved has been evicted. -/
def State.allEvicted (s : State) (ctx : Nat) : Bool :=
  s.groups.all fun g => g.isK || g.ctx != ctx || g.freed || g.evicted

/-- A committed speculative atomic of a context still waits to be made (R208, R310).
Log: DEDUCED (entry 141). -/
def State.owesWrites (s : State) (ctx : Nat) : Bool := s.delayed.any fun x => x.1 == some ctx

/-- A context is done: nothing runs, nothing is queued, nothing is outstanding, and no bin holds a record (R211). -/
def State.finished (s : State) (ctx : Nat) : Bool :=
  let c := s.ctx ctx
  c.phase == .running && c.waiting.isNone &&
  !(s.groups.any fun g => !g.isK && g.ctx == ctx && !g.freed) && !(s.blocks.any fun b => (s.grid b.grid).ctx == ctx) &&
  !(s.copies.any fun x => x.ctx == ctx) && !s.owesWrites ctx &&
  !(s.grids.any fun g => g.ctx == ctx && (g.state == .queued || g.state == .placed)) &&
  c.bins.all fun b => b.2.records.isEmpty && !b.2.held

/-- The first event that the machine's own agents have ready, in the default order.
Log: DESIGN CHOICE (entries 1, 17). -/
def State.dueEvent (s : State) : Option (Instr × EvArg) :=
  let lane := fun (i : Instr) (o : Option LRef) => o.map fun r => (i, ({ a := r.1, b := r.2 } : EvArg))
  let one := fun (i : Instr) (o : Option Nat) => o.map fun a => (i, ({ a := a } : EvArg))
  let engAsync := fun (l : Lane) => !l.midway && match l.async with | .engine _ _ _ :: _ => true | _ => false
  let regAsync := fun (l : Lane) => !l.midway && match l.async with | .region _ :: _ => true | _ => false
  let coreWith := fun (p : Nat → Core → Bool) => (s.cores.find? fun x => p x.1 x.2).map (·.1)
  let ctxWith := fun (p : Nat → Ctx → Bool) => (s.ctxs.find? fun x => p x.1 x.2).map (·.1)
  (lane .killTakesEffect (s.pendingLane (·.kill)))
  |>.orElse (fun _ => lane .asyncTrapDelivery (s.pendingLane engAsync))
  |>.orElse (fun _ => lane .regionAbortDelivery (s.pendingLane regAsync))
  |>.orElse (fun _ => one .improvementReachesDie ((s.dies.find? fun x => !x.2.coming.isEmpty).map (·.1)))
  |>.orElse (fun _ => if s.derateNext.isSome then some (.derateTakesEffect, {}) else none)
  |>.orElse (fun _ => if s.sexton.state = 1 then some (.scrubComplete, {}) else none)
  |>.orElse (fun _ => one .regionInstallComplete ((s.regions.find? fun x => x.2.state == .committing).map (·.1)))
  |>.orElse (fun _ => s.copies.findSome? fun c => (s.copyDue c).map fun x => (.copyAdvance, { a := c.id, b := x }))
  |>.orElse (fun _ => one .copyComplete ((s.copies.find? Copy.written).map (·.id)))
  |>.orElse (fun _ => one .mxComputeEnd (coreWith fun c _ => match s.engineHead c with
      | some o => (match o.phase with | .computing _ _ => true | _ => false)
      | none => false))
  |>.orElse (fun _ => one .mxOperandWaitEnd (coreWith fun c _ => (s.operandDue c).isSome))
  |>.orElse (fun _ => s.cores.findSome? fun x => (s.slotOverdue x.1).map fun row =>
      (.windowSlotAgeGrant, { a := x.1, b := row }))
  |>.orElse (fun _ => s.cores.findSome? fun x => (x.2.rows.find? fun y => s.evictable x.1 y.1).map fun y =>
      (.rowEviction, { a := x.1, b := y.1 }))
  |>.orElse (fun _ => one .haltComplete (ctxWith fun n c =>
      (c.phase == .halting && s.drained n) || (c.phase == .saving && s.allEvicted n && s.drained n && !s.saveWaits n)))
  |>.orElse (fun _ => one .contextCompletion (ctxWith fun n c => (c.ending.isSome && !s.owesWrites n) || s.finished n))
  |>.orElse (fun _ => if s.complex.state == .running && !s.eventQ.isEmpty then
      one .eventDelivery ((s.kcores.find? fun x => x.2.status == .idle).map (·.1)) else none)
  |>.orElse (fun _ => one .foragerDeal ((upto 4).reverse.find? fun p => (s.deal p).isSome))

/-- Some lane of a core could issue. -/
def State.coreReady (s : State) (core : Nat) : Bool :=
  (s.core core).rows.any fun x => (s.issuable core x.1).any fun _ => true

/-- The agents that could issue: compute cores, then Kolesque cores as 160 + k.
Log: DESIGN CHOICE (entry 1). -/
def State.readyAgents (s : State) : List Nat :=
  ((s.cores.filter fun x => s.coreReady x.1).map (·.1)) ++
  ((s.kcores.filter fun x => x.2.status == .running && (s.lane (kGid x.1, 0)).status == .ready).map fun x => 160 + x.1)

/-- The agent that issues next: the first after the one that issued last, in turn.
Log: DESIGN CHOICE (entries 1, 17). -/
def State.nextAgent (s : State) : Option Nat :=
  let rs := s.readyAgents
  match rs.find? fun a => decide (s.turn < a) with
  | some a => some a
  | none => rs.head?

/-- The default action, when the agenda names none.
Log: DESIGN CHOICE (entry 1). -/
def State.nextAction (s : State) : Option Action :=
  match s.dueEvent with
  | some (i, arg) => some (.event i arg)
  | none => (s.nextAgent).map fun a => if a < 160 then .issue a else .kissue (a - 160)

/-- An instruction word is no event, and an illegal word arises from a fetch alone: an agenda that names one does
nothing.
Log: DESIGN CHOICE (entry 108). -/
def isEvent (i : Instr) : Bool := (encode i).isNone && (privOp i).isNone && !(i == .illegalInstruction)

/-- What a step does: the agenda's head, else the default.
Log: DESIGN CHOICE (entry 1). -/
def State.prepare (s : State) : Prep :=
  let (s, act) := match s.agenda with
    | a :: t => ({ s with agenda := t }, some a)
    | [] => (s, s.nextAction)
  match act with
  | none => .settled s
  | some (.issue c) => s.issueCore c
  | some (.kissue k) => s.issueKcore k
  | some (.event i arg) => if isEvent i then .run { s with ev := arg } i else .settled s
  | some (.elapse c n) =>
    .settled (s.modCore c fun k => { k with cycles := k.cycles + BitVec.ofNat 64 n })
  | some (.tlbDrop c die asid va) =>
    let keep := fun (t : List TlbEntry) => t.filter fun e => !(e.covers asid va)
    .settled (if die then s.modDie c fun d => { d with tlb := keep d.tlb } else s.modCore c fun k => { k with tlb := keep k.tlb })
  | some (.l1Drop c a) => .settled (s.dropLines c a 1)

/-- Close a step: what follows by itself, the latch cleared.
Log: DESIGN CHOICE (entries 2, 3), DEDUCED (entries 19, 101). -/
def State.conclude (s : State) : State :=
  { s.settle with issue := none, ev := {}, steps := s.steps + 1 }

end Sys2Proof.Machine
end

