-- ==== Sys2Proof/Machine/Boot.lean ====
section
/-!
DEFINITION. A word placed where the next step fetches: what loading a context, or firmware, leaves, reduced to what the
fetch of one word needs. A program comes to run from reset as the assumption log says; these states stand for that load.
-/

namespace Sys2Proof.Machine

open Sys2Proof

/-- A page-table entry of this device: a table, or a leaf with every permission (R314). -/
def entryBytes (leaf : Bool) (pa : Nat) : List Byte := leBytes 8 (0xFF * 2 ^ 56 + pa + if leaf then 0x1F else 1)

/-- Where the placed word stands, virtual and physical. -/
def bootCode : Nat := 0x10000

/-- HBM with page tables that map the lowest GiB onto itself, and a word of code.
Log: DESIGN CHOICE (entry 16). -/
def bootHbm (m : Memory) (w : Word) : Memory :=
  let m := m.setBytes 0x1000 (entryBytes false 0x2000)
  let m := m.setBytes 0x2000 (entryBytes false 0x3000)
  let m := m.setBytes 0x3000 (entryBytes true 0)
  m.setBytes bootCode (leBytes 4 w.toNat)

/-- The code capability of the placed context. -/
def bootCap : Cap := mkCap bootCode 0x20 0 0 bootCode (bootCode + 256)

/-- One running context with one grid of one block of one group of eight threads of 64 registers on core 0.
Log: DESIGN CHOICE (entry 16). -/
def State.bootCompute (s : State) (w : Word) : State :=
  let g : Grid :=
    { noGrid 1 with
      granules := 1, code := bootCap, anchor := bootCap.cursor, dimx := 1, dimy := 1, dimz := 1, blksize := 8, regs := 64, lines := 32
      next := 1, state := .placed, display := [mkCap 0x20000 0x5F 0 0 0x20000 0x20100] }
  { s with
    agenda := [.issue 0]
    nextId := s.nextId + 8
    hbm := bootHbm s.hbm w
    asids := tput 0 { live := true, key := 0, root := 0x1000 } s.asids
    ctxs := tput 0
      { phase := .running, hdr := { asid := 0, poolbase := 0x20000, poolsize := 1 }, frames := [{ granule := 0, len := 1, grid := 1, refs := 1, parent := none }] }
      s.ctxs
    cores := tput 0 { rows := [(0, { grid := 1, regs := 64 })] } s.cores
    grids := [g]
    blocks := [{ bid := 2, grid := 1, index := 0, shares := [{ core := 0, first := 0, lines := 32, chunks := [0] }], lines := 32, q := 32 }]
    groups := [birthGroup s 3 g 2 0 0 0 0] }

/-- Kolesque core 0 at a word of its instruction memory.
Log: DESIGN CHOICE (entry 16). -/
def State.bootComplex (s : State) (w : Word) : State :=
  { s with
    agenda := [.kissue 0]
    complex := { s.complex with state := .running }
    kcores := tput 0 { status := .running, imem := memoryOf (leBytes 4 w.toNat) } s.kcores
    groups := [{ gid := kGid 0, agent := .kcore 0, width := 1, regs := 64, lanes := [kLane 0] }] }

/-- A word placed where the next step fetches it: a complex-only word (SYS sub 11 to 15) on a Kolesque core, any other on
a compute core.
Log: DESIGN CHOICE (entry 16). -/
def State.placeWord (s : State) (w : Word) : State := if privileged w then s.bootComplex w else s.bootCompute w

end Sys2Proof.Machine
end

