-- ==== Sys2Proof/Machine/Cmp.lean ====
section
/-!
DEFINITION. The comparisons, major 0x02 (R101).
-/

namespace Sys2Proof.Machine

open Sys2Proof

/-- ICMP_EQ (R101). -/
def execIcmpEq (d : Dst) (a b : Src) (s : State) : Host.Outcome State Fault Refusal := alu2 d a b (pure2 (icmpS .eq)) s

/-- ICMP_NE (R101). -/
def execIcmpNe (d : Dst) (a b : Src) (s : State) : Host.Outcome State Fault Refusal := alu2 d a b (pure2 (icmpS .ne)) s

/-- ICMP_LT (R101). -/
def execIcmpLt (d : Dst) (a b : Src) (s : State) : Host.Outcome State Fault Refusal := alu2 d a b (pure2 (icmpS .lt)) s

/-- ICMP_LE (R101). -/
def execIcmpLe (d : Dst) (a b : Src) (s : State) : Host.Outcome State Fault Refusal := alu2 d a b (pure2 (icmpS .le)) s

/-- ICMP_GT (R101). -/
def execIcmpGt (d : Dst) (a b : Src) (s : State) : Host.Outcome State Fault Refusal := alu2 d a b (pure2 (icmpS .gt)) s

/-- ICMP_GE (R101). -/
def execIcmpGe (d : Dst) (a b : Src) (s : State) : Host.Outcome State Fault Refusal := alu2 d a b (pure2 (icmpS .ge)) s

/-- ICMP_LTN (R101). -/
def execIcmpLtn (d : Dst) (a b : Src) (s : State) : Host.Outcome State Fault Refusal := alu2 d a b (pure2 (icmpN .lt)) s

/-- ICMP_LEN (R101). -/
def execIcmpLen (d : Dst) (a b : Src) (s : State) : Host.Outcome State Fault Refusal := alu2 d a b (pure2 (icmpN .le)) s

/-- ICMP_GTN (R101). -/
def execIcmpGtn (d : Dst) (a b : Src) (s : State) : Host.Outcome State Fault Refusal := alu2 d a b (pure2 (icmpN .gt)) s

/-- ICMP_GEN (R101). -/
def execIcmpGen (d : Dst) (a b : Src) (s : State) : Host.Outcome State Fault Refusal := alu2 d a b (pure2 (icmpN .ge)) s

/-- FCMP_EQ (R101). -/
def execFcmpEq (d : Dst) (a b : Src) (s : State) : Host.Outcome State Fault Refusal := alu2 d a b (pure2 (fcmp .eq)) s

/-- FCMP_NE (R101). -/
def execFcmpNe (d : Dst) (a b : Src) (s : State) : Host.Outcome State Fault Refusal := alu2 d a b (pure2 (fcmp .ne)) s

/-- FCMP_LT (R101). -/
def execFcmpLt (d : Dst) (a b : Src) (s : State) : Host.Outcome State Fault Refusal := alu2 d a b (pure2 (fcmp .lt)) s

/-- FCMP_LE (R101). -/
def execFcmpLe (d : Dst) (a b : Src) (s : State) : Host.Outcome State Fault Refusal := alu2 d a b (pure2 (fcmp .le)) s

/-- FCMP_GT (R101). -/
def execFcmpGt (d : Dst) (a b : Src) (s : State) : Host.Outcome State Fault Refusal := alu2 d a b (pure2 (fcmp .gt)) s

/-- FCMP_GE (R101). -/
def execFcmpGe (d : Dst) (a b : Src) (s : State) : Host.Outcome State Fault Refusal := alu2 d a b (pure2 (fcmp .ge)) s

/-- FCMP_UN (R101). -/
def execFcmpUn (d : Dst) (a b : Src) (s : State) : Host.Outcome State Fault Refusal := alu2 d a b (pure2 fcmpUn) s


end Sys2Proof.Machine
end

