-- ==== Sys2Proof/Machine/Restore.lean ====
section
/-!
DEFINITION. Context images restored (R343, R346, R347): the parts whose layout is open, the header, and the groups,
registers, scratchpads, barriers and channels of Table 20.6.
-/

namespace Sys2Proof.Config

open Sys2Proof.Machine

/-- What the bytes of sections 5 to 8 whose layout is open stand for, where this machine did not write them (R344 leaves their layout open): the
grids, frames, nodes, bins, slots, copies, operations and regions of an image, if they stand for any.
Log: DESIGN CHOICE (entry 5). -/
opaque imageParts (sections : List (List Byte)) : Option Saved

end Sys2Proof.Config

namespace Sys2Proof.Machine

open Sys2Proof

/-! ### Identifiers -/

/-- A wait with its identifiers moved on by `k`. -/
def Wait.shift (k : Nat) : Wait → Wait
  | .line b n => .line (b + k) n
  | .op o => .op (o + k)
  | .grid g => .grid (g + k)
  | w => w

/-- A lane with its identifiers moved on. -/
def Lane.shift (k : Nat) (l : Lane) : Lane :=
  { l with
    status := match l.status with | .parked w pc => .parked (w.shift k) pc | x => x
    sigs := l.sigs.map fun x => (x.1, match x.2 with | .matrix o => .matrix (o + k) | y => y)
    owned := l.owned.map fun x => (x.1, x.2.1, x.2.2 + k) }

/-- A group with its identifiers moved on. -/
def Group.shift (k : Nat) (g : Group) : Group :=
  { g with gid := g.gid + k, grid := g.grid + k, block := g.block + k, lanes := g.lanes.map (Lane.shift k) }

/-- A grid with its identifiers moved on, in context `c`. What it has been dealt so far still counts (R80); a task group that
waited for the answer to a page fault makes its decision again (R232).
Log: DEDUCED (entry 102). -/
def Grid.shift (k c : Nat) (g : Grid) : Grid :=
  { g with
    uid := g.uid + k, ctx := c, held := false, parent := g.parent.map (· + k), pred := g.pred.map (· + k)
    gbarArrived := g.gbarArrived.map fun x => (x.1 + k, x.2) }

/-- A copy with its identifiers moved on; the engine resumes a held one (R184). -/
def Copy.shift (k c : Nat) (x : Copy) : Copy :=
  { x with id := x.id + k, ctx := c, gid := x.gid + k, block := x.block + k, held := none }

/-- An operation with its identifiers moved on. Its core is that of its block's new place.
Log: DESIGN CHOICE (entry 158). -/
def MxOp.shift (k c : Nat) (x : MxOp) : MxOp :=
  { x with
    id := x.id + k, ctx := c, block := x.block + k, core := 160
    signers := x.signers.map fun y => { y with gid := y.gid + k }
    phase := match x.phase with | .operands _ _ => .queued | p => p
    nums := x.nums.map fun y => (y.1 + k, y.2) }

/-- A bin as it is restored: the lanes that were parked on it issue their nemit again (R292). -/
def Bin.restored (b : Bin) : Bin := { b with waiters := [], held := false }

/-- The parts of an image with every identifier moved on by `k`, in context `c`. -/
def Saved.shift (k c : Nat) (p : Saved) : Saved :=
  { p with
    ctx := { p.ctx with
      frames := p.ctx.frames.map fun f => { f with grid := f.grid + k }
      granQ := []
      failures := p.ctx.failures.map fun x => (x.1 + k, x.2)
      bins := p.ctx.bins.map fun x => (x.1, x.2.restored) }
    grids := p.grids.map (Grid.shift k c)
    copies := p.copies.map (Copy.shift k c)
    ops := p.ops.map (MxOp.shift k c)
    tickets := p.tickets.map fun x => (x.1, (x.2.1 + k, x.2.2))
    stamps := p.stamps.map fun x => { x with block := x.block + k }
    lost := p.lost.map fun x => (x.1 + k, x.2)
    blocks := p.blocks.map fun x => (x.1 + k, x.2.1 + k, x.2.2)
    groups := p.groups.map (Group.shift k) }

/-- A number above every identifier of the parts of an image. -/
def Saved.top (p : Saved) : Nat :=
  ((p.grids.map (·.uid)) ++ (p.copies.map (·.id)) ++ (p.ops.map (·.id)) ++ (p.blocks.map (·.1)) ++
    (p.groups.map (·.gid))).foldl max 0 + 1

/-! ### Reading bytes -/

/-- The number of `n` bytes at offset `o` of a byte list. -/
def numAt (bs : List Byte) (o n : Nat) : Nat := leNat ((bs.drop o).take n)

/-- A word, and two words, at an offset. -/
def wordAt (bs : List Byte) (o : Nat) : Word := BitVec.ofNat 32 (numAt bs o 4)

/-- A 64-bit number at an offset. -/
def dwordAt (bs : List Byte) (o : Nat) : DWord := BitVec.ofNat 64 (numAt bs o 8)

/-- A capability at an offset, with a tag. -/
def capAt (bs : List Byte) (o : Nat) (tag : Bool) : Cap :=
  capOfWords ((upto 4).map fun i => wordAt bs (o + 4 * i)) tag

/-- Cut a list into runs of `n`; each unit of fuel is a run.
Log: DEDUCED (entry 78). -/
def runsOf (n : Nat) : Nat → List Byte → List (List Byte)
  | 0, _ => []
  | fuel + 1, bs => if bs.isEmpty ∨ n = 0 then [] else bs.take n :: runsOf n fuel (bs.drop n)

/-- A header's fields (Table 20.5); reserved bits read 0 (R4). -/
def headerOf (bs : List Byte) : Header :=
  let w := numAt bs 4 4
  { debug := mbit w 15, edited := mbit w 14, truncated := mbit w 13, log := mbit w 12, priority := w / 2 ^ 10 % 4
    domain := mbit w 9, kind := w % 16, key := BitVec.ofNat 8 (numAt bs 10 1), asid := numAt bs 8 4 % 512
    tsect := numAt bs 12 4 % 16, poolbase := dwordAt bs 0x10, poolsize := numAt bs 0x18 4, privbase := dwordAt bs 0x20
    dumpbase := dwordAt bs 0x28, dumpsize := dwordAt bs 0x30, dfaddr := dwordAt bs 0x38, logbase := dwordAt bs 0x40
    logsize := numAt bs 0x48 4, logwritten := wordAt bs 0x4C, logdropped := wordAt bs 0x50, stampbase := dwordAt bs 0x58
    stampsize := numAt bs 0x60 4, stampwritten := wordAt bs 0x64, stampdropped := wordAt bs 0x68
    tracebase := dwordAt bs 0x70, tracesize := numAt bs 0x78 4, tracewritten := wordAt bs 0x7C
    cycles := dwordAt bs 0x88, policy := ((bs.drop 0x90).take 32).map fun b => b &&& 3
    perf := (upto 8).map fun i => wordAt bs (0xB0 + 4 * i) }

/-- Section `n` of the image at a physical address whose header is `hd`, read under the lease key. -/
def State.sectionAt (s : State) (a : Nat) (hd : List Byte) (n : Nat) : List Byte :=
  let off := numAt hd (0xD0 + 16 * n) 8
  let len := numAt hd (0xD8 + 16 * n) 8
  if hbmSize < a + off + len then [] else s.hbmBytes s.leaseKey (a + off) len

/-! ### Lanes and groups -/

/-- A loop state from 48 bytes; its body is fetched when the lane next issues (R130). -/
def loopOf (active : Bool) (bs : List Byte) : Option Loop :=
  if !active then none
  else
    let steps := (upto 8).map fun i => BitVec.ofNat 22 (numAt bs (16 + 4 * i) 4)
    some { n := wordAt bs 0, p := wordAt bs 4, i := numAt bs 8 4, len := numAt bs 12 4, steps := steps.filter fun x => x != 0, body := [] }

/-- A window map from 4 bytes (R387). -/
def mapOfBytes (bs : List Byte) : List Quad :=
  ((bs.take 4).filter fun b => 128 ≤ b.toNat).map fun b => BitVec.ofNat 4 b.toNat

/-- The waits that a restored lane goes on with; any other lane issues its instruction again: what waited for a page fault,
another device, a window slot, a channel, granules or a bin (R240, R248, R292, R338, R339).
Log: DESIGN CHOICE (entry 45). -/
def Wait.keeps (w : Wait) : Bool := [1, 2, 5, 9, 10, 11, 12, 13].contains w.row

/-- A lane's status: from the record's state code and wait kind, and from the saved wait where they say that it waits. A faulted
lane issues its instruction again (R333), and so does a lane whose wait kind is another than its saved wait's.
Log: DESIGN CHOICE (entry 45), DEDUCED (entry 79). -/
def statusOf (word : Nat) (old : Lane) : LaneStatus :=
  match word % 16 with
  | 0 => .ready
  | 3 => .ready
  | 4 => .ready
  | 5 => .exited
  | 6 => if old.helper && old.status == .exited then .exited else .empty
  | _ =>
    match old.status with
    | .parked (.signed cv) pc => if word % 16 = 2 then .parked (.signed cv) pc else .ready
    | .parked w pc => if word % 16 = 1 ∧ w.row = word / 16 % 16 ∧ w.keeps then .parked w pc else .ready
    | .held b => if word % 16 = 2 then .held b else .ready
    | _ => .ready

/-- A thread from its lane record and its part of the registers section, over what was saved of it.
Log: DESIGN CHOICE (entry 45), DEDUCED (entries 80, 87, 125). -/
def laneOf (rec' regs : List Byte) (n : Nat) (old : Lane) (kind : Nat) (planted : List Nat) : Lane :=
  let word := numAt rec' 16 4
  let poison := numAt regs 0 8
  let depth := numAt regs 10 2
  let fl := numAt rec' 216 4
  let held := fun (bit o : Nat) (was : Option PWord) =>
    if mbit fl bit then
      let v := wordAt rec' o
      some (match was with | some w => if w.val = v then w else { val := v } | none => { val := v })
    else none
  { old with
    status := statusOf word old
    regs := (upto n).map fun i => { val := wordAt regs (16 + 4 * i), poison := mbit poison i }
    tags := BitVec.ofNat 16 (numAt regs 8 2)
    code := capAt rec' 0 (mbit word 31)
    anchor := if capAt rec' 0 true == { old.code with tag := true } then old.anchor else dwordAt rec' 0
    entry := dwordAt rec' 88
    stack := ((upto depth).map fun i => capAt regs (16 + 4 * n + 16 * i) true).reverse
    depth := depth
    loop := loopOf (mbit word 10) ((rec'.drop 96).take 48)
    shadow := { loop := loopOf (numAt rec' 156 4 != 0) ((rec'.drop 144).take 48), map := mapOfBytes (rec'.drop 192) }
    tvec := wordAt rec' 32, tcause := wordAt rec' 36, tpc := dwordAt rec' 40, tdata := dwordAt rec' 48
    x0 := wordAt rec' 56, x1 := wordAt rec' 60, x2 := wordAt rec' 64, x3 := wordAt rec' 68
    tiletag := wordAt rec' 72, chflags := wordAt rec' 76 &&& 1, arreason := wordAt rec' 80, crew := numAt rec' 84 4
    cycOff := dwordAt rec' 196
    inHandler := mbit word 8 || word % 16 == 3
    heldA := held 0 208 old.heldA, heldB := held 1 212 old.heldB
    pendReplay := mbit word 9
    async := if mbit word 11 then old.async else []
    halted := false, kill := old.kill, lastIssue := 0, returned := [], stale := [], passed := false
    stepOver := if 2 ≤ kind then planted.contains (numAt rec' 0 8) else old.stepOver
    heldBack := false, stopped := none
    token := if dwordAt rec' 0 = old.code.cursor then old.token else none }

/-- A node-table entry from its 32 bytes, if it is declared (Table 17.1); the capability for its task groups' frames is not in
the table.
Log: DEDUCED (entry 119). -/
def nodeOf (bs : List Byte) (data : Cap) : Option Node :=
  let w := wordAt bs 16
  let v := wordAt bs 24
  if w.getLsbD 31 then
    some { code := capAt bs 0 true, kill := w.getLsbD 30, width := 8 * 2 ^ field w 28 2, regs := 8 * (field w 25 3 + 1)
           size := 4 * (field w 16 6 + 1), count := field w 8 6 + 1, timeout := numAt bs 20 4, frame := field v 16 10
           lines := field v 0 16, data := data }
  else none

/-- A slot entry from its 16 bytes, if it is granted: the register, its key and its tag (Table 17.2). -/
def slotOf (bs : List Byte) : Option (Nat × Word × Word) :=
  let w := wordAt bs 0
  if w.getLsbD 31 then some (field w 0 4, wordAt bs 4, wordAt bs 8) else none

/-- The incumbent slots of section 7, with their registers.
Log: DEDUCED (entry 119). -/
def slotsIn (bs : List Byte) : List (Nat × Nat × Word × Word) :=
  (upto 16).filterMap fun k => (slotOf ((bs.drop (bs.length - 320 + 16 * k)).take 16)).map fun x => (k, x)

/-- The parts of an image with what its tasks section holds: the declared nodes, the granted slots and the counters, and of the
bins those of declared nodes, each record of its node's size (R285, R288, R298). An absent section declares nothing.
Log: DEDUCED (entry 119). -/
def Saved.withTasks (p : Saved) (bs : List Byte) : Saved :=
  let full := decide (8512 ≤ bs.length)
  let nodes := if full then (upto 256).filterMap fun k =>
      (nodeOf ((bs.drop (32 * k)).take 32) (((tget k p.ctx.nodes).map (·.data)).getD {})).map fun n => (k, n)
    else []
  let tail := bs.length - 64
  let count := fun (i : Nat) => if full then dwordAt bs (tail + 8 * i) else 0
  { p with ctx := { p.ctx with
      nodes := nodes
      hasNodes := !nodes.isEmpty
      slots := if full then (slotsIn bs).map fun x => (x.1, x.2.1) else []
      dropEmit := count 0, dropBin := count 1, kills := count 2
      bins := p.ctx.bins.filterMap fun b =>
        match tget (b.1 % 256) nodes with
        | some n => if b.1 < 1024 then some (b.1, { b.2 with records := b.2.records.map fun r => r.take (n.size / 4) }) else none
        | none => none } }

/-- A group record: its head and its lane records. -/
structure Raw where
  head : List Byte
  lanes : List (List Byte)
  regs : List (List Byte) := []

/-- The width and the declared count of a group record. -/
def Raw.dims (r : Raw) : Nat × Nat :=
  let w := numAt r.head 8 4
  (8 * 2 ^ (w / 2 ^ 16 % 4), 8 * (w / 2 ^ 18 % 8 + 1))

/-- The group records of a groups section without its breakpoint table. -/
def rawGroups : Nat → List Byte → List Raw
  | 0, _ => []
  | fuel + 1, bs =>
    if bs.length < 256 then []
    else
      let w := 8 * 2 ^ (numAt bs 8 4 / 2 ^ 16 % 4)
      { head := bs.take 256, lanes := runsOf 256 w ((bs.drop 256).take (256 * w)) } :: rawGroups fuel (bs.drop (256 + 256 * w))

/-- The lanes of the registers section of a group of `w` lanes and `n` registers, and what follows.
Log: DEDUCED (entry 77). -/
def rawRegs (n : Nat) : Nat → List Byte → List (List Byte) × List Byte
  | 0, bs => ([], bs)
  | w + 1, bs =>
    let len := 16 + 4 * n + 16 * numAt bs 10 2
    let r := rawRegs n w (bs.drop len)
    (bs.take len :: r.1, r.2)

/-- Every group with its registers, and the row window states that follow.
Log: DEDUCED (entry 77). -/
def joinRegs : List Raw → List Byte → List Raw × List Byte
  | [], bs => ([], bs)
  | g :: t, bs =>
    let d := g.dims
    let r := rawRegs d.2 d.1 bs
    let rest := joinRegs t r.2
    ({ g with regs := r.1 } :: rest.1, rest.2)

/-- The helper lanes of a group at birth (R76). -/
def helperAt (blksize gidx w k : Nat) : Bool :=
  let n := min w (blksize - gidx * w)
  decide (n ≤ k) && decide (k < (n + 3) / 4 * 4)

/-- A group from its records, over what was saved of it. `block` is its block's identifier, `row` gives a saved window
state.
Log: DEDUCED (entries 82, 125, 139). -/
def groupOf (p : Saved) (c gid uid block : Nat) (r : Raw) (rows : List (List Quad × BitVec 16 × DWord)) (kind : Nat)
    (planted : List Nat) (chans : List Byte) (csum : DWord) (s : State) : Group :=
  let h := r.head
  let d := r.dims
  let gidx := numAt h 8 4 % 65536
  let fl := numAt h 28 4
  let old := p.groups.find? fun g => g.block == block && g.gidx == gidx
  let base : Group := old.getD { gid := gid }
  let blank := fun (k : Nat) => ({ helper := helperAt (numAt h 12 4) gidx d.1 k } : Lane)
  let lanes := (upto d.1).map fun k =>
    laneOf (r.lanes.getD k []) (r.regs.getD k []) d.2 ((base.lanes[k]?).getD (blank k)) kind planted
  let handle := dwordAt h 32
  let row := numAt (r.lanes.getD 0 []) 204 4
  let member : Option Member :=
    if !mbit fl 1 then none
    else
      some { handle := handle, target := capAt h 48 true
             anchor := match base.region with
               | some m => if { m.target with tag := true } == capAt h 48 true then m.anchor else dwordAt h 48
               | none => dwordAt h 48
             voted := mbit fl 2
             aborted := match s.regionOf handle with
               | some i => if (s.region i).state == .aborted then some (s.region i).reason else none
               | none => some 7 }
  let lost := match member with | some m => m.aborted | none => none
  { base with
    gid := old.elim gid (·.gid), agent := .core 160, ctx := c, grid := uid, block := block, gidx := gidx, width := d.1
    regs := d.2, row := 0, slot := 0
    lanes := lanes.map fun l =>
      match lost with
      | some reason =>
        if l.unexited && !l.helper && !(l.async.any fun a => match a with | .region _ => true | .engine _ _ _ => false) then
          { l with async := l.async ++ [.region reason] }
        else l
      | none => l
    engseq := wordAt h 16
    recs := (upto 8).map fun i =>
      { target := dwordAt h (64 + 24 * i), members := dwordAt h (72 + 24 * i), arrived := dwordAt h (80 + 24 * i) }
    chans := (upto 16).map fun n =>
      if mbit (numAt chans (8 * n + 6) 2) 0 then some (numAt chans (8 * n) 4, numAt chans (8 * n + 4) 2) else none
    csum := csum
    bound := if mbit fl 0 then some (wordAt h 24) else none
    region := member
    spec := if lost.isSome then [] else base.spec
    nrec := BitVec.ofNat 32 (fl / 2 ^ 8 % 256)
    nodeid := if mbit fl 3 then BitVec.ofNat 32 (fl / 2 ^ 16 % 256) else 0xFFFFFFFF
    taskKill := if mbit fl 3 then ((tget (fl / 2 ^ 16 % 256) p.ctx.nodes).map (·.kill)).getD false else false
    evicted := true
    saved := some (rows.getD row ([], 0, 0))
    freed := lanes.all fun l => !l.unexited }

/-! ### Blocks -/

/-- Read a share of the scratchpad section into the memory and pclr table of its block: `o` is the space-2 offset.
Log: DEDUCED (entry 81). -/
def linesInto : List (List Byte) → Nat → Memory × List (Nat × Nat) → Memory × List (Nat × Nat)
  | [], _, m => m
  | bs :: t, line, m =>
    let a := 128 * line
    let mem := m.1.setBytes a (bs.take 128)
    let mem := (upto 8).foldl (fun (x : Memory) g => if mbit (numAt bs 128 1) g then x.setTag (a + 16 * g) true else x) mem
    let mem := (upto 16).foldl (fun (x : Memory) w => if mbit (numAt bs 129 2) w then x.mark 8 (a + 8 * w) 8 else x) mem
    let pclr := if mbit (numAt bs 131 1) 1 then tput line (numAt bs 136 16) m.2 else m.2
    linesInto t (line + 1) (mem, pclr)

/-- The shares of the scratchpad section: frame granule, block index, first line, and lines.
Log: DEDUCED (entry 78). -/
def rawShares : Nat → List Byte → List (Nat × Nat × Nat × List (List Byte))
  | 0, _ => []
  | fuel + 1, bs =>
    if bs.length < 16 then []
    else
      let n := numAt bs 12 4
      (numAt bs 4 4, numAt bs 0 4, numAt bs 8 4 / 128, runsOf 152 n ((bs.drop 16).take (152 * n))) ::
        rawShares fuel (bs.drop (16 + 152 * n))

/-- A straggler record from 16 bytes (Table 12.6). -/
def stragglerOf (bs : List Byte) : Straggler :=
  let w := numAt bs 0 4
  let v := numAt bs 4 4
  { valid := mbit w 31, fspeed := w / 2 ^ 21 % 32, lspeed := w / 2 ^ 16 % 32, gidx := w / 256 % 256, core := w % 256
    kind := v / 2 ^ 31, block := v % 2 ^ 31, first := wordAt bs 8, last := wordAt bs 12 }

/-- A roster entry from 544 bytes, with its slot. -/
def rosterOf (bs : List Byte) : Nat × Roster :=
  (numAt bs 8 4 % 32,
   { off := numAt bs 0 4, n := numAt bs 4 4, arrived := numAt bs 16 256, dropped := numAt bs 272 256
     began := numAt bs 16 256 != 0, record := stragglerOf (bs.drop 528) })

/-- A phase has begun, too, where its first arriver has dropped: the object keeps the time and the speed of the first
arrival until the phase completes (R219, R224). -/
def Block.resumeRoster (b : Block) : Block :=
  { b with roster := b.roster.map fun x =>
      (x.1, { x.2 with began := x.2.began || b.objWord x.2.off 2 != 0 || field (b.objWord x.2.off 3) 0 5 != 0 }) }

/-- A convergence register from 272 bytes. -/
def cvOf (bs : List Byte) : CvReg :=
  let w := numAt bs 0 4
  { kind := w / 2 ^ 30, gen := w / 2 ^ 24 % 64, signed := w / 2 ^ 12 % 4096, count := w % 4096, mask := numAt bs 16 256 }

/-- The blocks of the barrier-state section: frame granule, index, roster, registers; and what follows. -/
def rawBarriers : Nat → List Byte → List (Nat × Nat × List (Nat × Roster) × List (Nat × CvReg)) × List Byte
  | 0, bs => ([], bs)
  | n + 1, bs =>
    let k := numAt bs 8 4 % 33
    let roster := ((runsOf 544 k ((bs.drop 16).take (544 * k))).map rosterOf).foldl (fun t x => tput x.1 x.2 t) []
    let cvs := (upto 16).zip ((runsOf 272 16 ((bs.drop (16 + 544 * k)).take 4352)).map cvOf)
    let r := rawBarriers n (bs.drop (16 + 544 * k + 4352))
    ((numAt bs 4 4, numAt bs 0 4, roster, cvs) :: r.1, r.2)

/-- The gbar state of a grid from its 48 bytes; of the threads that it counts as arrived, those stand in the lanes that wait, but
for the helpers, and the others in what was saved of the grid (R77, R230).
Log: DEDUCED (entry 140). -/
def Grid.withGbar (g : Grid) (groups : List Group) (bs : List Byte) : Grid :=
  let gen := wordAt bs 4
  let here := (groups.filter fun x => x.grid == g.uid).flatMap fun x =>
    (x.numbered.filter fun y => !y.2.helper && match y.2.status with | .parked (.gbar n) _ => n == gen | _ => false).map fun y =>
      (x.block, x.tidx y.1)
  { g with
    gbarGen := gen, gbarFirst := wordAt bs 12, gbarFspeed := numAt bs 16 4 % 32, gbarRecord := stragglerOf (bs.drop 32)
    gbarArrived := here ++ (g.gbarArrived.dedup.filter fun x => !here.contains x).take (numAt bs 8 4 - here.length) }

/-! ### The restore -/

/-- Why an image is not restored: a wrong header, a truncated image, an identifier that is not live, a wrong check without
the debug right, or a node that never fits (R287, R318, R343).
Log: DEDUCED (entry 76). -/
def State.restorable (s : State) (a : Nat) (hd : List Byte) (secs : List (List Byte)) (p : Option Saved) : Bool :=
  let h := headerOf hd
  decide (a % 4096 = 0) && decide (a + 4096 ≤ hbmSize) && wordAt hd 0 == 0x1A6EC0DE && decide (numAt hd 7 1 = 1) &&
  decide (h.kind ≤ 4) && !h.truncated && (s.asid h.asid).live &&
  (h.kind == 0 || dwordAt hd 0x80 == checkOf secs || h.debug) &&
  match p with
  | none => false
  | some p => p.ctx.nodes.all fun n => (taskGrid 0 0 0 n.1 n.2 []).fits

/-- The parts of an image: what this machine wrote, the image of the same check before others whose open parts are alike, or
what the bytes stand for; with them what the tasks section says.
Log: DESIGN CHOICE (entry 5), DEDUCED (entry 119). -/
def State.partsOf (s : State) (secs : List (List Byte)) : Option Saved :=
  let mine := openParts secs
  let alike := s.images.filter fun p => p.sections == mine
  let p := match alike.find? fun p => p.check == checkOf secs with
    | some p => some p
    | none => alike.head?.orElse fun _ => Config.imageParts mine
  p.map fun p => p.withTasks (secs.getD 7 [])

/-- Re-make an image's items as context `c` (R346, R347). A birth image launches its root grid from the frames section. The
incumbents and their replicas are reloaded, and no improvement of them is on its way any more (R298); tentative speculative
operations take records again (R208).
Log: DESIGN CHOICE (entry 5), DEDUCED (entries 87, 139). -/
def State.remake (s : State) (c : Nat) (hd : List Byte) (secs : List (List Byte)) (p0 : Saved) : State :=
  let k := s.nextId
  let p := p0.shift k c
  let s := { s with nextId := k + p0.top + (secs.getD 0 []).length / 512 + 8 }
  let h := headerOf hd
  let edited := h.edited || (h.kind != 0 && dwordAt hd 0x80 != checkOf secs)
  let sec0 := secs.getD 0 []
  let table := sec0.drop (sec0.length - 1024)
  let bkpts := (((runsOf 16 64 table).filter fun b => numAt b 0 16 != 0).map fun b => (numAt b 0 8, wordAt b 8)).foldl
    (fun t x => tput x.1 x.2 t) []
  let raws := rawGroups (sec0.length / 256) (sec0.take (sec0.length - 1024))
  let j := joinRegs raws (secs.getD 1 [])
  let rows := (runsOf 16 (j.2.length / 16) j.2).map fun b =>
    (mapOfBytes b, BitVec.ofNat 16 (numAt b 4 2), dwordAt b 8)
  let uidOf := fun (frame : Nat) => ((p.grids.find? fun g => g.frame == frame && g.framed).map (·.uid)).getD k
  let bidOf := fun (frame index : Nat) =>
    let uid := uidOf frame
    match p.blocks.find? fun b => b.2.1 == uid && b.2.2 == index with
    | some b => b.1
    | none => k + p0.top + index % 4
  let where' := fun (r : Raw) => (numAt r.head 0 4, numAt r.head 4 4)
  let blocks := firsts (j.1.map where')
  let bar := rawBarriers blocks.length (secs.getD 3 [])
  let planted := bkpts.map (·.1)
  let groups := ((upto j.1.length).zip j.1).map fun x =>
    let w := where' x.2
    groupOf p c (k + p0.top + 4 + x.1) (uidOf w.1) (bidOf w.1 w.2) x.2 rows h.kind planted
      (((secs.getD 4 []).drop (128 * x.1)).take 128) (dwordAt bar.2 (16 * x.1)) s
  let shares := rawShares ((secs.getD 2 []).length / 16 + 1) (secs.getD 2 [])
  let newBlocks := blocks.map fun w =>
    let uid := uidOf w.1
    let bid := bidOf w.1 w.2
    let g := (p.grids.find? fun g => g.uid == uid).getD (noGrid uid)
    let mem := (shares.filter fun x => x.1 == w.1 && x.2.1 == w.2).foldl (fun m x => linesInto x.2.2.2 x.2.2.1 m)
      (({} : Memory), ([] : List (Nat × Nat)))
    let b := bar.1.find? fun x => x.1 == w.1 && x.2.1 == w.2
    let crews := ((upto p.tickets.length).zip p.tickets).filterMap fun t =>
      if t.2.2.1 == bid then some (({ engine := t.2.1, place := t.1 } : Rank), t.2.2.2) else none
    let block : Block :=
      { bid := bid, grid := uid, index := w.2, lines := g.lines, scratch := mem.1, pclr := mem.2
        roster := (b.map fun x => x.2.2.1).getD [], cvs := (b.map fun x => x.2.2.2).getD []
        rest := some
          { crews := crews
            stamps := p.stamps.filter fun t => t.block == bid
            lost := (p.lost.filter fun t => t.1 == bid).map (·.2)
            early := s.cores.flatMap fun x => x.2.tickets }
        ranks := crews.map fun c => (c.2, c.1) }
    block.resumeRoster
  let gbars := runsOf 48 64 (bar.2.drop (16 * j.1.length))
  let grids := p.grids.map fun g =>
    match gbars.find? fun b => g.coop && numAt b 0 4 == g.frame with
    | some b => g.withGbar groups b
    | none => g
  let queued := (grids.filter fun g => g.state == .queued).map (·.uid)
  let ctx : Ctx :=
    { p.ctx with
      phase := .running, hdr := { h with edited := edited }, bkpts := bkpts, entries := [], reports := [], request := .none, owed := []
      waiting := none, lastEntry := none, givenUp := [], ending := none }
  let keys := if 8512 ≤ (secs.getD 7 []).length then (slotsIn (secs.getD 7 [])).map (·.2) else []
  let members := p.groups.map fun g => (g.gid - k, g.gid)
  let moved := fun (ms : List Nat) => ms.map fun m => ((members.find? fun x => x.1 == m).map (·.2)).getD m
  let t : State := { s with
    ctxs := tput c ctx s.ctxs
    groups := s.groups ++ groups.map fun g => { g with spec := [] }
    blocks := s.blocks ++ newBlocks
    grids := s.grids ++ grids
    copies := s.copies ++ p.copies
    ops := s.ops ++ p.ops
    launchQ := tput h.priority (s.launchQueue h.priority ++ queued) s.launchQ
    incumbents := keys.foldl (fun t x => tput x.1 x.2 t) s.incumbents
    dies := keys.foldl (fun (t : List (Nat × Die)) x =>
      (upto 4).foldl (fun t d =>
        let y := (tget d t).getD {}
        tput d { y with replicas := tput x.1 x.2 y.replicas, coming := y.coming.filter fun z => z.1 != x.1 } t) t) s.dies
    regions := s.regions.map fun (x : Nat × Region) =>
      (x.1, { x.2 with
        members := moved x.2.members
        ctx := if x.2.ctx == savedCtx && p.regions.contains (x.1, x.2.count) then c else x.2.ctx }) }
  groups.foldl (fun t g => g.spec.foldl (fun t o => t.speculate g.gid o) t) t

/-- Restore the image at a physical address as context `c`: a restore that fails completes with status 2, as does one that finds
slot 0 empty (R370).
Log: DEDUCED (entry 75), DESIGN CHOICE (entry 144). -/
def State.restore (s : State) (c a : Nat) : State :=
  if s.leaseLost then (s.complexFault a .read).1.modCtx c fun _ => { phase := .running, ending := some 2 }
  else
  let hd := s.hbmBytes s.leaseKey a 512
  let secs := (upto 10).map (s.sectionAt a hd)
  let p := s.partsOf secs
  match p with
  | some q => if s.restorable a hd secs p then s.remake c hd secs q else s.modCtx c fun _ => { phase := .running, ending := some 2 }
  | none => s.modCtx c fun _ => { phase := .running, ending := some 2 }

end Sys2Proof.Machine
end

