-- ==== Sys2Proof/Machine/Complex.lean ====
section
/-!
DEFINITION. The complex-only instructions (R359 to R364): evwait, qlock, qunlock, ctxrun and priv, with what their operations
do to contexts, TLBs, identifiers, keys, breakpoints, engines, fault records and queues.
-/

namespace Sys2Proof.Machine

open Sys2Proof

/-! ### The frame of a complex-only instruction -/

/-- On a compute core a complex-only word is a privilege fault (R44), which writes 0 to the `width` registers from D of a helper
lane (R77); on a Kolesque core it runs in the core's one lane.
Log: DEDUCED (entry 21). -/
def withComplex (s : State) (d : Reg) (width : Nat) (f : Work → LRef → Nat → Host.Outcome State Fault Refusal) :
    Host.Outcome State Fault Refusal :=
  withGather s fun w =>
    match w.l.agent, w.live with
    | .core _, _ => ((w.strikeAll w.live 0x15 (w.l.word.setWidth 64)).zeroRegs codeD d.toNat width).finish
    | .kcore _, [] => w.finish
    | .kcore k, r :: _ => f w r k

/-- What an operation gives: it waits, or a state, its status word, and the block that replaces A to A + 3, or a trap with a cause
and an address. -/
inductive Done where
  | wait (s : State)
  | trap (s : State) (cause : Byte) (a : DWord)
  | now (s : State) (status : Word) (out : List Word)

/-- A refusal (R359): bit 31, with the code in bits 7:0.
Log: DEDUCED (entry 90). -/
def refused (s : State) (code : Nat) : Done := .now s (BitVec.ofNat 32 (2 ^ 31 + code)) []

/-- Done with status 0. -/
def finished (s : State) : Done := .now s 0 []

/-- A ctxrun or priv operation: the words of the block at A that `reads` names are read, and the status goes to D.
Log: DEDUCED (entry 21). -/
def complexOp (s : State) (d a : Reg) (reads : List Nat) (f : State → (Nat → Word) → Done) : Host.Outcome State Fault Refusal :=
  withComplex s d 1 fun w _ _ =>
    let w := w.begin [rfld codeD d, rfld codeA a 4]
    match w.live with
    | [] => w.finish
    | r :: _ =>
      let word := fun i => w.s.reg r (w.rnum r codeA a.toNat + i)
      if reads.any fun i => (word i).poison then (w.strike r 0x0A 0).finish
      else
        match f w.s fun i => (word i).val with
        | .wait s => (({ w with s := s } : Work).hold r).done
        | .trap s c a => (({ w with s := s } : Work).strikeAt r c a a).finish
        | .now s status out =>
          let s := s.wrs r (w.rnum r codeA a.toNat) (out.map fun v => { val := v })
          ({ w with s := s.wr r (w.rnum r codeD d.toNat) { val := status } } : Work).finish

/-- The D and A fields of a priv word. -/
def privFields (s : State) : Reg × Reg :=
  match s.issue with
  | some l => (BitVec.ofNat 6 (bitsAt l.word.toNat 19 6), BitVec.ofNat 6 (bitsAt l.word.toNat 12 6))
  | none => (0, 0)

/-- A priv operation (R362): its fields stand in the word. -/
def privRun (s : State) (reads : List Nat) (f : State → (Nat → Word) → Done) : Host.Outcome State Fault Refusal :=
  let p := privFields s
  complexOp s p.1 p.2 reads f

/-- The 64-bit number of two words. -/
def longAt (word : Nat → Word) (i : Nat) : Nat := (pair64 (word (i + 1)) (word i)).toNat

/-! ### Handover (R364, R369) -/

/-- The bytes of a firmware image.
Log: DEDUCED (entry 75). -/
def State.imageBytes (s : State) (a : Nat) : List Byte :=
  match s.firmware a with
  | some (_, c, d) => s.hbmBytes s.leaseKey a (32 + c + d)
  | none => []

/-- A measurement as bytes.
Log: DESIGN CHOICE (entry 41). -/
def measBytes (m : BitVec 512) : List Byte := leBytes 64 m.toNat

/-- The handover, once every core that is not retired has stopped: Sexton measures the successor first. The cores start with the
watchdog limit of Table 21.1.
Log: DEDUCED (entry 94). -/
def State.tryHandover (s : State) : State :=
  match s.complex.successor with
  | none => s
  | some a =>
    if (upto 12).all fun k => (s.kcore k).status == .stopped || (s.kcore k).status == .retired then
      let x := s.sexton
      let s := { s with sexton := { x with
        meas := Config.shake256 (measBytes x.meas ++ measBytes (Config.shake256 (s.imageBytes a)))
        handovers := x.handovers + 1 } }
      let s := s.loadCores a
      { s with complex := { s.complex with
          fwimg := BitVec.ofNat 64 a, handover := true, successor := none, state := .running, wdog := 100000 } }
    else s

/-- Retire a Kolesque core for the lease (R366): event 0x0A, and its own event goes back to the queue; a handover waits for it
no longer (R364). The third retirement starts the crash path, which puts back every event in progress together (R365).
Log: DEDUCED (entry 92). -/
def State.retireCore (s : State) (k : Nat) : State :=
  let s := s.modKcore k fun x => { x with status := .retired, released := false }
  let s := { s with groups := s.groups.filter fun g => g.gid != kGid k }
  let s := s.event 0x0A (BitVec.ofNat 32 k) 0
  if (s.kcores.filter fun x => x.2.status == .retired).length = 3 then s.crash 0xFE
  else ((s.requeue (s.kcore k).event.toList).modKcore k fun x => { x with event := none }).tryHandover

/-! ### evwait, qlock, qunlock (R360) -/

/-- EVWAIT: the current event ends, its lock released, and the core parks until an event is handed to it.
Log: DEDUCED (entry 21). -/
def execEvwait (d : Reg) (s : State) : Host.Outcome State Fault Refusal :=
  withComplex s d 4 fun w _ k =>
    let w := w.begin [rfld codeD d 4]
    match w.live with
    | [] => w.finish
    | r :: _ =>
      let dest := w.rnum r codeD d.toNat
      let s := (w.s.releaseLock k).modKcore k fun x =>
        { x with
          event := none, released := false, dest := dest
          status := if w.s.complex.successor.isSome then .stopped else .idle }
      let w := { w with s := s }.park r .event
      { w with s := w.s.tryHandover }.done

/-- The word of vA of a queue instruction. -/
def Work.queueArg (w : Work) (r : LRef) (a : Reg) : PWord := w.s.reg r (w.rnum r codeA a.toNat)

/-- Queue `q` is that of the current event of core `k`.
Log: DESIGN CHOICE (entry 47). -/
def State.eventQueueIs (s : State) (k q : Nat) : Bool :=
  match (s.kcore k).event with
  | some e => e.ofQueue && e.queue == q
  | none => false

/-- QLOCK: parks until the lock of queue A serves the ticket of the current event; a fatal complex trap if A is not the
event's queue. An event that has no ticket any more passes.
Log: DESIGN CHOICE (entries 47, 152). -/
def execQlock (a : Reg) (s : State) : Host.Outcome State Fault Refusal :=
  withComplex s 0 0 fun w _ k =>
    let w := w.begin [rfld codeA a]
    match w.live with
    | [] => w.finish
    | r :: _ =>
      let q := w.queueArg r a
      if q.poison then (w.strike r 0x0A 0).finish
      else if !w.s.eventQueueIs k q.val.toNat then (w.strike r Config.qlockCause 0).finish
      else if w.s.passesLock k then { w with s := w.s.acquires r deviceScope }.finish
      else ({ w with s := w.s.modKcore k fun x => { x with status := .qlock } }.park r (.lock q.val.toNat)).done

/-- QUNLOCK: advances the lock of queue A past the current ticket, if the current event holds it. -/
def execQunlock (a : Reg) (s : State) : Host.Outcome State Fault Refusal :=
  withComplex s 0 0 fun w _ k =>
    let w := w.begin [rfld codeA a]
    match w.live with
    | [] => w.finish
    | r :: _ =>
      let q := w.queueArg r a
      if q.poison then (w.strike r 0x0A 0).finish
      else if w.s.eventQueueIs k q.val.toNat && w.s.holdsLock k then { w with s := w.s.releaseLock k }.finish
      else w.finish

/-! ### ctxrun (R361) -/

/-- A context is in a transition.
Log: DEDUCED (entry 86). -/
def Ctx.moving (c : Ctx) : Bool := c.phase == .halting || c.phase == .saving || c.ending.isSome

/-- An operation on the context that A names: refused on a number that names none, or a free one, and while the context is
in a transition. -/
def ctxOp (s : State) (word : Nat → Word) (f : Nat → Ctx → Done) : Done :=
  let n := (word 0).toNat
  if 256 ≤ n ∨ (s.ctx n).phase = .free then refused s 1
  else if (s.ctx n).moving then refused s 2
  else f n (s.ctx n)

/-- CTXRUN_RUN: the lowest free context number takes the image, and the operation finishes with its event.
Log: DEDUCED (entry 76). -/
def execCtxrunRun (d a : Reg) (s : State) : Host.Outcome State Fault Refusal :=
  complexOp s d a [1, 2] fun s word =>
    match (upto 256).find? fun c => (s.ctx c).phase == .free with
    | none => refused s 2
    | some c => .now ((s.restore c (longAt word 1)).opFinished c 0) (BitVec.ofNat 32 (0x40000000 + c)) []

/-- CTXRUN_HALT. -/
def execCtxrunHalt (d a : Reg) (s : State) : Host.Outcome State Fault Refusal :=
  complexOp s d a [0] fun s word => ctxOp s word fun n c =>
    finished (if c.phase = .running then s.haltCtx n (.halt 1) else s.opFinished n 1)

/-- A halted or frozen context goes on in place; a save that waited for this begins (R361, Table 20.4).
Log: DEDUCED (entry 86). -/
def State.resumeCtx (s : State) (ctx : Nat) : State :=
  (s.unhaltLanes ctx).modCtx ctx fun c =>
    { c with
      entries := [], reports := [], waiting := none
      phase := if c.waiting.isSome then .saving else .running
      request := match c.waiting with | some a => .save a | none => .none }

/-- CTXRUN_RESUME. A frozen context is resumed once its copies and operations have drained (R184, R340). -/
def execCtxrunResume (d a : Reg) (s : State) : Host.Outcome State Fault Refusal :=
  complexOp s d a [0] fun s word => ctxOp s word fun n c =>
    if c.phase = .frozen ∧ !s.drained n then .wait s
    else finished ((if c.phase = .running then s else s.resumeCtx n).opFinished n 2)

/-- The rows of a halted context leave as they stand, and give up their slots (R155); its faulted lanes are saved as such and issue
again after the restore, and a lane at a planted breakpoint executes the original word once (R335, R340, R345, R350).
Log: DEDUCED (entry 85). -/
def State.evictHalted (s : State) (ctx : Nat) : State :=
  let s := s.freeLanes ctx
  { s with
    groups := s.groups.map fun (g : Group) => if g.ctx == ctx && !g.isK then { g with evicted := true } else g
    cores := s.cores.map fun (x : Nat × Core) => (x.1, { x.2 with rows := x.2.rows.map fun (y : Nat × Row) =>
      (y.1, if (s.grid y.2.grid).ctx == ctx then y.2.evict else y.2) }) }

/-- CTXRUN_SAVE: pre-emption into the image area at A + 1, A + 2; of a context being dumped it waits.
Log: DEDUCED (entries 76, 85, 86). -/
def execCtxrunSave (d a : Reg) (s : State) : Host.Outcome State Fault Refusal :=
  complexOp s d a [0, 1, 2] fun s word =>
    let n := (word 0).toNat
    let im := longAt word 1
    let c := s.ctx n
    let dumping : Bool := match c.request with | .dump _ => true | .ctxDump => true | _ => false
    if 256 ≤ n ∨ c.phase = .free ∨ im % 4096 ≠ 0 ∨ hbmSize ≤ im then refused s 1
    else if c.phase == .halting && dumping && c.waiting.isNone then finished (s.modCtx n fun c => { c with waiting := some im })
    else if c.moving ∨ c.waiting.isSome then refused s 2
    else
      let s := if c.phase = .running then s else s.evictHalted n
      finished (s.modCtx n fun c => { c with phase := .saving, request := .save im })

/-- CTXRUN_DUMP. -/
def execCtxrunDump (d a : Reg) (s : State) : Host.Outcome State Fault Refusal :=
  complexOp s d a [0] fun s word => ctxOp s word fun n c =>
    finished (if c.phase = .running then s.haltCtx n .ctxDump
      else s.modCtx n fun c => { c with phase := .halting, request := .ctxDump, owed := [4] })

/-- CTXRUN_KILL. -/
def execCtxrunKill (d a : Reg) (s : State) : Host.Outcome State Fault Refusal :=
  complexOp s d a [0] fun s word => ctxOp s word fun n _ => finished (s.killCtx n true)

/-- The code of Table 21.6. -/
def CtxPhase.code : CtxPhase → Word
  | .free => 0
  | .running => 1
  | .halting => 2
  | .halted => 3
  | .frozen => 4
  | .saving => 5

/-- CTXRUN_STATE. -/
def execCtxrunState (d a : Reg) (s : State) : Host.Outcome State Fault Refusal :=
  complexOp s d a [0] fun s word =>
    if 256 ≤ (word 0).toNat then refused s 1 else .now s (s.ctx (word 0).toNat).phase.code []

/-! ### priv 0 to 2: TLBs, identifiers, keys (R318, R323, R370) -/

/-- Drop the TLB entries that satisfy a test from every TLB.
Log: DEDUCED (entry 25). -/
def State.dropTlb (s : State) (p : TlbEntry → Bool) : State :=
  { s with
    cores := s.cores.map fun (x : Nat × Core) => (x.1, { x.2 with tlb := x.2.tlb.filter fun e => !p e })
    dies := s.dies.map fun (x : Nat × Die) => (x.1, { x.2 with tlb := x.2.tlb.filter fun e => !p e }) }

/-- The accesses of lanes that are not complete: those that another device has still to answer, and those whose answer a lane,
halted or saved with its row or not, has still to take. Only accesses to other devices outlast a step.
Log: DEDUCED (entry 25). -/
def State.accessing (s : State) : List Remote :=
  s.remotes ++ (s.groups.filter fun g => !g.freed).flatMap fun g =>
    g.lanes.flatMap fun l => l.returned.map (·.acc)

/-- An invalidation of what covers some addresses of identifiers (R323): the entries go, and it is complete once every access
that used such a translation is.
Log: DEDUCED (entry 25). -/
def State.invalidate (s : State) (p : TlbEntry → Bool) (used : Remote → Bool) (f : State → Done) : Done :=
  let s := s.dropTlb p
  if s.accessing.any used then .wait s else f s

/-- PRIV_TLB_INVALIDATE_ALL; mode 3 is a bad operand. -/
def execPrivTlbInvalidateAll (s : State) : Host.Outcome State Fault Refusal :=
  privRun s [0] fun s word =>
    if (word 0).toNat % 4 = 3 then refused s 1 else s.invalidate (fun _ => true) (fun _ => true) finished

/-- PRIV_TLB_INVALIDATE_ASID. -/
def execPrivTlbInvalidateAsid (s : State) : Host.Outcome State Fault Refusal :=
  privRun s [0, 1] fun s word =>
    let n := (word 1).toNat
    if 512 ≤ n then refused s 1 else s.invalidate (·.asid == n) (·.asid == n) finished

/-- PRIV_TLB_INVALIDATE_RANGE: pages in bits 31:8 of A from the address at A + 2, A + 3. -/
def execPrivTlbInvalidateRange (s : State) : Host.Outcome State Fault Refusal :=
  privRun s [0, 1, 2, 3] fun s word =>
    let n := (word 1).toNat
    let va := longAt word 2
    let top := va + 4096 * ((word 0).toNat / 256)
    if 512 ≤ n ∨ va % 4096 ≠ 0 then refused s 1
    else s.invalidate (fun e => e.asid == n && decide (e.va < top) && decide (va < e.va + e.size))
      (fun x => x.asid == n && decide (x.leaf.1 < top) && decide (va < x.leaf.1 + x.leaf.2)) finished

/-- PRIV_IDENTIFIER_ENTRY: words 0, 1 and 3 of Table 19.3; clearing live invalidates its translations first (R318, R323). -/
def execPrivIdentifierEntry (s : State) : Host.Outcome State Fault Refusal :=
  privRun s [0, 1, 2, 3] fun s word =>
    let n := (word 0).toNat
    let live := (word 3).getLsbD 31
    let e : Asid :=
      { live := live, key := field (word 3) 0 6, root := field (word 2) 0 20 * 2 ^ 32 + field (word 1) 12 20 * 2 ^ 12 }
    if 512 ≤ n then refused s 1
    else
      let set := fun (s : State) => finished { s with asids := tput n e s.asids }
      if live then set s else s.invalidate (·.asid == n) (·.asid == n) set

/-- PRIV_KEY_LOAD: 64 bytes of key material, read under the lease key, once no region is installing records there (R311), and then
zeroed. With slot 0 empty the read is a fatal page fault with reason 8 (R370), and with the fault queue full it is made again.
Log: DESIGN CHOICE (entry 144). -/
def execPrivKeyLoad (s : State) : Host.Outcome State Fault Refusal :=
  privRun s [0, 1, 2, 3] fun s word =>
    let n := (word 0).toNat
    let a := longAt word 1
    if n = 0 ∨ 64 ≤ n then refused s 1
    else if (tget n s.keys).isSome then refused s 2
    else if hbmSize < a + 64 then refused s 1
    else if s.leaseLost then
      match s.complexFault a .read with
      | (s, none) => .wait s
      | (s, some _) => .trap s 0x09 (BitVec.ofNat 64 a)
    else
      let s := s.awaitLines a 64
      let m := leNat (s.hbmBytes s.leaseKey a 64)
      let s := s.outsideWrite s.leaseKey a (List.replicate 64 0)
      finished { s with keys := tput n (3 * m + 1) s.keys }

/-- The die-cache lines under an erased key go without write-back (R370): what they held is under a number that no key has. Of the
sectors written under the key by itself these are the lines that Config.lineKept does not keep; those that stand under it as all
of HBM did at the beginning of the lease are not told apart.
Log: DESIGN CHOICE (entry 36). -/
def State.loseLines (s : State) (key : Nat) : State :=
  let (s, id) := s.fresh
  { s with
    baseKey := if s.baseKey = key then 3 * id + 2 else s.baseKey
    sectorKeys := s.sectorKeys.map fun x =>
      if x.2 == key && !Config.lineKept s.steps (x.1 / 4) then (x.1, 3 * id + 2) else x }

/-- PRIV_KEY_DESTROY: refused while a live identifier or the aperture names the slot; else its key is erased, and the
die-cache lines under it that had not been written back are lost (R370).
Log: DESIGN CHOICE (entry 36), DEDUCED (entry 90). -/
def execPrivKeyDestroy (s : State) : Host.Outcome State Fault Refusal :=
  privRun s [0, 3] fun s word =>
    let n := (word 0).toNat
    if 64 ≤ n then refused s 1
    else if (s.asids.any fun x => x.2.live && x.2.key == n) ∨ s.aperSlot.toNat = n then refused s 2
    else
      match s.keyOf n with
      | none => finished s
      | some key => finished { s.loseLines key with keys := tdel n s.keys, leaseLost := s.leaseLost || n == 0 }

/-! ### priv 3 to 5: breakpoints and the debug right (R350, R351) -/

/-- The word that a planted breakpoint puts in place. -/
def bkptWord : Word := 0xF8000000

/-- Write a code word of a context where a fetch finds it, or none where it does not translate on this device. -/
def State.pokeCode (s : State) (ctx va : Nat) (w : Word) : Option State :=
  match s.locate none 0 (s.ctx ctx).hdr.asid va .fetch with
  | (s, .ok (.hbm key pa)) => some (s.outsideWrite key pa (leBytes 4 w.toNat))
  | _ => none

/-- The word that a fetch of a context finds at an address, once no region is installing records there (R311). -/
def State.peekCode (s : State) (ctx va : Nat) : Option Word :=
  match s.locate none 0 (s.ctx ctx).hdr.asid va .fetch with
  | (s, .ok (.hbm key pa)) => some (BitVec.ofNat 32 (leNat ((s.awaitLines pa 4).hbmBytes key pa 4)))
  | _ => none

/-- An operation on the debug right of the context that A names.
Log: DEDUCED (entry 90). -/
def debugOp (s : State) (word : Nat → Word) (f : Nat → Ctx → Done) : Done :=
  let n := (word 0).toNat
  if 256 ≤ n ∨ (s.ctx n).phase = .free then refused s 1
  else if !(s.ctx n).hdr.debug then refused s 3
  else f n (s.ctx n)

/-- PRIV_PLANT_BREAKPOINT. -/
def execPrivPlantBreakpoint (s : State) : Host.Outcome State Fault Refusal :=
  privRun s [0, 1, 2] fun s word => debugOp s word fun n c =>
    let va := longAt word 1
    if va % 4 ≠ 0 ∨ (tget va c.bkpts).isSome then refused s 1
    else if 64 ≤ c.bkpts.length then refused s 2
    else
      match s.peekCode n va, s.pokeCode n va bkptWord with
      | some old, some t => finished (t.modCtx n fun c => { c with bkpts := tput va old c.bkpts })
      | _, _ => refused s 1

/-- PRIV_REMOVE_BREAKPOINT. -/
def execPrivRemoveBreakpoint (s : State) : Host.Outcome State Fault Refusal :=
  privRun s [0, 1, 2] fun s word => debugOp s word fun n c =>
    let va := longAt word 1
    match tget va c.bkpts with
    | none => refused s 1
    | some old =>
      match s.pokeCode n va old with
      | none => refused s 1
      | some t => finished (t.modCtx n fun c => { c with bkpts := tdel va c.bkpts })

/-- PRIV_REVOKE_DEBUG: the original words go back, the table empties, and halted groups resume; it waits for a dump or a
halt under way to be complete (R351).
Log: DEDUCED (entry 90). -/
def execPrivRevokeDebug (s : State) : Host.Outcome State Fault Refusal :=
  privRun s [0] fun s word => debugOp s word fun n c =>
    if c.phase = .halting then .wait s
    else
      let s := c.bkpts.foldl (fun (s : State) b => (s.pokeCode n b.1 b.2).getD s) s
      let s := s.modCtx n fun c => { c with bkpts := [], hdr := { c.hdr with debug := false } }
      finished (if c.phase = .halted then s.resumeCtx n else s)

/-! ### priv 6, 7: engines, derate (R16, R284, R379) -/

/-- An operation runs or stands in its engine's queue. -/
def MxOp.inEngine (o : MxOp) : Bool :=
  match o.phase with
  | .queued => true
  | .operands _ _ => true
  | .computing _ _ => true
  | _ => false

/-- The accumulators of an operation's signers become poisoned, its waiters go on, and its signers take engine reset. -/
def State.discardOp (s : State) (o : MxOp) : State :=
  let n := o.perSigner
  let s := o.signers.foldl (fun s x => s.modLane (x.gid, x.lane) fun l =>
    let l := (upto n).foldl (fun (l : Lane) i =>
      l.setReg (x.d + i) { l.regs.getD (x.d + i) {} with poison := true }) l
    match l.status with
    | .parked (.op id) pc => if id = o.id then l.advance pc else l
    | _ => l) s
  let s := { s with groups := s.groups.map fun (g : Group) =>
    if g.isK || g.block != o.block then g
    else { g with lanes := g.lanes.map fun (l : Lane) =>
      match l.status with
      | .parked (.op id) pc => if id = o.id then l.advance pc else l
      | _ => l } }
  (s.releaseOp o).tellSigners o 0x0F

/-- The crews whose lanes wait for the baton of an engine, at a btake or an mx, in the order in which the lanes began to
wait (R284).
Log: DEDUCED (entry 63). -/
def State.batonWaiters (s : State) (core : Nat) : List (Nat × Nat) :=
  let lanes := (s.groups.filter fun g => !g.isK && (s.block g.block).rest.isNone && (s.block g.block).core0 == core).flatMap fun g =>
    (g.lanes.filter fun l => match l.status with | .parked .baton _ => true | _ => false).map fun l =>
      (l.parkedAt, (g.block, l.crew))
  ((sortBy (fun a b => decide (a.1 < b.1)) lanes).map (·.2)).foldl (fun t x => if t.contains x then t else t ++ [x]) []

/-- Reset an engine: the operations of blocks that run or queue there are discarded, its baton queue is emptied, and the
lanes that wait for the baton take tickets again (R284). -/
def State.resetEngine (s : State) (core : Nat) : State :=
  let s := (s.ops.filter fun o => o.core == core && o.inEngine).foldl State.discardOp s
  s.modCore core fun k => { k with tickets := s.batonWaiters core }

/-- PRIV_ENGINE_RESET. -/
def execPrivEngineReset (s : State) : Host.Outcome State Fault Refusal :=
  privRun s [0] fun s word =>
    if 160 ≤ (word 0).toNat then refused s 1 else finished (s.resetEngine (word 0).toNat)

/-- PRIV_DERATE: the derate takes effect within 10 us; a threshold of 0 leaves Cicada's unchanged. -/
def execPrivDerate (s : State) : Host.Outcome State Fault Refusal :=
  privRun s [0, 1] fun s word =>
    let ms := (word 1).toNat
    if 8 ≤ (word 0).toNat ∨ 65536 ≤ ms then refused s 1
    else finished { s with derateNext := some (word 0).toNat, hangMs := if ms = 0 then s.hangMs else ms }

/-! ### priv 8, 9: fault records (R321, R322) -/

/-- The fault record that a block names. -/
def State.faultAt (s : State) (word : Nat → Word) : Option FaultRec :=
  if 4 ≤ (word 0).toNat ∨ 1024 ≤ (word 1).toNat then none else tget (word 1).toNat (s.die (word 0).toNat).faults

/-- A record ends. -/
def State.dropFault (s : State) (die i : Nat) : State := s.modDie die fun d => { d with faults := tdel i d.faults }

/-- The lanes of a record that still wait for its answer. -/
def State.waitingOn (s : State) (die i : Nat) (f : FaultRec) : List LRef :=
  f.lanes.filter fun r => match (s.lane r).status with
    | .parked (.replay d j) _ => d == die && j == i
    | _ => false

/-- PRIV_FAULT_REPLAY: the record's lanes issue again, with the bodies of their loops fetched again (R130), its copies resume,
and held launch decisions are made again. -/
def execPrivFaultReplay (s : State) : Host.Outcome State Fault Refusal :=
  privRun s [0, 1, 2] fun s word =>
    let die := (word 0).toNat
    let i := (word 1).toNat
    match s.faultAt word with
    | none => refused s 1
    | some f =>
      if f.fatal ∨ (word 2).toNat ≠ 0 then refused s 1
      else
        let s := (s.waitingOn die i f).foldl (fun s r => s.modLane r fun l =>
          { l with status := .ready, loop := l.loop.map Loop.refetch }) s
        let s := f.copies.foldl (fun s c => s.modCopy c fun x => { x with held := none }) s
        let s := f.grids.foldl (fun s g => s.modGrid g fun x => { x with held := false }) s
        let s := s.dropFault die i
        finished (f.bins.foldl (fun (s : State) b =>
          (s.modBin b.1 b.2.1 b.2.2 fun x => { x with held := false }).launchDecision b.1 b.2.1 b.2.2 300) s)

/-- PRIV_FAULT_FAIL: the record's lanes take fatal page fault, its copies fail, and held launch decisions lose their
records. Return entries that could not be spilled or saved are given up (R353).
Log: DEDUCED (entries 56, 84). -/
def execPrivFaultFail (s : State) : Host.Outcome State Fault Refusal :=
  privRun s [0, 1, 2] fun s word =>
    let die := (word 0).toNat
    let i := (word 1).toNat
    match s.faultAt word with
    | none => refused s 1
    | some f =>
      if f.fatal ∨ (word 2).toNat ≠ 1 then refused s 1
      else
        let lanes := s.waitingOn die i f
        let s := lanes.foldl (fun (s : State) r =>
          (s.modLane r fun l => { l with status := .ready, pendReplay := false }).cutStack r) s
        let s := f.saves.foldl (fun (s : State) c => s.modCtx c fun x => { x with givenUp := sput (f.va / 4096) x.givenUp }) s
        let traps := lanes.map fun r =>
          ({ lane := r, cause := 0x09, pc := (s.lane r).pc, data := (s.lane r).faultVa, addr := (s.lane r).faultVa } : Trap)
        let ctxs := (lanes.map fun r => (s.group r.1).ctx).dedup
        let s := s.dropFault die i
        let s := ctxs.foldl (fun (s : State) c => s.handle c (traps.filter fun t => (s.group t.lane.1).ctx == c)) s
        let s := f.copies.foldl (fun (s : State) c =>
          match s.copies.find? fun x => x.id == c with
          | some x => let h := x.held.getD { die := die, index := i, va := f.va, xfer := 0 }; s.failCopy { x with held := none } h.va h.xfer
          | none => s) s
        finished (f.bins.foldl (fun (s : State) b =>
          s.failDecision b.1 b.2.1 b.2.2 (((tget b.2.2 (s.ctx b.1).nodes).map (·.count)).getD 0) f.va)
            (f.grids.foldl (fun (s : State) g => s.failGrid g f.va) s))

/-- PRIV_READ_FAULT_RECORD: the record's words replace A to A + 3; a fatal record ends. -/
def execPrivReadFaultRecord (s : State) : Host.Outcome State Fault Refusal :=
  privRun s [0, 1] fun s word =>
    match s.faultAt word with
    | none => refused s 1
    | some f => .now (if f.fatal then s.dropFault (word 0).toNat (word 1).toNat else s) 0 f.words

/-! ### priv 10 to 13 -/

/-- PRIV_POOL_QUERY: A receives the free granules of a context.
Log: DESIGN CHOICE (entry 46). -/
def execPrivPoolQuery (s : State) : Host.Outcome State Fault Refusal :=
  privRun s [0] fun s word =>
    let n := (word 0).toNat
    if 256 ≤ n ∨ (s.ctx n).phase = .free then refused s 1
    else .now s 0 (BitVec.ofNat 32 (s.ctx n).freeGranules :: [1, 2, 3].map (Config.poolWord s.steps))

/-- PRIV_QUEUE_DISABLE; an A + 1 that is neither 0 nor 1 is a bad operand. -/
def execPrivQueueDisable (s : State) : Host.Outcome State Fault Refusal :=
  privRun s [0, 1] fun s word =>
    if 1024 ≤ (word 0).toNat ∨ (word 1).toNat ≠ 0 then refused s 1
    else finished (s.modQueue (word 0).toNat fun q => { q with active := false })

/-- PRIV_QUEUE_ACTIVATE: clears the queue's error state and its tickets.
Log: DESIGN CHOICE (entry 152). -/
def execPrivQueueActivate (s : State) : Host.Outcome State Fault Refusal :=
  privRun s [0, 1] fun s word =>
    if 1024 ≤ (word 0).toNat ∨ (word 1).toNat ≠ 1 then refused s 1
    else finished ((s.voidTickets (word 0).toNat).modQueue (word 0).toNat fun _ => { active := true })

/-- PRIV_MSIX.
Log: DESIGN CHOICE (entry 98). -/
def execPrivMsix (s : State) : Host.Outcome State Fault Refusal :=
  privRun s [0] fun s word =>
    if 64 ≤ (word 0).toNat then refused s 1 else finished { s with msix := sput (word 0).toNat s.msix }

/-- PRIV_HANDOVER: the complex takes no further events, and cores at evwait have stopped (R364).
Log: DEDUCED (entries 90, 94). -/
def execPrivHandover (s : State) : Host.Outcome State Fault Refusal :=
  privRun s [1, 2] fun s word =>
    let a := longAt word 1
    if (s.firmware a).isNone then refused s 1
    else if s.complex.successor.isSome then refused s 2
    else finished { s with
      complex := { s.complex with state := .handover, successor := some a }
      kcores := s.kcores.map fun (x : Nat × KCore) =>
        (x.1, { x.2 with status := if x.2.status == KStatus.idle then KStatus.stopped else x.2.status }) }

end Sys2Proof.Machine
end

