-- ==== Sys2Proof/Machine/Cvt.lean ====
section
/-!
DEFINITION. The conversions, major 0x04 (R107, R108).
-/

namespace Sys2Proof.Machine

open Sys2Proof

/-- CVT_F32_I32 (R67, R107). -/
def execCvtF32I32 (d : Dst) (a : Src) (s : State) : Host.Outcome State Fault Refusal := alu1 d a (pure1 fun x => rneF32 (fOfInt (asI32 x))) s

/-- CVT_F32_N32 (R67, R107). -/
def execCvtF32N32 (d : Dst) (a : Src) (s : State) : Host.Outcome State Fault Refusal := alu1 d a (pure1 fun x => rneF32 (fOfInt (asN32 x))) s

/-- CVT_I32_F32 (R67, R107). -/
def execCvtI32F32 (d : Dst) (a : Src) (s : State) : Host.Outcome State Fault Refusal := alu1 d a (pure1 (cvtInt .trunc true)) s

/-- CVT_N32_F32 (R67, R107). -/
def execCvtN32F32 (d : Dst) (a : Src) (s : State) : Host.Outcome State Fault Refusal := alu1 d a (pure1 (cvtInt .trunc false)) s

/-- CVT_I32_F32_RN (R67, R107). -/
def execCvtI32F32Rn (d : Dst) (a : Src) (s : State) : Host.Outcome State Fault Refusal := alu1 d a (pure1 (cvtInt .near true)) s

/-- CVT_F16_F32 (R67, R107). -/
def execCvtF16F32 (d : Dst) (a : Src) (s : State) : Host.Outcome State Fault Refusal := alu1 d a (pure1 (cvtFmt f32 f16)) s

/-- CVT_F32_F16 (R67, R107). -/
def execCvtF32F16 (d : Dst) (a : Src) (s : State) : Host.Outcome State Fault Refusal := alu1 d a (pure1 (cvtFmt f16 f32)) s

/-- CVT_E8M7_F32 (R67, R107). -/
def execCvtE8m7F32 (d : Dst) (a : Src) (s : State) : Host.Outcome State Fault Refusal := alu1 d a (pure1 (cvtFmt f32 e8m7)) s

/-- CVT_F32_E8M7 (R67, R107). -/
def execCvtF32E8m7 (d : Dst) (a : Src) (s : State) : Host.Outcome State Fault Refusal := alu1 d a (pure1 (cvtFmt e8m7 f32)) s

/-- PACK_F16 (R108). -/
def execPackF16 (d : Dst) (a b : Src) (s : State) : Host.Outcome State Fault Refusal := alu2 d a b (pure2 (packF32 f16)) s

/-- PACK_E8M7 (R108). -/
def execPackE8m7 (d : Dst) (a b : Src) (s : State) : Host.Outcome State Fault Refusal := alu2 d a b (pure2 (packF32 e8m7)) s

/-- SEXT_8 (R107). -/
def execSext8 (d : Dst) (a : Src) (s : State) : Host.Outcome State Fault Refusal := alu1 d a (pure1 fun x => (x.setWidth 8).signExtend 32) s

/-- SEXT_16 (R107). -/
def execSext16 (d : Dst) (a : Src) (s : State) : Host.Outcome State Fault Refusal := alu1 d a (pure1 fun x => (x.setWidth 16).signExtend 32) s

/-- ZEXT_8 (R107). -/
def execZext8 (d : Dst) (a : Src) (s : State) : Host.Outcome State Fault Refusal := alu1 d a (pure1 fun x => (x.setWidth 8).setWidth 32) s

/-- ZEXT_16 (R107). -/
def execZext16 (d : Dst) (a : Src) (s : State) : Host.Outcome State Fault Refusal := alu1 d a (pure1 fun x => (x.setWidth 16).setWidth 32) s


end Sys2Proof.Machine
end

