-- ==== Sys2Proof/Machine/Events.lean ====
section
/-!
DEFINITION. The events of the machine's own agents and of the outside world: completion, halts and eviction, dealing, the
command complex (R356 to R366), the host windows and Sexton (R367 to R375), power and Cicada (R377 to R379), links (R381,
R383, R384) and board management (R385).
-/

namespace Sys2Proof.Machine

open Sys2Proof

/-! ### Contexts (R211, R332, R335, R338, R349) -/

/-- The regions of a context that is torn down: those it opened abort and are freed, and its member groups leave theirs after
they abort (R300, R332). -/
def State.dropRegions (s : State) (ctx : Nat) : State :=
  let opened := (s.regions.filter fun x => decide (x.1 < 256) && x.2.ctx == ctx).map (·.1)
  let gids := (s.groups.filter fun g => !g.isK && g.ctx == ctx).map (·.gid)
  let joined := (s.groups.filter fun g => !g.isK && g.ctx == ctx).filterMap fun g => g.region.bind fun m => s.regionOf m.handle
  let s := (opened ++ joined).foldl (fun (s : State) i => s.abortRegion i 7) s
  let s := joined.foldl (fun (s : State) i =>
    (s.modRegion i fun x => { x with members := x.members.filter fun m => !gids.contains m }).freeRegion i) s
  opened.foldl (fun (s : State) i =>
    match tget i s.regions with
    | none => s
    | some r =>
      if r.state == RegionState.committing then s.modRegion i fun x => { x with ctx := savedCtx }
      else { s with regions := tdel i s.regions }) s

/-- The teardown of a context whose work has drained (R332).
Log: DEDUCED (entry 50). -/
def State.teardown (s : State) (ctx : Nat) : State :=
  let s := s.dropRegions ctx
  let h := (s.ctx ctx).hdr
  let s := match (s.ctx ctx).lastEntry with
    | some e => if 64 ≤ h.dumpsize.toNat then (s.quietWrite ctx 0 h.dumpbase.toNat e.bytes).getD s else s
    | none => s
  (s.leave ctx).modCtx ctx fun c =>
    { c with frames := [], granQ := [], bins := [], lastEntry := none, request := .none, ending := some 1 }

/-- A halted context. -/
def State.settleHalt (s : State) (ctx : Nat) : State :=
  s.modCtx ctx fun c => { c with phase := .halted, request := .none }

/-- A halt, a teardown or a save that has come to its end. -/
def State.haltDone (s : State) (ctx : Nat) : State :=
  match (s.ctx ctx).phase, (s.ctx ctx).request with
  | .halting, .kill event =>
    let s := (s.teardown ctx).payOwed ctx
    if event then s.opFinished ctx 5 else s
  | .halting, .dump true => ((s.dump ctx).teardown ctx).payOwed ctx
  | .halting, .dump false => ((s.dump ctx).settleHalt ctx).payOwed ctx
  | .halting, .ctxDump => ((s.dump ctx).settleHalt ctx).payOwed ctx
  | .halting, _ => (s.settleHalt ctx).payOwed ctx
  | .saving, .save a => (s.preempt ctx a).opFinished ctx 3
  | _, _ => s

/-- HALT_COMPLETE: context `a` has halted or is evicted, and its copies and operations have drained (R335). A save that meets a
page fault in a return region has it served first (R322, R353).
Log: DEDUCED (entry 84). -/
def execHaltComplete (s : State) : Host.Outcome State Fault Refusal :=
  let n := s.ev.a
  let c := s.ctx n
  .next (if (c.phase == .halting || (c.phase == .saving && s.allEvicted n && !s.saveWaits n)) && s.drained n then
      match if c.phase == .saving then s.stackFault n else none with
      | some x => s.holdSave n x
      | none => s.haltDone n
    else s)

/-- ROW_EVICTION: row `b` of core `a` is evicted for a save: its words are refreshed, its threads' cycle values are kept, and it
gives up its slot (R155, R158, R338, R352). -/
def execRowEviction (s : State) : Host.Outcome State Fault Refusal :=
  let core := s.ev.a
  let row := s.ev.b
  .next (if s.evictable core row then
      ({ s with groups := s.groups.map fun (g : Group) =>
          if g.agent == Agent.core core && g.row == row && !g.freed then
            { (g.refreshed s.steps).stopAt (s.core core).cycles with evicted := true }
          else g }).modRow core row Row.evict
    else s)

/-- CONTEXT_COMPLETION: context `a` has ended, and every write of it is visible; its completion event is sent and its number is
free (R211). -/
def execContextCompletion (s : State) : Host.Outcome State Fault Refusal :=
  let n := s.ev.a
  let status := match (s.ctx n).ending with
    | some st => some st
    | none => if s.finished n then some 0 else none
  .next (match if s.owesWrites n then none else status with
    | some st =>
      let s := s.leave n
      { s with ctxs := tdel n s.ctxs }.event 0x02 (BitVec.ofNat 32 n) (BitVec.ofNat 32 st)
    | none => s)

/-- FORAGER_DEAL: the Forager serves the launch queue of priority `a` (R80 to R82). -/
def execForagerDeal (s : State) : Host.Outcome State Fault Refusal := .next ((s.deal s.ev.a).getD s)

/-! ### The command complex -/

/-- EVENT_DELIVERY: the head event goes to the idle core `a`, the lowest-numbered one, and a held event takes the place left
(R357, R360); the delivery of a record is an acquire point of the core at device scope (R363). -/
def execEventDelivery (s : State) : Host.Outcome State Fault Refusal :=
  let k := s.ev.a
  let first := (s.kcores.find? fun x => x.2.status == .idle).map (·.1)
  .next (match s.eventQ with
    | [] => s
    | e :: t =>
      if s.complex.state == .running && first == some k then
        let r : LRef := (kGid k, 0)
        let d := (s.kcore k).dest
        let ws := (s.eventWords e).map fun v => ({ val := v } : PWord)
        let s := ({ s with eventQ := t }.modKcore k fun x => { x with status := .running, event := some e, released := false }).wrs r d ws
        (s.refill.acquires r deviceScope).modLane r fun l => match l.status with
          | .parked _ pc => l.advance pc
          | _ => l
      else s)

/-- KTIMER_EXPIRY: the armed timer `a` expires (R356).
Log: DESIGN CHOICE (entry 15). -/
def execKtimerExpiry (s : State) : Host.Outcome State Fault Refusal :=
  .next (if (tget s.ev.a s.complex.ktimers).isSome then
      { s with complex := { s.complex with ktimers := tdel s.ev.a s.complex.ktimers } }.event 0x08 (BitVec.ofNat 32 s.ev.a) 0
    else s)

/-- WATCHDOG_EXPIRY: the event of core `a` has issued for longer than wdog (R365).
Log: DESIGN CHOICE (entry 15). -/
def execWatchdogExpiry (s : State) : Host.Outcome State Fault Refusal :=
  let k := s.kcore s.ev.a
  .next (if k.status == .running && k.event.isSome && s.complex.wdog != 0 then s.crash 0xFF else s)

/-- An instruction memory is reloaded, its core starts at the entry, and its event goes back to the queue (R366).
Log: DEDUCED (entry 92). -/
def State.reloadImem (s : State) (k addr : Nat) : State :=
  match s.firmware s.complex.fwimg.toNat with
  | none => s.retireCore k
  | some (entry, clen, _) =>
    let s := s.requeue ((s.kcore k).event.toList.map fun e => { e with imem := true })
    let s := s.modKcore k fun x =>
      { x with
        status := .running, event := none, released := false, errs := sput addr x.errs
        imem := memoryOf (s.hbmBytes s.leaseKey (s.complex.fwimg.toNat + 32) clen) }
    let g : Group := { gid := kGid k, agent := .kcore k, width := 1, regs := 64, lanes := [kLane entry] }
    { s with groups := (s.groups.filter fun x => x.gid != kGid k) ++ [g] }

/-- IMEM_UNCORRECTABLE_ERROR at an address of core `a` (R366).
Log: DEDUCED (entry 92). -/
def execImemUncorrectableError (s : State) : Host.Outcome State Fault Refusal :=
  let n := s.ev.a
  let k := s.kcore n
  let addr := s.ev.value.toNat
  let again := k.errs.contains addr || (match k.event with | some e => e.imem | none => false)
  .next (if k.status == .reset || k.status == .retired then s
    else if again then s.retireCore n
    else s.reloadImem n addr)

/-- QUEUE_TABLE_ERROR in the entry of queue `a` (R366).
Log: DEDUCED (entry 93). -/
def execQueueTableError (s : State) : Host.Outcome State Fault Refusal :=
  .next (if s.ev.a < 1024 ∧ s.complex.state ≠ .reset then
      (s.modQueue s.ev.a fun q => { q with err := true }).queueEvent 0x09 s.ev.a 0 0
    else s)

/-! ### The host windows (R357, R358, R372, R381) -/

/-- Coalesce a doorbell into the latest waiting doorbell event of its queue, if there is one (R357).
Log: DEDUCED (entry 93). -/
def coalesce (q : Nat) (v : Word) : List EventRec → Option (List EventRec)
  | [] => none
  | e :: t =>
    match coalesce q v t with
    | some t' => some (e :: t')
    | none =>
      if e.kind == 1 && e.queue == q then
        some ({ e with w2 := v, w3 := BitVec.ofNat 32 ((e.w3.toNat + 1) % 65536) } :: t)
      else none

/-- DOORBELL: the host writes a value to the doorbell of queue `a`. One that a full event queue keeps at its source takes what
is written after it (R357).
Log: DEDUCED (entry 93). -/
def execDoorbell (s : State) : Host.Outcome State Fault Refusal :=
  let v := s.ev.value.setWidth 32
  .next (if !s.linkUp || decide (1024 ≤ s.ev.a) || !(s.queue s.ev.a).active then s
    else
      match coalesce s.ev.a v s.eventHeld, coalesce s.ev.a v s.eventQ with
      | some q, _ => { s with eventHeld := q }
      | none, some q => { s with eventQ := q }
      | none, none => s.queueEvent 0x01 s.ev.a v 0)

/-- The base and key of an access through the aperture, if it is open and its slot holds a key.
Log: DEDUCED (entry 95), DESIGN CHOICE (entry 144). -/
def State.aperture (s : State) : Option (Nat × Nat) :=
  if s.sexton.state = 2 ∨ s.sexton.state = 5 then (s.keyOf 0).map fun k => (0, k)
  else if s.sexton.state = 3 then
    if 64 ≤ s.aperSlot.toNat then none else (s.keyOf s.aperSlot.toNat).map fun k => (s.aperBase.toNat, k)
  else none

/-- APERTURE_ACCESS: a host write of bytes, or a read of `b` bytes, at offset `a` of BAR4, which waits while a region installs
its records on the lines (R311). What is closed reads all ones and drops writes.
Log: DEDUCED (entry 95). -/
def execApertureAccess (s : State) : Host.Outcome State Fault Refusal :=
  let n := if s.ev.flag then s.ev.data.length else s.ev.b
  let fits := fun (x : Nat × Nat) => decide (s.ev.a + n ≤ 2 ^ 36) && decide (x.1 + s.ev.a + n ≤ hbmSize)
  .next (if !s.linkUp then s
    else
      match s.aperture with
      | some x =>
        if !fits x then if s.ev.flag then s else { s with hostRead := List.replicate n 0xFF, hostPoison := false }
        else if s.ev.flag then s.outsideWrite x.2 (x.1 + s.ev.a) s.ev.data
        else
          let s := s.awaitLines (x.1 + s.ev.a) n
          { s with hostRead := s.hbmBytes x.2 (x.1 + s.ev.a) n, hostPoison := s.hbmPoison (x.1 + s.ev.a) n }
      | none => if s.ev.flag then s else { s with hostRead := List.replicate n 0xFF, hostPoison := false })

/-! ### Sexton -/

/-- Sexton's state becomes `n`; a change raises an in-band interrupt (R385). -/
def State.setSexton (s : State) (n : Nat) : State :=
  { s with
    sexton := { s.sexton with state := n }
    power := { s.power with ibi := s.power.ibi + if s.sexton.state = n then 0 else 1 } }

/-- The lease of a number begins (R373, steps 1 to 4): everything that is not fused, of the board, or the host's link is as
at reset, and HBM reads as stale, or as zeros if it was overwritten, which leaves retired granules as they are, under their old
keys (R371, R375). The power controller's registers read 0 until they are next measured (Table 23.1), and the record until it is
written (Table 22.3).
Log: DEDUCED (entries 37, 96). -/
def State.beginLease (s : State) (wipe : Bool) : State :=
  let x := s.sexton
  let lease := x.lease + 1
  let wipe := wipe || lease.toNat % 16 == 0
  { State.reset with
    agenda := s.agenda, steps := s.steps, nextId := s.nextId, issue := s.issue, ev := s.ev
    cores := (s.cores.filter fun c => c.2.withheld).map fun (c : Nat × Core) => (c.1, { withheld := true })
    hbm := { cells := if wipe then s.hbm.cells.filter fun c => s.isRetired c.1 else s.hbm.cells }
    baseKey := if wipe then 3 * lease.toNat else 3 * x.lease.toNat
    sectorKeys := if wipe then s.retired.flatMap fun g => (upto 128).map fun k => (128 * g + k, s.sectorKey (4096 * g + 32 * k)) else []
    retired := s.retired, lasting := s.lasting, unspared := s.unspared, spares := s.spares
    sexton :=
      { state := x.state, degraded := x.degraded, overwrite := wipe, lease := lease
        closing := (x.meas, x.handovers), atRequest := (x.asked.map (·.1)).getD x.nonce }
    power := { on := s.power.on, ibi := s.power.ibi }, linkUp := s.linkUp, i3cAddr := s.i3cAddr }

/-- A lease reset is requested (R373): a device without power takes no request (R377), and what a device that is booting accepts
is carried out by the lease reset that the boot makes, after the stages are verified (R368).
Log: DEDUCED (entries 37, 96). -/
def State.leaseReset (s : State) (wipe : Bool) : State :=
  let x := s.sexton
  if !s.power.on ∨ x.state = 1 ∨ x.state = 4 then s
  else if x.state = 0 then
    { s with sexton := { x with asked := some (x.nonce, wipe || match x.asked with | some a => a.2 | none => false) } }
  else (s.beginLease wipe).setSexton 1

/-- LEASE_RESET_REQUEST, with or without overwrite.
Log: DEDUCED (entry 96). -/
def execLeaseResetRequest (s : State) : Host.Outcome State Fault Refusal := .next (s.leaseReset s.ev.flag)

/-- The bank or slice whose spares replace a unit, and how many it has; an HBM row's are open (Table 22.4). The bank of a
main-file row is told by its register.
Log: DEDUCED (entry 97). -/
def Site.bank : Site → Site × Option Nat
  | .hbmRow _ => (.hbmRow 0, none)
  | .regRow core _ reg => (.regRow core 0 (reg % 32), some 8)
  | .windowRow core _ => (.windowRow core 0, some 2)
  | .scratchLine core bank _ => (.scratchLine core bank 0, some 4)
  | .cacheLine die _ => (.cacheLine die 0, some 64)

/-- The spares used of a bank.
Log: DEDUCED (entry 97). -/
def State.sparesUsed (s : State) (b : Site) : Nat := ((s.spares.find? fun x => x.1 == b).map (·.2)).getD 0

/-- One more spare of a bank is used.
Log: DESIGN CHOICE (entry 48), DEDUCED (entry 97). -/
def State.useSpare (s : State) (b : Site) : State :=
  { s with spares := (b, s.sparesUsed b + 1) :: s.spares.filter fun x => x.1 != b }

/-- The core of an on-die unit. -/
def Site.coreOf : Site → Option Nat
  | .regRow core _ _ => some core
  | .windowRow core _ => some core
  | .scratchLine core _ _ => some core
  | _ => none

/-- A lasting unit is replaced by a spare, or with none left retired or withheld (R375).
Log: DEDUCED (entry 97). -/
def State.replaceUnit (s : State) (u : Site) : State :=
  let b := u.bank
  let rec' := s.sexton.record
  match u, b.2 with
  | .hbmRow g, _ =>
    if Config.hbmRepair g (s.sparesUsed b.1) then
      let s := s.useSpare b.1
      { s with sexton := { s.sexton with record := { rec' with hbmspares := rec'.hbmspares + 1 } } }
    else { s with retired := sput g s.retired, unspared := s.unspared ++ [u], sexton := { s.sexton with degraded := true } }
  | _, some n =>
    if s.sparesUsed b.1 < n then
      let s := s.useSpare b.1
      { s with sexton := { s.sexton with record := { rec' with onspares := rec'.onspares + 1 } } }
    else
      let s := match u.coreOf with
        | some c => s.modCore c fun k => { k with withheld := true }
        | none => s
      { s with unspared := s.unspared ++ [u], sexton := { s.sexton with degraded := true } }
  | _, none => s

/-- The scrubbed structure that an on-die unit is of (Table 22.2). -/
def Site.bit : Site → Option Nat
  | .regRow _ _ _ => some 0
  | .windowRow _ _ => some 1
  | .scratchLine _ _ _ => some 2
  | .cacheLine _ _ => some 4
  | .hbmRow _ => none

/-- The record's scrubbed field: a structure's bit is set where every element of it reads back as zero after its spares were
applied, which is open for one with a unit that no spare replaced (R374).
Log: DESIGN CHOICE (entry 48). -/
def State.scrubbedBits (s : State) : BitVec 14 :=
  let reads := fun (i : Nat) =>
    if i = 13 then s.sexton.overwrite
    else !(s.unspared.any fun u => u.bit == some i) || Config.scrubReads s.steps i
  BitVec.ofNat 14 ((upto 14).foldl (fun m i => if reads i then mset m i else m) 0)

/-- The scrub ends (R373, steps 5 and 6): spares, the record, and state 2.
Log: DEDUCED (entry 97). -/
def State.endScrub (s : State) : State :=
  let s := { s with sexton := { s.sexton with record := {} } }
  let s := s.lasting.foldl State.replaceUnit s
  let x := s.sexton
  let record : Record :=
    { x.record with
      valid := true, lease := x.lease, nonce := x.atRequest, scrubbed := s.scrubbedBits
      disabled := (s.cores.filter fun c => c.2.withheld).map (·.1), retired := s.retired.length
      meas := x.closing.1, handovers := x.closing.2 }
  { s with lasting := [], sexton := { x with record := record, recvalid := true, overwrite := false } }.setSexton 2

/-- SCRUB_COMPLETE. -/
def execScrubComplete (s : State) : Host.Outcome State Fault Refusal :=
  .next (if s.sexton.state = 1 then s.endScrub else s)

/-- The firmware at fwaddr is checked, measured and started (R369). -/
def State.fwStart (s : State) : State :=
  if s.sexton.state = 2 ∨ s.sexton.state = 5 then
    let a := s.sexton.fwaddr.toNat
    match s.firmware a with
    | none => s.setSexton 5
    | some _ =>
      let s := { s with
        sexton := { s.sexton with meas := Config.shake256 (s.imageBytes a), handovers := 0 }
        complex := { s.complex with
          state := .running, fwimg := BitVec.ofNat 64 a, cause := 0, crashes := 0, handover := false, warm := false } }
      (s.loadCores a).setSexton 3
  else s

/-- FWSTART. -/
def execFwstart (s : State) : Host.Outcome State Fault Refusal := .next s.fwStart

/-- A host write of a 64-bit value to a register of BAR0, or of bytes to the nonce (Table 22.1, R358, R372). Dies held in reset take
none (R377).
Log: DEDUCED (entry 95). -/
def State.writeBar0 (s : State) (off : Nat) (v : DWord) (bytes : List Byte) : State :=
  if !s.power.on then s
  else if off = 0x10 then if v.getLsbD 0 then s.leaseReset (v.getLsbD 1) else s
  else if off = 0x20 then
    if s.sexton.state = 3 then { s with aperBase := v &&& ~~~(BitVec.ofNat 64 (2 ^ 36 - 1)) } else s
  else if off = 0x28 then if s.sexton.state = 3 then { s with aperSlot := v } else s
  else if off = 0x30 then { s with sexton := { s.sexton with fwaddr := v } }
  else if off = 0x38 then if v.getLsbD 0 then s.fwStart else s
  else if 0x40 ≤ off ∧ off < 0x60 then
    let old := leBytes 32 s.sexton.nonce.toNat
    let bs := if bytes.isEmpty then leBytes 8 v.toNat else bytes
    let new := (upto 32).map fun i => if off - 0x40 ≤ i ∧ i < off - 0x40 + bs.length then bs.getD (i - (off - 0x40)) 0 else old.getD i 0
    { s with sexton := { s.sexton with nonce := BitVec.ofNat 256 (leNat new) } }
  else s

/-- HOST_REGISTER_WRITE at byte `a` of BAR0. -/
def execHostRegisterWrite (s : State) : Host.Outcome State Fault Refusal :=
  .next (if s.linkUp then s.writeBar0 s.ev.a s.ev.value s.ev.data else s)

/-- The bytes 0x000 to 0x1FF of the record (Table 22.3).
Log: DESIGN CHOICE (entry 41). -/
def Record.signedBytes (x : Record) : List Byte :=
  if !x.valid then List.replicate 512 0
  else
    padTo 512 (leBytes 4 0x53C24B01 ++ leBytes 4 1 ++ leBytes 16 Config.deviceId.toNat ++ leBytes 8 x.lease.toNat ++
      leBytes 32 x.nonce.toNat ++ leBytes 4 x.scrubbed.toNat ++ leBytes 4 (x.hbmspares % 65536 * 65536 + x.onspares % 65536) ++
      leBytes 20 (maskOf 160 fun c => x.disabled.contains c) ++ leBytes 4 x.retired ++ leBytes 64 x.meas.toNat ++
      leBytes 4 x.handovers.toNat)

/-- A byte of the record window: the record, then its signature.
Log: DESIGN CHOICE (entry 41). -/
def Record.byteAt (x : Record) (i : Nat) : Byte :=
  if i < 512 then x.signedBytes.getD i 0
  else if i < 0x7660 ∧ x.valid then Config.signature x.signedBytes (i - 512)
  else 0

/-- What the host reads of the 8 bytes at an offset of BAR0 (R358, R367, R382). Write-only and reserved bits read 0; in
states 2 and 5 the aperture registers read 0 (R372).
Log: DEDUCED (entry 95). -/
def State.readBar0 (s : State) (off : Nat) : DWord :=
  let x := s.sexton
  if off = 0x0 then BitVec.ofNat 64 (0x5C09 * 65536 + s.domid.toNat * 256 + Config.stepping.toNat)
  else if off = 0x8 then
    match s.complex.state with
    | .running => 0
    | .handover => 1
    | .crashed => 2
    | .reset => 3
  else if off = 0x18 then
    BitVec.ofNat 64 (x.state % 16 + (if x.recvalid then 256 else 0) + if x.degraded then 512 else 0)
  else if off = 0x20 then if x.state = 3 then s.aperBase else 0
  else if off = 0x28 then if x.state = 3 then s.aperSlot else 0
  else if off = 0x30 then x.fwaddr
  else if 0x40 ≤ off ∧ off < 0x60 then BitVec.ofNat 64 (x.nonce.toNat / 2 ^ (8 * (off - 0x40)))
  else if 0x100 ≤ off ∧ off < 0x140 then BitVec.ofNat 64 (x.meas.toNat / 2 ^ (8 * (off - 0x100)))
  else if off = 0x140 then x.handovers.setWidth 64
  else if 0x8000 ≤ off then BitVec.ofNat 64 (leNat ((upto 8).map fun i => x.record.byteAt (off - 0x8000 + i)))
  else 0

/-! ### Errors that last (R165, R171, R366, R375) -/

/-- The unit of Table 22.4 that an error strikes; data memory and an L1 are none. A scratchpad line is the physical one that the block's
share lies in (R167, R168).
Log: DESIGN CHOICE (entry 105). -/
def State.siteOf (s : State) (u : ErrUnit) : Option Site :=
  let line := fun (block off : Nat) =>
    let b := s.block block
    let x := (b.shares.find? fun x => decide (128 * x.first ≤ off) && decide (off < 128 * (x.first + x.lines))).getD
      { core := 0, first := 0, lines := 0 }
    let k := off / 128 - x.first
    Site.scratchLine x.core (k % 32) (32 * x.chunks.getD (k / 32) 0 + k % 32)
  match u with
  | .reg g _ r => some (.regRow (s.group g).coreOf (s.group g).row r.toNat)
  | .window g _ _ => some (.windowRow (s.group g).coreOf (((s.row (s.group g).coreOf (s.group g).row).slot).getD 0))
  | .regTag g _ q => some (.regRow (s.group g).coreOf (s.group g).row (4 * q.toNat))
  | .scratch b off => some (line b off)
  | .scratchTag b k => some (line b (16 * k))
  | .hbm a => some (.hbmRow (a / 4096))
  | .dieCache a => some (.cacheLine (homeDie a) (a / 128))
  | .l1 _ _ => none
  | .kdata _ _ => none

/-- The context whose rows or lines a unit is of (Table 20.3, counter 2).
Log: DESIGN CHOICE (entry 105). -/
def State.ownerOfUnit (s : State) (u : ErrUnit) : Option Nat :=
  match u with
  | .reg g _ _ => some (s.group g).ctx
  | .window g _ _ => some (s.group g).ctx
  | .regTag g _ _ => some (s.group g).ctx
  | .scratch b _ => some (s.grid (s.block b).grid).ctx
  | .scratchTag b _ => some (s.grid (s.block b).grid).ctx
  | _ => none

/-- Mark a unit lasting.
Log: DESIGN CHOICE (entry 105). -/
def State.markLasting (s : State) (u : Site) : State :=
  if s.lasting.contains u then s else { s with lasting := s.lasting ++ [u] }

/-- CORRECTED_ERROR: counted in its window; the fourth marks the unit lasting.
Log: DESIGN CHOICE (entry 105). -/
def execCorrectedError (s : State) : Host.Outcome State Fault Refusal :=
  .next (match s.ev.unit with
    | none => s
    | some u =>
      let s := match s.ownerOfUnit u with
        | some c => if (s.ctx c).phase == CtxPhase.free then s else s.count c 2 1
        | none => s
      match s.siteOf u with
      | none => s
      | some x =>
        let n := ((s.ce.find? fun (y : Site × Nat) => y.1 == x).map fun y => y.2).getD 0 + 1
        let s := { s with ce := (x, n) :: s.ce.filter fun y => y.1 != x }
        if 4 ≤ n then s.markLasting x else s)

/-- Poison the sector of an address; one of an earlier lease is never poisoned (R371). -/
def State.spoilSector (s : State) (a : Nat) : State :=
  if s.isStale a then s else { s with hbm := s.hbm.mark 32 (a / 32 * 32) 32 }

/-- Poison what an uncorrectable error strikes.
Log: DESIGN CHOICE (entries 105, 138). -/
def State.spoilUnit (s : State) (u : ErrUnit) : State :=
  let bad := fun (w : PWord) => { w with poison := true }
  match u with
  | .reg g k r => s.modLane (g, k) fun l => { l with regs := l.regs.modify r.toNat bad }
  | .window g k r => s.modLane (g, k) fun l => { l with regs := l.regs.modify r.toNat bad }
  | .regTag g k q => s.modLane (g, k) fun l =>
      { (upto 4).foldl (fun (l : Lane) i => { l with regs := l.regs.modify (4 * q.toNat + i) bad }) l with
        tags := (l.putTag q.toNat false).tags }
  | .scratch b off => s.modBlock b fun x => { x with scratch := x.scratch.mark 8 off 8 }
  | .scratchTag b k => s.modBlock b fun x => { x with scratch := (x.scratch.setTag (16 * k) false).mark 8 (16 * k) 16 }
  | .hbm a => s.spoilSector a
  | .dieCache a => s.spoilSector a
  | .l1 c a => { s with l1 := tput (l1Key c a) 0 s.l1 }
  | .kdata k a => s.modKcore k fun x => { x with dmem := x.dmem.mark 8 (a / 8 * 8) 8 }

/-- UNCORRECTABLE_ERROR: the unit is poisoned and marked lasting.
Log: DESIGN CHOICE (entry 105). -/
def execUncorrectableError (s : State) : Host.Outcome State Fault Refusal :=
  .next (match s.ev.unit with
    | none => s
    | some u =>
      let s := s.spoilUnit u
      match s.siteOf u with
      | some x => s.markLasting x
      | none => s)

/-- CE_WINDOW_END: a window of 2^20 ticks ends, and its counts with it. -/
def execCeWindowEnd (s : State) : Host.Outcome State Fault Refusal := .next { s with ce := [] }

/-! ### Power (R368, R377, R378) -/

/-- Power is lost: what no fuse, storage or repair keeps is gone. -/
def State.losePower (s : State) : State :=
  { State.reset with
    agenda := s.agenda, steps := s.steps, nextId := s.nextId, issue := s.issue, ev := s.ev
    cores := (s.cores.filter fun c => c.2.withheld).map fun (c : Nat × Core) => (c.1, { withheld := true })
    baseKey := 3 * s.sexton.lease.toNat
    retired := s.retired, lasting := s.lasting, unspared := s.unspared, spares := s.spares
    sexton := { lease := s.sexton.lease, degraded := s.sexton.degraded }
    power := { on := false } }

/-- The input voltage, in units of 10 mV, is in its range. -/
def voltsOk (v : Nat) : Bool := decide (4800 ≤ v) && decide (v ≤ 5400)

/-- POWER_ON, at an input of `a` x 10 mV; the flag says that every immutable stage verifies. A device that is up ignores
it. With the input out of its range the dies stay in reset: what was written before is gone (R377).
Log: DESIGN CHOICE (entry 12), DEDUCED (entry 96). -/
def execPowerOn (s : State) : Host.Outcome State Fault Refusal :=
  .next (if s.power.on && s.sexton.state != 0 then s
    else
      let s := if s.power.on && !voltsOk s.ev.a then s.losePower else s
      let s := { s with power := { s.power with on := voltsOk s.ev.a, volts := s.ev.a } }
      if !voltsOk s.ev.a then s
      else if !s.ev.flag then s.setSexton 4
      else
        let s := (s.beginLease (match s.sexton.asked with | some a => a.2 | none => false)).setSexton 1
        { s with power := { s.power with volts := s.ev.a } })

/-- INPUT_VOLTAGE_OUT_OF_RANGE: the input stands at `a` x 10 mV. Out of its range the controller removes power; within it only
the register follows. -/
def execInputVoltageOutOfRange (s : State) : Host.Outcome State Fault Refusal :=
  let s' := if s.power.on && !voltsOk s.ev.a then s.losePower else s
  .next { s' with power := { s'.power with volts := s.ev.a } }

/-- The brake's causes change: an engaging brake raises an in-band interrupt.
Log: DEDUCED (entry 100). -/
def State.setBrake (s : State) (power therm fresh : Bool) : State :=
  let was := s.power.pwrBrake || s.power.thermBrake
  { s with power := { s.power with
      pwrBrake := power, thermBrake := therm, fresh := fresh
      ibi := s.power.ibi + if !was && (power || therm) then 1 else 0 } }

/-- POWER_WINDOW_END: the window averaged `a` W, the inlet stands at `b` C and the hottest sensor at `c` C.
Log: DESIGN CHOICE (entry 15), DEDUCED (entry 100). -/
def execPowerWindowEnd (s : State) : Host.Outcome State Fault Refusal :=
  .next (if !s.power.on then s
    else
      let s := { s with power := { s.power with watts := s.ev.a, inlet := s.ev.b, hottest := s.ev.c } }
      if 60 < s.ev.b then s.losePower
      else
        let keep := s.power.fresh
        s.setBrake (decide (2400 < s.ev.a)) (decide (45 < s.ev.b) || (keep && s.power.thermBrake)) false)

/-- INLET_OVER_TEMPERATURE: the inlet stands at `a` C.
Log: DEDUCED (entry 100). -/
def execInletOverTemperature (s : State) : Host.Outcome State Fault Refusal :=
  .next (if !s.power.on || decide (s.ev.a ≤ 45) then s
    else
      let s := { s with power := { s.power with inlet := s.ev.a } }
      if 60 < s.ev.a then s.losePower else s.setBrake s.power.pwrBrake true true)

/-! ### Cicada (R379) -/

/-- Every row of a core is blocked, and it has one. -/
def State.coreBlocked (s : State) (core : Nat) : Bool :=
  !(s.core core).rows.isEmpty && (s.core core).rows.all fun x => s.rowBlocked core x.1

/-- CICADA_CLOCK_GATE of core `a`.
Log: DESIGN CHOICE (entry 15). -/
def execCicadaClockGate (s : State) : Host.Outcome State Fault Refusal :=
  .next (if s.coreBlocked s.ev.a && !(s.core s.ev.a).gate.clock then
      s.modCore s.ev.a fun c => { c with gate := { clock := true } }
    else s)

/-- CICADA_POWER_GATE of core `a`, its storage kept. -/
def execCicadaPowerGate (s : State) : Host.Outcome State Fault Refusal :=
  .next (if s.coreBlocked s.ev.a && (s.core s.ev.a).gate.clock then
      s.modCore s.ev.a fun c => { c with gate := { c.gate with power := true } }
    else s)

/-- The wake condition of a lane that does not issue: a number for its kind, the row of Table 5.3 where it has one, and what it
waits for.
Log: DESIGN CHOICE (entry 45), DEDUCED (entry 89). -/
def Lane.wakeBy (l : Lane) : Nat × Nat :=
  match l.status with
  | .parked w _ =>
    match w with
    | .bar off token => (w.row, off * 2 ^ 32 + token.toNat)
    | .gbar gen => (w.row, gen.toNat)
    | .push n off _ _ _ => (w.row, off * 16 + n)
    | .pop n off _ _ _ _ => (w.row, off * 16 + n)
    | .line _ n => (w.row, n)
    | .remote n => (w.row, n)
    | .window => (w.row, 0)
    | .op o => (w.row, o)
    | .plain cv gen => (w.row, cv * 64 + gen)
    | .copies seq => (w.row, seq.toNat)
    | .baton => (w.row, l.crew)
    | .grid g => (w.row, g)
    | .vote => (w.row, 0)
    | .granules => (w.row, 0)
    | .bin die node _ => (w.row, die * 256 + node)
    | .replay die n => (16, die * 65536 + n)
    | .faultQueue die => (17, die)
    | .signed cv => (18, cv)
    | .event => (19, 0)
    | .lock q => (20, q)
  | .held b => (21, b)
  | .result _ _ reg _ => (22, reg)
  | .ready | .faulted | .exited | .empty => (23, 0)

/-- Cicada's report on a blocked row (R379): for each of its groups, each wake condition and each place where lanes wait for it, an
entry in the format of a fault record (R348). A page fault that waits for its answer is a pending replay there; how an entry
names any other condition is open.
Log: DESIGN CHOICE (entry 45), DEDUCED (entry 89). -/
def State.hangEntries (s : State) (core row : Nat) : List FaultEntry :=
  (s.groups.filter fun g => g.agent == .core core && g.row == row && !g.freed).flatMap fun g =>
    let stuck := g.numbered.filter fun x => x.2.unexited
    (stuck.map fun x => (x.2.wakeBy, x.2.pc)).dedup.map fun k =>
      let mine := stuck.filter fun x => (x.2.wakeBy, x.2.pc) == k
      let va := match mine with | x :: _ => x.2.faultVa | [] => 0
      let fault := k.1.1 == 16
      let part := fun (i : Nat) => Config.hangField i k.1.1 k.1.2
      { kind := if fault then 1 else (part 0).toNat % 4, cause := if fault then 0x08 else (part 1).setWidth 8
        block := (s.block g.block).index, gidx := g.gidx, core := core
        lanes := mine.foldl (fun m x => m ||| (1#64 <<< x.1)) 0, pc := k.2
        tdata := if fault then va else part 2, addr := if fault then va else 0, seq := 0 }

/-- The reports on a core's rows are kept with their contexts.
Log: DEDUCED (entry 89). -/
def State.reportRows (s : State) (core : Nat) : State :=
  (s.core core).rows.foldl (fun s x =>
    s.modCtx (s.grid x.2.grid).ctx fun c => { c with reports := c.reports ++ s.hangEntries core x.1 }) s

/-- HANG_REPORT: the blocked time of core `a` reaches the threshold; one event for the episode, naming the context of the
core's first row, and the report, which a halt of the context lets the kernel read (R379).
Log: DEDUCED (entry 89). -/
def execHangReport (s : State) : Host.Outcome State Fault Refusal :=
  let core := s.ev.a
  let g := (s.core core).gate
  .next (match (s.core core).rows with
    | [] => s
    | x :: _ =>
      if s.coreBlocked core && g.clock && !g.reported then
        ((s.reportRows core).modCore core fun c => { c with gate := { c.gate with reported := true } }).event 0x06 (BitVec.ofNat 32 core)
          (BitVec.ofNat 32 (s.grid x.2.grid).ctx)
      else s)

/-! ### Links (R381, R383, R384) -/

/-- LINK_DOWN. -/
def execLinkDown (s : State) : Host.Outcome State Fault Refusal := .next { s with linkUp := false }

/-- LINK_RETRAIN. -/
def execLinkRetrain (s : State) : Host.Outcome State Fault Refusal := .next { s with linkUp := true }

/-- The access that a lane waits for has ended with these bytes, which the lane takes as it issues again.
Log: DESIGN CHOICE (entry 43). -/
def State.remoteReturn (s : State) (id : Nat) (overflow : Bool) (f : Nat → List Byte × Bool × Bool) : State :=
  match s.remotes.find? fun x => x.id == id with
  | none => s
  | some x =>
    let s := { s with remotes := s.remotes.filter fun y => y.id != id }
    let (bs, poison, tag) := f x.size
    s.modLane (x.gid, x.lane) fun l => match l.status with
      | .parked (.remote n) _ =>
        if n = id then
          let back : Returned := { acc := x, bytes := bs, poison := poison, tag := tag, overflow := overflow }
          { l with status := .ready, returned := l.returned ++ [back] }
        else l
      | _ => l

/-- REMOTE_DATA_RETURN: access `a` brings bytes, poisoned or not (R210), and with a whole granule its tag, which only a sound
capability with SHR has there (R132, R146); `overflow` says that a speculative atomic found no record there (R208). -/
def execRemoteDataReturn (s : State) : Host.Outcome State Fault Refusal :=
  .next (s.remoteReturn s.ev.a s.ev.overflow fun n =>
    let bs := (upto n).map fun i => s.ev.data.getD i 0
    (bs, s.ev.flag, (farCap 0 bs s.ev.tag).tag))

/-- REMOTE_ACCESS_TIMEOUT: access `a` did not return within 100 ms (R384).
Log: DESIGN CHOICE (entry 15). -/
def execRemoteAccessTimeout (s : State) : Host.Outcome State Fault Refusal :=
  .next (s.remoteReturn s.ev.a false fun n => (List.replicate n 0, true, false))

/-- FABRIC_ROUTE_LOST to device `a`: regions whose home, members or records lie there abort with reason 8 (R311, R384).
Log: DEDUCED (entry 110). -/
def execFabricRouteLost (s : State) : Host.Outcome State Fault Refusal :=
  let dev := s.ev.a
  let far := fun (x : Nat × Region) => x.2.holders.contains dev ||
    if x.1 < 256 then x.2.remote.any fun y => y.1 == dev else (x.1 - 256) / 256 % 256 == dev
  let s' := { s with routes := sdel dev s.routes }
  .next ((s.regions.filter far).foldl (fun (s : State) x => s.abortRegion x.1 8) s')

/-- FABRIC_ROUTE_RESTORED to device `a`: a device without a domain id has no route (R383).
Log: DEDUCED (entry 110). -/
def execFabricRouteRestored (s : State) : Host.Outcome State Fault Refusal :=
  .next (if s.ev.a < 192 ∧ s.domid ≠ 0xFF ∧ s.ev.a ≠ s.domid.toNat then { s with routes := sput s.ev.a s.routes } else s)

/-- What another device is told of memory here: bytes, their poison, and the tag of a granule.
Log: DESIGN CHOICE (entry 13). -/
def State.answer (s : State) (v : State) (key a n : Nat) : State :=
  { s with hostRead := v.hbmBytes key a n, hostPoison := v.hbmPoison a n, hostTag := n == 16 && v.hbmTag key a }

/-- The bytes that a remote operation reaches. -/
def reachOf : RemoteOp → Nat
  | .read n => n
  | .write data _ _ => data.length
  | .atom _ _ _ _ => 4
  | .speculate _ _ _ _ _ => 4
  | .commit => 0
  | .discard _ => 0

/-- The fabric ports are up: with power on, and out of reset (R368, R377).
Log: DEDUCED (entry 99). -/
def State.portsUp (s : State) : Bool := s.power.on && s.sexton.state != 0 && s.sexton.state != 4

/-- A speculative atomic of a group of another device on this one's memory (R208): recorded here, or made at once for want of a
record, as the answer says.
Log: DEDUCED (entry 143). -/
def State.farSpeculate (s : State) (g : Nat × Nat) (o : SpecOp) : State :=
  if s.roomFor (s.farOps g) o then { s with farSpec := s.farSpec ++ [(g, o)], hostOver := false }
  else { applySpec s [(none, o)] with hostOver := true }

/-- A commit point of a group of another device (R208): its operations here are made.
Log: DEDUCED (entry 143). -/
def State.farCommit (s : State) (g : Nat × Nat) : State :=
  applySpec { s with farSpec := s.farSpec.filter fun x => x.1 != g } ((s.farOps g).map fun o => (none, o))

/-- REMOTE_ACCESS_REQUEST: another device reads, writes or updates this one's memory at a physical address, under the key slot
of the identifier it translated with (R209, R210, R317); an access to a line that is being installed waits (R311). A group's
own speculative atomics show in what its lanes read, and stay here until it commits or discards them (R208). One under an empty
slot changes nothing.
Log: DEDUCED (entries 99, 143). -/
def execRemoteAccessRequest (s : State) : Host.Outcome State Fault Refusal :=
  .next (match s.ev.req with
    | none => s
    | some q =>
      let g := (q.dev, q.group.getD 0)
      let mine := if q.group.isSome then s.farOps g else []
      let inside := s.portsUp && decide (q.addr + reachOf q.op ≤ hbmSize)
      match q.op, (if inside then s.keyOf q.slot else none) with
      | .commit, _ => if s.portsUp then s.farCommit g else s
      | .discard lane, _ =>
        if s.portsUp then { s with farSpec := s.farSpec.filter fun x => x.1 != g || lane.any fun k => x.2.lane != k } else s
      | _, none => s
      | .read n, some key =>
        let s := s.awaitLines q.addr n
        s.answer (s.applyOps mine q.addr) key q.addr n
      | .write data poison tag, some key => s.hbmOutside key q.addr [(data, poison)] (farCap q.addr data tag).tag
      | .atom aop operand compare poison, some key =>
        let s := s.awaitLines q.addr 4
        (s.outsideAtom key q.addr aop { val := operand, poison := poison } compare).answer (s.applyOps mine q.addr) key q.addr 4
      | .speculate lane aop operand compare poison, some key =>
        let s := s.awaitLines q.addr 4
        let o : SpecOp := { lane := lane, key := key, addr := q.addr, aop := aop, operand := { val := operand, poison := poison },
                            compare := compare }
        (s.farSpeculate g o).answer (s.applyOps mine q.addr) key q.addr 4)

/-- The memory as the members of a region see the line of an address (R308). -/
def State.regionView (s : State) (i a : Nat) : State :=
  match s.lineRec a with
  | some r => if r.region == i then r.writes.foldl State.applyT s else s
  | none => s

/-- The first record here of a region of another home, which has no member here, makes the region known (R307, R311).
Log: DEDUCED (entry 44). -/
def State.meetRegion (s : State) (i : Nat) : State :=
  if 256 ≤ i ∧ (s.region i).state = .free then s.modRegion i fun x => { x with state := .opened, count := (i - 256) / 65536 } else s

/-- A tentative write of a region's member elsewhere (R307), which waits while a region installs its records on the line (R310).
Log: DEDUCED (entry 99). -/
def State.farWrite (s : State) (i a : Nat) (w : TWrite) : State :=
  let s := (s.meetRegion i).awaitLines a 1
  if (s.region i).state != .opened && (s.region i).state != .sealed then s
  else
    match s.admission (some i) a with
    | .record s j => s.record j a w
    | .apply s | .lost s => s
    | .wait => s

/-- What a message about a region does (R304 to R311). A read, and the old word of an atomic, are in the member view (R308); an
access to a line that is being installed waits (R311).
Log: DEDUCED (entry 44). -/
def State.regionMsg (s : State) (m : RegionMsg) : State :=
  match m with
  | .join i dev g =>
    let r := s.region i
    if r.state == .opened && !r.remote.contains (dev, g) then
      let full := decide (4096 ≤ r.members.length + r.remote.length)
      let s := s.modRegion i fun x => { x with remote := x.remote ++ [(dev, g)] }
      if full then s.abortRegion i 4 else s
    else s
  | .vote i dev g =>
    if (s.region i).remote.contains (dev, g) then
      (s.modRegion i fun x => { x with remoteVoted := if x.remoteVoted.contains (dev, g) then x.remoteVoted else x.remoteVoted ++ [(dev, g)] }).decideRegion i
    else s
  | .leave i dev g =>
    if (s.region i).remote.contains (dev, g) then
      (s.modRegion i fun x =>
        { x with
          remote := x.remote.filter fun y => y != (dev, g)
          remoteVoted := x.remoteVoted.filter fun y => y != (dev, g) }).freeRegion i
    else s
  | .seal i =>
    if (s.region i).state == .opened then (s.modRegion i fun x => { x with state := RegionState.sealed }).decideRegion i else s
  | .abort i reason => s.abortRegion i reason
  | .lost i count =>
    let s := s.abortRegion i 3
    { s with openCount := BitVec.ofNat 48 (max s.openCount.toNat (count + 1)) }
  | .write i a slot data poison tag =>
    match s.keyOf slot with
    | some key => s.farWrite i a (.bytes key a [(data, poison)] (farCap a data tag).tag)
    | none => s
  | .read i a slot n =>
    match s.keyOf slot with
    | some key =>
      let s := s.awaitLines a n
      s.answer (s.regionView i a) key a n
    | none => s
  | .atom i a slot aop operand compare poison =>
    match s.keyOf slot with
    | some key =>
      let s := s.awaitLines a 4
      (s.farWrite i a (.atom key a aop { val := operand, poison := poison } compare)).answer (s.regionView i a) key a 4
    | none => s
  | .commit i =>
    if (s.region i).state == .opened || (s.region i).state == .sealed then
      s.modRegion i fun x => { x with state := .committing }
    else s

/-- REMOTE_REGION_MESSAGE: it comes in by a fabric port (R368, R377). -/
def execRemoteRegionMessage (s : State) : Host.Outcome State Fault Refusal :=
  .next (match s.ev.msg with
    | some m => if s.portsUp then s.regionMsg m else s
    | none => s)

/-- DERATE_TAKES_EFFECT: the derate that firmware last wrote holds at every core (R16). -/
def execDerateTakesEffect (s : State) : Host.Outcome State Fault Refusal :=
  .next (match s.derateNext with
    | some d => { s with derate := d, derateNext := none }
    | none => s)

/-! ### Board management (R385) -/

/-- I3C_DOMID_WRITE: writable in Sexton state 2 only. With domain id 0xFF no other device has a route, and no device has one to
itself (R383).
Log: DEDUCED (entry 110). -/
def execI3cDomidWrite (s : State) : Host.Outcome State Fault Refusal :=
  let id := s.ev.value.setWidth 8
  .next (if s.sexton.state = 2 then
      { s with domid := id, routes := if id = 0xFF then [] else sdel id.toNat s.routes }
    else s)

/-- I3C_LEASEREQ: a lease reset without overwrite. -/
def execI3cLeasereq (s : State) : Host.Outcome State Fault Refusal :=
  .next (if s.ev.value.getLsbD 0 then s.leaseReset false else s)

/-- ENTDAA: a target without a dynamic address takes the one assigned.
Log: PRESUMED (entry 49). -/
def execEntdaa (s : State) : Host.Outcome State Fault Refusal :=
  .next (if s.i3cAddr.isNone then { s with i3cAddr := some (BitVec.ofNat 7 s.ev.a) } else s)

/-- RSTDAA: the dynamic address goes.
Log: PRESUMED (entry 49). -/
def execRstdaa (s : State) : Host.Outcome State Fault Refusal := .next { s with i3cAddr := none }

/-- SETDASA: the target at static address 0x5C takes a dynamic address.
Log: PRESUMED (entry 49). -/
def execSetdasa (s : State) : Host.Outcome State Fault Refusal :=
  .next (if s.i3cAddr.isNone then { s with i3cAddr := some (BitVec.ofNat 7 s.ev.a) } else s)

/-- The answer of a read command, `n` bytes.
Log: DESIGN CHOICE (entry 48), PRESUMED (entry 49). -/
def State.i3cAnswer (s : State) (code n : Nat) : State := { s with hostRead := (upto n).map (Config.i3cByte code), hostPoison := false }

/-- GETPID. -/
def execGetpid (s : State) : Host.Outcome State Fault Refusal := .next (s.i3cAnswer 0x8D 6)

/-- GETBCR. -/
def execGetbcr (s : State) : Host.Outcome State Fault Refusal := .next (s.i3cAnswer 0x8E 1)

/-- GETDCR. -/
def execGetdcr (s : State) : Host.Outcome State Fault Refusal := .next (s.i3cAnswer 0x8F 1)

/-- GETSTATUS. -/
def execGetstatus (s : State) : Host.Outcome State Fault Refusal := .next (s.i3cAnswer 0x90 2)

/-- A byte of the I3C register map (Table 23.1).
Log: PRESUMED (entry 49). -/
def State.i3cRegister (s : State) (off : Nat) : Byte :=
  let p := s.power
  match off with
  | 0 => BitVec.ofNat 8 p.watts
  | 1 => BitVec.ofNat 8 (p.watts / 256)
  | 2 => BitVec.ofNat 8 p.volts
  | 3 => BitVec.ofNat 8 (p.volts / 256)
  | 4 => BitVec.ofNat 8 p.inlet
  | 5 => BitVec.ofNat 8 p.hottest
  | 6 => (if p.pwrBrake then 1 else 0) + if p.thermBrake then 2 else 0
  | 7 => BitVec.ofNat 8 (s.sexton.state % 16)
  | 8 => s.domid
  | _ => 0

end Sys2Proof.Machine
end

