-- ==== Sys2Proof/Machine/Flt.lean ====
section
/-!
DEFINITION. The floating-point instructions, major 0x03 (R102 to R106).
-/

namespace Sys2Proof.Machine

open Sys2Proof

/-- FADD (R102). -/
def execFadd (d : Dst) (a b : Src) (s : State) : Host.Outcome State Fault Refusal := alu2 d a b (pure2 fadd) s

/-- FSUB (R102). -/
def execFsub (d : Dst) (a b : Src) (s : State) : Host.Outcome State Fault Refusal := alu2 d a b (pure2 fsub) s

/-- FMUL (R102). -/
def execFmul (d : Dst) (a b : Src) (s : State) : Host.Outcome State Fault Refusal := alu2 d a b (pure2 fmul) s

/-- FFMA (R102). -/
def execFfma (d : Reg) (a b : Src) (s : State) : Host.Outcome State Fault Refusal := alu3 d a b (pure3 ffma) s

/-- FMIN (R103). -/
def execFmin (d : Dst) (a b : Src) (s : State) : Host.Outcome State Fault Refusal := alu2 d a b (pure2 fmin) s

/-- FMAX (R103). -/
def execFmax (d : Dst) (a b : Src) (s : State) : Host.Outcome State Fault Refusal := alu2 d a b (pure2 fmax) s

/-- FABS (R102): the word, sign bit clear. -/
def execFabs (d : Dst) (a : Src) (s : State) : Host.Outcome State Fault Refusal := alu1 d a (pure1 fun x => x &&& 0x7FFFFFFF) s

/-- FNEG (R102): the word, sign bit flipped. -/
def execFneg (d : Dst) (a : Src) (s : State) : Host.Outcome State Fault Refusal := alu1 d a (pure1 fun x => x ^^^ 0x80000000) s

/-- FSGN (R102): the magnitude of A with the sign of B. -/
def execFsgn (d : Dst) (a b : Src) (s : State) : Host.Outcome State Fault Refusal := alu2 d a b (pure2 fun x y => (x &&& 0x7FFFFFFF) ||| (y &&& 0x80000000)) s

/-- FRCP (R105, R106). -/
def execFrcp (d : Dst) (a : Src) (s : State) : Host.Outcome State Fault Refusal := alu1 d a (pure1 frcp) s

/-- FRSQ (R105, R106). -/
def execFrsq (d : Dst) (a : Src) (s : State) : Host.Outcome State Fault Refusal := alu1 d a (pure1 frsq) s

/-- FSQRT (R105, R106). -/
def execFsqrt (d : Dst) (a : Src) (s : State) : Host.Outcome State Fault Refusal := alu1 d a (pure1 fsqrt) s

/-- FEXP2 (R105, R106). -/
def execFexp2 (d : Dst) (a : Src) (s : State) : Host.Outcome State Fault Refusal := alu1 d a (pure1 fexp2) s

/-- FLOG2 (R105, R106). -/
def execFlog2 (d : Dst) (a : Src) (s : State) : Host.Outcome State Fault Refusal := alu1 d a (pure1 flog2) s

/-- FSIN (R105, R106). -/
def execFsin (d : Dst) (a : Src) (s : State) : Host.Outcome State Fault Refusal := alu1 d a (pure1 (ftrig true)) s

/-- FCOS (R105, R106). -/
def execFcos (d : Dst) (a : Src) (s : State) : Host.Outcome State Fault Refusal := alu1 d a (pure1 (ftrig false)) s

/-- FTANH (R105, R106). -/
def execFtanh (d : Dst) (a : Src) (s : State) : Host.Outcome State Fault Refusal := alu1 d a (pure1 ftanh) s

/-- FFLOOR (R104). -/
def execFfloor (d : Dst) (a : Src) (s : State) : Host.Outcome State Fault Refusal := alu1 d a (pure1 (fround .floor)) s

/-- FCEIL (R104). -/
def execFceil (d : Dst) (a : Src) (s : State) : Host.Outcome State Fault Refusal := alu1 d a (pure1 (fround .ceil)) s

/-- FTRUNC (R104). -/
def execFtrunc (d : Dst) (a : Src) (s : State) : Host.Outcome State Fault Refusal := alu1 d a (pure1 (fround .trunc)) s

/-- FRINT (R104). -/
def execFrint (d : Dst) (a : Src) (s : State) : Host.Outcome State Fault Refusal := alu1 d a (pure1 (fround .near)) s

/-- FCLASS (R104). -/
def execFclass (d : Dst) (a : Src) (s : State) : Host.Outcome State Fault Refusal := alu1 d a (pure1 fclass) s

/-- FSCALE (R104). -/
def execFscale (d : Dst) (a : Src) (b : Reg) (s : State) : Host.Outcome State Fault Refusal := aluCount d a b fscale s

/-- FFMS (R102). -/
def execFfms (d : Reg) (a b : Src) (s : State) : Host.Outcome State Fault Refusal := alu3 d a b (pure3 ffms) s


end Sys2Proof.Machine
end

