-- ==== Sys2Proof/Machine/Int.lean ====
section
/-!
DEFINITION. The integer instructions, major 0x01 (R97 to R99).
-/

namespace Sys2Proof.Machine

open Sys2Proof

/-- imulh. -/
def imulhWord (a b : Word) : Word := wrap32 (asI32 a * asI32 b / 2 ^ 32)

/-- nmulh. -/
def nmulhWord (a b : Word) : Word := BitVec.ofNat 32 (a.toNat * b.toNat / 2 ^ 32)

/-- popc. -/
def popcWord (a : Word) : Word := BitVec.ofNat 32 ((upto 32).filter fun i => a.getLsbD i).length

/-- clz. -/
def clzWord (a : Word) : Word :=
  BitVec.ofNat 32 (((upto 32).find? fun i => a.getLsbD (31 - i)).getD 32)

/-- brev. -/
def brevWord (a : Word) : Word :=
  (upto 32).foldl (fun x j => if a.getLsbD (31 - j) then x ||| (1#32 <<< j) else x) 0

/-- shl (R98). -/
def shlWord (a b : Word) : Word := if b.toNat < 32 then a <<< b.toNat else 0

/-- shr (R98). -/
def shrWord (a b : Word) : Word := if b.toNat < 32 then a >>> b.toNat else 0

/-- sar (R98). -/
def sarWord (a b : Word) : Word :=
  if b.toNat < 32 then a.sshiftRight b.toNat else if a.msb then 0xFFFFFFFF else 0

/-- rotl (R98). -/
def rotlWord (a b : Word) : Word := a.rotateLeft (b.toNat % 32)

/-- The position of a field descriptor (R99). -/
def fieldPos (b : Word) : Nat := b.toNat % 32

/-- The length of the field used (R99). -/
def fieldLen (b : Word) : Nat := min (b.toNat / 2 ^ 8 % 64) (32 - fieldPos b)

/-- bfe (R99). -/
def bfeWord (a b : Word) : Word :=
  let n := fieldLen b
  if n = 0 then 0
  else
    let f : Int := (a.toNat / 2 ^ fieldPos b % 2 ^ n : Nat)
    wrap32 (if b.getLsbD 16 ∧ 2 ^ (n - 1) ≤ f then f - 2 ^ n else f)

/-- bfi (R99). -/
def bfiWord (a b d : Word) : Word :=
  let mask : Word := BitVec.ofNat 32 ((2 ^ fieldLen b - 1) * 2 ^ fieldPos b)
  (d &&& ~~~mask) ||| ((a <<< fieldPos b) &&& mask)

/-- IADD (R97). -/
def execIadd (d : Dst) (a b : Src) (s : State) : Host.Outcome State Fault Refusal := alu2 d a b (pure2 (· + ·)) s

/-- ISUB (R97). -/
def execIsub (d : Dst) (a b : Src) (s : State) : Host.Outcome State Fault Refusal := alu2 d a b (pure2 (· - ·)) s

/-- IMUL (R97). -/
def execImul (d : Dst) (a b : Src) (s : State) : Host.Outcome State Fault Refusal := alu2 d a b (pure2 (· * ·)) s

/-- IMULH (R97). -/
def execImulh (d : Dst) (a b : Src) (s : State) : Host.Outcome State Fault Refusal := alu2 d a b (pure2 imulhWord) s

/-- NMULH (R97). -/
def execNmulh (d : Dst) (a b : Src) (s : State) : Host.Outcome State Fault Refusal := alu2 d a b (pure2 nmulhWord) s

/-- IMAD (R97). -/
def execImad (d : Reg) (a b : Src) (s : State) : Host.Outcome State Fault Refusal :=
  alu3 d a b (pure3 fun x y z => x * y + z) s

/-- IMIN (R97). -/
def execImin (d : Dst) (a b : Src) (s : State) : Host.Outcome State Fault Refusal := alu2 d a b (pure2 lesserS) s

/-- IMAX (R97). -/
def execImax (d : Dst) (a b : Src) (s : State) : Host.Outcome State Fault Refusal := alu2 d a b (pure2 greaterS) s

/-- NMIN (R97). -/
def execNmin (d : Dst) (a b : Src) (s : State) : Host.Outcome State Fault Refusal := alu2 d a b (pure2 lesserN) s

/-- NMAX (R97). -/
def execNmax (d : Dst) (a b : Src) (s : State) : Host.Outcome State Fault Refusal := alu2 d a b (pure2 greaterN) s

/-- IABS (R97). -/
def execIabs (d : Dst) (a : Src) (s : State) : Host.Outcome State Fault Refusal :=
  alu1 d a (pure1 fun x => wrap32 ((asI32 x).natAbs : Int)) s

/-- INEG (R97). -/
def execIneg (d : Dst) (a : Src) (s : State) : Host.Outcome State Fault Refusal := alu1 d a (pure1 fun x => 0 - x) s

/-- AND (R97). -/
def execAnd (d : Dst) (a b : Src) (s : State) : Host.Outcome State Fault Refusal := alu2 d a b (pure2 (· &&& ·)) s

/-- OR (R97). -/
def execOr (d : Dst) (a b : Src) (s : State) : Host.Outcome State Fault Refusal := alu2 d a b (pure2 (· ||| ·)) s

/-- XOR (R97). -/
def execXor (d : Dst) (a b : Src) (s : State) : Host.Outcome State Fault Refusal := alu2 d a b (pure2 (· ^^^ ·)) s

/-- ANDN (R97). -/
def execAndn (d : Dst) (a b : Src) (s : State) : Host.Outcome State Fault Refusal :=
  alu2 d a b (pure2 fun x y => x &&& ~~~y) s

/-- NOT (R97). -/
def execNot (d : Dst) (a : Src) (s : State) : Host.Outcome State Fault Refusal := alu1 d a (pure1 fun x => ~~~x) s

/-- SHL (R98). -/
def execShl (d : Dst) (a : Src) (b : Reg) (s : State) : Host.Outcome State Fault Refusal := aluCount d a b shlWord s

/-- SHR (R98). -/
def execShr (d : Dst) (a : Src) (b : Reg) (s : State) : Host.Outcome State Fault Refusal := aluCount d a b shrWord s

/-- SAR (R98). -/
def execSar (d : Dst) (a : Src) (b : Reg) (s : State) : Host.Outcome State Fault Refusal := aluCount d a b sarWord s

/-- ROTL (R98). -/
def execRotl (d : Dst) (a : Src) (b : Reg) (s : State) : Host.Outcome State Fault Refusal := aluCount d a b rotlWord s

/-- POPC (R97). -/
def execPopc (d : Dst) (a : Src) (s : State) : Host.Outcome State Fault Refusal := alu1 d a (pure1 popcWord) s

/-- CLZ (R97). -/
def execClz (d : Dst) (a : Src) (s : State) : Host.Outcome State Fault Refusal := alu1 d a (pure1 clzWord) s

/-- BREV (R97). -/
def execBrev (d : Dst) (a : Src) (s : State) : Host.Outcome State Fault Refusal := alu1 d a (pure1 brevWord) s

/-- SEL (R94, R97): a poisoned condition traps its lane; the selected word goes with its own poison. -/
def execSel (d : Reg) (a b : Src) (s : State) : Host.Outcome State Fault Refusal :=
  withGather s fun w =>
    let w := w.sources (rfld codeD d :: (srcFlds a codeA ++ srcFlds b codeB)) none (some a) (some b)
    let w := w.live.foldl (fun v r => if (w.regOf r codeD d).poison then v.strike r 0x0A 0 else v) w
    (w.writeDst (.reg d) fun _ r =>
      if condTrue (w.regOf r codeD d).val then w.src r codeA a else w.src r codeB b).finish

/-- BFE (R99). -/
def execBfe (d : Dst) (a : Src) (b : Reg) (s : State) : Host.Outcome State Fault Refusal := aluCount d a b bfeWord s

/-- BFI (R99). -/
def execBfi (d : Reg) (a : Src) (b : Reg) (s : State) : Host.Outcome State Fault Refusal :=
  alu3 d a (.reg b) (pure3 bfiWord) s

/-- IADDS (R97). -/
def execIadds (d : Dst) (a b : Src) (s : State) : Host.Outcome State Fault Refusal :=
  alu2 d a b (pure2 fun x y => satI32 (asI32 x + asI32 y)) s

/-- ISUBS (R97). -/
def execIsubs (d : Dst) (a b : Src) (s : State) : Host.Outcome State Fault Refusal :=
  alu2 d a b (pure2 fun x y => satI32 (asI32 x - asI32 y)) s

/-- MOV (R97): the word unchanged, poison included. -/
def execMov (d : Dst) (a : Src) (s : State) : Host.Outcome State Fault Refusal := alu1 d a id s

end Sys2Proof.Machine
end

