-- ==== Sys2Proof/Machine/Imm.lean ====
section
/-!
DEFINITION. The immediate instructions, majors 0x08 to 0x10 (R100).
-/

namespace Sys2Proof.Machine

open Sys2Proof

/-- IADDI (R100). -/
def execIaddi (d : Dst) (a : Src) (imm : BitVec 12) (s : State) : Host.Outcome State Fault Refusal :=
  aluImm d a true imm (· + ·) s

/-- ANDI (R100). -/
def execAndi (d : Dst) (a : Src) (imm : BitVec 12) (s : State) : Host.Outcome State Fault Refusal :=
  aluImm d a false imm (· &&& ·) s

/-- ORI (R100). -/
def execOri (d : Dst) (a : Src) (imm : BitVec 12) (s : State) : Host.Outcome State Fault Refusal :=
  aluImm d a false imm (· ||| ·) s

/-- XORI (R100). -/
def execXori (d : Dst) (a : Src) (imm : BitVec 12) (s : State) : Host.Outcome State Fault Refusal :=
  aluImm d a false imm (· ^^^ ·) s

/-- SHLI (R100). -/
def execShli (d : Dst) (a : Src) (imm : BitVec 12) (s : State) : Host.Outcome State Fault Refusal :=
  aluImm d a false imm shlWord s

/-- SHRI (R100). -/
def execShri (d : Dst) (a : Src) (imm : BitVec 12) (s : State) : Host.Outcome State Fault Refusal :=
  aluImm d a false imm shrWord s

/-- SARI (R100). -/
def execSari (d : Dst) (a : Src) (imm : BitVec 12) (s : State) : Host.Outcome State Fault Refusal :=
  aluImm d a false imm sarWord s

/-- MOVI (R100). -/
def execMovi (d : Dst) (imm : BitVec 12) (s : State) : Host.Outcome State Fault Refusal :=
  withGather s fun w =>
    let w := w.sources (dstFlds d) (some d) none none
    (w.writeDst d fun _ r => { val := w.imm12 r true imm }).finish

/-- IMULI (R100). -/
def execImuli (d : Dst) (a : Src) (imm : BitVec 12) (s : State) : Host.Outcome State Fault Refusal :=
  aluImm d a true imm (· * ·) s

end Sys2Proof.Machine
end

