-- ==== Sys2Proof/Machine/Pk16.lean ====
section
/-!
DEFINITION. The packed 16-bit instructions, major 0x05 (R109, R110).
-/

namespace Sys2Proof.Machine

open Sys2Proof

/-- HADD_F16 (R109). -/
def execHaddF16 (d : Dst) (a b : Src) (s : State) : Host.Outcome State Fault Refusal := alu2 d a b (pure2 fun x y => pkOp f16 (fun u v _ => u.add v) x y 0) s

/-- HMUL_F16 (R109). -/
def execHmulF16 (d : Dst) (a b : Src) (s : State) : Host.Outcome State Fault Refusal := alu2 d a b (pure2 fun x y => pkOp f16 (fun u v _ => u.mul v) x y 0) s

/-- HFMA_F16 (R109). -/
def execHfmaF16 (d : Reg) (a b : Src) (s : State) : Host.Outcome State Fault Refusal := alu3 d a b (pure3 (pkOp f16 fun u v z => (u.mul v).add z)) s

/-- HMIN_F16 (R103, R109). -/
def execHminF16 (d : Dst) (a b : Src) (s : State) : Host.Outcome State Fault Refusal := alu2 d a b (pure2 (pkMinMax f16 false)) s

/-- HMAX_F16 (R103, R109). -/
def execHmaxF16 (d : Dst) (a b : Src) (s : State) : Host.Outcome State Fault Refusal := alu2 d a b (pure2 (pkMinMax f16 true)) s

/-- HDOT_F16 (R110). -/
def execHdotF16 (d : Reg) (a b : Src) (s : State) : Host.Outcome State Fault Refusal := alu3 d a b (pure3 (hdot f16)) s

/-- HADD_E8M7 (R109). -/
def execHaddE8m7 (d : Dst) (a b : Src) (s : State) : Host.Outcome State Fault Refusal := alu2 d a b (pure2 fun x y => pkOp e8m7 (fun u v _ => u.add v) x y 0) s

/-- HMUL_E8M7 (R109). -/
def execHmulE8m7 (d : Dst) (a b : Src) (s : State) : Host.Outcome State Fault Refusal := alu2 d a b (pure2 fun x y => pkOp e8m7 (fun u v _ => u.mul v) x y 0) s

/-- HFMA_E8M7 (R109). -/
def execHfmaE8m7 (d : Reg) (a b : Src) (s : State) : Host.Outcome State Fault Refusal := alu3 d a b (pure3 (pkOp e8m7 fun u v z => (u.mul v).add z)) s

/-- HMIN_E8M7 (R103, R109). -/
def execHminE8m7 (d : Dst) (a b : Src) (s : State) : Host.Outcome State Fault Refusal := alu2 d a b (pure2 (pkMinMax e8m7 false)) s

/-- HMAX_E8M7 (R103, R109). -/
def execHmaxE8m7 (d : Dst) (a b : Src) (s : State) : Host.Outcome State Fault Refusal := alu2 d a b (pure2 (pkMinMax e8m7 true)) s

/-- HDOT_E8M7 (R110). -/
def execHdotE8m7 (d : Reg) (a b : Src) (s : State) : Host.Outcome State Fault Refusal := alu3 d a b (pure3 (hdot e8m7)) s


end Sys2Proof.Machine
end

