-- ==== Sys2Proof/Machine/Xch.lean ====
section
/-!
DEFINITION. The exchanges and collectives, major 0x06 (R87 to R90, R73).
-/

namespace Sys2Proof.Machine

open Sys2Proof

/-- The participants of a lane: the lanes of its group in the gather (R87), by number. -/
def Work.peers (w : Work) (r : LRef) : List Nat := (w.live.filter fun x => x.1 == r.1).map (·.2)

/-- The contributors among them: those that are no helpers.
Log: DEDUCED (entry 35). -/
def Work.givers (w : Work) (r : LRef) : List Nat := (w.peers r).filter fun k => !(w.s.lane (r.1, k)).helper

/-- What a lane receives from a source lane: its word, 0 from a lane that is no participant (R89). -/
def Work.from' (w : Work) (a : Src) (r : LRef) (k : Nat) : PWord :=
  if (w.peers r).contains k then w.src (r.1, k) codeA a else {}

/-- An exchange within a quad: D := A of a lane of the quad. -/
def xchQuad (d : Dst) (a : Src) (pick : Work → LRef → Nat) (s : State) : Host.Outcome State Fault Refusal :=
  withGather s fun w =>
    let w := w.sources (dstFlds d ++ srcFlds a codeA) (some d) (some a) none
    (w.writeDst d fun _ r => w.from' a r (pick w r)).finish

/-- A shuffle: the source lane of Table 5.4, or none where it is out of range and the lane keeps its own A (R89). A
poisoned index traps its lane; the lane still gives its A to others.
Log: DEDUCED (entry 35). -/
def xchShfl (d : Dst) (a : Src) (b : Reg) (pick : Nat → Nat → Nat → Option Nat) (s : State) : Host.Outcome State Fault Refusal :=
  withGather s fun w0 =>
    let w0 := w0.sources (dstFlds d ++ srcFlds a codeA ++ [rfld codeB b]) (some d) (some a) none
    let w := w0.live.foldl (fun v r => if (w0.regOf r codeB b).poison then v.strike r 0x0A 0 else v) w0
    (w.writeDst d fun _ r =>
      match pick (w0.s.group r.1).width r.2 (w0.regOf r codeB b).val.toNat with
      | some k => w0.from' a r k
      | none => w0.src r codeA a).finish

/-- A vote's lanes: a poisoned condition traps its lane alone (R90). -/
def voteWork (flds : List Fld) (d : Option Dst) (a : Reg) (s : State) (f : Work → Host.Outcome State Fault Refusal) :
    Host.Outcome State Fault Refusal :=
  withGather s fun w =>
    let w := w.sources (flds ++ [rfld codeA a]) d none none
    f (w.live.foldl (fun v r => if (w.regOf r codeA a).poison then v.strike r 0x0A 0 else v) w)

/-- A vote that writes one word, of the contributors' words. -/
def xchVote (d : Dst) (a : Reg) (f : List Word → Word) (s : State) : Host.Outcome State Fault Refusal :=
  voteWork (dstFlds d) (some d) a s fun w =>
    (w.writeDst d fun _ r => { val := f ((w.givers r).map fun k => (w.regOf (r.1, k) codeA a).val) }).finish

/-- One level of the tree of R73: pairs of neighbours; an absent side passes the other on. -/
def treeLevel (op : Word → Word → Word) : List (Option Word) → List (Option Word)
  | some x :: some y :: t => some (op x y) :: treeLevel op t
  | some x :: none :: t => some x :: treeLevel op t
  | none :: y :: t => y :: treeLevel op t
  | l => l

/-- The tree over 2^n lanes (R73). -/
def treeFold (op : Word → Word → Word) : Nat → List (Option Word) → Option Word
  | 0, l => l.headD none
  | n + 1, l => treeFold op n (treeLevel op l)

/-- A reduction: one result of the contributors for every participant, poisoned if one of them is (R90). The function
takes the words by lane, absent for a lane that is no contributor. -/
def xchRed (d : Dst) (a : Src) (f : List (Option Word) → Word) (s : State) : Host.Outcome State Fault Refusal :=
  withGather s fun w =>
    let w := w.sources (dstFlds d ++ srcFlds a codeA) (some d) (some a) none
    (w.writeDst d fun _ r =>
      let gs := w.givers r
      let words := (upto (w.s.group r.1).width).map fun k =>
        if gs.contains k then some (w.src (r.1, k) codeA a).val else none
      { val := f words, poison := gs.any fun k => (w.src (r.1, k) codeA a).poison }).finish

/-- The words present. -/
def present (l : List (Option Word)) : List Word := l.filterMap id

/-- The tree over the lanes of a group of any width to 64, padded with absent lanes. -/
def laneTree (op : Word → Word → Word) (l : List (Option Word)) : Option Word :=
  treeFold op 6 (l ++ List.replicate (64 - l.length) none)

/-- A NaN result is the canonical NaN (R64, R90). -/
def canonNaN (w : Word) : Word := if isNaN w then nanWord else w

/-- The sum tree: an absent lane gives −0.0 (R73). -/
def sumTree (l : List (Option Word)) : Word := ((laneTree fadd (l.map fun x => some (x.getD 0x80000000))).getD 0x80000000)

/-- QSWP_H (R89). -/
def execQswpH (d : Dst) (a : Src) (s : State) : Host.Outcome State Fault Refusal :=
  xchQuad d a (fun _ r => r.2 ^^^ 1) s

/-- QSWP_V (R89). -/
def execQswpV (d : Dst) (a : Src) (s : State) : Host.Outcome State Fault Refusal :=
  xchQuad d a (fun _ r => r.2 ^^^ 2) s

/-- QSWP_D (R89). -/
def execQswpD (d : Dst) (a : Src) (s : State) : Host.Outcome State Fault Refusal :=
  xchQuad d a (fun _ r => r.2 ^^^ 3) s

/-- QBC (R89): the lowest participant of the quad. -/
def execQbc (d : Dst) (a : Src) (s : State) : Host.Outcome State Fault Refusal :=
  xchQuad d a (fun w r => ((w.peers r).find? fun k => k / 4 == r.2 / 4).getD r.2) s

/-- SHFL_IDX (R89). -/
def execShflIdx (d : Dst) (a : Src) (b : Reg) (s : State) : Host.Outcome State Fault Refusal :=
  xchShfl d a b (fun w _ b => some (b % w)) s

/-- SHFL_UP (R89). -/
def execShflUp (d : Dst) (a : Src) (b : Reg) (s : State) : Host.Outcome State Fault Refusal :=
  xchShfl d a b (fun _ l b => if l + 1 ≤ b then none else some (l - b)) s

/-- SHFL_DN (R89). -/
def execShflDn (d : Dst) (a : Src) (b : Reg) (s : State) : Host.Outcome State Fault Refusal :=
  xchShfl d a b (fun w l b => if w ≤ l + b then none else some (l + b)) s

/-- SHFL_XOR (R89). -/
def execShflXor (d : Dst) (a : Src) (b : Reg) (s : State) : Host.Outcome State Fault Refusal :=
  xchShfl d a b (fun w l b => some (l ^^^ (b % w))) s

/-- VOTE_ANY (R90). -/
def execVoteAny (d : Dst) (a : Reg) (s : State) : Host.Outcome State Fault Refusal :=
  xchVote d a (fun l => boolWord (l.any condTrue)) s

/-- VOTE_ALL (R90). -/
def execVoteAll (d : Dst) (a : Reg) (s : State) : Host.Outcome State Fault Refusal :=
  xchVote d a (fun l => boolWord (l.all condTrue)) s

/-- VOTE_MASK (R90): the 64-bit mask of the contributors whose condition is true, in D and D + 1. -/
def execVoteMask (d a : Reg) (s : State) : Host.Outcome State Fault Refusal :=
  voteWork [rfld codeD d 2] none a s fun w =>
    ((w.writeRegs codeD d.toNat fun _ r =>
      let m := (w.givers r).foldl (fun (m : DWord) k =>
        if condTrue (w.regOf (r.1, k) codeA a).val then m ||| (1#64 <<< k) else m) 0
      [{ val := lo32 m }, { val := hi32 m }]).zeroRegs codeD d.toNat 2).finish

/-- VOTE_EQ (R90). -/
def execVoteEq (d : Dst) (a : Reg) (s : State) : Host.Outcome State Fault Refusal :=
  xchVote d a (fun l => boolWord (l.all fun x => x == l.headD 0)) s

/-- RED_IADD (R90). -/
def execRedIadd (d : Dst) (a : Src) (s : State) : Host.Outcome State Fault Refusal :=
  xchRed d a (fun l => (present l).foldl (· + ·) 0) s

/-- RED_IMIN (R90). -/
def execRedImin (d : Dst) (a : Src) (s : State) : Host.Outcome State Fault Refusal :=
  xchRed d a (fun l => (present l).foldl lesserS 0x7FFFFFFF) s

/-- RED_IMAX (R90). -/
def execRedImax (d : Dst) (a : Src) (s : State) : Host.Outcome State Fault Refusal :=
  xchRed d a (fun l => (present l).foldl greaterS 0x80000000) s

/-- RED_FADD (R73, R90); where a Kolesque core's one thread gives the only word, no addition is made, and a NaN is delivered as
the canonical NaN too (R64, R354). -/
def execRedFadd (d : Dst) (a : Src) (s : State) : Host.Outcome State Fault Refusal :=
  xchRed d a (fun l => canonNaN (sumTree l)) s

/-- RED_FMIN (R73, R90). -/
def execRedFmin (d : Dst) (a : Src) (s : State) : Host.Outcome State Fault Refusal :=
  xchRed d a (fun l => canonNaN ((laneTree fmin l).getD 0x7F800000)) s

/-- RED_FMAX (R73, R90). -/
def execRedFmax (d : Dst) (a : Src) (s : State) : Host.Outcome State Fault Refusal :=
  xchRed d a (fun l => canonNaN ((laneTree fmax l).getD 0xFF800000)) s

/-- MATCH (R90): the lowest contributor with the same word; poisoned words equal nothing.
Log: DEDUCED (entry 35), DESIGN CHOICE (entry 121). -/
def execMatchLane (d : Dst) (a : Src) (s : State) : Host.Outcome State Fault Refusal :=
  withGather s fun w =>
    let w := w.sources (dstFlds d ++ srcFlds a codeA) (some d) (some a) none
    (w.writeDst d fun _ r =>
      let mine := w.src r codeA a
      let hit := if mine.poison then none
        else (w.givers r).find? fun k =>
          let x := w.src (r.1, k) codeA a
          !x.poison && x.val == mine.val
      { val := BitVec.ofNat 32 (hit.getD r.2) }).finish

end Sys2Proof.Machine
end

