-- ==== Sys2Proof/Machine/Dispatch.lean ====
section
/-!
DEFINITION. One arm per constructor of Instr: the call of its meaning.
-/

namespace Sys2Proof.Machine

open Sys2Proof

/-- What an instruction or event does. -/
def exec (i : Instr) (s : State) : Host.Outcome State Fault Refusal :=
  match i with
  | .iadd d a b => Sys2Proof.Machine.execIadd d a b s
  | .isub d a b => Sys2Proof.Machine.execIsub d a b s
  | .imul d a b => Sys2Proof.Machine.execImul d a b s
  | .imulh d a b => Sys2Proof.Machine.execImulh d a b s
  | .nmulh d a b => Sys2Proof.Machine.execNmulh d a b s
  | .imad d a b => Sys2Proof.Machine.execImad d a b s
  | .imin d a b => Sys2Proof.Machine.execImin d a b s
  | .imax d a b => Sys2Proof.Machine.execImax d a b s
  | .nmin d a b => Sys2Proof.Machine.execNmin d a b s
  | .nmax d a b => Sys2Proof.Machine.execNmax d a b s
  | .iabs d a => Sys2Proof.Machine.execIabs d a s
  | .ineg d a => Sys2Proof.Machine.execIneg d a s
  | .and d a b => Sys2Proof.Machine.execAnd d a b s
  | .or d a b => Sys2Proof.Machine.execOr d a b s
  | .xor d a b => Sys2Proof.Machine.execXor d a b s
  | .andn d a b => Sys2Proof.Machine.execAndn d a b s
  | .not d a => Sys2Proof.Machine.execNot d a s
  | .shl d a b => Sys2Proof.Machine.execShl d a b s
  | .shr d a b => Sys2Proof.Machine.execShr d a b s
  | .sar d a b => Sys2Proof.Machine.execSar d a b s
  | .rotl d a b => Sys2Proof.Machine.execRotl d a b s
  | .popc d a => Sys2Proof.Machine.execPopc d a s
  | .clz d a => Sys2Proof.Machine.execClz d a s
  | .brev d a => Sys2Proof.Machine.execBrev d a s
  | .sel d a b => Sys2Proof.Machine.execSel d a b s
  | .bfe d a b => Sys2Proof.Machine.execBfe d a b s
  | .bfi d a b => Sys2Proof.Machine.execBfi d a b s
  | .iadds d a b => Sys2Proof.Machine.execIadds d a b s
  | .isubs d a b => Sys2Proof.Machine.execIsubs d a b s
  | .mov d a => Sys2Proof.Machine.execMov d a s
  | .icmpEq d a b => Sys2Proof.Machine.execIcmpEq d a b s
  | .icmpNe d a b => Sys2Proof.Machine.execIcmpNe d a b s
  | .icmpLt d a b => Sys2Proof.Machine.execIcmpLt d a b s
  | .icmpLe d a b => Sys2Proof.Machine.execIcmpLe d a b s
  | .icmpGt d a b => Sys2Proof.Machine.execIcmpGt d a b s
  | .icmpGe d a b => Sys2Proof.Machine.execIcmpGe d a b s
  | .icmpLtn d a b => Sys2Proof.Machine.execIcmpLtn d a b s
  | .icmpLen d a b => Sys2Proof.Machine.execIcmpLen d a b s
  | .icmpGtn d a b => Sys2Proof.Machine.execIcmpGtn d a b s
  | .icmpGen d a b => Sys2Proof.Machine.execIcmpGen d a b s
  | .fcmpEq d a b => Sys2Proof.Machine.execFcmpEq d a b s
  | .fcmpNe d a b => Sys2Proof.Machine.execFcmpNe d a b s
  | .fcmpLt d a b => Sys2Proof.Machine.execFcmpLt d a b s
  | .fcmpLe d a b => Sys2Proof.Machine.execFcmpLe d a b s
  | .fcmpGt d a b => Sys2Proof.Machine.execFcmpGt d a b s
  | .fcmpGe d a b => Sys2Proof.Machine.execFcmpGe d a b s
  | .fcmpUn d a b => Sys2Proof.Machine.execFcmpUn d a b s
  | .fadd d a b => Sys2Proof.Machine.execFadd d a b s
  | .fsub d a b => Sys2Proof.Machine.execFsub d a b s
  | .fmul d a b => Sys2Proof.Machine.execFmul d a b s
  | .ffma d a b => Sys2Proof.Machine.execFfma d a b s
  | .fmin d a b => Sys2Proof.Machine.execFmin d a b s
  | .fmax d a b => Sys2Proof.Machine.execFmax d a b s
  | .fabs d a => Sys2Proof.Machine.execFabs d a s
  | .fneg d a => Sys2Proof.Machine.execFneg d a s
  | .fsgn d a b => Sys2Proof.Machine.execFsgn d a b s
  | .frcp d a => Sys2Proof.Machine.execFrcp d a s
  | .frsq d a => Sys2Proof.Machine.execFrsq d a s
  | .fsqrt d a => Sys2Proof.Machine.execFsqrt d a s
  | .fexp2 d a => Sys2Proof.Machine.execFexp2 d a s
  | .flog2 d a => Sys2Proof.Machine.execFlog2 d a s
  | .fsin d a => Sys2Proof.Machine.execFsin d a s
  | .fcos d a => Sys2Proof.Machine.execFcos d a s
  | .ftanh d a => Sys2Proof.Machine.execFtanh d a s
  | .ffloor d a => Sys2Proof.Machine.execFfloor d a s
  | .fceil d a => Sys2Proof.Machine.execFceil d a s
  | .ftrunc d a => Sys2Proof.Machine.execFtrunc d a s
  | .frint d a => Sys2Proof.Machine.execFrint d a s
  | .fclass d a => Sys2Proof.Machine.execFclass d a s
  | .fscale d a b => Sys2Proof.Machine.execFscale d a b s
  | .ffms d a b => Sys2Proof.Machine.execFfms d a b s
  | .cvtF32I32 d a => Sys2Proof.Machine.execCvtF32I32 d a s
  | .cvtF32N32 d a => Sys2Proof.Machine.execCvtF32N32 d a s
  | .cvtI32F32 d a => Sys2Proof.Machine.execCvtI32F32 d a s
  | .cvtN32F32 d a => Sys2Proof.Machine.execCvtN32F32 d a s
  | .cvtI32F32Rn d a => Sys2Proof.Machine.execCvtI32F32Rn d a s
  | .cvtF16F32 d a => Sys2Proof.Machine.execCvtF16F32 d a s
  | .cvtF32F16 d a => Sys2Proof.Machine.execCvtF32F16 d a s
  | .cvtE8m7F32 d a => Sys2Proof.Machine.execCvtE8m7F32 d a s
  | .cvtF32E8m7 d a => Sys2Proof.Machine.execCvtF32E8m7 d a s
  | .packF16 d a b => Sys2Proof.Machine.execPackF16 d a b s
  | .packE8m7 d a b => Sys2Proof.Machine.execPackE8m7 d a b s
  | .sext8 d a => Sys2Proof.Machine.execSext8 d a s
  | .sext16 d a => Sys2Proof.Machine.execSext16 d a s
  | .zext8 d a => Sys2Proof.Machine.execZext8 d a s
  | .zext16 d a => Sys2Proof.Machine.execZext16 d a s
  | .haddF16 d a b => Sys2Proof.Machine.execHaddF16 d a b s
  | .hmulF16 d a b => Sys2Proof.Machine.execHmulF16 d a b s
  | .hfmaF16 d a b => Sys2Proof.Machine.execHfmaF16 d a b s
  | .hminF16 d a b => Sys2Proof.Machine.execHminF16 d a b s
  | .hmaxF16 d a b => Sys2Proof.Machine.execHmaxF16 d a b s
  | .hdotF16 d a b => Sys2Proof.Machine.execHdotF16 d a b s
  | .haddE8m7 d a b => Sys2Proof.Machine.execHaddE8m7 d a b s
  | .hmulE8m7 d a b => Sys2Proof.Machine.execHmulE8m7 d a b s
  | .hfmaE8m7 d a b => Sys2Proof.Machine.execHfmaE8m7 d a b s
  | .hminE8m7 d a b => Sys2Proof.Machine.execHminE8m7 d a b s
  | .hmaxE8m7 d a b => Sys2Proof.Machine.execHmaxE8m7 d a b s
  | .hdotE8m7 d a b => Sys2Proof.Machine.execHdotE8m7 d a b s
  | .qswpH d a => Sys2Proof.Machine.execQswpH d a s
  | .qswpV d a => Sys2Proof.Machine.execQswpV d a s
  | .qswpD d a => Sys2Proof.Machine.execQswpD d a s
  | .qbc d a => Sys2Proof.Machine.execQbc d a s
  | .shflIdx d a b => Sys2Proof.Machine.execShflIdx d a b s
  | .shflUp d a b => Sys2Proof.Machine.execShflUp d a b s
  | .shflDn d a b => Sys2Proof.Machine.execShflDn d a b s
  | .shflXor d a b => Sys2Proof.Machine.execShflXor d a b s
  | .voteAny d a => Sys2Proof.Machine.execVoteAny d a s
  | .voteAll d a => Sys2Proof.Machine.execVoteAll d a s
  | .voteMask d a => Sys2Proof.Machine.execVoteMask d a s
  | .voteEq d a => Sys2Proof.Machine.execVoteEq d a s
  | .redIadd d a => Sys2Proof.Machine.execRedIadd d a s
  | .redImin d a => Sys2Proof.Machine.execRedImin d a s
  | .redImax d a => Sys2Proof.Machine.execRedImax d a s
  | .redFadd d a => Sys2Proof.Machine.execRedFadd d a s
  | .redFmin d a => Sys2Proof.Machine.execRedFmin d a s
  | .redFmax d a => Sys2Proof.Machine.execRedFmax d a s
  | .matchLane d a => Sys2Proof.Machine.execMatchLane d a s
  | .iaddi d a imm => Sys2Proof.Machine.execIaddi d a imm s
  | .andi d a imm => Sys2Proof.Machine.execAndi d a imm s
  | .ori d a imm => Sys2Proof.Machine.execOri d a imm s
  | .xori d a imm => Sys2Proof.Machine.execXori d a imm s
  | .shli d a imm => Sys2Proof.Machine.execShli d a imm s
  | .shri d a imm => Sys2Proof.Machine.execShri d a imm s
  | .sari d a imm => Sys2Proof.Machine.execSari d a imm s
  | .movi d imm => Sys2Proof.Machine.execMovi d imm s
  | .imuli d a imm => Sys2Proof.Machine.execImuli d a imm s
  | .ldb d c imm => Sys2Proof.Machine.execLdb d c imm s
  | .ldbn d c imm => Sys2Proof.Machine.execLdbn d c imm s
  | .ldh d c imm => Sys2Proof.Machine.execLdh d c imm s
  | .ldhn d c imm => Sys2Proof.Machine.execLdhn d c imm s
  | .ldw d c imm => Sys2Proof.Machine.execLdw d c imm s
  | .ldd d c imm => Sys2Proof.Machine.execLdd d c imm s
  | .ldq d c imm => Sys2Proof.Machine.execLdq d c imm s
  | .ldc d c imm => Sys2Proof.Machine.execLdc d c imm s
  | .stb d c imm => Sys2Proof.Machine.execStb d c imm s
  | .sth d c imm => Sys2Proof.Machine.execSth d c imm s
  | .stw d c imm => Sys2Proof.Machine.execStw d c imm s
  | .std d c imm => Sys2Proof.Machine.execStd d c imm s
  | .stq d c imm => Sys2Proof.Machine.execStq d c imm s
  | .stc d c imm => Sys2Proof.Machine.execStc d c imm s
  | .fld d l k imm => Sys2Proof.Machine.execFld d l k imm s
  | .fst d l k imm => Sys2Proof.Machine.execFst d l k imm s
  | .atomAdd d c ord scope use => Sys2Proof.Machine.execAtomAdd d c ord scope use s
  | .atomAnd d c ord scope use => Sys2Proof.Machine.execAtomAnd d c ord scope use s
  | .atomOr d c ord scope use => Sys2Proof.Machine.execAtomOr d c ord scope use s
  | .atomXor d c ord scope use => Sys2Proof.Machine.execAtomXor d c ord scope use s
  | .atomMin d c ord scope use => Sys2Proof.Machine.execAtomMin d c ord scope use s
  | .atomMax d c ord scope use => Sys2Proof.Machine.execAtomMax d c ord scope use s
  | .atomNmin d c ord scope use => Sys2Proof.Machine.execAtomNmin d c ord scope use s
  | .atomNmax d c ord scope use => Sys2Proof.Machine.execAtomNmax d c ord scope use s
  | .atomSwap d c ord scope use => Sys2Proof.Machine.execAtomSwap d c ord scope use s
  | .atomCas d c ord scope use => Sys2Proof.Machine.execAtomCas d c ord scope use s
  | .atomFadd d c ord scope use => Sys2Proof.Machine.execAtomFadd d c ord scope use s
  | .atomFmin d c ord scope use => Sys2Proof.Machine.execAtomFmin d c ord scope use s
  | .atomFmax d c ord scope use => Sys2Proof.Machine.execAtomFmax d c ord scope use s
  | .lda d c scope => Sys2Proof.Machine.execLda d c scope s
  | .stl d c scope => Sys2Proof.Machine.execStl d c scope s
  | .lds d c scope => Sys2Proof.Machine.execLds d c scope s
  | .sts d c scope => Sys2Proof.Machine.execSts d c scope s
  | .bra disp => Sys2Proof.Machine.execBra disp s
  | .brz a disp => Sys2Proof.Machine.execBrz a disp s
  | .brnz a disp => Sys2Proof.Machine.execBrnz a disp s
  | .call disp => Sys2Proof.Machine.execCall disp s
  | .bri a => Sys2Proof.Machine.execBri a s
  | .calli a => Sys2Proof.Machine.execCalli a s
  | .rcvwait n => Sys2Proof.Machine.execRcvwait n s
  | .trap code => Sys2Proof.Machine.execTrap code s
  | .rcvset b imm => Sys2Proof.Machine.execRcvset b imm s
  | .loop d len => Sys2Proof.Machine.execLoop d len s
  | .cmov d a => Sys2Proof.Machine.execCmov d a s
  | .cadd d a b => Sys2Proof.Machine.execCadd d a b s
  | .csetb d a b => Sys2Proof.Machine.execCsetb d a b s
  | .csetbx d a b => Sys2Proof.Machine.execCsetbx d a b s
  | .cbase d a => Sys2Proof.Machine.execCbase d a s
  | .clen d a => Sys2Proof.Machine.execClen d a s
  | .ccur d a => Sys2Proof.Machine.execCcur d a s
  | .cperm d a => Sys2Proof.Machine.execCperm d a s
  | .candp d a b => Sys2Proof.Machine.execCandp d a b s
  | .cseal d a b => Sys2Proof.Machine.execCseal d a b s
  | .cunseal d a b => Sys2Proof.Machine.execCunseal d a b s
  | .ctag d a => Sys2Proof.Machine.execCtag d a s
  | .csetc d a b => Sys2Proof.Machine.execCsetc d a b s
  | .cdisp d l => Sys2Proof.Machine.execCdisp d l s
  | .cpyin d a b => Sys2Proof.Machine.execCpyin d a b s
  | .cpyout d a b => Sys2Proof.Machine.execCpyout d a b s
  | .cpycvt d a b => Sys2Proof.Machine.execCpycvt d a b s
  | .cpywait a => Sys2Proof.Machine.execCpywait a s
  | .pres d a => Sys2Proof.Machine.execPres d a s
  | .pclr a b => Sys2Proof.Machine.execPclr a b s
  | .chbind n a b => Sys2Proof.Machine.execChbind n a b s
  | .chpush n a => Sys2Proof.Machine.execChpush n a s
  | .chpop d n => Sys2Proof.Machine.execChpop d n s
  | .chpeek d n => Sys2Proof.Machine.execChpeek d n s
  | .chstat d n => Sys2Proof.Machine.execChstat d n s
  | .chclose n => Sys2Proof.Machine.execChclose n s
  | .chfree n => Sys2Proof.Machine.execChfree n s
  | .barinit a b => Sys2Proof.Machine.execBarinit a b s
  | .bararr d a => Sys2Proof.Machine.execBararr d a s
  | .barwait a b => Sys2Proof.Machine.execBarwait a b s
  | .barsync a => Sys2Proof.Machine.execBarsync a s
  | .bardrop a => Sys2Proof.Machine.execBardrop a s
  | .cvinit n a => Sys2Proof.Machine.execCvinit n a s
  | .cvsign n => Sys2Proof.Machine.execCvsign n s
  | .strag d a => Sys2Proof.Machine.execStrag d a s
  | .mx d f ca cb cv => Sys2Proof.Machine.execMx d f ca cb cv s
  | .mxwait n => Sys2Proof.Machine.execMxwait n s
  | .mxzero d => Sys2Proof.Machine.execMxzero d s
  | .launch d a => Sys2Proof.Machine.execLaunch d a s
  | .launcha d a b => Sys2Proof.Machine.execLauncha d a b s
  | .join a => Sys2Proof.Machine.execJoin a s
  | .jpoll d a => Sys2Proof.Machine.execJpoll d a s
  | .nemit a b => Sys2Proof.Machine.execNemit a b s
  | .bound a => Sys2Proof.Machine.execBound a s
  | .incrd d a => Sys2Proof.Machine.execIncrd d a s
  | .incimp d a b => Sys2Proof.Machine.execIncimp d a b s
  | .aropen d a => Sys2Proof.Machine.execAropen d a s
  | .aropenReopen d a => Sys2Proof.Machine.execAropenReopen d a s
  | .arjoin a b => Sys2Proof.Machine.execArjoin a b s
  | .arseal a => Sys2Proof.Machine.execArseal a s
  | .arvote a => Sys2Proof.Machine.execArvote a s
  | .arabort a => Sys2Proof.Machine.execArabort a s
  | .arstat d a => Sys2Proof.Machine.execArstat d a s
  | .srd d id => Sys2Proof.Machine.execSrd d id s
  | .swr id a => Sys2Proof.Machine.execSwr id a s
  | .fence kind scope => Sys2Proof.Machine.execFence kind scope s
  | .csum d => Sys2Proof.Machine.execCsum d s
  | .dbgmark mark => Sys2Proof.Machine.execDbgmark mark s
  | .perf d id => Sys2Proof.Machine.execPerf d id s
  | .evwait d => Sys2Proof.Machine.execEvwait d s
  | .qlock a => Sys2Proof.Machine.execQlock a s
  | .qunlock a => Sys2Proof.Machine.execQunlock a s
  | .ctxrunRun d a => Sys2Proof.Machine.execCtxrunRun d a s
  | .ctxrunHalt d a => Sys2Proof.Machine.execCtxrunHalt d a s
  | .ctxrunResume d a => Sys2Proof.Machine.execCtxrunResume d a s
  | .ctxrunSave d a => Sys2Proof.Machine.execCtxrunSave d a s
  | .ctxrunDump d a => Sys2Proof.Machine.execCtxrunDump d a s
  | .ctxrunKill d a => Sys2Proof.Machine.execCtxrunKill d a s
  | .ctxrunState d a => Sys2Proof.Machine.execCtxrunState d a s
  | .rgn cnt q0 q1 q2 q3 sl => Sys2Proof.Machine.execRgn cnt q0 q1 q2 q3 sl s
  | .bkpt tag => Sys2Proof.Machine.execBkpt tag s
  | .ret => Sys2Proof.Machine.execRet s
  | .exit => Sys2Proof.Machine.execExit s
  | .yield => Sys2Proof.Machine.execYield s
  | .killpt => Sys2Proof.Machine.execKillpt s
  | .nop => Sys2Proof.Machine.execNop s
  | .rft => Sys2Proof.Machine.execRft s
  | .gbar => Sys2Proof.Machine.execGbar s
  | .btake => Sys2Proof.Machine.execBtake s
  | .bpass => Sys2Proof.Machine.execBpass s
  | .fenceop => Sys2Proof.Machine.execFenceop s
  | .halt => Sys2Proof.Machine.execHalt s
  | .privTlbInvalidateAll => Sys2Proof.Machine.execPrivTlbInvalidateAll s
  | .privTlbInvalidateAsid => Sys2Proof.Machine.execPrivTlbInvalidateAsid s
  | .privTlbInvalidateRange => Sys2Proof.Machine.execPrivTlbInvalidateRange s
  | .privIdentifierEntry => Sys2Proof.Machine.execPrivIdentifierEntry s
  | .privKeyLoad => Sys2Proof.Machine.execPrivKeyLoad s
  | .privKeyDestroy => Sys2Proof.Machine.execPrivKeyDestroy s
  | .privPlantBreakpoint => Sys2Proof.Machine.execPrivPlantBreakpoint s
  | .privRemoveBreakpoint => Sys2Proof.Machine.execPrivRemoveBreakpoint s
  | .privRevokeDebug => Sys2Proof.Machine.execPrivRevokeDebug s
  | .privEngineReset => Sys2Proof.Machine.execPrivEngineReset s
  | .privDerate => Sys2Proof.Machine.execPrivDerate s
  | .privFaultReplay => Sys2Proof.Machine.execPrivFaultReplay s
  | .privFaultFail => Sys2Proof.Machine.execPrivFaultFail s
  | .privReadFaultRecord => Sys2Proof.Machine.execPrivReadFaultRecord s
  | .privPoolQuery => Sys2Proof.Machine.execPrivPoolQuery s
  | .privQueueDisable => Sys2Proof.Machine.execPrivQueueDisable s
  | .privQueueActivate => Sys2Proof.Machine.execPrivQueueActivate s
  | .privMsix => Sys2Proof.Machine.execPrivMsix s
  | .privHandover => Sys2Proof.Machine.execPrivHandover s
  | .mxOperandWaitEnd => Sys2Proof.Machine.execMxOperandWaitEnd s
  | .mxComputeEnd => Sys2Proof.Machine.execMxComputeEnd s
  | .copyAdvance => Sys2Proof.Machine.execCopyAdvance s
  | .copyComplete => Sys2Proof.Machine.execCopyComplete s
  | .asyncTrapDelivery => Sys2Proof.Machine.execAsyncTrapDelivery s
  | .foragerDeal => Sys2Proof.Machine.execForagerDeal s
  | .contextCompletion => Sys2Proof.Machine.execContextCompletion s
  | .binTimerExpiry => Sys2Proof.Machine.execBinTimerExpiry s
  | .improvementReachesDie => Sys2Proof.Machine.execImprovementReachesDie s
  | .killTakesEffect => Sys2Proof.Machine.execKillTakesEffect s
  | .regionInstallComplete => Sys2Proof.Machine.execRegionInstallComplete s
  | .regionAbortDelivery => Sys2Proof.Machine.execRegionAbortDelivery s
  | .remoteDataReturn => Sys2Proof.Machine.execRemoteDataReturn s
  | .remoteAccessTimeout => Sys2Proof.Machine.execRemoteAccessTimeout s
  | .derateTakesEffect => Sys2Proof.Machine.execDerateTakesEffect s
  | .windowSlotAgeGrant => Sys2Proof.Machine.execWindowSlotAgeGrant s
  | .shortLivedExpiry => Sys2Proof.Machine.execShortLivedExpiry s
  | .haltComplete => Sys2Proof.Machine.execHaltComplete s
  | .rowEviction => Sys2Proof.Machine.execRowEviction s
  | .eventDelivery => Sys2Proof.Machine.execEventDelivery s
  | .ktimerExpiry => Sys2Proof.Machine.execKtimerExpiry s
  | .watchdogExpiry => Sys2Proof.Machine.execWatchdogExpiry s
  | .imemUncorrectableError => Sys2Proof.Machine.execImemUncorrectableError s
  | .queueTableError => Sys2Proof.Machine.execQueueTableError s
  | .doorbell => Sys2Proof.Machine.execDoorbell s
  | .apertureAccess => Sys2Proof.Machine.execApertureAccess s
  | .hostRegisterWrite => Sys2Proof.Machine.execHostRegisterWrite s
  | .leaseResetRequest => Sys2Proof.Machine.execLeaseResetRequest s
  | .fwstart => Sys2Proof.Machine.execFwstart s
  | .powerOn => Sys2Proof.Machine.execPowerOn s
  | .correctedError => Sys2Proof.Machine.execCorrectedError s
  | .uncorrectableError => Sys2Proof.Machine.execUncorrectableError s
  | .ceWindowEnd => Sys2Proof.Machine.execCeWindowEnd s
  | .inputVoltageOutOfRange => Sys2Proof.Machine.execInputVoltageOutOfRange s
  | .powerWindowEnd => Sys2Proof.Machine.execPowerWindowEnd s
  | .inletOverTemperature => Sys2Proof.Machine.execInletOverTemperature s
  | .cicadaClockGate => Sys2Proof.Machine.execCicadaClockGate s
  | .cicadaPowerGate => Sys2Proof.Machine.execCicadaPowerGate s
  | .hangReport => Sys2Proof.Machine.execHangReport s
  | .linkDown => Sys2Proof.Machine.execLinkDown s
  | .linkRetrain => Sys2Proof.Machine.execLinkRetrain s
  | .i3cDomidWrite => Sys2Proof.Machine.execI3cDomidWrite s
  | .i3cLeasereq => Sys2Proof.Machine.execI3cLeasereq s
  | .entdaa => Sys2Proof.Machine.execEntdaa s
  | .rstdaa => Sys2Proof.Machine.execRstdaa s
  | .setdasa => Sys2Proof.Machine.execSetdasa s
  | .getpid => Sys2Proof.Machine.execGetpid s
  | .getbcr => Sys2Proof.Machine.execGetbcr s
  | .getdcr => Sys2Proof.Machine.execGetdcr s
  | .getstatus => Sys2Proof.Machine.execGetstatus s
  | .illegalInstruction => Sys2Proof.Machine.execIllegalInstruction s
  | .scrubComplete => Sys2Proof.Machine.execScrubComplete s
  | .fabricRouteLost => Sys2Proof.Machine.execFabricRouteLost s
  | .fabricRouteRestored => Sys2Proof.Machine.execFabricRouteRestored s
  | .remoteAccessRequest => Sys2Proof.Machine.execRemoteAccessRequest s
  | .remoteRegionMessage => Sys2Proof.Machine.execRemoteRegionMessage s

end Sys2Proof.Machine
end

