-- ==== Sys2Proof/Machine/Step.lean ====
section
/-!
DEFINITION. One step of the machine: what acts next is made ready, its instruction or event runs, and what follows by
itself closes the step.
-/

namespace Sys2Proof.Machine

open Sys2Proof

/-- One step.
Log: DESIGN CHOICE (entry 1). -/
def step (s : State) : Host.Outcome State Fault Refusal :=
  match s.prepare with
  | .settled t => .next t.conclude
  | .run t i =>
    match exec i t with
    | .next u => .next u.conclude
    | .fault f => .fault f
    | .refused r => .refused r

/-- The state with an instruction word placed where the next step fetches (words are 32 bits, R22).
Log: DESIGN CHOICE (entry 16). -/
def State.withFetchWord (s : State) (_nbits w : Nat) : State := s.placeWord (BitVec.ofNat 32 w)

end Sys2Proof.Machine
end

