-- ==== Sys2Proof/Safety.lean ====
section
/-!
DEFINITION. What counts as a safe run, and the terms the claims use: runs, gathers that are ready to execute, and what a
step leaves alone.
-/

namespace Sys2Proof.Machine

open Sys2Proof

/-! ### Runs -/

/-- The step answers a next state. -/
def State.goesOn (s : State) : Prop := ∃ t, step s = .next t

/-- `t` is reached from `s` in `n` steps, each of which answered a next state. -/
inductive Reaches : Nat → State → State → Prop where
  | here (s : State) : Reaches 0 s s
  | more (n : Nat) (s t u : State) (h : step s = .next t) (r : Reaches n t u) : Reaches (n + 1) s u

/-- A safe state: whatever is reached from it goes on. -/
def State.Safe (s : State) : Prop := ∀ n t, Reaches n s t → t.goesOn

/-! ### Gathers -/

/-- A group is held. -/
def State.holds (s : State) (gid : Nat) : Bool := s.groups.any fun g => g.gid == gid

/-- A lane exists: its group is held and has a lane of that number. -/
def State.has (s : State) (r : LRef) : Prop := s.holds r.1 = true ∧ r.2 < (s.group r.1).lanes.length

/-- The latched gather of a state as the meanings begin with it. -/
def State.work (s : State) (l : Latch) : Work := { s := s, l := l, live := l.lanes, traps := l.late }

/-- A gather is latched whose lanes exist, none twice, and beside which no lane's fetch failed; and where a lane ends a loop pass with this word, its group's
blocking points are no kill points (R296). -/
structure Ready (s : State) (l : Latch) : Prop where
  latched : s.issue = some l
  alone : l.late = []
  nodup : l.lanes.Nodup
  there : ∀ r ∈ l.lanes, s.has r
  noKill : ∀ r ∈ l.lanes, (s.lane r).atPassEnd = true → (s.group r.1).taskKill = false

/-- Every field names registers of every lane of the gather (R32, R160). -/
def InRange (s : State) (l : Latch) (flds : List Fld) : Prop :=
  ∀ r ∈ l.lanes, ∀ f ∈ flds, inRange ((s.work l).num r f.code f.num) f.width (s.group r.1).regs = true

/-- The register that a field names in a lane of the gather (R128, R160). -/
def regNo (s : State) (l : Latch) (r : LRef) (code : Nat) (n : Reg) : Nat := (s.work l).rnum r code n.toNat

/-! ### What is left alone -/

/-- A context apart from its perf counters, which every gather advances (R337). -/
def Ctx.noPerf (c : Ctx) : Ctx := { c with hdr := { c.hdr with perf := [] } }

/-- A group apart from what its lanes hold: how many they are stays. -/
def Group.shell (g : Group) : Group := { g with lanes := g.lanes.map fun _ => {} }

/-- `t` is `s` but for perf counters. -/
structure Tallied (s t : State) : Prop where
  rest : { t with ctxs := s.ctxs } = s
  ctxs : ∀ c, (t.ctx c).noPerf = (s.ctx c).noPerf

/-- `t` is `s` but for the lanes `ls` and for perf counters: every other lane is as before, every group keeps what is not
its lanes', every byte of HBM reads as before under every key, every scratchpad byte reads as before, and no other field of
the machine has changed. -/
structure LanesOnly (ls : List LRef) (s t : State) : Prop where
  other : ∀ r, r ∉ ls → t.lane r = s.lane r
  shells : t.groups.map Group.shell = s.groups.map Group.shell
  ctxs : ∀ c, (t.ctx c).noPerf = (s.ctx c).noPerf
  hbm : ∀ key a, t.hbmBytes key a 1 = s.hbmBytes key a 1
  scratch : ∀ b a, (t.block b).scratch.byte a = (s.block b).scratch.byte a
  rest : { t with groups := s.groups, ctxs := s.ctxs } = s

/-! ### What a state satisfies after every step -/

/-- What the closing of a step leaves (R83, R379): each row notes whether some lane of it could issue, no core with such a
row is gated, and no gather or event is latched. -/
structure Closed (s : State) : Prop where
  ready : ∀ c k, (c, k) ∈ s.cores → ∀ n row, (n, row) ∈ k.rows →
    row.ready = (s.rowLanes c n).any fun x => x.2.2.canIssue
  gate : ∀ c k, (c, k) ∈ s.cores → (∃ n row, (n, row) ∈ k.rows ∧ row.ready = true) → k.gate = {}
  latch : s.issue = none
  event : s.ev = {}

end Sys2Proof.Machine
end

