-- ==== Sys2Proof/Certificates/Slice0/Obligations.lean ====
section
/-!
DEFINITION. The claims about this machine, and the tables and terms they are stated with. `Claims.…` are terms; each
`Obligations.…` is one claim, whose docstring names the rule of the spec it formalises.
-/

open Sys2Proof Sys2Proof.Machine

namespace Sys2Proof.Machine.Claims

/-! ### Terms -/

/-- The word that a register field gives a lane. -/
def rd (s : State) (l : Latch) (r : LRef) (code : Nat) (n : Reg) : PWord := s.reg r (regNo s l r code n)

/-- The instruction answers a next state in which every lane of the gather has `v` in its register D, with D's quad
untagged, and has gone past the word; no other lane, no byte of memory and nothing else has changed. -/
def Gives (i : Instr) (s : State) (l : Latch) (d : Reg) (v : LRef → PWord) : Prop :=
  ∃ t, exec i s = .next t ∧ LanesOnly l.lanes s t ∧
    ∀ r ∈ l.lanes, t.lane r = ((s.lane r).wr (regNo s l r codeD d) (v r)).advance l.pc

/-- One operand's result with its poison. -/
def op1 (f : Word → Word) (x : PWord) : PWord := ⟨f x.val, x.poison⟩

/-- Two operands' result, poisoned if either is (R94). -/
def op2 (f : Word → Word → Word) (x y : PWord) : PWord := ⟨f x.val y.val, x.poison || y.poison⟩

/-- Three operands' result, poisoned if one is (R94). -/
def op3 (f : Word → Word → Word → Word) (x y z : PWord) : PWord := ⟨f x.val y.val z.val, x.poison || y.poison || z.poison⟩

/-- Fields of three registers. -/
def fDAB (d a b : Reg) : List Fld := [rfld codeD d, rfld codeA a, rfld codeB b]

/-- Fields of two registers. -/
def fDA (d a : Reg) : List Fld := [rfld codeD d, rfld codeA a]

/-- An integer saturated to i32. -/
def clampS (x : Int) : Word := BitVec.ofInt 32 (if x < -2147483648 then -2147483648 else if 2147483647 < x then 2147483647 else x)

/-- INT, CMP, FLT, CVT and PK16 instructions of two sources, with what they compute (Tables 6.2, 6.5, 6.6, 6.9, 6.10). -/
def intOps : List ((Dst → Src → Src → Instr) × (Word → Word → Word)) :=
  [(.iadd, fun x y => BitVec.ofNat 32 (x.toNat + y.toNat)),
   (.isub, fun x y => BitVec.ofInt 32 ((x.toNat : Int) - y.toNat)),
   (.imul, fun x y => BitVec.ofNat 32 (x.toNat * y.toNat)),
   (.imulh, fun x y => BitVec.ofInt 32 ((x.toInt * y.toInt) / 4294967296)),
   (.nmulh, fun x y => BitVec.ofNat 32 ((x.toNat * y.toNat) / 4294967296)),
   (.imin, fun x y => if y.toInt < x.toInt then y else x),
   (.imax, fun x y => if x.toInt < y.toInt then y else x),
   (.nmin, fun x y => if y.toNat < x.toNat then y else x),
   (.nmax, fun x y => if x.toNat < y.toNat then y else x),
   (.and, fun x y => x &&& y),
   (.or, fun x y => x ||| y),
   (.xor, fun x y => x ^^^ y),
   (.andn, fun x y => x &&& ~~~y),
   (.iadds, fun x y => clampS (x.toInt + y.toInt)),
   (.isubs, fun x y => clampS (x.toInt - y.toInt))]

/-- INT instructions of one source. -/
def intOps1 : List ((Dst → Src → Instr) × (Word → Word)) :=
  [(.iabs, fun x => if x.toInt < 0 then BitVec.ofInt 32 (-x.toInt) else x),
   (.ineg, fun x => BitVec.ofInt 32 (-x.toInt)),
   (.not, fun x => ~~~x),
   (.popc, fun x => BitVec.ofNat 32 (((List.range 32).map fun i => (x.getLsbD i).toNat).sum)),
   (.clz, fun x => BitVec.ofNat 32 (if x = 0 then 32 else 31 - Nat.log2 x.toNat)),
   (.brev, fun x => x.reverse),
   (.mov, fun x => x)]

/-- The shifts, with a count of 32 or more not reduced (R98). -/
def shiftOps : List ((Dst → Src → Reg → Instr) × (Word → Word → Word)) :=
  [(.shl, fun x y => if y.toNat < 32 then BitVec.ofNat 32 (x.toNat * 2 ^ y.toNat) else 0),
   (.shr, fun x y => if y.toNat < 32 then BitVec.ofNat 32 (x.toNat / 2 ^ y.toNat) else 0),
   (.sar, fun x y => if y.toNat < 32 then BitVec.ofInt 32 (x.toInt / 2 ^ y.toNat) else if x.toInt < 0 then 0xFFFFFFFF else 0),
   (.rotl, fun x y => BitVec.ofNat 32 (x.toNat * 2 ^ (y.toNat % 32) + x.toNat / 2 ^ (32 - y.toNat % 32)))]

/-- The bits of a field descriptor (R99): position and the length used. -/
def descPos (y : Word) : Nat := y.toNat % 32
/-- The length of a field descriptor, cut at bit 31. -/
def descLen (y : Word) : Nat := min ((y.toNat / 256) % 64) (32 - descPos y)
/-- The unsigned field that bfe extracts. -/
def descField (x y : Word) : Nat := x.toNat / 2 ^ descPos y % 2 ^ descLen y

/-- The integer comparisons (Table 6.5). -/
def icmpOps : List ((Dst → Src → Src → Instr) × (Word → Word → Bool)) :=
  [(.icmpEq, fun x y => decide (x = y)), (.icmpNe, fun x y => decide (x ≠ y)),
   (.icmpLt, fun x y => decide (x.toInt < y.toInt)), (.icmpLe, fun x y => decide (x.toInt ≤ y.toInt)),
   (.icmpGt, fun x y => decide (y.toInt < x.toInt)), (.icmpGe, fun x y => decide (y.toInt ≤ x.toInt)),
   (.icmpLtn, fun x y => decide (x.toNat < y.toNat)), (.icmpLen, fun x y => decide (x.toNat ≤ y.toNat)),
   (.icmpGtn, fun x y => decide (y.toNat < x.toNat)), (.icmpGen, fun x y => decide (y.toNat ≤ x.toNat))]

/-- The order of two f32 words by their exact values, none if one is a NaN. -/
def fOrder (x y : Word) : Option Ordering := (f32.read x.toNat).cmp (f32.read y.toNat)

/-- The floating-point comparisons by the order of their operands (Table 6.5). -/
def fcmpOps : List ((Dst → Src → Src → Instr) × (Option Ordering → Bool)) :=
  [(.fcmpEq, fun o => o == some .eq), (.fcmpNe, fun o => o != some .eq),
   (.fcmpLt, fun o => o == some .lt), (.fcmpLe, fun o => o == some .lt || o == some .eq),
   (.fcmpGt, fun o => o == some .gt), (.fcmpGe, fun o => o == some .gt || o == some .eq),
   (.fcmpUn, fun o => o == none)]

/-- Bits 22:0 of an f32 word, with the hidden bit of a normal number above them and the word's sign (R62). -/
def fSig (x : Word) : Int :=
  let m : Nat := x.toNat % 2 ^ 23 + if x.toNat / 2 ^ 23 % 256 = 0 then 0 else 2 ^ 23
  if x.toNat < 2 ^ 31 then m else -(m : Int)

/-- The exponent that an f32 word has: a subnormal has that of the least normal. -/
def fExp (x : Word) : Nat := max (x.toNat / 2 ^ 23 % 256) 1

/-- The word is an f32 NaN (R62). -/
def fIsNaN (x : Word) : Bool := decide (0x7F800000 < x.toNat % 2 ^ 31)

/-- A number over a power of two, to an integer: toward minus infinity. -/
def toFloor (n d : Int) : Int := n / d
/-- Toward plus infinity. -/
def toCeil (n d : Int) : Int := -(-n / d)
/-- Toward zero. -/
def toTrunc (n d : Int) : Int := if 0 ≤ n then n / d else -(-n / d)
/-- To nearest, ties to even. -/
def toNear (n d : Int) : Int := if d < 2 * (n % d) ∨ (2 * (n % d) = d ∧ n / d % 2 = 1) then n / d + 1 else n / d

/-- The value of an f32 word as an integer, rounded in a direction: `fSig` times 2 to the power `fExp` − 150. -/
def fToInt (dir : Int → Int → Int) (x : Word) : Int :=
  if 150 ≤ fExp x then fSig x * 2 ^ (fExp x - 150) else dir (fSig x) (2 ^ (150 - fExp x))

/-- The f32 word of an integer below 2^24 in magnitude, and a zero with the sign given. -/
def intWord (neg : Bool) (n : Int) : Word :=
  let m := n.natAbs
  BitVec.ofNat 32 ((if neg then 2 ^ 31 else 0) +
    if m = 0 then 0 else (127 + Nat.log2 m) * 2 ^ 23 + (m * 2 ^ 23 / 2 ^ Nat.log2 m) % 2 ^ 23)

/-- ffloor, fceil, ftrunc and frint (R104): what is integral stands, and a zero keeps A's sign. -/
def toIntegral (dir : Int → Int → Int) (x : Word) : Word :=
  if fIsNaN x then 0x7FC00000
  else if 150 ≤ fExp x then x
  else intWord (decide (2 ^ 31 ≤ x.toNat)) (fToInt dir x)

/-- The class of a word (Table 6.7), by where it lies among the words. -/
def classOf (x : Word) : Word :=
  let n := x.toNat
  if 0x7F800000 < n % 2 ^ 31 then 256
  else if n = 0x7F800000 then 128
  else if n = 0xFF800000 then 1
  else if n = 0 then 16
  else if n = 0x80000000 then 8
  else if n < 0x00800000 then 32
  else if n < 0x7F800000 then 64
  else if n < 0x80800000 then 4
  else 2

/-- An integer saturated to n32. -/
def clampN (x : Int) : Word := BitVec.ofInt 32 (if x < 0 then 0 else if 4294967295 < x then 4294967295 else x)

/-- A conversion of f32 to an integer (R67): a NaN gives 0; the value, an infinity beyond every limit, saturates. -/
def toInteger (dir : Int → Int → Int) (clamp : Int → Word) (x : Word) : Word := if fIsNaN x then 0 else clamp (fToInt dir x)

/-- A word's place in the order of its format, −0 below +0: the magnitudes of words order as their values do. -/
def rankIn (f : Fmt) (x : Nat) : Int :=
  let m : Nat := x % 2 ^ (f.m + f.ebits)
  if x / 2 ^ (f.m + f.ebits) % 2 = 1 then -(m : Int) - 1 else m

/-- The word is a NaN of its format. -/
def nanIn (f : Fmt) (x : Nat) : Bool := decide ((2 ^ f.ebits - 1) * 2 ^ f.m < x % 2 ^ (f.m + f.ebits))

/-- fmin, or fmax, of two words of a format (R103): a NaN is missing data, and two give the canonical one. -/
def chosen (f : Fmt) (max : Bool) (x y : Nat) : Nat :=
  if nanIn f x then (if nanIn f y then (2 ^ f.ebits - 1) * 2 ^ f.m + 2 ^ (f.m - 1) else y)
  else if nanIn f y then x
  else if max then (if rankIn f x < rankIn f y then y else x)
  else if rankIn f y < rankIn f x then y else x

/-- fmin of two f32 words. -/
def minWord (x y : Word) : Word := BitVec.ofNat 32 (chosen f32 false x.toNat y.toNat)
/-- fmax of two f32 words. -/
def maxWord (x y : Word) : Word := BitVec.ofNat 32 (chosen f32 true x.toNat y.toNat)

/-- A × 2^n, rounded once (R104): a NaN gives the canonical one, an infinity or a zero itself. -/
def scaled (x : Word) (n : Int) : Word :=
  match fval x with
  | .nan => 0x7FC00000
  | .inf _ => x
  | .fin neg m e => if m = 0 then x else rneF32 (.fin neg m (e + n))

/-- Elements 1 and 0 of three words, each by one operation, as a packed word (R63, R109). -/
def byHalves (g : Nat → Nat → Nat → Nat) (x y z : Word) : Word :=
  BitVec.ofNat 32 (g (x.toNat / 65536) (y.toNat / 65536) (z.toNat / 65536) % 65536 * 65536 +
    g (x.toNat % 65536) (y.toNat % 65536) (z.toNat % 65536) % 65536)

/-- A sum of a format, rounded once. -/
def addIn (f : Fmt) (x y _z : Nat) : Nat := f.rne ((f.read x).add (f.read y))
/-- A product of a format, rounded once. -/
def mulIn (f : Fmt) (x y _z : Nat) : Nat := f.rne ((f.read x).mul (f.read y))
/-- A product and a sum of a format, rounded once. -/
def fmaIn (f : Fmt) (x y z : Nat) : Nat := f.rne (((f.read x).mul (f.read y)).add (f.read z))

/-- The dot product of two packed words on an f32, rounded once (R110). -/
def dotIn (f : Fmt) (x y z : Word) : Word :=
  rneF32 ((((f.read (x.toNat % 65536)).mul (f.read (y.toNat % 65536))).add
    ((f.read (x.toNat / 65536)).mul (f.read (y.toNat / 65536)))).add (fval z))

/-- The value of a finite f32 word (R62). -/
def fVal (x : Word) : ℚ := fSig x * 2 ^ ((fExp x : Int) - 150)

/-- R105's bound: a finite word that differs from the exact value `y` by at most `k` ulp(y). -/
def WithinUlps (k : ℚ) (w : Word) (y : ℝ) : Prop :=
  w.toNat % 2 ^ 31 < 0x7F800000 ∧
    |((fVal w : ℚ) : ℝ) - y| ≤ (k : ℝ) * (if y = 0 then 2 ^ (-149 : Int) else 2 ^ (max ⌊Real.logb 2 |y|⌋ (-126) - 23))

/-- The f32 word of 2^n, n from −149 to 127. -/
def twoTo (n : Int) : Word := BitVec.ofNat 32 (if n < -126 then 2 ^ (n + 149).toNat else (n + 127).toNat * 2 ^ 23)

/-- Table 6.8's exact results of frcp, and its sign (R105). -/
def FrcpExact : Prop :=
  ∀ x : Word,
    let m := x.toNat % 2 ^ 31
    let s : Word := if x.toNat < 2 ^ 31 then 0 else 0x80000000
    (fIsNaN x → frcp x = 0x7FC00000) ∧
    (m ≤ 0x200000 → frcp x = s ||| 0x7F800000) ∧ (m = 0x7F800000 → frcp x = s) ∧
    (∀ n : Int, -127 ≤ n → n ≤ 127 → m = (twoTo n).toNat → frcp x = s ||| twoTo (-n)) ∧
    (fIsNaN x = false → (frcp x).toNat / 2 ^ 31 = x.toNat / 2 ^ 31)

/-- Table 6.8's exact results of frsq and fsqrt, and their sign. -/
def FrootsExact : Prop :=
  (frsq 0 = 0x7F800000 ∧ frsq 0x80000000 = 0xFF800000 ∧ frsq 0x7F800000 = 0 ∧
    fsqrt 0 = 0 ∧ fsqrt 0x80000000 = 0x80000000 ∧ fsqrt 0x7F800000 = 0x7F800000) ∧
  (∀ x : Word, fIsNaN x ∨ 0x80000000 < x.toNat → frsq x = 0x7FC00000 ∧ fsqrt x = 0x7FC00000) ∧
  (∀ n : Int, -74 ≤ n → n ≤ 63 → frsq (twoTo (2 * n)) = twoTo (-n)) ∧
  (∀ x : Word, x.toNat ≤ 0x7F800000 → (frsq x).toNat < 2 ^ 31 ∧ (fsqrt x).toNat < 2 ^ 31)

/-- Table 6.8's exact results of fexp2 and flog2, and the sign of fexp2. -/
def FpowersExact : Prop :=
  (fexp2 0xFF800000 = 0 ∧ fexp2 0x7F800000 = 0x7F800000 ∧
    flog2 0 = 0xFF800000 ∧ flog2 0x80000000 = 0xFF800000 ∧ flog2 0x7F800000 = 0x7F800000) ∧
  (∀ x : Word, fIsNaN x → fexp2 x = 0x7FC00000) ∧
  (∀ x : Word, fIsNaN x ∨ 0x80000000 < x.toNat → flog2 x = 0x7FC00000) ∧
  (∀ x : Word, x.toNat % 2 ^ 31 < 0x7F800000 →
    (∀ n : Int, -149 ≤ n → n ≤ 127 → fVal x = n → fexp2 x = twoTo n) ∧
    (128 ≤ fVal x → fexp2 x = 0x7F800000) ∧ (fVal x < -150 → fexp2 x = 0) ∧ (fexp2 x).toNat < 2 ^ 31) ∧
  (∀ n : Int, -149 ≤ n → n ≤ 127 → flog2 (twoTo n) = intWord (decide (n < 0)) n)

/-- Table 6.8's exact results of fsin, fcos and ftanh, and R105's range beyond 2^17 and of ftanh. -/
def FcirclesExact : Prop :=
  ∀ x : Word,
    let m := x.toNat % 2 ^ 31
    let s : Word := if x.toNat < 2 ^ 31 then 0 else 0x80000000
    (0x7F800000 ≤ m → ftrig true x = 0x7FC00000 ∧ ftrig false x = 0x7FC00000) ∧
    (m = 0 → ftrig true x = x ∧ ftrig false x = 0x3F800000 ∧ ftanh x = x) ∧
    (0x48000000 < m → m < 0x7F800000 →
      (ftrig true x).toNat % 2 ^ 31 ≤ 0x3F800000 ∧ (ftrig false x).toNat % 2 ^ 31 ≤ 0x3F800000) ∧
    (fIsNaN x → ftanh x = 0x7FC00000) ∧ (0x41200000 ≤ m → m ≤ 0x7F800000 → ftanh x = s ||| 0x3F800000) ∧
    (m ≤ 0x7F800000 → (ftanh x).toNat % 2 ^ 31 ≤ 0x3F800000)

/-- Table 6.8's bounds of frcp, frsq and fsqrt, on every operand that no exact result covers. -/
def RootBounds : Prop :=
  (∀ x : Word, 0x200000 < x.toNat % 2 ^ 31 → x.toNat % 2 ^ 31 < 0x7F800000 →
    WithinUlps 1 (frcp x) (((fVal x : ℚ) : ℝ))⁻¹) ∧
  (∀ x : Word, 0 < x.toNat → x.toNat < 0x7F800000 →
    WithinUlps 1 (frsq x) (Real.sqrt ((fVal x : ℚ) : ℝ))⁻¹ ∧ WithinUlps (1 / 2) (fsqrt x) (Real.sqrt ((fVal x : ℚ) : ℝ)))

/-- Table 6.8's bounds of fexp2, flog2, fsin, fcos and ftanh, on every operand that no exact result covers; and R105's range
of the sine and the cosine. -/
def SeriesBounds : Prop :=
  ∀ x : Word, x.toNat % 2 ^ 31 < 0x7F800000 →
    let r : ℝ := ((fVal x : ℚ) : ℝ)
    (-150 ≤ fVal x → fVal x < 128 → WithinUlps 2 (fexp2 x) ((2 : ℝ) ^ r)) ∧
    (0 < fVal x → WithinUlps 2 (flog2 x) (Real.logb 2 r) ∧
      (1 / 2 ≤ fVal x → fVal x ≤ 2 → |((fVal (flog2 x) : ℚ) : ℝ) - Real.logb 2 r| ≤ 2 ^ (-22 : Int))) ∧
    (|r| ≤ Real.pi → WithinUlps 2 (ftrig true x) (Real.sin r) ∧ WithinUlps 2 (ftrig false x) (Real.cos r)) ∧
    (Real.pi < |r| → |fVal x| ≤ 2 ^ 17 →
      |((fVal (ftrig true x) : ℚ) : ℝ) - Real.sin r| ≤ 2 ^ (-21 : Int) ∧
      |((fVal (ftrig false x) : ℚ) : ℝ) - Real.cos r| ≤ 2 ^ (-21 : Int)) ∧
    (|fVal x| ≤ 2 ^ 17 → (ftrig true x).toNat % 2 ^ 31 ≤ 0x3F800000 ∧ (ftrig false x).toNat % 2 ^ 31 ≤ 0x3F800000) ∧
    WithinUlps 2 (ftanh x) (Real.tanh r)

/-- FLT and CVT instructions of two sources. -/
def fltOps : List ((Dst → Src → Src → Instr) × (Word → Word → Word)) :=
  [(.fadd, fun x y => rneF32 ((fval x).add (fval y))),
   (.fsub, fun x y => rneF32 ((fval x).add (fval y).neg)),
   (.fmul, fun x y => rneF32 ((fval x).mul (fval y))),
   (.fmin, minWord), (.fmax, maxWord),
   (.fsgn, fun x y => BitVec.ofNat 32 (x.toNat % 2147483648 + y.toNat / 2147483648 * 2147483648)),
   (.packF16, fun x y => BitVec.ofNat 32 (f16.rne (fval y) % 65536 * 65536 + f16.rne (fval x) % 65536)),
   (.packE8m7, fun x y => BitVec.ofNat 32 (e8m7.rne (fval y) % 65536 * 65536 + e8m7.rne (fval x) % 65536))]

/-- FLT and CVT instructions of one source. The seven with an open word give Config's (R106). -/
def fltOps1 : List ((Dst → Src → Instr) × (Word → Word)) :=
  [(.fabs, fun x => BitVec.ofNat 32 (x.toNat % 2147483648)),
   (.fneg, fun x => x ^^^ 0x80000000),
   (.frcp, frcp), (.frsq, frsq), (.fsqrt, fsqrt), (.fexp2, fexp2), (.flog2, flog2),
   (.fsin, ftrig true), (.fcos, ftrig false), (.ftanh, ftanh),
   (.ffloor, toIntegral toFloor), (.fceil, toIntegral toCeil), (.ftrunc, toIntegral toTrunc), (.frint, toIntegral toNear),
   (.fclass, classOf),
   (.cvtF32I32, fun x => rneF32 (.fin (decide (x.toInt < 0)) x.toInt.natAbs 0)),
   (.cvtF32N32, fun x => rneF32 (.fin false x.toNat 0)),
   (.cvtI32F32, toInteger toTrunc clampS), (.cvtN32F32, toInteger toTrunc clampN), (.cvtI32F32Rn, toInteger toNear clampS),
   (.cvtF16F32, fun x => BitVec.ofNat 32 (f16.rne (fval x))), (.cvtF32F16, fun x => rneF32 (f16.read (x.toNat % 65536))),
   (.cvtE8m7F32, fun x => BitVec.ofNat 32 (e8m7.rne (fval x))), (.cvtF32E8m7, fun x => rneF32 (e8m7.read (x.toNat % 65536))),
   (.sext8, fun x => if x.toNat % 256 < 128 then BitVec.ofNat 32 (x.toNat % 256) else BitVec.ofInt 32 ((x.toNat % 256 : Nat) - 256)),
   (.sext16, fun x => if x.toNat % 65536 < 32768 then BitVec.ofNat 32 (x.toNat % 65536)
      else BitVec.ofInt 32 ((x.toNat % 65536 : Nat) - 65536)),
   (.zext8, fun x => BitVec.ofNat 32 (x.toNat % 256)),
   (.zext16, fun x => BitVec.ofNat 32 (x.toNat % 65536))]

/-- PK16 instructions that do not read D. -/
def pkOps : List ((Dst → Src → Src → Instr) × (Word → Word → Word)) :=
  let two := fun (g : Nat → Nat → Nat → Nat) (x y : Word) => byHalves g x y 0
  [(.haddF16, two (addIn f16)), (.hmulF16, two (mulIn f16)),
   (.hminF16, two fun x y _ => chosen f16 false x y), (.hmaxF16, two fun x y _ => chosen f16 true x y),
   (.haddE8m7, two (addIn e8m7)), (.hmulE8m7, two (mulIn e8m7)),
   (.hminE8m7, two fun x y _ => chosen e8m7 false x y), (.hmaxE8m7, two fun x y _ => chosen e8m7 true x y)]

/-- Instructions that read D after A and B, A and B plain sources. -/
def threeOps : List ((Reg → Src → Src → Instr) × (Word → Word → Word → Word)) :=
  [(.imad, fun x y z => BitVec.ofNat 32 (x.toNat * y.toNat + z.toNat)),
   (.ffma, fun x y z => rneF32 (((fval x).mul (fval y)).add (fval z))),
   (.ffms, fun x y z => rneF32 ((fval z).add ((fval x).mul (fval y)).neg)),
   (.hfmaF16, byHalves (fmaIn f16)), (.hfmaE8m7, byHalves (fmaIn e8m7)),
   (.hdotF16, dotIn f16), (.hdotE8m7, dotIn e8m7)]

/-- The immediate of a format-I word in a lane: with a wide hint its 20 bits above the word's 12 (R37); else the 12 bits,
moved by the loop's step modulo 2^12 (R128), sign- or zero-extended (R23). -/
def immOf (s : State) (l : Latch) (r : LRef) (signed : Bool) (imm : BitVec 12) : Word :=
  match l.hints.wide with
  | some p => BitVec.ofNat 32 (p * 4096 + imm.toNat)
  | none =>
    let raw := BitVec.ofNat 12 ((s.work l).rawImm r 12 imm.toNat)
    if signed then BitVec.ofInt 32 raw.toInt else BitVec.ofNat 32 raw.toNat

/-- Hint `h`, the hints `before` it in its run, nearest last, breaks one of the rules of R36 to R39 by its own fields or its
place. -/
def HintBroken (before : List Word) (h : Word) : Prop :=
  let kind := fun (x : Word) => x.toNat / 2 ^ 22 % 16
  let p := h.toNat % 2 ^ 22
  let steps := before.filter fun x => kind x == 2
  5 ≤ kind h ∨ (kind h = 0 ∧ 2 ^ 20 ≤ p) ∨ (kind h = 1 ∧ (32 ≤ p ∨ p % 8 = 0)) ∨ (kind h = 3 ∧ 4 ≤ p) ∨ (kind h = 4 ∧ 256 ≤ p) ∨
  (kind h ≠ 2 ∧ ∃ x ∈ before, kind x = kind h) ∨
  (kind h = 2 ∧ steps ≠ [] ∧
    (8 ≤ steps.length ∨ ∀ x, before.getLast? = some x → kind x ≠ 2 ∨ p % 32 ≤ x.toNat % 32))

/-- The governed word does not admit the hint (Table 2.5, R38, R39); bkpt admits any (R42). -/
def HintRefused (h w : Word) : Prop :=
  let kind := h.toNat / 2 ^ 22 % 16
  let p := h.toNat % 2 ^ 22
  let major := w.toNat / 2 ^ 26
  let u := usesOf w
  major ≠ 0x3E ∧
  ((kind = 0 ∧ major ∉ [0x08, 0x09, 0x0A, 0x0B, 0x0F, 0x10, 0x28]) ∨
   (kind = 1 ∧ (formatOf major = .other ∨ (p % 2 = 1 ∧ (u.d = 0 ∨ w.toNat / 2 ^ 25 % 2 = 1)) ∨
     (p / 2 % 2 = 1 ∧ (u.a = 0 ∨ w.toNat / 2 ^ (if major ∈ [0x24, 0x25] then 25 else 18) % 2 = 1)) ∨
     (p / 4 % 2 = 1 ∧ (u.b = 0 ∨ w.toNat / 2 ^ (if major ∈ [0x24, 0x25] then 25 else 11) % 2 = 1)))) ∨
   (kind = 2 ∧ (major ≠ 0x29 ∨ w.toNat / 2 ^ 12 % 64 < p % 32)) ∨
   (kind = 3 ∧ ¬ ((0x11 ≤ major ∧ major ≤ 0x22) ∨ (major = 0x2B ∧ w.toNat % 32 < 3))))

/-- Word `n` of a run of hints and its governed word is illegal (R45): a hint, or the governed word itself, which is none of
the instructions of the core; a ctxrun or priv word of any id is privileged on a compute core, not illegal (R44). -/
def RunFault (complex : Bool) (hs : List Word) (w : Word) (n : Nat) : Prop :=
  (∃ h, hs[n]? = some h ∧ (HintBroken (hs.take n) h ∨ HintRefused h w)) ∨
  (n = hs.length ∧ ((∃ e, decodeWord w = .error e ∧
      ¬ (complex = false ∧ w.toNat / 2 ^ 26 = 0x33 ∧ 14 ≤ w.toNat / 2 ^ 8 % 16 ∧ ∃ i, decodeWord (w &&& 0xFFFFFF00) = .ok i)) ∨
    (complex = true ∧ illegalOnComplex w = true)))

/-- The first illegal word of a run, with its place (R45). -/
def FirstFault (complex : Bool) (hs : List Word) (w : Word) (n : Nat) (b : Word) : Prop :=
  RunFault complex hs w n ∧ (∀ m, m < n → ¬ RunFault complex hs w m) ∧ (hs ++ [w])[n]? = some b

/-- The immediate instructions (Table 6.4): whether the immediate is signed, and the operation. -/
def immOps : List ((Dst → Src → BitVec 12 → Instr) × Bool × (Word → Word → Word)) :=
  [(.iaddi, true, fun x y => x + y), (.andi, false, fun x y => x &&& y), (.ori, false, fun x y => x ||| y),
   (.xori, false, fun x y => x ^^^ y), (.imuli, true, fun x y => x * y),
   (.shli, false, fun x y => if y.toNat < 32 then BitVec.ofNat 32 (x.toNat * 2 ^ y.toNat) else 0),
   (.shri, false, fun x y => if y.toNat < 32 then BitVec.ofNat 32 (x.toNat / 2 ^ y.toNat) else 0),
   (.sari, false, fun x y => if y.toNat < 32 then BitVec.ofInt 32 (x.toInt / 2 ^ y.toNat) else if x.toInt < 0 then 0xFFFFFFFF else 0)]

end Sys2Proof.Machine.Claims

open Sys2Proof.Machine.Claims

/-! ## Encodings -/

/-- Tables 6.11, 2.1 and 2.4: words written out from the spec's encodings decode to the instructions they stand for. -/
def Obligations.WordsDecode : Prop :=
  decodeWord 0x04508125 = .ok (.imad 10 (.reg 8) (.reg 9)) ∧
  decodeWord 0x071E201D = .ok (.mov (.push 3) (.pop 2)) ∧
  decodeWord 0x082050CC = .ok (.fcmpLt (.reg 4) (.reg 5) (.reg 6)) ∧
  decodeWord 0x0CA10223 = .ok (.ffma 20 (.reg 16) (.reg 17)) ∧
  decodeWord 0x10101007 = .ok (.cvtE8m7F32 (.reg 2) (.reg 1)) ∧
  decodeWord 0x1460812B = .ok (.hdotE8m7 12 (.reg 8) (.reg 9)) ∧
  decodeWord 0x20408FFF = .ok (.iaddi (.reg 8) (.reg 8) 0xFFF) ∧
  decodeWord 0x30284003 = .ok (.shli (.reg 5) (.reg 4) 3) ∧
  decodeWord 0x9C000009 = .ok .rft ∧
  decodeWord 0x0428403E = .error .function ∧
  decodeWord 0x30284020 = .error .value

/-- R22, R30 to R35: an instruction's word decodes to that instruction, with every operand at every value its encoding
admits. (The rows of `priv` have the words of `PrivWordsDecode`; the two rows of aropen have one word, which decodes to the
first.) -/
def Obligations.RoundTrip : Prop :=
  ∀ (i : Instr) (w : Word), wf i = true → encode i = some w →
    decodeWord w = .ok (match i with | .aropenReopen d a => .aropen d a | j => j)

/-- R22, R35: no two words decode to one instruction, so that no bit of a word is ignored; the rows of `priv` set apart,
whose fields the meaning reads in the latched word. -/
def Obligations.DecodeInjective : Prop :=
  ∀ (v w : Word) (i : Instr), decodeWord v = .ok i → decodeWord w = .ok i → privOp i = none → v = w

/-- R359, Table 21.7: a word of `priv` with any register in D and a quad's first register in A decodes to a row of its op. -/
def Obligations.PrivWordsDecode : Prop :=
  ∀ (i : Instr) (d a : Reg) (w : Word), a.toNat % 4 = 0 → encodePriv i d a = some w →
    ∃ j, decodeWord w = .ok j ∧ privOp j = privOp i

/-- R34: every major that Table 2.3 marks illegal is refused, whatever the other bits of the word. R36: a hint word is never
an instruction. R36 to R39, R45: a run is illegal where a word of it is, and the first such word is the one named.
What is the model's own in it: log entry 20. -/
def Obligations.NoInstructions : Prop :=
  (∀ w : Word, (w.toNat / 2 ^ 26 = 0x00 ∨ w.toNat / 2 ^ 26 = 0x07 ∨ (0x35 ≤ w.toNat / 2 ^ 26 ∧ w.toNat / 2 ^ 26 ≤ 0x3D)) →
    decodeWord w = .error .major) ∧
  (∀ w : Word, w.toNat / 2 ^ 26 = 0x3F → decodeWord w = .error .hint) ∧
  (∀ (complex : Bool) (hs : List Word) (w : Word), (∀ h ∈ hs, h.toNat / 2 ^ 26 = 0x3F) → w.toNat / 2 ^ 26 ≠ 0x3F →
    ((∀ n, ¬ RunFault complex hs w n) ↔ runError complex hs w = none) ∧
    ∀ n b, FirstFault complex hs w n b ↔ runError complex hs w = some (n, b))

/-! ## The machine -/

/-- Every step of every state answers a next state: the machine never stops in a fault or a refusal.
What is the model's own in it: log entry 3. -/
def Obligations.EveryStepGoesOn : Prop := ∀ s : State, s.goesOn

/-- R83, R379: after every step each row notes exactly whether some lane of it could issue, a core with such a row has no
gate closed, and nothing is latched any more. (The notes are the model's own, which its pickers and gates rest on.)
What is the model's own in it: log entry 101. -/
def Obligations.EveryStepCloses : Prop := ∀ s t : State, step s = .next t → Closed t

/-- The state right after reset has the property that every step leaves.
What is the model's own in it: log entry 101. -/
def Obligations.ResetIsClosed : Prop := Closed State.reset

/-- R358, R366, Tables 1.6 (derate), 21.1, 21.2, 22.1 and 23.1: the registers whose reset values the spec gives, after reset.
The empty agenda is the model's own scheduling (log entry 1), and the canonical form of the memories its own representation
(log entry 107).
What is the model's own in it: log entries 1, 107. -/
def Obligations.ResetRegisters : Prop :=
  State.reset.sexton.state = 0 ∧ State.reset.complex.state = .reset ∧ State.reset.complex.wdog = 100000 ∧
  State.reset.complex.pstab = 0 ∧ State.reset.complex.ktimers = [] ∧ State.reset.derate = 0 ∧ State.reset.domid = 0xFF ∧
  State.reset.hbm.wf = true ∧ State.reset.queueMem.wf = true ∧ State.reset.groups = [] ∧ State.reset.agenda = []

/-- R354, R359: a step of a Kolesque core whose lane is ready, at an unpoisoned word of its instruction memory that decodes
to an instruction legal there, executes that instruction at the state with the word latched, the cycle counted and the
turn noted, and then closes the step.
What is the model's own in it: log entries 1, 7. -/
def Obligations.ComplexStepExecutes : Prop :=
  ∀ (s : State) (k : Nat) (rest : List Action) (i : Instr) (w : Word),
    let r : LRef := (kGid k, 0)
    let pc := (s.lane r).pc
    s.agenda = .kissue k :: rest ∨ (s.agenda = [] ∧ rest = [] ∧ s.nextAction = some (.kissue k)) → s.has r → (s.kcore k).status = .running → (s.lane r).status = .ready →
    (s.lane r).loop = none → (s.lane r).stepOver = false → fetchVerdict (s.lane r) pc = none →
    (s.kcore k).imem.word 8 pc.toNat = { val := w, poison := false } → isHint w = false →
    decodeWord w = .ok i → illegalOnComplex w = false →
    let l : Latch := { agent := .kcore k, row := 0, lanes := [r], pc := pc, start := pc, word := w }
    let u := { (({ s with agenda := rest, turn := 160 + k }).modKcore k fun c => { c with cycles := c.cycles + 1 }).modGroup (kGid k)
        (fun g => { g with begun := true }) with issue := some l }
    step s = match exec ((u.work l).selectRow i) u with
      | .next v => .next v.conclude
      | .fault f => .fault f
      | .refused x => .refused x

namespace Sys2Proof.Machine.Claims

/-! ### Terms of an issue -/

/-- Hints `hs`, then word `w` that is none, are fetched one behind the other from `a`, which leaves `v`. -/
def Fetches : Work → DWord → List Word → Word → Work → Prop
  | u, a, [], w, v => u.fetch a = (v, some w) ∧ isHint w = false
  | u, a, h :: t, w, v => ∃ x, u.fetch a = (x, some h) ∧ isHint h = true ∧ Fetches x (a + 4) t w v

/-- A lane of a row may issue in some cycle (R83): it is ready, and nothing pending acts before it issues; a lane that
another device has answered in mid-instruction goes on with it first. A row being saved issues nothing past a blocking point.
-/
structure MayIssue (s : State) (c row : Nat) (r : LRef) : Prop where
  has : s.has r
  there : (s.group r.1).agent = .core c ∧ (s.group r.1).row = row ∧ (s.group r.1).freed = false ∧ (s.group r.1).evicted = false
  ready : (s.lane r).status = .ready ∧ (s.lane r).halted = false ∧ (s.lane r).kill = false
  clear : (s.lane r).async = [] ∨ (s.lane r).returned ≠ []
  stays : (s.lane r).passed = true → (s.ctx (s.grid (s.row c row).grid).ctx).phase ≠ .saving

/-- The slot of a lane in its row. -/
def slotOf (s : State) (r : LRef) : Nat := (s.group r.1).slot + r.2

/-- It may issue now: the pipe of its slot takes an issue (R84). -/
def Eligible (s : State) (c row : Nat) (r : LRef) : Prop :=
  MayIssue s c row r ∧ (s.core c).pipes.getD (slotOf s r / 64) 0 ≤ (s.core c).cycles.toNat

/-- A row is passed over: it yielded, and another ready row of its priority or above is there (R118). -/
def PassedOver (s : State) (c : Nat) (x : Nat × Row) : Prop :=
  (s.core c).gathers < x.2.passOver ∧ ∃ y ∈ (s.core c).rows, y.1 ≠ x.1 ∧ (∃ r, MayIssue s c y.1 r) ∧
    (s.ctx (s.grid x.2.grid).ctx).hdr.priority ≤ (s.ctx (s.grid y.2.grid).ctx).hdr.priority

/-- A row that the picker may choose (R84, R118): unless every ready row is passed over, those are left out. -/
def Candidate (s : State) (c : Nat) (x : Nat × Row) : Prop :=
  x ∈ (s.core c).rows ∧ (∃ r, Eligible s c x.1 r) ∧
  (¬ PassedOver s c x ∨ ∀ y ∈ (s.core c).rows, (∃ r, MayIssue s c y.1 r) → PassedOver s c y)

/-- The cycles that a ready row has waited (R83). -/
def waited (s : State) (c : Nat) (x : Nat × Row) : Nat := (s.core c).cycles.toNat - max x.2.lastIssue x.2.readyAt

/-- The row of R84, step 1: of those that have waited 2^16 cycles, if there are any, else of the highest priority, the one
that issued least recently, then the lowest. -/
def Chosen (s : State) (c : Nat) (x : Nat × Row) : Prop :=
  let prio := fun (y : Nat × Row) => (s.ctx (s.grid y.2.grid).ctx).hdr.priority
  let first := fun (y : Nat × Row) => x.2.lastIssue < y.2.lastIssue ∨ (x.2.lastIssue = y.2.lastIssue ∧ x.1 ≤ y.1)
  Candidate s c x ∧
  ((∃ y, Candidate s c y ∧ 2 ^ 16 ≤ waited s c y) →
    2 ^ 16 ≤ waited s c x ∧ ∀ y, Candidate s c y → 2 ^ 16 ≤ waited s c y → first y) ∧
  ((∀ y, Candidate s c y → waited s c y < 2 ^ 16) → ∀ y, Candidate s c y → prio y ≤ prio x ∧ (prio y = prio x → first y))

/-- The state `u` that an instruction of a gather is executed in, its words fetched with `v`: the fetch's state but for the
marks of the issue. -/
structure Issued (v : Work) (l : Latch) (c : Nat) (picked : List LRef) (u : State) : Prop where
  issue : u.issue = some l
  others : ∀ r, r ∉ picked ∨ r ∈ v.apart → u.lane r = v.s.lane r
  lanes : ∀ r ∈ picked, r ∉ v.apart → v.s.has r →
    u.lane r = { v.s.lane r with lastIssue := (v.s.core c).cycles.toNat + 1, passed := false }
  memory : u.hbm = v.s.hbm ∧ u.blocks = v.s.blocks
  groups : u.groups.map (fun g => { g.shell with begun := true }) = v.s.groups.map (fun g => { g.shell with begun := true })
  cores : (∀ k, k ≠ c → u.core k = v.s.core k) ∧ (u.core c).cycles = (v.s.core c).cycles + 1 ∧ (u.core c).rows = (v.s.core c).rows

end Sys2Proof.Machine.Claims

/-- R83, R84, R118: the gather that a core's picker takes: of the chosen row the eligible threads at the PC of the one that
has waited longest. R20, R36, R41, R43 to R45, R84, R112: a step of a compute core whose picker takes the gather `lanes` of a
row, at hints and a word that every lane may fetch and that is no hint, executes the instruction of that word with the gather
and the hints latched, or, where a word of the run is illegal, strikes with 0x01 for the first such word; then the step
closes. The state it executes in is the fetch's, but for the marks of the issue (cycle, pipes, begun groups, counters, and in
the lanes picked the time of the issue, but not those of a group that sees another word there). The traps of the lanes whose
fetch failed are latched with the gather.
What is the model's own in it: log entries 1, 18, 19, 20, 43, 70, 74, 84, 111, 114. -/
def Obligations.ComputeStepExecutes : Prop :=
  (∀ (s : State) (c : Nat), (∀ g ∈ s.groups, g = s.group g.gid) → ((s.core c).rows.map (·.1)).Nodup →
    (s.pickGather c = none ↔ ∀ x, ¬ Candidate s c x) ∧
    ∀ row lanes, s.pickGather c = some (row, lanes) →
      ∃ x r, x.1 = row ∧ Chosen s c x ∧ Eligible s c row r ∧
        (∀ q, Eligible s c row q → (s.lane r).lastIssue < (s.lane q).lastIssue ∨
          ((s.lane r).lastIssue = (s.lane q).lastIssue ∧ slotOf s r ≤ slotOf s q)) ∧
        ∀ q, q ∈ lanes ↔ Eligible s c row q ∧ (s.lane q).pc = (s.lane r).pc) ∧
  ∀ (s : State) (c row : Nat) (rest : List Action) (r0 : LRef) (lanes : List LRef) (hs : List Word) (w : Word) (v : Work),
    let s1 := { s with agenda := rest, turn := c, power := { s.power with braked := sdel c s.power.braked } }
    let now := (s1.core c).cycles.toNat
    let s3 := (s1.modRow c row fun r => { r with lastIssue := now + 1 }).modCore c fun k => { k with gathers := k.gathers + 1, gate := {} }
    let pc := (s1.lane r0).pc
    let l0 : Latch := { agent := .core c, row := row, lanes := r0 :: lanes, pc := pc, start := pc, word := 0 }
    s.agenda = .issue c :: rest ∨ (s.agenda = [] ∧ rest = [] ∧ s.nextAction = some (.issue c)) → s.power.pwrBrake = false → s.power.thermBrake = false →
    s1.pickGather c = some (row, r0 :: lanes) →
    (∀ r ∈ r0 :: lanes, (s3.lane r).loop = none ∧ (s3.lane r).stepOver = false ∧ (s3.lane r).returned = [] ∧
      (s3.lane r).stack.length ≤ 8) →
    Fetches (s3.work l0) pc hs w v → hs.length < 2 ^ 62 → v.live ≠ [] → v.live.Nodup →
    (∀ r ∈ r0 :: lanes, (v.s.lane r).stepOver = false) → (∀ r ∈ v.live, r ∈ r0 :: lanes) →
    let payload := fun (kind : Nat) => (hs.find? fun h => h.toNat / 2 ^ 22 % 16 == kind).map fun h => h.toNat % 2 ^ 22
    let l : Latch := { l0 with
      lanes := v.live, pc := pc + 4 * BitVec.ofNat 64 hs.length, word := w, run := hs, late := v.traps
      hints := { wide := payload 0, idx := payload 1, memh := payload 3
                 lsteps := (hs.filter fun h => h.toNat / 2 ^ 22 % 16 == 2).map fun h => h.setWidth 22 } }
    let closes := fun (o : Host.Outcome State Fault Refusal) => match o with
      | .next t => .next t.conclude
      | .fault f => .fault f
      | .refused x => .refused x
    (∀ i, (∀ n, ¬ RunFault false hs w n) → decodeWord w = .ok i →
      ∃ u, Issued v l c (r0 :: lanes) u ∧ step s = closes (exec ((u.work l).selectRow i) u)) ∧
    (∀ i e, (∀ n, ¬ RunFault false hs w n) → decodeWord w = .error e → decodeWord (w &&& 0xFFFFFF00) = .ok i →
      ∃ u, Issued v l c (r0 :: lanes) u ∧ step s = closes (exec ((u.work l).selectRow i) u)) ∧
    (∀ n b, FirstFault false hs w n b → (w.toNat / 2 ^ 26 = 0x29 → l.hints.lsteps = []) →
      ∃ u, Issued v l c (r0 :: lanes) u ∧ u.ev = { a := n, value := b.setWidth 64 } ∧
        step s = closes (exec .illegalInstruction u))

/-! ## Memories and registers -/

/-- R1, R143: after bytes are written at an address, each of them reads as written and every other byte as before. R146: a
write clears the tag of every 16-byte granule that it touches, and of no other.
What is the model's own in it: log entries 9, 107. -/
def Obligations.MemoryWrites : Prop :=
  (∀ (m : Memory) (u a x : Nat) (bs : List Byte), m.wf = true →
    (m.write u a bs).byte x = if a ≤ x ∧ x < a + bs.length then bs.getD (x - a) 0 else m.byte x) ∧
  (∀ (m : Memory) (u a x : Nat) (bs : List Byte),
    (m.write u a bs).tag x = (m.tag x && !(decide (bs ≠ []) && decide (a / 16 ≤ x / 16) && decide (x / 16 ≤ (a + bs.length - 1) / 16))))

/-- R95: a non-capability write of a register changes that register's word, clears its quad's tag, and changes no other
register or tag. R276: while the matrix engine owns the register, the write leaves the word, and its final value is open.
What is the model's own in it: log entry 38. -/
def Obligations.RegisterWrite : Prop :=
  ∀ (l : Lane) (n m : Nat) (v : PWord), n < 64 →
    ((l.wr n v).regs.getD m {} = if m = n ∧ n < l.regs.length ∧ l.ownerOf n = none then v else l.regs.getD m {}) ∧
    (l.ownerOf n ≠ none → n ∈ (l.wr n v).dirty) ∧
    (∀ q, q < 16 → (l.wr n v).tags.getLsbD q = (l.tags.getLsbD q && !(decide (q = n / 4)))) ∧
    (l.wr n v).code = l.code ∧ (l.wr n v).loop = l.loop ∧ (l.wr n v).stack = l.stack ∧ (l.wr n v).tvec = l.tvec ∧
    (l.wr n v).tcause = l.tcause ∧ (l.wr n v).tpc = l.tpc ∧ (l.wr n v).tdata = l.tdata ∧ (l.wr n v).status = l.status ∧
    (l.wr n v).x0 = l.x0 ∧ (l.wr n v).x1 = l.x1 ∧ (l.wr n v).x2 = l.x2 ∧ (l.wr n v).x3 = l.x3 ∧
    (l.wr n v).chflags = l.chflags

/-- R126, R129: going past a word. Outside a loop the PC is the next word's; in a loop it is the next body word's, then the
body's first word's for the next pass, and after the last pass the word behind the body. Registers, tags and special
registers stay. -/
def Obligations.GoingPast : Prop :=
  ∀ (l : Lane) (pc : DWord),
    (l.advance pc).regs = l.regs ∧ (l.advance pc).tags = l.tags ∧ (l.advance pc).stack = l.stack ∧
    (l.advance pc).tvec = l.tvec ∧ (l.advance pc).tcause = l.tcause ∧ (l.advance pc).tpc = l.tpc ∧
    (l.advance pc).tdata = l.tdata ∧ (l.advance pc).inHandler = l.inHandler ∧ (l.advance pc).chflags = l.chflags ∧
    (l.advance pc).status = .ready ∧
    (l.loop = none → (l.advance pc).pc = pc + 4 ∧ (l.advance pc).loop = none) ∧
    (∀ x, l.loop = some x → x.i + 1 < x.len →
      (l.advance pc).pc = pc + 4 ∧ (l.advance pc).loop = some { x with i := x.i + 1 }) ∧
    (∀ x, l.loop = some x → x.len ≤ x.i + 1 → x.p + 1 ≠ x.n →
      (l.advance pc).pc = pc - 4 * BitVec.ofNat 64 (x.len - 1) ∧ (l.advance pc).loop = some { x with i := 0, p := x.p + 1 }) ∧
    (∀ x, l.loop = some x → x.len ≤ x.i + 1 → x.p + 1 = x.n → (l.advance pc).pc = pc + 4 ∧ (l.advance pc).loop = none)

/-! ## Lane arithmetic, register operands -/

/-- R97 (Table 6.2), R94: the integer instructions of two sources, and of one. -/
def Obligations.IntegerResults : Prop :=
  (∀ e ∈ intOps, ∀ (d a b : Reg) (s : State) (l : Latch), Ready s l → InRange s l (fDAB d a b) →
    Gives (e.1 (.reg d) (.reg a) (.reg b)) s l d fun r => op2 e.2 (rd s l r codeA a) (rd s l r codeB b)) ∧
  (∀ e ∈ intOps1, ∀ (d a : Reg) (s : State) (l : Latch), Ready s l → InRange s l (fDA d a) →
    Gives (e.1 (.reg d) (.reg a)) s l d fun r => op1 e.2 (rd s l r codeA a))

/-- R98, R94: the shifts. -/
def Obligations.ShiftResults : Prop :=
  ∀ e ∈ shiftOps, ∀ (d a b : Reg) (s : State) (l : Latch), Ready s l → InRange s l (fDAB d a b) →
    Gives (e.1 (.reg d) (.reg a) b) s l d fun r => op2 e.2 (rd s l r codeA a) (rd s l r codeB b)

/-- R99, R94: bfe extracts, and bfi inserts, the field that B describes. R94, R97: sel with an unpoisoned condition in every
lane delivers the word it selects, with that word's own poison. -/
def Obligations.FieldAndSelectResults : Prop :=
  (∀ (d a b : Reg) (s : State) (l : Latch), Ready s l → InRange s l (fDAB d a b) →
    (Gives (.bfe (.reg d) (.reg a) b) s l d fun r =>
      op2 (fun x y =>
        if descLen y = 0 then 0
        else if y.getLsbD 16 ∧ 2 ^ (descLen y - 1) ≤ descField x y then BitVec.ofInt 32 ((descField x y : Int) - 2 ^ descLen y)
        else BitVec.ofNat 32 (descField x y)) (rd s l r codeA a) (rd s l r codeB b)) ∧
    (Gives (.bfi d (.reg a) b) s l d fun r =>
      op3 (fun x y z =>
        let mask : Word := BitVec.ofNat 32 ((2 ^ descLen y - 1) * 2 ^ descPos y)
        (z &&& ~~~mask) ||| (BitVec.ofNat 32 (x.toNat * 2 ^ descPos y) &&& mask))
        (rd s l r codeA a) (rd s l r codeB b) (rd s l r codeD d))) ∧
  (∀ (d a b : Reg) (s : State) (l : Latch), Ready s l → InRange s l (fDAB d a b) →
    (∀ r ∈ l.lanes, (rd s l r codeD d).poison = false) →
    Gives (.sel d (.reg a) (.reg b)) s l d fun r =>
      if (rd s l r codeD d).val ≠ 0 then rd s l r codeA a else rd s l r codeB b)

/-- R94, R97, R102, R109, R110: the instructions that read D after A and B. -/
def Obligations.ThreeSourceResults : Prop :=
  ∀ e ∈ threeOps, ∀ (d a b : Reg) (s : State) (l : Latch), Ready s l → InRange s l (fDAB d a b) →
    Gives (e.1 d (.reg a) (.reg b)) s l d fun r => op3 e.2 (rd s l r codeA a) (rd s l r codeB b) (rd s l r codeD d)

/-- R101: a comparison writes 1 to D when its relation holds and 0 otherwise; NaN makes only ne and un true. -/
def Obligations.ComparisonResults : Prop :=
  (∀ e ∈ icmpOps, ∀ (d a b : Reg) (s : State) (l : Latch), Ready s l → InRange s l (fDAB d a b) →
    Gives (e.1 (.reg d) (.reg a) (.reg b)) s l d fun r =>
      op2 (fun x y => if e.2 x y then 1 else 0) (rd s l r codeA a) (rd s l r codeB b)) ∧
  (∀ e ∈ fcmpOps, ∀ (d a b : Reg) (s : State) (l : Latch), Ready s l → InRange s l (fDAB d a b) →
    Gives (e.1 (.reg d) (.reg a) (.reg b)) s l d fun r =>
      op2 (fun x y => if e.2 (fOrder x y) then 1 else 0) (rd s l r codeA a) (rd s l r codeB b))

/-- R102 to R108: floating-point and packing instructions of two sources, and fscale; then floating-point instructions and
conversions of one source. R105, Table 6.8: the quarter-rate functions give the exact results of the table and no result of
the wrong sign, and frcp, frsq and fsqrt keep their bounds. (The bounds of the other five: RoundingKeepsFormatValues.)
What is the model's own in it: log entries 39, 40, 127. -/
def Obligations.FloatResults : Prop :=
  ((∀ e ∈ fltOps, ∀ (d a b : Reg) (s : State) (l : Latch), Ready s l → InRange s l (fDAB d a b) →
    Gives (e.1 (.reg d) (.reg a) (.reg b)) s l d fun r => op2 e.2 (rd s l r codeA a) (rd s l r codeB b)) ∧
  (∀ (d a b : Reg) (s : State) (l : Latch), Ready s l → InRange s l (fDAB d a b) →
    Gives (.fscale (.reg d) (.reg a) b) s l d fun r => op2 (fun x y => scaled x y.toInt) (rd s l r codeA a) (rd s l r codeB b))) ∧
  (∀ e ∈ fltOps1, ∀ (d a : Reg) (s : State) (l : Latch), Ready s l → InRange s l (fDA d a) →
    Gives (e.1 (.reg d) (.reg a)) s l d fun r => op1 e.2 (rd s l r codeA a)) ∧
  FrcpExact ∧ FrootsExact ∧ FpowersExact ∧ FcirclesExact ∧ RootBounds

/-- R109: the packed instructions that do not read D. -/
def Obligations.PackedResults : Prop :=
  ∀ e ∈ pkOps, ∀ (d a b : Reg) (s : State) (l : Latch), Ready s l → InRange s l (fDAB d a b) →
    Gives (e.1 (.reg d) (.reg a) (.reg b)) s l d fun r => op2 e.2 (rd s l r codeA a) (rd s l r codeB b)

/-- R100: the immediate instructions; movi has no source.
What is the model's own in it: log entry 130. -/
def Obligations.ImmediateResults : Prop :=
  (∀ e ∈ immOps, ∀ (d a : Reg) (imm : BitVec 12) (s : State) (l : Latch), Ready s l → InRange s l (fDA d a) →
    Gives (e.1 (.reg d) (.reg a) imm) s l d fun r => op1 (fun x => e.2.2 x (immOf s l r e.2.1 imm)) (rd s l r codeA a)) ∧
  (∀ (d : Reg) (imm : BitVec 12) (s : State) (l : Latch), Ready s l → InRange s l [rfld codeD d] →
    Gives (.movi (.reg d) imm) s l d fun r => ⟨immOf s l r true imm, false⟩)

/-- R65, R66: rounding is exact on what the format holds: reading a word that is no NaN and rounding its value gives the
word again. R105, Table 6.8: the words that fexp2, flog2, fsin, fcos and ftanh give lie within the table's bounds of the real
functions, and those of the sine and the cosine within their range.
What is the model's own in it: log entries 39, 40. -/
def Obligations.RoundingKeepsFormatValues : Prop :=
  (∀ f ∈ [f32, f16, e8m7], ∀ w : Nat, w < 2 ^ (f.m + f.ebits + 1) → f.read w ≠ .nan → f.rne (f.read w) = w) ∧ SeriesBounds

namespace Sys2Proof.Machine.Claims

/-! ### Terms of exchanges, votes and reductions -/

/-- The participants of a lane: the lanes of its group in the gather, by number (R87). -/
def partners (l : Latch) (r : LRef) : List Nat := (l.lanes.filter fun x => x.1 == r.1).map (·.2)

/-- The contributors: the participants that are no helper lanes (R90). -/
def givers (s : State) (l : Latch) (r : LRef) : List Nat := (partners l r).filter fun k => !(s.lane (r.1, k)).helper

/-- What a lane receives of lane `k`'s A: its word, or 0 from a lane that is no participant (R89). -/
def recv (s : State) (l : Latch) (a : Reg) (r : LRef) (k : Nat) : PWord :=
  if (partners l r).contains k then rd s l (r.1, k) codeA a else {}

/-- The contributors' words of A, lowest lane first. -/
def given (s : State) (l : Latch) (a : Reg) (r : LRef) : List PWord := (givers s l r).map fun k => rd s l (r.1, k) codeA a

/-- The contributors' words by lane, 64 places, none where a lane contributes nothing. -/
def givenAt (s : State) (l : Latch) (a : Reg) (r : LRef) : List (Option Word) :=
  (List.range (s.group r.1).width).map fun k => if (givers s l r).contains k then some (rd s l (r.1, k) codeA a).val else none

/-- The partial result at lane `i` of level `k` of the tree of R73: of lanes `i` and `i` + 2^(k−1) of the level below; an
absent side passes the other on. -/
def treeAt (f : Word → Word → Word) (l : List (Option Word)) : Nat → Nat → Option Word
  | 0, i => l.getD i none
  | k + 1, i =>
    match treeAt f l k i, treeAt f l k (i + 2 ^ k) with
    | some x, some y => some (f x y)
    | some x, none => some x
    | none, y => y

/-- A NaN as the canonical one (R64). -/
def oneNaN (x : Word) : Word := if fIsNaN x then 0x7FC00000 else x

/-- Reductions of the contributors' words (R73, R90). -/
def redOps : List ((Dst → Src → Instr) × (List (Option Word) → Word)) :=
  [(.redIadd, fun l => (l.filterMap id).foldl (· + ·) 0),
   (.redImin, fun l => (l.filterMap id).foldl (fun x y => if y.toInt < x.toInt then y else x) 0x7FFFFFFF),
   (.redImax, fun l => (l.filterMap id).foldl (fun x y => if x.toInt < y.toInt then y else x) 0x80000000),
   (.redFadd, fun l => oneNaN ((treeAt (fun x y => rneF32 ((fval x).add (fval y)))
     (l.map fun x => some (x.getD 0x80000000)) 6 0).getD 0x80000000)),
   (.redFmin, fun l => oneNaN ((treeAt minWord l 6 0).getD 0x7F800000)),
   (.redFmax, fun l => oneNaN ((treeAt maxWord l 6 0).getD 0xFF800000))]

/-- Votes of one word (R90). -/
def voteOps : List ((Dst → Reg → Instr) × (List Word → Bool)) :=
  [(.voteAny, fun l => l.any (· != 0)), (.voteAll, fun l => l.all (· != 0)),
   (.voteEq, fun l => match l with | [] => true | x :: t => t.all (· == x))]

/-! ### Terms of capability results -/

/-- A lane with the four words and the tag of a capability written to a quad; where the matrix engine owns a register of the
quad, the tag is clear. -/
def putCap (x : Lane) (n : Nat) (c : Cap) (p : List Bool) : Lane :=
  ((((x.putReg n ⟨lo32 c.cursor, p.getD 0 false⟩).putReg (n + 1) ⟨hi32 c.cursor, p.getD 1 false⟩).putReg (n + 2)
    ⟨c.mlo, p.getD 2 false⟩).putReg (n + 3) ⟨c.mhi, p.getD 3 false⟩).putTag (n / 4) (c.tag && !x.quadOwned n)

/-- A lane with words written to consecutive registers. -/
def putWords (x : Lane) (n : Nat) : List PWord → Lane
  | [] => x
  | w :: t => putWords (x.wr n w) (n + 1) t

/-- As `Gives`, with a capability for each lane. -/
def GivesCap (i : Instr) (s : State) (l : Latch) (d : Reg) (c : LRef → Cap) (p : LRef → List Bool) : Prop :=
  ∃ t, exec i s = .next t ∧ LanesOnly l.lanes s t ∧
    ∀ r ∈ l.lanes, t.lane r = (putCap (s.lane r) (regNo s l r codeD d) (c r) (p r)).advance l.pc

/-- As `Gives`, with words for consecutive registers. -/
def GivesWords (i : Instr) (s : State) (l : Latch) (d : Reg) (v : LRef → List PWord) : Prop :=
  ∃ t, exec i s = .next t ∧ LanesOnly l.lanes s t ∧
    ∀ r ∈ l.lanes, t.lane r = (putWords (s.lane r) (regNo s l r codeD d) (v r)).advance l.pc

/-- The capability that a field of a lane names. -/
def rdCap (s : State) (l : Latch) (r : LRef) (code : Nat) (n : Reg) : Cap := s.cap r (regNo s l r code n)

/-- A word of it is poisoned. -/
def rdBad (s : State) (l : Latch) (r : LRef) (code : Nat) (n : Reg) : Bool := s.quadPoison r (regNo s l r code n)

/-- Metadata with the otype replaced, nothing else (Table 8.1: bits 19:16 of the high word). -/
def withOtype (c : Cap) (n : Nat) : Cap :=
  { c with md := BitVec.ofNat 64 (c.md.toNat / 2 ^ 52 * 2 ^ 52 + n % 16 * 2 ^ 48 + c.md.toNat % 2 ^ 48) }

/-- Metadata with the permissions replaced, nothing else (bits 31:24 of the high word). -/
def withPerms (c : Cap) (n : Nat) : Cap := { c with md := BitVec.ofNat 64 (n % 256 * 2 ^ 56 + c.md.toNat % 2 ^ 56) }

/-- What R132 says of every tagged capability that the SK9 produces. -/
def Canonical (c : Cap) : Prop :=
  c.base ≤ c.cursor.toNat ∧ (c.cursor.toNat : Int) ≤ c.top ∧ c.top - c.base ≤ (2 ^ 21 - 1) * 2 ^ c.exp ∧ c.exp ≤ 43

/-- The bounds and the permissions of `c` lie within those of `x` (R136). -/
def WithinCap (c x : Cap) : Prop := x.base ≤ c.base ∧ c.top ≤ x.top ∧ ∀ i, i < 8 → c.perm i = true → x.perm i = true

/-- The CAP instructions that derive a capability from cA. -/
def derivers (d a b : Reg) : List Instr :=
  [.cmov d a, .cadd d a b, .csetb d a b, .csetbx d a b, .candp d a b, .cseal d a b, .cunseal d a b]

/-- Fields of quads D and A, and of B. -/
def fCap (d a : Reg) (b : List Fld) : List Fld := [rfld codeD d 4, rfld codeA a 4] ++ b

end Sys2Proof.Machine.Claims

/-! ## Exchanges -/

/-- R87, R89: the exchanges within a quad, and qbc from the quad's lowest participant; the shuffles (Table 5.4), every lane's
index unpoisoned: a source lane out of range gives the lane its own A. -/
def Obligations.LaneExchangeResults : Prop :=
  (∀ (d a : Reg) (s : State) (l : Latch), Ready s l → InRange s l (fDA d a) →
    (Gives (.qswpH (.reg d) (.reg a)) s l d fun r => recv s l a r (r.2 ^^^ 1)) ∧
    (Gives (.qswpV (.reg d) (.reg a)) s l d fun r => recv s l a r (r.2 ^^^ 2)) ∧
    (Gives (.qswpD (.reg d) (.reg a)) s l d fun r => recv s l a r (r.2 ^^^ 3)) ∧
    (Gives (.qbc (.reg d) (.reg a)) s l d fun r => recv s l a r (((partners l r).find? fun k => k / 4 == r.2 / 4).getD r.2))) ∧
  (∀ (d a b : Reg) (s : State) (l : Latch), Ready s l → InRange s l (fDAB d a b) →
    (∀ r ∈ l.lanes, (rd s l r codeB b).poison = false) →
    let n := fun (r : LRef) => (rd s l r codeB b).val.toNat
    let w := fun (r : LRef) => (s.group r.1).width
    (Gives (.shflIdx (.reg d) (.reg a) b) s l d fun r => recv s l a r (n r % w r)) ∧
    (Gives (.shflUp (.reg d) (.reg a) b) s l d fun r => if n r ≤ r.2 then recv s l a r (r.2 - n r) else rd s l r codeA a) ∧
    (Gives (.shflDn (.reg d) (.reg a) b) s l d fun r => if r.2 + n r < w r then recv s l a r (r.2 + n r) else rd s l r codeA a) ∧
    (Gives (.shflXor (.reg d) (.reg a) b) s l d fun r => recv s l a r (r.2 ^^^ (n r % w r))))

/-- R90: the votes, every lane's condition unpoisoned; helper lanes do not contribute and receive the result. -/
def Obligations.VoteResults : Prop :=
  ∀ (d a : Reg) (s : State) (l : Latch), Ready s l → (∀ r ∈ l.lanes, (rd s l r codeA a).poison = false) →
    (∀ e ∈ voteOps, InRange s l (fDA d a) →
      Gives (e.1 (.reg d) a) s l d fun r => ⟨if e.2 ((given s l a r).map (·.val)) then 1 else 0, false⟩) ∧
    (InRange s l [rfld codeD d 2, rfld codeA a] →
      GivesWords (.voteMask d a) s l d fun r =>
        let m : DWord := (givers s l r).foldl (fun m k => if (rd s l (r.1, k) codeA a).val ≠ 0 then m ||| (1#64 <<< k) else m) 0
        [⟨lo32 m, false⟩, ⟨hi32 m, false⟩])

/-- R73, R90: the reductions, poisoned if a contributor's word is; and match, the lowest contributor with the same word.
What is the model's own in it: log entry 121. -/
def Obligations.ReductionResults : Prop :=
  ∀ (d a : Reg) (s : State) (l : Latch), Ready s l → InRange s l (fDA d a) →
    (∀ e ∈ redOps, Gives (e.1 (.reg d) (.reg a)) s l d fun r => ⟨e.2 (givenAt s l a r), (given s l a r).any (·.poison)⟩) ∧
    (Gives (.matchLane (.reg d) (.reg a)) s l d fun r =>
      let mine := rd s l r codeA a
      ⟨BitVec.ofNat 32 (((givers s l r).find? fun k =>
        !mine.poison && !(rd s l (r.1, k) codeA a).poison && (rd s l (r.1, k) codeA a).val == mine.val).getD r.2), false⟩)

/-! ## Capabilities -/

/-- R137 (Table 8.4): the instructions that read a capability's fields; poison of a word of cA passes to the results. -/
def Obligations.CapabilityReads : Prop :=
  ∀ (d a : Reg) (s : State) (l : Latch), Ready s l →
    let bad := fun (r : LRef) => rdBad s l r codeA a
    let c := fun (r : LRef) => rdCap s l r codeA a
    let two := fun (r : LRef) (x : Int) => [⟨lo32 (BitVec.ofInt 64 x), bad r⟩, ⟨hi32 (BitVec.ofInt 64 x), bad r⟩]
    (InRange s l [rfld codeD d 2, rfld codeA a 4] →
      GivesWords (.cbase d a) s l d (fun r => two r (c r).base) ∧
      GivesWords (.clen d a) s l d (fun r => two r ((c r).top - (c r).base)) ∧
      GivesWords (.ccur d a) s l d (fun r => [⟨lo32 (c r).cursor, bad r⟩, ⟨hi32 (c r).cursor, bad r⟩])) ∧
    (InRange s l [rfld codeD d 1, rfld codeA a 4] →
      GivesWords (.cperm d a) s l d
        (fun r => [⟨BitVec.ofNat 32 ((c r).perms + (c r).space * 256 + (c r).otype * 4096), bad r⟩]) ∧
      GivesWords (.ctag d a) s l d (fun r => [⟨if (c r).tag then 1 else 0, bad r⟩]))

/-- R137 (Table 8.4): cmov moves four words with their poison and the tag; cadd moves the cursor and keeps the tag within
the old bounds; candp masks permissions and keeps FRM; cdisp gives the display entry as held.
What is the model's own in it: log entry 27. -/
def Obligations.CapabilityMoves : Prop :=
  ∀ (d a b : Reg) (k : BitVec 6) (s : State) (l : Latch), Ready s l →
    let c := fun (r : LRef) => rdCap s l r codeA a
    let n := fun (r : LRef) => (c r).cursor + BitVec.ofInt 64 (rd s l r codeB b).val.toInt
    (InRange s l (fCap d a []) →
      GivesCap (.cmov d a) s l d c fun r => (s.quadWords r (regNo s l r codeA a)).map (·.poison)) ∧
    (InRange s l [rfld codeD d 4] →
      GivesCap (.cdisp d k) s l d (fun r => (s.grid (s.group r.1).grid).display.getD k.toNat {}) fun _ => []) ∧
    (InRange s l (fCap d a [rfld codeB b]) →
      (∀ r ∈ l.lanes, rdBad s l r codeA a = false ∧ (rd s l r codeB b).poison = false ∧ (c r).otype = 0) →
      (GivesCap (.cadd d a b) s l d (fun r =>
        { c r with cursor := n r, tag := (c r).tag && decide ((c r).base ≤ (n r).toNat) && decide (((n r).toNat : Int) ≤ (c r).top) })
        fun _ => []) ∧
      (GivesCap (.candp d a b) s l d (fun r =>
        withPerms (c r) ((c r).perms &&& (((rd s l r codeB b).val.toNat % 256) ||| 0x40))) fun _ => []))

/-- R138: csetb and csetbx, every lane passing checks P, T, S and W. The exponent is the least at which the bounds, rounded
outward to its multiples, fit 2^21 - 1 units; csetbx completes where the rounding changes neither bound. -/
def Obligations.CapabilityBounds : Prop :=
  ∀ (d a b : Reg) (s : State) (l : Latch) (e : LRef → Nat), Ready s l → InRange s l (fCap d a [rfld codeB b]) →
    let c := fun (r : LRef) => rdCap s l r codeA a
    let lo := fun (r : LRef) => (c r).cursor.toNat
    let hi := fun (r : LRef) => lo r + (rd s l r codeB b).val.toNat
    let down := fun (x k : Nat) => x / 2 ^ k * 2 ^ k
    let up := fun (x k : Nat) => (x + 2 ^ k - 1) / 2 ^ k * 2 ^ k
    (∀ r ∈ l.lanes, rdBad s l r codeA a = false ∧ (rd s l r codeB b).poison = false ∧ (c r).tag = true ∧ (c r).otype = 0 ∧
      (c r).base ≤ lo r ∧ (hi r : Int) ≤ (c r).top ∧ e r ≤ 43 ∧ up (hi r) (e r) - down (lo r) (e r) ≤ (2 ^ 21 - 1) * 2 ^ e r ∧
      ∀ k, k < e r → (2 ^ 21 - 1) * 2 ^ k < up (hi r) k - down (lo r) k) →
    let res := fun (r : LRef) =>
      { c r with md := mkMeta (c r).perms (c r).space 0 (e r) (lo r / 2 ^ e r % 2 ^ 21) (up (hi r) (e r) / 2 ^ e r % 2 ^ 21) }
    GivesCap (.csetb d a b) s l d res (fun _ => []) ∧
    ((∀ r ∈ l.lanes, down (lo r) (e r) = lo r ∧ up (hi r) (e r) = hi r) → GivesCap (.csetbx d a b) s l d res fun _ => [])

/-- R139: cseal and cunseal, every lane's checks passed. -/
def Obligations.CapabilitySeals : Prop :=
  ∀ (d a b : Reg) (s : State) (l : Latch), Ready s l → InRange s l (fCap d a [rfld codeB b 4]) →
    let c := fun (r : LRef) => rdCap s l r codeA a
    let k := fun (r : LRef) => rdCap s l r codeB b
    (∀ r ∈ l.lanes, rdBad s l r codeA a = false ∧ rdBad s l r codeB b = false ∧ (c r).tag = true ∧ (k r).tag = true ∧
      (k r).otype = 0 ∧ (k r).space = 15 ∧ (k r).base ≤ (k r).cursor.toNat ∧ ((k r).cursor.toNat : Int) < (k r).top) →
    ((∀ r ∈ l.lanes, (c r).otype = 0 ∧ 4 ≤ (k r).cursor.toNat ∧ (k r).cursor.toNat ≤ 15) →
      GivesCap (.cseal d a b) s l d (fun r => withOtype (c r) (k r).cursor.toNat) fun _ => []) ∧
    ((∀ r ∈ l.lanes, 4 ≤ (c r).otype ∧ (c r).otype = (k r).cursor.toNat) →
      GivesCap (.cunseal d a b) s l d (fun r => withOtype (c r) 0) fun _ => [])

/-- R140: csetc mints a root of the block's scratchpad (on a compute core) as its share or the whole block measures. -/
def Obligations.ScratchRoots : Prop :=
  ∀ (d a b : Reg) (s : State) (l : Latch), Ready s l → InRange s l (fCap d a [rfld codeB b]) →
    let c := fun (r : LRef) => rdCap s l r codeA a
    let sp := fun (r : LRef) => (rd s l r codeB b).val.toNat
    (∀ r ∈ l.lanes, rdBad s l r codeA a = false ∧ (rd s l r codeB b).poison = false ∧ (c r).tag = true ∧ (c r).otype = 0 ∧
      (sp r = 1 ∨ sp r = 2) ∧ ((c r).perm 0 = true ∨ (c r).perm 1 = true)) →
    GivesCap (.csetc d a b) s l d (fun r => mkCap 0 ((c r).perms % 32) (sp r) 0 0 (s.spaceSize r (sp r))) fun _ => []

/-- R132, R136: no capability that a CAP instruction derives exceeds its source. Whatever becomes of the instruction, cD of
the issuing lane is as before, or its tag is clear, or it obeys R132 and lies within cA as it stood. -/
def Obligations.CapabilitiesNeverGrow : Prop :=
  ∀ (d a b : Reg) (s t : State) (l : Latch) (r : LRef) (i : Instr), i ∈ derivers d a b → Ready s l → l.lanes = [r] →
    (s.lane r).owned = [] → (s.lane r).stale = [] → (s.lane r).regs.length = 64 → l.agent = .core (s.group r.1).coreOf →
    d.toNat % 4 = 0 → a.toNat % 4 = 0 → b.toNat % 4 = 0 → (s.lane r).loop = none → l.hints.idx = none →
    ((rdCap s l r codeA a).tag = true → Canonical (rdCap s l r codeA a)) →
    exec i s = .next t →
    let c := t.cap r d.toNat
    c = s.cap r d.toNat ∨ c.tag = false ∨ (Canonical c ∧ WithinCap c (rdCap s l r codeA a))

namespace Sys2Proof.Machine.Claims

/-! ### Terms of one lane's instruction -/

/-- The state in which an instruction whose fields are in range does its work: as it was, with its register fields counted
in the context's counter 1 (R337). -/
def counted (s : State) (l : Latch) (flds : List Fld) : State := ((s.work l).begin flds).s

/-- The gather is one lane, no helper lane, of a group whose blocking points are no kill points. -/
structure Alone (s : State) (l : Latch) (r : LRef) : Prop where
  ready : Ready s l
  only : l.lanes = [r]
  real : (s.lane r).helper = false
  plain : (s.group r.1).taskKill = false

/-- The lane has gone past the gather's word. -/
def past (l : Latch) (r : LRef) (t : State) : State := t.modLane r fun x => x.advance l.pc

/-- The lane is parked at the gather's word, from this step on. -/
def parked (l : Latch) (r : LRef) (w : Wait) (t : State) : State :=
  t.modLane r fun x => { x with status := .parked w l.pc, parkedAt := t.steps }

/-- The L1 of the core of each lane of the gather holds nothing (R11, R188). -/
def freshL1s (s : State) (l : Latch) : State :=
  { s with l1 := s.l1.filter fun e => !(l.lanes.any fun r => (s.group r.1).agent == .core (e.1 / 2 ^ 34)) }

/-- The lane makes an acquire point at a scope, if one is named (R188). -/
def acquired (scope : Option Nat) (r : LRef) (t : State) : State :=
  match scope with
  | some k => t.acquires r k
  | none => t

/-- A trap of the lane is delivered: it runs on a compute core, its policy is 0, and it has a handler to enter. -/
structure Delivers (s : State) (l : Latch) (r : LRef) (cause : Byte) : Prop where
  agent : ∃ c, l.agent = .core c
  policy : s.policy (s.group r.1).ctx cause = 0
  can : (s.lane r).canDeliver = true

/-- The lane has taken a trap at the gather's first word, which counts in counter 6 (R327, R337). -/
def trapped (l : Latch) (r : LRef) (cause : Byte) (data : DWord) (t : State) : State :=
  (t.deliver r cause l.start data).count (t.group r.1).ctx 6 1

/-- The instruction traps in its one lane, its registers and memory as they were. -/
def TrapsWith (i : Instr) (s : State) (l : Latch) (r : LRef) (flds : List Fld) (cause : Byte) (data : DWord) : Prop :=
  Delivers s l r cause → exec i s = .next (trapped l r cause data (counted s l flds))

/-! ### Terms of memory accesses -/

/-- The displacement of a format-M word (R23), moved by the loop's step (R128). -/
def disp15 (s : State) (l : Latch) (r : LRef) (imm : BitVec 15) : Int :=
  (BitVec.ofNat 15 ((s.work l).rawImm r 15 imm.toNat)).toInt

/-- The unsigned offset in words of a format-F word. -/
def words15 (s : State) (l : Latch) (r : LRef) (imm : BitVec 15) : Int := ((s.work l).rawImm r 15 imm.toNat : Nat)

/-- The access through quad C at a displacement in bytes from its cursor (R143). -/
def quadAcc (s : State) (r : LRef) (c : Quad) (disp : Int) (n : Nat) (perms : List Nat) (kind : Kind) : Acc :=
  { cap := s.cap r (4 * c.toNat), poison := s.quadPoison r (4 * c.toNat),
    addr := (s.cap r (4 * c.toNat)).cursor + BitVec.ofInt 64 disp, size := n, align := n, perms := perms, kind := kind }

/-- The access through the display entry of a level (R145). -/
def displayAcc (s : State) (r : LRef) (lv : BitVec 3) (disp : Int) (n : Nat) (perms : List Nat) (kind : Kind) : Acc :=
  let c := (s.grid (s.group r.1).grid).display.getD lv.toNat {}
  { cap := c, poison := false, addr := c.cursor + BitVec.ofInt 64 disp, size := n, align := n, perms := perms, kind := kind }

/-- A memory instruction: its word, its register fields, its access. -/
structure MemRow where
  i : Instr
  flds : List Fld
  acc : Acc

/-- The loads of one register word, whether the word is sign-extended, and the scope at which the load is an acquire point
(Table 9.1, R145, R188, R201). -/
def wordLoads (s : State) (l : Latch) (r : LRef) (d : Reg) (c : Quad) (imm : BitVec 15) (lv sc : BitVec 3) :
    List (MemRow × Bool × Option Nat) :=
  let m := fun (n : Nat) => quadAcc s r c (disp15 s l r imm * n) n [0] .read
  let f := [rfld codeD d, qfld c]
  [(⟨.ldb (.reg d) c imm, f, m 1⟩, true, none), (⟨.ldbn (.reg d) c imm, f, m 1⟩, false, none),
   (⟨.ldh (.reg d) c imm, f, m 2⟩, true, none), (⟨.ldhn (.reg d) c imm, f, m 2⟩, false, none),
   (⟨.ldw (.reg d) c imm, f, m 4⟩, false, none),
   (⟨.lda (.reg d) c sc, f, quadAcc s r c 0 4 [0] .read⟩, false, some sc.toNat),
   (⟨.lds (.reg d) c sc, f, quadAcc s r c 0 4 [0] .read⟩, false, some sc.toNat),
   (⟨.fld (.reg d) lv false imm, [rfld codeD d], displayAcc s r lv (4 * words15 s l r imm) 4 [0] .read⟩, false, none)]

/-- The loads of 2 or 4 register words. -/
def wideLoads (s : State) (l : Latch) (r : LRef) (d : Reg) (c : Quad) (imm : BitVec 15) : List MemRow :=
  let m := fun (n : Nat) => quadAcc s r c (disp15 s l r imm * n) n [0] .read
  [⟨.ldd d c imm, [rfld codeD d 2, qfld c], m 8⟩, ⟨.ldq d c imm, [rfld codeD d 4, qfld c], m 16⟩]

/-- The loads of a capability. -/
def capLoads (s : State) (l : Latch) (r : LRef) (d : Reg) (c : Quad) (imm : BitVec 15) (lv : BitVec 3) : List MemRow :=
  [⟨.ldc d c imm, [rfld codeD d 4, qfld c], quadAcc s r c (disp15 s l r imm * 16) 16 [0, 2] .read⟩,
   ⟨.fld (.reg d) lv true imm, [rfld codeD d 4], displayAcc s r lv (4 * words15 s l r imm) 16 [0, 2] .read⟩]

/-- The bytes of the low `n` of a register word, with its poison. -/
def lowBytes (n : Nat) (w : PWord) : Chunk := (leBytes n w.val.toNat, w.poison)

/-- The register words from D on, as they are stored. -/
def regChunks (s : State) (l : Latch) (r : LRef) (d : Reg) (n : Nat) : List Chunk :=
  (List.range n).map fun i => lowBytes 4 (s.reg r (regNo s l r codeD d + i))

/-- The stores of register words, with what each stores, and the scope of the acquire point that follows it: sts ends in a
fence (R143, R145, R188, R201). -/
def plainStores (s : State) (l : Latch) (r : LRef) (d : Reg) (c : Quad) (imm : BitVec 15) (lv sc : BitVec 3) :
    List (MemRow × List Chunk × Option Nat) :=
  let m := fun (n : Nat) => quadAcc s r c (disp15 s l r imm * n) n [1] .write
  let f := [rfld codeD d, qfld c]
  let w := rd s l r codeD d
  [(⟨.stb (.reg d) c imm, f, m 1⟩, [lowBytes 1 w], none), (⟨.sth (.reg d) c imm, f, m 2⟩, [lowBytes 2 w], none),
   (⟨.stw (.reg d) c imm, f, m 4⟩, [lowBytes 4 w], none),
   (⟨.stl (.reg d) c sc, f, quadAcc s r c 0 4 [1] .write⟩, [lowBytes 4 w], none),
   (⟨.sts (.reg d) c sc, f, quadAcc s r c 0 4 [1] .write⟩, [lowBytes 4 w], some sc.toNat),
   (⟨.fst (.reg d) lv false imm, [rfld codeD d], displayAcc s r lv (4 * words15 s l r imm) 4 [1] .write⟩, [lowBytes 4 w], none),
   (⟨.std d c imm, [rfld codeD d 2, qfld c], m 8⟩, regChunks s l r d 2, none),
   (⟨.stq d c imm, [rfld codeD d 4, qfld c], m 16⟩, regChunks s l r d 4, none)]

/-- The stores of a capability. -/
def capStores (s : State) (l : Latch) (r : LRef) (d : Reg) (c : Quad) (imm : BitVec 15) (lv : BitVec 3) : List MemRow :=
  [⟨.stc d c imm, [rfld codeD d 4, qfld c], quadAcc s r c (disp15 s l r imm * 16) 16 [1, 3] .write⟩,
   ⟨.fst (.reg d) lv true imm, [rfld codeD d 4], displayAcc s r lv (4 * words15 s l r imm) 16 [1, 3] .write⟩]

/-- All loads and stores. -/
def memRows (s : State) (l : Latch) (r : LRef) (d : Reg) (c : Quad) (imm : BitVec 15) (lv sc : BitVec 3) : List MemRow :=
  (wordLoads s l r d c imm lv sc).map (·.1) ++ wideLoads s l r d c imm ++ capLoads s l r d c imm lv ++
  (plainStores s l r d c imm lv sc).map (·.1) ++ capStores s l r d c imm lv

/-- The access passes its checks (R142), and its place is `p`: translation has changed TLBs at most. -/
def Lands (s : State) (l : Latch) (r : LRef) (e : MemRow) (v : State) (p : Spot) : Prop :=
  ((counted s l e.flds).work l).resolve r e.acc = (v.work l, some p)

/-- `v` is `s` with other translations held in the TLBs of cores and dies, and nothing else changed (R315, R319). -/
structure OnlyTlbs (s v : State) : Prop where
  rest : { v with cores := s.cores, dies := s.dies } = s
  cores : ∀ c, { v.core c with tlb := (s.core c).tlb } = s.core c
  dies : ∀ d, { v.die d with tlb := (s.die d).tlb } = s.die d

/-- What stands at a place from its first byte on: bytes, whether each is in a poisoned unit, and the tag of the first. -/
structure Seen where
  byte : Nat → Byte
  bad : Nat → Bool
  tag : Bool

/-- What has come back of another device for an access of `n` bytes at an address that the lane makes again. -/
def brought (v : State) (r : LRef) (va n : Nat) : Option Returned :=
  (v.lane r).returned.find? fun x => x.acc.va == va && decide (n ≤ x.bytes.length)

/-- The lane is parked for an access that has gone to another device, with what the model notes of it (R210). -/
def sentFar (v : State) (l : Latch) (r : LRef) (dev pa va n : Nat) (k : Kind) : State :=
  let asid := (v.ctx (v.group r.1).ctx).hdr.asid
  parked l r (.remote v.nextId) { v with
    nextId := v.nextId + 1
    remotes := v.remotes ++ [{ id := v.nextId, gid := r.1, lane := r.2, dev := dev, addr := pa, size := n, asid := asid, va := va
                               leaf := v.leafOf (v.group r.1).coreOf asid va k, run := l.run, word := l.word }] }

/-- What a lane sees at a place that it may read now; none where the lane must wait: on an absent line (R173), while the
line's region installs (R311), for another device (R210). In HBM it sees its own group's tentative writes (R208, R308), and
what its core's L1 holds poisoned (R147). -/
def sees (v : State) (r : LRef) (p : Spot) (n : Nat) : Option Seen :=
  let of := fun (m : Memory) (a : Nat) => ({ byte := fun i => m.byte (a + i), bad := fun i => m.poisoned 8 (a + i) 1, tag := m.tag a } : Seen)
  match p with
  | .scratch b off => if v.present b (off / 128) then some (of (v.block b).scratch off) else none
  | .hbm key pa =>
    let m := v.viewed r.1 pa
    if v.stalled pa then none
    else some { byte := fun i => m.hbmByte key (pa + i), bad := fun i => m.loadPoison r (pa + i) 1, tag := m.hbmTag key pa }
  | .remote _ _ va => (brought v r va n).map fun x => { byte := fun i => x.bytes.getD i 0, bad := fun _ => x.poison, tag := x.tag }
  | .kdata k a => some (of (v.kcore k).dmem a)
  | .queues a => some (of v.queueMem a)

/-- The little-endian number of `n` bytes from byte `i` (R1). -/
def Seen.num (m : Seen) (i n : Nat) : Nat := (List.range n).foldr (fun k x => (m.byte (i + k)).toNat + 256 * x) 0

/-- The register word of `n` bytes from byte `i`, extended (R143), poisoned where a byte is (R147). -/
def Seen.word (m : Seen) (i n : Nat) (signed : Bool) : PWord :=
  { val := if signed = true ∧ n < 4 ∧ 2 ^ (8 * n - 1) ≤ m.num i n then BitVec.ofInt 32 ((m.num i n : Int) - 2 ^ (8 * n))
      else BitVec.ofNat 32 (m.num i n)
    poison := (List.range n).any fun k => m.bad (i + k) }

/-- A byte of memory at a place. -/
def byteAt (t : State) (p : Spot) (i : Nat) : Byte :=
  match p with
  | .scratch b off => (t.block b).scratch.byte (off + i)
  | .hbm key pa => t.hbmByte key (pa + i)
  | .kdata k a => (t.kcore k).dmem.byte (a + i)
  | .queues a => t.queueMem.byte (a + i)
  | .remote _ _ _ => 0

/-- The byte is in a poisoned unit. -/
def badAt (t : State) (p : Spot) (i : Nat) : Bool :=
  match p with
  | .scratch b off => (t.block b).scratch.poisoned 8 (off + i) 1
  | .hbm _ pa => t.hbmPoison (pa + i) 1
  | .kdata k a => (t.kcore k).dmem.poisoned 8 (a + i) 1
  | .queues a => t.queueMem.poisoned 8 (a + i) 1
  | .remote _ _ _ => false

/-- The tag of the granule at a place. -/
def tagAt (t : State) (p : Spot) : Bool :=
  match p with
  | .scratch b off => (t.block b).scratch.tag off
  | .hbm key pa => t.hbmTag key pa
  | .kdata k a => (t.kcore k).dmem.tag a
  | .queues a => t.queueMem.tag a
  | .remote _ _ _ => false

/-- A store at a place writes memory at once and alone: no copy is filling the line (R173), no region holds it and the group
is in none and no region's abort is yet to be delivered (R307, R310, R311), its HBM is not retired (R375), and the memory has
its canonical form. -/
def Quiet (v : State) (r : LRef) (p : Spot) : Prop :=
  match p with
  | .scratch b off => (v.blocks.any fun x => x.bid == b) = true ∧ (v.block b).scratch.wf = true ∧ v.copyPending b (off / 128) = false
  | .hbm _ pa => v.hbm.wf = true ∧ v.isRetired pa = false ∧ v.lineRec pa = none ∧ (v.group r.1).region = none ∧ v.memberLost r = false
  | .kdata k _ => (v.kcore k).dmem.wf = true
  | .queues _ => v.queueMem.wf = true
  | .remote _ _ _ => False

/-- One byte place is outside `n` bytes at another. In HBM, bytes of the same sector are told apart under the key of the
write alone: under another key the whole sector reads otherwise (R370). -/
def Apart (p : Spot) (n : Nat) (q : Spot) : Prop :=
  match p, q with
  | .scratch b x, .scratch c y => b ≠ c ∨ y < x ∨ x + n ≤ y
  | .hbm k x, .hbm j y => y / 32 < x / 32 ∨ (x + n - 1) / 32 < y / 32 ∨ (j = k ∧ (y < x ∨ x + n ≤ y))
  | .kdata k x, .kdata j y => k ≠ j ∨ y < x ∨ x + n ≤ y
  | .queues x, .queues y => y < x ∨ x + n ≤ y
  | _, _ => True

/-- One place is in no 32-byte sector of `n` bytes at another. -/
def Far (p : Spot) (n : Nat) (q : Spot) : Prop :=
  match p, q with
  | .scratch b x, .scratch c y => b ≠ c ∨ y / 32 < x / 32 ∨ (x + n - 1) / 32 < y / 32
  | .hbm _ x, .hbm _ y => y / 32 < x / 32 ∨ (x + n - 1) / 32 < y / 32
  | .kdata k x, .kdata j y => k ≠ j ∨ y / 32 < x / 32 ∨ (x + n - 1) / 32 < y / 32
  | .queues x, .queues y => y / 32 < x / 32 ∨ (x + n - 1) / 32 < y / 32
  | _, _ => True

/-- `t` is `v` with bytes stored at a place: they read as stored, every other byte, and every tag and poison mark outside
their sectors, is as before, and so is everything but memory, the L1s and the lane's group. No L1 holds a sector poisoned
that was clean, the lane's own holds none of the stored bytes, and another core's holds what it held outside their sectors
(R11, R147). -/
structure Stored (v t : State) (r : LRef) (p : Spot) (bs : List Byte) : Prop where
  new : ∀ i, i < bs.length → byteAt t p i = bs.getD i 0
  old : ∀ q, Apart p bs.length q → byteAt t q 0 = byteAt v q 0
  marks : ∀ q, Far p bs.length q → tagAt t q = tagAt v q ∧ badAt t q 0 = badAt v q 0
  lanes : ∀ q, q ≠ r → t.lane q = v.lane q
  shells : t.groups.map Group.shell = v.groups.map Group.shell
  rest : { t with groups := v.groups, blocks := v.blocks, hbm := v.hbm, sectorKeys := v.sectorKeys, kcores := v.kcores,
                  queueMem := v.queueMem, l1 := v.l1 } = v
  noneNew : ∀ c a, t.l1Poison c a 1 = true → v.l1Poison c a 1 = true
  own : ∀ c key pa i, (v.group r.1).agent = .core c → p = .hbm key pa → i < bs.length → t.l1Poison c (pa + i) 1 = false
  others : ∀ c a, (v.group r.1).agent ≠ .core c → Far p bs.length (.hbm 0 a) → t.l1Poison c a 1 = v.l1Poison c a 1
  blocks : ∀ b, { t.block b with scratch := (v.block b).scratch, pclr := (v.block b).pclr } = v.block b
  kcores : ∀ k, { t.kcore k with dmem := (v.kcore k).dmem } = v.kcore k

/-- `t` is `v` with a return entry spilled at a place (R115): as a store leaves memory, and no lane but this one's changes;
no L1 holds a sector poisoned that was clean, and each holds what it held outside the entry's sectors (R353). -/
structure Spilled (v t : State) (r : LRef) (p : Spot) (e : Cap) : Prop where
  new : ∀ i, i < 16 → byteAt t p i = e.bytes.getD i 0
  tag : tagAt t p = e.tag
  old : ∀ q, Apart p 16 q → byteAt t q 0 = byteAt v q 0
  marks : ∀ q, Far p 16 q → tagAt t q = tagAt v q ∧ badAt t q 0 = badAt v q 0
  lanes : ∀ q, q ≠ r → t.lane q = v.lane q
  shells : t.groups.map Group.shell = v.groups.map Group.shell
  rest : { t with groups := v.groups, hbm := v.hbm, sectorKeys := v.sectorKeys, l1 := v.l1 } = v
  noneNew : ∀ c a, t.l1Poison c a 1 = true → v.l1Poison c a 1 = true
  others : ∀ c a, Far p 16 (.hbm 0 a) → t.l1Poison c a 1 = v.l1Poison c a 1

/-- An atom's operation (Table 11.2): its number and the word it writes from the old word and D. -/
def atomOps : List ((Reg → Quad → BitVec 2 → BitVec 3 → BitVec 3 → Instr) × Nat × (Word → Word → Word)) :=
  [(.atomAdd, 0, fun x y => BitVec.ofNat 32 (x.toNat + y.toNat)), (.atomAnd, 1, fun x y => x &&& y),
   (.atomOr, 2, fun x y => x ||| y), (.atomXor, 3, fun x y => x ^^^ y),
   (.atomMin, 4, fun x y => if y.toInt < x.toInt then y else x), (.atomMax, 5, fun x y => if x.toInt < y.toInt then y else x),
   (.atomNmin, 6, fun x y => if y.toNat < x.toNat then y else x), (.atomNmax, 7, fun x y => if x.toNat < y.toNat then y else x),
   (.atomSwap, 8, fun _ y => y), (.atomCas, 9, fun _ y => y),
   (.atomFadd, 10, fun x y => rneF32 ((fval x).add (fval y))), (.atomFmin, 11, minWord), (.atomFmax, 12, maxWord)]

/-- The word in memory after an atom (R198, R199): swap and a cas that compares equal write D; a cas that does not, or
whose location is poisoned, writes nothing; the others write the operation's word, poisoned if either operand is. -/
def atomAfter (k : Nat) (f : Word → Word → Word) (old d : PWord) (compare : Word) : PWord :=
  if k = 9 then (if old.poison = true ∨ old.val ≠ compare then old else d)
  else if k = 8 then d
  else ⟨f old.val d.val, old.poison || d.poison⟩

/-- The frame rule of R146 and R234 lets a capability with FRM be stored: through FRM, and into a frame that may name it. -/
def FrameOk (v : State) (r : LRef) (through x : Cap) : Prop :=
  through.perm 6 = true ∧ (v.frameBases (v.group r.1).ctx through.base).contains x.base = true

/-- The access passes steps 1 to 6 of R142. -/
def Passes (x : Acc) : Prop :=
  x.poison = false ∧ x.cap.tag = true ∧ x.cap.otype = 0 ∧ x.cap.space ≤ 2 ∧ (∀ j ∈ x.perms, x.cap.perm j = true) ∧
  x.cap.base ≤ (x.addr.toNat : Int) ∧ (x.addr.toNat : Int) + x.size ≤ x.cap.top ∧ x.addr.toNat % x.size = 0

/-- A new fault record stands in the queue of a die (R321, Table 19.4): the context's counter 5 counts it (R337), and the
command complex gets the fault event. -/
def faulted (v : State) (die n ctx : Nat) (f : FaultRec) : State :=
  ((v.modDie die fun x => { x with faults := tput n f x.faults }).count ctx 5 1).event 0x05
    (BitVec.ofNat 32 (die * 65536 + n)) (BitVec.ofNat 32 f.asid)

/-- The instruction's lane meets a page fault at an address, the failed walk having left `v` (R321, R322): its record stands
in the queue of the die, new or joined; a fatal fault traps, a recoverable one parks the lane for replay, and with the queue
full the lane parks until a place frees. -/
def FaultsAt (i : Instr) (s v : State) (l : Latch) (r : LRef) (addr : DWord) (k : Kind) (fatal : Bool) (reason level : Nat) : Prop :=
  let core := (s.group r.1).coreOf
  let die := dieOf core
  let ctx := (s.group r.1).ctx
  let asid := (s.ctx ctx).hdr.asid
  let a := addr.toNat
  let on := if fatal then [] else [r]
  let ends := fun (n : Nat) (u : State) =>
    (fatal = true → Delivers s l r 0x09 → exec i s = .next (trapped l r 0x09 addr u)) ∧
    (fatal = false → exec i s = .next (parked l r (.replay die n)
      (u.modLane r fun y => { y with pendReplay := true, faultVa := addr, returned := [] })))
  (∀ n f, (v.die die).faults.find? (fun q => q.2.joins asid a k fatal) = some (n, f) →
    ends n (v.modDie die fun y => { y with faults := tput n { f with lanes := f.lanes ++ on } y.faults })) ∧
  ((∀ q ∈ (v.die die).faults, q.2.joins asid a k fatal = false) →
    (∀ n, freeIndex (v.die die).faults = some n →
      ends n (faulted v die n ctx { va := a, asid := asid, core := core, reason := reason, level := level, kind := k
                                    fatal := fatal, lanes := on })) ∧
    (freeIndex (v.die die).faults = none →
      exec i s = .next (parked l r (.faultQueue die) (v.modLane r fun y => { y with returned := [] }))))

end Sys2Proof.Machine.Claims

/-! ## Loads, stores, atomics -/

/-- R143, R145, R147, R201: a load, its access passing its checks at a place that may be read now: D receives the bytes of
one word, extended, of 2 or 4 words, or of a capability with its granule's tag; nothing else changes but what translation has
held in TLBs (R315, R319). On an absent line the lane parks (R173), and at another device it waits for what comes back
(R210).
What is the model's own in it: log entries 24, 25, 43, 73, 142. -/
def Obligations.LoadResults : Prop :=
  (∀ (d : Reg) (c : Quad) (imm : BitVec 15) (lv sc : BitVec 3) (s : State) (l : Latch) (r : LRef), Alone s l r →
     (∀ e ∈ (wordLoads s l r d c imm lv sc).map (·.1) ++ wideLoads s l r d c imm ++ capLoads s l r d c imm lv, InRange s l e.flds →
       ∀ (v : State) (p : Spot), Lands s l r e v p → OnlyTlbs (counted s l e.flds) v) ∧
     (∀ e ∈ wordLoads s l r d c imm lv sc, InRange s l e.1.flds → ∀ (v : State) (p : Spot) (m : Seen),
       Lands s l r e.1 v p → sees v r p e.1.acc.size = some m →
       exec e.1.i s = .next (past l r (acquired e.2.2 r (v.wr r (regNo s l r codeD d) (m.word 0 e.1.acc.size e.2.1))))) ∧
     (∀ e ∈ wordLoads s l r d c imm lv sc, InRange s l e.1.flds → ∀ v : State,
       (∀ b off, Lands s l r e.1 v (.scratch b off) → v.present b (off / 128) = false →
         exec e.1.i s = .next (parked l r (.line b (off / 128)) v)) ∧
       (∀ key pa, Lands s l r e.1 v (.hbm key pa) → v.stalled pa = true →
         exec e.1.i s = .next (v.modLane r fun x => { x with heldBack := true })) ∧
       (∀ dev pa va, Lands s l r e.1 v (.remote dev pa va) → brought v r va e.1.acc.size = none →
         exec e.1.i s = .next (sentFar v l r dev pa va e.1.acc.size e.1.acc.kind)))) ∧
  (∀ (d : Reg) (c : Quad) (imm : BitVec 15) (lv : BitVec 3) (s : State) (l : Latch) (r : LRef), Alone s l r →
     (∀ e ∈ wideLoads s l r d c imm, InRange s l e.flds → ∀ (v : State) (p : Spot) (m : Seen),
       Lands s l r e v p → sees v r p e.acc.size = some m →
       exec e.i s = .next (past l r (v.wrs r (regNo s l r codeD d) ((List.range (e.acc.size / 4)).map fun k => m.word (4 * k) 4 false)))) ∧
     (∀ e ∈ capLoads s l r d c imm lv, InRange s l e.flds → ∀ (v : State) (p : Spot) (m : Seen),
       Lands s l r e v p → sees v r p e.acc.size = some m →
       let ws := (List.range 4).map fun k => m.word (4 * k) 4 false
       exec e.i s = .next (past l r (v.wrCap r (regNo s l r codeD d) (capOfWords (ws.map (·.val)) m.tag) (ws.map (·.poison))))))

/-- R143, R145, R146, R147, R201: a store, its access passing its checks at a place that may be written at once: its bytes
stand there, its granule is tagged only by the store of a tagged capability, a poisoned word poisons every unit that the
store writes, and no other byte changes. A store to another device leaves this one (R210), and a region's member notes that
the device holds records of it (R311), or, where no route leads there any more, its region aborts with reason 8 (R384).
Before the store, nothing but the TLBs has changed (R315, R319).
What is the model's own in it: log entries 25, 43, 115, 142. -/
def Obligations.StoreResults : Prop :=
  ∀ (d : Reg) (c : Quad) (imm : BitVec 15) (lv sc : BitVec 3) (s : State) (l : Latch) (r : LRef), Alone s l r →
    (∀ e ∈ (plainStores s l r d c imm lv sc).map (·.1) ++ capStores s l r d c imm lv, InRange s l e.flds →
      ∀ (v : State) (p : Spot), Lands s l r e v p → OnlyTlbs (counted s l e.flds) v) ∧
    (∀ e ∈ plainStores s l r d c imm lv sc, InRange s l e.1.flds → ∀ (v : State) (p : Spot), Lands s l r e.1 v p →
      (∀ dev pa va, p = .remote dev pa va →
        ((v.group r.1).region = none → exec e.1.i s = .next (past l r (acquired e.2.2 r v))) ∧
        (∀ i, v.memberOf r.1 = some i → dev ∈ v.routes →
          exec e.1.i s = .next (past l r (acquired e.2.2 r (v.modRegion i fun x => { x with holders := sput dev x.holders })))) ∧
        (∀ i, v.memberOf r.1 = some i → dev ∉ v.routes → (v.region i).state = .opened ∨ (v.region i).state = .sealed →
          r.1 ∈ (v.region i).members → (v.lane r).unexited = true →
          ∃ t, exec e.1.i s = .next t ∧ (t.region i).state = .aborted ∧ (t.region i).reason = 8 ∧
            .region 8 ∈ (t.lane r).async ∧ (t.lane r).pc = ((v.lane r).advance l.pc).pc)) ∧
      (Quiet v r p →
        ∃ t, exec e.1.i s = .next t ∧ Stored v t r p (e.2.1.flatMap (·.1)) ∧
          t.lane r = ((acquired e.2.2 r v).lane r).advance l.pc ∧
          tagAt t p = false ∧ ((∃ x ∈ e.2.1, x.2 = true) → ∀ k, k < e.1.acc.size → badAt t p k = true))) ∧
    (∀ e ∈ capStores s l r d c imm lv, InRange s l e.flds → ∀ (v : State) (p : Spot), Lands s l r e v p → Quiet v r p →
      let x := s.cap r (regNo s l r codeD d)
      (x.tag = true → x.perm 6 = true → FrameOk v r e.acc.cap x) →
      ∃ t, exec e.i s = .next t ∧ Stored v t r p ((regChunks s l r d 4).flatMap (·.1)) ∧ t.lane r = (s.lane r).advance l.pc ∧
        tagAt t p = x.tag ∧ ((∃ y ∈ regChunks s l r d 4, y.2 = true) → ∀ k, k < 16 → badAt t p k = true))

/-- R188, R198 to R200, R207 to R209: an atom whose access passes its checks, which is made past the L1. Memory receives the
operation's word, from the word that is committed there; D receives the old word, in the view of the group's own tentative
operations, but a commutative use leaves D alone, and a quantum use delivers the old word or, where the old word is
unpoisoned, one that an atom has replaced there since the lane's last acquire point of the scope. A speculative use on HBM
changes no byte: it is held for its group until a commit point, behind those the group holds; with no free record it is made
at once and counted, and in a scratchpad it takes 0x06. An atom of order 1 or 3 is an acquire point of its scope. On an
absent line the lane parks, and at another device it waits for the old word, unless the use is commutative (R210).
What is the model's own in it: log entries 14, 28, 38, 43, 116, 117, 118, 139, 142. -/
def Obligations.AtomicResults : Prop :=
  ∀ e ∈ atomOps, ∀ (d : Reg) (c : Quad) (ord : BitVec 2) (sc use : BitVec 3) (s : State) (l : Latch) (r : LRef), Alone s l r →
    let i := e.1 d c ord sc use
    let flds := [rfld codeD d (if e.2.1 = 9 then 2 else 1), qfld c]
    let n := regNo s l r codeD d
    let x := quadAcc s r c 0 4 [0, 1, 4] .rmw
    let cmp := s.reg r (n + 1)
    let acq := if ord = 1 ∨ ord = 3 then some sc.toNat else none
    InRange s l flds → ∀ (v : State) (p : Spot), Lands s l r ⟨i, flds, x⟩ v p →
      OnlyTlbs (counted s l flds) v ∧
      (e.2.1 = 9 → cmp.poison = true → Delivers s l r 0x0A → exec i s = .next (trapped l r 0x0A 0 v)) ∧
      ((e.2.1 = 9 → cmp.poison = false) →
        (use = 4 → x.cap.space ≠ 0 → Delivers s l r 0x06 → exec i s = .next (trapped l r 0x06 x.addr v)) ∧
        (∀ b off, p = .scratch b off → use ≠ 4 → v.present b (off / 128) = false →
          exec i s = .next (parked l r (.line b (off / 128)) v)) ∧
        (∀ key pa, p = .hbm key pa → v.stalled pa = true → use ≠ 4 ∨ x.cap.space = 0 →
          exec i s = .next (v.modLane r fun x => { x with heldBack := true })) ∧
        (∀ dev pa va, p = .remote dev pa va → (v.group r.1).region = none →
          (use = 1 → exec i s = .next (past l r (acquired acq r v))) ∧
          (use ≠ 1 → brought v r va 4 = none → exec i s = .next (sentFar v l r dev pa va 4 .rmw)) ∧
          (∀ m y, use ≠ 1 → sees v r p 4 = some m → brought v r va 4 = some y →
            let u := if use = 4 ∧ y.overflow = true then v.count (v.group r.1).ctx 3 1 else v
            exec i s = .next (past l r ((acquired acq r u).wr r n (m.word 0 4 false))))) ∧
        (∀ m m0, sees { v with l1 := [] } r p 4 = some m →
          sees ({ v with l1 := [] }.modGroup r.1 fun g => { g with spec := [] }) r p 4 = some m0 → Quiet v r p →
          let old := m.word 0 4 false
          let base := m0.word 0 4 false
          let kept : Bool := e.2.1 = 9 ∧ (base.poison = true ∨ base.val ≠ cmp.val)
          let log := match p with
            | .scratch b off => if kept then v.past else { block := some b, addr := off, at' := v.past.length, value := base } :: v.past
            | .hbm _ pa => if kept then v.past else { block := none, addr := pa, at' := v.past.length, value := base } :: v.past
            | _ => v.past
          let earlier := fun (q : Past) => q ∈ v.past ∧ (s.lane r).acquired.getD sc.toNat 0 ≤ q.at' ∧ match p with
            | .scratch b off => q.block = some b ∧ q.addr = off
            | .hbm _ pa => q.block = none ∧ q.addr = pa
            | _ => False
          let room := fun (pa : Nat) =>
            (∃ o ∈ (v.group r.1).spec, o.addr / 128 = pa / 128) ∨ v.dirUsed (homeDie pa) < dirCapacity
          (use ≠ 4 ∨ (∃ key pa, p = .hbm key pa ∧ ¬ room pa) →
            let new := atomAfter e.2.1 e.2.2 base (s.reg r n) cmp.val
            let u := if use = 4 then v.count (v.group r.1).ctx 3 1 else v
            ∃ t w, exec i s = .next t ∧ Stored u { t with past := v.past } r p (leBytes 4 new.val.toNat) ∧ t.past = log ∧
              ((List.range 4).any (badAt t p) = true ∨ new.poison = false) ∧
              (w = old ∨ (use = 3 ∧ old.poison = false ∧ ∃ q, earlier q ∧ w = q.value)) ∧
              t.lane r = ((fun (y : Lane) => match acq with | some k => y.acquire k v.past.length | none => y)
                (if use = 1 then s.lane r else (s.lane r).wr n w)).advance l.pc) ∧
          (use = 4 → ∀ key pa, p = .hbm key pa → room pa →
            exec i s = .next (past l r (acquired acq r (((v.dropOwn r pa 4).modGroup r.1 fun g => { g with spec := g.spec ++ [{
              lane := r.2, key := key, addr := pa, aop := BitVec.ofNat 4 e.2.1, operand := s.reg r n
              compare := if e.2.1 = 9 then cmp.val else 0 }] }).wr r n old))))))

/-- R142, R321, R327: the checks of an access in their order, each with its cause and data, for every load and store; a lane
that fails one takes that trap and nothing else changes. Step 7: an access that ends beyond its share or its block's
scratchpad is a bounds fault; where translation fails, a fault record stands in the die's queue, or the lane joins one that
is there; a fatal fault traps, a recoverable one parks the lane for replay, and with the queue full the lane parks until a
place frees. Step 8: a capability with FRM is stored through FRM alone, and into a frame that may name it; one without SHR
does not leave the device.
What is the model's own in it: log entries 25, 26, 102, 126. -/
def Obligations.AccessTraps : Prop :=
  ∀ (d : Reg) (c : Quad) (imm : BitVec 15) (lv sc : BitVec 3) (s : State) (l : Latch) (r : LRef), Alone s l r →
    (∀ e ∈ memRows s l r d c imm lv sc, InRange s l e.flds →
      let x := e.acc
      let k := x.cap
      (x.poison = true → TrapsWith e.i s l r e.flds 0x0A k.cursor) ∧
      (x.poison = false → k.tag = false → TrapsWith e.i s l r e.flds 0x04 k.cursor) ∧
      (x.poison = false → k.tag = true → k.otype ≠ 0 → TrapsWith e.i s l r e.flds 0x07 k.cursor) ∧
      (x.poison = false → k.tag = true → k.otype = 0 → (2 < k.space ∨ ∃ j ∈ x.perms, k.perm j = false) →
        TrapsWith e.i s l r e.flds 0x06 x.addr) ∧
      (x.poison = false → k.tag = true → k.otype = 0 → k.space ≤ 2 → (∀ j ∈ x.perms, k.perm j = true) →
        ((x.addr.toNat : Int) < k.base ∨ k.top < (x.addr.toNat : Int) + x.size) → TrapsWith e.i s l r e.flds 0x05 x.addr) ∧
      (x.poison = false → k.tag = true → k.otype = 0 → k.space ≤ 2 → (∀ j ∈ x.perms, k.perm j = true) →
        k.base ≤ (x.addr.toNat : Int) → (x.addr.toNat : Int) + x.size ≤ k.top → x.addr.toNat % x.size ≠ 0 →
        TrapsWith e.i s l r e.flds 0x0B x.addr)) ∧
    (∀ e ∈ memRows s l r d c imm lv sc, InRange s l e.flds → Passes e.acc → ∀ core, (s.group r.1).agent = .core core →
      let x := e.acc
      let b := s.block (s.group r.1).block
      (x.cap.space = 1 → 128 * (b.shareOn core).lines < x.addr.toNat + x.size → TrapsWith e.i s l r e.flds 0x05 x.addr) ∧
      (x.cap.space = 2 → 128 * b.lines < x.addr.toNat + x.size → TrapsWith e.i s l r e.flds 0x05 x.addr) ∧
      (x.cap.space = 0 → ∀ (v : State) (fatal : Bool) (reason level : Nat),
        let die := dieOf core
        let ctx := (s.group r.1).ctx
        let asid := (s.ctx ctx).hdr.asid
        let a := x.addr.toNat
        (∀ y ∈ (s.lane r).returned, y.acc.va ≠ a) →
        (counted s l e.flds).locate (some core) die asid a x.kind = (v, .error (fatal, reason, level)) →
        FaultsAt e.i s v l r x.addr x.kind fatal reason level)) ∧
    (∀ e ∈ capStores s l r d c imm lv, InRange s l e.flds → ∀ v p, Lands s l r e v p →
      let x := s.cap r (regNo s l r codeD d)
      Delivers s l r 0x06 → x.tag = true →
      ((x.perm 6 = true ∧ ¬ FrameOk v r e.acc.cap x) ∨
        (x.perm 7 = false ∧ (x.perm 6 = true → FrameOk v r e.acc.cap x) ∧ ∃ dev pa va, p = .remote dev pa va)) →
      exec e.i s = .next (trapped l r 0x06 e.acc.addr v))

namespace Sys2Proof.Machine.Claims

/-! ### Terms of channels -/

/-- Entry `n` of the group's channel table is bound to the ring at `off`, which is armed, in a block that is held, its
capacity not 0, the header words `ws` that the instruction reads unpoisoned. -/
structure Bound (s : State) (r : LRef) (n off : Nat) (ws : List Nat) : Prop where
  entry : ∃ k, (s.group r.1).chans.getD n none = some (off, k)
  held : (s.blocks.any fun x => x.bid == (s.group r.1).block) = true
  clean : ∀ i ∈ ws, ((s.block (s.group r.1).block).ringWord off i).poison = false
  armed : (s.block (s.group r.1).block).ringArmed off = true
  cap : 1 ≤ (s.block (s.group r.1).block).ringCap off

/-- A word of a block's scratchpad becomes `w`; its granule is untagged (R246). -/
def putWord (s : State) (b a : Nat) (w : PWord) : State := s.modBlock b fun x => { x with scratch := x.scratch.writeWord 8 a w }

/-- The ring at `off` of a block is no longer one that a group of the block has pushed to (R334). -/
def unpushed (s : State) (bid off : Nat) : State :=
  { s with groups := s.groups.map fun g => if g.block = bid ∧ g.isK = false then { g with pushed := sdel off g.pushed } else g }

/-- An entry taken for an instruction is held until the instruction is past (R93). -/
def readsChannel (n : Chan) (peek : Bool) : Src := if peek then .peek n else .pop n

/-- An instruction's word written to a channel field, its other fields, and the word that it computes with that field's. -/
structure ChanRow where
  i : Instr
  flds : List Fld
  out : PWord

/-- The arithmetic of two sources: what it makes an instruction of, and what it computes. -/
def twoOps : List ((Dst → Src → Src → Instr) × (Word → Word → Word)) :=
  intOps ++ fltOps ++ pkOps ++ (icmpOps.map fun e => (e.1, fun x y => if e.2 x y then 1 else 0)) ++
  (fcmpOps.map fun e => (e.1, fun x y => if e.2 (fOrder x y) then 1 else 0))

/-- Arithmetic whose field A names the channel, with the register D it writes where the entry is `x` (R93). -/
def aRows (s : State) (l : Latch) (r : LRef) (d b : Reg) (imm : BitVec 12) (a : Src) (x : PWord) : List ChanRow :=
  (twoOps.map fun e => ⟨e.1 (.reg d) a (.reg b), [rfld codeD d, rfld codeB b], op2 e.2 x (rd s l r codeB b)⟩) ++
  ((intOps1 ++ fltOps1).map fun e => ⟨e.1 (.reg d) a, [rfld codeD d], op1 e.2 x⟩) ++
  (shiftOps.map fun e => ⟨e.1 (.reg d) a b, [rfld codeD d, rfld codeB b], op2 e.2 x (rd s l r codeB b)⟩) ++
  (threeOps.map fun e => ⟨e.1 d a (.reg b), [rfld codeD d, rfld codeB b], op3 e.2 x (rd s l r codeB b) (rd s l r codeD d)⟩) ++
  (immOps.map fun e => ⟨e.1 (.reg d) a imm, [rfld codeD d], op1 (fun y => e.2.2 y (immOf s l r e.2.1 imm)) x⟩)

/-- Arithmetic whose field B names the channel. -/
def bRows (s : State) (l : Latch) (r : LRef) (d a : Reg) (b : Src) (x : PWord) : List ChanRow :=
  (twoOps.map fun e => ⟨e.1 (.reg d) (.reg a) b, [rfld codeD d, rfld codeA a], op2 e.2 (rd s l r codeA a) x⟩) ++
  (threeOps.map fun e => ⟨e.1 d (.reg a) b, [rfld codeD d, rfld codeA a], op3 e.2 (rd s l r codeA a) x (rd s l r codeD d)⟩)

/-- Instructions that push register `a`, moved or alone, and arithmetic whose field D names the channel, with the word they
push. -/
def dRows (s : State) (l : Latch) (r : LRef) (n : Chan) (a b : Reg) (imm : BitVec 12) : List ChanRow :=
  let x := rd s l r codeA a
  let y := rd s l r codeB b
  [⟨.chpush n (.reg a), [rfld codeA a], x⟩] ++
  (twoOps.map fun e => ⟨e.1 (.push n) (.reg a) (.reg b), [rfld codeA a, rfld codeB b], op2 e.2 x y⟩) ++
  ((intOps1 ++ fltOps1).map fun e => ⟨e.1 (.push n) (.reg a), [rfld codeA a], op1 e.2 x⟩) ++
  (shiftOps.map fun e => ⟨e.1 (.push n) (.reg a) b, [rfld codeA a, rfld codeB b], op2 e.2 x y⟩) ++
  (immOps.map fun e => ⟨e.1 (.push n) (.reg a) imm, [rfld codeA a], op1 (fun z => e.2.2 z (immOf s l r e.2.1 imm)) x⟩) ++
  [⟨.movi (.push n) imm, [], ⟨immOf s l r true imm, false⟩⟩]

/-- The loads of one word that push it, as `wordLoads` gives them. -/
def pushLoads (s : State) (r : LRef) (l : Latch) (n : Chan) (c : Quad) (imm : BitVec 15) (lv sc : BitVec 3) :
    List (MemRow × Bool × Option Nat) :=
  let m := fun (k : Nat) => quadAcc s r c (disp15 s l r imm * k) k [0] .read
  [(⟨.ldb (.push n) c imm, [qfld c], m 1⟩, true, none), (⟨.ldbn (.push n) c imm, [qfld c], m 1⟩, false, none),
   (⟨.ldh (.push n) c imm, [qfld c], m 2⟩, true, none), (⟨.ldhn (.push n) c imm, [qfld c], m 2⟩, false, none),
   (⟨.ldw (.push n) c imm, [qfld c], m 4⟩, false, none),
   (⟨.lda (.push n) c sc, [qfld c], quadAcc s r c 0 4 [0] .read⟩, false, some sc.toNat),
   (⟨.lds (.push n) c sc, [qfld c], quadAcc s r c 0 4 [0] .read⟩, false, some sc.toNat),
   (⟨.fld (.push n) lv false imm, [], displayAcc s r lv (4 * words15 s l r imm) 4 [0] .read⟩, false, none)]

/-- The stores of one word that take it of a channel. -/
def popStores (s : State) (r : LRef) (l : Latch) (x : Src) (c : Quad) (imm : BitVec 15) (lv sc : BitVec 3) :
    List (MemRow × Option Nat) :=
  let m := fun (k : Nat) => quadAcc s r c (disp15 s l r imm * k) k [1] .write
  [(⟨.stb x c imm, [qfld c], m 1⟩, none), (⟨.sth x c imm, [qfld c], m 2⟩, none), (⟨.stw x c imm, [qfld c], m 4⟩, none),
   (⟨.stl x c sc, [qfld c], quadAcc s r c 0 4 [1] .write⟩, none),
   (⟨.sts x c sc, [qfld c], quadAcc s r c 0 4 [1] .write⟩, some sc.toNat),
   (⟨.fst x lv false imm, [], displayAcc s r lv (4 * words15 s l r imm) 4 [1] .write⟩, none)]

end Sys2Proof.Machine.Claims

/-! ## Channels -/

/-- R93, R247 to R252: chpush, chpop, chpeek, and channel fields of mov and of the other arithmetic, of loads and of stores.
A push appends the word at the tail; a pop takes the head entry, a peek leaves it; a closed and empty ring gives 0 and sets
the channel-closed flag, and a push to a closed ring traps; a lane parks where its entry, or room for its value, is not
there. A lane that is served has made an acquire point.
What is the model's own in it: log entries 25, 116, 142. -/
def Obligations.ChannelMoves : Prop :=
  ∀ (n : Chan) (s : State) (l : Latch) (r : LRef) (off : Nat), Alone s l r → Bound s r n.toNat off [0, 1, 2] →
    (s.lane r).heldA = none →
    let bid := (s.group r.1).block
    let b := s.block bid
    let head := b.ringWord off 1
    let tail := b.ringWord off 2
    let at' := fun (i : Word) => off + 16 + 4 * (i.toNat % b.ringCap off)
    let entry := b.scratch.word 8 (at' head.val)
    let appended := fun (u : State) (x : PWord) =>
      (putWord (putWord u bid (at' tail.val) x) bid (off + 8) ⟨tail.val + 1, tail.poison⟩).modGroup r.1 fun g =>
        { g with pushed := sput off g.pushed }
    let served := fun (peek : Bool) (u : State) =>
      acquired (some 1) r (if peek then u else putWord u bid (off + 4) ⟨head.val + 1, head.poison⟩)
    let servedNone := fun (u : State) => acquired (some 1) r (u.modLane r fun x => { x with chflags := x.chflags ||| 1 })
    let waits := fun (i : Instr) (u : State) (fieldA peek : Bool) =>
      exec i s = .next (parked l r (.pop n.toNat off 1 fieldA peek u.nextId) { u with nextId := u.nextId + 1 })
    (∀ (a c : Reg) (imm : BitVec 12), ∀ e ∈ dRows s l r n a c imm, InRange s l e.flds →
      let u := counted s l e.flds
      (b.ringClosed off = true → TrapsWith e.i s l r e.flds 0x0C (BitVec.ofNat 64 (3 + n.toNat * 2 ^ 32))) ∧
      (b.ringClosed off = false → s.pushWaiting bid off = false → b.ringCount off < b.ringCap off →
        exec e.i s = .next (past l r (appended u e.out))) ∧
      (b.ringClosed off = false → b.ringCount off = b.ringCap off →
        exec e.i s = .next (parked l r (.push n.toNat off 1 e.out u.nextId) { u with nextId := u.nextId + 1 }))) ∧
    (∀ (d c : Reg) (imm : BitVec 12) (peek : Bool),
      (∀ x : PWord, ∀ e ∈ ⟨if peek then .chpeek (.reg d) n else .chpop (.reg d) n, [rfld codeD d], x⟩ ::
          aRows s l r d c imm (readsChannel n peek) x, InRange s l e.flds →
        let u := counted s l e.flds
        (s.popWaiting bid off = false → 1 ≤ b.ringCount off → x = entry →
          exec e.i s = .next (past l r ((served peek u).wr r (regNo s l r codeD d) e.out))) ∧
        (s.popWaiting bid off = false → b.ringCount off = 0 → b.ringClosed off = true → x = {} →
          exec e.i s = .next (past l r ((servedNone u).wr r (regNo s l r codeD d) e.out))) ∧
        (b.ringCount off = 0 → b.ringClosed off = false → waits e.i u true peek)) ∧
      ((s.lane r).heldB = none → ∀ x : PWord, ∀ e ∈ bRows s l r d c (readsChannel n peek) x, InRange s l e.flds →
        let u := counted s l e.flds
        (s.popWaiting bid off = false → 1 ≤ b.ringCount off → x = entry →
          exec e.i s = .next (past l r ((served peek u).wr r (regNo s l r codeD d) e.out))) ∧
        (s.popWaiting bid off = false → b.ringCount off = 0 → b.ringClosed off = true → x = {} →
          exec e.i s = .next (past l r ((servedNone u).wr r (regNo s l r codeD d) e.out))) ∧
        (b.ringCount off = 0 → b.ringClosed off = false → waits e.i u false peek))) ∧
    (∀ (c : Quad) (imm : BitVec 15) (lv sc : BitVec 3),
      (∀ e ∈ pushLoads s r l n c imm lv sc, InRange s l e.1.flds → ∀ (v : State) (p : Spot) (m : Seen),
        Lands s l r e.1 v p → sees v r p e.1.acc.size = some m → b.ringClosed off = false → s.pushWaiting bid off = false →
        b.ringCount off < b.ringCap off →
        exec e.1.i s = .next (past l r (appended (acquired e.2.2 r v) (m.word 0 e.1.acc.size e.2.1)))) ∧
      (∀ peek : Bool, ∀ e ∈ popStores s r l (readsChannel n peek) c imm lv sc, InRange s l e.1.flds →
        let u := served peek (counted s l e.1.flds)
        s.popWaiting bid off = false → 1 ≤ b.ringCount off → ∀ (v : State) (p : Spot),
          ((u.modLane r fun x => { x with heldA := some entry }).work l).resolve r e.1.acc = (v.work l, some p) → Quiet v r p →
          ∃ t, exec e.1.i s = .next t ∧ Stored v t r p (lowBytes e.1.acc.size entry).1 ∧
            t.lane r = ((acquired e.2 r v).lane r).advance l.pc ∧
            tagAt t p = false ∧ (entry.poison = true → ∀ k, k < e.1.acc.size → badAt t p k = true)))

/-- R252 to R254: chbind of an unbound entry to a ring that is not armed arms it, and to an armed one of the same capacity
counts one more binding; chstat delivers the ring's word, or 0 where the entry is unbound, and is an acquire point where the
ring is closed (R250); chclose sets the closed bit; chfree unbinds where no lane of the group is parked on the entry, and the
last one clears the header; else it traps.
What is the model's own in it: log entry 51. -/
def Obligations.ChannelControl : Prop :=
  ∀ (n : Chan) (s : State) (l : Latch) (r : LRef), Alone s l r →
    let bid := (s.group r.1).block
    let b := s.block bid
    (∀ (a x : Reg), InRange s l [rfld codeA a 4, rfld codeB x] →
      let c := rdCap s l r codeA a
      let k := (rd s l r codeB x).val.toNat
      let off := b.offset (s.group r.1).coreOf c.space c.cursor.toNat
      let u := counted s l [rfld codeA a 4, rfld codeB x]
      let bind := fun (t : State) => past l r (t.modGroup r.1 fun g => { g with chans := g.chans.set n.toNat (some (off, k)) })
      rdBad s l r codeA a = false → (rd s l r codeB x).poison = false → c.tag = true → c.otype = 0 → (c.space = 1 ∨ c.space = 2) →
      c.perm 0 = true → c.perm 1 = true → c.cursor.toNat % 16 = 0 → k ∈ [16, 32, 64, 128, 256, 512, 1024, 2048, 4096] →
      c.base ≤ c.cursor.toNat → (c.cursor.toNat : Int) + (16 + 4 * k : Nat) ≤ c.top → c.cursor.toNat + 16 + 4 * k ≤ s.spaceSize r c.space →
      (b.ringWord off 0).poison = false → (s.group r.1).chans.getD n.toNat none = none →
      (b.ringArmed off = false → exec (.chbind n a x) s = .next (bind
        (putWord (putWord (putWord (putWord u bid off ⟨BitVec.ofNat 32 (0xC0000000 + k), false⟩) bid (off + 4) {}) bid (off + 8) {})
          bid (off + 12) ⟨1, false⟩))) ∧
      (b.ringArmed off = true → b.ringCap off = k → (b.ringWord off 3).poison = false →
        let w := (b.ringWord off 3).val.toNat
        exec (.chbind n a x) s = .next (bind (putWord u bid (off + 12)
          ⟨BitVec.ofNat 32 (w / 65536 * 65536 + (w % 65536 + 1) % 65536), false⟩)))) ∧
    (∀ (d : Reg), InRange s l [rfld codeD d] →
      let u := counted s l [rfld codeD d]
      ((s.group r.1).chans.getD n.toNat none = none → exec (.chstat d n) s = .next (past l r (u.wr r (regNo s l r codeD d) {}))) ∧
      (∀ off, Bound s r n.toNat off [0, 1, 2] →
        exec (.chstat d n) s = .next (past l r ((acquired (if b.ringClosed off then some 1 else none) r u).wr r (regNo s l r codeD d)
          ⟨BitVec.ofNat 32 (b.ringCount off % 8192 * 65536 + 4 + (if b.ringClosed off then 2 else 0) +
            if b.ringClosed off ∧ b.ringCount off = 0 then 1 else 0), false⟩)))) ∧
    (∀ off, Bound s r n.toNat off [0] →
      let u := counted s l []
      let w := (b.ringWord off 3).val.toNat % 65536
      let clean := (b.ringWord off 3).poison = false
      let free := fun (t : State) => past l r (t.modGroup r.1 fun g => { g with chans := g.chans.set n.toNat none })
      exec (.chclose n) s = .next (past l r (putWord u bid off ⟨(b.ringWord off 0).val ||| 0x08000000, (b.ringWord off 0).poison⟩)) ∧
      ((s.group r.1).parkedOn n.toNat = true → clean →
        TrapsWith (.chfree n) s l r [] 0x0C (BitVec.ofNat 64 (8 + n.toNat * 2 ^ 32))) ∧
      ((s.group r.1).parkedOn n.toNat = false → clean → 2 ≤ w →
        exec (.chfree n) s = .next (free (putWord u bid (off + 12) ⟨BitVec.ofNat 32 (w - 1), false⟩))) ∧
      ((s.group r.1).parkedOn n.toNat = false → clean → w ≤ 1 →
        exec (.chfree n) s = .next (free (unpushed (putWord (putWord (putWord (putWord u bid off {}) bid (off + 4) {}) bid (off + 8) {}) bid (off + 12) {})
          bid off))))

namespace Sys2Proof.Machine.Claims

/-! ### Terms of control flow -/

/-- No group of the gather has kill points at its blocking points. -/
def NoKills (s : State) (l : Latch) : Prop := ∀ r ∈ l.lanes, (s.group r.1).taskKill = false

/-- The instruction answers a next state in which every lane of the gather is as `f` says, and nothing else has changed. -/
def Moves (i : Instr) (s : State) (l : Latch) (f : LRef → Lane → Lane) : Prop :=
  ∃ t, exec i s = .next t ∧ LanesOnly l.lanes s t ∧ ∀ r ∈ l.lanes, t.lane r = f r (s.lane r)

/-- The address a displacement of words from the gather's word names. -/
def target (l : Latch) (disp : Int) : DWord := l.pc + BitVec.ofInt 64 (4 * disp)

/-- A lane goes on at an address under a code capability. -/
def goOn (x : Lane) (code : Cap) : Lane :=
  { x with code := code, status := .ready, heldA := none, heldB := none, pendReplay := false, stepOver := false,
           returned := [], heldBack := false, token := none }

/-- A lane that has taken a branch to `a`: one to its word or below is a blocking point that passes (R113, Table 5.3). -/
def branched (l : Latch) (a : DWord) (x : Lane) : Lane := { x with passed := x.passed || decide (a.toNat ≤ l.pc.toNat) }

/-- A lane that has entered its handler (R327): what delivery records, and where it goes. -/
def delivered (s : State) (l : Latch) (r : LRef) (cause : Byte) (data : DWord) (x : Lane) : Lane :=
  { x with
    tcause := cause.setWidth 32, tpc := l.start, tdata := data
    shadow := { loop := x.loop, map := (s.row (s.group r.1).coreOf (s.group r.1).row).map }, loop := none
    inHandler := true, status := .ready, heldA := none, heldB := none, heldBack := false, passed := false, token := none
    pendReplay := false, stepOver := false, returned := []
    code := { x.code with cursor := x.entry + x.tvec.setWidth 64 } }

/-- A code capability that bri and calli take (R114). -/
def CodeCap (s : State) (l : Latch) (r : LRef) (a : Reg) : Prop :=
  let c := rdCap s l r codeA a
  rdBad s l r codeA a = false ∧ c.tag = true ∧ c.otype = 0 ∧ c.perm 5 = true

end Sys2Proof.Machine.Claims

/-! ## Control flow -/

/-- R111, R113, R114: bra, brz, brnz and bri. A taken branch goes to the word's address plus 4 times the displacement; bri
makes cA the code capability, whose bounds are from then on those it has there. -/
def Obligations.JumpResults : Prop :=
  ∀ (s : State) (l : Latch), Ready s l → NoKills s l →
    let take := fun (disp : Int) (x : Lane) => branched l (target l disp) (goOn x (x.code.at (target l disp)))
    (∀ disp, Moves (.bra disp) s l fun _ x => take disp.toInt x) ∧
    (∀ (a : Reg) (disp : BitVec 19), InRange s l [rfld codeA a] → (∀ r ∈ l.lanes, (rd s l r codeA a).poison = false) →
      Moves (.brz a disp) s l (fun r x => if (rd s l r codeA a).val = 0 then take disp.toInt x else x.advance l.pc) ∧
      Moves (.brnz a disp) s l (fun r x => if (rd s l r codeA a).val ≠ 0 then take disp.toInt x else x.advance l.pc)) ∧
    (∀ (a : Reg), InRange s l [rfld codeA a 4] → (∀ r ∈ l.lanes, CodeCap s l r a) →
      Moves (.bri a) s l fun r x =>
        let c := rdCap s l r codeA a
        branched l c.cursor { goOn x c with anchor := c.cursor })

/-- R113 to R117: call and calli push the next word's address under the code capability and jump; with 8 entries in hardware
or more, the oldest of them first goes to the lane's return region (R353), where the ret that needs it again reads it back; a
page that does not translate faults, and a poisoned entry traps, the stack as it was; at 256 entries a call traps. ret pops
the top entry into the code capability, and with an empty stack, as exit always, it ends the lane, which leaves the lanes of
other groups, and HBM, as they were, where it was in no region, barrier or speculation.
What is the model's own in it: log entries 25, 43, 55. -/
def Obligations.CallResults : Prop :=
  (∀ (s : State) (l : Latch), Ready s l → NoKills s l →
    ((∀ r ∈ l.lanes, (s.lane r).depth < 8 ∧ (s.lane r).stack.length < 8) →
      let push := fun (x : Lane) => { x with stack := x.code.at (l.pc + 4) :: x.stack, depth := x.depth + 1 }
      (∀ disp, Moves (.call disp) s l fun _ x => branched l (target l disp.toInt) (goOn (push x) (x.code.at (target l disp.toInt)))) ∧
      (∀ (a : Reg), InRange s l [rfld codeA a 4] → (∀ r ∈ l.lanes, CodeCap s l r a) →
        Moves (.calli a) s l fun r x =>
          let c := rdCap s l r codeA a
          branched l c.cursor { goOn (push x) c with anchor := c.cursor })) ∧
    ((∀ r ∈ l.lanes, 1 ≤ (s.lane r).depth ∧ (s.lane r).depth ≤ 8) →
      Moves .ret s l fun _ x => 
        { goOn x (x.stack.headD {}) with anchor := (x.stack.headD {}).cursor, stack := x.stack.tail, depth := x.depth - 1 })) ∧
  (∀ (s : State) (l : Latch) (r : LRef) (c : Nat), Alone s l r → NoKills s l → (s.group r.1).agent = .core c →
    let g := s.group r.1
    let x := s.lane r
    let region := (s.ctx g.ctx).hdr.privbase.toNat + 4096 * (c * 32768 + g.row * 256 + g.slot + r.2)
    let asid := (s.ctx g.ctx).hdr.asid
    let pushed := fun (x : Lane) => { x with stack := (x.code.at (l.pc + 4) :: x.stack).take 8, depth := x.depth + 1 }
    let under := x.stack.getD 7 {}
    let at' := region + 16 * (x.depth - 8)
    (8 ≤ x.depth → x.depth < 256 →
      (∀ (v : State) (key pa : Nat), s.locate (some c) (dieOf c) asid at' .write = (v, .ok (.hbm key pa)) → pa % 16 = 0 →
        v.hbm.wf = true → v.lineRec pa = none → v.isRetired pa = false →
        ∀ disp : BitVec 26, ∃ t, exec (.call disp) s = .next t ∧ Spilled v t r (.hbm key pa) under ∧
          t.lane r = branched l (target l disp.toInt) (goOn (pushed x) (x.code.at (target l disp.toInt)))) ∧
      (∀ (v : State) (fatal : Bool) (reason level : Nat) (disp : BitVec 26),
        s.locate (some c) (dieOf c) asid at' .write = (v, .error (fatal, reason, level)) →
        FaultsAt (.call disp) s v l r (BitVec.ofNat 64 at') .write fatal reason level) ∧
      (∀ (a : Reg) (v : State) (key pa : Nat), InRange s l [rfld codeA a 4] → CodeCap s l r a →
        (counted s l [rfld codeA a 4]).locate (some c) (dieOf c) asid at' .write = (v, .ok (.hbm key pa)) → pa % 16 = 0 →
        v.hbm.wf = true → v.lineRec pa = none → v.isRetired pa = false →
        let k := rdCap s l r codeA a
        ∃ t, exec (.calli a) s = .next t ∧ Spilled v t r (.hbm key pa) under ∧
          t.lane r = branched l k.cursor { goOn (pushed x) k with anchor := k.cursor })) ∧
    (9 ≤ x.depth →
      let at' := region + 16 * (x.depth - 9)
      let u := counted s l []
      (∀ (v : State) (key pa : Nat), u.locate (some c) (dieOf c) asid at' .read = (v, .ok (.hbm key pa)) →
        (v.stalled pa = true → exec .ret s = .next (v.modLane r fun x => { x with heldBack := true })) ∧
        (v.stalled pa = false → v.hbmPoison pa 16 = true → Delivers s l r 0x0A → exec .ret s = .next (trapped l r 0x0A 0 v)) ∧
        (v.stalled pa = false → v.hbmPoison pa 16 = false →
          let top := x.stack.headD {}
          exec .ret s = .next (v.modLane r fun x => { goOn x top with
            anchor := top.cursor, depth := x.depth - 1
            stack := x.stack.tail ++ [capOfBytes (v.hbmBytes key pa 16) (v.hbmTag key pa)] }))) ∧
      (∀ (v : State) (fatal : Bool) (reason level : Nat), u.locate (some c) (dieOf c) asid at' .read = (v, .error (fatal, reason, level)) →
        FaultsAt .ret s v l r (BitVec.ofNat 64 at') .read fatal reason level))) ∧
  (∀ (s : State) (l : Latch) (r : LRef) (disp : BitVec 26), Alone s l r → 256 ≤ (s.lane r).depth → Delivers s l r 0x05 →
    exec (.call disp) s = .next (trapped l r 0x05 (BitVec.ofNat 64 (s.returnRegion r + 3968)) s)) ∧
  (∀ (s : State) (l : Latch) (r : LRef), Alone s l r → (s.lane r).unexited = true → (s.group r.1).region = none →
    (s.block (s.group r.1).block).roster = [] → (s.grid (s.group r.1).grid).coop = false →
    ∀ i ∈ [Instr.exit, .ret], (i = .ret → (s.lane r).depth = 0) →
      ∃ t, exec i s = .next t ∧ (t.lane r).status = .exited ∧ (t.lane r).regs = (s.lane r).regs ∧
        (∀ q : LRef, q.1 ≠ r.1 → t.lane q = s.lane q) ∧ t.hbm = s.hbm ∧ t.copies = s.copies ∧
        ∀ b, { t.block b with ranks := (s.block b).ranks } = s.block b)

/-- R42, R119, R327, R120, R159, R328: trap and bkpt take the software trap and the breakpoint trap in every lane; their data
hold the code and the word's offset in its run; rft returns, where the row's window map stands as it is, and that an rft of a
lane outside its handler restages nothing is the model's reading (log entry 60). A lane that has no handler, or is in it,
halts its context instead (R327, R333).
What is the model's own in it: log entries 22, 60. -/
def Obligations.TrapsAndReturns : Prop :=
  (∀ (s : State) (l : Latch), Ready s l →
    let off := fun (n : Nat) => BitVec.ofNat 64 (n + (l.pc - l.start).toNat / 4 % 2 ^ 32 * 2 ^ 32)
    (∀ code : BitVec 6, (∀ r ∈ l.lanes, Delivers s l r 0x10 ∧ (s.lane r).helper = false) →
      (∀ r ∈ l.lanes, ∀ q ∈ l.lanes, (s.group r.1).ctx = (s.group q.1).ctx) →
      Moves (.trap code) s l fun r x => delivered s l r 0x10 (off code.toNat) x) ∧
    (∀ tag : BitVec 26, (∀ r ∈ l.lanes, Delivers s l r 0x11 ∧ (s.lane r).helper = false) →
      (∀ r ∈ l.lanes, ∀ q ∈ l.lanes, (s.group r.1).ctx = (s.group q.1).ctx) →
      Moves (.bkpt tag) s l fun r x => delivered s l r 0x11 (off tag.toNat) x) ∧
    ((∀ r ∈ l.lanes, (s.lane r).inHandler = true →
        (s.lane r).shadow.map = (s.row (s.group r.1).coreOf (s.group r.1).row).map) →
      Moves .rft s l fun _ x =>
        { goOn x (x.code.at x.tpc) with
          loop := match x.shadow.loop with | some y => some { y with body := [] } | none => x.loop
          shadow := {}, inHandler := false })) ∧
  (∀ (s : State) (l : Latch) (r : LRef) (code : BitVec 6) (c : Nat), Alone s l r → l.agent = .core c →
    s.policy (s.group r.1).ctx 0x10 = 0 → (s.lane r).canDeliver = false → (s.lane r).unexited = true →
    (s.ctx (s.group r.1).ctx).phase = .running → (s.group r.1).isK = false →
    ∃ t, exec (.trap code) s = .next t ∧ (t.lane r).status = .faulted ∧ (t.lane r).halted = true ∧ (t.lane r).pc = l.start ∧
      (t.ctx (s.group r.1).ctx).phase = .halting ∧ (t.ctx (s.group r.1).ctx).request = .dump false ∧
      ((t.ctx (s.group r.1).ctx).entries.getLast?).map (·.kind) = some 3)

/-- R123, R124: rcvset makes the issuing lane the one member of its group's record; rcvwait of a lane that is no member goes
past; a member that arrives at the target is held there, and the last one completes the record: it is idle, and every lane
held at it, that one too, is ready at the word behind the target. R126: loop, its body fetched and legal and its count
unpoisoned: a count of 0 goes past the body; any other starts the loop state at the body's first word. -/
def Obligations.ReconvergenceAndLoopResults : Prop :=
  (∀ (s : State) (l : Latch) (r : LRef), Alone s l r →
     let u := counted s l []
     let g := s.group r.1
     (∀ (b : BitVec 3) (imm : BitVec 12), (g.lanes.all fun x => x.status != .held b.toNat) = true →
       exec (.rcvset b imm) s = .next (past l r (u.modGroup r.1 fun g =>
         { g with recs := g.recs.set b.toNat { target := target l (immOf s l r true imm).toInt, members := 1#64 <<< r.2, arrived := 0 } }))) ∧
     (∀ (b : BitVec 6), b.toNat < 8 →
       let x := g.recs.getD b.toNat {}
       ((∀ h ∈ s.groups, h.gid = r.1 → h.settleRecs = h) → x.members.getLsbD r.2 = false → exec (.rcvwait b) s = .next (past l r u)) ∧
       (x.members.getLsbD r.2 = true → l.pc = x.target → g.recs.length = 8 →
         (∀ k y, g.recs[k]? = some y → k ≠ b.toNat → y.members = 0 ∨
           ∃ i z, g.lanes[i]? = some z ∧ y.members.getLsbD i = true ∧ y.arrived.getLsbD i = false ∧ z.unexited = true) →
         (∀ h ∈ s.groups, h.gid = r.1 → h = g) →
         let arrive := fun (x : Lane) => { x with heldA := none, heldB := none, status := LaneStatus.held b.toNat }
         ((∃ k y, g.lanes[k]? = some y ∧ k ≠ r.2 ∧ x.members.getLsbD k = true ∧ x.arrived.getLsbD k = false ∧ y.unexited = true) →
           exec (.rcvwait b) s = .next (u.modGroup r.1 fun g =>
             { g with recs := g.recs.set b.toNat { x with arrived := x.arrived ||| (1#64 <<< r.2) }, lanes := g.lanes.modify r.2 arrive })) ∧
         ((∀ k y, g.lanes[k]? = some y → k ≠ r.2 → x.members.getLsbD k = true → x.arrived.getLsbD k = true ∨ y.unexited = false) →
           exec (.rcvwait b) s = .next (u.modGroup r.1 fun g =>
             { g with
               recs := g.recs.set b.toNat {}
               lanes := (g.lanes.modify r.2 arrive).map fun y =>
                 if y.status = .held b.toNat then { y with status := .ready, code := y.code.at (l.pc + 4) } else y }))))) ∧
  (∀ (s : State) (l : Latch) (r : LRef) (d : Reg) (len : BitVec 6) (v : State) (body : List Word), Alone s l r →
     fetchWords (s.work l) (l.pc + 4) (len.toNat + 1) [] = (v.work l, some body) →
     loopError (match l.agent with | .kcore _ => true | .core _ => false) l.run body = none →
     InRange v l [rfld codeD d] → (rd v l r codeD d).poison = false →
     let n := (rd v l r codeD d).val
     let u := counted v l [rfld codeD d]
     (n = 0 → exec (.loop d len) s = .next (u.modLane r fun x => goOn x (x.code.at (l.pc + 4 * BitVec.ofNat 64 (len.toNat + 2))))) ∧
     (n ≠ 0 → exec (.loop d len) s = .next (u.modLane r fun x =>
       { goOn x (x.code.at (l.pc + 4)) with
         loop := some { n := n, p := 0, i := 0, len := len.toNat + 1, steps := l.hints.lsteps, body := body.map fun w => ⟨w, false⟩ } })))

/-- R118, R119, R188, R202, R203, R296, R336: nop, fenceop and fence go past, a fence of a kind other than rel an acquire
point of its scope, at which its lanes' L1s drop what they hold (R11); yield lets the picker pass the row over for 64
gathers; dbgmark goes past where the context has no trace ring; killpt goes past where no bound is set, and kills the group's
lanes where its bound cannot beat the kill key.
What is the model's own in it: log entries 14, 70, 142. -/
def Obligations.QuietResults : Prop :=
  (∀ (s : State) (l : Latch), Ready s l →
    (∀ i ∈ [Instr.nop, .fenceop], Moves i s l fun _ x => x.advance l.pc) ∧
    (∀ k sc, ∃ t, exec (.fence k sc) s = .next t ∧ LanesOnly l.lanes (if k = 1 then s else freshL1s s l) t ∧
      ∀ r ∈ l.lanes, t.lane r = (if k = 1 then s.lane r else (s.lane r).acquire sc.toNat s.past.length).advance l.pc) ∧
    ((∀ r ∈ l.lanes, (s.ctx (s.group r.1).ctx).hdr.tracesize < 16) → ∀ m, Moves (.dbgmark m) s l fun _ x => x.advance l.pc) ∧
    ((∀ r ∈ l.lanes, (s.group r.1).bound = none) → Moves .killpt s l fun _ x => x.advance l.pc)) ∧
  (∀ (s : State) (l : Latch) (r : LRef), Alone s l r →
    (∀ c, l.agent = .core c → exec .yield s = .next (past l r ((counted s l []).modRow c l.row fun x =>
      { x with passOver := (s.core c).gathers + 64 }))) ∧
    (∀ b k, (s.group r.1).bound = some b → s.killKey (s.group r.1).ctx (dieOf (s.group r.1).coreOf) = some k →
      cannotBeat b k = true → (s.group r.1).lanes.all (fun x => !x.kill && !x.halted) = true →
      exec .killpt s = .next (past l r (((counted s l []).modGroup r.1 fun g =>
        { g with lanes := g.lanes.map fun x => if x.unexited then { x with kill := true } else x })))))

namespace Sys2Proof.Machine.Claims

/-! ### Terms of barrier objects -/

/-- Quad A names 16 bytes of scratchpad that pass steps 1 to 7 of R215, at offset `off` of the lane's block. -/
structure Obj (s : State) (l : Latch) (r : LRef) (a : Reg) (off : Nat) : Prop where
  clean : rdBad s l r codeA a = false
  tag : (rdCap s l r codeA a).tag = true
  plain : (rdCap s l r codeA a).otype = 0
  space : (rdCap s l r codeA a).space = 1 ∨ (rdCap s l r codeA a).space = 2
  perms : (rdCap s l r codeA a).perm 0 = true ∧ (rdCap s l r codeA a).perm 1 = true
  aligned : (rdCap s l r codeA a).cursor.toNat % 16 = 0
  within : (rdCap s l r codeA a).base ≤ (rdCap s l r codeA a).cursor.toNat ∧
    ((rdCap s l r codeA a).cursor.toNat : Int) + 16 ≤ (rdCap s l r codeA a).top
  size : (rdCap s l r codeA a).cursor.toNat + 16 ≤ s.spaceSize r (rdCap s l r codeA a).space
  here : off = (s.block (s.group r.1).block).offset (s.group r.1).coreOf (rdCap s l r codeA a).space (rdCap s l r codeA a).cursor.toNat
  off16 : off % 16 = 0
  present : s.present (s.group r.1).block (off / 128) = true
  held : (s.blocks.any fun x => x.bid == (s.group r.1).block) = true
  wf : (s.block (s.group r.1).block).scratch.wf = true
  core : (s.group r.1).isK = false

/-- The four words of an object (Table 12.1). -/
def objWords (t : State) (bid off : Nat) : List Word := (List.range 4).map fun i => (t.block bid).objWord off i

/-- Word 0 of an armed object: arrived and expected. -/
def armedWord (arrived expected : Nat) : Word := BitVec.ofNat 32 (0xB0000000 + arrived % 4096 * 65536 + expected % 4096)

/-- `t` is `s` but for the lane, its group's checksum, the object's 16 bytes, the block's roster, and perf counters. -/
structure ObjectOnly (s t : State) (r : LRef) (bid off : Nat) : Prop where
  lanes : ∀ q, q ≠ r → t.lane q = s.lane q
  groups : ∀ g, { (t.group g).shell with csum := 0 } = { (s.group g).shell with csum := 0 }
  ctxs : ∀ c, (t.ctx c).noPerf = (s.ctx c).noPerf
  bytes : ∀ a, (a < off ∨ off + 16 ≤ a) → (t.block bid).scratch.byte a = (s.block bid).scratch.byte a
  block : { t.block bid with scratch := {}, roster := [] } = { s.block bid with scratch := {}, roster := [] }
  blocks : ∀ b, b ≠ bid → t.block b = s.block b
  rest : { t with groups := s.groups, ctxs := s.ctxs, blocks := s.blocks } = s

/-- The lane may arrive at the armed object (reasons 1 to 4 of Table 12.4 are absent), and arrivals are not logged. -/
structure MayArrive (s : State) (r : LRef) (off slot : Nat) (e : Roster) : Prop where
  armed : (s.block (s.group r.1).block).armed off = some (slot, e)
  member : (s.group r.1).tidx r.2 < e.n
  fresh : mbit e.arrived ((s.group r.1).tidx r.2) = false
  stays : mbit e.dropped ((s.group r.1).tidx r.2) = false
  noLog : (s.ctx (s.group r.1).ctx).hdr.log = false

/-- The words of a straggler record (R224, Table 12.6): the completion is of kind 0, a block barrier, or 1, the grid's; the
lane is the last arriver; `f` is the fused entry of the first one's core. -/
def stragWords (s : State) (r : LRef) (kind f : Nat) (first last : Word) : List Word :=
  let g := s.group r.1
  [BitVec.ofNat 32 (2 ^ 31 + f % 32 * 2 ^ 21 + fusedEntry g.coreOf % 32 * 2 ^ 16 + g.gidx % 256 * 256 + g.coreOf % 256),
   BitVec.ofNat 32 (kind * 2 ^ 31 + (s.block g.block).index % 2 ^ 31), first, last]

/-- Entry `k` of a block's roster holds a record of a completion, with no arrival since. -/
def Recorded (t : State) (bid k : Nat) (ws : List Word) : Prop :=
  ∃ e, tget k (t.block bid).roster = some e ∧ e.arrived = 0 ∧ e.record.words = ws

/-- The checksum of a lane's registers (R227): each word rotates the sum left by 5 and is folded in; a poisoned word, and a
register the matrix engine owns, counts as 0. -/
def sumOf (x : Lane) (n : Nat) : DWord :=
  (List.range n).foldl (fun h k =>
    h.rotateLeft 5 ^^^ (if (x.ownerOf k).isSome ∨ (x.regs.getD k {}).poison = true then 0#64 else (x.regs.getD k {}).val.setWidth 64)) 0

end Sys2Proof.Machine.Claims

/-! ## Barriers and convergence registers -/

/-- R213, R215 to R220, R227: the barrier object's words after barinit, bararr, barsync and bardrop, the token, who waits,
and the checksum an arrival folds. The last arrival advances the phase and clears the count; a drop lowers what is expected.
Each completion leaves its straggler record in the roster (R224, Table 12.6). A lane that goes on from a wait has made an
acquire point at block scope (R221). An arrival or a drop on an unarmed object, and of a lane that may not arrive or drop,
traps with reasons 1 to 4 of Table 12.4.
What is the model's own in it: log entries 30, 116, 122, 123, 135, 142, 153. -/
def Obligations.BarrierResults : Prop :=
  ∀ (s : State) (l : Latch) (r : LRef) (a : Reg) (off : Nat), Alone s l r → Obj s l r a off →
    let bid := (s.group r.1).block
    let b := s.block bid
    let w := fun (i : Nat) => b.objWord off i
    let arrived := b.arrivedAt off
    let expected := b.expectedAt off
    (∀ (x : Reg), InRange s l [rfld codeA a 4, rfld codeB x] → (rd s l r codeB x).poison = false →
      let flds := [rfld codeA a 4, rfld codeB x]
      let n := (rd s l r codeB x).val.toNat
      let blksize := (s.grid b.grid).blksize
      let five := TrapsWith (.barinit a x) s l r flds 0x0D (BitVec.ofNat 64 (off * 4294967296 + 5))
      (n = 0 ∨ blksize < n → five) ∧
      (0 < n → n ≤ blksize → n < 4096 →
        (b.armed off = none → (∀ k, k < 32 → (tget k b.roster).isSome = true) →
          TrapsWith (.barinit a x) s l r flds 0x0D (BitVec.ofNat 64 (off * 4294967296 + 6))) ∧
        (∀ k, b.armed off = none → k < 32 → tget k b.roster = none → (∀ j, j < k → (tget j b.roster).isSome = true) →
          ∃ t, exec (.barinit a x) s = .next t ∧ ObjectOnly s t r bid off ∧ t.lane r = (s.lane r).advance l.pc ∧
            objWords t bid off = [armedWord 0 n, w 1, 0, BitVec.ofNat 32 (k * 256)] ∧
            (t.block bid).roster = tput k { off := off, n := n } b.roster) ∧
        (∀ k e, b.armed off = some (k, e) →
          (expected ≠ n → arrived ≠ 0 ∨ s.barWaiting bid off = true → five) ∧
          (expected ≠ n → arrived = 0 → s.barWaiting bid off = false →
            ∃ t, exec (.barinit a x) s = .next t ∧ ObjectOnly s t r bid off ∧ t.lane r = (s.lane r).advance l.pc ∧
              objWords t bid off = [armedWord 0 n, w 1, w 2, w 3] ∧ (t.block bid).roster = tput k { off := e.off, n := n } b.roster) ∧
          (expected = n → ∃ t, exec (.barinit a x) s = .next t ∧ ObjectOnly s t r bid off ∧ t.lane r = (s.lane r).advance l.pc ∧
            objWords t bid off = [w 0, w 1, w 2, w 3] ∧ (t.block bid).roster = b.roster)))) ∧
    (∀ (slot : Nat) (e : Roster) (d : Reg), MayArrive s r off slot e → slot < 32 →
      let now := s.clock (b.homeCore off)
      let mid := [armedWord (arrived + 1) expected, w 1, if arrived = 0 then now else w 2,
        if arrived = 0 then BitVec.ofNat 32 (slot * 256 + fusedEntry (s.group r.1).coreOf) else w 3]
      let fin := [armedWord 0 expected, w 1 + 1, 0, BitVec.ofNat 32 (slot * 256)]
      let fused := fusedEntry (s.group r.1).coreOf
      let record := fun (t : State) =>
        Recorded t bid slot (stragWords s r 0 (if arrived = 0 then fused else (w 3).toNat % 32) (if arrived = 0 then now else w 2) now)
      (InRange s l [rfld codeD d, rfld codeA a 4] →
        ∃ t, exec (.bararr (.reg d) a) s = .next t ∧ ObjectOnly s t r bid off ∧
          t.lane r = ((s.lane r).wr (regNo s l r codeD d) ⟨w 1, false⟩).advance l.pc ∧
          (t.group r.1).csum = sumOf (s.lane r) (s.group r.1).regs ∧
          (arrived + 1 = expected → record t) ∧ objWords t bid off = if arrived + 1 = expected then fin else mid) ∧
      (InRange s l [rfld codeA a 4] →
        ∃ t, exec (.barsync a) s = .next t ∧ ObjectOnly (if arrived + 1 = expected then freshL1s s l else s) t r bid off ∧
          (t.group r.1).csum = sumOf (s.lane r) (s.group r.1).regs ∧
          (arrived + 1 = expected → record t) ∧
          (if arrived + 1 = expected then t.lane r = ((s.lane r).acquire 1 s.past.length).advance l.pc ∧ objWords t bid off = fin
            else t.lane r = { s.lane r with status := .parked (.bar off (w 1)) l.pc, parkedAt := s.steps } ∧
              objWords t bid off = mid)) ∧
      (InRange s l [rfld codeA a 4] → 1 ≤ expected →
        let go := expected - 1
        ∃ t, exec (.bardrop a) s = .next t ∧ ObjectOnly s t r bid off ∧ t.lane r = (s.lane r).advance l.pc ∧
          (go ≠ 0 → arrived = go → Recorded t bid slot
            (stragWords s r 0 (if e.began then (w 3).toNat % 32 else fused) (if e.began then w 2 else now) now)) ∧
          objWords t bid off =
            if go = 0 then [0, w 1 + 1, 0, BitVec.ofNat 32 (slot * 256)]
            else if arrived = go ∧ 0 < arrived then [armedWord 0 go, w 1 + 1, 0, BitVec.ofNat 32 (slot * 256)]
            else [armedWord arrived go, w 1, w 2, w 3])) ∧
    (∀ (d : Reg), ∀ p ∈ [(Instr.bararr (.reg d) a, [rfld codeD d, rfld codeA a 4], true), (.barsync a, [rfld codeA a 4], true),
        (.bardrop a, [rfld codeA a 4], false)], InRange s l p.2.1 →
      let me := (s.group r.1).tidx r.2
      let bad := fun (n : Nat) => TrapsWith p.1 s l r p.2.1 0x0D (BitVec.ofNat 64 (off * 4294967296 + n))
      (b.armed off = none → bad 1) ∧
      (∀ k e, b.armed off = some (k, e) →
        (e.n ≤ me → bad 2) ∧ (me < e.n → p.2.2 = true → mbit e.arrived me = true → bad 3) ∧
        (me < e.n → (p.2.2 = true → mbit e.arrived me = false) → mbit e.dropped me = true → bad 4))) ∧
    (∀ (x : Reg), InRange s l [rfld codeA a 4, rfld codeB x] → (rd s l r codeB x).poison = false →
      let u := counted s l [rfld codeA a 4, rfld codeB x]
      ((rd s l r codeB x).val ≠ w 1 → exec (.barwait a (.reg x)) s = .next (past l r (acquired (some 1) r u))) ∧
      ((rd s l r codeB x).val = w 1 → exec (.barwait a (.reg x)) s = .next (parked l r (.bar off (w 1)) u)))

/-- R223, R224, R227: gbar in a cooperative grid. An arrival that is not the last waits for the generation; the last one
completes it, leaves its straggler record with the grid, and goes on, with an acquire point at device scope. In another grid
it traps with reason 7.
What is the model's own in it: log entry 116. -/
def Obligations.GridBarrierResults : Prop :=
  ∀ (s : State) (l : Latch) (r : LRef), Alone s l r →
    let gid := (s.group r.1).grid
    let g := s.grid gid
    let me := ((s.group r.1).block, (s.group r.1).tidx r.2)
    (g.coop = false → TrapsWith .gbar s l r [] 0x0D (BitVec.ofNat 64 (0xFFFFFFFF * 2 ^ 32 + 7))) ∧
    ((s.grids.any fun x => x.uid == gid) = true → g.coop = true → (s.group r.1).isK = false →
    (s.ctx (s.group r.1).ctx).hdr.log = false →
    let all := (s.gridThreads gid).all fun x => (g.gbarArrived ++ [me]).contains x
    let now := s.clock g.home
    let first := if g.gbarArrived = [] then now else g.gbarFirst
    let fspeed := if g.gbarArrived = [] then fusedEntry (s.group r.1).coreOf else g.gbarFspeed
    ∃ t, exec .gbar s = .next t ∧ t.hbm = s.hbm ∧ t.blocks = s.blocks ∧ (∀ q, q ≠ r → t.lane q = s.lane q) ∧
      (t.group r.1).csum = sumOf (s.lane r) (s.group r.1).regs ∧
      (all = false → t.lane r = { s.lane r with status := .parked (.gbar g.gbarGen) l.pc, parkedAt := s.steps } ∧
        (t.grid gid).gbarGen = g.gbarGen ∧ (t.grid gid).gbarArrived = g.gbarArrived ++ [me] ∧
        (t.grid gid).gbarFirst = first ∧ (t.grid gid).gbarFspeed = fspeed) ∧
      (all = true → t.lane r = ((s.lane r).acquire 3 s.past.length).advance l.pc ∧ (t.grid gid).gbarGen = g.gbarGen + 1 ∧
        (t.grid gid).gbarArrived = [] ∧ (t.grid gid).gbarRecord.words = stragWords s r 1 fspeed first now))

/-- R226 to R228, R224, R225, R278: cvinit arms a convergence register; a plain signature counts, and the last one of a
generation starts the next; strag reads the object's record, or zeros; csum folds the issuing lane's registers.
What is the model's own in it: log entries 65, 116, 142. -/
def Obligations.ConvergenceResults : Prop :=
  ∀ (s : State) (l : Latch) (r : LRef), Alone s l r →
    let bid := (s.group r.1).block
    let b := s.block bid
    (∀ (n : BitVec 6) (a : Reg), InRange s l [rfld codeA a] → (rd s l r codeA a).poison = false →
      let k := (rd s l r codeA a).val.toNat
      let v := b.cv n.toNat
      0 < k → k ≤ (s.grid (s.group r.1).grid).blksize → v.signed = 0 →
      exec (.cvinit n a) s = .next (past l r ((counted s l [rfld codeA a]).modBlock bid fun x =>
        { x with cvs := tput n.toNat { v with count := k } x.cvs }))) ∧
    (∀ (n : BitVec 6),
      let v := b.cv n.toNat
      let me := (s.group r.1).tidx r.2
      v.count ≠ 0 → mbit v.mask me = false → (v.kind = 0 ∨ v.kind = 1) →
      (v.signed + 1 ≠ v.count → exec (.cvsign n) s = .next (past l r
        (((counted s l []).modBlock bid fun x =>
          { x with cvs := tput n.toNat { v with kind := 1, signed := v.signed + 1, mask := mset v.mask me } x.cvs }).modLane r fun x =>
          { x with sigs := tput n.toNat (.plain v.gen) x.sigs }))) ∧
      (v.signed + 1 = v.count → (s.blocks.any fun x => x.bid == bid) = true → (∀ x ∈ s.blocks, x.bid = bid → x = b) →
        ∃ t, exec (.cvsign n) s = .next t ∧
        (t.block bid).cv n.toNat = { v with gen := (v.gen + 1) % 64, signed := 0, kind := 0, mask := 0 } ∧
        (t.lane r).pc = ((s.lane r).advance l.pc).pc ∧ (t.lane r).regs = (s.lane r).regs ∧ t.hbm = s.hbm ∧
        (s.has r → (s.group r.1).isK = false → tget n.toNat (t.lane r).sigs = some Sig.passed) ∧
        (∀ x, (t.block x).scratch = (s.block x).scratch))) ∧
    (∀ (d a : Reg) (off : Nat), Obj s l r a off → InRange s l [rfld codeD d 4, rfld codeA a 4] →
      let ws := match b.armed off with
        | some (_, e) => e.record.words
        | none => List.replicate 4 0
      exec (.strag d a) s = .next (past l r ((counted s l [rfld codeD d 4, rfld codeA a 4]).wrs r (regNo s l r codeD d)
        (ws.map fun x => ⟨x, false⟩)))) ∧
    (∀ (d : Reg), InRange s l [rfld codeD d 2] →
      let h := sumOf (s.lane r) (s.group r.1).regs
      exec (.csum d) s = .next (past l r ((counted s l [rfld codeD d 2]).wrs r (regNo s l r codeD d)
        [⟨lo32 h, false⟩, ⟨hi32 h, false⟩])))

/-! ## Copies -/

/-- R172 to R178, R182, R183, R262 to R265: cpyin and cpyout put one copy of the issuing lane into their core's queue under
the group's next number; cpycvt puts a conversion; cpywait parks while its number is outstanding, and else its lane's L1
drops what it holds, so that the lane reads what the copies have written; pres tells whether a line is present; pclr makes
lines wait for every byte of them.
What is the model's own in it: log entries 61, 142. -/
def Obligations.CopyResults : Prop :=
  ∀ (s : State) (l : Latch) (r : LRef), Alone s l r →
    let g := s.group r.1
    let bid := g.block
    let room := (s.copies.filter fun c => c.core == g.coreOf).length < 128
    let queued := fun (u : State) (copyIn : Bool) (x : Xfer) => past l r
      { u.modGroup r.1 (fun y => { y with engseq := y.engseq + 1 }) with
        nextId := u.nextId + 1
        copies := u.copies ++ [{
          id := u.nextId, core := g.coreOf, ctx := g.ctx, gid := r.1, block := bid, pc := l.pc,
          entry := (s.lane r).entry, seq := g.engseq, copyIn := copyIn, xfers := [x] }] }
    (∀ (d a b : Reg), InRange s l (copyFlds d a b) → room → (s.lane r).tiletag = 0 →
      let cd := rdCap s l r codeD d
      let ca := rdCap s l r codeA a
      let n := (rd s l r codeB b).val.toNat
      let scratch := fun (c : Cap) => (c.space = 1 ∨ c.space = 2) ∧ c.cursor.toNat + n ≤ s.spaceSize r c.space
      let ok := fun (c : Cap) (p : Nat) => c.tag = true ∧ c.otype = 0 ∧ c.perm p = true ∧ c.cursor.toNat % 16 = 0 ∧
        c.base ≤ c.cursor.toNat ∧ (c.cursor.toNat : Int) + n ≤ c.top
      let off := fun (c : Cap) => (s.block bid).offset g.coreOf c.space c.cursor.toNat
      let u := counted s l (copyFlds d a b)
      rdBad s l r codeD d = false → rdBad s l r codeA a = false → (rd s l r codeB b).poison = false → ok cd 1 → ok ca 0 →
      n % 16 = 0 → 0 < n →
      (scratch cd → ca.space = 0 → exec (.cpyin d a b) s = .next (queued u true
        {
          lane := r.2, src := .global ca.cursor.toNat, dst := .scratch (off cd), len := n, total := n / 16,
          tags := ca.perm 2 && cd.perm 3, through := cd })) ∧
      (scratch ca → cd.space = 0 → exec (.cpyout d a b) s = .next (queued u false
        {
          lane := r.2, src := .scratch (off ca), dst := .global cd.cursor.toNat, len := n, total := n / 16,
          tags := ca.perm 2 && cd.perm 3, through := cd }))) ∧
    (∀ (d a b : Reg), InRange s l (copyFlds d a b) → room → (s.lane r).tiletag = 0 →
      let x : CopyArgs := {
        cd := rdCap s l r codeD d, pd := rdBad s l r codeD d, ca := rdCap s l r codeA a,
        pa := rdBad s l r codeA a, b := rd s l r codeB b }
      let off := (s.block bid).offset g.coreOf x.cd.space x.cd.cursor.toNat
      let h := hdrOf ((List.range 8).map fun i => ((s.block bid).scratch.word 8 (off + 4 * i)).val)
      x.verdict true [0, 1] = none → s.cvtVerdict r x = none → s.imageVerdict r x = none → g.isK = false →
      (∀ k ∈ unitsOf 128 off 32, s.present bid k = true) →
      exec (.cpycvt d a b) s = .next (queued (counted s l (copyFlds d a b)) true
        {
          lane := r.2, src := .global x.ca.cursor.toNat, dst := .scratch off, len := h.size, total := 64 * h.segs,
          conv := some {
            header := (List.range 8).map fun i => ((s.block bid).scratch.word 8 (off + 4 * i)).val, image := off,
            stride := x.b.val.toNat / 65536, src := x.b.val.toNat % 4 } })) ∧
    (∀ (a : Reg), InRange s l [rfld codeA a] → (rd s l r codeA a).poison = false →
      let n := (rd s l r codeA a).val
      let u := counted s l [rfld codeA a]
      (s.outstanding r.1 n = false → exec (.cpywait a) s = .next (past l r (freshL1s u l))) ∧
      (s.outstanding r.1 n = true → exec (.cpywait a) s = .next (parked l r (.copies n) u))) ∧
    (∀ (d a b : Reg),
      let c := rdCap s l r codeA a
      let off := (s.block bid).offset g.coreOf c.space c.cursor.toNat
      rdBad s l r codeA a = false → c.tag = true → c.otype = 0 → (c.space = 1 ∨ c.space = 2) →
      (InRange s l [rfld codeD d, rfld codeA a 4] → c.perm 0 = true → c.cursor.toNat < s.spaceSize r c.space →
        exec (.pres (.reg d) a) s = .next (past l r ((counted s l [rfld codeD d, rfld codeA a 4]).wr r (regNo s l r codeD d)
          ⟨if s.present bid (off / 128) = true then 1 else 0, false⟩))) ∧
      (InRange s l [rfld codeA a 4, rfld codeB b] → c.perm 1 = true → (rd s l r codeB b).poison = false →
        let n := (rd s l r codeB b).val.toNat
        c.base ≤ c.cursor.toNat → (c.cursor.toNat : Int) + n ≤ c.top → c.cursor.toNat + n ≤ s.spaceSize r c.space →
        exec (.pclr a b) s = .next (past l r ((counted s l [rfld codeA a 4, rfld codeB b]).modBlock bid fun y =>
          { y with pclr := (unitsOf 128 off n).foldl (fun t k => tput k 0 t) y.pclr }))))

/-! ## The matrix engine -/

namespace Sys2Proof.Machine.Claims

/-! ### Terms of the vote -/

/-- Two signers' format words differ (R272, reason 1). -/
def FormatsDiffer (os : List Signer) : Prop := ∃ x ∈ os, ∃ y ∈ os, x.fmt ≠ y.fmt

/-- Two signers' images are not at one place (R272, reason 2). -/
def ImagesDiffer (os : List Signer) : Prop := ∃ x ∈ os, ∃ y ∈ os, x.aOff ≠ y.aOff ∨ x.bOff ≠ y.bOff

/-- Some signer's F register, or a register of its cA or cB, lies among its accumulators, and acc (bits 17:16) is not 1
(R272, reason 3). -/
def OperandsInside (os : List Signer) : Prop :=
  ∃ x ∈ os, x.fmt.toNat / 2 ^ 16 % 4 ≠ 1 ∧ ∃ n, x.d ≤ n ∧ n < x.d + 4096 / os.length ∧
    (n = x.f ∨ n / 4 = x.ca ∨ n / 4 = x.cb)

/-- The vote over the signers fails for a reason. -/
def VoteFails (os : List Signer) (reason : Nat) : Prop :=
  (reason = 1 ∧ FormatsDiffer os) ∨ (reason = 2 ∧ ¬ FormatsDiffer os ∧ ImagesDiffer os) ∨
  (reason = 3 ∧ ¬ FormatsDiffer os ∧ ¬ ImagesDiffer os ∧ OperandsInside os)

/-- The vote over the signers passes. -/
def VotePasses (os : List Signer) : Prop := ¬ FormatsDiffer os ∧ ¬ ImagesDiffer os ∧ ¬ OperandsInside os

/-- The lane of a signer. -/
def signerLane (x : Signer) : LRef := (x.gid, x.lane)

end Sys2Proof.Machine.Claims

/-- R256, R270 to R273, R278 to R280: mx signs its convergence register with kind 2 and holds the lane, opening an operation
with its first signature and joining it with a later one; the last signature of a generation rearms the register and brings
the vote, which traps every signer for one of three reasons, or takes the set a ticket; an operation whose crew holds the
baton enters its engine's queue, if it has room, as the step closes: each group takes a number, the accumulators are owned,
and the signers go on. mxwait sets the crew and waits for what the lane signed last, and goes on from it with an acquire
point (a lane that has signed nothing goes past without one, as the model reads R226, log entry 116); btake takes a ticket
and waits for the baton; bpass gives it up, as does the last thread of a crew that leaves it where others of it have exited;
mxzero clears 16 registers.
What is the model's own in it: log entries 50, 63, 116, 142, 157. -/
def Obligations.MatrixResults : Prop :=
  (∀ (s : State) (l : Latch) (r : LRef), Alone s l r →
    let bid := (s.group r.1).block
    let b := s.block bid
    let u := counted s l []
    let crewed := fun (n : Nat) (t : State) => t.modLane r fun x => { x with crew := n }
    let stays := fun (n : Nat) => (s.lane r).crew = n ∨ (s.core b.core0).tickets.contains (bid, (s.lane r).crew) = false
    (∀ (d f : Reg) (ca cb : Quad) (cv : BitVec 4),
      let flds := [rfld codeD d, rfld 8 f, qfld ca, qfld cb 32]
      let v := b.cv cv.toNat
      let me := (s.group r.1).tidx r.2
      InRange s l [rfld codeD d (s.accumulators r cv.toNat)] → InRange s l flds →
      ((counted s l flds).work l).mxVerdict r f ca cb cv.toNat = none → v.signed + 1 ≠ v.count → s.signing bid cv.toNat = none →
      ∃ t, exec (.mx d f ca cb cv) s = .next t ∧
        t.lane r = { s.lane r with
          crew := cv.toNat, sigs := tput cv.toNat (.matrix s.nextId) (s.lane r).sigs, status := .parked (.signed cv.toNat) l.pc
          parkedAt := s.steps } ∧
        (∀ q, q ≠ r → t.lane q = s.lane q) ∧ t.hbm = s.hbm ∧ (∀ x, (t.block x).scratch = (s.block x).scratch) ∧
        ((s.blocks.any fun x => x.bid == bid) = true →
          (t.block bid).cv cv.toNat = { v with kind := 2, signed := v.signed + 1, mask := mset v.mask me }) ∧
        t.ops = s.ops ++ [{
            id := s.nextId, ctx := (s.group r.1).ctx, block := bid, core := b.core0, cv := cv.toNat, pc := l.pc,
            entry := (s.lane r).entry, signers := [((counted s l flds).work l).signerOf r d f ca cb], phase := .signing }]) ∧
    (∀ (d f : Reg) (ca cb : Quad) (cv : BitVec 4) (o : MxOp),
      let flds := [rfld codeD d, rfld 8 f, qfld ca, qfld cb 32]
      let v := b.cv cv.toNat
      let os := o.signers ++ [((counted s l flds).work l).signerOf r d f ca cb]
      let signed := { s.lane r with crew := cv.toNat, sigs := tput cv.toNat (.matrix o.id) (s.lane r).sigs, parkedAt := s.steps }
      InRange s l [rfld codeD d (s.accumulators r cv.toNat)] → InRange s l flds →
      ((counted s l flds).work l).mxVerdict r f ca cb cv.toNat = none → s.signing bid cv.toNat = some o →
      (∀ y ∈ s.ops, y.id = o.id → y = o) → (s.blocks.any fun x => x.bid == bid) = true →
      (v.signed + 1 ≠ v.count → ∃ t, exec (.mx d f ca cb cv) s = .next t ∧
        t.lane r = { signed with status := .parked (.signed cv.toNat) l.pc } ∧ (∀ q, q ≠ r → t.lane q = s.lane q) ∧ t.hbm = s.hbm ∧
        (∀ x, (t.block x).scratch = (s.block x).scratch) ∧
        (t.block bid).cv cv.toNat = { v with kind := 2, signed := v.signed + 1, mask := mset v.mask ((s.group r.1).tidx r.2) } ∧
        t.ops = s.ops.map fun y => if y.id = o.id then { y with signers := os } else y) ∧
      (v.signed + 1 = v.count → VotePasses os → stays cv.toNat → ∃ t tag, exec (.mx d f ca cb cv) s = .next t ∧
        t.lane r = { signed with status := .parked .baton l.pc } ∧
        (∀ y ∈ o.signers, signerLane y ≠ r → ∀ pc, (s.lane (signerLane y)).status = .parked (.signed cv.toNat) pc →
          t.lane (signerLane y) = { s.lane (signerLane y) with status := .parked .baton pc, parkedAt := s.steps }) ∧
        (∀ q, q ≠ r → (∀ y ∈ o.signers, signerLane y ≠ q) → t.lane q = s.lane q) ∧
        (t.block bid).cv cv.toNat = { v with gen := (v.gen + 1) % 64, signed := 0, kind := 0, mask := 0 } ∧
        t.ops = (s.ops.map fun y => if y.id = o.id then { y with signers := os, phase := .baton, tag := tag } else y) ∧
        (t.core o.core).tickets =
          let crew := (o.block, o.cv)
          if (s.core o.core).tickets.contains crew then (s.core o.core).tickets else (s.core o.core).tickets ++ [crew]) ∧
      (∀ reason, v.signed + 1 = v.count → VoteFails os reason → stays cv.toNat → (∃ c, l.agent = .core c) → (os.map signerLane).Nodup → s.has r →
        (s.lane r).unexited = true →
        (∀ y ∈ os, (s.group y.gid).ctx = (s.group r.1).ctx ∧ s.policy (s.group y.gid).ctx 0x02 = 0 ∧
          ((s.lane (signerLane y)).unexited = true → (s.lane (signerLane y)).canDeliver = true)) →
        ∃ t, exec (.mx d f ca cb cv) s = .next t ∧ t.ops = s.ops.filter (fun y => y.id != o.id) ∧
          (∀ c, (t.core c).tickets = (s.core c).tickets) ∧ (∀ g, (t.group g).engseq = (s.group g).engseq) ∧ t.hbm = s.hbm ∧
          (t.block bid).cv cv.toNat = { v with gen := (v.gen + 1) % 64, signed := 0, kind := 0, mask := 0 } ∧
          (∀ q, (∀ y ∈ os, signerLane y ≠ q) → t.lane q = s.lane q) ∧
          ∀ y ∈ os, s.has (signerLane y) → (s.lane (signerLane y)).unexited = true →
            let x := s.lane (signerLane y)
            let z := t.lane (signerLane y)
            z.tcause = 2 ∧ z.tpc = x.pc ∧ z.tdata = pair64 (BitVec.ofNat 32 reason) y.fmt ∧ z.inHandler = true ∧ z.status = .ready ∧
            z.pc = x.entry + x.tvec.setWidth 64 ∧ z.regs = x.regs ∧ z.owned = x.owned)) ∧
    (∀ (n : BitVec 6), stays n.toNat →
      (tget n.toNat (s.lane r).sigs = none → exec (.mxwait n) s = .next (past l r (crewed n.toNat u))) ∧
      (∀ op, tget n.toNat (s.lane r).sigs = some (Sig.matrix op) →
        ((s.ops.any fun o => o.id == op) = true → exec (.mxwait n) s = .next (parked l r (.op op) (crewed n.toNat u))) ∧
        ((s.ops.any fun o => o.id == op) = false → exec (.mxwait n) s = .next (past l r (acquired (some 1) r (crewed n.toNat u))))) ∧
      (∀ gen, tget n.toNat (s.lane r).sigs = some (Sig.plain gen) →
        ((b.cv n.toNat).gen = gen → exec (.mxwait n) s = .next (parked l r (.plain n.toNat gen) (crewed n.toNat u))) ∧
        ((b.cv n.toNat).gen ≠ gen → exec (.mxwait n) s = .next (past l r (acquired (some 1) r (crewed n.toNat u))))) ∧
      (tget n.toNat (s.lane r).sigs = some Sig.passed →
        exec (.mxwait n) s = .next (past l r (acquired (some 1) r (crewed n.toNat u))))) ∧
    (let crew := (bid, (s.lane r).crew)
     let tickets := (s.core b.core0).tickets
     let took := fun (t : State) => t.modCore b.core0 fun k => { k with tickets := k.tickets ++ [crew] }
     let passed := fun (t : State) => (t.modCore b.core0 fun k =>
       { k with tickets := k.tickets.filter fun t => !(t == crew) }).modBlock bid fun x =>
         { x with ranks := tdel (s.lane r).crew x.ranks }
     let names := fun (q : LRef) => s.has q ∧ (s.group q.1).block = bid ∧ (s.lane q).helper = false ∧ (s.lane q).crew = crew.2
     (∀ (n : BitVec 6), n.toNat ≠ crew.2 → tget n.toNat (s.lane r).sigs = none → tickets.contains crew = true →
       (∃ q, names q ∧ (s.lane q).status = .exited) → (∀ q, q ≠ r → names q → (s.lane q).unexited = false) →
       (∀ g ∈ s.groups, g = s.group g.gid) →
       exec (.mxwait n) s = .next (past l r (passed (crewed n.toNat u)))) ∧
     (tget (s.lane r).crew b.ranks = none ∨ (∀ x ∈ s.blocks, x.rest = none) →
     (tickets = [] → exec .btake s = .next (past l r (took u))) ∧
     (tickets ≠ [] → tickets.contains crew = false → exec .btake s = .next (parked l r .baton (took u))) ∧
     (tickets.head? = some crew → exec .btake s = .next (past l r u)) ∧
     (tickets.head? = some crew → exec .bpass s = .next (past l r (passed u))) ∧
     (tickets.head? ≠ some crew → exec .bpass s = .next (past l r u))))) ∧
  (∀ (s : State) (o : MxOp), o ∈ s.ops → o.phase = .baton → (∀ y ∈ s.ops, y.phase = .baton → y = o) → (s.ops.map (·.id)).Nodup →
    (s.ctx o.ctx).phase = .running → (s.core o.core).tickets.head? = some (o.block, o.cv) →
    (tget o.cv (s.block o.block).ranks = none ∨ ∀ x ∈ s.blocks, x.rest = none) →
    (s.ops.filter fun y => y.core == o.core && y.phase != .signing && y.phase != .baton).length < 4 →
    (o.signers.map signerLane).Nodup → (∀ y ∈ o.signers, s.has (signerLane y)) →
    let t := s.settleEngines
    (∃ p, t.ops = s.ops.filter (fun y => y.id != o.id) ++ [p] ∧ p.id = o.id ∧ p.phase = .queued ∧ p.signers = o.signers ∧
      ∀ y ∈ o.signers, (y.gid, (s.group y.gid).engseq) ∈ p.nums) ∧
    (∀ y ∈ o.signers, (t.group y.gid).engseq = (s.group y.gid).engseq + 1) ∧
    (∀ g, (∀ y ∈ o.signers, y.gid ≠ g) → (t.group g).engseq = (s.group g).engseq) ∧ t.hbm = s.hbm ∧ t.blocks = s.blocks ∧
    (∀ q, (∀ y ∈ o.signers, signerLane y ≠ q) → t.lane q = s.lane q) ∧
    ∀ y ∈ o.signers, ∀ pc, (s.lane (signerLane y)).status = .parked .baton pc →
      t.lane (signerLane y) =
        { s.lane (signerLane y) with owned := (s.lane (signerLane y)).owned ++ [(y.d, 4096 / o.signers.length, o.id)] }.advance pc) ∧
  (∀ (d : Reg) (s : State) (l : Latch), Ready s l → InRange s l [rfld codeD d 16] →
    GivesWords (.mxzero d) s l d fun _ => List.replicate 16 {})

namespace Sys2Proof.Machine.Claims

/-! ### Terms of launches -/

/-- A capability is a good handle of the lane's context (R238). -/
def Handle (s : State) (l : Latch) (r : LRef) (code : Nat) (n : Reg) : Prop :=
  let c := rdCap s l r code n
  rdBad s l r code n = false ∧ c.tag = true ∧ c.otype = 2 ∧
  c.cursor.toNat / 2 ^ 24 % 256 = (s.ctx (s.group r.1).ctx).hdr.key.toNat

/-- The frame that a handle names: its granule's, if its generation is the granule's (R238). -/
def named (s : State) (r : LRef) (c : Cap) : Option Frame :=
  let x := s.ctx (s.group r.1).ctx
  if (tget (c.cursor.toNat % 2 ^ 24) x.gens).getD 0 = hi32 c.cursor then x.frames.find? fun f => f.granule == c.cursor.toNat % 2 ^ 24
  else none

/-- A handle whose frame is freed was that of a grid that completed as failed, as the context keeps it. -/
def Failed (s : State) (r : LRef) (h : Cap) : Prop :=
  ∃ y ∈ (s.ctx (s.group r.1).ctx).failures, y.2.1 = h.cursor.toNat % 2 ^ 24 ∧ y.2.2 = hi32 h.cursor

/-- What a passing launch has done (R232, R233, R235, R239, R241) to the state `z` in which its frame's granules are zeroed:
one more grid, as its record says, at the back of its context's launch queue, with a frame at the lowest free run of
granules, whose handle is in quad D. -/
def Launched (s z t : State) (l : Latch) (r : LRef) (d : Reg) (x : LaunchRec) (k : Nat) (pred : Option Nat) : Prop :=
  let p := s.grid (s.group r.1).grid
  let c := s.ctx p.ctx
  t.hbm = z.hbm ∧ ∃ g : Grid, t.grids = z.grids ++ [g] ∧ g.uid = s.nextId ∧ g.ctx = p.ctx ∧ g.frame = k ∧
    g.dimx = (x.word 4).toNat ∧ g.dimy = (x.word 5).toNat % 65536 ∧ g.dimz = (x.word 5).toNat / 65536 ∧
    g.blksize = (x.word 6).toNat % 4096 ∧ g.width = 8 * 2 ^ ((x.word 6).toNat / 4096 % 4) ∧
    g.regs = 8 * ((x.word 6).toNat / 16384 % 8 + 1) ∧ g.level = (x.word 6).toNat / 131072 % 8 ∧
    g.lines = (x.word 7).toNat % 65536 ∧ g.granules = max ((x.word 7).toNat / 65536 % 1024) 1 ∧
    g.coop = x.coop ∧ g.depth = p.depth + 1 ∧ g.parent = some p.uid ∧ g.pred = pred ∧ g.state = .queued ∧
    g.display = p.display.take g.level ++ [mkCap (c.hdr.poolbase.toNat + 256 * k) 0x5F 0 0 (c.hdr.poolbase.toNat + 256 * k)
      (c.hdr.poolbase.toNat + 256 * k + 256 * g.granules)] ∧
    g.code = (if x.code.tag then x.code else (s.lane r).code.at ((s.lane r).entry + x.code.cursor)) ∧
    g.anchor = (if x.code.tag then x.code.cursor else (s.lane r).anchor) ∧
    t.launchQueue c.hdr.priority = s.launchQueue c.hdr.priority ++ [g.uid] ∧
    ((t.ctx p.ctx).frames.getLast?).map (fun f => (f.granule, f.len, f.grid, f.refs)) = some (k, g.granules, g.uid, 1) ∧
    t.lane r = (putCap (z.lane r) (regNo s l r codeD d)
      (mkHandle (k + c.hdr.key.toNat * 2 ^ 24 + ((tget k c.gens).getD 0).toNat * 2 ^ 32) 0 2) []).advance l.pc ∧
    (∀ q, q ≠ r → t.lane q = z.lane q) ∧ t.blocks = s.blocks ∧
    ((∀ k, k < 4 → (s.die k).dir = []) → z.grids = s.grids ∧ ∀ q, z.lane q = s.lane q)

end Sys2Proof.Machine.Claims

/-! ## Launches -/

/-- R232 to R242: a launch whose 32-byte record has been read unpoisoned and passes its checks, with a run of granules free
and zeroed, makes a grid and delivers its handle; launcha orders it behind the grid that its second handle names. (Zeroing
writes as a store of the hardware does: it may abort a region that has records there, R310.) A poisoned record, one of the
reasons 1 to 7 of Table 13.3 and a request above the pool trap, and with no run of granules the lane parks in the queue for
them. join parks while the named grid runs; jpoll delivers its status word. A handle whose frame is freed names a grid that
has completed (R238). A join that finds its grid completed and a jpoll that delivers done are acquire points at device scope,
unless the grid failed, whose completion orders nothing (R243); so is a parked join that goes on. A bad handle traps. (A
cooperative grid that launch places at once is not in this statement.)
What is the model's own in it: log entries 69, 99, 116, 142. -/
def Obligations.LaunchResults : Prop :=
  ∀ (s : State) (l : Latch) (r : LRef), Alone s l r →
    let p := s.grid (s.group r.1).grid
    let c := s.ctx p.ctx
    (∀ (d a b : Reg) (i : Instr) (flds : List Fld) (pred : Option Nat) (v z : State) (x : LaunchRec) (k : Nat),
      (i = .launch d a ∧ flds = [rfld codeD d 4, rfld codeA a 4] ∧ pred = none) ∨
        (i = .launcha d a b ∧ flds = [rfld codeD d 4, rfld codeA a 4, rfld codeB b 4] ∧ Handle s l r codeB b ∧
          pred = (named s r (rdCap s l r codeB b)).map (·.grid)) →
      InRange s l flds → p.ctx = (s.group r.1).ctx →
      ((counted s l flds).work l).loadRecord r (rdCap s l r codeA a) (rdBad s l r codeA a) = (v.work l, some x) →
      ((∃ w ∈ x.ws, w.poison = true) → Delivers s l r 0x0A →
        exec i s = .next (trapped l r 0x0A (rdCap s l r codeA a).cursor v)) ∧
      ((∀ w ∈ x.ws, w.poison = false) →
        (∀ n, x.reason p (s.lane r) = some n → Delivers s l r 0x14 → exec i s = .next (trapped l r 0x14 (BitVec.ofNat 64 n) v)) ∧
        (x.reason p (s.lane r) = none → c.hdr.poolsize < x.granules → Delivers s l r 0x13 →
          exec i s = .next (trapped l r 0x13 (BitVec.ofNat 64 (c.hdr.poolsize % 2 ^ 32 * 2 ^ 32 + x.granules % 2 ^ 32)) v)) ∧
        (x.reason p (s.lane r) = none → x.granules ≤ c.hdr.poolsize → c.granQ = [] →
          (c.findRun x.granules = none → exec i s = .next (parked l r .granules (v.modCtx p.ctx fun y =>
            { y with granQ := [(r.1, r.2, x.granules)] }))) ∧
          (c.findRun x.granules = some k → (x.coop = true → i = .launcha d a b) →
            zeroGranules (some (s.group r.1).coreOf) (dieOf (s.group r.1).coreOf) c.hdr.asid x.granules v (c.granuleAt k) = .ok z →
            ∃ t, exec i s = .next t ∧ Launched s z t l r d x k pred)))) ∧
    (∀ (d a : Reg), ∀ e ∈ [(Instr.join a, [rfld codeA a 4]), (.jpoll (.reg d) a, [rfld codeD d, rfld codeA a 4])],
      InRange s l e.2 →
      let h := rdCap s l r codeA a
      (rdBad s l r codeA a = true → TrapsWith e.1 s l r e.2 0x0A h.cursor) ∧
      (rdBad s l r codeA a = false → h.tag = false → TrapsWith e.1 s l r e.2 0x04 h.cursor) ∧
      (rdBad s l r codeA a = false → h.tag = true →
        h.otype ≠ 2 ∨ h.cursor.toNat / 2 ^ 24 % 256 ≠ (s.ctx (s.group r.1).ctx).hdr.key.toNat → TrapsWith e.1 s l r e.2 0x07 h.cursor)) ∧
    (∀ (a : Reg), InRange s l [rfld codeA a 4] → Handle s l r codeA a →
      let u := counted s l [rfld codeA a 4]
      let h := rdCap s l r codeA a
      let on := fun (failed : Prop) =>
        (¬ failed → exec (.join a) s = .next (past l r (acquired (some 3) r u))) ∧ (failed → exec (.join a) s = .next (past l r u))
      (named s r h = none → on (Failed s r h)) ∧
      (∀ y, named s r h = some y → y.done = true → on (y.failed = true)) ∧
      (∀ y, named s r h = some y → y.done = false → exec (.join a) s = .next (parked l r (.grid y.grid) u))) ∧
    (∀ (d a : Reg), InRange s l [rfld codeD d, rfld codeA a 4] → Handle s l r codeA a →
      let u := counted s l [rfld codeD d, rfld codeA a 4]
      let gives := fun (v : State) (x : Word) => exec (.jpoll (.reg d) a) s = .next (past l r (v.wr r (regNo s l r codeD d) ⟨x, false⟩))
      let h := rdCap s l r codeA a
      (named s r h = none → ¬ Failed s r h → gives (acquired (some 3) r u) 5) ∧
      (named s r h = none → Failed s r h → gives u 5) ∧
      (∀ y, named s r h = some y →
        (y.done = true → y.failed = false → gives (acquired (some 3) r u) 1) ∧ (y.done = true → y.failed = true → gives u 3) ∧
        (y.done = false → gives u 0))) ∧
    (∀ (q : LRef) (g : Nat) (pc : DWord), (s.lane q).status = .parked (.grid g) pc → (s.lane q).halted = false →
      (s.lane q).kill = false → (∀ x ∈ s.grids, x.uid = g → x.state = .completed ∨ x.state = .failed) →
      let t := s.modLane q fun x => x.advance pc
      s.wake q = if ∃ y ∈ (s.ctx (s.group q.1).ctx).failures, y.1 = g then t else acquired (some 3) q t)

/-! ## Tasks and incumbents -/

/-- R286 to R294: a nemit of a record that can still win, to a bin with room that it does not fill, appends the record and
arms the bin's timer; one that cannot win is dropped and counted; to a full bin, and to one that an earlier lane still waits
for, the lane parks; a node number of 256 or more, or of no entry, is a launch fault; bound sets its group's bound; incrd
reads the die's replica; incimp, an acquire point of its lane (R295), improves the home, and every die's replica is on its
way, if its key is better, and the lane waits for the replicas.
What is the model's own in it: log entries 8, 68, 69, 116, 142. -/
def Obligations.TaskResults : Prop :=
  ∀ (s : State) (l : Latch) (r : LRef), Alone s l r →
    let ctx := (s.group r.1).ctx
    let c := s.ctx ctx
    let die := dieOf (s.group r.1).coreOf
    let reg := fun (k : Nat) => tget k c.slots
    (∀ (a b : Reg) (n : Node) (v : State) (rec' : List PWord),
      let flds := [rfld codeA a 4, rfld codeB b]
      let k := (rd s l r codeB b).val.toNat
      let old := (c.bin die k).records
      let awaited := ∃ q ∈ (c.bin die k).waiters, (s.lane q).halted = false ∧ (s.lane q).kill = false ∧ (s.group q.1).evicted = false
      InRange s l flds → (rd s l r codeB b).poison = false → tget k c.nodes = some n →
      ((counted s l flds).work l).loadTask r (rdCap s l r codeA a) (rdBad s l r codeA a) (n.size / 4) = (v.work l, some rec') →
      (rec'.headD {}).poison = false → fval (rec'.headD {}).val ≠ .nan → k < 256 →
      (old.length < 4 * n.count → ¬ awaited → old.length + 1 < n.count → v.hopeless ctx die rec' = false → (c.bin die k).expired = false →
        ∃ t, exec (.nemit a b) s = .next t ∧ ((t.ctx ctx).bin die k).records = old ++ [rec'] ∧ ((t.ctx ctx).bin die k).timer = true ∧
          t.lane r = (s.lane r).advance l.pc ∧ (∀ q, q ≠ r → t.lane q = s.lane q) ∧ t.hbm = s.hbm ∧ t.blocks = s.blocks ∧
          t.grids = s.grids) ∧
      (old.length < 4 * n.count → ¬ awaited → v.hopeless ctx die rec' = true →
        exec (.nemit a b) s = .next (past l r (v.modCtx ctx fun x => { x with dropEmit := x.dropEmit + 1 }))) ∧
      (4 * n.count ≤ old.length ∨ awaited → ∃ t, exec (.nemit a b) s = .next t ∧
        t.lane r = { s.lane r with status := .parked (.bin die k rec') l.pc, parkedAt := s.steps } ∧ t.hbm = s.hbm ∧
        ((t.ctx ctx).bin die k).records = old ∧ ((t.ctx ctx).bin die k).waiters = (c.bin die k).waiters ++ [r])) ∧
    (∀ (a b : Reg), InRange s l [rfld codeA a 4, rfld codeB b] → (rd s l r codeB b).poison = false →
      (256 ≤ (rd s l r codeB b).val.toNat ∨ tget (rd s l r codeB b).val.toNat c.nodes = none) →
      TrapsWith (.nemit a b) s l r [rfld codeA a 4, rfld codeB b] 0x14 (BitVec.ofNat 64 (9 + (rd s l r codeB b).val.toNat * 2 ^ 32))) ∧
    (∀ (a : Reg), InRange s l [rfld codeA a] → (rd s l r codeA a).poison = false → fval (rd s l r codeA a).val ≠ .nan →
      exec (.bound a) s = .next (past l r ((counted s l [rfld codeA a]).modGroup r.1 fun g => { g with bound := some (rd s l r codeA a).val }))) ∧
    (∀ (d a : Reg) (k : Nat), InRange s l [rfld codeD d 2, rfld codeA a] → (rd s l r codeA a).poison = false →
      (rd s l r codeA a).val.toNat < 16 → reg (rd s l r codeA a).val.toNat = some k →
      let x := (tget k (s.die die).replicas).getD (0, 0)
      exec (.incrd d a) s = .next (past l r ((counted s l [rfld codeD d 2, rfld codeA a]).wrs r (regNo s l r codeD d)
        [⟨x.1, false⟩, ⟨x.2, false⟩]))) ∧
    (∀ (d a b : Reg) (k : Nat), InRange s l [rfld codeD d, rfld codeA a 2, rfld codeB b] →
      let key := rd s l r codeA a
      let tag := s.reg r (regNo s l r codeA a + 1)
      let slot := rd s l r codeB b
      let u := acquired (some 3) r (counted s l [rfld codeD d, rfld codeA a 2, rfld codeB b])
      let waits := fun (v : Word) (t : State) => t.modLane r fun x =>
        { x with heldA := none, heldB := none, status := .result (regNo s l r codeD d) v k l.pc }
      let home := ((tget k s.incumbents).getD (0, 0)).1
      key.poison = false → tag.poison = false → slot.poison = false → slot.val.toNat < 16 → reg slot.val.toNat = some k →
      fval key.val ≠ .nan →
      (fOrder key.val home ≠ some .lt → exec (.incimp d a b) s = .next (waits 0 u)) ∧
      (fOrder key.val home = some .lt →
        let sent := fun (t : State) (m : Nat) => t.modDie m fun y => { y with coming := y.coming ++ [(k, key.val, tag.val)] }
        exec (.incimp d a b) s = .next (waits 1
          (sent (sent (sent (sent { u with incumbents := tput k (key.val, tag.val) u.incumbents } 0) 1) 2) 3))))

/-! ## Regions -/

/-- R299 to R306: aropen takes the lowest free object with the open counter's count, and with reopen a dead handle's count;
with no object free it delivers an untagged 0. arjoin makes the group a member of an open region; arseal seals one whose
members have not all voted; arvote of a group all of whose lanes are there is its vote, and the last vote of a sealed region
decides it; arabort aborts with reason 1; arstat delivers the status word, of a region of another home within the limits of
Table 18.5.
What is the model's own in it: log entries 43, 44, 58, 59. -/
def Obligations.RegionResults : Prop :=
  ∀ (s : State) (l : Latch) (r : LRef), Alone s l r →
    let g := s.group r.1
    let handle := fun (count i : Nat) => mkHandle (count * 65536 + s.domid.toNat * 256 + i) 0x80 1
    let good := fun (a : Reg) => rdBad s l r codeA a = false ∧ (rdCap s l r codeA a).tag = true ∧ (rdCap s l r codeA a).otype = 1
    (∀ (d a : Reg), InRange s l [rfld codeD d 4, rfld codeA a] → (rd s l r codeA a).poison = false →
      let n := regNo s l r codeD d
      let u := counted s l [rfld codeD d 4, rfld codeA a]
      let opened := fun (count i : Nat) (t : State) => t.modRegion i fun _ => { state := .opened, count := count, ctx := g.ctx }
      let old := s.cap r n
      ∀ i ∈ [Instr.aropen d a, .aropenReopen d a],
        (s.freeObject = none → exec i s = .next (past l r (u.wrCap r n {} []))) ∧
        (∀ k, s.freeObject = some k → (rd s l r codeA a).val.getLsbD 0 = false →
          exec i s = .next (past l r ({ opened s.openCount.toNat k u with openCount := s.openCount + 1 }.wrCap r n
            (handle s.openCount.toNat k) []))) ∧
        (∀ k, s.freeObject = some k → (rd s l r codeA a).val.getLsbD 0 = true → s.quadPoison r n = false → s.keepsAge old = true →
          exec i s = .next (past l r ((opened (old.cursor.toNat / 65536) k u).wrCap r n (handle (old.cursor.toNat / 65536) k) [])))) ∧
    (∀ (a b : Reg) (k : Nat), InRange s l [rfld codeA a 4, rfld codeB b 4] → good a →
      let c := rdCap s l r codeB b
      let h := (rdCap s l r codeA a).cursor
      s.regionOf h = some k → (s.region k).state = .opened → g.region = none →
      (s.region k).members.length + (s.region k).remote.length < 4096 →
      rdBad s l r codeB b = false →
      let joined := fun (target : Cap) (anchor : DWord) => exec (.arjoin a b) s = .next (past l r
        (((counted s l [rfld codeA a 4, rfld codeB b 4]).modGroup r.1 fun x => { x with region := some { handle := h, target := target, anchor := anchor } }).modRegion
          k fun x => { x with members := x.members ++ [r.1] }))
      (c.tag = true → c.otype = 0 → c.perm 5 = true → joined c c.cursor) ∧
      (c.tag = false → c.md = 0 → joined ((s.lane r).code.at ((s.lane r).entry + c.cursor)) (s.lane r).anchor)) ∧
    (∀ (a : Reg) (k : Nat), InRange s l [rfld codeA a 4] → good a → s.regionOf (rdCap s l r codeA a).cursor = some k →
      let u := counted s l [rfld codeA a 4]
      let x := s.region k
      (x.state = .opened → s.allVoted k = false →
        exec (.arseal a) s = .next (past l r (u.modRegion k fun y => { y with state := .sealed }))) ∧
      (x.state ≠ .opened → exec (.arseal a) s = .next (past l r u)) ∧
      (x.state = .opened ∨ x.state = .sealed →
        ∃ t, exec (.arabort a) s = .next t ∧ (t.region k).state ∈ [RegionState.aborted, .free] ∧
          ((t.region k).state = .aborted → (t.region k).reason = 1) ∧ (t.lane r).regs = (s.lane r).regs ∧
          (t.lane r).pc = ((s.lane r).advance l.pc).pc ∧ t.hbm = s.hbm ∧ t.blocks = s.blocks ∧
          (∀ d, d < 4 → (t.die d).dir = (s.die d).dir.filter fun y => y.region != k)) ∧
      (∀ m, g.region = some m → m.handle = (rdCap s l r codeA a).cursor → m.aborted = none → (∀ h ∈ s.groups, h.gid = r.1 → h = g) →
        (g.numbered.all fun y => y.1 == r.2 || !y.2.unexited || y.2.helper ||
          match y.2.status with | .parked .vote _ => true | _ => false) = true →
        ∃ t, exec (.arvote a) s = .next t ∧ (t.lane r).status = .parked .vote l.pc ∧ (t.lane r).regs = (s.lane r).regs ∧
          (∀ q, q ≠ r → t.lane q = s.lane q) ∧ t.hbm = s.hbm ∧ (t.group r.1).region = some { m with voted := true } ∧
          (x.state = .opened → (t.region k).state = .opened) ∧
          (x.state = .sealed → k < 256 → x.members = [r.1] → x.remote = [] → (t.region k).state = .committing))) ∧
    (∀ (d a : Reg), InRange s l [rfld codeD d, rfld codeA a 4] → good a →
      let h := (rdCap s l r codeA a).cursor
      let own := match g.region with
        | some m => if m.handle = h then (if m.voted = true then 24 else 8) else 0
        | none => 0
      let done := fun (w : Word) => exec (.arstat d a) s = .next (past l r
        ((counted s l [rfld codeD d, rfld codeA a 4]).wr r (regNo s l r codeD d) ⟨w, false⟩))
      (h.toNat / 256 % 256 ≠ s.domid.toNat → ∃ w, done w ∧ w.toNat % 8 ≤ 5 ∧ w.toNat / 8 % 4 = own / 8 ∧ w.toNat / 65536 ≤ 4096 ∧
        (w.toNat % 8 ≠ 5 → w.toNat / 256 % 256 = 0) ∧
        ∀ k, s.regionOf h = some k → w.toNat % 8 = match (s.region k).state with
          | .free => 0 | .opened => 1 | .sealed => 2 | .committing => 3 | .committed => 4 | .aborted => 5) ∧
      (h.toNat / 256 % 256 = s.domid.toNat → s.regionOf h = none → done 0) ∧
      (∀ k, h.toNat / 256 % 256 = s.domid.toNat → s.regionOf h = some k →
        let x := s.region k
        done (BitVec.ofNat 32 ((x.members.length + x.remote.length) * 65536 + (if x.state = .aborted then x.reason.toNat * 256 else 0) +
          own + match x.state with | .free => 0 | .opened => 1 | .sealed => 2 | .committing => 3 | .committed => 4 | .aborted => 5))))

namespace Sys2Proof.Machine.Claims

/-! ### Terms of special registers -/

/-- What srd reads on a compute core of ids 0x00 to 0x27 but 0x10 (Tables 5.1, 9.3). -/
def specials (s : State) (r : LRef) : List (Nat × Word) :=
  let g := s.group r.1
  let x := s.lane r
  let d := s.grid g.grid
  let b := (s.block g.block).index
  let cyc := (s.core g.coreOf).cycles + x.cycOff
  let n := fun (k : Nat) => BitVec.ofNat 32 k
  [(0x00, n r.2), (0x01, n (r.2 % 4)), (0x02, n g.width), (0x03, n g.gidx), (0x04, n (g.gidx * g.width + r.2)),
   (0x05, n (b % max d.dimx 1)), (0x06, n (b / max d.dimx 1 % max d.dimy 1)), (0x07, n (b / (max d.dimx 1 * max d.dimy 1))),
   (0x08, n d.dimx), (0x09, n d.dimy), (0x0A, n d.dimz), (0x0B, n d.blksize), (0x0C, n g.coreOf), (0x0D, n (g.coreOf / 40)),
   (0x0E, n (s.derate % 8 * 256 + fusedEntry g.coreOf)), (0x0F, n d.level), (0x11, lo32 cyc), (0x12, hi32 cyc), (0x13, g.engseq),
   (0x14, s.engdone r.1), (0x15, x.tiletag), (0x16, x.x0), (0x17, x.x1), (0x18, x.x2), (0x19, x.x3), (0x1A, g.nrec),
   (0x1B, g.nodeid), (0x1C, x.tvec), (0x1D, x.tcause), (0x1E, lo32 x.tpc), (0x1F, hi32 x.tpc), (0x20, lo32 x.tdata),
   (0x21, hi32 x.tdata), (0x22, x.arreason), (0x23, x.chflags), (0x24, n g.regs), (0x25, lo32 g.csum), (0x26, hi32 g.csum),
   (0x27, g.bound.getD 0x7FC00000)]

/-- The special registers that swr writes (Table 9.3): reserved bits are not written. -/
def writables : List (Nat × (Lane → Word → Lane)) :=
  [(0x15, fun x v => { x with tiletag := v }), (0x16, fun x v => { x with x0 := v }), (0x17, fun x v => { x with x1 := v }),
   (0x18, fun x v => { x with x2 := v }), (0x19, fun x v => { x with x3 := v }), (0x1C, fun x v => { x with tvec := v }),
   (0x1D, fun x v => { x with tcause := v &&& 0xFF }), (0x1E, fun x v => { x with tpc := pair64 (hi32 x.tpc) v }),
   (0x1F, fun x v => { x with tpc := pair64 v (lo32 x.tpc) }), (0x20, fun x v => { x with tdata := pair64 (hi32 x.tdata) v }),
   (0x21, fun x v => { x with tdata := pair64 v (lo32 x.tdata) }), (0x23, fun x v => { x with chflags := v &&& 1 })]

/-- One more event has arisen: it stands last in the event queue, or last of those held while the queue is full (R357). -/
def Raises (s t : State) (kind : Byte) (w2 w3 : Word) : Prop :=
  ∃ e : EventRec, t.eventQ ++ t.eventHeld = s.eventQ ++ s.eventHeld ++ [e] ∧
    (s.eventHeld = [] → s.eventQ.length < 4096 → t.eventHeld = []) ∧
    e.kind = kind ∧ e.w2 = w2 ∧ e.w3 = w3 ∧ e.ofQueue = false

/-- Every lane of the gather runs on a compute core. -/
def OnCompute (s : State) (l : Latch) : Prop := (∃ c, l.agent = .core c) ∧ ∀ r ∈ l.lanes, (s.group r.1).isK = false

end Sys2Proof.Machine.Claims

/-! ## The system instructions -/

/-- R16, R44, R80, R154, R155, R162, R163, R336, R337, R356: srd of every special register of a compute core, and swr of
every one that Table 9.3 lists as RW, completes; of an id that R44 calls illegal it is an illegal instruction, and of one of
the complex a privilege fault; on a Kolesque core the registers of the complex are read and written. perf reads its context's
counter; halt sends its lanes past and halts its context, with an event; rgn sets the row's window map, giving the row a slot
if need be, or waits for one.
What is the model's own in it: log entries 15, 42, 67, 71. -/
def Obligations.SystemResults : Prop :=
  (∀ (s : State) (l : Latch) (d : Reg), Ready s l → OnCompute s l →
    (InRange s l [rfld codeD d] → ∀ id : BitVec 8, id.toNat < 0x28 → id ≠ 0x10 →
      Gives (.srd (.reg d) id) s l d fun r => ⟨(tget id.toNat (specials s r)).getD 0, false⟩) ∧
    (InRange s l [rfld codeD d 2] →
      GivesWords (.srd (.reg d) 0x10) s l d fun r =>
        let c := (s.core (s.group r.1).coreOf).cycles + (s.lane r).cycOff
        [⟨lo32 c, false⟩, ⟨hi32 c, false⟩]) ∧
    (InRange s l [rfld codeA d] → (∀ r ∈ l.lanes, (rd s l r codeA d).poison = false) → ∀ e ∈ writables,
      Moves (.swr (BitVec.ofNat 8 e.1) (.reg d)) s l fun r x => (e.2 x (rd s l r codeA d).val).advance l.pc)) ∧
  (∀ (s : State) (l : Latch) (r : LRef), Alone s l r →
    let c := s.complex
    (∀ core, l.agent = .core core → (s.group r.1).isK = false → ∀ (id : BitVec 8) (d : Reg),
      let bad := BitVec.ofNat 64 (l.word.toNat + (l.pc - l.start).toNat / 4 % 2 ^ 32 * 2 ^ 32)
      (0x40 ≤ id.toNat → id.toNat < 0x80 → Delivers s l r 0x15 → ∀ i ∈ [Instr.srd (.reg d) id, .swr id (.reg d)],
        exec i s = .next (trapped l r 0x15 (l.word.setWidth 64) s)) ∧
      ((0x28 ≤ id.toNat ∧ id.toNat < 0x40) ∨ 0x80 ≤ id.toNat → Delivers s l r 0x01 →
        exec (.srd (.reg d) id) s = .next (trapped l r 0x01 bad s)) ∧
      ((id.toNat < 0x40 ∧ ∀ e ∈ writables, e.1 ≠ id.toNat) ∨ 0x80 ≤ id.toNat → Delivers s l r 0x01 →
        exec (.swr id (.reg d)) s = .next (trapped l r 0x01 bad s))) ∧
    (∀ k, l.agent = .kcore k → (s.group r.1).agent = .kcore k →
      (∀ (d : Reg), InRange s l [rfld codeD d] →
        let gives := fun (id : Nat) (w : Word) =>
          exec (.srd (.reg d) (BitVec.ofNat 8 id)) s = .next (past l r (s.wr r (regNo s l r codeD d) ⟨w, false⟩))
        (∀ e ∈ [(0x40, BitVec.ofNat 32 k), (0x42, c.wdog), (0x43, lo32 c.pstab), (0x44, hi32 c.pstab), (0x45, lo32 c.fwimg),
            (0x46, hi32 c.fwimg), (0x58, BitVec.ofNat 32 (min 4096 s.eventQ.length))], gives e.1 e.2) ∧
        (∃ m : BitVec 12, (∀ j, j < 12 → m.getLsbD j = s.kcores.any fun x => x.1 == j && x.2.status == .retired) ∧
          gives 0x41 (BitVec.ofNat 32 (c.cause.toNat * 2 ^ 24 + c.crashes % 16 * 2 ^ 20 + (if c.handover then 2 ^ 17 else 0) +
            (if c.warm then 2 ^ 16 else 0) + m.toNat))) ∧
        (∀ m, m < 16 → (tget m c.ktimers = none → gives (0x48 + m) 0) ∧
          ∀ n, tget m c.ktimers = some n → n ≠ 0 → ∃ v : Word, 0 < v.toNat ∧ v.toNat ≤ n.toNat ∧ gives (0x48 + m) v)) ∧
      (∀ (a : Reg), InRange s l [rfld codeA a] → (rd s l r codeA a).poison = false →
        let v := (rd s l r codeA a).val
        exec (.swr 0x42 (.reg a)) s = .next (past l r { s with complex := { c with wdog := v } }) ∧
        exec (.swr 0x43 (.reg a)) s = .next (past l r { s with complex := { c with pstab := pair64 (hi32 c.pstab) v } }) ∧
        exec (.swr 0x44 (.reg a)) s = .next (past l r { s with complex := { c with pstab := pair64 v (lo32 c.pstab) } }) ∧
        ∀ m, m < 16 → exec (.swr (BitVec.ofNat 8 (0x48 + m)) (.reg a)) s = .next (past l r { s with
          complex := { c with ktimers := if v = 0 then tdel m c.ktimers else tput m v c.ktimers } }))) ∧
    (∀ (d : Reg) (id : BitVec 8), InRange s l [rfld codeD d] →
      let u := counted s l [rfld codeD d]
      exec (.perf (.reg d) id) s = .next (past l r (u.wr r (regNo s l r codeD d)
        ⟨(u.ctx (s.group r.1).ctx).hdr.perf.getD id.toNat 0, false⟩))) ∧
    (let x := (s.group r.1).ctx
     (s.ctx x).phase = .running → (s.group r.1).isK = false →
      ∃ t, exec .halt s = .next t ∧ (t.lane r).halted = true ∧ (t.lane r).status = .ready ∧
        (t.lane r).pc = ((s.lane r).advance l.pc).pc ∧ (t.lane r).tags = (s.lane r).tags ∧
        (∀ n, n ∉ (s.lane r).stale → (t.lane r).regs.getD n {} = (s.lane r).regs.getD n {}) ∧
        ((s.lane r).unexited = true → (s.group r.1).saved = none → (s.lane r).stopped = none →
          (t.lane r).stopped = some ((s.core (s.group r.1).coreOf).cycles + (s.lane r).cycOff)) ∧
        (t.ctx x).phase = .halting ∧ (t.ctx x).request = .program ∧
        Raises s t 0x04 (BitVec.ofNat 32 x)
          (BitVec.ofNat 32 ((s.block (s.group r.1).block).index % 65536 * 65536 + (s.group r.1).gidx % 65536)) ∧
        t.hbm = s.hbm ∧ t.blocks = s.blocks) ∧
    (∀ (core : Nat) (cnt : BitVec 2) (q0 q1 q2 q3 : Quad) (sl : BitVec 4) (y : Row), l.agent = .core core →
      tget l.row (s.core core).rows = some y →
      let quads := [q0, q1, q2, q3].take (cnt.toNat + 1)
      let i := Instr.rgn cnt q0 q1 q2 q3 sl
      let set := fun (y : Row) => { y with
        map := quads, base := l.pc
        sl := ((List.range quads.length).zip quads).foldl (fun (m : BitVec 16) x =>
          if sl.getLsbD x.1 then m ||| (1#16 <<< x.2.toNat) else m &&& ~~~(1#16 <<< x.2.toNat)) y.sl }
      let passing := fun (t : State) => (past l r t).modLane r fun x => { x with passed := true }
      let short := ((List.range quads.length).zip quads).filter fun x => sl.getLsbD x.1
      let wrote := fun (x : Lane) => { x with unwritten := short.foldl (fun m y => m &&& ~~~(0xF#64 <<< (4 * y.2.toNat))) x.unwritten }
      let marks : State := { s with
        groups := s.groups.map fun g =>
          if g.agent = .core core ∧ g.row = l.row ∧ g.freed = false then { g with lanes := g.lanes.map wrote } else g }
      InRange s l (((List.range quads.length).zip quads).map fun x => qfld x.2 (64 + x.1)) →
      (∀ z : Row, (y.slot.isSome = true ∧ z = set y) ∨
          (y.slot = none ∧ ∃ k o, s.findSlot core = some (k, o) ∧ z = set { y with slot := some k, rgnSince := none }) →
        ∃ t, exec i s = .next t ∧ tget l.row (t.core core).rows = some z ∧ (t.lane r).pc = ((s.lane r).advance l.pc).pc ∧
          (t.lane r).status = .ready ∧ (t.lane r).passed = true ∧ (t.lane r).tags = (s.lane r).tags ∧
          (∀ q n, n ∉ (s.lane q).stale → (t.lane q).regs.getD n {} = (s.lane q).regs.getD n {}) ∧
          t.hbm = s.hbm ∧ t.blocks = s.blocks ∧ t.ctxs = s.ctxs) ∧
      ((∀ g ∈ s.groups, ∀ x ∈ g.lanes, x.stale = []) →
        (y.slot.isSome = true → exec i s = .next (passing (marks.modRow core l.row set))) ∧
        (∀ k, y.slot = none → s.findSlot core = some (k, none) → exec i s = .next (passing (marks.modRow core l.row fun y =>
          set { y with slot := some k, rgnSince := none })))) ∧
      (y.slot = none → s.findSlot core = none →
        exec i s = .next (parked l r .window (s.modRow core l.row fun y =>
          { y with rgnSince := some (y.rgnSince.getD (s.core core).cycles.toNat) })))))

namespace Sys2Proof.Machine.Claims

/-! ### Terms of the command complex -/

/-- The gather is the lane of Kolesque core `k`, and its event, if any, is `e`. -/
structure OnComplex (s : State) (l : Latch) (r : LRef) (k : Nat) : Prop where
  alone : Alone s l r
  agent : l.agent = .kcore k

/-- The word of the block at A (R359). -/
def blockWord (s : State) (l : Latch) (r : LRef) (a : Reg) (i : Nat) : PWord := s.reg r (regNo s l r codeA a + i)

/-- The two words from word `i` of the block, as an address. -/
def blockAddr (s : State) (l : Latch) (r : LRef) (a : Reg) (i : Nat) : Nat :=
  (pair64 (blockWord s l r a (i + 1)).val (blockWord s l r a i).val).toNat

/-- D and the block at A are in range, and the four words of the block are unpoisoned. -/
def GoodBlock (s : State) (l : Latch) (r : LRef) (d a : Reg) : Prop :=
  InRange s l [rfld codeD d, rfld codeA a 4] ∧ ∀ i, i < 4 → (blockWord s l r a i).poison = false

/-- The operation leaves state `t` with its status in D, and words over the block at A, and goes on. -/
def Answers (i : Instr) (s : State) (l : Latch) (r : LRef) (d a : Reg) (t : State) (status : Word) (out : List Word) : Prop :=
  exec i s = .next (past l r ((t.wrs r (regNo s l r codeA a) (out.map fun v => ⟨v, false⟩)).wr r (regNo s l r codeD d) ⟨status, false⟩))

/-- The fields of a priv word (R359): D in bits 24:19 and A in bits 17:12. -/
def PrivWord (l : Latch) (d a : Reg) : Prop := l.word.toNat / 2 ^ 19 % 64 = d.toNat ∧ l.word.toNat / 2 ^ 12 % 64 = a.toNat

/-- A refused operation's status (R359). -/
def refusal (code : Nat) : Word := BitVec.ofNat 32 (0x80000000 + code)

/-- The instructions that only the complex may run (R44). -/
def complexOnly : List Instr :=
  [.privTlbInvalidateAll, .privTlbInvalidateAsid, .privTlbInvalidateRange, .privIdentifierEntry, .privKeyLoad, .privKeyDestroy,
   .privPlantBreakpoint, .privRemoveBreakpoint, .privRevokeDebug, .privEngineReset, .privDerate, .privFaultReplay, .privFaultFail,
   .privReadFaultRecord, .privPoolQuery, .privQueueDisable, .privQueueActivate, .privMsix, .privHandover]

/-- The TLB entries that satisfy a test are gone from every TLB, and nothing else. -/
def dropped (s : State) (p : TlbEntry → Bool) : State :=
  { s with
    cores := s.cores.map fun x => (x.1, { x.2 with tlb := x.2.tlb.filter fun e => !p e })
    dies := s.dies.map fun x => (x.1, { x.2 with tlb := x.2.tlb.filter fun e => !p e }) }

/-- A context is in no transition (R361). -/
def Settled (c : Ctx) : Prop := c.phase ≠ .free ∧ c.phase ≠ .halting ∧ c.phase ≠ .saving ∧ c.ending = none

/-- The lane stays at its word, to issue it again. -/
def heldBack (r : LRef) (t : State) : State := t.modLane r fun x => { x with heldBack := true }

/-- What a context is left with: `c` itself, and every other context, memory, and the words of every lane, as before. -/
structure CtxBecomes (s t : State) (n : Nat) (c : Ctx) : Prop where
  this : t.ctx n = c
  others : ∀ m, m ≠ n → t.ctx m = s.ctx m
  hbm : t.hbm = s.hbm
  blocks : t.blocks = s.blocks
  apart : ∀ g ∈ s.groups, (∀ h ∈ s.groups, h.gid = g.gid → h.ctx ≠ n ∨ h.isK = true) → g ∈ t.groups
  waits : ∀ q, s.has q → (t.lane q).code = (s.lane q).code ∧ (t.lane q).tags = (s.lane q).tags

/-- Every lane of a context that has not exited is halted where it stands, and no kill of it stays begun (R335, R341). -/
def AllHalted (s t : State) (n : Nat) : Prop :=
  ∀ q, s.has q → (s.group q.1).ctx = n → (s.group q.1).isK = false → (s.lane q).unexited = true →
    (t.lane q).halted = true ∧ (t.lane q).status = (s.lane q).status ∧ (t.lane q).kill = ((s.lane q).kill && (s.group q.1).killed)

/-- The place that a translated entry gives an address: this device's memory under a key, or another device. -/
def entryPlace (e : TlbEntry) (key va : Nat) : Phys :=
  if e.dev = 0xFF then .hbm key (e.pa + va % e.size) else .remote e.dev (e.pa + va % e.size)

/-- The bits of a page-table entry that must be zero (Tables 19.1, 19.2): 55:52, 11:10 and 6:5 of every entry; 9:7 and 4:2 of
one that names a table; C of a leaf of 2 MiB; and the numbers 192 to 254 name no device. -/
def strayBits (e lvl : Nat) : Prop :=
  e / 2 ^ 52 % 16 ≠ 0 ∨ e / 2 ^ 10 % 4 ≠ 0 ∨ e / 2 ^ 5 % 4 ≠ 0 ∨ (192 ≤ e / 2 ^ 56 ∧ e / 2 ^ 56 ≤ 254) ∨
  (e / 2 % 2 = 0 ∧ (e / 2 ^ 7 % 8 ≠ 0 ∨ e / 2 ^ 2 % 8 ≠ 0)) ∨ (e / 2 % 2 = 1 ∧ lvl = 1 ∧ e / 2 ^ 7 % 2 = 1)

/-- The bytes that a leaf maps (Table 19.1): C widens a leaf of 4 KiB or of 1 GiB. -/
def leafBytes (e lvl : Nat) : Nat :=
  let c := e / 2 ^ 7 % 2
  if lvl = 0 then (if c = 1 then 65536 else 4096) else if lvl = 1 then 2097152 else if c = 1 then 68719476736 else 1073741824

/-- An access of a lane that is not complete: another device has still to answer it, or a lane, halted or saved with its row
or not, has still to take the answer. -/
def Pending (s : State) (y : Remote) : Prop :=
  y ∈ s.remotes ∨ ∃ g ∈ s.groups, g.freed = false ∧ ∃ x ∈ g.lanes, ∃ z ∈ x.returned, z.acc = y

/-- A translated entry permits what an access of a kind needs (R315). -/
def permits (y : TlbEntry) : Kind → Bool
  | .read => y.rd
  | .write => y.w
  | .rmw => y.rd && y.w
  | .fetch => y.x

/-- A leaf grants what an access of a kind needs (R315): R is bit 2, W bit 3 and X bit 4. -/
def grants (e : Nat) : Kind → Prop
  | .read => e / 4 % 2 = 1
  | .write => e / 8 % 2 = 1
  | .rmw => e / 4 % 2 = 1 ∧ e / 8 % 2 = 1
  | .fetch => e / 16 % 2 = 1

end Sys2Proof.Machine.Claims

/-! ## The command complex -/

/-- R44: a complex-only word on a compute core is a privilege fault whose data are the word. R360: evwait ends the event,
whose lock passes its ticket, and parks the core; qlock goes on, an acquire point, where the lock serves the event's ticket,
and parks else; qunlock passes the ticket where the event holds the lock, and does nothing else. An event whose ticket went
when its queue was activated (R362) goes on at its qlock and passes nothing, the model's choice (log entry 152).
What is the model's own in it: log entries 21, 47, 91, 152. -/
def Obligations.EventAndLockResults : Prop :=
  (∀ (s : State) (l : Latch) (r : LRef) (d a : Reg), Alone s l r → Delivers s l r 0x15 →
     ∀ i ∈ complexOnly ++ [.evwait d, .qlock a, .qunlock a, .ctxrunRun d a, .ctxrunHalt d a, .ctxrunResume d a, .ctxrunSave d a,
       .ctxrunDump d a, .ctxrunKill d a, .ctxrunState d a],
     exec i s = .next (trapped l r 0x15 (l.word.setWidth 64) s)) ∧
  (∀ (s : State) (l : Latch) (r : LRef) (k : Nat), OnComplex s l r k →
     let c := s.kcore k
     (∀ d : Reg, InRange s l [rfld codeD d 4] → s.complex.successor = none → (s.group r.1).taskKill = false →
       let t := if c.event.any (fun e => e.ofQueue && !e.void && !c.released) then
           s.modQueue ((c.event.map (·.queue)).getD 0) fun q => q.release ((c.event.map (·.ticket)).getD 0) else s
       ∃ v, exec (.evwait d) s = .next v ∧ v.queues = t.queues ∧ (v.kcore k).event = none ∧ (v.kcore k).status = .idle ∧
         (v.kcore k).dest = regNo s l r codeD d ∧ v.lane r = { s.lane r with status := .parked .event l.pc, parkedAt := s.steps } ∧
         (∀ j, j ≠ k → v.kcore j = s.kcore j) ∧ v.hbm = s.hbm ∧ v.eventQ = s.eventQ) ∧
     (∀ (a : Reg) (e : EventRec), InRange s l [rfld codeA a] → (rd s l r codeA a).poison = false → c.event = some e →
       e.ofQueue = true → e.queue = (rd s l r codeA a).val.toNat →
       let serves := e.void = false ∧ c.released = false ∧ (s.queue e.queue).serving = e.ticket
       (serves ∨ e.void = true → exec (.qlock a) s = .next (past l r (acquired (some 3) r s))) ∧
       (¬ serves → e.void = false → exec (.qlock a) s = .next (parked l r (.lock e.queue) (s.modKcore k fun x => { x with status := .qlock }))) ∧
       (serves → exec (.qunlock a) s = .next (past l r
         ((s.modQueue e.queue fun q => q.release e.ticket).modKcore k fun x => { x with released := true }))) ∧
       (¬ serves → exec (.qunlock a) s = .next (past l r s))))

/-- R361, Table 21.6: ctxrun. run restores an image into the lowest free context number, which then runs, and, where the
slices have room for the image's tentative operations and hold no region's records (R208), leaves every other context, group
and word of memory as it was; halt halts every lane of the context where it stands, and of a halted context only reports;
resume lets a halted context's lanes issue again, a faulted one its instruction; a frozen one it resumes once its copies and
operations have drained; save begins a pre-emption, and waits for a dump; dump and kill halt the lanes and begin theirs;
state delivers the code. A number that names no context is a bad operand, and a context in a transition is busy.
What is the model's own in it: log entries 5, 75, 76, 85, 86, 119, 139. -/
def Obligations.ContextOperationResults : Prop :=
  ∀ (s : State) (l : Latch) (r : LRef) (k : Nat) (d a : Reg), OnComplex s l r k → GoodBlock s l r d a →
    let n := (blockWord s l r a 0).val.toNat
    let c := s.ctx n
    let w := BitVec.ofNat 32
    let im := blockAddr s l r a 1
    (∀ m, m < 256 → (s.ctx m).phase = .free → (∀ j, j < m → (s.ctx j).phase ≠ .free) →
      let t := s.restore m im
      Answers (.ctxrunRun d a) s l r d a (t.opFinished m 0) (w (0x40000000 + m)) [] ∧
      ((t.groups.map Group.gid).Nodup → (∀ d, d < 4 → (s.die d).dir = [] ∧ t.dirUsed d < dirCapacity) →
        (t.ctx m).phase = .running ∧ (∀ j, j ≠ m → t.ctx j = s.ctx j) ∧ t.hbm = s.hbm ∧ (∀ g ∈ s.groups, g ∈ t.groups))) ∧
    ((∀ j, j < 256 → (s.ctx j).phase ≠ .free) → Answers (.ctxrunRun d a) s l r d a s (refusal 2) []) ∧
    (n < 256 → Settled c →
      (c.phase = .running →
        (∃ t, Answers (.ctxrunHalt d a) s l r d a t 0 [] ∧ AllHalted s t n ∧
          CtxBecomes s t n { c with phase := .halting, request := .halt 1, owed := c.owed ++ [1] }) ∧
        Answers (.ctxrunResume d a) s l r d a (s.opFinished n 2) 0 [] ∧
        (∃ t, Answers (.ctxrunDump d a) s l r d a t 0 [] ∧ AllHalted s t n ∧
          CtxBecomes s t n { c with phase := .halting, request := .ctxDump, owed := c.owed ++ [4] })) ∧
      (c.phase ≠ .running → Answers (.ctxrunHalt d a) s l r d a (s.opFinished n 1) 0 [] ∧
        (c.phase = .halted ∨ s.drained n = true → ∃ t, Answers (.ctxrunResume d a) s l r d a (t.opFinished n 2) 0 [] ∧
          CtxBecomes s t n { c with
            entries := [], reports := [], waiting := none
            phase := if c.waiting.isSome = true then .saving else .running
            request := match c.waiting with | some x => .save x | none => .none } ∧
          ∀ q, s.has q → (s.group q.1).ctx = n → (s.group q.1).isK = false → (s.lane q).unexited = true →
            (t.lane q).halted = false ∧ (t.lane q).regs = (s.lane q).regs ∧
            (t.lane q).status = if (s.lane q).status = .faulted then .ready else (s.lane q).status) ∧
        (c.phase = .frozen → s.drained n = false → exec (.ctxrunResume d a) s = .next (heldBack r s)) ∧
        Answers (.ctxrunDump d a) s l r d a (s.modCtx n fun c => { c with phase := .halting, request := .ctxDump, owed := [4] }) 0 []) ∧
      ((∀ x, c.request ≠ .save x) → ∃ t, Answers (.ctxrunKill d a) s l r d a t 0 [] ∧ AllHalted s t n ∧
        CtxBecomes s t n { c with
          phase := .halting, request := .kill true, waiting := none, owed := c.owed ++ if c.waiting.isSome = true then [3] else [] }) ∧
      (c.waiting = none → im % 4096 = 0 → im < 2 ^ 39 →
        Answers (.ctxrunSave d a) s l r d a ((if c.phase = .running then s else s.evictHalted n).modCtx n fun c =>
          { c with phase := .saving, request := .save im }) 0 [])) ∧
    (n < 256 → c.phase ≠ .free → im % 4096 ≠ 0 ∨ 2 ^ 39 ≤ im → Answers (.ctxrunSave d a) s l r d a s (refusal 1) []) ∧
    (n < 256 → im % 4096 = 0 → im < 2 ^ 39 → c.phase = .halting → c.waiting = none → c.request = .ctxDump →
      Answers (.ctxrunSave d a) s l r d a (s.modCtx n fun c => { c with waiting := some im }) 0 []) ∧
    (n < 256 → im % 4096 = 0 → im < 2 ^ 39 → c.phase ≠ .free →
      c.waiting.isSome = true ∨ c.phase = .saving ∨ (c.phase ≠ .halting ∧ c.ending.isSome = true) ∨
        (c.phase = .halting ∧ c.request ≠ .ctxDump ∧ ∀ b, c.request ≠ .dump b) →
      Answers (.ctxrunSave d a) s l r d a s (refusal 2) []) ∧
    (n < 256 → Answers (.ctxrunState d a) s l r d a s
      (match c.phase with | .free => 0 | .running => 1 | .halting => 2 | .halted => 3 | .frozen => 4 | .saving => 5) []) ∧
    (256 ≤ n ∨ c.phase = .free → ∀ i ∈ [Instr.ctxrunHalt d a, .ctxrunResume d a, .ctxrunDump d a, .ctxrunKill d a, .ctxrunSave d a],
      Answers i s l r d a s (refusal 1) []) ∧
    (n < 256 → c.phase = .halting ∨ c.phase = .saving ∨ (c.phase ≠ .free ∧ c.ending.isSome = true) → ∀ i ∈ [Instr.ctxrunHalt d a, .ctxrunResume d a, .ctxrunDump d a, .ctxrunKill d a],
      Answers i s l r d a s (refusal 2) [])

/-- R318, R323, R362, R370 (Table 21.7): priv 0 to 2. TLB invalidation drops the entries it names and no other, and is
complete once no access that used one is outstanding; an identifier entry is written, and clearing live drops its entries; a
key is loaded into an empty slot from memory, which is zeroed, and destroyed unless it is in use, the lines under it going as
the die caches had them; with slot 0 empty the load's read is a fatal page fault of the complex. R315, R318, R319:
translation. Under an identifier that is not live there is none; at each level the entry is a recoverable fault, a fatal one,
the next table or a leaf, as its bits say; an entry held in a TLB that permits the access is used without a walk, and one
that a walk gives is held in the core's TLB and the die's, nothing else changing. R134, R370: an address with bits 63:56 set
is reason 9, an empty key slot reason 8.
What is the model's own in it: log entries 24, 25, 36, 90, 126, 144. -/
def Obligations.TranslationAndKeyResults : Prop :=
  (∀ (s : State) (l : Latch) (r : LRef) (k : Nat) (d a : Reg), OnComplex s l r k → GoodBlock s l r d a → PrivWord l d a →
     let x := fun (i : Nat) => (blockWord s l r a i).val.toNat
     let va := blockAddr s l r a 2
     let ans := fun (i : Instr) (t : State) (st : Word) => Answers i s l r d a t st []
     let clears := fun (i : Instr) (p : TlbEntry → Bool) (used : Remote → Bool) (f : State → State) =>
       ((∀ y, Pending s y → used y = false) → ans i (f (dropped s p)) 0) ∧
       (∀ y, Pending s y → used y = true → exec i s = .next (heldBack r (dropped s p)))
     let top := va + 4096 * (x 0 / 256)
     (x 0 % 4 ≠ 3 → clears .privTlbInvalidateAll (fun _ => true) (fun _ => true) id) ∧
     (x 1 < 512 → clears .privTlbInvalidateAsid (fun e => e.asid == x 1) (fun y => y.asid == x 1) id) ∧
     (x 1 < 512 → va % 4096 = 0 → clears .privTlbInvalidateRange
       (fun e => e.asid == x 1 && decide (e.va < top) && decide (va < e.va + e.size))
       (fun y => y.asid == x 1 && decide (y.leaf.1 < top) && decide (va < y.leaf.1 + y.leaf.2)) id) ∧
     (x 0 < 512 →
       let e : Asid := { live := decide (x 3 / 2 ^ 31 = 1), key := x 3 % 64, root := x 2 % 2 ^ 20 * 2 ^ 32 + x 1 / 4096 * 4096 }
       let set := fun (t : State) => { t with asids := tput (x 0) e t.asids }
       (e.live = true → ans .privIdentifierEntry (set s) 0) ∧
       (e.live = false → clears .privIdentifierEntry (fun y => y.asid == x 0) (fun y => y.asid == x 0) set)) ∧
     (let at' := blockAddr s l r a 1
      (x 0 = 0 ∨ 64 ≤ x 0 → ans .privKeyLoad s (refusal 1)) ∧
      (0 < x 0 → x 0 < 64 →
       ((tget (x 0) s.keys).isSome = true → ans .privKeyLoad s (refusal 2)) ∧
       (tget (x 0) s.keys = none → 2 ^ 39 < at' + 64 → ans .privKeyLoad s (refusal 1)) ∧
       (tget (x 0) s.keys = none → at' + 64 ≤ 2 ^ 39 → s.leaseLost = false →
         let u := s.awaitLines at' 64
         let t := u.outsideWrite s.leaseKey at' (List.replicate 64 0)
         ans .privKeyLoad { t with keys := tput (x 0) (3 * leNat (u.hbmBytes s.leaseKey at' 64) + 1) t.keys } 0 ∧
         ((∀ j, j < 64 → s.lineRec (at' + j) = none) → u = s)) ∧
       (tget (x 0) s.keys = none → at' + 64 ≤ 2 ^ 39 → s.leaseLost = true →
         let faults := (s.die (homeDie at')).faults
         ((freeIndex faults).isSome = true → ∃ t, exec .privKeyLoad s = .next t ∧ t.complex.cause = 9 ∧ t.complex.warm = true ∧
           ∃ i f, tget i (t.die (homeDie at')).faults = some f ∧ f.fatal = true ∧ f.va / 4096 = at' / 4096 ∧
             ((∀ q ∈ faults, q.2.joins 0 at' .read true = false) → f.va = at' ∧ f.reason = 8)) ∧
         (freeIndex faults = none → (∀ q ∈ faults, q.2.joins 0 at' .read true = false) → exec .privKeyLoad s = .next (heldBack r s))))) ∧
     (64 ≤ x 0 → ans .privKeyDestroy s (refusal 1)) ∧
     (x 0 < 64 →
       let named := (∃ y ∈ s.asids, y.2.live = true ∧ y.2.key = x 0) ∨ s.aperSlot.toNat = x 0
       (named → ans .privKeyDestroy s (refusal 2)) ∧
       (¬ named → s.keyOf (x 0) = none → ans .privKeyDestroy s 0) ∧
       (∀ key, ¬ named → s.keyOf (x 0) = some key → key % 3 ≠ 2 →
         ∃ t, ans .privKeyDestroy t 0 ∧ t.keys = tdel (x 0) s.keys ∧ t.hbm = s.hbm ∧ t.asids = s.asids ∧
           t.leaseLost = (s.leaseLost || x 0 == 0) ∧ (s.baseKey ≠ key → t.baseKey = s.baseKey) ∧ t.baseKey ≠ key ∧
           t.sectorKeys.map (·.1) = s.sectorKeys.map (·.1) ∧
           (∀ y ∈ t.sectorKeys, y.2 = key → Config.lineKept s.steps (y.1 / 4) = true) ∧
           ∀ y ∈ s.sectorKeys, y.2 ≠ key ∨ Config.lineKept s.steps (y.1 / 4) = true → y ∈ t.sectorKeys))) ∧
  (∀ (s : State) (asid u : Nat) (kind : Kind),
    ((s.asid asid).live = false → ∃ n, s.walk asid u kind = .fatal n 4) ∧
    ((s.asid asid).live = true → s.leaseLost = false → s.walk asid u kind = walkFrom s asid u kind 5 (s.asid asid).root) ∧
    (∀ lvl pa, lvl < 5 →
      let place := pa + 8 * (u / 2 ^ (12 + 9 * lvl) % (if lvl = 4 then 256 else 512))
      let e := leNat (s.hbmBytes s.leaseKey place 8)
      let dev := e / 2 ^ 56
      let frame := e / 2 ^ 12 % 2 ^ 40 * 4096
      let here := dev = 0xFF ∨ dev = s.domid.toNat
      let size := leafBytes e lvl
      let base := frame / size * size
      let gives := fun (y : Walked) => walkFrom s asid u kind (lvl + 1) pa = y
      (2 ^ 39 ≤ place → gives (.fatal 7 lvl)) ∧
      (place < 2 ^ 39 → s.hbmPoison place 8 = true → gives (.fatal 1 lvl)) ∧
      (place < 2 ^ 39 → s.hbmPoison place 8 = false →
        (e % 2 = 0 → gives (.recoverable 0 lvl)) ∧
        (e % 2 = 1 → strayBits e lvl → gives (.fatal 2 lvl)) ∧
        (e % 2 = 1 → ¬ strayBits e lvl → e / 2 % 2 = 0 →
          (lvl = 0 → gives (.fatal 3 0)) ∧
          (0 < lvl → ¬ here → gives (.fatal 4 lvl)) ∧
          (0 < lvl → here → gives (walkFrom s asid u kind lvl frame))) ∧
        (e % 2 = 1 → ¬ strayBits e lvl → e / 2 % 2 = 1 →
          (2 < lvl → gives (.fatal 3 lvl)) ∧
          (lvl ≤ 2 → ¬ here → dev ∉ s.routes → gives (.fatal 2 lvl)) ∧
          (lvl ≤ 2 → here ∨ dev ∈ s.routes →
            let least := if lvl = 0 then 4096 else if lvl = 1 then 2097152 else 1073741824
            (frame % least ≠ 0 → gives (.fatal 5 lvl)) ∧
            (frame % least = 0 → ¬ grants e kind → gives (.recoverable 6 lvl)) ∧
            (frame % least = 0 → grants e kind → here → 2 ^ 39 < base + size → gives (.fatal 7 lvl)) ∧
            (frame % least = 0 → grants e kind → ¬ here ∨ base + size ≤ 2 ^ 39 → ∃ y, gives (.ok y) ∧ y.asid = asid ∧
              y.va = u / size * size ∧ y.size = size ∧ y.pa = base ∧ (y.dev = 0xFF ↔ here) ∧ (¬ here → y.dev = dev) ∧
              (y.rd = true ↔ e / 4 % 2 = 1) ∧ (y.w = true ↔ e / 8 % 2 = 1) ∧ (y.x = true ↔ e / 16 % 2 = 1)))))) ∧
    (∀ core die : Nat,
      let held := (s.core core).tlb ++ (s.die die).tlb
      let tr := s.translate (some core) die asid u kind
      OnlyTlbs s tr.1 ∧ (∀ c, c ≠ core → tr.1.core c = s.core c) ∧ (∀ d, d ≠ die → tr.1.die d = s.die d) ∧
      (∀ y, held.find? (fun y => y.covers asid u && permits y kind) = some y → tr = (s, .ok y)) ∧
      ((∀ y ∈ held, y.covers asid u = true → permits y kind = false) → tr.2 = s.walk asid u kind ∧
        (∀ y, s.walk asid u kind = .ok y → (tr.1.core core).tlb = y :: (s.core core).tlb.take 63 ∧
          (tr.1.die die).tlb = y :: (s.die die).tlb.take 8191) ∧
        ((∀ y, s.walk asid u kind ≠ .ok y) → tr.1 = s)) ∧
      (2 ^ 56 ≤ u → s.locate (some core) die asid u kind = (s, .error (true, 9, 7))) ∧
      (∀ t y, u < 2 ^ 56 → tr = (t, .ok y) →
        (t.keyOf (t.asid asid).key = none → s.locate (some core) die asid u kind = (t, .error (true, 8, y.level))) ∧
        ∀ key, t.keyOf (t.asid asid).key = some key →
          s.locate (some core) die asid u kind = (t, .ok (entryPlace y key u)))))

/-- R16, R284, R321, R322, R350, R351, R353, R357, R362, R364 (Table 21.7): priv 3 to 13. The reset of an engine discards the
operations that run or queue there: their signers' accumulators are poisoned and owned no more, every unexited signer has
engine reset to take, and an mxwait on one goes on; the lanes that wait for the baton have tickets again in the order in
which they began to wait; no other lane, core or operation changes. The activation of a queue clears its tickets and its
error.
What is the model's own in it: log entries 46, 56, 63, 84, 90, 94, 152. -/
def Obligations.PrivilegedOperationResults : Prop :=
  ∀ (s : State) (l : Latch) (r : LRef) (k : Nat) (d a : Reg), OnComplex s l r k → GoodBlock s l r d a → PrivWord l d a →
    let x := fun (i : Nat) => (blockWord s l r a i).val.toNat
    let va := blockAddr s l r a 1
    let n := x 0
    let c := s.ctx n
    let ans := fun (i : Instr) (t : State) (st : Word) => Answers i s l r d a t st []
    (n < 256 → c.phase ≠ .free → c.hdr.debug = true →
      (∀ old t, va % 4 = 0 → tget va c.bkpts = none → c.bkpts.length < 64 → s.peekCode n va = some old →
        s.pokeCode n va 0xF8000000 = some t →
        ans .privPlantBreakpoint (t.modCtx n fun c => { c with bkpts := tput va old c.bkpts }) 0) ∧
      (∀ old t, tget va c.bkpts = some old → s.pokeCode n va old = some t →
        ans .privRemoveBreakpoint (t.modCtx n fun c => { c with bkpts := tdel va c.bkpts }) 0) ∧
      (c.phase = .running → c.bkpts = [] →
        ans .privRevokeDebug (s.modCtx n fun c => { c with bkpts := [], hdr := { c.hdr with debug := false } }) 0)) ∧
    (n < 256 → c.phase ≠ .free → c.hdr.debug = false →
      ∀ i ∈ [Instr.privPlantBreakpoint, .privRemoveBreakpoint, .privRevokeDebug], ans i s (refusal 3)) ∧
    (n < 160 → (s.ops.map (·.id)).Nodup → (∀ g ∈ s.groups, g = s.group g.gid) →
      let doomed := fun (o : MxOp) => o ∈ s.ops ∧ o.core = n ∧ o.phase ≠ .signing ∧ o.phase ≠ .baton
      let waits := fun (q : LRef) => s.has q ∧ (s.group q.1).isK = false ∧ (s.block (s.group q.1).block).rest = none ∧
        (s.block (s.group q.1).block).core0 = n ∧ ∃ pc, (s.lane q).status = .parked .baton pc
      let crew := fun (q : LRef) => ((s.group q.1).block, (s.lane q).crew)
      ∃ t : State, ans .privEngineReset t 0 ∧ t.hbm = s.hbm ∧ t.blocks = s.blocks ∧ (∀ j, j ≠ n → t.core j = s.core j) ∧
        (∀ o, o ∈ t.ops ↔ o ∈ s.ops ∧ ¬ doomed o) ∧
        (t.core n).tickets.Nodup ∧ (∀ y, y ∈ (t.core n).tickets ↔ ∃ q, waits q ∧ crew q = y) ∧
        (∀ (i j : Nat) (y z : Nat × Nat), (t.core n).tickets[i]? = some y → (t.core n).tickets[j]? = some z → i < j →
          ∃ q : LRef, waits q ∧ crew q = y ∧ ∀ p : LRef, waits p → crew p = z → (s.lane q).parkedAt ≤ (s.lane p).parkedAt) ∧
        (∀ o, doomed o → ∀ y ∈ o.signers, s.has (signerLane y) →
          let z := t.lane (signerLane y)
          (∀ j, j < 4096 / o.signers.length → y.d + j < (s.lane (signerLane y)).regs.length → (z.regs.getD (y.d + j) {}).poison = true) ∧
          (∀ w ∈ z.owned, w.2.2 ≠ o.id) ∧
          ((s.lane (signerLane y)).unexited = true → ∀ num, o.nums.find? (fun w => w.1 == y.gid) = some (y.gid, num) →
            .engine 0x0F num (lo32 (o.pc - o.entry)) ∈ z.async)) ∧
        (∀ o, doomed o → ∀ q pc, s.has q → (s.group q.1).isK = false → (s.group q.1).block = o.block →
          (s.lane q).status = .parked (.op o.id) pc → (t.lane q).status = .ready ∧ (t.lane q).pc = ((s.lane q).advance pc).pc) ∧
        (∀ q, (∀ o, doomed o → (∀ y ∈ o.signers, signerLane y ≠ q) ∧ ∀ pc, (s.lane q).status ≠ .parked (.op o.id) pc) →
          t.lane q = s.lane q)) ∧
    (n < 8 → x 1 < 65536 → ans .privDerate { s with derateNext := some n, hangMs := if x 1 = 0 then s.hangMs else x 1 } 0) ∧
    (∀ f, n < 4 → x 1 < 1024 → tget (x 1) (s.die n).faults = some f →
      (f.fatal = false → x 2 = 0 → f.bins = [] → f.copies = [] → f.grids = [] → (∀ q ∈ f.lanes, (s.lane q).status = .parked (.replay n (x 1)) (s.lane q).pc) →
        ans .privFaultReplay ((f.lanes.foldl (fun t q => t.modLane q fun y =>
            { y with status := .ready, loop := y.loop.map fun z => { z with body := [] } }) s).modDie n fun y =>
          { y with faults := tdel (x 1) y.faults }) 0) ∧
      (f.fatal = false → x 2 = 1 → f.bins = [] → f.copies = [] → f.grids = [] → ∀ q, f.lanes = [q] → (s.lane q).status = .parked (.replay n (x 1)) (s.lane q).pc →
        s.policy (s.group q.1).ctx 0x09 = 0 → (s.lane q).canDeliver = true →
        let u := s.modLane q fun y => { y with status := .ready, pendReplay := false, stack := y.stack.take 8 }
        let t := (f.saves.foldl (fun t c => t.modCtx c fun y => { y with givenUp := sput (f.va / 4096) y.givenUp }) u).modDie n fun y =>
          { y with faults := tdel (x 1) y.faults }
        ans .privFaultFail ((t.deliver q 0x09 (s.lane q).pc (s.lane q).faultVa).count (s.group q.1).ctx 6 1) 0) ∧
      (Answers .privReadFaultRecord s l r d a
        (if f.fatal then s.modDie n fun y => { y with faults := tdel (x 1) y.faults } else s) 0
        [BitVec.ofNat 32 f.va, BitVec.ofNat 32 (f.va / 2 ^ 32), BitVec.ofNat 32 f.asid,
         BitVec.ofNat 32 (f.core * 65536 + f.reason * 256 + f.level * 32 + f.kind.code * 8 + if f.fatal then 4 else 0)])) ∧
    (n < 256 → c.phase ≠ .free → ∃ out, Answers .privPoolQuery s l r d a s 0
      (BitVec.ofNat 32 (c.hdr.poolsize - (c.frames.map (·.len)).sum) :: out) ∧ out.length = 3) ∧
    (n < 1024 → x 1 = 0 → ans .privQueueDisable (s.modQueue n fun q => { q with active := false }) 0) ∧
    (n < 1024 → x 1 = 1 →
      let void := fun (e : EventRec) => if e.ofQueue = true ∧ e.queue = n then { e with void := true } else e
      ans .privQueueActivate ({ s with
        eventQ := s.eventQ.map void
        kcores := s.kcores.map fun (y : Nat × KCore) => (y.1, { y.2 with event := y.2.event.map void }) }.modQueue n fun _ => { active := true }) 0) ∧
    (n < 64 → ans .privMsix { s with msix := sput n s.msix } 0) ∧
    ((s.firmware va).isSome = true → s.complex.successor = none → ans .privHandover { s with
      complex := { s.complex with state := .handover, successor := some va }
      kcores := s.kcores.map fun (y : Nat × KCore) => (y.1, { y.2 with status := if y.2.status = .idle then .stopped else y.2.status }) } 0)

namespace Sys2Proof.Machine.Claims

/-! ### Terms of the machine's own events -/

/-- The event queue has room for one more event, and none is held before it (R357). -/
def Room (s : State) : Prop := s.eventHeld = [] ∧ s.eventQ.length < 4096

/-- An event raised between two states, its words as numbers. -/
def Raised (s t : State) (kind : Byte) (w2 w3 : Nat) : Prop := Raises s t kind (BitVec.ofNat 32 w2) (BitVec.ofNat 32 w3)

/-- No byte of a range lies in a line with tentative versions, or in a retired granule. -/
def Plain (s : State) (a n : Nat) : Prop := ∀ i, i < n → s.lineRec (a + i) = none ∧ s.isRetired (a + i) = false

/-- The operation of an engine's event: the head of its queue, whose first signer by rank is `x`, untagged, with its images'
first words at the offsets the signers named. -/
structure AtEngine (s : State) (o : MxOp) (x : Signer) : Prop where
  head : s.engineHead s.ev.a = some o
  first : o.ranked.head? = some x
  same : ∀ y ∈ o.signers, y.aOff = x.aOff ∧ y.bOff = x.bOff ∧ y.fmt = x.fmt
  some : o.signers ≠ []
  plain : o.tag = 0

/-- Words of the operation's block. -/
def imageWords (s : State) (o : MxOp) (off n : Nat) : List PWord :=
  (List.range n).map fun i => (s.block o.block).scratch.word 8 (off + 4 * i)

/-- A transfer of the event's copy that may move a granule now, between global memory and scratchpad. -/
structure MayMove (s v : State) (c : Copy) (x : Xfer) (va off key pa : Nat) (k : Kind) : Prop where
  copy : s.copies.find? (fun c => c.id == s.ev.a) = some c
  free : c.held = none ∧ c.failed = false ∧ (s.block c.block).rest = none
  xfer : c.xfers[s.ev.b]? = some x
  more : x.done < x.total
  plain : x.conv = none
  alone : ∀ e ∈ s.copies, e.id ≠ c.id → e.block ≠ c.block
  place : s.locate none (dieOf c.core) (s.ctx c.ctx).hdr.asid (va + 16 * x.done) k = (v, .ok (.hbm key pa))
  quiet : s.lineRec pa = none ∧ s.isRetired pa = false
  held : (s.blocks.any fun b => b.bid == c.block) = true ∧ (s.block c.block).racing = []
  wf : s.hbm.wf = true ∧ (s.block c.block).scratch.wf = true

/-- The rows of a core after groups `born` of a grid took their seats, with the rows that they opened (R79). -/
def rowsWith (s : State) (g : Grid) (c : Nat) (born : List Group) : List (Nat × Row) :=
  (born.filter fun h => h.agent == .core c).foldl (fun rows h =>
    if (tget h.row rows).isSome then rows
    else tput h.row { grid := g.uid, regs := g.regs, readyAt := (s.core c).cycles.toNat } rows) (s.core c).rows

/-- Row `n` of the core holds the grid, and has a group's width of free aligned slots from `k` (R79). -/
def OpenAt (s : State) (g : Grid) (c : Nat) (born : List Group) (n k : Nat) : Prop :=
  (∃ y, (n, y) ∈ rowsWith s g c born ∧ y.grid = g.uid) ∧ k % g.width = 0 ∧ k + g.width ≤ 256 ∧
  ∀ h ∈ s.groups ++ born, h.agent = .core c → h.row = n → h.freed = false → k + g.width ≤ h.slot ∨ h.slot + h.width ≤ k

/-- The core admits one row more of the grid (R13). -/
def AdmitsRow (s : State) (g : Grid) (c : Nat) (born : List Group) : Prop :=
  (rowsWith s g c born).length < 128 ∧ ((rowsWith s g c born).map fun y => 256 * y.2.regs).sum + 256 * g.regs ≤ 1048576

/-- The next group's seat on a core (R79): the lowest slot of the lowest-numbered row that holds the grid and has room, or,
with no such row, the lowest-numbered free row, which it opens. -/
def SeatAt (s : State) (g : Grid) (c : Nat) (born : List Group) (n k : Nat) : Prop :=
  (OpenAt s g c born n k ∧ ∀ m j, OpenAt s g c born m j → n < m ∨ (n = m ∧ k ≤ j)) ∨
  ((∀ m j, ¬ OpenAt s g c born m j) ∧ AdmitsRow s g c born ∧ k = 0 ∧ (∀ y, (n, y) ∉ rowsWith s g c born) ∧
    ∀ m, m < n → ∃ y, (m, y) ∈ rowsWith s g c born)

/-- A block's groups, in ascending gidx, have their seats on a list of cores: each core takes groups for as long as it can
admit them, and only then does the next core take any (R81). -/
def SeatedOn (s : State) (g : Grid) (cores : List Nat) (born : List Group) : Prop :=
  born.length = (g.blksize + g.width - 1) / g.width ∧ (∀ x ∈ born, x.width = g.width ∧ x.freed = false) ∧
  ∀ (i : Nat) (x : Group), born[i]? = some x → ∃ (j c : Nat), cores[j]? = some c ∧ x.agent = .core c ∧ SeatAt s g c (born.take i) x.row x.slot ∧
    ∀ (m d : Nat), m < j → cores[m]? = some d → (∀ n k, ¬ OpenAt s g d (born.take i) n k) ∧ ¬ AdmitsRow s g d (born.take i)

/-- Lines a block has in each share but the last, over `n` cores (R168). -/
def shareLines (g : Grid) (n : Nat) : Nat := (g.lines + n - 1) / n

/-- A core has free chunks for a share of `n` lines (R13, R168). -/
def ChunksFor (s : State) (c n : Nat) : Prop :=
  (s.blocks.map fun b => ((b.shares.filter fun x => x.core == c).map fun x => (x.lines + 31) / 32).sum).sum + (n + 31) / 32 ≤ 384

/-- A block of the grid has room on a list of cores. -/
def FitsOn (s : State) (g : Grid) (cores : List Nat) : Prop :=
  (∀ j c, cores[j]? = some c → ChunksFor s c
    (min ((j + 1) * shareLines g cores.length) g.lines - min (j * shareLines g cores.length) g.lines)) ∧
  ∃ born, SeatedOn s g cores born

/-- A core that the Forager may deal to: none withheld (R375), and a task group's are those of its bin's die (R287). -/
def Dealable (s : State) (g : Grid) (c : Nat) : Prop :=
  (s.core c).withheld = false ∧ match g.task with | some t => c / 40 = t.2.2.1 | none => c < 160

/-- Core `a` precedes core `b` in the deal of a grid (R80): the smaller key (assigned + 1) / f, then the lower number. -/
def Precedes (g : Grid) (a b : Nat) : Prop :=
  let x := ((tget a g.assigned).getD 0 + 1) * (72 + fusedEntry b)
  let y := ((tget b g.assigned).getD 0 + 1) * (72 + fusedEntry a)
  x < y ∨ (x = y ∧ a < b)

/-- The cores of an attempt to spread a block over some of die `d` (R81): the first in the order of R80, two to four, of
those with chunks for a share. -/
def Attempt (s : State) (g : Grid) (d : Nat) (cores : List Nat) : Prop :=
  d < 4 ∧ 2 ≤ cores.length ∧ cores.length ≤ 4 ∧ cores.Pairwise (Precedes g) ∧
  (∀ c ∈ cores, Dealable s g c ∧ c / 40 = d ∧ ChunksFor s c (shareLines g cores.length)) ∧
  ∀ a, Dealable s g a → a / 40 = d → ChunksFor s a (shareLines g cores.length) → a ∈ cores ∨ ∀ c ∈ cores, Precedes g c a

/-- The cores that a block goes to (R80, R81): the one core with room that precedes every other; else those of the first
attempt that succeeds, by die and then by count. -/
def GoesTo (s : State) (g : Grid) (cores : List Nat) : Prop :=
  (∃ c, cores = [c] ∧ Dealable s g c ∧ FitsOn s g [c] ∧
    ∀ a, Dealable s g a → FitsOn s g [a] → a = c ∨ Precedes g c a) ∨
  ((∀ a, Dealable s g a → ¬ FitsOn s g [a]) ∧ ∃ d, Attempt s g d cores ∧ FitsOn s g cores ∧
    ∀ e l, Attempt s g e l → e < d ∨ (e = d ∧ l.length < cores.length) → ¬ FitsOn s g l)

/-- A thread at birth (R150, R241), its PC at the kernel entry: what is not named here is 0, empty or untagged. -/
def newThread (s : State) (g : Grid) (c : Nat) (status : LaneStatus) (helper : Bool) : Lane :=
  { status := status, helper := helper, regs := List.replicate g.regs ⟨0, false⟩, code := g.code, entry := g.code.cursor
    anchor := g.anchor, unwritten := BitVec.allOnes 64, acquired := List.replicate 5 s.past.length
    lastIssue := (s.core c).cycles.toNat }

/-- Group `i` of a block at birth (R75, R76, R150): threads, then helper lanes up to a whole quad, then empty slots; a task
group has its records' count, its node, its bound and its kill bit (R287, R296). -/
def newGroup (s : State) (g : Grid) (block i : Nat) (x : Group) (c : Nat) : Group :=
  let n := min g.width (g.blksize - i * g.width)
  { gid := s.nextId + 1 + i, agent := .core c, ctx := g.ctx, grid := g.uid, block := block, gidx := i, width := g.width
    regs := g.regs, row := x.row, slot := x.slot
    lanes := (List.range g.width).map fun k =>
      if k < n then newThread s g c .ready false
      else if k < (n + 3) / 4 * 4 then newThread s g c .ready true else newThread s g c .empty false
    bound := g.task.map fun t => t.2.2.2
    nrec := match g.task with | some t => BitVec.ofNat 32 t.2.1.length | none => 0
    nodeid := match g.task with | some t => BitVec.ofNat 32 t.1 | none => 0xFFFFFFFF
    taskKill := match g.task with
      | some t => ((tget t.1 (s.ctx g.ctx).nodes).map fun n => n.kill).getD false
      | none => false }

/-- The next block of a grid has been dealt to `cores` (R80, R81, R150, R168, R287). -/
def Dealt (s : State) (g : Grid) (cores : List Nat) (t : State) : Prop :=
  ∃ (b : Block) (born : List Group), SeatedOn s g cores born ∧
    t.groups = s.groups ++ born ∧ t.blocks = s.blocks ++ [b] ∧ t.hbm = s.hbm ∧ t.ctxs = s.ctxs ∧
    (∀ i x, born[i]? = some x → ∃ c, x = newGroup s g b.bid i x c) ∧
    (b.grid = g.uid ∧ b.index = g.next ∧ b.lines = g.lines ∧ b.q = shareLines g cores.length ∧
      b.roster = [] ∧ b.cvs = [] ∧ b.pclr = [] ∧
      b.shares.map (fun x => (x.core, x.first, x.lines)) = cores.zipIdx.map fun y =>
        (y.1, min (y.2 * b.q) g.lines, min ((y.2 + 1) * b.q) g.lines - min (y.2 * b.q) g.lines)) ∧
    (g.task = none → b.scratch = {}) ∧
    (∀ node recs die bound, g.task = some (node, recs, die, bound) → ∀ j i r w, recs[j]? = some r → r[i]? = some w →
      (∀ y ∈ recs, y.length = r.length) → (b.scratch.word 8 (4 * (j * r.length + i))).val = w.val) ∧
    (∀ c, c ∈ cores → (t.core c).rows = rowsWith s g c born) ∧ (∀ c, c ∉ cores → t.core c = s.core c) ∧
    t.grid g.uid = { g with
      next := g.next + 1, home := if g.next = 0 then cores.headD 0 else g.home
      assigned := cores.foldl (fun l c => tput c ((tget c l).getD 0 + 1) l) g.assigned
      state := if g.next + 1 = g.blocks then .placed else g.state }

/-- A lease reset has begun (R373): Sexton scrubs for the next lease, and what firmware made of the device is gone. -/
structure LeaseBegun (s t : State) : Prop where
  state : t.sexton.state = 1
  lease : t.sexton.lease = s.sexton.lease + 1
  gone : t.groups = [] ∧ t.ctxs = [] ∧ t.keys = [] ∧ t.asids = [] ∧ t.complex.state = .reset ∧ t.domid = 0xFF
  kept : t.retired = s.retired ∧ t.sexton.degraded = s.sexton.degraded ∧ t.linkUp = s.linkUp ∧ t.i3cAddr = s.i3cAddr
  record : t.sexton.record = {} ∧ t.sexton.recvalid = false
  power : t.power.on = true ∧ t.power.watts = 0 ∧ t.power.volts = 0 ∧ t.power.inlet = 0 ∧ t.power.hottest = 0 ∧
    t.power.pwrBrake = false ∧ t.power.thermBrake = false

/-- A request accepted while the device boots: noted, with the nonce as it stands, for the lease reset that the boot makes
(R373). -/
def leaseAsked (s : State) (wipe : Bool) : State :=
  { s with sexton := { s.sexton with asked := some (s.sexton.nonce, wipe || match s.sexton.asked with | some a => a.2 | none => false) } }

/-- The copy's transfer has moved one more granule. -/
def moved (s : State) (c : Copy) (i : Nat) : List Copy :=
  s.copies.map fun y => if y.id == c.id then { y with xfers := y.xfers.modify i fun x => { x with done := x.done + 1 } } else y

end Sys2Proof.Machine.Claims

/-! ## Events -/

/-- The events of engines, copies, lanes, bins, regions and contexts, each where its condition holds: R84 (0x01), R155, R157,
R177, R211, R274 to R276, R287, R289, R297, R311, R327, R335, R338. The deal of a block, to which cores, with its groups'
rows and slots and their birth: R13, R75, R76, R79 to R81, R150, R168, R287.
What is the model's own in it: log entries 15, 17, 31, 45, 52, 61, 68, 71, 83, 103, 108, 109, 111, 120, 124, 141, 142, 146. -/
def Obligations.MachineEvents : Prop :=
  ∀ (s : State),
    let a := s.ev.a
    let r : LRef := (s.ev.a, s.ev.b)
    let x := s.lane r
    let quiet := fun (t : State) => t.hbm = s.hbm ∧ t.blocks = s.blocks
    (∀ o y, AtEngine s o y → o.phase = .queued →
      let ha := imageWords s o y.aOff 8
      let hb := imageWords s o y.bOff 8
      s.linesPresent o.block y.aOff 32 = true → s.linesPresent o.block y.bOff 32 = true →
      (o.reason ha hb = none → exec .mxOperandWaitEnd s = .next (s.modOp o.id fun z => { z with phase := .operands ha hb })) ∧
      (o.reason ha hb ≠ none → ∃ t, exec .mxOperandWaitEnd s = .next t ∧ quiet t ∧ ∀ z ∈ t.ops, z.id ≠ o.id)) ∧
    (∀ o y ia ib, AtEngine s o y → o.phase = .computing ia ib → imageWords s o y.aOff ia.length = ia →
      imageWords s o y.bOff ib.length = ib →
      ∃ t, exec .mxComputeEnd s = .next t ∧ quiet t ∧ (∀ z ∈ t.ops, z.id ≠ o.id) ∧
        (∀ q, (∀ z ∈ o.signers, (z.gid, z.lane) ≠ q) → t.lane q = s.lane q) ∧
        ((o.signers.map fun z => (z.gid, z.lane)).Nodup → ∀ k z, o.ranked[k]? = some z → s.signerLives z = true →
          s.has (z.gid, z.lane) → ∀ j, j < o.perSigner → z.d + j < (s.lane (z.gid, z.lane)).regs.length →
          (s.lane (z.gid, z.lane)).dirty.contains (z.d + j) = false →
          let ha := hdrOf (ia.map (·.val))
          let hb := hdrOf (ib.map (·.val))
          let e := k * o.perSigner + j
          (t.lane (z.gid, z.lane)).regs.getD (z.d + j) {} = sumSegs (fwdOf y.fmt) true
            ((List.range ha.segs).map fun g => ha.seg (viewOf ia) (e / 64) g)
            ((List.range hb.segs).map fun g => hb.seg (viewOf ib) (e % 64) g)
            ((s.lane (z.gid, z.lane)).regs.getD (z.d + j) {}))) ∧
    (∀ v c y va off key pa, y.tags = false →
      let i := off + 16 * y.done
      let sp := fun (t : State) => (t.block c.block).scratch
      (MayMove s v c y va off key pa .read → y.src = .global va → y.dst = .scratch off →
        ∃ t, exec .copyAdvance s = .next t ∧ t.copies = moved s c s.ev.b ∧ t.hbm = s.hbm ∧ (∀ q, t.lane q = s.lane q) ∧
          ∀ k, (sp t).byte k = if i ≤ k ∧ k < i + 16 then s.hbmByte key (pa + (k - i)) else (sp s).byte k) ∧
      (MayMove s v c y va off key pa .write → y.src = .scratch off → y.dst = .global va → pa % 16 = 0 →
        ∃ t, exec .copyAdvance s = .next t ∧ t.copies = moved s c s.ev.b ∧ t.blocks = s.blocks ∧ (∀ q, t.lane q = s.lane q) ∧
          (∀ k, k < 16 → t.hbmByte key (pa + k) = (sp s).byte (i + k)) ∧
          ∀ j b, b / 32 ≠ pa / 32 → t.hbmByte j b = s.hbmByte j b)) ∧
    (∀ c, s.copies.find? (fun c => c.id == a) = some c → c.written = true → c.tag = 0 →
      exec .copyComplete s = .next { s with copies := s.copies.filter fun y => y.id != a }) ∧
    (∀ cause lo hi rest, x.async = .engine cause lo hi :: rest → x.atBoundary = true →
      s.policy (s.group r.1).ctx cause = 0 → x.canDeliver = true →
      exec .asyncTrapDelivery s = .next ((((s.modLane r fun y => { y with async := rest }).deliver r cause x.pc
        (pair64 hi lo)).count (s.group r.1).ctx 6 1))) ∧
    (∀ u, (∀ b ∈ s.blocks, b.rest = none) → (s.launchQueue a).head? = some u → (∃ y ∈ s.grids, y.uid = u) →
      let g := s.grid u
      (s.ctx g.ctx).phase = .running → g.held = false → (∀ p, g.pred = some p → s.gridDone p = true) → g.framed = true →
      g.coop = false → 0 < g.width → (∀ c, ((s.core c).rows.map (·.1)).Pairwise (· < ·)) →
      (∀ cores, GoesTo s g cores → ∃ t, exec .foragerDeal s = .next t ∧ Dealt s g cores t ∧
        t.launchQueue a = if g.next + 1 = g.blocks then (s.launchQueue a).filter (· != u) else s.launchQueue a) ∧
      ((∀ cores, ¬ GoesTo s g cores) → exec .foragerDeal s = .next s)) ∧
    ((∃ y ∈ s.delayed, y.1 = some a) → exec .contextCompletion s = .next s) ∧
    (∀ n, (s.ctx a).ending = some n ∨ ((s.ctx a).ending = none ∧ s.finished a = true ∧ n = 0) → (∀ y ∈ s.delayed, y.1 ≠ some a) →
      ∃ t, exec .contextCompletion s = .next t ∧ (t.ctx a).phase = .free ∧ (∀ c, c ≠ a → t.ctx c = s.ctx c) ∧ t.hbm = s.hbm ∧
        Raised s t 0x02 a n ∧ (a < 256 → ∀ y ∈ t.regions, y.1 < 256 → y.2.ctx ≠ a) ∧ ∀ g ∈ t.groups, g.isK = true ∨ g.ctx ≠ a) ∧
    (∀ n, tget s.ev.c (s.ctx a).nodes = some n →
      let c := s.ctx a
      let b := c.bin s.ev.b s.ev.c
      b.timer = true → b.records ≠ [] → b.held = false → b.records.length < n.count → c.phase = .running → c.granQ ≠ [] →
      (∀ y ∈ b.records, s.hopeless a s.ev.b y = false) →
      ∃ t g, exec .binTimerExpiry s = .next t ∧ t.grids = s.grids ++ [g] ∧ g.task = some (s.ev.c, b.records, s.ev.b, leastBound b.records) ∧
        g.state = .queued ∧ g.framed = false ∧ g.code = n.entry ∧ g.anchor = n.code.cursor ∧ t.launchQueue c.hdr.priority = s.launchQueue c.hdr.priority ++ [g.uid] ∧
        ((t.ctx a).bin s.ev.b s.ev.c).records = [] ∧ quiet t) ∧
    (∀ reg key tag rest, (s.die a).coming = (reg, key, tag) :: rest →
      ∃ t, exec .improvementReachesDie s = .next t ∧ (t.die a).coming = rest ∧ tget reg (t.die a).replicas = some (key, tag) ∧
        ((∀ c ∈ s.ctxs, tget 0 c.2.slots ≠ some reg) → t = s.modDie a fun d =>
          { d with coming := rest, replicas := tput reg (key, tag) d.replicas })) ∧
    (x.kill = true → x.unexited = true → x.halted = false → x.awaitsResult = false → (s.group r.1).region = none →
      (s.block (s.group r.1).block).roster = [] → (s.grid (s.group r.1).grid).coop = false → s.has r →
      let g := s.group r.1
      ∃ t, exec .killTakesEffect s = .next t ∧ (t.lane r).status = .exited ∧ (t.lane r).regs = x.regs ∧
        (t.group r.1).killed = true ∧ (g.killed = false → (t.group r.1).spec = []) ∧
        (t.ctx g.ctx).kills = (s.ctx g.ctx).kills + (if g.killed = true then 0 else 1) ∧
        (∀ q : LRef, q.1 ≠ r.1 → t.lane q = s.lane q) ∧ quiet t) ∧
    (x.halted = true ∨ x.awaitsResult = true → exec .killTakesEffect s = .next s) ∧
    ((s.region a).state = .committing → (s.region a).members ≠ [] → s.delayed = [] → (∀ g ∈ (s.region a).members, (s.group g).spec = []) →
      (∀ d, d < 4 → ∀ y ∈ (s.die d).dir, y.region ≠ a) →
      ∃ t, exec .regionInstallComplete s = .next t ∧ (t.region a).state = .committed ∧ (∀ q, t.lane q = s.lane q) ∧ quiet t) ∧
    (∀ reason m rest, x.async = .region reason :: rest → x.atBoundary = true → (s.group r.1).region = some m → s.has r →
      ∃ t, exec .regionAbortDelivery s = .next t ∧ (t.lane r).status = .ready ∧ (t.lane r).code = m.target ∧ (t.lane r).anchor = m.anchor ∧
        (t.lane r).arreason = reason.setWidth 32 ∧ (t.lane r).loop = none ∧ (t.lane r).async = rest ∧ (t.lane r).regs = x.regs ∧
        (∀ b, b < 8 → (t.group r.1).recs.getD b {} = {}) ∧ (∀ q, q ≠ r → t.lane q = s.lane q) ∧ quiet t) ∧
    (∀ y pc, s.remotes.find? (fun y => y.id == a) = some y → (s.lane (y.gid, y.lane)).status = .parked (.remote a) pc →
      (∀ g ∈ s.groups, g.gid = y.gid → g = s.group y.gid) →
      let back := fun (bs : List Byte) (bad tag over' : Bool) =>
        { s with remotes := s.remotes.filter fun z => z.id != a }.modLane (y.gid, y.lane) fun z =>
          { z with status := .ready, returned := z.returned ++ [(⟨y, bs, bad, tag, over'⟩ : Returned)] }
      let cap := capOfBytes s.ev.data true
      (s.ev.data.length = y.size → exec .remoteDataReturn s = .next (back s.ev.data s.ev.flag
        (s.ev.tag && decide (y.size = 16) && cap.sound && cap.perm 7 && !cap.perm 6) s.ev.overflow)) ∧
      exec .remoteAccessTimeout s = .next (back (List.replicate y.size 0) true false false)) ∧
    (∀ d, s.derateNext = some d → exec .derateTakesEffect s = .next { s with derate := d, derateNext := none }) ∧
    (∀ y since, y ∈ (s.core a).rows → y.1 = s.ev.b → y.2.rgnSince = some since → y.2.slot = none →
      since + 65536 ≤ (s.core a).cycles.toNat → (∃ q ∈ s.atWindow a s.ev.b, q.halted = false) →
      (∃ z ∈ (s.core a).rows, z.2.slot.isSome = true) →
      (∀ z ∈ (s.core a).rows, z ≠ y → z.2.rgnSince = none ∨ z.2.slot.isSome = true) → s.slotOverdue a = some s.ev.b) ∧
    (∀ v k, s.slotOverdue a = some s.ev.b → v ∈ (s.core a).rows → v.2.slot = some k → (∀ y ∈ (s.core a).rows, y.2.slot.isSome = true → y = v ∨ v.2.lastIssue < y.2.lastIssue) →
      exec .windowSlotAgeGrant s = .next ((s.modRow a v.1 fun y => { y with slot := none, map := [] }).modRow a s.ev.b fun y =>
        { y with slot := some k, rgnSince := none })) ∧
    (let row := s.row (s.group a).coreOf (s.group a).row
     (s.group a).isK = false → (s.group a).freed = false → (s.group a).evicted = false → row.sl.getLsbD (s.ev.c / 4) = true → (∀ q ∈ row.map, q.toNat ≠ s.ev.c / 4) → x.halted = false →
      x.unwritten.getLsbD s.ev.c = false →
      exec .shortLivedExpiry s = .next (s.modLane r fun y =>
        { y with stale := if y.stale.contains s.ev.c then y.stale else s.ev.c :: y.stale })) ∧
    (s.drained a = true → (s.ctx a).phase = .halting → (s.ctx a).owed = [] →
      (((s.ctx a).request = .program ∨ ∃ op, (s.ctx a).request = .halt op) →
        ∃ t, exec .haltComplete s = .next t ∧ (t.ctx a).phase = .halted ∧ (t.ctx a).request = .none ∧ t.eventQ = s.eventQ ∧
          (∀ q, t.lane q = s.lane q) ∧ quiet t) ∧
      ((s.ctx a).request = .kill true → ∃ t, exec .haltComplete s = .next t ∧ (t.ctx a).ending = some 1 ∧
        (t.ctx a).frames = [] ∧ Raised s t 0x03 a 5 ∧ ∀ g ∈ t.groups, g.isK = true ∨ g.ctx ≠ a)) ∧
    (let t : State := { s with
       groups := s.groups.map fun g =>
         if g.agent = .core a ∧ g.row = s.ev.b ∧ g.freed = false then
           { (g.refreshed s.steps).stopAt (s.core a).cycles with evicted := true }
         else g }
     s.evictable a s.ev.b = true →
      exec .rowEviction s = .next (t.modRow a s.ev.b fun y => { y with slot := none, map := [], kept := y.map, rgnSince := none })) ∧
    (∀ l, Ready s l → (∀ r ∈ l.lanes, Delivers s l r 0x01 ∧ (s.lane r).helper = false) →
      (∀ r ∈ l.lanes, ∀ q ∈ l.lanes, (s.group r.1).ctx = (s.group q.1).ctx) →
      Moves .illegalInstruction s l fun r y => delivered s l r 0x01 (pair64 (BitVec.ofNat 32 a) (lo32 s.ev.value)) y)

/-- The events of the command complex, of the host windows, of Sexton and of lasting errors, each where its condition holds:
R147, R356, R357, R358, R360, R365, R366, R368, R369, R372, R373, R375.
What is the model's own in it: log entries 12, 15, 92, 93, 95, 96, 97, 105, 106. -/
def Obligations.ComplexAndHostEvents : Prop :=
  ∀ (s : State),
    let a := s.ev.a
    let v := s.ev.value
    let enter := fun (n : Nat) (t : State) => { t with
      sexton := { t.sexton with state := n }, power := { t.power with ibi := t.power.ibi + if t.sexton.state = n then 0 else 1 } }
    (∀ e rest pc, s.eventQ = e :: rest → s.complex.state = .running →
      (s.kcores.find? fun k => k.2.status == .idle).map (·.1) = some a → (s.lane (kGid a, 0)).status = .parked .event pc → s.has (kGid a, 0) →
      (s.lane (kGid a, 0)).loop = none →
      ∃ t, exec .eventDelivery s = .next t ∧ (s.eventHeld = [] → t.eventQ = rest ∧ t.queues = s.queues) ∧
        (∀ h hs, s.eventHeld = h :: hs → rest.length < 4096 → t.eventHeld = hs ∧ ∃ y, t.eventQ = rest ++ [y] ∧
          y.kind = h.kind ∧ y.queue = h.queue ∧ y.w2 = h.w2 ∧ y.w3 = h.w3) ∧ (t.kcore a).event = some e ∧ (t.kcore a).status = .running ∧
        (t.lane (kGid a, 0)).status = .ready ∧ (t.lane (kGid a, 0)).pc = pc + 4 ∧ t.hbm = s.hbm ∧
        (∀ k, k ≠ a → t.kcore k = s.kcore k) ∧
        ((s.kcore a).dest + 4 ≤ (s.lane (kGid a, 0)).regs.length → ∀ k, k < 4 →
          (t.lane (kGid a, 0)).regs.getD ((s.kcore a).dest + k) {} =
            ⟨[BitVec.ofNat 32 (e.kind.toNat * 2 ^ 24 + (if e.err = true ∨ (e.ofQueue = true ∧ (s.queue e.queue).err = true) then 2 ^ 23 else 0) +
                (if e.redo = true then 2 ^ 22 else 0) + e.queue % 1024), e.ticket, e.w2, e.w3].getD k 0, false⟩)) ∧
    (∀ w, tget a s.complex.ktimers = some w → ∃ t, exec .ktimerExpiry s = .next t ∧ Raised s t 0x08 a 0 ∧
      t.complex = { s.complex with ktimers := tdel a s.complex.ktimers } ∧ t.groups = s.groups ∧ t.kcores = s.kcores ∧ t.hbm = s.hbm) ∧
    ((s.kcore a).status = .running → (s.kcore a).event.isSome = true → s.complex.wdog ≠ 0 →
      ∃ t, exec .watchdogExpiry s = .next t ∧ t.complex.cause = 0xFF ∧ t.complex.crashes = min 15 (s.complex.crashes + 1) ∧
        t.complex.warm = true ∧ t.complex.wdog = 100000 ∧ t.complex.ktimers = [] ∧ t.hbm = s.hbm ∧
        (∀ c, (t.ctx c).ending = none → (t.ctx c).phase = .free ∨ (t.ctx c).phase = .frozen) ∧
        let serves := (s.firmware s.complex.fwimg.toNat).isSome = true ∧ ∃ k, k < 12 ∧ (s.kcore k).status ≠ .retired
        (serves → t.complex.state = .running) ∧ (¬ serves → t.complex.state = .crashed)) ∧
    (∀ entry clen dlen, (s.kcore a).status = .running → (s.kcore a).event = none → (s.kcore a).errs = [] →
      s.firmware s.complex.fwimg.toNat = some (entry, clen, dlen) →
      ∃ t, exec .imemUncorrectableError s = .next t ∧ (t.kcore a).status = .running ∧ (t.kcore a).errs = [v.toNat] ∧
        (t.lane (kGid a, 0)).pc = BitVec.ofNat 64 entry ∧ (t.kcore a).dmem = (s.kcore a).dmem ∧ t.hbm = s.hbm ∧
        ∀ k, k < clen → (t.kcore a).imem.byte k = s.hbmByte s.leaseKey (s.complex.fwimg.toNat + 32 + k)) ∧
    (a < 1024 → s.complex.state ≠ .reset → ∃ t, exec .queueTableError s = .next t ∧ (t.queue a).err = true ∧
      (Room s → (t.eventQ.getLast?).map (fun e => (e.kind, e.queue, e.ticket)) = some (0x09, a, (s.queue a).next) ∧
        (t.queue a).next = (s.queue a).next + 1) ∧
      (¬ Room s → t.eventQ = s.eventQ ∧ (t.eventHeld.getLast?).map (fun e => (e.kind, e.queue)) = some (0x09, a) ∧
        (t.queue a).next = (s.queue a).next) ∧ t.hbm = s.hbm) ∧
    (s.linkUp = true → a < 1024 → (s.queue a).active = true →
      (∀ e ∈ s.eventQ ++ s.eventHeld, e.kind ≠ 1 ∨ e.queue ≠ a) → ∃ t, exec .doorbell s = .next t ∧ t.hbm = s.hbm ∧
        (Room s → (t.queue a).next = (s.queue a).next + 1 ∧ t.eventQ = s.eventQ ++ [{
          kind := 1, queue := a, ticket := (s.queue a).next, w2 := v.setWidth 32, w3 := 0, order := s.eventOrder, ofQueue := true }]) ∧
        (¬ Room s → t = { s with eventHeld := s.eventHeld ++ [{ kind := 1, queue := a, w2 := v.setWidth 32, ofQueue := true }] })) ∧
    (∀ p e q, s.linkUp = true → a < 1024 → (s.queue a).active = true → s.eventHeld = p ++ e :: q → e.kind = 1 → e.queue = a →
      (∀ y ∈ q, y.kind ≠ 1 ∨ y.queue ≠ a) → exec .doorbell s = .next { s with
        eventHeld := p ++ { e with w2 := v.setWidth 32, w3 := BitVec.ofNat 32 ((e.w3.toNat + 1) % 65536) } :: q }) ∧
    (∀ p e q, s.linkUp = true → a < 1024 → (s.queue a).active = true → (∀ y ∈ s.eventHeld, y.kind ≠ 1 ∨ y.queue ≠ a) → s.eventQ = p ++ e :: q → e.kind = 1 → e.queue = a →
      (∀ y ∈ q, y.kind ≠ 1 ∨ y.queue ≠ a) → exec .doorbell s = .next { s with
        eventQ := p ++ { e with w2 := v.setWidth 32, w3 := BitVec.ofNat 32 ((e.w3.toNat + 1) % 65536) } :: q }) ∧
    (∀ base key, s.linkUp = true → s.aperture = some (base, key) → a + 4096 ≤ 2 ^ 36 → base + a + 4096 ≤ 2 ^ 39 →
      (s.ev.flag = false → s.ev.b ≤ 4096 → (∀ i, i < s.ev.b → s.lineRec (base + a + i) = none) → exec .apertureAccess s = .next { s with
        hostRead := (List.range s.ev.b).map fun i => s.hbmByte key (base + a + i), hostPoison := s.hbmPoison (base + a) s.ev.b }) ∧
      (s.ev.flag = true → s.ev.data.length ≤ 4096 → s.ev.data ≠ [] → s.hbm.wf = true →
        Plain s (base + a) s.ev.data.length →
        ∃ t, exec .apertureAccess s = .next t ∧ t.groups = s.groups ∧ t.blocks = s.blocks ∧
          ∀ i, i < s.ev.data.length → t.hbmByte key (base + a + i) = s.ev.data.getD i 0)) ∧
    (s.linkUp = true → s.aperture = none → s.ev.flag = false → exec .apertureAccess s = .next { s with
      hostRead := List.replicate s.ev.b 0xFF, hostPoison := false }) ∧
    (s.linkUp = true → s.power.on = true →
      (a = 0x30 → exec .hostRegisterWrite s = .next { s with sexton := { s.sexton with fwaddr := v } }) ∧
      (a = 0x20 → s.sexton.state = 3 → exec .hostRegisterWrite s = .next { s with aperBase := BitVec.ofNat 64 (v.toNat / 2 ^ 36 * 2 ^ 36) }) ∧
      (a = 0x28 → s.sexton.state = 3 → exec .hostRegisterWrite s = .next { s with aperSlot := v }) ∧
      (a = 0x38 → v.getLsbD 0 = true → exec .hostRegisterWrite s = exec .fwstart s) ∧
      (a = 0x40 → s.ev.data.length = 32 → exec .hostRegisterWrite s = .next { s with
        sexton := { s.sexton with nonce := BitVec.ofNat 256 (leNat s.ev.data) } })) ∧
    (s.power.on = true → s.sexton.state ≠ 0 → s.sexton.state ≠ 1 → s.sexton.state ≠ 4 →
      ∃ t, exec .leaseResetRequest s = .next t ∧ LeaseBegun s t ∧
        (s.ev.flag = true → ∀ b, t.hbm.byte b = if s.isRetired b = true then s.hbm.byte b else 0)) ∧
    (s.power.on = true → s.sexton.state = 0 → exec .leaseResetRequest s = .next (leaseAsked s s.ev.flag)) ∧
    (s.power.on = false ∨ s.sexton.state ∈ [1, 4] → exec .leaseResetRequest s = .next s) ∧
    (s.sexton.state = 2 ∨ s.sexton.state = 5 →
      (s.firmware s.sexton.fwaddr.toNat = none → exec .fwstart s = .next (enter 5 s)) ∧
      (∀ entry clen dlen, s.firmware s.sexton.fwaddr.toNat = some (entry, clen, dlen) →
        ∃ t, exec .fwstart s = .next t ∧ t.sexton.state = 3 ∧ t.complex.state = .running ∧ t.complex.fwimg = s.sexton.fwaddr ∧
          t.sexton.handovers = 0 ∧ t.hbm = s.hbm ∧ ∀ k, k < 12 → (s.kcore k).status ≠ .retired →
            (t.kcore k).status = .running ∧ (t.lane (kGid k, 0)).pc = BitVec.ofNat 64 entry ∧
            (∀ j, j < clen → (t.kcore k).imem.byte j = s.hbmByte s.leaseKey (s.sexton.fwaddr.toNat + 32 + j)) ∧
            ∀ j, j < dlen → (t.kcore k).dmem.byte j = s.hbmByte s.leaseKey (s.sexton.fwaddr.toNat + 32 + clen + j))) ∧
    (s.power.on = false ∨ s.sexton.state = 0 →
      ∃ t, exec .powerOn s = .next t ∧ t.power.volts = a ∧
        (4800 ≤ a → a ≤ 5400 → t.power.on = true ∧ t.sexton.state = if s.ev.flag = true then 1 else 4) ∧
        (a < 4800 ∨ 5400 < a → t.power.on = false ∧
          (s.power.on = false → t.sexton = s.sexton) ∧
          (s.power.on = true → t.sexton = { lease := s.sexton.lease, degraded := s.sexton.degraded } ∧ t.groups = [] ∧ t.ctxs = []))) ∧
    (s.sexton.state = 1 → s.lasting = [] → s.unspared = [] → ∃ t, exec .scrubComplete s = .next t ∧ t.sexton.state = 2 ∧ t.sexton.recvalid = true ∧
      t.sexton.overwrite = false ∧ t.sexton.record.valid = true ∧ t.sexton.record.lease = s.sexton.lease ∧
      t.sexton.record.nonce = s.sexton.atRequest ∧ t.sexton.record.scrubbed = (if s.sexton.overwrite = true then 0x3FFF else 0x1FFF) ∧
      t.sexton.record.meas = s.sexton.closing.1 ∧ t.hbm = s.hbm) ∧
    (∀ n, s.ev.unit = some (.hbm n) →
      let u := Site.hbmRow (n / 4096)
      let seen : Nat := ((s.ce.find? fun y => y.1 == u).map fun y => y.2).getD 0
      (∃ t, exec .correctedError s = .next t ∧ (t.ce.find? fun y => y.1 == u).map (fun y => y.2) = some (seen + 1) ∧ t.hbm = s.hbm ∧
        t.lasting = if 3 ≤ seen ∧ s.lasting.contains u = false then s.lasting ++ [u] else s.lasting) ∧
      (∃ t, exec .uncorrectableError s = .next t ∧ (s.isStale n = false → t.hbm.poisoned 32 n 1 = true) ∧
        (s.isStale n = true → t.hbm = s.hbm) ∧ u ∈ t.lasting ∧ t.hbm.cells = s.hbm.cells ∧
        t.groups = s.groups ∧ t.blocks = s.blocks)) ∧
    exec .ceWindowEnd s = .next { s with ce := [] }

/-- The events of power, of Cicada, of links and of the board, each where its condition holds: R377 to R379, R381, R383 to
R385, and the accesses, speculative atomics and region messages of other devices (R208 to R210, R310, R311). What the
commands of the board answer is the model's.
What is the model's own in it: log entries 13, 15, 43, 44, 45, 48, 49, 89, 96, 99, 100, 110, 143. -/
def Obligations.PowerLinkBoardEvents : Prop :=
  ∀ (s : State),
    let a := s.ev.a
    let p := s.power
    let core := s.core a
    let bytes := fun (code n : Nat) => { s with hostRead := (List.range n).map (Config.i3cByte code), hostPoison := false }
    ((a < 4800 ∨ 5400 < a) → p.on = true → ∃ t, exec .inputVoltageOutOfRange s = .next t ∧ t.power.on = false ∧ t.power.volts = a ∧
      t.sexton.state = 0 ∧ t.groups = [] ∧ t.ctxs = [] ∧ t.sexton.lease = s.sexton.lease ∧ t.lasting = s.lasting) ∧
    ((4800 ≤ a ∧ a ≤ 5400) ∨ p.on = false → exec .inputVoltageOutOfRange s = .next { s with power := { p with volts := a } }) ∧
    (p.on = true → s.ev.b ≤ 60 → exec .powerWindowEnd s = .next { s with
      power := { p with
        watts := a, inlet := s.ev.b, hottest := s.ev.c
        pwrBrake := decide (2400 < a), thermBrake := decide (45 < s.ev.b) || (p.fresh && p.thermBrake), fresh := false
        ibi := p.ibi + if p.pwrBrake = false ∧ p.thermBrake = false ∧ (2400 < a ∨ 45 < s.ev.b) then 1 else 0 } }) ∧
    (p.on = true → 45 < a → a ≤ 60 → exec .inletOverTemperature s = .next { s with
      power := { p with
        inlet := a, thermBrake := true, fresh := true
        ibi := p.ibi + if p.pwrBrake = false ∧ p.thermBrake = false then 1 else 0 } }) ∧
    (p.on = true → 60 < a → ∃ t, exec .inletOverTemperature s = .next t ∧ t.power.on = false ∧ t.groups = []) ∧
    (core.rows ≠ [] → (∀ y ∈ core.rows, s.rowBlocked a y.1 = true) →
      (core.gate.clock = false → exec .cicadaClockGate s = .next (s.modCore a fun c => { c with gate := { clock := true } })) ∧
      (core.gate.clock = true → exec .cicadaPowerGate s = .next (s.modCore a fun c => { c with gate := { c.gate with power := true } })) ∧
      (∀ n row rest, core.rows = (n, row) :: rest → core.gate.clock = true → core.gate.reported = false →
        ∃ t, exec .hangReport s = .next t ∧ Raised s t 0x06 a (s.grid row.grid).ctx ∧ (t.core a).gate.reported = true ∧
          t.groups = s.groups ∧ t.hbm = s.hbm ∧ ∀ y ∈ core.rows, ∀ g ∈ s.groups, g.agent = .core a → g.row = y.1 → g.freed = false →
            ∀ k z, k < 64 → g.lanes[k]? = some z → z.unexited = true →
              ∃ e ∈ (t.ctx (s.grid y.2.grid).ctx).reports, e.block = (s.block g.block).index ∧ e.gidx = g.gidx ∧ e.core = a ∧
                e.lanes.getLsbD k = true ∧ e.pc = z.pc ∧
                ∀ d m pc, z.status = .parked (.replay d m) pc → e.kind = 1 ∧ e.cause = 0x08)) ∧
    exec .linkDown s = .next { s with linkUp := false } ∧
    exec .linkRetrain s = .next { s with linkUp := true } ∧
    exec .i3cDomidWrite s = .next (if s.sexton.state = 2 then
      { s with
        domid := s.ev.value.setWidth 8
        routes := if s.ev.value.setWidth 8 = 0xFF#8 then [] else sdel (s.ev.value.setWidth 8).toNat s.routes } else s) ∧
    (s.ev.value.getLsbD 0 = true → s.ev.flag = false → exec .i3cLeasereq s = exec .leaseResetRequest s) ∧
    (s.ev.value.getLsbD 0 = false → exec .i3cLeasereq s = .next s) ∧
    (s.ev.value.getLsbD 0 = true → p.on = false ∨ s.sexton.state ∈ [1, 4] → exec .i3cLeasereq s = .next s) ∧
    (s.ev.value.getLsbD 0 = true → p.on = true → s.sexton.state = 0 → exec .i3cLeasereq s = .next (leaseAsked s false)) ∧
    (s.ev.value.getLsbD 0 = true → p.on = true → s.sexton.state ∉ [0, 1, 4] →
      ∃ t, exec .i3cLeasereq s = .next t ∧ LeaseBegun s t) ∧
    (∀ i ∈ [Instr.entdaa, .setdasa], exec i s = .next (if s.i3cAddr = none then { s with i3cAddr := some (BitVec.ofNat 7 a) } else s)) ∧
    exec .rstdaa s = .next { s with i3cAddr := none } ∧
    exec .getpid s = .next (bytes 0x8D 6) ∧ exec .getbcr s = .next (bytes 0x8E 1) ∧ exec .getdcr s = .next (bytes 0x8F 1) ∧
    exec .getstatus s = .next (bytes 0x90 2) ∧
    ((∀ y ∈ s.regions, a ∉ y.2.holders ∧ if y.1 < 256 then ∀ z ∈ y.2.remote, z.1 ≠ a else (y.1 - 256) / 256 % 256 ≠ a) →
      exec .fabricRouteLost s = .next { s with routes := sdel a s.routes }) ∧
    (∀ i x, s.regions = [(i, x)] → x.state = .opened ∨ x.state = .sealed → x.members ≠ [] →
      a ∈ x.holders ∨ (i < 256 ∧ ∃ z ∈ x.remote, z.1 = a) ∨ (256 ≤ i ∧ (i - 256) / 256 % 256 = a) →
      ∃ t, exec .fabricRouteLost s = .next t ∧ (t.region i).state = .aborted ∧ (t.region i).reason = 8 ∧ t.hbm = s.hbm) ∧
    (a < 192 → s.domid ≠ 0xFF → a ≠ s.domid.toNat → exec .fabricRouteRestored s = .next { s with routes := sput a s.routes }) ∧
    (∀ q : RemoteReq, s.ev.req = some q → p.on = true → s.sexton.state ≠ 0 → s.sexton.state ≠ 4 → ∀ key, s.keyOf q.slot = some key →
      (∀ n, q.op = .read n → q.addr + n ≤ 2 ^ 39 → (∀ i, i < n → s.lineRec (q.addr + i) = none) →
        (∀ y ∈ s.farSpec, q.group ≠ some y.1.2 ∨ q.dev ≠ y.1.1) →
        exec .remoteAccessRequest s = .next { s with
          hostRead := (List.range n).map fun i => s.hbmByte key (q.addr + i), hostPoison := s.hbmPoison q.addr n
          hostTag := decide (n = 16) && s.hbmTag key q.addr }) ∧
      (∀ bs, q.op = .write bs false false → q.addr + bs.length ≤ 2 ^ 39 → bs ≠ [] → s.hbm.wf = true → Plain s q.addr bs.length →
        ∃ t, exec .remoteAccessRequest s = .next t ∧ t.groups = s.groups ∧ t.blocks = s.blocks ∧
          ∀ i, i < bs.length → t.hbmByte key (q.addr + i) = bs.getD i 0)) ∧
    (∀ (q : RemoteReq) (k : Nat), s.ev.req = some q → q.group = some k → p.on = true → s.sexton.state ≠ 0 → s.sexton.state ≠ 4 →
      let mine := fun (y : (Nat × Nat) × SpecOp) => y.1 = (q.dev, k)
      (∀ lane aop d cmp bad key, q.op = .speculate lane aop d cmp bad → s.keyOf q.slot = some key → q.addr + 4 ≤ 2 ^ 39 →
        (∀ i, i < 4 → s.lineRec (q.addr + i) = none) → (∀ y ∈ s.farSpec, ¬ mine y) → s.dirUsed (homeDie q.addr) < dirCapacity →
        exec .remoteAccessRequest s = .next { s with
          farSpec := s.farSpec ++ [((q.dev, k), ⟨lane, key, q.addr, aop, ⟨d, bad⟩, cmp⟩)], hostOver := false
          hostRead := (List.range 4).map fun i => s.hbmByte key (q.addr + i), hostPoison := s.hbmPoison q.addr 4, hostTag := false }) ∧
      (∀ which, q.op = .discard which → exec .remoteAccessRequest s = .next { s with
        farSpec := s.farSpec.filter fun y => !(decide (mine y) && (which.isNone || decide (which = some y.2.lane))) }) ∧
      (q.op = .commit → (∀ y ∈ s.farSpec, mine y → s.lineRec y.2.addr = none) → ∃ t, exec .remoteAccessRequest s = .next t ∧ t.groups = s.groups ∧ t.blocks = s.blocks ∧
        (∀ y ∈ t.farSpec, ¬ mine y) ∧ ((∀ y ∈ s.farSpec, ¬ mine y) → t.hbm = s.hbm))) ∧
    (p.on = false ∨ s.sexton.state = 0 ∨ s.sexton.state = 4 →
      exec .remoteAccessRequest s = .next s ∧ exec .remoteRegionMessage s = .next s) ∧
    (∀ i reason, p.on = true → s.sexton.state ≠ 0 → s.sexton.state ≠ 4 → s.ev.msg = some (.abort i reason) → (s.region i).state = .opened →
      ∃ t, exec .remoteRegionMessage s = .next t ∧ t.hbm = s.hbm ∧ t.blocks = s.blocks ∧
        ((t.region i).state = .free ∨ ((t.region i).state = .aborted ∧ (t.region i).reason = reason)))

namespace Sys2Proof.Machine.Claims

/-- Every memory of the machine has its canonical form: HBM, the queue tables, every block's scratchpad, and the memories of
every Kolesque core. -/
structure Mems (s : State) : Prop where
  hbm : s.hbm.wf = true
  queues : s.queueMem.wf = true
  scratch : ∀ b ∈ s.blocks, b.scratch.wf = true
  complex : ∀ x ∈ s.kcores, x.2.imem.wf = true ∧ x.2.dmem.wf = true

end Sys2Proof.Machine.Claims

/-- Every step keeps every memory in its canonical form, so that equal memories are equal data. (The form is the model's own
representation, which the readings of memory rest on.)
What is the model's own in it: log entry 107. -/
def Obligations.StepsKeepMemories : Prop := ∀ s t : State, Mems s → step s = .next t → Mems t
end

