-- ==== Sys2Proof/Laws/State.lean ====
section
/-!
SUPPORT. What each update of the state leaves alone: one lemma for each field, true by unfolding, so that no proof opens a
record update.
-/

-- The proofs here are many and small: checking them one after another keeps the memory of the compile low.
set_option Elab.async false

namespace Sys2Proof.Machine

open Sys2Proof

@[simp] theorem modCore_agenda (s : State) (c : Nat) (f : Core → Core) : (s.modCore c f).agenda = s.agenda := rfl
@[simp] theorem modCore_steps (s : State) (c : Nat) (f : Core → Core) : (s.modCore c f).steps = s.steps := rfl
@[simp] theorem modCore_issue (s : State) (c : Nat) (f : Core → Core) : (s.modCore c f).issue = s.issue := rfl
@[simp] theorem modCore_ev (s : State) (c : Nat) (f : Core → Core) : (s.modCore c f).ev = s.ev := rfl
@[simp] theorem modCore_nextId (s : State) (c : Nat) (f : Core → Core) : (s.modCore c f).nextId = s.nextId := rfl
@[simp] theorem modCore_turn (s : State) (c : Nat) (f : Core → Core) : (s.modCore c f).turn = s.turn := rfl
@[simp] theorem modCore_images (s : State) (c : Nat) (f : Core → Core) : (s.modCore c f).images = s.images := rfl
@[simp] theorem modCore_dies (s : State) (c : Nat) (f : Core → Core) : (s.modCore c f).dies = s.dies := rfl
@[simp] theorem modCore_groups (s : State) (c : Nat) (f : Core → Core) : (s.modCore c f).groups = s.groups := rfl
@[simp] theorem modCore_blocks (s : State) (c : Nat) (f : Core → Core) : (s.modCore c f).blocks = s.blocks := rfl
@[simp] theorem modCore_grids (s : State) (c : Nat) (f : Core → Core) : (s.modCore c f).grids = s.grids := rfl
@[simp] theorem modCore_launchQ (s : State) (c : Nat) (f : Core → Core) : (s.modCore c f).launchQ = s.launchQ := rfl
@[simp] theorem modCore_copies (s : State) (c : Nat) (f : Core → Core) : (s.modCore c f).copies = s.copies := rfl
@[simp] theorem modCore_ops (s : State) (c : Nat) (f : Core → Core) : (s.modCore c f).ops = s.ops := rfl
@[simp] theorem modCore_ctxs (s : State) (c : Nat) (f : Core → Core) : (s.modCore c f).ctxs = s.ctxs := rfl
@[simp] theorem modCore_hbm (s : State) (c : Nat) (f : Core → Core) : (s.modCore c f).hbm = s.hbm := rfl
@[simp] theorem modCore_baseKey (s : State) (c : Nat) (f : Core → Core) : (s.modCore c f).baseKey = s.baseKey := rfl
@[simp] theorem modCore_sectorKeys (s : State) (c : Nat) (f : Core → Core) : (s.modCore c f).sectorKeys = s.sectorKeys := rfl
@[simp] theorem modCore_l1 (s : State) (c : Nat) (f : Core → Core) : (s.modCore c f).l1 = s.l1 := rfl
@[simp] theorem modCore_asids (s : State) (c : Nat) (f : Core → Core) : (s.modCore c f).asids = s.asids := rfl
@[simp] theorem modCore_keys (s : State) (c : Nat) (f : Core → Core) : (s.modCore c f).keys = s.keys := rfl
@[simp] theorem modCore_leaseLost (s : State) (c : Nat) (f : Core → Core) : (s.modCore c f).leaseLost = s.leaseLost := rfl
@[simp] theorem modCore_incumbents (s : State) (c : Nat) (f : Core → Core) : (s.modCore c f).incumbents = s.incumbents := rfl
@[simp] theorem modCore_regions (s : State) (c : Nat) (f : Core → Core) : (s.modCore c f).regions = s.regions := rfl
@[simp] theorem modCore_openCount (s : State) (c : Nat) (f : Core → Core) : (s.modCore c f).openCount = s.openCount := rfl
@[simp] theorem modCore_past (s : State) (c : Nat) (f : Core → Core) : (s.modCore c f).past = s.past := rfl
@[simp] theorem modCore_delayed (s : State) (c : Nat) (f : Core → Core) : (s.modCore c f).delayed = s.delayed := rfl
@[simp] theorem modCore_farSpec (s : State) (c : Nat) (f : Core → Core) : (s.modCore c f).farSpec = s.farSpec := rfl
@[simp] theorem modCore_derate (s : State) (c : Nat) (f : Core → Core) : (s.modCore c f).derate = s.derate := rfl
@[simp] theorem modCore_derateNext (s : State) (c : Nat) (f : Core → Core) : (s.modCore c f).derateNext = s.derateNext := rfl
@[simp] theorem modCore_hangMs (s : State) (c : Nat) (f : Core → Core) : (s.modCore c f).hangMs = s.hangMs := rfl
@[simp] theorem modCore_retired (s : State) (c : Nat) (f : Core → Core) : (s.modCore c f).retired = s.retired := rfl
@[simp] theorem modCore_ce (s : State) (c : Nat) (f : Core → Core) : (s.modCore c f).ce = s.ce := rfl
@[simp] theorem modCore_lasting (s : State) (c : Nat) (f : Core → Core) : (s.modCore c f).lasting = s.lasting := rfl
@[simp] theorem modCore_unspared (s : State) (c : Nat) (f : Core → Core) : (s.modCore c f).unspared = s.unspared := rfl
@[simp] theorem modCore_spares (s : State) (c : Nat) (f : Core → Core) : (s.modCore c f).spares = s.spares := rfl
@[simp] theorem modCore_kcores (s : State) (c : Nat) (f : Core → Core) : (s.modCore c f).kcores = s.kcores := rfl
@[simp] theorem modCore_complex (s : State) (c : Nat) (f : Core → Core) : (s.modCore c f).complex = s.complex := rfl
@[simp] theorem modCore_eventQ (s : State) (c : Nat) (f : Core → Core) : (s.modCore c f).eventQ = s.eventQ := rfl
@[simp] theorem modCore_eventHeld (s : State) (c : Nat) (f : Core → Core) : (s.modCore c f).eventHeld = s.eventHeld := rfl
@[simp] theorem modCore_queues (s : State) (c : Nat) (f : Core → Core) : (s.modCore c f).queues = s.queues := rfl
@[simp] theorem modCore_queueMem (s : State) (c : Nat) (f : Core → Core) : (s.modCore c f).queueMem = s.queueMem := rfl
@[simp] theorem modCore_eventOrder (s : State) (c : Nat) (f : Core → Core) : (s.modCore c f).eventOrder = s.eventOrder := rfl
@[simp] theorem modCore_msix (s : State) (c : Nat) (f : Core → Core) : (s.modCore c f).msix = s.msix := rfl
@[simp] theorem modCore_sexton (s : State) (c : Nat) (f : Core → Core) : (s.modCore c f).sexton = s.sexton := rfl
@[simp] theorem modCore_aperBase (s : State) (c : Nat) (f : Core → Core) : (s.modCore c f).aperBase = s.aperBase := rfl
@[simp] theorem modCore_aperSlot (s : State) (c : Nat) (f : Core → Core) : (s.modCore c f).aperSlot = s.aperSlot := rfl
@[simp] theorem modCore_power (s : State) (c : Nat) (f : Core → Core) : (s.modCore c f).power = s.power := rfl
@[simp] theorem modCore_linkUp (s : State) (c : Nat) (f : Core → Core) : (s.modCore c f).linkUp = s.linkUp := rfl
@[simp] theorem modCore_domid (s : State) (c : Nat) (f : Core → Core) : (s.modCore c f).domid = s.domid := rfl
@[simp] theorem modCore_i3cAddr (s : State) (c : Nat) (f : Core → Core) : (s.modCore c f).i3cAddr = s.i3cAddr := rfl
@[simp] theorem modCore_routes (s : State) (c : Nat) (f : Core → Core) : (s.modCore c f).routes = s.routes := rfl
@[simp] theorem modCore_remotes (s : State) (c : Nat) (f : Core → Core) : (s.modCore c f).remotes = s.remotes := rfl
@[simp] theorem modCore_spilled (s : State) (c : Nat) (f : Core → Core) : (s.modCore c f).spilled = s.spilled := rfl
@[simp] theorem modCore_hostRead (s : State) (c : Nat) (f : Core → Core) : (s.modCore c f).hostRead = s.hostRead := rfl
@[simp] theorem modCore_hostPoison (s : State) (c : Nat) (f : Core → Core) : (s.modCore c f).hostPoison = s.hostPoison := rfl
@[simp] theorem modCore_hostTag (s : State) (c : Nat) (f : Core → Core) : (s.modCore c f).hostTag = s.hostTag := rfl
@[simp] theorem modCore_hostOver (s : State) (c : Nat) (f : Core → Core) : (s.modCore c f).hostOver = s.hostOver := rfl

@[simp] theorem modDie_agenda (s : State) (d : Nat) (f : Die → Die) : (s.modDie d f).agenda = s.agenda := rfl
@[simp] theorem modDie_steps (s : State) (d : Nat) (f : Die → Die) : (s.modDie d f).steps = s.steps := rfl
@[simp] theorem modDie_issue (s : State) (d : Nat) (f : Die → Die) : (s.modDie d f).issue = s.issue := rfl
@[simp] theorem modDie_ev (s : State) (d : Nat) (f : Die → Die) : (s.modDie d f).ev = s.ev := rfl
@[simp] theorem modDie_nextId (s : State) (d : Nat) (f : Die → Die) : (s.modDie d f).nextId = s.nextId := rfl
@[simp] theorem modDie_turn (s : State) (d : Nat) (f : Die → Die) : (s.modDie d f).turn = s.turn := rfl
@[simp] theorem modDie_images (s : State) (d : Nat) (f : Die → Die) : (s.modDie d f).images = s.images := rfl
@[simp] theorem modDie_cores (s : State) (d : Nat) (f : Die → Die) : (s.modDie d f).cores = s.cores := rfl
@[simp] theorem modDie_groups (s : State) (d : Nat) (f : Die → Die) : (s.modDie d f).groups = s.groups := rfl
@[simp] theorem modDie_blocks (s : State) (d : Nat) (f : Die → Die) : (s.modDie d f).blocks = s.blocks := rfl
@[simp] theorem modDie_grids (s : State) (d : Nat) (f : Die → Die) : (s.modDie d f).grids = s.grids := rfl
@[simp] theorem modDie_launchQ (s : State) (d : Nat) (f : Die → Die) : (s.modDie d f).launchQ = s.launchQ := rfl
@[simp] theorem modDie_copies (s : State) (d : Nat) (f : Die → Die) : (s.modDie d f).copies = s.copies := rfl
@[simp] theorem modDie_ops (s : State) (d : Nat) (f : Die → Die) : (s.modDie d f).ops = s.ops := rfl
@[simp] theorem modDie_ctxs (s : State) (d : Nat) (f : Die → Die) : (s.modDie d f).ctxs = s.ctxs := rfl
@[simp] theorem modDie_hbm (s : State) (d : Nat) (f : Die → Die) : (s.modDie d f).hbm = s.hbm := rfl
@[simp] theorem modDie_baseKey (s : State) (d : Nat) (f : Die → Die) : (s.modDie d f).baseKey = s.baseKey := rfl
@[simp] theorem modDie_sectorKeys (s : State) (d : Nat) (f : Die → Die) : (s.modDie d f).sectorKeys = s.sectorKeys := rfl
@[simp] theorem modDie_l1 (s : State) (d : Nat) (f : Die → Die) : (s.modDie d f).l1 = s.l1 := rfl
@[simp] theorem modDie_asids (s : State) (d : Nat) (f : Die → Die) : (s.modDie d f).asids = s.asids := rfl
@[simp] theorem modDie_keys (s : State) (d : Nat) (f : Die → Die) : (s.modDie d f).keys = s.keys := rfl
@[simp] theorem modDie_leaseLost (s : State) (d : Nat) (f : Die → Die) : (s.modDie d f).leaseLost = s.leaseLost := rfl
@[simp] theorem modDie_incumbents (s : State) (d : Nat) (f : Die → Die) : (s.modDie d f).incumbents = s.incumbents := rfl
@[simp] theorem modDie_regions (s : State) (d : Nat) (f : Die → Die) : (s.modDie d f).regions = s.regions := rfl
@[simp] theorem modDie_openCount (s : State) (d : Nat) (f : Die → Die) : (s.modDie d f).openCount = s.openCount := rfl
@[simp] theorem modDie_past (s : State) (d : Nat) (f : Die → Die) : (s.modDie d f).past = s.past := rfl
@[simp] theorem modDie_delayed (s : State) (d : Nat) (f : Die → Die) : (s.modDie d f).delayed = s.delayed := rfl
@[simp] theorem modDie_farSpec (s : State) (d : Nat) (f : Die → Die) : (s.modDie d f).farSpec = s.farSpec := rfl
@[simp] theorem modDie_derate (s : State) (d : Nat) (f : Die → Die) : (s.modDie d f).derate = s.derate := rfl
@[simp] theorem modDie_derateNext (s : State) (d : Nat) (f : Die → Die) : (s.modDie d f).derateNext = s.derateNext := rfl
@[simp] theorem modDie_hangMs (s : State) (d : Nat) (f : Die → Die) : (s.modDie d f).hangMs = s.hangMs := rfl
@[simp] theorem modDie_retired (s : State) (d : Nat) (f : Die → Die) : (s.modDie d f).retired = s.retired := rfl
@[simp] theorem modDie_ce (s : State) (d : Nat) (f : Die → Die) : (s.modDie d f).ce = s.ce := rfl
@[simp] theorem modDie_lasting (s : State) (d : Nat) (f : Die → Die) : (s.modDie d f).lasting = s.lasting := rfl
@[simp] theorem modDie_unspared (s : State) (d : Nat) (f : Die → Die) : (s.modDie d f).unspared = s.unspared := rfl
@[simp] theorem modDie_spares (s : State) (d : Nat) (f : Die → Die) : (s.modDie d f).spares = s.spares := rfl
@[simp] theorem modDie_kcores (s : State) (d : Nat) (f : Die → Die) : (s.modDie d f).kcores = s.kcores := rfl
@[simp] theorem modDie_complex (s : State) (d : Nat) (f : Die → Die) : (s.modDie d f).complex = s.complex := rfl
@[simp] theorem modDie_eventQ (s : State) (d : Nat) (f : Die → Die) : (s.modDie d f).eventQ = s.eventQ := rfl
@[simp] theorem modDie_eventHeld (s : State) (d : Nat) (f : Die → Die) : (s.modDie d f).eventHeld = s.eventHeld := rfl
@[simp] theorem modDie_queues (s : State) (d : Nat) (f : Die → Die) : (s.modDie d f).queues = s.queues := rfl
@[simp] theorem modDie_queueMem (s : State) (d : Nat) (f : Die → Die) : (s.modDie d f).queueMem = s.queueMem := rfl
@[simp] theorem modDie_eventOrder (s : State) (d : Nat) (f : Die → Die) : (s.modDie d f).eventOrder = s.eventOrder := rfl
@[simp] theorem modDie_msix (s : State) (d : Nat) (f : Die → Die) : (s.modDie d f).msix = s.msix := rfl
@[simp] theorem modDie_sexton (s : State) (d : Nat) (f : Die → Die) : (s.modDie d f).sexton = s.sexton := rfl
@[simp] theorem modDie_aperBase (s : State) (d : Nat) (f : Die → Die) : (s.modDie d f).aperBase = s.aperBase := rfl
@[simp] theorem modDie_aperSlot (s : State) (d : Nat) (f : Die → Die) : (s.modDie d f).aperSlot = s.aperSlot := rfl
@[simp] theorem modDie_power (s : State) (d : Nat) (f : Die → Die) : (s.modDie d f).power = s.power := rfl
@[simp] theorem modDie_linkUp (s : State) (d : Nat) (f : Die → Die) : (s.modDie d f).linkUp = s.linkUp := rfl
@[simp] theorem modDie_domid (s : State) (d : Nat) (f : Die → Die) : (s.modDie d f).domid = s.domid := rfl
@[simp] theorem modDie_i3cAddr (s : State) (d : Nat) (f : Die → Die) : (s.modDie d f).i3cAddr = s.i3cAddr := rfl
@[simp] theorem modDie_routes (s : State) (d : Nat) (f : Die → Die) : (s.modDie d f).routes = s.routes := rfl
@[simp] theorem modDie_remotes (s : State) (d : Nat) (f : Die → Die) : (s.modDie d f).remotes = s.remotes := rfl
@[simp] theorem modDie_spilled (s : State) (d : Nat) (f : Die → Die) : (s.modDie d f).spilled = s.spilled := rfl
@[simp] theorem modDie_hostRead (s : State) (d : Nat) (f : Die → Die) : (s.modDie d f).hostRead = s.hostRead := rfl
@[simp] theorem modDie_hostPoison (s : State) (d : Nat) (f : Die → Die) : (s.modDie d f).hostPoison = s.hostPoison := rfl
@[simp] theorem modDie_hostTag (s : State) (d : Nat) (f : Die → Die) : (s.modDie d f).hostTag = s.hostTag := rfl
@[simp] theorem modDie_hostOver (s : State) (d : Nat) (f : Die → Die) : (s.modDie d f).hostOver = s.hostOver := rfl

@[simp] theorem modCtx_agenda (s : State) (c : Nat) (f : Ctx → Ctx) : (s.modCtx c f).agenda = s.agenda := rfl
@[simp] theorem modCtx_steps (s : State) (c : Nat) (f : Ctx → Ctx) : (s.modCtx c f).steps = s.steps := rfl
@[simp] theorem modCtx_issue (s : State) (c : Nat) (f : Ctx → Ctx) : (s.modCtx c f).issue = s.issue := rfl
@[simp] theorem modCtx_ev (s : State) (c : Nat) (f : Ctx → Ctx) : (s.modCtx c f).ev = s.ev := rfl
@[simp] theorem modCtx_nextId (s : State) (c : Nat) (f : Ctx → Ctx) : (s.modCtx c f).nextId = s.nextId := rfl
@[simp] theorem modCtx_turn (s : State) (c : Nat) (f : Ctx → Ctx) : (s.modCtx c f).turn = s.turn := rfl
@[simp] theorem modCtx_images (s : State) (c : Nat) (f : Ctx → Ctx) : (s.modCtx c f).images = s.images := rfl
@[simp] theorem modCtx_cores (s : State) (c : Nat) (f : Ctx → Ctx) : (s.modCtx c f).cores = s.cores := rfl
@[simp] theorem modCtx_dies (s : State) (c : Nat) (f : Ctx → Ctx) : (s.modCtx c f).dies = s.dies := rfl
@[simp] theorem modCtx_groups (s : State) (c : Nat) (f : Ctx → Ctx) : (s.modCtx c f).groups = s.groups := rfl
@[simp] theorem modCtx_blocks (s : State) (c : Nat) (f : Ctx → Ctx) : (s.modCtx c f).blocks = s.blocks := rfl
@[simp] theorem modCtx_grids (s : State) (c : Nat) (f : Ctx → Ctx) : (s.modCtx c f).grids = s.grids := rfl
@[simp] theorem modCtx_launchQ (s : State) (c : Nat) (f : Ctx → Ctx) : (s.modCtx c f).launchQ = s.launchQ := rfl
@[simp] theorem modCtx_copies (s : State) (c : Nat) (f : Ctx → Ctx) : (s.modCtx c f).copies = s.copies := rfl
@[simp] theorem modCtx_ops (s : State) (c : Nat) (f : Ctx → Ctx) : (s.modCtx c f).ops = s.ops := rfl
@[simp] theorem modCtx_hbm (s : State) (c : Nat) (f : Ctx → Ctx) : (s.modCtx c f).hbm = s.hbm := rfl
@[simp] theorem modCtx_baseKey (s : State) (c : Nat) (f : Ctx → Ctx) : (s.modCtx c f).baseKey = s.baseKey := rfl
@[simp] theorem modCtx_sectorKeys (s : State) (c : Nat) (f : Ctx → Ctx) : (s.modCtx c f).sectorKeys = s.sectorKeys := rfl
@[simp] theorem modCtx_l1 (s : State) (c : Nat) (f : Ctx → Ctx) : (s.modCtx c f).l1 = s.l1 := rfl
@[simp] theorem modCtx_asids (s : State) (c : Nat) (f : Ctx → Ctx) : (s.modCtx c f).asids = s.asids := rfl
@[simp] theorem modCtx_keys (s : State) (c : Nat) (f : Ctx → Ctx) : (s.modCtx c f).keys = s.keys := rfl
@[simp] theorem modCtx_leaseLost (s : State) (c : Nat) (f : Ctx → Ctx) : (s.modCtx c f).leaseLost = s.leaseLost := rfl
@[simp] theorem modCtx_incumbents (s : State) (c : Nat) (f : Ctx → Ctx) : (s.modCtx c f).incumbents = s.incumbents := rfl
@[simp] theorem modCtx_regions (s : State) (c : Nat) (f : Ctx → Ctx) : (s.modCtx c f).regions = s.regions := rfl
@[simp] theorem modCtx_openCount (s : State) (c : Nat) (f : Ctx → Ctx) : (s.modCtx c f).openCount = s.openCount := rfl
@[simp] theorem modCtx_past (s : State) (c : Nat) (f : Ctx → Ctx) : (s.modCtx c f).past = s.past := rfl
@[simp] theorem modCtx_delayed (s : State) (c : Nat) (f : Ctx → Ctx) : (s.modCtx c f).delayed = s.delayed := rfl
@[simp] theorem modCtx_farSpec (s : State) (c : Nat) (f : Ctx → Ctx) : (s.modCtx c f).farSpec = s.farSpec := rfl
@[simp] theorem modCtx_derate (s : State) (c : Nat) (f : Ctx → Ctx) : (s.modCtx c f).derate = s.derate := rfl
@[simp] theorem modCtx_derateNext (s : State) (c : Nat) (f : Ctx → Ctx) : (s.modCtx c f).derateNext = s.derateNext := rfl
@[simp] theorem modCtx_hangMs (s : State) (c : Nat) (f : Ctx → Ctx) : (s.modCtx c f).hangMs = s.hangMs := rfl
@[simp] theorem modCtx_retired (s : State) (c : Nat) (f : Ctx → Ctx) : (s.modCtx c f).retired = s.retired := rfl
@[simp] theorem modCtx_ce (s : State) (c : Nat) (f : Ctx → Ctx) : (s.modCtx c f).ce = s.ce := rfl
@[simp] theorem modCtx_lasting (s : State) (c : Nat) (f : Ctx → Ctx) : (s.modCtx c f).lasting = s.lasting := rfl
@[simp] theorem modCtx_unspared (s : State) (c : Nat) (f : Ctx → Ctx) : (s.modCtx c f).unspared = s.unspared := rfl
@[simp] theorem modCtx_spares (s : State) (c : Nat) (f : Ctx → Ctx) : (s.modCtx c f).spares = s.spares := rfl
@[simp] theorem modCtx_kcores (s : State) (c : Nat) (f : Ctx → Ctx) : (s.modCtx c f).kcores = s.kcores := rfl
@[simp] theorem modCtx_complex (s : State) (c : Nat) (f : Ctx → Ctx) : (s.modCtx c f).complex = s.complex := rfl
@[simp] theorem modCtx_eventQ (s : State) (c : Nat) (f : Ctx → Ctx) : (s.modCtx c f).eventQ = s.eventQ := rfl
@[simp] theorem modCtx_eventHeld (s : State) (c : Nat) (f : Ctx → Ctx) : (s.modCtx c f).eventHeld = s.eventHeld := rfl
@[simp] theorem modCtx_queues (s : State) (c : Nat) (f : Ctx → Ctx) : (s.modCtx c f).queues = s.queues := rfl
@[simp] theorem modCtx_queueMem (s : State) (c : Nat) (f : Ctx → Ctx) : (s.modCtx c f).queueMem = s.queueMem := rfl
@[simp] theorem modCtx_eventOrder (s : State) (c : Nat) (f : Ctx → Ctx) : (s.modCtx c f).eventOrder = s.eventOrder := rfl
@[simp] theorem modCtx_msix (s : State) (c : Nat) (f : Ctx → Ctx) : (s.modCtx c f).msix = s.msix := rfl
@[simp] theorem modCtx_sexton (s : State) (c : Nat) (f : Ctx → Ctx) : (s.modCtx c f).sexton = s.sexton := rfl
@[simp] theorem modCtx_aperBase (s : State) (c : Nat) (f : Ctx → Ctx) : (s.modCtx c f).aperBase = s.aperBase := rfl
@[simp] theorem modCtx_aperSlot (s : State) (c : Nat) (f : Ctx → Ctx) : (s.modCtx c f).aperSlot = s.aperSlot := rfl
@[simp] theorem modCtx_power (s : State) (c : Nat) (f : Ctx → Ctx) : (s.modCtx c f).power = s.power := rfl
@[simp] theorem modCtx_linkUp (s : State) (c : Nat) (f : Ctx → Ctx) : (s.modCtx c f).linkUp = s.linkUp := rfl
@[simp] theorem modCtx_domid (s : State) (c : Nat) (f : Ctx → Ctx) : (s.modCtx c f).domid = s.domid := rfl
@[simp] theorem modCtx_i3cAddr (s : State) (c : Nat) (f : Ctx → Ctx) : (s.modCtx c f).i3cAddr = s.i3cAddr := rfl
@[simp] theorem modCtx_routes (s : State) (c : Nat) (f : Ctx → Ctx) : (s.modCtx c f).routes = s.routes := rfl
@[simp] theorem modCtx_remotes (s : State) (c : Nat) (f : Ctx → Ctx) : (s.modCtx c f).remotes = s.remotes := rfl
@[simp] theorem modCtx_spilled (s : State) (c : Nat) (f : Ctx → Ctx) : (s.modCtx c f).spilled = s.spilled := rfl
@[simp] theorem modCtx_hostRead (s : State) (c : Nat) (f : Ctx → Ctx) : (s.modCtx c f).hostRead = s.hostRead := rfl
@[simp] theorem modCtx_hostPoison (s : State) (c : Nat) (f : Ctx → Ctx) : (s.modCtx c f).hostPoison = s.hostPoison := rfl
@[simp] theorem modCtx_hostTag (s : State) (c : Nat) (f : Ctx → Ctx) : (s.modCtx c f).hostTag = s.hostTag := rfl
@[simp] theorem modCtx_hostOver (s : State) (c : Nat) (f : Ctx → Ctx) : (s.modCtx c f).hostOver = s.hostOver := rfl

@[simp] theorem modKcore_agenda (s : State) (k : Nat) (f : KCore → KCore) : (s.modKcore k f).agenda = s.agenda := rfl
@[simp] theorem modKcore_steps (s : State) (k : Nat) (f : KCore → KCore) : (s.modKcore k f).steps = s.steps := rfl
@[simp] theorem modKcore_issue (s : State) (k : Nat) (f : KCore → KCore) : (s.modKcore k f).issue = s.issue := rfl
@[simp] theorem modKcore_ev (s : State) (k : Nat) (f : KCore → KCore) : (s.modKcore k f).ev = s.ev := rfl
@[simp] theorem modKcore_nextId (s : State) (k : Nat) (f : KCore → KCore) : (s.modKcore k f).nextId = s.nextId := rfl
@[simp] theorem modKcore_turn (s : State) (k : Nat) (f : KCore → KCore) : (s.modKcore k f).turn = s.turn := rfl
@[simp] theorem modKcore_images (s : State) (k : Nat) (f : KCore → KCore) : (s.modKcore k f).images = s.images := rfl
@[simp] theorem modKcore_cores (s : State) (k : Nat) (f : KCore → KCore) : (s.modKcore k f).cores = s.cores := rfl
@[simp] theorem modKcore_dies (s : State) (k : Nat) (f : KCore → KCore) : (s.modKcore k f).dies = s.dies := rfl
@[simp] theorem modKcore_groups (s : State) (k : Nat) (f : KCore → KCore) : (s.modKcore k f).groups = s.groups := rfl
@[simp] theorem modKcore_blocks (s : State) (k : Nat) (f : KCore → KCore) : (s.modKcore k f).blocks = s.blocks := rfl
@[simp] theorem modKcore_grids (s : State) (k : Nat) (f : KCore → KCore) : (s.modKcore k f).grids = s.grids := rfl
@[simp] theorem modKcore_launchQ (s : State) (k : Nat) (f : KCore → KCore) : (s.modKcore k f).launchQ = s.launchQ := rfl
@[simp] theorem modKcore_copies (s : State) (k : Nat) (f : KCore → KCore) : (s.modKcore k f).copies = s.copies := rfl
@[simp] theorem modKcore_ops (s : State) (k : Nat) (f : KCore → KCore) : (s.modKcore k f).ops = s.ops := rfl
@[simp] theorem modKcore_ctxs (s : State) (k : Nat) (f : KCore → KCore) : (s.modKcore k f).ctxs = s.ctxs := rfl
@[simp] theorem modKcore_hbm (s : State) (k : Nat) (f : KCore → KCore) : (s.modKcore k f).hbm = s.hbm := rfl
@[simp] theorem modKcore_baseKey (s : State) (k : Nat) (f : KCore → KCore) : (s.modKcore k f).baseKey = s.baseKey := rfl
@[simp] theorem modKcore_sectorKeys (s : State) (k : Nat) (f : KCore → KCore) : (s.modKcore k f).sectorKeys = s.sectorKeys := rfl
@[simp] theorem modKcore_l1 (s : State) (k : Nat) (f : KCore → KCore) : (s.modKcore k f).l1 = s.l1 := rfl
@[simp] theorem modKcore_asids (s : State) (k : Nat) (f : KCore → KCore) : (s.modKcore k f).asids = s.asids := rfl
@[simp] theorem modKcore_keys (s : State) (k : Nat) (f : KCore → KCore) : (s.modKcore k f).keys = s.keys := rfl
@[simp] theorem modKcore_leaseLost (s : State) (k : Nat) (f : KCore → KCore) : (s.modKcore k f).leaseLost = s.leaseLost := rfl
@[simp] theorem modKcore_incumbents (s : State) (k : Nat) (f : KCore → KCore) : (s.modKcore k f).incumbents = s.incumbents := rfl
@[simp] theorem modKcore_regions (s : State) (k : Nat) (f : KCore → KCore) : (s.modKcore k f).regions = s.regions := rfl
@[simp] theorem modKcore_openCount (s : State) (k : Nat) (f : KCore → KCore) : (s.modKcore k f).openCount = s.openCount := rfl
@[simp] theorem modKcore_past (s : State) (k : Nat) (f : KCore → KCore) : (s.modKcore k f).past = s.past := rfl
@[simp] theorem modKcore_delayed (s : State) (k : Nat) (f : KCore → KCore) : (s.modKcore k f).delayed = s.delayed := rfl
@[simp] theorem modKcore_farSpec (s : State) (k : Nat) (f : KCore → KCore) : (s.modKcore k f).farSpec = s.farSpec := rfl
@[simp] theorem modKcore_derate (s : State) (k : Nat) (f : KCore → KCore) : (s.modKcore k f).derate = s.derate := rfl
@[simp] theorem modKcore_derateNext (s : State) (k : Nat) (f : KCore → KCore) : (s.modKcore k f).derateNext = s.derateNext := rfl
@[simp] theorem modKcore_hangMs (s : State) (k : Nat) (f : KCore → KCore) : (s.modKcore k f).hangMs = s.hangMs := rfl
@[simp] theorem modKcore_retired (s : State) (k : Nat) (f : KCore → KCore) : (s.modKcore k f).retired = s.retired := rfl
@[simp] theorem modKcore_ce (s : State) (k : Nat) (f : KCore → KCore) : (s.modKcore k f).ce = s.ce := rfl
@[simp] theorem modKcore_lasting (s : State) (k : Nat) (f : KCore → KCore) : (s.modKcore k f).lasting = s.lasting := rfl
@[simp] theorem modKcore_unspared (s : State) (k : Nat) (f : KCore → KCore) : (s.modKcore k f).unspared = s.unspared := rfl
@[simp] theorem modKcore_spares (s : State) (k : Nat) (f : KCore → KCore) : (s.modKcore k f).spares = s.spares := rfl
@[simp] theorem modKcore_complex (s : State) (k : Nat) (f : KCore → KCore) : (s.modKcore k f).complex = s.complex := rfl
@[simp] theorem modKcore_eventQ (s : State) (k : Nat) (f : KCore → KCore) : (s.modKcore k f).eventQ = s.eventQ := rfl
@[simp] theorem modKcore_eventHeld (s : State) (k : Nat) (f : KCore → KCore) : (s.modKcore k f).eventHeld = s.eventHeld := rfl
@[simp] theorem modKcore_queues (s : State) (k : Nat) (f : KCore → KCore) : (s.modKcore k f).queues = s.queues := rfl
@[simp] theorem modKcore_queueMem (s : State) (k : Nat) (f : KCore → KCore) : (s.modKcore k f).queueMem = s.queueMem := rfl
@[simp] theorem modKcore_eventOrder (s : State) (k : Nat) (f : KCore → KCore) : (s.modKcore k f).eventOrder = s.eventOrder := rfl
@[simp] theorem modKcore_msix (s : State) (k : Nat) (f : KCore → KCore) : (s.modKcore k f).msix = s.msix := rfl
@[simp] theorem modKcore_sexton (s : State) (k : Nat) (f : KCore → KCore) : (s.modKcore k f).sexton = s.sexton := rfl
@[simp] theorem modKcore_aperBase (s : State) (k : Nat) (f : KCore → KCore) : (s.modKcore k f).aperBase = s.aperBase := rfl
@[simp] theorem modKcore_aperSlot (s : State) (k : Nat) (f : KCore → KCore) : (s.modKcore k f).aperSlot = s.aperSlot := rfl
@[simp] theorem modKcore_power (s : State) (k : Nat) (f : KCore → KCore) : (s.modKcore k f).power = s.power := rfl
@[simp] theorem modKcore_linkUp (s : State) (k : Nat) (f : KCore → KCore) : (s.modKcore k f).linkUp = s.linkUp := rfl
@[simp] theorem modKcore_domid (s : State) (k : Nat) (f : KCore → KCore) : (s.modKcore k f).domid = s.domid := rfl
@[simp] theorem modKcore_i3cAddr (s : State) (k : Nat) (f : KCore → KCore) : (s.modKcore k f).i3cAddr = s.i3cAddr := rfl
@[simp] theorem modKcore_routes (s : State) (k : Nat) (f : KCore → KCore) : (s.modKcore k f).routes = s.routes := rfl
@[simp] theorem modKcore_remotes (s : State) (k : Nat) (f : KCore → KCore) : (s.modKcore k f).remotes = s.remotes := rfl
@[simp] theorem modKcore_spilled (s : State) (k : Nat) (f : KCore → KCore) : (s.modKcore k f).spilled = s.spilled := rfl
@[simp] theorem modKcore_hostRead (s : State) (k : Nat) (f : KCore → KCore) : (s.modKcore k f).hostRead = s.hostRead := rfl
@[simp] theorem modKcore_hostPoison (s : State) (k : Nat) (f : KCore → KCore) : (s.modKcore k f).hostPoison = s.hostPoison := rfl
@[simp] theorem modKcore_hostTag (s : State) (k : Nat) (f : KCore → KCore) : (s.modKcore k f).hostTag = s.hostTag := rfl
@[simp] theorem modKcore_hostOver (s : State) (k : Nat) (f : KCore → KCore) : (s.modKcore k f).hostOver = s.hostOver := rfl

@[simp] theorem modQueue_agenda (s : State) (q : Nat) (f : Queue → Queue) : (s.modQueue q f).agenda = s.agenda := rfl
@[simp] theorem modQueue_steps (s : State) (q : Nat) (f : Queue → Queue) : (s.modQueue q f).steps = s.steps := rfl
@[simp] theorem modQueue_issue (s : State) (q : Nat) (f : Queue → Queue) : (s.modQueue q f).issue = s.issue := rfl
@[simp] theorem modQueue_ev (s : State) (q : Nat) (f : Queue → Queue) : (s.modQueue q f).ev = s.ev := rfl
@[simp] theorem modQueue_nextId (s : State) (q : Nat) (f : Queue → Queue) : (s.modQueue q f).nextId = s.nextId := rfl
@[simp] theorem modQueue_turn (s : State) (q : Nat) (f : Queue → Queue) : (s.modQueue q f).turn = s.turn := rfl
@[simp] theorem modQueue_images (s : State) (q : Nat) (f : Queue → Queue) : (s.modQueue q f).images = s.images := rfl
@[simp] theorem modQueue_cores (s : State) (q : Nat) (f : Queue → Queue) : (s.modQueue q f).cores = s.cores := rfl
@[simp] theorem modQueue_dies (s : State) (q : Nat) (f : Queue → Queue) : (s.modQueue q f).dies = s.dies := rfl
@[simp] theorem modQueue_groups (s : State) (q : Nat) (f : Queue → Queue) : (s.modQueue q f).groups = s.groups := rfl
@[simp] theorem modQueue_blocks (s : State) (q : Nat) (f : Queue → Queue) : (s.modQueue q f).blocks = s.blocks := rfl
@[simp] theorem modQueue_grids (s : State) (q : Nat) (f : Queue → Queue) : (s.modQueue q f).grids = s.grids := rfl
@[simp] theorem modQueue_launchQ (s : State) (q : Nat) (f : Queue → Queue) : (s.modQueue q f).launchQ = s.launchQ := rfl
@[simp] theorem modQueue_copies (s : State) (q : Nat) (f : Queue → Queue) : (s.modQueue q f).copies = s.copies := rfl
@[simp] theorem modQueue_ops (s : State) (q : Nat) (f : Queue → Queue) : (s.modQueue q f).ops = s.ops := rfl
@[simp] theorem modQueue_ctxs (s : State) (q : Nat) (f : Queue → Queue) : (s.modQueue q f).ctxs = s.ctxs := rfl
@[simp] theorem modQueue_hbm (s : State) (q : Nat) (f : Queue → Queue) : (s.modQueue q f).hbm = s.hbm := rfl
@[simp] theorem modQueue_baseKey (s : State) (q : Nat) (f : Queue → Queue) : (s.modQueue q f).baseKey = s.baseKey := rfl
@[simp] theorem modQueue_sectorKeys (s : State) (q : Nat) (f : Queue → Queue) : (s.modQueue q f).sectorKeys = s.sectorKeys := rfl
@[simp] theorem modQueue_l1 (s : State) (q : Nat) (f : Queue → Queue) : (s.modQueue q f).l1 = s.l1 := rfl
@[simp] theorem modQueue_asids (s : State) (q : Nat) (f : Queue → Queue) : (s.modQueue q f).asids = s.asids := rfl
@[simp] theorem modQueue_keys (s : State) (q : Nat) (f : Queue → Queue) : (s.modQueue q f).keys = s.keys := rfl
@[simp] theorem modQueue_leaseLost (s : State) (q : Nat) (f : Queue → Queue) : (s.modQueue q f).leaseLost = s.leaseLost := rfl
@[simp] theorem modQueue_incumbents (s : State) (q : Nat) (f : Queue → Queue) : (s.modQueue q f).incumbents = s.incumbents := rfl
@[simp] theorem modQueue_regions (s : State) (q : Nat) (f : Queue → Queue) : (s.modQueue q f).regions = s.regions := rfl
@[simp] theorem modQueue_openCount (s : State) (q : Nat) (f : Queue → Queue) : (s.modQueue q f).openCount = s.openCount := rfl
@[simp] theorem modQueue_past (s : State) (q : Nat) (f : Queue → Queue) : (s.modQueue q f).past = s.past := rfl
@[simp] theorem modQueue_delayed (s : State) (q : Nat) (f : Queue → Queue) : (s.modQueue q f).delayed = s.delayed := rfl
@[simp] theorem modQueue_farSpec (s : State) (q : Nat) (f : Queue → Queue) : (s.modQueue q f).farSpec = s.farSpec := rfl
@[simp] theorem modQueue_derate (s : State) (q : Nat) (f : Queue → Queue) : (s.modQueue q f).derate = s.derate := rfl
@[simp] theorem modQueue_derateNext (s : State) (q : Nat) (f : Queue → Queue) : (s.modQueue q f).derateNext = s.derateNext := rfl
@[simp] theorem modQueue_hangMs (s : State) (q : Nat) (f : Queue → Queue) : (s.modQueue q f).hangMs = s.hangMs := rfl
@[simp] theorem modQueue_retired (s : State) (q : Nat) (f : Queue → Queue) : (s.modQueue q f).retired = s.retired := rfl
@[simp] theorem modQueue_ce (s : State) (q : Nat) (f : Queue → Queue) : (s.modQueue q f).ce = s.ce := rfl
@[simp] theorem modQueue_lasting (s : State) (q : Nat) (f : Queue → Queue) : (s.modQueue q f).lasting = s.lasting := rfl
@[simp] theorem modQueue_unspared (s : State) (q : Nat) (f : Queue → Queue) : (s.modQueue q f).unspared = s.unspared := rfl
@[simp] theorem modQueue_spares (s : State) (q : Nat) (f : Queue → Queue) : (s.modQueue q f).spares = s.spares := rfl
@[simp] theorem modQueue_kcores (s : State) (q : Nat) (f : Queue → Queue) : (s.modQueue q f).kcores = s.kcores := rfl
@[simp] theorem modQueue_complex (s : State) (q : Nat) (f : Queue → Queue) : (s.modQueue q f).complex = s.complex := rfl
@[simp] theorem modQueue_eventQ (s : State) (q : Nat) (f : Queue → Queue) : (s.modQueue q f).eventQ = s.eventQ := rfl
@[simp] theorem modQueue_eventHeld (s : State) (q : Nat) (f : Queue → Queue) : (s.modQueue q f).eventHeld = s.eventHeld := rfl
@[simp] theorem modQueue_queueMem (s : State) (q : Nat) (f : Queue → Queue) : (s.modQueue q f).queueMem = s.queueMem := rfl
@[simp] theorem modQueue_eventOrder (s : State) (q : Nat) (f : Queue → Queue) : (s.modQueue q f).eventOrder = s.eventOrder := rfl
@[simp] theorem modQueue_msix (s : State) (q : Nat) (f : Queue → Queue) : (s.modQueue q f).msix = s.msix := rfl
@[simp] theorem modQueue_sexton (s : State) (q : Nat) (f : Queue → Queue) : (s.modQueue q f).sexton = s.sexton := rfl
@[simp] theorem modQueue_aperBase (s : State) (q : Nat) (f : Queue → Queue) : (s.modQueue q f).aperBase = s.aperBase := rfl
@[simp] theorem modQueue_aperSlot (s : State) (q : Nat) (f : Queue → Queue) : (s.modQueue q f).aperSlot = s.aperSlot := rfl
@[simp] theorem modQueue_power (s : State) (q : Nat) (f : Queue → Queue) : (s.modQueue q f).power = s.power := rfl
@[simp] theorem modQueue_linkUp (s : State) (q : Nat) (f : Queue → Queue) : (s.modQueue q f).linkUp = s.linkUp := rfl
@[simp] theorem modQueue_domid (s : State) (q : Nat) (f : Queue → Queue) : (s.modQueue q f).domid = s.domid := rfl
@[simp] theorem modQueue_i3cAddr (s : State) (q : Nat) (f : Queue → Queue) : (s.modQueue q f).i3cAddr = s.i3cAddr := rfl
@[simp] theorem modQueue_routes (s : State) (q : Nat) (f : Queue → Queue) : (s.modQueue q f).routes = s.routes := rfl
@[simp] theorem modQueue_remotes (s : State) (q : Nat) (f : Queue → Queue) : (s.modQueue q f).remotes = s.remotes := rfl
@[simp] theorem modQueue_spilled (s : State) (q : Nat) (f : Queue → Queue) : (s.modQueue q f).spilled = s.spilled := rfl
@[simp] theorem modQueue_hostRead (s : State) (q : Nat) (f : Queue → Queue) : (s.modQueue q f).hostRead = s.hostRead := rfl
@[simp] theorem modQueue_hostPoison (s : State) (q : Nat) (f : Queue → Queue) : (s.modQueue q f).hostPoison = s.hostPoison := rfl
@[simp] theorem modQueue_hostTag (s : State) (q : Nat) (f : Queue → Queue) : (s.modQueue q f).hostTag = s.hostTag := rfl
@[simp] theorem modQueue_hostOver (s : State) (q : Nat) (f : Queue → Queue) : (s.modQueue q f).hostOver = s.hostOver := rfl

@[simp] theorem modRegion_agenda (s : State) (i : Nat) (f : Region → Region) : (s.modRegion i f).agenda = s.agenda := rfl
@[simp] theorem modRegion_steps (s : State) (i : Nat) (f : Region → Region) : (s.modRegion i f).steps = s.steps := rfl
@[simp] theorem modRegion_issue (s : State) (i : Nat) (f : Region → Region) : (s.modRegion i f).issue = s.issue := rfl
@[simp] theorem modRegion_ev (s : State) (i : Nat) (f : Region → Region) : (s.modRegion i f).ev = s.ev := rfl
@[simp] theorem modRegion_nextId (s : State) (i : Nat) (f : Region → Region) : (s.modRegion i f).nextId = s.nextId := rfl
@[simp] theorem modRegion_turn (s : State) (i : Nat) (f : Region → Region) : (s.modRegion i f).turn = s.turn := rfl
@[simp] theorem modRegion_images (s : State) (i : Nat) (f : Region → Region) : (s.modRegion i f).images = s.images := rfl
@[simp] theorem modRegion_cores (s : State) (i : Nat) (f : Region → Region) : (s.modRegion i f).cores = s.cores := rfl
@[simp] theorem modRegion_dies (s : State) (i : Nat) (f : Region → Region) : (s.modRegion i f).dies = s.dies := rfl
@[simp] theorem modRegion_groups (s : State) (i : Nat) (f : Region → Region) : (s.modRegion i f).groups = s.groups := rfl
@[simp] theorem modRegion_blocks (s : State) (i : Nat) (f : Region → Region) : (s.modRegion i f).blocks = s.blocks := rfl
@[simp] theorem modRegion_grids (s : State) (i : Nat) (f : Region → Region) : (s.modRegion i f).grids = s.grids := rfl
@[simp] theorem modRegion_launchQ (s : State) (i : Nat) (f : Region → Region) : (s.modRegion i f).launchQ = s.launchQ := rfl
@[simp] theorem modRegion_copies (s : State) (i : Nat) (f : Region → Region) : (s.modRegion i f).copies = s.copies := rfl
@[simp] theorem modRegion_ops (s : State) (i : Nat) (f : Region → Region) : (s.modRegion i f).ops = s.ops := rfl
@[simp] theorem modRegion_ctxs (s : State) (i : Nat) (f : Region → Region) : (s.modRegion i f).ctxs = s.ctxs := rfl
@[simp] theorem modRegion_hbm (s : State) (i : Nat) (f : Region → Region) : (s.modRegion i f).hbm = s.hbm := rfl
@[simp] theorem modRegion_baseKey (s : State) (i : Nat) (f : Region → Region) : (s.modRegion i f).baseKey = s.baseKey := rfl
@[simp] theorem modRegion_sectorKeys (s : State) (i : Nat) (f : Region → Region) : (s.modRegion i f).sectorKeys = s.sectorKeys := rfl
@[simp] theorem modRegion_l1 (s : State) (i : Nat) (f : Region → Region) : (s.modRegion i f).l1 = s.l1 := rfl
@[simp] theorem modRegion_asids (s : State) (i : Nat) (f : Region → Region) : (s.modRegion i f).asids = s.asids := rfl
@[simp] theorem modRegion_keys (s : State) (i : Nat) (f : Region → Region) : (s.modRegion i f).keys = s.keys := rfl
@[simp] theorem modRegion_leaseLost (s : State) (i : Nat) (f : Region → Region) : (s.modRegion i f).leaseLost = s.leaseLost := rfl
@[simp] theorem modRegion_incumbents (s : State) (i : Nat) (f : Region → Region) : (s.modRegion i f).incumbents = s.incumbents := rfl
@[simp] theorem modRegion_openCount (s : State) (i : Nat) (f : Region → Region) : (s.modRegion i f).openCount = s.openCount := rfl
@[simp] theorem modRegion_past (s : State) (i : Nat) (f : Region → Region) : (s.modRegion i f).past = s.past := rfl
@[simp] theorem modRegion_delayed (s : State) (i : Nat) (f : Region → Region) : (s.modRegion i f).delayed = s.delayed := rfl
@[simp] theorem modRegion_farSpec (s : State) (i : Nat) (f : Region → Region) : (s.modRegion i f).farSpec = s.farSpec := rfl
@[simp] theorem modRegion_derate (s : State) (i : Nat) (f : Region → Region) : (s.modRegion i f).derate = s.derate := rfl
@[simp] theorem modRegion_derateNext (s : State) (i : Nat) (f : Region → Region) : (s.modRegion i f).derateNext = s.derateNext := rfl
@[simp] theorem modRegion_hangMs (s : State) (i : Nat) (f : Region → Region) : (s.modRegion i f).hangMs = s.hangMs := rfl
@[simp] theorem modRegion_retired (s : State) (i : Nat) (f : Region → Region) : (s.modRegion i f).retired = s.retired := rfl
@[simp] theorem modRegion_ce (s : State) (i : Nat) (f : Region → Region) : (s.modRegion i f).ce = s.ce := rfl
@[simp] theorem modRegion_lasting (s : State) (i : Nat) (f : Region → Region) : (s.modRegion i f).lasting = s.lasting := rfl
@[simp] theorem modRegion_unspared (s : State) (i : Nat) (f : Region → Region) : (s.modRegion i f).unspared = s.unspared := rfl
@[simp] theorem modRegion_spares (s : State) (i : Nat) (f : Region → Region) : (s.modRegion i f).spares = s.spares := rfl
@[simp] theorem modRegion_kcores (s : State) (i : Nat) (f : Region → Region) : (s.modRegion i f).kcores = s.kcores := rfl
@[simp] theorem modRegion_complex (s : State) (i : Nat) (f : Region → Region) : (s.modRegion i f).complex = s.complex := rfl
@[simp] theorem modRegion_eventQ (s : State) (i : Nat) (f : Region → Region) : (s.modRegion i f).eventQ = s.eventQ := rfl
@[simp] theorem modRegion_eventHeld (s : State) (i : Nat) (f : Region → Region) : (s.modRegion i f).eventHeld = s.eventHeld := rfl
@[simp] theorem modRegion_queues (s : State) (i : Nat) (f : Region → Region) : (s.modRegion i f).queues = s.queues := rfl
@[simp] theorem modRegion_queueMem (s : State) (i : Nat) (f : Region → Region) : (s.modRegion i f).queueMem = s.queueMem := rfl
@[simp] theorem modRegion_eventOrder (s : State) (i : Nat) (f : Region → Region) : (s.modRegion i f).eventOrder = s.eventOrder := rfl
@[simp] theorem modRegion_msix (s : State) (i : Nat) (f : Region → Region) : (s.modRegion i f).msix = s.msix := rfl
@[simp] theorem modRegion_sexton (s : State) (i : Nat) (f : Region → Region) : (s.modRegion i f).sexton = s.sexton := rfl
@[simp] theorem modRegion_aperBase (s : State) (i : Nat) (f : Region → Region) : (s.modRegion i f).aperBase = s.aperBase := rfl
@[simp] theorem modRegion_aperSlot (s : State) (i : Nat) (f : Region → Region) : (s.modRegion i f).aperSlot = s.aperSlot := rfl
@[simp] theorem modRegion_power (s : State) (i : Nat) (f : Region → Region) : (s.modRegion i f).power = s.power := rfl
@[simp] theorem modRegion_linkUp (s : State) (i : Nat) (f : Region → Region) : (s.modRegion i f).linkUp = s.linkUp := rfl
@[simp] theorem modRegion_domid (s : State) (i : Nat) (f : Region → Region) : (s.modRegion i f).domid = s.domid := rfl
@[simp] theorem modRegion_i3cAddr (s : State) (i : Nat) (f : Region → Region) : (s.modRegion i f).i3cAddr = s.i3cAddr := rfl
@[simp] theorem modRegion_routes (s : State) (i : Nat) (f : Region → Region) : (s.modRegion i f).routes = s.routes := rfl
@[simp] theorem modRegion_remotes (s : State) (i : Nat) (f : Region → Region) : (s.modRegion i f).remotes = s.remotes := rfl
@[simp] theorem modRegion_spilled (s : State) (i : Nat) (f : Region → Region) : (s.modRegion i f).spilled = s.spilled := rfl
@[simp] theorem modRegion_hostRead (s : State) (i : Nat) (f : Region → Region) : (s.modRegion i f).hostRead = s.hostRead := rfl
@[simp] theorem modRegion_hostPoison (s : State) (i : Nat) (f : Region → Region) : (s.modRegion i f).hostPoison = s.hostPoison := rfl
@[simp] theorem modRegion_hostTag (s : State) (i : Nat) (f : Region → Region) : (s.modRegion i f).hostTag = s.hostTag := rfl
@[simp] theorem modRegion_hostOver (s : State) (i : Nat) (f : Region → Region) : (s.modRegion i f).hostOver = s.hostOver := rfl

@[simp] theorem modGroup_agenda (s : State) (g : Nat) (f : Group → Group) : (s.modGroup g f).agenda = s.agenda := rfl
@[simp] theorem modGroup_steps (s : State) (g : Nat) (f : Group → Group) : (s.modGroup g f).steps = s.steps := rfl
@[simp] theorem modGroup_issue (s : State) (g : Nat) (f : Group → Group) : (s.modGroup g f).issue = s.issue := rfl
@[simp] theorem modGroup_ev (s : State) (g : Nat) (f : Group → Group) : (s.modGroup g f).ev = s.ev := rfl
@[simp] theorem modGroup_nextId (s : State) (g : Nat) (f : Group → Group) : (s.modGroup g f).nextId = s.nextId := rfl
@[simp] theorem modGroup_turn (s : State) (g : Nat) (f : Group → Group) : (s.modGroup g f).turn = s.turn := rfl
@[simp] theorem modGroup_images (s : State) (g : Nat) (f : Group → Group) : (s.modGroup g f).images = s.images := rfl
@[simp] theorem modGroup_cores (s : State) (g : Nat) (f : Group → Group) : (s.modGroup g f).cores = s.cores := rfl
@[simp] theorem modGroup_dies (s : State) (g : Nat) (f : Group → Group) : (s.modGroup g f).dies = s.dies := rfl
@[simp] theorem modGroup_blocks (s : State) (g : Nat) (f : Group → Group) : (s.modGroup g f).blocks = s.blocks := rfl
@[simp] theorem modGroup_grids (s : State) (g : Nat) (f : Group → Group) : (s.modGroup g f).grids = s.grids := rfl
@[simp] theorem modGroup_launchQ (s : State) (g : Nat) (f : Group → Group) : (s.modGroup g f).launchQ = s.launchQ := rfl
@[simp] theorem modGroup_copies (s : State) (g : Nat) (f : Group → Group) : (s.modGroup g f).copies = s.copies := rfl
@[simp] theorem modGroup_ops (s : State) (g : Nat) (f : Group → Group) : (s.modGroup g f).ops = s.ops := rfl
@[simp] theorem modGroup_ctxs (s : State) (g : Nat) (f : Group → Group) : (s.modGroup g f).ctxs = s.ctxs := rfl
@[simp] theorem modGroup_hbm (s : State) (g : Nat) (f : Group → Group) : (s.modGroup g f).hbm = s.hbm := rfl
@[simp] theorem modGroup_baseKey (s : State) (g : Nat) (f : Group → Group) : (s.modGroup g f).baseKey = s.baseKey := rfl
@[simp] theorem modGroup_sectorKeys (s : State) (g : Nat) (f : Group → Group) : (s.modGroup g f).sectorKeys = s.sectorKeys := rfl
@[simp] theorem modGroup_l1 (s : State) (g : Nat) (f : Group → Group) : (s.modGroup g f).l1 = s.l1 := rfl
@[simp] theorem modGroup_asids (s : State) (g : Nat) (f : Group → Group) : (s.modGroup g f).asids = s.asids := rfl
@[simp] theorem modGroup_keys (s : State) (g : Nat) (f : Group → Group) : (s.modGroup g f).keys = s.keys := rfl
@[simp] theorem modGroup_leaseLost (s : State) (g : Nat) (f : Group → Group) : (s.modGroup g f).leaseLost = s.leaseLost := rfl
@[simp] theorem modGroup_incumbents (s : State) (g : Nat) (f : Group → Group) : (s.modGroup g f).incumbents = s.incumbents := rfl
@[simp] theorem modGroup_regions (s : State) (g : Nat) (f : Group → Group) : (s.modGroup g f).regions = s.regions := rfl
@[simp] theorem modGroup_openCount (s : State) (g : Nat) (f : Group → Group) : (s.modGroup g f).openCount = s.openCount := rfl
@[simp] theorem modGroup_past (s : State) (g : Nat) (f : Group → Group) : (s.modGroup g f).past = s.past := rfl
@[simp] theorem modGroup_delayed (s : State) (g : Nat) (f : Group → Group) : (s.modGroup g f).delayed = s.delayed := rfl
@[simp] theorem modGroup_farSpec (s : State) (g : Nat) (f : Group → Group) : (s.modGroup g f).farSpec = s.farSpec := rfl
@[simp] theorem modGroup_derate (s : State) (g : Nat) (f : Group → Group) : (s.modGroup g f).derate = s.derate := rfl
@[simp] theorem modGroup_derateNext (s : State) (g : Nat) (f : Group → Group) : (s.modGroup g f).derateNext = s.derateNext := rfl
@[simp] theorem modGroup_hangMs (s : State) (g : Nat) (f : Group → Group) : (s.modGroup g f).hangMs = s.hangMs := rfl
@[simp] theorem modGroup_retired (s : State) (g : Nat) (f : Group → Group) : (s.modGroup g f).retired = s.retired := rfl
@[simp] theorem modGroup_ce (s : State) (g : Nat) (f : Group → Group) : (s.modGroup g f).ce = s.ce := rfl
@[simp] theorem modGroup_lasting (s : State) (g : Nat) (f : Group → Group) : (s.modGroup g f).lasting = s.lasting := rfl
@[simp] theorem modGroup_unspared (s : State) (g : Nat) (f : Group → Group) : (s.modGroup g f).unspared = s.unspared := rfl
@[simp] theorem modGroup_spares (s : State) (g : Nat) (f : Group → Group) : (s.modGroup g f).spares = s.spares := rfl
@[simp] theorem modGroup_kcores (s : State) (g : Nat) (f : Group → Group) : (s.modGroup g f).kcores = s.kcores := rfl
@[simp] theorem modGroup_complex (s : State) (g : Nat) (f : Group → Group) : (s.modGroup g f).complex = s.complex := rfl
@[simp] theorem modGroup_eventQ (s : State) (g : Nat) (f : Group → Group) : (s.modGroup g f).eventQ = s.eventQ := rfl
@[simp] theorem modGroup_eventHeld (s : State) (g : Nat) (f : Group → Group) : (s.modGroup g f).eventHeld = s.eventHeld := rfl
@[simp] theorem modGroup_queues (s : State) (g : Nat) (f : Group → Group) : (s.modGroup g f).queues = s.queues := rfl
@[simp] theorem modGroup_queueMem (s : State) (g : Nat) (f : Group → Group) : (s.modGroup g f).queueMem = s.queueMem := rfl
@[simp] theorem modGroup_eventOrder (s : State) (g : Nat) (f : Group → Group) : (s.modGroup g f).eventOrder = s.eventOrder := rfl
@[simp] theorem modGroup_msix (s : State) (g : Nat) (f : Group → Group) : (s.modGroup g f).msix = s.msix := rfl
@[simp] theorem modGroup_sexton (s : State) (g : Nat) (f : Group → Group) : (s.modGroup g f).sexton = s.sexton := rfl
@[simp] theorem modGroup_aperBase (s : State) (g : Nat) (f : Group → Group) : (s.modGroup g f).aperBase = s.aperBase := rfl
@[simp] theorem modGroup_aperSlot (s : State) (g : Nat) (f : Group → Group) : (s.modGroup g f).aperSlot = s.aperSlot := rfl
@[simp] theorem modGroup_power (s : State) (g : Nat) (f : Group → Group) : (s.modGroup g f).power = s.power := rfl
@[simp] theorem modGroup_linkUp (s : State) (g : Nat) (f : Group → Group) : (s.modGroup g f).linkUp = s.linkUp := rfl
@[simp] theorem modGroup_domid (s : State) (g : Nat) (f : Group → Group) : (s.modGroup g f).domid = s.domid := rfl
@[simp] theorem modGroup_i3cAddr (s : State) (g : Nat) (f : Group → Group) : (s.modGroup g f).i3cAddr = s.i3cAddr := rfl
@[simp] theorem modGroup_routes (s : State) (g : Nat) (f : Group → Group) : (s.modGroup g f).routes = s.routes := rfl
@[simp] theorem modGroup_remotes (s : State) (g : Nat) (f : Group → Group) : (s.modGroup g f).remotes = s.remotes := rfl
@[simp] theorem modGroup_spilled (s : State) (g : Nat) (f : Group → Group) : (s.modGroup g f).spilled = s.spilled := rfl
@[simp] theorem modGroup_hostRead (s : State) (g : Nat) (f : Group → Group) : (s.modGroup g f).hostRead = s.hostRead := rfl
@[simp] theorem modGroup_hostPoison (s : State) (g : Nat) (f : Group → Group) : (s.modGroup g f).hostPoison = s.hostPoison := rfl
@[simp] theorem modGroup_hostTag (s : State) (g : Nat) (f : Group → Group) : (s.modGroup g f).hostTag = s.hostTag := rfl
@[simp] theorem modGroup_hostOver (s : State) (g : Nat) (f : Group → Group) : (s.modGroup g f).hostOver = s.hostOver := rfl

@[simp] theorem modLane_agenda (s : State) (r : LRef) (f : Lane → Lane) : (s.modLane r f).agenda = s.agenda := rfl
@[simp] theorem modLane_steps (s : State) (r : LRef) (f : Lane → Lane) : (s.modLane r f).steps = s.steps := rfl
@[simp] theorem modLane_issue (s : State) (r : LRef) (f : Lane → Lane) : (s.modLane r f).issue = s.issue := rfl
@[simp] theorem modLane_ev (s : State) (r : LRef) (f : Lane → Lane) : (s.modLane r f).ev = s.ev := rfl
@[simp] theorem modLane_nextId (s : State) (r : LRef) (f : Lane → Lane) : (s.modLane r f).nextId = s.nextId := rfl
@[simp] theorem modLane_turn (s : State) (r : LRef) (f : Lane → Lane) : (s.modLane r f).turn = s.turn := rfl
@[simp] theorem modLane_images (s : State) (r : LRef) (f : Lane → Lane) : (s.modLane r f).images = s.images := rfl
@[simp] theorem modLane_cores (s : State) (r : LRef) (f : Lane → Lane) : (s.modLane r f).cores = s.cores := rfl
@[simp] theorem modLane_dies (s : State) (r : LRef) (f : Lane → Lane) : (s.modLane r f).dies = s.dies := rfl
@[simp] theorem modLane_blocks (s : State) (r : LRef) (f : Lane → Lane) : (s.modLane r f).blocks = s.blocks := rfl
@[simp] theorem modLane_grids (s : State) (r : LRef) (f : Lane → Lane) : (s.modLane r f).grids = s.grids := rfl
@[simp] theorem modLane_launchQ (s : State) (r : LRef) (f : Lane → Lane) : (s.modLane r f).launchQ = s.launchQ := rfl
@[simp] theorem modLane_copies (s : State) (r : LRef) (f : Lane → Lane) : (s.modLane r f).copies = s.copies := rfl
@[simp] theorem modLane_ops (s : State) (r : LRef) (f : Lane → Lane) : (s.modLane r f).ops = s.ops := rfl
@[simp] theorem modLane_ctxs (s : State) (r : LRef) (f : Lane → Lane) : (s.modLane r f).ctxs = s.ctxs := rfl
@[simp] theorem modLane_hbm (s : State) (r : LRef) (f : Lane → Lane) : (s.modLane r f).hbm = s.hbm := rfl
@[simp] theorem modLane_baseKey (s : State) (r : LRef) (f : Lane → Lane) : (s.modLane r f).baseKey = s.baseKey := rfl
@[simp] theorem modLane_sectorKeys (s : State) (r : LRef) (f : Lane → Lane) : (s.modLane r f).sectorKeys = s.sectorKeys := rfl
@[simp] theorem modLane_l1 (s : State) (r : LRef) (f : Lane → Lane) : (s.modLane r f).l1 = s.l1 := rfl
@[simp] theorem modLane_asids (s : State) (r : LRef) (f : Lane → Lane) : (s.modLane r f).asids = s.asids := rfl
@[simp] theorem modLane_keys (s : State) (r : LRef) (f : Lane → Lane) : (s.modLane r f).keys = s.keys := rfl
@[simp] theorem modLane_leaseLost (s : State) (r : LRef) (f : Lane → Lane) : (s.modLane r f).leaseLost = s.leaseLost := rfl
@[simp] theorem modLane_incumbents (s : State) (r : LRef) (f : Lane → Lane) : (s.modLane r f).incumbents = s.incumbents := rfl
@[simp] theorem modLane_regions (s : State) (r : LRef) (f : Lane → Lane) : (s.modLane r f).regions = s.regions := rfl
@[simp] theorem modLane_openCount (s : State) (r : LRef) (f : Lane → Lane) : (s.modLane r f).openCount = s.openCount := rfl
@[simp] theorem modLane_past (s : State) (r : LRef) (f : Lane → Lane) : (s.modLane r f).past = s.past := rfl
@[simp] theorem modLane_delayed (s : State) (r : LRef) (f : Lane → Lane) : (s.modLane r f).delayed = s.delayed := rfl
@[simp] theorem modLane_farSpec (s : State) (r : LRef) (f : Lane → Lane) : (s.modLane r f).farSpec = s.farSpec := rfl
@[simp] theorem modLane_derate (s : State) (r : LRef) (f : Lane → Lane) : (s.modLane r f).derate = s.derate := rfl
@[simp] theorem modLane_derateNext (s : State) (r : LRef) (f : Lane → Lane) : (s.modLane r f).derateNext = s.derateNext := rfl
@[simp] theorem modLane_hangMs (s : State) (r : LRef) (f : Lane → Lane) : (s.modLane r f).hangMs = s.hangMs := rfl
@[simp] theorem modLane_retired (s : State) (r : LRef) (f : Lane → Lane) : (s.modLane r f).retired = s.retired := rfl
@[simp] theorem modLane_ce (s : State) (r : LRef) (f : Lane → Lane) : (s.modLane r f).ce = s.ce := rfl
@[simp] theorem modLane_lasting (s : State) (r : LRef) (f : Lane → Lane) : (s.modLane r f).lasting = s.lasting := rfl
@[simp] theorem modLane_unspared (s : State) (r : LRef) (f : Lane → Lane) : (s.modLane r f).unspared = s.unspared := rfl
@[simp] theorem modLane_spares (s : State) (r : LRef) (f : Lane → Lane) : (s.modLane r f).spares = s.spares := rfl
@[simp] theorem modLane_kcores (s : State) (r : LRef) (f : Lane → Lane) : (s.modLane r f).kcores = s.kcores := rfl
@[simp] theorem modLane_complex (s : State) (r : LRef) (f : Lane → Lane) : (s.modLane r f).complex = s.complex := rfl
@[simp] theorem modLane_eventQ (s : State) (r : LRef) (f : Lane → Lane) : (s.modLane r f).eventQ = s.eventQ := rfl
@[simp] theorem modLane_eventHeld (s : State) (r : LRef) (f : Lane → Lane) : (s.modLane r f).eventHeld = s.eventHeld := rfl
@[simp] theorem modLane_queues (s : State) (r : LRef) (f : Lane → Lane) : (s.modLane r f).queues = s.queues := rfl
@[simp] theorem modLane_queueMem (s : State) (r : LRef) (f : Lane → Lane) : (s.modLane r f).queueMem = s.queueMem := rfl
@[simp] theorem modLane_eventOrder (s : State) (r : LRef) (f : Lane → Lane) : (s.modLane r f).eventOrder = s.eventOrder := rfl
@[simp] theorem modLane_msix (s : State) (r : LRef) (f : Lane → Lane) : (s.modLane r f).msix = s.msix := rfl
@[simp] theorem modLane_sexton (s : State) (r : LRef) (f : Lane → Lane) : (s.modLane r f).sexton = s.sexton := rfl
@[simp] theorem modLane_aperBase (s : State) (r : LRef) (f : Lane → Lane) : (s.modLane r f).aperBase = s.aperBase := rfl
@[simp] theorem modLane_aperSlot (s : State) (r : LRef) (f : Lane → Lane) : (s.modLane r f).aperSlot = s.aperSlot := rfl
@[simp] theorem modLane_power (s : State) (r : LRef) (f : Lane → Lane) : (s.modLane r f).power = s.power := rfl
@[simp] theorem modLane_linkUp (s : State) (r : LRef) (f : Lane → Lane) : (s.modLane r f).linkUp = s.linkUp := rfl
@[simp] theorem modLane_domid (s : State) (r : LRef) (f : Lane → Lane) : (s.modLane r f).domid = s.domid := rfl
@[simp] theorem modLane_i3cAddr (s : State) (r : LRef) (f : Lane → Lane) : (s.modLane r f).i3cAddr = s.i3cAddr := rfl
@[simp] theorem modLane_routes (s : State) (r : LRef) (f : Lane → Lane) : (s.modLane r f).routes = s.routes := rfl
@[simp] theorem modLane_remotes (s : State) (r : LRef) (f : Lane → Lane) : (s.modLane r f).remotes = s.remotes := rfl
@[simp] theorem modLane_spilled (s : State) (r : LRef) (f : Lane → Lane) : (s.modLane r f).spilled = s.spilled := rfl
@[simp] theorem modLane_hostRead (s : State) (r : LRef) (f : Lane → Lane) : (s.modLane r f).hostRead = s.hostRead := rfl
@[simp] theorem modLane_hostPoison (s : State) (r : LRef) (f : Lane → Lane) : (s.modLane r f).hostPoison = s.hostPoison := rfl
@[simp] theorem modLane_hostTag (s : State) (r : LRef) (f : Lane → Lane) : (s.modLane r f).hostTag = s.hostTag := rfl
@[simp] theorem modLane_hostOver (s : State) (r : LRef) (f : Lane → Lane) : (s.modLane r f).hostOver = s.hostOver := rfl

@[simp] theorem modBlock_agenda (s : State) (b : Nat) (f : Block → Block) : (s.modBlock b f).agenda = s.agenda := rfl
@[simp] theorem modBlock_steps (s : State) (b : Nat) (f : Block → Block) : (s.modBlock b f).steps = s.steps := rfl
@[simp] theorem modBlock_issue (s : State) (b : Nat) (f : Block → Block) : (s.modBlock b f).issue = s.issue := rfl
@[simp] theorem modBlock_ev (s : State) (b : Nat) (f : Block → Block) : (s.modBlock b f).ev = s.ev := rfl
@[simp] theorem modBlock_nextId (s : State) (b : Nat) (f : Block → Block) : (s.modBlock b f).nextId = s.nextId := rfl
@[simp] theorem modBlock_turn (s : State) (b : Nat) (f : Block → Block) : (s.modBlock b f).turn = s.turn := rfl
@[simp] theorem modBlock_images (s : State) (b : Nat) (f : Block → Block) : (s.modBlock b f).images = s.images := rfl
@[simp] theorem modBlock_cores (s : State) (b : Nat) (f : Block → Block) : (s.modBlock b f).cores = s.cores := rfl
@[simp] theorem modBlock_dies (s : State) (b : Nat) (f : Block → Block) : (s.modBlock b f).dies = s.dies := rfl
@[simp] theorem modBlock_groups (s : State) (b : Nat) (f : Block → Block) : (s.modBlock b f).groups = s.groups := rfl
@[simp] theorem modBlock_grids (s : State) (b : Nat) (f : Block → Block) : (s.modBlock b f).grids = s.grids := rfl
@[simp] theorem modBlock_launchQ (s : State) (b : Nat) (f : Block → Block) : (s.modBlock b f).launchQ = s.launchQ := rfl
@[simp] theorem modBlock_copies (s : State) (b : Nat) (f : Block → Block) : (s.modBlock b f).copies = s.copies := rfl
@[simp] theorem modBlock_ops (s : State) (b : Nat) (f : Block → Block) : (s.modBlock b f).ops = s.ops := rfl
@[simp] theorem modBlock_ctxs (s : State) (b : Nat) (f : Block → Block) : (s.modBlock b f).ctxs = s.ctxs := rfl
@[simp] theorem modBlock_hbm (s : State) (b : Nat) (f : Block → Block) : (s.modBlock b f).hbm = s.hbm := rfl
@[simp] theorem modBlock_baseKey (s : State) (b : Nat) (f : Block → Block) : (s.modBlock b f).baseKey = s.baseKey := rfl
@[simp] theorem modBlock_sectorKeys (s : State) (b : Nat) (f : Block → Block) : (s.modBlock b f).sectorKeys = s.sectorKeys := rfl
@[simp] theorem modBlock_l1 (s : State) (b : Nat) (f : Block → Block) : (s.modBlock b f).l1 = s.l1 := rfl
@[simp] theorem modBlock_asids (s : State) (b : Nat) (f : Block → Block) : (s.modBlock b f).asids = s.asids := rfl
@[simp] theorem modBlock_keys (s : State) (b : Nat) (f : Block → Block) : (s.modBlock b f).keys = s.keys := rfl
@[simp] theorem modBlock_leaseLost (s : State) (b : Nat) (f : Block → Block) : (s.modBlock b f).leaseLost = s.leaseLost := rfl
@[simp] theorem modBlock_incumbents (s : State) (b : Nat) (f : Block → Block) : (s.modBlock b f).incumbents = s.incumbents := rfl
@[simp] theorem modBlock_regions (s : State) (b : Nat) (f : Block → Block) : (s.modBlock b f).regions = s.regions := rfl
@[simp] theorem modBlock_openCount (s : State) (b : Nat) (f : Block → Block) : (s.modBlock b f).openCount = s.openCount := rfl
@[simp] theorem modBlock_past (s : State) (b : Nat) (f : Block → Block) : (s.modBlock b f).past = s.past := rfl
@[simp] theorem modBlock_delayed (s : State) (b : Nat) (f : Block → Block) : (s.modBlock b f).delayed = s.delayed := rfl
@[simp] theorem modBlock_farSpec (s : State) (b : Nat) (f : Block → Block) : (s.modBlock b f).farSpec = s.farSpec := rfl
@[simp] theorem modBlock_derate (s : State) (b : Nat) (f : Block → Block) : (s.modBlock b f).derate = s.derate := rfl
@[simp] theorem modBlock_derateNext (s : State) (b : Nat) (f : Block → Block) : (s.modBlock b f).derateNext = s.derateNext := rfl
@[simp] theorem modBlock_hangMs (s : State) (b : Nat) (f : Block → Block) : (s.modBlock b f).hangMs = s.hangMs := rfl
@[simp] theorem modBlock_retired (s : State) (b : Nat) (f : Block → Block) : (s.modBlock b f).retired = s.retired := rfl
@[simp] theorem modBlock_ce (s : State) (b : Nat) (f : Block → Block) : (s.modBlock b f).ce = s.ce := rfl
@[simp] theorem modBlock_lasting (s : State) (b : Nat) (f : Block → Block) : (s.modBlock b f).lasting = s.lasting := rfl
@[simp] theorem modBlock_unspared (s : State) (b : Nat) (f : Block → Block) : (s.modBlock b f).unspared = s.unspared := rfl
@[simp] theorem modBlock_spares (s : State) (b : Nat) (f : Block → Block) : (s.modBlock b f).spares = s.spares := rfl
@[simp] theorem modBlock_kcores (s : State) (b : Nat) (f : Block → Block) : (s.modBlock b f).kcores = s.kcores := rfl
@[simp] theorem modBlock_complex (s : State) (b : Nat) (f : Block → Block) : (s.modBlock b f).complex = s.complex := rfl
@[simp] theorem modBlock_eventQ (s : State) (b : Nat) (f : Block → Block) : (s.modBlock b f).eventQ = s.eventQ := rfl
@[simp] theorem modBlock_eventHeld (s : State) (b : Nat) (f : Block → Block) : (s.modBlock b f).eventHeld = s.eventHeld := rfl
@[simp] theorem modBlock_queues (s : State) (b : Nat) (f : Block → Block) : (s.modBlock b f).queues = s.queues := rfl
@[simp] theorem modBlock_queueMem (s : State) (b : Nat) (f : Block → Block) : (s.modBlock b f).queueMem = s.queueMem := rfl
@[simp] theorem modBlock_eventOrder (s : State) (b : Nat) (f : Block → Block) : (s.modBlock b f).eventOrder = s.eventOrder := rfl
@[simp] theorem modBlock_msix (s : State) (b : Nat) (f : Block → Block) : (s.modBlock b f).msix = s.msix := rfl
@[simp] theorem modBlock_sexton (s : State) (b : Nat) (f : Block → Block) : (s.modBlock b f).sexton = s.sexton := rfl
@[simp] theorem modBlock_aperBase (s : State) (b : Nat) (f : Block → Block) : (s.modBlock b f).aperBase = s.aperBase := rfl
@[simp] theorem modBlock_aperSlot (s : State) (b : Nat) (f : Block → Block) : (s.modBlock b f).aperSlot = s.aperSlot := rfl
@[simp] theorem modBlock_power (s : State) (b : Nat) (f : Block → Block) : (s.modBlock b f).power = s.power := rfl
@[simp] theorem modBlock_linkUp (s : State) (b : Nat) (f : Block → Block) : (s.modBlock b f).linkUp = s.linkUp := rfl
@[simp] theorem modBlock_domid (s : State) (b : Nat) (f : Block → Block) : (s.modBlock b f).domid = s.domid := rfl
@[simp] theorem modBlock_i3cAddr (s : State) (b : Nat) (f : Block → Block) : (s.modBlock b f).i3cAddr = s.i3cAddr := rfl
@[simp] theorem modBlock_routes (s : State) (b : Nat) (f : Block → Block) : (s.modBlock b f).routes = s.routes := rfl
@[simp] theorem modBlock_remotes (s : State) (b : Nat) (f : Block → Block) : (s.modBlock b f).remotes = s.remotes := rfl
@[simp] theorem modBlock_spilled (s : State) (b : Nat) (f : Block → Block) : (s.modBlock b f).spilled = s.spilled := rfl
@[simp] theorem modBlock_hostRead (s : State) (b : Nat) (f : Block → Block) : (s.modBlock b f).hostRead = s.hostRead := rfl
@[simp] theorem modBlock_hostPoison (s : State) (b : Nat) (f : Block → Block) : (s.modBlock b f).hostPoison = s.hostPoison := rfl
@[simp] theorem modBlock_hostTag (s : State) (b : Nat) (f : Block → Block) : (s.modBlock b f).hostTag = s.hostTag := rfl
@[simp] theorem modBlock_hostOver (s : State) (b : Nat) (f : Block → Block) : (s.modBlock b f).hostOver = s.hostOver := rfl

@[simp] theorem modGrid_agenda (s : State) (g : Nat) (f : Grid → Grid) : (s.modGrid g f).agenda = s.agenda := rfl
@[simp] theorem modGrid_steps (s : State) (g : Nat) (f : Grid → Grid) : (s.modGrid g f).steps = s.steps := rfl
@[simp] theorem modGrid_issue (s : State) (g : Nat) (f : Grid → Grid) : (s.modGrid g f).issue = s.issue := rfl
@[simp] theorem modGrid_ev (s : State) (g : Nat) (f : Grid → Grid) : (s.modGrid g f).ev = s.ev := rfl
@[simp] theorem modGrid_nextId (s : State) (g : Nat) (f : Grid → Grid) : (s.modGrid g f).nextId = s.nextId := rfl
@[simp] theorem modGrid_turn (s : State) (g : Nat) (f : Grid → Grid) : (s.modGrid g f).turn = s.turn := rfl
@[simp] theorem modGrid_images (s : State) (g : Nat) (f : Grid → Grid) : (s.modGrid g f).images = s.images := rfl
@[simp] theorem modGrid_cores (s : State) (g : Nat) (f : Grid → Grid) : (s.modGrid g f).cores = s.cores := rfl
@[simp] theorem modGrid_dies (s : State) (g : Nat) (f : Grid → Grid) : (s.modGrid g f).dies = s.dies := rfl
@[simp] theorem modGrid_groups (s : State) (g : Nat) (f : Grid → Grid) : (s.modGrid g f).groups = s.groups := rfl
@[simp] theorem modGrid_blocks (s : State) (g : Nat) (f : Grid → Grid) : (s.modGrid g f).blocks = s.blocks := rfl
@[simp] theorem modGrid_launchQ (s : State) (g : Nat) (f : Grid → Grid) : (s.modGrid g f).launchQ = s.launchQ := rfl
@[simp] theorem modGrid_copies (s : State) (g : Nat) (f : Grid → Grid) : (s.modGrid g f).copies = s.copies := rfl
@[simp] theorem modGrid_ops (s : State) (g : Nat) (f : Grid → Grid) : (s.modGrid g f).ops = s.ops := rfl
@[simp] theorem modGrid_ctxs (s : State) (g : Nat) (f : Grid → Grid) : (s.modGrid g f).ctxs = s.ctxs := rfl
@[simp] theorem modGrid_hbm (s : State) (g : Nat) (f : Grid → Grid) : (s.modGrid g f).hbm = s.hbm := rfl
@[simp] theorem modGrid_baseKey (s : State) (g : Nat) (f : Grid → Grid) : (s.modGrid g f).baseKey = s.baseKey := rfl
@[simp] theorem modGrid_sectorKeys (s : State) (g : Nat) (f : Grid → Grid) : (s.modGrid g f).sectorKeys = s.sectorKeys := rfl
@[simp] theorem modGrid_l1 (s : State) (g : Nat) (f : Grid → Grid) : (s.modGrid g f).l1 = s.l1 := rfl
@[simp] theorem modGrid_asids (s : State) (g : Nat) (f : Grid → Grid) : (s.modGrid g f).asids = s.asids := rfl
@[simp] theorem modGrid_keys (s : State) (g : Nat) (f : Grid → Grid) : (s.modGrid g f).keys = s.keys := rfl
@[simp] theorem modGrid_leaseLost (s : State) (g : Nat) (f : Grid → Grid) : (s.modGrid g f).leaseLost = s.leaseLost := rfl
@[simp] theorem modGrid_incumbents (s : State) (g : Nat) (f : Grid → Grid) : (s.modGrid g f).incumbents = s.incumbents := rfl
@[simp] theorem modGrid_regions (s : State) (g : Nat) (f : Grid → Grid) : (s.modGrid g f).regions = s.regions := rfl
@[simp] theorem modGrid_openCount (s : State) (g : Nat) (f : Grid → Grid) : (s.modGrid g f).openCount = s.openCount := rfl
@[simp] theorem modGrid_past (s : State) (g : Nat) (f : Grid → Grid) : (s.modGrid g f).past = s.past := rfl
@[simp] theorem modGrid_delayed (s : State) (g : Nat) (f : Grid → Grid) : (s.modGrid g f).delayed = s.delayed := rfl
@[simp] theorem modGrid_farSpec (s : State) (g : Nat) (f : Grid → Grid) : (s.modGrid g f).farSpec = s.farSpec := rfl
@[simp] theorem modGrid_derate (s : State) (g : Nat) (f : Grid → Grid) : (s.modGrid g f).derate = s.derate := rfl
@[simp] theorem modGrid_derateNext (s : State) (g : Nat) (f : Grid → Grid) : (s.modGrid g f).derateNext = s.derateNext := rfl
@[simp] theorem modGrid_hangMs (s : State) (g : Nat) (f : Grid → Grid) : (s.modGrid g f).hangMs = s.hangMs := rfl
@[simp] theorem modGrid_retired (s : State) (g : Nat) (f : Grid → Grid) : (s.modGrid g f).retired = s.retired := rfl
@[simp] theorem modGrid_ce (s : State) (g : Nat) (f : Grid → Grid) : (s.modGrid g f).ce = s.ce := rfl
@[simp] theorem modGrid_lasting (s : State) (g : Nat) (f : Grid → Grid) : (s.modGrid g f).lasting = s.lasting := rfl
@[simp] theorem modGrid_unspared (s : State) (g : Nat) (f : Grid → Grid) : (s.modGrid g f).unspared = s.unspared := rfl
@[simp] theorem modGrid_spares (s : State) (g : Nat) (f : Grid → Grid) : (s.modGrid g f).spares = s.spares := rfl
@[simp] theorem modGrid_kcores (s : State) (g : Nat) (f : Grid → Grid) : (s.modGrid g f).kcores = s.kcores := rfl
@[simp] theorem modGrid_complex (s : State) (g : Nat) (f : Grid → Grid) : (s.modGrid g f).complex = s.complex := rfl
@[simp] theorem modGrid_eventQ (s : State) (g : Nat) (f : Grid → Grid) : (s.modGrid g f).eventQ = s.eventQ := rfl
@[simp] theorem modGrid_eventHeld (s : State) (g : Nat) (f : Grid → Grid) : (s.modGrid g f).eventHeld = s.eventHeld := rfl
@[simp] theorem modGrid_queues (s : State) (g : Nat) (f : Grid → Grid) : (s.modGrid g f).queues = s.queues := rfl
@[simp] theorem modGrid_queueMem (s : State) (g : Nat) (f : Grid → Grid) : (s.modGrid g f).queueMem = s.queueMem := rfl
@[simp] theorem modGrid_eventOrder (s : State) (g : Nat) (f : Grid → Grid) : (s.modGrid g f).eventOrder = s.eventOrder := rfl
@[simp] theorem modGrid_msix (s : State) (g : Nat) (f : Grid → Grid) : (s.modGrid g f).msix = s.msix := rfl
@[simp] theorem modGrid_sexton (s : State) (g : Nat) (f : Grid → Grid) : (s.modGrid g f).sexton = s.sexton := rfl
@[simp] theorem modGrid_aperBase (s : State) (g : Nat) (f : Grid → Grid) : (s.modGrid g f).aperBase = s.aperBase := rfl
@[simp] theorem modGrid_aperSlot (s : State) (g : Nat) (f : Grid → Grid) : (s.modGrid g f).aperSlot = s.aperSlot := rfl
@[simp] theorem modGrid_power (s : State) (g : Nat) (f : Grid → Grid) : (s.modGrid g f).power = s.power := rfl
@[simp] theorem modGrid_linkUp (s : State) (g : Nat) (f : Grid → Grid) : (s.modGrid g f).linkUp = s.linkUp := rfl
@[simp] theorem modGrid_domid (s : State) (g : Nat) (f : Grid → Grid) : (s.modGrid g f).domid = s.domid := rfl
@[simp] theorem modGrid_i3cAddr (s : State) (g : Nat) (f : Grid → Grid) : (s.modGrid g f).i3cAddr = s.i3cAddr := rfl
@[simp] theorem modGrid_routes (s : State) (g : Nat) (f : Grid → Grid) : (s.modGrid g f).routes = s.routes := rfl
@[simp] theorem modGrid_remotes (s : State) (g : Nat) (f : Grid → Grid) : (s.modGrid g f).remotes = s.remotes := rfl
@[simp] theorem modGrid_spilled (s : State) (g : Nat) (f : Grid → Grid) : (s.modGrid g f).spilled = s.spilled := rfl
@[simp] theorem modGrid_hostRead (s : State) (g : Nat) (f : Grid → Grid) : (s.modGrid g f).hostRead = s.hostRead := rfl
@[simp] theorem modGrid_hostPoison (s : State) (g : Nat) (f : Grid → Grid) : (s.modGrid g f).hostPoison = s.hostPoison := rfl
@[simp] theorem modGrid_hostTag (s : State) (g : Nat) (f : Grid → Grid) : (s.modGrid g f).hostTag = s.hostTag := rfl
@[simp] theorem modGrid_hostOver (s : State) (g : Nat) (f : Grid → Grid) : (s.modGrid g f).hostOver = s.hostOver := rfl

@[simp] theorem modCopy_agenda (s : State) (c : Nat) (f : Copy → Copy) : (s.modCopy c f).agenda = s.agenda := rfl
@[simp] theorem modCopy_steps (s : State) (c : Nat) (f : Copy → Copy) : (s.modCopy c f).steps = s.steps := rfl
@[simp] theorem modCopy_issue (s : State) (c : Nat) (f : Copy → Copy) : (s.modCopy c f).issue = s.issue := rfl
@[simp] theorem modCopy_ev (s : State) (c : Nat) (f : Copy → Copy) : (s.modCopy c f).ev = s.ev := rfl
@[simp] theorem modCopy_nextId (s : State) (c : Nat) (f : Copy → Copy) : (s.modCopy c f).nextId = s.nextId := rfl
@[simp] theorem modCopy_turn (s : State) (c : Nat) (f : Copy → Copy) : (s.modCopy c f).turn = s.turn := rfl
@[simp] theorem modCopy_images (s : State) (c : Nat) (f : Copy → Copy) : (s.modCopy c f).images = s.images := rfl
@[simp] theorem modCopy_cores (s : State) (c : Nat) (f : Copy → Copy) : (s.modCopy c f).cores = s.cores := rfl
@[simp] theorem modCopy_dies (s : State) (c : Nat) (f : Copy → Copy) : (s.modCopy c f).dies = s.dies := rfl
@[simp] theorem modCopy_groups (s : State) (c : Nat) (f : Copy → Copy) : (s.modCopy c f).groups = s.groups := rfl
@[simp] theorem modCopy_blocks (s : State) (c : Nat) (f : Copy → Copy) : (s.modCopy c f).blocks = s.blocks := rfl
@[simp] theorem modCopy_grids (s : State) (c : Nat) (f : Copy → Copy) : (s.modCopy c f).grids = s.grids := rfl
@[simp] theorem modCopy_launchQ (s : State) (c : Nat) (f : Copy → Copy) : (s.modCopy c f).launchQ = s.launchQ := rfl
@[simp] theorem modCopy_ops (s : State) (c : Nat) (f : Copy → Copy) : (s.modCopy c f).ops = s.ops := rfl
@[simp] theorem modCopy_ctxs (s : State) (c : Nat) (f : Copy → Copy) : (s.modCopy c f).ctxs = s.ctxs := rfl
@[simp] theorem modCopy_hbm (s : State) (c : Nat) (f : Copy → Copy) : (s.modCopy c f).hbm = s.hbm := rfl
@[simp] theorem modCopy_baseKey (s : State) (c : Nat) (f : Copy → Copy) : (s.modCopy c f).baseKey = s.baseKey := rfl
@[simp] theorem modCopy_sectorKeys (s : State) (c : Nat) (f : Copy → Copy) : (s.modCopy c f).sectorKeys = s.sectorKeys := rfl
@[simp] theorem modCopy_l1 (s : State) (c : Nat) (f : Copy → Copy) : (s.modCopy c f).l1 = s.l1 := rfl
@[simp] theorem modCopy_asids (s : State) (c : Nat) (f : Copy → Copy) : (s.modCopy c f).asids = s.asids := rfl
@[simp] theorem modCopy_keys (s : State) (c : Nat) (f : Copy → Copy) : (s.modCopy c f).keys = s.keys := rfl
@[simp] theorem modCopy_leaseLost (s : State) (c : Nat) (f : Copy → Copy) : (s.modCopy c f).leaseLost = s.leaseLost := rfl
@[simp] theorem modCopy_incumbents (s : State) (c : Nat) (f : Copy → Copy) : (s.modCopy c f).incumbents = s.incumbents := rfl
@[simp] theorem modCopy_regions (s : State) (c : Nat) (f : Copy → Copy) : (s.modCopy c f).regions = s.regions := rfl
@[simp] theorem modCopy_openCount (s : State) (c : Nat) (f : Copy → Copy) : (s.modCopy c f).openCount = s.openCount := rfl
@[simp] theorem modCopy_past (s : State) (c : Nat) (f : Copy → Copy) : (s.modCopy c f).past = s.past := rfl
@[simp] theorem modCopy_delayed (s : State) (c : Nat) (f : Copy → Copy) : (s.modCopy c f).delayed = s.delayed := rfl
@[simp] theorem modCopy_farSpec (s : State) (c : Nat) (f : Copy → Copy) : (s.modCopy c f).farSpec = s.farSpec := rfl
@[simp] theorem modCopy_derate (s : State) (c : Nat) (f : Copy → Copy) : (s.modCopy c f).derate = s.derate := rfl
@[simp] theorem modCopy_derateNext (s : State) (c : Nat) (f : Copy → Copy) : (s.modCopy c f).derateNext = s.derateNext := rfl
@[simp] theorem modCopy_hangMs (s : State) (c : Nat) (f : Copy → Copy) : (s.modCopy c f).hangMs = s.hangMs := rfl
@[simp] theorem modCopy_retired (s : State) (c : Nat) (f : Copy → Copy) : (s.modCopy c f).retired = s.retired := rfl
@[simp] theorem modCopy_ce (s : State) (c : Nat) (f : Copy → Copy) : (s.modCopy c f).ce = s.ce := rfl
@[simp] theorem modCopy_lasting (s : State) (c : Nat) (f : Copy → Copy) : (s.modCopy c f).lasting = s.lasting := rfl
@[simp] theorem modCopy_unspared (s : State) (c : Nat) (f : Copy → Copy) : (s.modCopy c f).unspared = s.unspared := rfl
@[simp] theorem modCopy_spares (s : State) (c : Nat) (f : Copy → Copy) : (s.modCopy c f).spares = s.spares := rfl
@[simp] theorem modCopy_kcores (s : State) (c : Nat) (f : Copy → Copy) : (s.modCopy c f).kcores = s.kcores := rfl
@[simp] theorem modCopy_complex (s : State) (c : Nat) (f : Copy → Copy) : (s.modCopy c f).complex = s.complex := rfl
@[simp] theorem modCopy_eventQ (s : State) (c : Nat) (f : Copy → Copy) : (s.modCopy c f).eventQ = s.eventQ := rfl
@[simp] theorem modCopy_eventHeld (s : State) (c : Nat) (f : Copy → Copy) : (s.modCopy c f).eventHeld = s.eventHeld := rfl
@[simp] theorem modCopy_queues (s : State) (c : Nat) (f : Copy → Copy) : (s.modCopy c f).queues = s.queues := rfl
@[simp] theorem modCopy_queueMem (s : State) (c : Nat) (f : Copy → Copy) : (s.modCopy c f).queueMem = s.queueMem := rfl
@[simp] theorem modCopy_eventOrder (s : State) (c : Nat) (f : Copy → Copy) : (s.modCopy c f).eventOrder = s.eventOrder := rfl
@[simp] theorem modCopy_msix (s : State) (c : Nat) (f : Copy → Copy) : (s.modCopy c f).msix = s.msix := rfl
@[simp] theorem modCopy_sexton (s : State) (c : Nat) (f : Copy → Copy) : (s.modCopy c f).sexton = s.sexton := rfl
@[simp] theorem modCopy_aperBase (s : State) (c : Nat) (f : Copy → Copy) : (s.modCopy c f).aperBase = s.aperBase := rfl
@[simp] theorem modCopy_aperSlot (s : State) (c : Nat) (f : Copy → Copy) : (s.modCopy c f).aperSlot = s.aperSlot := rfl
@[simp] theorem modCopy_power (s : State) (c : Nat) (f : Copy → Copy) : (s.modCopy c f).power = s.power := rfl
@[simp] theorem modCopy_linkUp (s : State) (c : Nat) (f : Copy → Copy) : (s.modCopy c f).linkUp = s.linkUp := rfl
@[simp] theorem modCopy_domid (s : State) (c : Nat) (f : Copy → Copy) : (s.modCopy c f).domid = s.domid := rfl
@[simp] theorem modCopy_i3cAddr (s : State) (c : Nat) (f : Copy → Copy) : (s.modCopy c f).i3cAddr = s.i3cAddr := rfl
@[simp] theorem modCopy_routes (s : State) (c : Nat) (f : Copy → Copy) : (s.modCopy c f).routes = s.routes := rfl
@[simp] theorem modCopy_remotes (s : State) (c : Nat) (f : Copy → Copy) : (s.modCopy c f).remotes = s.remotes := rfl
@[simp] theorem modCopy_spilled (s : State) (c : Nat) (f : Copy → Copy) : (s.modCopy c f).spilled = s.spilled := rfl
@[simp] theorem modCopy_hostRead (s : State) (c : Nat) (f : Copy → Copy) : (s.modCopy c f).hostRead = s.hostRead := rfl
@[simp] theorem modCopy_hostPoison (s : State) (c : Nat) (f : Copy → Copy) : (s.modCopy c f).hostPoison = s.hostPoison := rfl
@[simp] theorem modCopy_hostTag (s : State) (c : Nat) (f : Copy → Copy) : (s.modCopy c f).hostTag = s.hostTag := rfl
@[simp] theorem modCopy_hostOver (s : State) (c : Nat) (f : Copy → Copy) : (s.modCopy c f).hostOver = s.hostOver := rfl

@[simp] theorem modOp_agenda (s : State) (o : Nat) (f : MxOp → MxOp) : (s.modOp o f).agenda = s.agenda := rfl
@[simp] theorem modOp_steps (s : State) (o : Nat) (f : MxOp → MxOp) : (s.modOp o f).steps = s.steps := rfl
@[simp] theorem modOp_issue (s : State) (o : Nat) (f : MxOp → MxOp) : (s.modOp o f).issue = s.issue := rfl
@[simp] theorem modOp_ev (s : State) (o : Nat) (f : MxOp → MxOp) : (s.modOp o f).ev = s.ev := rfl
@[simp] theorem modOp_nextId (s : State) (o : Nat) (f : MxOp → MxOp) : (s.modOp o f).nextId = s.nextId := rfl
@[simp] theorem modOp_turn (s : State) (o : Nat) (f : MxOp → MxOp) : (s.modOp o f).turn = s.turn := rfl
@[simp] theorem modOp_images (s : State) (o : Nat) (f : MxOp → MxOp) : (s.modOp o f).images = s.images := rfl
@[simp] theorem modOp_cores (s : State) (o : Nat) (f : MxOp → MxOp) : (s.modOp o f).cores = s.cores := rfl
@[simp] theorem modOp_dies (s : State) (o : Nat) (f : MxOp → MxOp) : (s.modOp o f).dies = s.dies := rfl
@[simp] theorem modOp_groups (s : State) (o : Nat) (f : MxOp → MxOp) : (s.modOp o f).groups = s.groups := rfl
@[simp] theorem modOp_blocks (s : State) (o : Nat) (f : MxOp → MxOp) : (s.modOp o f).blocks = s.blocks := rfl
@[simp] theorem modOp_grids (s : State) (o : Nat) (f : MxOp → MxOp) : (s.modOp o f).grids = s.grids := rfl
@[simp] theorem modOp_launchQ (s : State) (o : Nat) (f : MxOp → MxOp) : (s.modOp o f).launchQ = s.launchQ := rfl
@[simp] theorem modOp_copies (s : State) (o : Nat) (f : MxOp → MxOp) : (s.modOp o f).copies = s.copies := rfl
@[simp] theorem modOp_ctxs (s : State) (o : Nat) (f : MxOp → MxOp) : (s.modOp o f).ctxs = s.ctxs := rfl
@[simp] theorem modOp_hbm (s : State) (o : Nat) (f : MxOp → MxOp) : (s.modOp o f).hbm = s.hbm := rfl
@[simp] theorem modOp_baseKey (s : State) (o : Nat) (f : MxOp → MxOp) : (s.modOp o f).baseKey = s.baseKey := rfl
@[simp] theorem modOp_sectorKeys (s : State) (o : Nat) (f : MxOp → MxOp) : (s.modOp o f).sectorKeys = s.sectorKeys := rfl
@[simp] theorem modOp_l1 (s : State) (o : Nat) (f : MxOp → MxOp) : (s.modOp o f).l1 = s.l1 := rfl
@[simp] theorem modOp_asids (s : State) (o : Nat) (f : MxOp → MxOp) : (s.modOp o f).asids = s.asids := rfl
@[simp] theorem modOp_keys (s : State) (o : Nat) (f : MxOp → MxOp) : (s.modOp o f).keys = s.keys := rfl
@[simp] theorem modOp_leaseLost (s : State) (o : Nat) (f : MxOp → MxOp) : (s.modOp o f).leaseLost = s.leaseLost := rfl
@[simp] theorem modOp_incumbents (s : State) (o : Nat) (f : MxOp → MxOp) : (s.modOp o f).incumbents = s.incumbents := rfl
@[simp] theorem modOp_regions (s : State) (o : Nat) (f : MxOp → MxOp) : (s.modOp o f).regions = s.regions := rfl
@[simp] theorem modOp_openCount (s : State) (o : Nat) (f : MxOp → MxOp) : (s.modOp o f).openCount = s.openCount := rfl
@[simp] theorem modOp_past (s : State) (o : Nat) (f : MxOp → MxOp) : (s.modOp o f).past = s.past := rfl
@[simp] theorem modOp_delayed (s : State) (o : Nat) (f : MxOp → MxOp) : (s.modOp o f).delayed = s.delayed := rfl
@[simp] theorem modOp_farSpec (s : State) (o : Nat) (f : MxOp → MxOp) : (s.modOp o f).farSpec = s.farSpec := rfl
@[simp] theorem modOp_derate (s : State) (o : Nat) (f : MxOp → MxOp) : (s.modOp o f).derate = s.derate := rfl
@[simp] theorem modOp_derateNext (s : State) (o : Nat) (f : MxOp → MxOp) : (s.modOp o f).derateNext = s.derateNext := rfl
@[simp] theorem modOp_hangMs (s : State) (o : Nat) (f : MxOp → MxOp) : (s.modOp o f).hangMs = s.hangMs := rfl
@[simp] theorem modOp_retired (s : State) (o : Nat) (f : MxOp → MxOp) : (s.modOp o f).retired = s.retired := rfl
@[simp] theorem modOp_ce (s : State) (o : Nat) (f : MxOp → MxOp) : (s.modOp o f).ce = s.ce := rfl
@[simp] theorem modOp_lasting (s : State) (o : Nat) (f : MxOp → MxOp) : (s.modOp o f).lasting = s.lasting := rfl
@[simp] theorem modOp_unspared (s : State) (o : Nat) (f : MxOp → MxOp) : (s.modOp o f).unspared = s.unspared := rfl
@[simp] theorem modOp_spares (s : State) (o : Nat) (f : MxOp → MxOp) : (s.modOp o f).spares = s.spares := rfl
@[simp] theorem modOp_kcores (s : State) (o : Nat) (f : MxOp → MxOp) : (s.modOp o f).kcores = s.kcores := rfl
@[simp] theorem modOp_complex (s : State) (o : Nat) (f : MxOp → MxOp) : (s.modOp o f).complex = s.complex := rfl
@[simp] theorem modOp_eventQ (s : State) (o : Nat) (f : MxOp → MxOp) : (s.modOp o f).eventQ = s.eventQ := rfl
@[simp] theorem modOp_eventHeld (s : State) (o : Nat) (f : MxOp → MxOp) : (s.modOp o f).eventHeld = s.eventHeld := rfl
@[simp] theorem modOp_queues (s : State) (o : Nat) (f : MxOp → MxOp) : (s.modOp o f).queues = s.queues := rfl
@[simp] theorem modOp_queueMem (s : State) (o : Nat) (f : MxOp → MxOp) : (s.modOp o f).queueMem = s.queueMem := rfl
@[simp] theorem modOp_eventOrder (s : State) (o : Nat) (f : MxOp → MxOp) : (s.modOp o f).eventOrder = s.eventOrder := rfl
@[simp] theorem modOp_msix (s : State) (o : Nat) (f : MxOp → MxOp) : (s.modOp o f).msix = s.msix := rfl
@[simp] theorem modOp_sexton (s : State) (o : Nat) (f : MxOp → MxOp) : (s.modOp o f).sexton = s.sexton := rfl
@[simp] theorem modOp_aperBase (s : State) (o : Nat) (f : MxOp → MxOp) : (s.modOp o f).aperBase = s.aperBase := rfl
@[simp] theorem modOp_aperSlot (s : State) (o : Nat) (f : MxOp → MxOp) : (s.modOp o f).aperSlot = s.aperSlot := rfl
@[simp] theorem modOp_power (s : State) (o : Nat) (f : MxOp → MxOp) : (s.modOp o f).power = s.power := rfl
@[simp] theorem modOp_linkUp (s : State) (o : Nat) (f : MxOp → MxOp) : (s.modOp o f).linkUp = s.linkUp := rfl
@[simp] theorem modOp_domid (s : State) (o : Nat) (f : MxOp → MxOp) : (s.modOp o f).domid = s.domid := rfl
@[simp] theorem modOp_i3cAddr (s : State) (o : Nat) (f : MxOp → MxOp) : (s.modOp o f).i3cAddr = s.i3cAddr := rfl
@[simp] theorem modOp_routes (s : State) (o : Nat) (f : MxOp → MxOp) : (s.modOp o f).routes = s.routes := rfl
@[simp] theorem modOp_remotes (s : State) (o : Nat) (f : MxOp → MxOp) : (s.modOp o f).remotes = s.remotes := rfl
@[simp] theorem modOp_spilled (s : State) (o : Nat) (f : MxOp → MxOp) : (s.modOp o f).spilled = s.spilled := rfl
@[simp] theorem modOp_hostRead (s : State) (o : Nat) (f : MxOp → MxOp) : (s.modOp o f).hostRead = s.hostRead := rfl
@[simp] theorem modOp_hostPoison (s : State) (o : Nat) (f : MxOp → MxOp) : (s.modOp o f).hostPoison = s.hostPoison := rfl
@[simp] theorem modOp_hostTag (s : State) (o : Nat) (f : MxOp → MxOp) : (s.modOp o f).hostTag = s.hostTag := rfl
@[simp] theorem modOp_hostOver (s : State) (o : Nat) (f : MxOp → MxOp) : (s.modOp o f).hostOver = s.hostOver := rfl

@[simp] theorem modRow_agenda (s : State) (c r : Nat) (f : Row → Row) : (s.modRow c r f).agenda = s.agenda := rfl
@[simp] theorem modRow_steps (s : State) (c r : Nat) (f : Row → Row) : (s.modRow c r f).steps = s.steps := rfl
@[simp] theorem modRow_issue (s : State) (c r : Nat) (f : Row → Row) : (s.modRow c r f).issue = s.issue := rfl
@[simp] theorem modRow_ev (s : State) (c r : Nat) (f : Row → Row) : (s.modRow c r f).ev = s.ev := rfl
@[simp] theorem modRow_nextId (s : State) (c r : Nat) (f : Row → Row) : (s.modRow c r f).nextId = s.nextId := rfl
@[simp] theorem modRow_turn (s : State) (c r : Nat) (f : Row → Row) : (s.modRow c r f).turn = s.turn := rfl
@[simp] theorem modRow_images (s : State) (c r : Nat) (f : Row → Row) : (s.modRow c r f).images = s.images := rfl
@[simp] theorem modRow_dies (s : State) (c r : Nat) (f : Row → Row) : (s.modRow c r f).dies = s.dies := rfl
@[simp] theorem modRow_groups (s : State) (c r : Nat) (f : Row → Row) : (s.modRow c r f).groups = s.groups := rfl
@[simp] theorem modRow_blocks (s : State) (c r : Nat) (f : Row → Row) : (s.modRow c r f).blocks = s.blocks := rfl
@[simp] theorem modRow_grids (s : State) (c r : Nat) (f : Row → Row) : (s.modRow c r f).grids = s.grids := rfl
@[simp] theorem modRow_launchQ (s : State) (c r : Nat) (f : Row → Row) : (s.modRow c r f).launchQ = s.launchQ := rfl
@[simp] theorem modRow_copies (s : State) (c r : Nat) (f : Row → Row) : (s.modRow c r f).copies = s.copies := rfl
@[simp] theorem modRow_ops (s : State) (c r : Nat) (f : Row → Row) : (s.modRow c r f).ops = s.ops := rfl
@[simp] theorem modRow_ctxs (s : State) (c r : Nat) (f : Row → Row) : (s.modRow c r f).ctxs = s.ctxs := rfl
@[simp] theorem modRow_hbm (s : State) (c r : Nat) (f : Row → Row) : (s.modRow c r f).hbm = s.hbm := rfl
@[simp] theorem modRow_baseKey (s : State) (c r : Nat) (f : Row → Row) : (s.modRow c r f).baseKey = s.baseKey := rfl
@[simp] theorem modRow_sectorKeys (s : State) (c r : Nat) (f : Row → Row) : (s.modRow c r f).sectorKeys = s.sectorKeys := rfl
@[simp] theorem modRow_l1 (s : State) (c r : Nat) (f : Row → Row) : (s.modRow c r f).l1 = s.l1 := rfl
@[simp] theorem modRow_asids (s : State) (c r : Nat) (f : Row → Row) : (s.modRow c r f).asids = s.asids := rfl
@[simp] theorem modRow_keys (s : State) (c r : Nat) (f : Row → Row) : (s.modRow c r f).keys = s.keys := rfl
@[simp] theorem modRow_leaseLost (s : State) (c r : Nat) (f : Row → Row) : (s.modRow c r f).leaseLost = s.leaseLost := rfl
@[simp] theorem modRow_incumbents (s : State) (c r : Nat) (f : Row → Row) : (s.modRow c r f).incumbents = s.incumbents := rfl
@[simp] theorem modRow_regions (s : State) (c r : Nat) (f : Row → Row) : (s.modRow c r f).regions = s.regions := rfl
@[simp] theorem modRow_openCount (s : State) (c r : Nat) (f : Row → Row) : (s.modRow c r f).openCount = s.openCount := rfl
@[simp] theorem modRow_past (s : State) (c r : Nat) (f : Row → Row) : (s.modRow c r f).past = s.past := rfl
@[simp] theorem modRow_delayed (s : State) (c r : Nat) (f : Row → Row) : (s.modRow c r f).delayed = s.delayed := rfl
@[simp] theorem modRow_farSpec (s : State) (c r : Nat) (f : Row → Row) : (s.modRow c r f).farSpec = s.farSpec := rfl
@[simp] theorem modRow_derate (s : State) (c r : Nat) (f : Row → Row) : (s.modRow c r f).derate = s.derate := rfl
@[simp] theorem modRow_derateNext (s : State) (c r : Nat) (f : Row → Row) : (s.modRow c r f).derateNext = s.derateNext := rfl
@[simp] theorem modRow_hangMs (s : State) (c r : Nat) (f : Row → Row) : (s.modRow c r f).hangMs = s.hangMs := rfl
@[simp] theorem modRow_retired (s : State) (c r : Nat) (f : Row → Row) : (s.modRow c r f).retired = s.retired := rfl
@[simp] theorem modRow_ce (s : State) (c r : Nat) (f : Row → Row) : (s.modRow c r f).ce = s.ce := rfl
@[simp] theorem modRow_lasting (s : State) (c r : Nat) (f : Row → Row) : (s.modRow c r f).lasting = s.lasting := rfl
@[simp] theorem modRow_unspared (s : State) (c r : Nat) (f : Row → Row) : (s.modRow c r f).unspared = s.unspared := rfl
@[simp] theorem modRow_spares (s : State) (c r : Nat) (f : Row → Row) : (s.modRow c r f).spares = s.spares := rfl
@[simp] theorem modRow_kcores (s : State) (c r : Nat) (f : Row → Row) : (s.modRow c r f).kcores = s.kcores := rfl
@[simp] theorem modRow_complex (s : State) (c r : Nat) (f : Row → Row) : (s.modRow c r f).complex = s.complex := rfl
@[simp] theorem modRow_eventQ (s : State) (c r : Nat) (f : Row → Row) : (s.modRow c r f).eventQ = s.eventQ := rfl
@[simp] theorem modRow_eventHeld (s : State) (c r : Nat) (f : Row → Row) : (s.modRow c r f).eventHeld = s.eventHeld := rfl
@[simp] theorem modRow_queues (s : State) (c r : Nat) (f : Row → Row) : (s.modRow c r f).queues = s.queues := rfl
@[simp] theorem modRow_queueMem (s : State) (c r : Nat) (f : Row → Row) : (s.modRow c r f).queueMem = s.queueMem := rfl
@[simp] theorem modRow_eventOrder (s : State) (c r : Nat) (f : Row → Row) : (s.modRow c r f).eventOrder = s.eventOrder := rfl
@[simp] theorem modRow_msix (s : State) (c r : Nat) (f : Row → Row) : (s.modRow c r f).msix = s.msix := rfl
@[simp] theorem modRow_sexton (s : State) (c r : Nat) (f : Row → Row) : (s.modRow c r f).sexton = s.sexton := rfl
@[simp] theorem modRow_aperBase (s : State) (c r : Nat) (f : Row → Row) : (s.modRow c r f).aperBase = s.aperBase := rfl
@[simp] theorem modRow_aperSlot (s : State) (c r : Nat) (f : Row → Row) : (s.modRow c r f).aperSlot = s.aperSlot := rfl
@[simp] theorem modRow_power (s : State) (c r : Nat) (f : Row → Row) : (s.modRow c r f).power = s.power := rfl
@[simp] theorem modRow_linkUp (s : State) (c r : Nat) (f : Row → Row) : (s.modRow c r f).linkUp = s.linkUp := rfl
@[simp] theorem modRow_domid (s : State) (c r : Nat) (f : Row → Row) : (s.modRow c r f).domid = s.domid := rfl
@[simp] theorem modRow_i3cAddr (s : State) (c r : Nat) (f : Row → Row) : (s.modRow c r f).i3cAddr = s.i3cAddr := rfl
@[simp] theorem modRow_routes (s : State) (c r : Nat) (f : Row → Row) : (s.modRow c r f).routes = s.routes := rfl
@[simp] theorem modRow_remotes (s : State) (c r : Nat) (f : Row → Row) : (s.modRow c r f).remotes = s.remotes := rfl
@[simp] theorem modRow_spilled (s : State) (c r : Nat) (f : Row → Row) : (s.modRow c r f).spilled = s.spilled := rfl
@[simp] theorem modRow_hostRead (s : State) (c r : Nat) (f : Row → Row) : (s.modRow c r f).hostRead = s.hostRead := rfl
@[simp] theorem modRow_hostPoison (s : State) (c r : Nat) (f : Row → Row) : (s.modRow c r f).hostPoison = s.hostPoison := rfl
@[simp] theorem modRow_hostTag (s : State) (c r : Nat) (f : Row → Row) : (s.modRow c r f).hostTag = s.hostTag := rfl
@[simp] theorem modRow_hostOver (s : State) (c r : Nat) (f : Row → Row) : (s.modRow c r f).hostOver = s.hostOver := rfl

@[simp] theorem wr_agenda (s : State) (r : LRef) (n : Nat) (w : PWord) : (s.wr r n w).agenda = s.agenda := rfl
@[simp] theorem wr_steps (s : State) (r : LRef) (n : Nat) (w : PWord) : (s.wr r n w).steps = s.steps := rfl
@[simp] theorem wr_issue (s : State) (r : LRef) (n : Nat) (w : PWord) : (s.wr r n w).issue = s.issue := rfl
@[simp] theorem wr_ev (s : State) (r : LRef) (n : Nat) (w : PWord) : (s.wr r n w).ev = s.ev := rfl
@[simp] theorem wr_nextId (s : State) (r : LRef) (n : Nat) (w : PWord) : (s.wr r n w).nextId = s.nextId := rfl
@[simp] theorem wr_turn (s : State) (r : LRef) (n : Nat) (w : PWord) : (s.wr r n w).turn = s.turn := rfl
@[simp] theorem wr_images (s : State) (r : LRef) (n : Nat) (w : PWord) : (s.wr r n w).images = s.images := rfl
@[simp] theorem wr_cores (s : State) (r : LRef) (n : Nat) (w : PWord) : (s.wr r n w).cores = s.cores := rfl
@[simp] theorem wr_dies (s : State) (r : LRef) (n : Nat) (w : PWord) : (s.wr r n w).dies = s.dies := rfl
@[simp] theorem wr_blocks (s : State) (r : LRef) (n : Nat) (w : PWord) : (s.wr r n w).blocks = s.blocks := rfl
@[simp] theorem wr_grids (s : State) (r : LRef) (n : Nat) (w : PWord) : (s.wr r n w).grids = s.grids := rfl
@[simp] theorem wr_launchQ (s : State) (r : LRef) (n : Nat) (w : PWord) : (s.wr r n w).launchQ = s.launchQ := rfl
@[simp] theorem wr_copies (s : State) (r : LRef) (n : Nat) (w : PWord) : (s.wr r n w).copies = s.copies := rfl
@[simp] theorem wr_ops (s : State) (r : LRef) (n : Nat) (w : PWord) : (s.wr r n w).ops = s.ops := rfl
@[simp] theorem wr_ctxs (s : State) (r : LRef) (n : Nat) (w : PWord) : (s.wr r n w).ctxs = s.ctxs := rfl
@[simp] theorem wr_hbm (s : State) (r : LRef) (n : Nat) (w : PWord) : (s.wr r n w).hbm = s.hbm := rfl
@[simp] theorem wr_baseKey (s : State) (r : LRef) (n : Nat) (w : PWord) : (s.wr r n w).baseKey = s.baseKey := rfl
@[simp] theorem wr_sectorKeys (s : State) (r : LRef) (n : Nat) (w : PWord) : (s.wr r n w).sectorKeys = s.sectorKeys := rfl
@[simp] theorem wr_l1 (s : State) (r : LRef) (n : Nat) (w : PWord) : (s.wr r n w).l1 = s.l1 := rfl
@[simp] theorem wr_asids (s : State) (r : LRef) (n : Nat) (w : PWord) : (s.wr r n w).asids = s.asids := rfl
@[simp] theorem wr_keys (s : State) (r : LRef) (n : Nat) (w : PWord) : (s.wr r n w).keys = s.keys := rfl
@[simp] theorem wr_leaseLost (s : State) (r : LRef) (n : Nat) (w : PWord) : (s.wr r n w).leaseLost = s.leaseLost := rfl
@[simp] theorem wr_incumbents (s : State) (r : LRef) (n : Nat) (w : PWord) : (s.wr r n w).incumbents = s.incumbents := rfl
@[simp] theorem wr_regions (s : State) (r : LRef) (n : Nat) (w : PWord) : (s.wr r n w).regions = s.regions := rfl
@[simp] theorem wr_openCount (s : State) (r : LRef) (n : Nat) (w : PWord) : (s.wr r n w).openCount = s.openCount := rfl
@[simp] theorem wr_past (s : State) (r : LRef) (n : Nat) (w : PWord) : (s.wr r n w).past = s.past := rfl
@[simp] theorem wr_delayed (s : State) (r : LRef) (n : Nat) (w : PWord) : (s.wr r n w).delayed = s.delayed := rfl
@[simp] theorem wr_farSpec (s : State) (r : LRef) (n : Nat) (w : PWord) : (s.wr r n w).farSpec = s.farSpec := rfl
@[simp] theorem wr_derate (s : State) (r : LRef) (n : Nat) (w : PWord) : (s.wr r n w).derate = s.derate := rfl
@[simp] theorem wr_derateNext (s : State) (r : LRef) (n : Nat) (w : PWord) : (s.wr r n w).derateNext = s.derateNext := rfl
@[simp] theorem wr_hangMs (s : State) (r : LRef) (n : Nat) (w : PWord) : (s.wr r n w).hangMs = s.hangMs := rfl
@[simp] theorem wr_retired (s : State) (r : LRef) (n : Nat) (w : PWord) : (s.wr r n w).retired = s.retired := rfl
@[simp] theorem wr_ce (s : State) (r : LRef) (n : Nat) (w : PWord) : (s.wr r n w).ce = s.ce := rfl
@[simp] theorem wr_lasting (s : State) (r : LRef) (n : Nat) (w : PWord) : (s.wr r n w).lasting = s.lasting := rfl
@[simp] theorem wr_unspared (s : State) (r : LRef) (n : Nat) (w : PWord) : (s.wr r n w).unspared = s.unspared := rfl
@[simp] theorem wr_spares (s : State) (r : LRef) (n : Nat) (w : PWord) : (s.wr r n w).spares = s.spares := rfl
@[simp] theorem wr_kcores (s : State) (r : LRef) (n : Nat) (w : PWord) : (s.wr r n w).kcores = s.kcores := rfl
@[simp] theorem wr_complex (s : State) (r : LRef) (n : Nat) (w : PWord) : (s.wr r n w).complex = s.complex := rfl
@[simp] theorem wr_eventQ (s : State) (r : LRef) (n : Nat) (w : PWord) : (s.wr r n w).eventQ = s.eventQ := rfl
@[simp] theorem wr_eventHeld (s : State) (r : LRef) (n : Nat) (w : PWord) : (s.wr r n w).eventHeld = s.eventHeld := rfl
@[simp] theorem wr_queues (s : State) (r : LRef) (n : Nat) (w : PWord) : (s.wr r n w).queues = s.queues := rfl
@[simp] theorem wr_queueMem (s : State) (r : LRef) (n : Nat) (w : PWord) : (s.wr r n w).queueMem = s.queueMem := rfl
@[simp] theorem wr_eventOrder (s : State) (r : LRef) (n : Nat) (w : PWord) : (s.wr r n w).eventOrder = s.eventOrder := rfl
@[simp] theorem wr_msix (s : State) (r : LRef) (n : Nat) (w : PWord) : (s.wr r n w).msix = s.msix := rfl
@[simp] theorem wr_sexton (s : State) (r : LRef) (n : Nat) (w : PWord) : (s.wr r n w).sexton = s.sexton := rfl
@[simp] theorem wr_aperBase (s : State) (r : LRef) (n : Nat) (w : PWord) : (s.wr r n w).aperBase = s.aperBase := rfl
@[simp] theorem wr_aperSlot (s : State) (r : LRef) (n : Nat) (w : PWord) : (s.wr r n w).aperSlot = s.aperSlot := rfl
@[simp] theorem wr_power (s : State) (r : LRef) (n : Nat) (w : PWord) : (s.wr r n w).power = s.power := rfl
@[simp] theorem wr_linkUp (s : State) (r : LRef) (n : Nat) (w : PWord) : (s.wr r n w).linkUp = s.linkUp := rfl
@[simp] theorem wr_domid (s : State) (r : LRef) (n : Nat) (w : PWord) : (s.wr r n w).domid = s.domid := rfl
@[simp] theorem wr_i3cAddr (s : State) (r : LRef) (n : Nat) (w : PWord) : (s.wr r n w).i3cAddr = s.i3cAddr := rfl
@[simp] theorem wr_routes (s : State) (r : LRef) (n : Nat) (w : PWord) : (s.wr r n w).routes = s.routes := rfl
@[simp] theorem wr_remotes (s : State) (r : LRef) (n : Nat) (w : PWord) : (s.wr r n w).remotes = s.remotes := rfl
@[simp] theorem wr_spilled (s : State) (r : LRef) (n : Nat) (w : PWord) : (s.wr r n w).spilled = s.spilled := rfl
@[simp] theorem wr_hostRead (s : State) (r : LRef) (n : Nat) (w : PWord) : (s.wr r n w).hostRead = s.hostRead := rfl
@[simp] theorem wr_hostPoison (s : State) (r : LRef) (n : Nat) (w : PWord) : (s.wr r n w).hostPoison = s.hostPoison := rfl
@[simp] theorem wr_hostTag (s : State) (r : LRef) (n : Nat) (w : PWord) : (s.wr r n w).hostTag = s.hostTag := rfl
@[simp] theorem wr_hostOver (s : State) (r : LRef) (n : Nat) (w : PWord) : (s.wr r n w).hostOver = s.hostOver := rfl

@[simp] theorem wrCap_agenda (s : State) (r : LRef) (n : Nat) (c : Cap) (p : List Bool) : (s.wrCap r n c p).agenda = s.agenda := rfl
@[simp] theorem wrCap_steps (s : State) (r : LRef) (n : Nat) (c : Cap) (p : List Bool) : (s.wrCap r n c p).steps = s.steps := rfl
@[simp] theorem wrCap_issue (s : State) (r : LRef) (n : Nat) (c : Cap) (p : List Bool) : (s.wrCap r n c p).issue = s.issue := rfl
@[simp] theorem wrCap_ev (s : State) (r : LRef) (n : Nat) (c : Cap) (p : List Bool) : (s.wrCap r n c p).ev = s.ev := rfl
@[simp] theorem wrCap_nextId (s : State) (r : LRef) (n : Nat) (c : Cap) (p : List Bool) : (s.wrCap r n c p).nextId = s.nextId := rfl
@[simp] theorem wrCap_turn (s : State) (r : LRef) (n : Nat) (c : Cap) (p : List Bool) : (s.wrCap r n c p).turn = s.turn := rfl
@[simp] theorem wrCap_images (s : State) (r : LRef) (n : Nat) (c : Cap) (p : List Bool) : (s.wrCap r n c p).images = s.images := rfl
@[simp] theorem wrCap_cores (s : State) (r : LRef) (n : Nat) (c : Cap) (p : List Bool) : (s.wrCap r n c p).cores = s.cores := rfl
@[simp] theorem wrCap_dies (s : State) (r : LRef) (n : Nat) (c : Cap) (p : List Bool) : (s.wrCap r n c p).dies = s.dies := rfl
@[simp] theorem wrCap_blocks (s : State) (r : LRef) (n : Nat) (c : Cap) (p : List Bool) : (s.wrCap r n c p).blocks = s.blocks := rfl
@[simp] theorem wrCap_grids (s : State) (r : LRef) (n : Nat) (c : Cap) (p : List Bool) : (s.wrCap r n c p).grids = s.grids := rfl
@[simp] theorem wrCap_launchQ (s : State) (r : LRef) (n : Nat) (c : Cap) (p : List Bool) : (s.wrCap r n c p).launchQ = s.launchQ := rfl
@[simp] theorem wrCap_copies (s : State) (r : LRef) (n : Nat) (c : Cap) (p : List Bool) : (s.wrCap r n c p).copies = s.copies := rfl
@[simp] theorem wrCap_ops (s : State) (r : LRef) (n : Nat) (c : Cap) (p : List Bool) : (s.wrCap r n c p).ops = s.ops := rfl
@[simp] theorem wrCap_ctxs (s : State) (r : LRef) (n : Nat) (c : Cap) (p : List Bool) : (s.wrCap r n c p).ctxs = s.ctxs := rfl
@[simp] theorem wrCap_hbm (s : State) (r : LRef) (n : Nat) (c : Cap) (p : List Bool) : (s.wrCap r n c p).hbm = s.hbm := rfl
@[simp] theorem wrCap_baseKey (s : State) (r : LRef) (n : Nat) (c : Cap) (p : List Bool) : (s.wrCap r n c p).baseKey = s.baseKey := rfl
@[simp] theorem wrCap_sectorKeys (s : State) (r : LRef) (n : Nat) (c : Cap) (p : List Bool) : (s.wrCap r n c p).sectorKeys = s.sectorKeys := rfl
@[simp] theorem wrCap_l1 (s : State) (r : LRef) (n : Nat) (c : Cap) (p : List Bool) : (s.wrCap r n c p).l1 = s.l1 := rfl
@[simp] theorem wrCap_asids (s : State) (r : LRef) (n : Nat) (c : Cap) (p : List Bool) : (s.wrCap r n c p).asids = s.asids := rfl
@[simp] theorem wrCap_keys (s : State) (r : LRef) (n : Nat) (c : Cap) (p : List Bool) : (s.wrCap r n c p).keys = s.keys := rfl
@[simp] theorem wrCap_leaseLost (s : State) (r : LRef) (n : Nat) (c : Cap) (p : List Bool) : (s.wrCap r n c p).leaseLost = s.leaseLost := rfl
@[simp] theorem wrCap_incumbents (s : State) (r : LRef) (n : Nat) (c : Cap) (p : List Bool) : (s.wrCap r n c p).incumbents = s.incumbents := rfl
@[simp] theorem wrCap_regions (s : State) (r : LRef) (n : Nat) (c : Cap) (p : List Bool) : (s.wrCap r n c p).regions = s.regions := rfl
@[simp] theorem wrCap_openCount (s : State) (r : LRef) (n : Nat) (c : Cap) (p : List Bool) : (s.wrCap r n c p).openCount = s.openCount := rfl
@[simp] theorem wrCap_past (s : State) (r : LRef) (n : Nat) (c : Cap) (p : List Bool) : (s.wrCap r n c p).past = s.past := rfl
@[simp] theorem wrCap_delayed (s : State) (r : LRef) (n : Nat) (c : Cap) (p : List Bool) : (s.wrCap r n c p).delayed = s.delayed := rfl
@[simp] theorem wrCap_farSpec (s : State) (r : LRef) (n : Nat) (c : Cap) (p : List Bool) : (s.wrCap r n c p).farSpec = s.farSpec := rfl
@[simp] theorem wrCap_derate (s : State) (r : LRef) (n : Nat) (c : Cap) (p : List Bool) : (s.wrCap r n c p).derate = s.derate := rfl
@[simp] theorem wrCap_derateNext (s : State) (r : LRef) (n : Nat) (c : Cap) (p : List Bool) : (s.wrCap r n c p).derateNext = s.derateNext := rfl
@[simp] theorem wrCap_hangMs (s : State) (r : LRef) (n : Nat) (c : Cap) (p : List Bool) : (s.wrCap r n c p).hangMs = s.hangMs := rfl
@[simp] theorem wrCap_retired (s : State) (r : LRef) (n : Nat) (c : Cap) (p : List Bool) : (s.wrCap r n c p).retired = s.retired := rfl
@[simp] theorem wrCap_ce (s : State) (r : LRef) (n : Nat) (c : Cap) (p : List Bool) : (s.wrCap r n c p).ce = s.ce := rfl
@[simp] theorem wrCap_lasting (s : State) (r : LRef) (n : Nat) (c : Cap) (p : List Bool) : (s.wrCap r n c p).lasting = s.lasting := rfl
@[simp] theorem wrCap_unspared (s : State) (r : LRef) (n : Nat) (c : Cap) (p : List Bool) : (s.wrCap r n c p).unspared = s.unspared := rfl
@[simp] theorem wrCap_spares (s : State) (r : LRef) (n : Nat) (c : Cap) (p : List Bool) : (s.wrCap r n c p).spares = s.spares := rfl
@[simp] theorem wrCap_kcores (s : State) (r : LRef) (n : Nat) (c : Cap) (p : List Bool) : (s.wrCap r n c p).kcores = s.kcores := rfl
@[simp] theorem wrCap_complex (s : State) (r : LRef) (n : Nat) (c : Cap) (p : List Bool) : (s.wrCap r n c p).complex = s.complex := rfl
@[simp] theorem wrCap_eventQ (s : State) (r : LRef) (n : Nat) (c : Cap) (p : List Bool) : (s.wrCap r n c p).eventQ = s.eventQ := rfl
@[simp] theorem wrCap_eventHeld (s : State) (r : LRef) (n : Nat) (c : Cap) (p : List Bool) : (s.wrCap r n c p).eventHeld = s.eventHeld := rfl
@[simp] theorem wrCap_queues (s : State) (r : LRef) (n : Nat) (c : Cap) (p : List Bool) : (s.wrCap r n c p).queues = s.queues := rfl
@[simp] theorem wrCap_queueMem (s : State) (r : LRef) (n : Nat) (c : Cap) (p : List Bool) : (s.wrCap r n c p).queueMem = s.queueMem := rfl
@[simp] theorem wrCap_eventOrder (s : State) (r : LRef) (n : Nat) (c : Cap) (p : List Bool) : (s.wrCap r n c p).eventOrder = s.eventOrder := rfl
@[simp] theorem wrCap_msix (s : State) (r : LRef) (n : Nat) (c : Cap) (p : List Bool) : (s.wrCap r n c p).msix = s.msix := rfl
@[simp] theorem wrCap_sexton (s : State) (r : LRef) (n : Nat) (c : Cap) (p : List Bool) : (s.wrCap r n c p).sexton = s.sexton := rfl
@[simp] theorem wrCap_aperBase (s : State) (r : LRef) (n : Nat) (c : Cap) (p : List Bool) : (s.wrCap r n c p).aperBase = s.aperBase := rfl
@[simp] theorem wrCap_aperSlot (s : State) (r : LRef) (n : Nat) (c : Cap) (p : List Bool) : (s.wrCap r n c p).aperSlot = s.aperSlot := rfl
@[simp] theorem wrCap_power (s : State) (r : LRef) (n : Nat) (c : Cap) (p : List Bool) : (s.wrCap r n c p).power = s.power := rfl
@[simp] theorem wrCap_linkUp (s : State) (r : LRef) (n : Nat) (c : Cap) (p : List Bool) : (s.wrCap r n c p).linkUp = s.linkUp := rfl
@[simp] theorem wrCap_domid (s : State) (r : LRef) (n : Nat) (c : Cap) (p : List Bool) : (s.wrCap r n c p).domid = s.domid := rfl
@[simp] theorem wrCap_i3cAddr (s : State) (r : LRef) (n : Nat) (c : Cap) (p : List Bool) : (s.wrCap r n c p).i3cAddr = s.i3cAddr := rfl
@[simp] theorem wrCap_routes (s : State) (r : LRef) (n : Nat) (c : Cap) (p : List Bool) : (s.wrCap r n c p).routes = s.routes := rfl
@[simp] theorem wrCap_remotes (s : State) (r : LRef) (n : Nat) (c : Cap) (p : List Bool) : (s.wrCap r n c p).remotes = s.remotes := rfl
@[simp] theorem wrCap_spilled (s : State) (r : LRef) (n : Nat) (c : Cap) (p : List Bool) : (s.wrCap r n c p).spilled = s.spilled := rfl
@[simp] theorem wrCap_hostRead (s : State) (r : LRef) (n : Nat) (c : Cap) (p : List Bool) : (s.wrCap r n c p).hostRead = s.hostRead := rfl
@[simp] theorem wrCap_hostPoison (s : State) (r : LRef) (n : Nat) (c : Cap) (p : List Bool) : (s.wrCap r n c p).hostPoison = s.hostPoison := rfl
@[simp] theorem wrCap_hostTag (s : State) (r : LRef) (n : Nat) (c : Cap) (p : List Bool) : (s.wrCap r n c p).hostTag = s.hostTag := rfl
@[simp] theorem wrCap_hostOver (s : State) (r : LRef) (n : Nat) (c : Cap) (p : List Bool) : (s.wrCap r n c p).hostOver = s.hostOver := rfl

@[simp] theorem deliver_agenda (s : State) (r : LRef) (k : Byte) (a d : DWord) : (s.deliver r k a d).agenda = s.agenda := rfl
@[simp] theorem deliver_steps (s : State) (r : LRef) (k : Byte) (a d : DWord) : (s.deliver r k a d).steps = s.steps := rfl
@[simp] theorem deliver_issue (s : State) (r : LRef) (k : Byte) (a d : DWord) : (s.deliver r k a d).issue = s.issue := rfl
@[simp] theorem deliver_ev (s : State) (r : LRef) (k : Byte) (a d : DWord) : (s.deliver r k a d).ev = s.ev := rfl
@[simp] theorem deliver_nextId (s : State) (r : LRef) (k : Byte) (a d : DWord) : (s.deliver r k a d).nextId = s.nextId := rfl
@[simp] theorem deliver_turn (s : State) (r : LRef) (k : Byte) (a d : DWord) : (s.deliver r k a d).turn = s.turn := rfl
@[simp] theorem deliver_images (s : State) (r : LRef) (k : Byte) (a d : DWord) : (s.deliver r k a d).images = s.images := rfl
@[simp] theorem deliver_cores (s : State) (r : LRef) (k : Byte) (a d : DWord) : (s.deliver r k a d).cores = s.cores := rfl
@[simp] theorem deliver_dies (s : State) (r : LRef) (k : Byte) (a d : DWord) : (s.deliver r k a d).dies = s.dies := rfl
@[simp] theorem deliver_blocks (s : State) (r : LRef) (k : Byte) (a d : DWord) : (s.deliver r k a d).blocks = s.blocks := rfl
@[simp] theorem deliver_grids (s : State) (r : LRef) (k : Byte) (a d : DWord) : (s.deliver r k a d).grids = s.grids := rfl
@[simp] theorem deliver_launchQ (s : State) (r : LRef) (k : Byte) (a d : DWord) : (s.deliver r k a d).launchQ = s.launchQ := rfl
@[simp] theorem deliver_copies (s : State) (r : LRef) (k : Byte) (a d : DWord) : (s.deliver r k a d).copies = s.copies := rfl
@[simp] theorem deliver_ops (s : State) (r : LRef) (k : Byte) (a d : DWord) : (s.deliver r k a d).ops = s.ops := rfl
@[simp] theorem deliver_ctxs (s : State) (r : LRef) (k : Byte) (a d : DWord) : (s.deliver r k a d).ctxs = s.ctxs := rfl
@[simp] theorem deliver_hbm (s : State) (r : LRef) (k : Byte) (a d : DWord) : (s.deliver r k a d).hbm = s.hbm := rfl
@[simp] theorem deliver_baseKey (s : State) (r : LRef) (k : Byte) (a d : DWord) : (s.deliver r k a d).baseKey = s.baseKey := rfl
@[simp] theorem deliver_sectorKeys (s : State) (r : LRef) (k : Byte) (a d : DWord) : (s.deliver r k a d).sectorKeys = s.sectorKeys := rfl
@[simp] theorem deliver_l1 (s : State) (r : LRef) (k : Byte) (a d : DWord) : (s.deliver r k a d).l1 = s.l1 := rfl
@[simp] theorem deliver_asids (s : State) (r : LRef) (k : Byte) (a d : DWord) : (s.deliver r k a d).asids = s.asids := rfl
@[simp] theorem deliver_keys (s : State) (r : LRef) (k : Byte) (a d : DWord) : (s.deliver r k a d).keys = s.keys := rfl
@[simp] theorem deliver_leaseLost (s : State) (r : LRef) (k : Byte) (a d : DWord) : (s.deliver r k a d).leaseLost = s.leaseLost := rfl
@[simp] theorem deliver_incumbents (s : State) (r : LRef) (k : Byte) (a d : DWord) : (s.deliver r k a d).incumbents = s.incumbents := rfl
@[simp] theorem deliver_regions (s : State) (r : LRef) (k : Byte) (a d : DWord) : (s.deliver r k a d).regions = s.regions := rfl
@[simp] theorem deliver_openCount (s : State) (r : LRef) (k : Byte) (a d : DWord) : (s.deliver r k a d).openCount = s.openCount := rfl
@[simp] theorem deliver_past (s : State) (r : LRef) (k : Byte) (a d : DWord) : (s.deliver r k a d).past = s.past := rfl
@[simp] theorem deliver_delayed (s : State) (r : LRef) (k : Byte) (a d : DWord) : (s.deliver r k a d).delayed = s.delayed := rfl
@[simp] theorem deliver_farSpec (s : State) (r : LRef) (k : Byte) (a d : DWord) : (s.deliver r k a d).farSpec = s.farSpec := rfl
@[simp] theorem deliver_derate (s : State) (r : LRef) (k : Byte) (a d : DWord) : (s.deliver r k a d).derate = s.derate := rfl
@[simp] theorem deliver_derateNext (s : State) (r : LRef) (k : Byte) (a d : DWord) : (s.deliver r k a d).derateNext = s.derateNext := rfl
@[simp] theorem deliver_hangMs (s : State) (r : LRef) (k : Byte) (a d : DWord) : (s.deliver r k a d).hangMs = s.hangMs := rfl
@[simp] theorem deliver_retired (s : State) (r : LRef) (k : Byte) (a d : DWord) : (s.deliver r k a d).retired = s.retired := rfl
@[simp] theorem deliver_ce (s : State) (r : LRef) (k : Byte) (a d : DWord) : (s.deliver r k a d).ce = s.ce := rfl
@[simp] theorem deliver_lasting (s : State) (r : LRef) (k : Byte) (a d : DWord) : (s.deliver r k a d).lasting = s.lasting := rfl
@[simp] theorem deliver_unspared (s : State) (r : LRef) (k : Byte) (a d : DWord) : (s.deliver r k a d).unspared = s.unspared := rfl
@[simp] theorem deliver_spares (s : State) (r : LRef) (k : Byte) (a d : DWord) : (s.deliver r k a d).spares = s.spares := rfl
@[simp] theorem deliver_kcores (s : State) (r : LRef) (k : Byte) (a d : DWord) : (s.deliver r k a d).kcores = s.kcores := rfl
@[simp] theorem deliver_complex (s : State) (r : LRef) (k : Byte) (a d : DWord) : (s.deliver r k a d).complex = s.complex := rfl
@[simp] theorem deliver_eventQ (s : State) (r : LRef) (k : Byte) (a d : DWord) : (s.deliver r k a d).eventQ = s.eventQ := rfl
@[simp] theorem deliver_eventHeld (s : State) (r : LRef) (k : Byte) (a d : DWord) : (s.deliver r k a d).eventHeld = s.eventHeld := rfl
@[simp] theorem deliver_queues (s : State) (r : LRef) (k : Byte) (a d : DWord) : (s.deliver r k a d).queues = s.queues := rfl
@[simp] theorem deliver_queueMem (s : State) (r : LRef) (k : Byte) (a d : DWord) : (s.deliver r k a d).queueMem = s.queueMem := rfl
@[simp] theorem deliver_eventOrder (s : State) (r : LRef) (k : Byte) (a d : DWord) : (s.deliver r k a d).eventOrder = s.eventOrder := rfl
@[simp] theorem deliver_msix (s : State) (r : LRef) (k : Byte) (a d : DWord) : (s.deliver r k a d).msix = s.msix := rfl
@[simp] theorem deliver_sexton (s : State) (r : LRef) (k : Byte) (a d : DWord) : (s.deliver r k a d).sexton = s.sexton := rfl
@[simp] theorem deliver_aperBase (s : State) (r : LRef) (k : Byte) (a d : DWord) : (s.deliver r k a d).aperBase = s.aperBase := rfl
@[simp] theorem deliver_aperSlot (s : State) (r : LRef) (k : Byte) (a d : DWord) : (s.deliver r k a d).aperSlot = s.aperSlot := rfl
@[simp] theorem deliver_power (s : State) (r : LRef) (k : Byte) (a d : DWord) : (s.deliver r k a d).power = s.power := rfl
@[simp] theorem deliver_linkUp (s : State) (r : LRef) (k : Byte) (a d : DWord) : (s.deliver r k a d).linkUp = s.linkUp := rfl
@[simp] theorem deliver_domid (s : State) (r : LRef) (k : Byte) (a d : DWord) : (s.deliver r k a d).domid = s.domid := rfl
@[simp] theorem deliver_i3cAddr (s : State) (r : LRef) (k : Byte) (a d : DWord) : (s.deliver r k a d).i3cAddr = s.i3cAddr := rfl
@[simp] theorem deliver_routes (s : State) (r : LRef) (k : Byte) (a d : DWord) : (s.deliver r k a d).routes = s.routes := rfl
@[simp] theorem deliver_remotes (s : State) (r : LRef) (k : Byte) (a d : DWord) : (s.deliver r k a d).remotes = s.remotes := rfl
@[simp] theorem deliver_spilled (s : State) (r : LRef) (k : Byte) (a d : DWord) : (s.deliver r k a d).spilled = s.spilled := rfl
@[simp] theorem deliver_hostRead (s : State) (r : LRef) (k : Byte) (a d : DWord) : (s.deliver r k a d).hostRead = s.hostRead := rfl
@[simp] theorem deliver_hostPoison (s : State) (r : LRef) (k : Byte) (a d : DWord) : (s.deliver r k a d).hostPoison = s.hostPoison := rfl
@[simp] theorem deliver_hostTag (s : State) (r : LRef) (k : Byte) (a d : DWord) : (s.deliver r k a d).hostTag = s.hostTag := rfl
@[simp] theorem deliver_hostOver (s : State) (r : LRef) (k : Byte) (a d : DWord) : (s.deliver r k a d).hostOver = s.hostOver := rfl

@[simp] theorem count_agenda (s : State) (c i n : Nat) : (s.count c i n).agenda = s.agenda := rfl
@[simp] theorem count_steps (s : State) (c i n : Nat) : (s.count c i n).steps = s.steps := rfl
@[simp] theorem count_issue (s : State) (c i n : Nat) : (s.count c i n).issue = s.issue := rfl
@[simp] theorem count_ev (s : State) (c i n : Nat) : (s.count c i n).ev = s.ev := rfl
@[simp] theorem count_nextId (s : State) (c i n : Nat) : (s.count c i n).nextId = s.nextId := rfl
@[simp] theorem count_turn (s : State) (c i n : Nat) : (s.count c i n).turn = s.turn := rfl
@[simp] theorem count_images (s : State) (c i n : Nat) : (s.count c i n).images = s.images := rfl
@[simp] theorem count_cores (s : State) (c i n : Nat) : (s.count c i n).cores = s.cores := rfl
@[simp] theorem count_dies (s : State) (c i n : Nat) : (s.count c i n).dies = s.dies := rfl
@[simp] theorem count_groups (s : State) (c i n : Nat) : (s.count c i n).groups = s.groups := rfl
@[simp] theorem count_blocks (s : State) (c i n : Nat) : (s.count c i n).blocks = s.blocks := rfl
@[simp] theorem count_grids (s : State) (c i n : Nat) : (s.count c i n).grids = s.grids := rfl
@[simp] theorem count_launchQ (s : State) (c i n : Nat) : (s.count c i n).launchQ = s.launchQ := rfl
@[simp] theorem count_copies (s : State) (c i n : Nat) : (s.count c i n).copies = s.copies := rfl
@[simp] theorem count_ops (s : State) (c i n : Nat) : (s.count c i n).ops = s.ops := rfl
@[simp] theorem count_hbm (s : State) (c i n : Nat) : (s.count c i n).hbm = s.hbm := rfl
@[simp] theorem count_baseKey (s : State) (c i n : Nat) : (s.count c i n).baseKey = s.baseKey := rfl
@[simp] theorem count_sectorKeys (s : State) (c i n : Nat) : (s.count c i n).sectorKeys = s.sectorKeys := rfl
@[simp] theorem count_l1 (s : State) (c i n : Nat) : (s.count c i n).l1 = s.l1 := rfl
@[simp] theorem count_asids (s : State) (c i n : Nat) : (s.count c i n).asids = s.asids := rfl
@[simp] theorem count_keys (s : State) (c i n : Nat) : (s.count c i n).keys = s.keys := rfl
@[simp] theorem count_leaseLost (s : State) (c i n : Nat) : (s.count c i n).leaseLost = s.leaseLost := rfl
@[simp] theorem count_incumbents (s : State) (c i n : Nat) : (s.count c i n).incumbents = s.incumbents := rfl
@[simp] theorem count_regions (s : State) (c i n : Nat) : (s.count c i n).regions = s.regions := rfl
@[simp] theorem count_openCount (s : State) (c i n : Nat) : (s.count c i n).openCount = s.openCount := rfl
@[simp] theorem count_past (s : State) (c i n : Nat) : (s.count c i n).past = s.past := rfl
@[simp] theorem count_delayed (s : State) (c i n : Nat) : (s.count c i n).delayed = s.delayed := rfl
@[simp] theorem count_farSpec (s : State) (c i n : Nat) : (s.count c i n).farSpec = s.farSpec := rfl
@[simp] theorem count_derate (s : State) (c i n : Nat) : (s.count c i n).derate = s.derate := rfl
@[simp] theorem count_derateNext (s : State) (c i n : Nat) : (s.count c i n).derateNext = s.derateNext := rfl
@[simp] theorem count_hangMs (s : State) (c i n : Nat) : (s.count c i n).hangMs = s.hangMs := rfl
@[simp] theorem count_retired (s : State) (c i n : Nat) : (s.count c i n).retired = s.retired := rfl
@[simp] theorem count_ce (s : State) (c i n : Nat) : (s.count c i n).ce = s.ce := rfl
@[simp] theorem count_lasting (s : State) (c i n : Nat) : (s.count c i n).lasting = s.lasting := rfl
@[simp] theorem count_unspared (s : State) (c i n : Nat) : (s.count c i n).unspared = s.unspared := rfl
@[simp] theorem count_spares (s : State) (c i n : Nat) : (s.count c i n).spares = s.spares := rfl
@[simp] theorem count_kcores (s : State) (c i n : Nat) : (s.count c i n).kcores = s.kcores := rfl
@[simp] theorem count_complex (s : State) (c i n : Nat) : (s.count c i n).complex = s.complex := rfl
@[simp] theorem count_eventQ (s : State) (c i n : Nat) : (s.count c i n).eventQ = s.eventQ := rfl
@[simp] theorem count_eventHeld (s : State) (c i n : Nat) : (s.count c i n).eventHeld = s.eventHeld := rfl
@[simp] theorem count_queues (s : State) (c i n : Nat) : (s.count c i n).queues = s.queues := rfl
@[simp] theorem count_queueMem (s : State) (c i n : Nat) : (s.count c i n).queueMem = s.queueMem := rfl
@[simp] theorem count_eventOrder (s : State) (c i n : Nat) : (s.count c i n).eventOrder = s.eventOrder := rfl
@[simp] theorem count_msix (s : State) (c i n : Nat) : (s.count c i n).msix = s.msix := rfl
@[simp] theorem count_sexton (s : State) (c i n : Nat) : (s.count c i n).sexton = s.sexton := rfl
@[simp] theorem count_aperBase (s : State) (c i n : Nat) : (s.count c i n).aperBase = s.aperBase := rfl
@[simp] theorem count_aperSlot (s : State) (c i n : Nat) : (s.count c i n).aperSlot = s.aperSlot := rfl
@[simp] theorem count_power (s : State) (c i n : Nat) : (s.count c i n).power = s.power := rfl
@[simp] theorem count_linkUp (s : State) (c i n : Nat) : (s.count c i n).linkUp = s.linkUp := rfl
@[simp] theorem count_domid (s : State) (c i n : Nat) : (s.count c i n).domid = s.domid := rfl
@[simp] theorem count_i3cAddr (s : State) (c i n : Nat) : (s.count c i n).i3cAddr = s.i3cAddr := rfl
@[simp] theorem count_routes (s : State) (c i n : Nat) : (s.count c i n).routes = s.routes := rfl
@[simp] theorem count_remotes (s : State) (c i n : Nat) : (s.count c i n).remotes = s.remotes := rfl
@[simp] theorem count_spilled (s : State) (c i n : Nat) : (s.count c i n).spilled = s.spilled := rfl
@[simp] theorem count_hostRead (s : State) (c i n : Nat) : (s.count c i n).hostRead = s.hostRead := rfl
@[simp] theorem count_hostPoison (s : State) (c i n : Nat) : (s.count c i n).hostPoison = s.hostPoison := rfl
@[simp] theorem count_hostTag (s : State) (c i n : Nat) : (s.count c i n).hostTag = s.hostTag := rfl
@[simp] theorem count_hostOver (s : State) (c i n : Nat) : (s.count c i n).hostOver = s.hostOver := rfl

@[simp] theorem fresh_fst_groups (s : State) : s.fresh.1.groups = s.groups := rfl
@[simp] theorem fresh_fst_blocks (s : State) : s.fresh.1.blocks = s.blocks := rfl
@[simp] theorem fresh_fst_hbm (s : State) : s.fresh.1.hbm = s.hbm := rfl
@[simp] theorem fresh_snd (s : State) : s.fresh.2 = s.nextId := rfl

end Sys2Proof.Machine
end

