-- ==== Sys2Proof/Laws/Tables.lean ====
section
/-!
SUPPORT. Tables keyed by number: what reading after setting or removing a key gives.
-/

-- The proofs here are many and small: checking them one after another keeps the memory of the compile low.
set_option Elab.async false

namespace Sys2Proof.Machine

open Sys2Proof

@[simp] theorem tget_tput_self {α : Type} (k : Nat) (v : α) (t : List (Nat × α)) : tget k (tput k v t) = some v := by
  induction t with
  | nil => simp [tput, tget]
  | cons e t ih =>
    obtain ⟨j, w⟩ := e
    simp only [tput]
    split
    · rename_i h; simp [tget, Nat.ne_of_lt h, ih]
    · split <;> simp [tget]

theorem tget_tput_ne {α : Type} {k j : Nat} (h : k ≠ j) (v : α) (t : List (Nat × α)) :
    tget k (tput j v t) = tget k t := by
  induction t with
  | nil => simp [tput, tget, Ne.symm h]
  | cons e t ih =>
    obtain ⟨i, w⟩ := e
    simp only [tput]
    split
    · simp [tget, ih]
    · split
      · rename_i h1; subst h1; simp [tget, Ne.symm h]
      · simp [tget, Ne.symm h]

theorem tget_tput {α : Type} (k j : Nat) (v : α) (t : List (Nat × α)) :
    tget k (tput j v t) = if k = j then some v else tget k t := by
  split
  · rename_i h; subst h; simp
  · rename_i h; exact tget_tput_ne h v t

/-- A table with a change of its value at one key, read through a default. -/
theorem getD_tget_tput {α : Type} (d : α) (k j : Nat) (v : α) (t : List (Nat × α)) :
    (tget k (tput j v t)).getD d = if k = j then v else (tget k t).getD d := by
  rw [tget_tput]; split <;> rfl

@[simp] theorem ctx_modCtx_self (s : State) (c : Nat) (f : Ctx → Ctx) : (s.modCtx c f).ctx c = f (s.ctx c) := by
  simp [State.modCtx, State.ctx]

theorem ctx_modCtx_ne (s : State) {c k : Nat} (h : k ≠ c) (f : Ctx → Ctx) : (s.modCtx c f).ctx k = s.ctx k := by
  simp [State.modCtx, State.ctx, tget_tput_ne h]

@[simp] theorem core_modCore_self (s : State) (c : Nat) (f : Core → Core) : (s.modCore c f).core c = f (s.core c) := by
  simp [State.modCore, State.core]

theorem core_modCore_ne (s : State) {c k : Nat} (h : k ≠ c) (f : Core → Core) : (s.modCore c f).core k = s.core k := by
  simp [State.modCore, State.core, tget_tput_ne h]

@[simp] theorem die_modDie_self (s : State) (d : Nat) (f : Die → Die) : (s.modDie d f).die d = f (s.die d) := by
  simp [State.modDie, State.die]

theorem die_modDie_ne (s : State) {d k : Nat} (h : k ≠ d) (f : Die → Die) : (s.modDie d f).die k = s.die k := by
  simp [State.modDie, State.die, tget_tput_ne h]

@[simp] theorem kcore_modKcore_self (s : State) (k : Nat) (f : KCore → KCore) : (s.modKcore k f).kcore k = f (s.kcore k) := by
  simp [State.modKcore, State.kcore]

theorem kcore_modKcore_ne (s : State) {k j : Nat} (h : j ≠ k) (f : KCore → KCore) :
    (s.modKcore k f).kcore j = s.kcore j := by
  simp [State.modKcore, State.kcore, tget_tput_ne h]

@[simp] theorem queue_modQueue_self (s : State) (q : Nat) (f : Queue → Queue) : (s.modQueue q f).queue q = f (s.queue q) := by
  simp [State.modQueue, State.queue]

@[simp] theorem region_modRegion_self (s : State) (i : Nat) (f : Region → Region) :
    (s.modRegion i f).region i = f (s.region i) := by
  simp [State.modRegion, State.region]

theorem region_modRegion_ne (s : State) {i j : Nat} (h : j ≠ i) (f : Region → Region) :
    (s.modRegion i f).region j = s.region j := by
  simp [State.modRegion, State.region, tget_tput_ne h]

end Sys2Proof.Machine
end

