-- ==== Sys2Proof/Laws/Lanes.lean ====
section
/-!
SUPPORT. Groups and lanes: what reading one gives after a change of one, and what changes of lanes leave alone.
-/

-- The proofs here are many and small: checking them one after another keeps the memory of the compile low.
set_option Elab.async false

namespace Sys2Proof.Machine

open Sys2Proof

/-! ### Groups -/

theorem find_map_gid (gs : List Group) (f : Group → Group) (hf : ∀ g, (f g).gid = g.gid) (x : Nat) :
    (gs.map f).find? (·.gid == x) = (gs.find? (·.gid == x)).map f := by
  induction gs with
  | nil => rfl
  | cons g t ih =>
    simp only [List.map, List.find?, hf]
    split
    · rfl
    · exact ih

theorem group_modGroup_self (s : State) (gid : Nat) (f : Group → Group) (hf : ∀ g, (f g).gid = g.gid)
    (h : s.holds gid = true) : (s.modGroup gid f).group gid = f (s.group gid) := by
  have hm : ∀ g : Group, (if g.gid == gid then f g else g).gid = g.gid := by
    intro g; split <;> simp [hf]
  simp only [State.holds, List.any_eq_true] at h
  obtain ⟨g, hg, hgid⟩ := h
  simp only [State.group, State.modGroup, find_map_gid _ _ hm]
  cases hfind : s.groups.find? (·.gid == gid) with
  | none => exact absurd hgid (by simpa using List.find?_eq_none.1 hfind g hg)
  | some y =>
    have := List.find?_some hfind
    simp only [beq_iff_eq] at this
    simp [this]

theorem group_modGroup_ne (s : State) {gid x : Nat} (h : x ≠ gid) (f : Group → Group) (hf : ∀ g, (f g).gid = g.gid) :
    (s.modGroup gid f).group x = s.group x := by
  have hm : ∀ g : Group, (if g.gid == gid then f g else g).gid = g.gid := by
    intro g; split <;> simp [hf]
  simp only [State.group, State.modGroup, find_map_gid _ _ hm]
  cases hfind : s.groups.find? (·.gid == x) with
  | none => rfl
  | some y =>
    have hy := List.find?_some hfind
    have : ¬ y.gid = gid := by
      simp only [beq_iff_eq] at hy; simp [hy, h]
    simp [this]

theorem holds_modGroup (s : State) (gid x : Nat) (f : Group → Group) (hf : ∀ g, (f g).gid = g.gid) :
    (s.modGroup gid f).holds x = s.holds x := by
  simp only [State.holds, State.modGroup, List.any_map]
  congr 1
  funext g
  simp only [Function.comp]
  split <;> simp [hf]

/-! ### Lanes -/

@[simp] theorem holds_modLane (s : State) (r : LRef) (f : Lane → Lane) (x : Nat) : (s.modLane r f).holds x = s.holds x :=
  holds_modGroup s r.1 x _ fun _ => rfl

theorem group_modLane_ne (s : State) {r : LRef} {x : Nat} (h : x ≠ r.1) (f : Lane → Lane) :
    (s.modLane r f).group x = s.group x := group_modGroup_ne s h _ fun _ => rfl

theorem group_modLane_self (s : State) (r : LRef) (f : Lane → Lane) (h : s.holds r.1 = true) :
    (s.modLane r f).group r.1 = { s.group r.1 with lanes := (s.group r.1).lanes.modify r.2 f } :=
  group_modGroup_self s r.1 _ (fun _ => rfl) h

/-- A field of a group that is not its lanes is as before a change of a lane. -/
theorem group_modLane_field {α : Type} (p : Group → α) (hp : ∀ (g : Group) (ls : List Lane), p { g with lanes := ls } = p g)
    (s : State) (r : LRef) (f : Lane → Lane) (x : Nat) : p ((s.modLane r f).group x) = p (s.group x) := by
  by_cases hx : x = r.1
  · subst hx
    by_cases h : s.holds r.1 = true
    · rw [group_modLane_self s r f h, hp]
    · have h1 : ∀ g ∈ s.groups, ¬ g.gid = r.1 := by
        intro g hg hgid; exact h (by simp only [State.holds, List.any_eq_true]; exact ⟨g, hg, by simp [hgid]⟩)
      have h2 : (s.modLane r f).groups = s.groups := by
        simp only [State.modLane, State.modGroup]
        exact (List.map_congr_left fun g hg => by simp [h1 g hg]).trans (List.map_id _)
      simp [State.group, h2]
  · rw [group_modLane_ne s hx]

@[simp] theorem group_modLane_regs (s : State) (r : LRef) (f : Lane → Lane) (x : Nat) :
    ((s.modLane r f).group x).regs = (s.group x).regs := group_modLane_field (·.regs) (fun _ _ => rfl) s r f x
@[simp] theorem group_modLane_taskKill (s : State) (r : LRef) (f : Lane → Lane) (x : Nat) :
    ((s.modLane r f).group x).taskKill = (s.group x).taskKill := group_modLane_field (·.taskKill) (fun _ _ => rfl) s r f x
@[simp] theorem group_modLane_agent (s : State) (r : LRef) (f : Lane → Lane) (x : Nat) :
    ((s.modLane r f).group x).agent = (s.group x).agent := group_modLane_field (·.agent) (fun _ _ => rfl) s r f x
@[simp] theorem group_modLane_ctx (s : State) (r : LRef) (f : Lane → Lane) (x : Nat) :
    ((s.modLane r f).group x).ctx = (s.group x).ctx := group_modLane_field (·.ctx) (fun _ _ => rfl) s r f x
@[simp] theorem group_modLane_grid (s : State) (r : LRef) (f : Lane → Lane) (x : Nat) :
    ((s.modLane r f).group x).grid = (s.group x).grid := group_modLane_field (·.grid) (fun _ _ => rfl) s r f x
@[simp] theorem group_modLane_block (s : State) (r : LRef) (f : Lane → Lane) (x : Nat) :
    ((s.modLane r f).group x).block = (s.group x).block := group_modLane_field (·.block) (fun _ _ => rfl) s r f x
@[simp] theorem group_modLane_row (s : State) (r : LRef) (f : Lane → Lane) (x : Nat) :
    ((s.modLane r f).group x).row = (s.group x).row := group_modLane_field (·.row) (fun _ _ => rfl) s r f x
@[simp] theorem group_modLane_chans (s : State) (r : LRef) (f : Lane → Lane) (x : Nat) :
    ((s.modLane r f).group x).chans = (s.group x).chans := group_modLane_field (·.chans) (fun _ _ => rfl) s r f x
@[simp] theorem group_modLane_width (s : State) (r : LRef) (f : Lane → Lane) (x : Nat) :
    ((s.modLane r f).group x).width = (s.group x).width := group_modLane_field (·.width) (fun _ _ => rfl) s r f x
@[simp] theorem group_modLane_length (s : State) (r : LRef) (f : Lane → Lane) (x : Nat) :
    ((s.modLane r f).group x).lanes.length = (s.group x).lanes.length := by
  by_cases hx : x = r.1
  · subst hx
    by_cases h : s.holds r.1 = true
    · rw [group_modLane_self s r f h]; simp
    · have h1 : ∀ g ∈ s.groups, ¬ g.gid = r.1 := by
        intro g hg hgid; exact h (by simp only [State.holds, List.any_eq_true]; exact ⟨g, hg, by simp [hgid]⟩)
      have h2 : (s.modLane r f).groups = s.groups := by
        simp only [State.modLane, State.modGroup]
        exact (List.map_congr_left fun g hg => by simp [h1 g hg]).trans (List.map_id _)
      simp [State.group, h2]
  · rw [group_modLane_ne s hx]

@[simp] theorem has_modLane (s : State) (r : LRef) (f : Lane → Lane) (x : LRef) : (s.modLane r f).has x ↔ s.has x := by
  simp [State.has]

theorem lane_modLane_self (s : State) (r : LRef) (f : Lane → Lane) (h : s.has r) :
    (s.modLane r f).lane r = f (s.lane r) := by
  simp only [State.lane, group_modLane_self s r f h.1, List.getElem?_modify_eq]
  have := h.2
  rw [List.getElem?_eq_getElem this]
  rfl

theorem lane_modLane_ne (s : State) {r x : LRef} (h : x ≠ r) (f : Lane → Lane) : (s.modLane r f).lane x = s.lane x := by
  by_cases hx : x.1 = r.1
  · have h2 : r.2 ≠ x.2 := fun e => h (Prod.ext hx e.symm)
    by_cases hh : s.holds r.1 = true
    · simp only [State.lane, hx, group_modLane_self s r f hh, List.getElem?_modify, h2, if_false]
      cases (s.group r.1).lanes[x.2]? <;> rfl
    · have h1 : ∀ g ∈ s.groups, ¬ g.gid = r.1 := by
        intro g hg hgid; exact hh (by simp only [State.holds, List.any_eq_true]; exact ⟨g, hg, by simp [hgid]⟩)
      have h2 : (s.modLane r f).groups = s.groups := by
        simp only [State.modLane, State.modGroup]
        exact (List.map_congr_left fun g hg => by simp [h1 g hg]).trans (List.map_id _)
      simp [State.lane, State.group, h2]
  · simp only [State.lane, group_modLane_ne s hx]

/-- A change of each lane of a list of distinct lanes. -/
theorem lane_foldl_modLane (f : LRef → Lane → Lane) : ∀ (ls : List LRef) (s : State), ls.Nodup → (∀ r ∈ ls, s.has r) →
    ∀ x, (ls.foldl (fun s r => s.modLane r (f r)) s).lane x = if x ∈ ls then f x (s.lane x) else s.lane x
  | [], _, _, _, x => by simp
  | r :: t, s, hn, hh, x => by
    simp only [List.nodup_cons] at hn
    have ht : ∀ y ∈ t, (s.modLane r (f r)).has y := fun y hy => (has_modLane ..).2 (hh y (by simp [hy]))
    rw [List.foldl_cons, lane_foldl_modLane f t _ hn.2 ht x]
    by_cases hx : x = r
    · subst hx
      simp [hn.1, lane_modLane_self s x (f x) (hh x (by simp))]
    · simp [hx, lane_modLane_ne s hx]

/-! ### What is left alone -/

theorem Tallied.refl (s : State) : Tallied s s := ⟨rfl, fun _ => rfl⟩

theorem tallied_count (s : State) (c i n : Nat) : Tallied s (s.count c i n) where
  rest := rfl
  ctxs k := by
    by_cases h : k = c
    · subst h; simp [State.count, Ctx.noPerf]
    · simp [State.count, ctx_modCtx_ne s h]

theorem Tallied.lane {s t : State} (h : Tallied s t) (r : LRef) : t.lane r = s.lane r := by
  have := h.rest; rw [← this]; rfl

theorem Tallied.group {s t : State} (h : Tallied s t) (x : Nat) : t.group x = s.group x := by
  have := h.rest; rw [← this]; rfl

theorem LanesOnly.of_tallied {s t : State} (h : Tallied s t) : LanesOnly [] s t where
  other r _ := h.lane r
  shells := by have := h.rest; rw [← this]
  ctxs := h.ctxs
  hbm key a := by have := h.rest; rw [← this]; rfl
  scratch b a := by have := h.rest; rw [← this]; rfl
  rest := by have := h.rest; rw [← this]

theorem LanesOnly.mono {ls ms : List LRef} (h : ∀ r, r ∈ ls → r ∈ ms) {s t : State} (k : LanesOnly ls s t) : LanesOnly ms s t :=
  { k with other := fun r hr => k.other r fun hl => hr (h r hl) }

theorem LanesOnly.trans {ls : List LRef} {s t u : State} (h : LanesOnly ls s t) (k : LanesOnly ls t u) : LanesOnly ls s u where
  other r hr := (k.other r hr).trans (h.other r hr)
  shells := k.shells.trans h.shells
  ctxs c := (k.ctxs c).trans (h.ctxs c)
  hbm key a := (k.hbm key a).trans (h.hbm key a)
  scratch b a := (k.scratch b a).trans (h.scratch b a)
  rest := by
    have h1 := h.rest
    have h2 := k.rest
    rw [← h2] at h1
    simpa using h1

theorem LanesOnly.modLane (s : State) (r : LRef) (f : Lane → Lane) : LanesOnly [r] s (s.modLane r f) where
  other x hx := lane_modLane_ne s (by simpa using hx) f
  shells := by
    simp only [State.modLane, State.modGroup, List.map_map]
    refine List.map_congr_left fun g _ => ?_
    simp only [Function.comp]
    split
    · simp only [Group.shell]
      congr 1
      apply List.ext_getElem?
      intro i
      simp only [List.getElem?_map, List.getElem?_modify]
      cases g.lanes[i]? <;> rfl
    · rfl
  ctxs _ := rfl
  hbm _ _ := rfl
  scratch _ _ := rfl
  rest := rfl

theorem LanesOnly.foldl_modLane (f : LRef → Lane → Lane) (ms : List LRef) : ∀ (ls : List LRef) (s : State), (∀ r ∈ ls, r ∈ ms) →
    LanesOnly ms s (ls.foldl (fun s r => s.modLane r (f r)) s)
  | [], s, _ => LanesOnly.mono (fun _ h => by cases h) (LanesOnly.of_tallied (Tallied.refl s))
  | r :: t, s, h =>
    (LanesOnly.mono (fun x hx => h x (by simp only [List.mem_singleton] at hx; simp [hx])) (LanesOnly.modLane s r (f r))).trans
      (LanesOnly.foldl_modLane f ms t _ fun x hx => h x (by simp [hx]))

end Sys2Proof.Machine
end

