-- ==== Sys2Proof/Laws/Shapes.lean ====
section
/-!
SUPPORT. The shapes of the lane instructions: what each shared operation answers when no lane of the gather traps.
-/

-- The proofs here are many and small: checking them one after another keeps the memory of the compile low.
set_option Elab.async false

namespace Sys2Proof.Machine

open Sys2Proof

/-! ### Folds -/

theorem foldl_keep {α β : Type} (f : α → β → α) (a : α) : ∀ ls : List β, (∀ b ∈ ls, f a b = a) → ls.foldl f a = a
  | [], _ => rfl
  | b :: t, h => by rw [List.foldl_cons, h b (by simp)]; exact foldl_keep f a t fun c hc => h c (by simp [hc])

/-! ### The beginning of an instruction -/

theorem withGather_latched {s : State} {l : Latch} (h : s.issue = some l)
    (f : Work → Host.Outcome State Fault Refusal) : withGather s f = f (s.work l) := by
  simp [withGather, h, State.work]

theorem boundsVerdict_none {s : State} {l : Latch} {flds : List Fld} (h : InRange s l flds) {r : LRef} (hr : r ∈ l.lanes) :
    boundsVerdict (s.work l) flds r = none := by
  have : (flds.find? fun f => !inRange ((s.work l).num r f.code f.num) f.width ((s.work l).s.group r.1).regs) = none :=
    List.find?_eq_none.2 fun f hf => by simpa [State.work] using h r hr f hf
  simp only [boundsVerdict, this]

theorem Work.bounds_keep {w : Work} {flds : List Fld} (h : ∀ r ∈ w.live, boundsVerdict w flds r = none) : w.bounds flds = w :=
  foldl_keep _ _ _ fun r hr => by rw [h r hr]

/-- Counting unstaged fields changes no more than perf counts. -/
theorem tally_works (s : State) (l : Latch) (n : Nat) : ∃ s0, Tallied s s0 ∧ (s.work l).tally n = s0.work l := by
  unfold Work.tally
  split
  · split
    · exact ⟨s, Tallied.refl s, rfl⟩
    · exact ⟨_, tallied_count s _ 1 _, rfl⟩
  · exact ⟨s, Tallied.refl s, rfl⟩

/-- An instruction whose fields are in range begins with nothing but its perf counts. -/
theorem begin_inRange {s : State} {l : Latch} {flds : List Fld} (h : InRange s l flds) :
    ∃ s0, Tallied s s0 ∧ (s.work l).begin flds = s0.work l := by
  obtain ⟨s0, ht, hw⟩ := tally_works s l ((s.work l).unstaged flds)
  refine ⟨s0, ht, ?_⟩
  have h0 : InRange s0 l flds := by have := ht.rest; rw [← this] at h; exact h
  rw [Work.begin, hw]
  exact Work.bounds_keep fun r hr => boundsVerdict_none h0 hr

theorem Work.chanChecks_nil (w : Work) : w.chanChecks [] = w := rfl

theorem Work.takeField_reg (w : Work) (x : Bool) (n : Reg) : w.takeField x (.reg n) = w := rfl

theorem Tallied.reg {s t : State} (h : Tallied s t) (r : LRef) (n : Nat) : t.reg r n = s.reg r n := by
  have := h.rest; rw [← this]; rfl

theorem Tallied.cap {s t : State} (h : Tallied s t) (r : LRef) (n : Nat) : t.cap r n = s.cap r n := by
  have := h.rest; rw [← this]; rfl

theorem Tallied.num {s t : State} (h : Tallied s t) (l : Latch) (r : LRef) (code n : Nat) :
    (t.work l).rnum r code n = (s.work l).rnum r code n := by
  have := h.rest; rw [← this]; rfl

theorem Tallied.ready {s t : State} {l : Latch} (h : Tallied s t) (hr : Ready s l) : Ready t l where
  latched := by have := h.rest; rw [← this] at hr; exact hr.latched
  alone := hr.alone
  nodup := hr.nodup
  there r hl := by have := h.rest; rw [← this] at hr; exact hr.there r hl
  noKill r hl := by have := h.rest; rw [← this] at hr; exact hr.noKill r hl

/-! ### The end of an instruction -/

theorem foldl_modLane_taskKill (f : LRef → Lane → Lane) (x : Nat) : ∀ (ls : List LRef) (s : State),
    ((ls.foldl (fun s r => s.modLane r (f r)) s).group x).taskKill = (s.group x).taskKill
  | [], _ => rfl
  | r :: t, s => by rw [List.foldl_cons, foldl_modLane_taskKill f x t]; simp

theorem foldl_modLane_has (f : LRef → Lane → Lane) (x : LRef) : ∀ (ls : List LRef) (s : State),
    (ls.foldl (fun s r => s.modLane r (f r)) s).has x ↔ s.has x
  | [], _ => Iff.rfl
  | r :: t, s => by rw [List.foldl_cons, foldl_modLane_has f x t]; simp

/-- Blocking points of groups whose nodes do not ask for kills change nothing. -/
theorem blockingPoint_keep (s : State) (ls : List LRef) (h : ∀ r ∈ ls, (s.group r.1).taskKill = false) :
    s.blockingPoint ls = s := by
  refine foldl_keep _ _ _ fun gid hg => ?_
  simp only [groupsOf, List.mem_dedup, List.mem_map] at hg
  obtain ⟨r, hr, rfl⟩ := hg
  simp [h r hr]

theorem Lane.advance_status (l : Lane) (pc : DWord) : (l.advance pc).status = .ready := by
  unfold Lane.advance
  dsimp only
  split
  · rfl
  · split
    · rfl
    · split <;> rfl

/-- A non-capability write of a register keeps the loop state (R95). -/
theorem Lane.wr_loop (l : Lane) (n : Nat) (v : PWord) : (l.wr n v).loop = l.loop := by
  unfold Lane.wr Lane.putReg
  split <;> rfl

theorem Lane.wr_atPassEnd (l : Lane) (n : Nat) (v : PWord) : (l.wr n v).atPassEnd = l.atPassEnd := by
  unfold Lane.atPassEnd
  rw [Lane.wr_loop]

/-- A gather that has lost no lane goes past its word. -/
theorem Work.finish_all {w : Work} (hz : w.zero = []) (ht : w.traps = []) (hl : w.live = w.l.lanes) (hn : w.live.Nodup)
    (hh : ∀ r ∈ w.live, w.s.has r) (hk : ∀ r ∈ w.live, (w.s.lane r).atPassEnd = true → (w.s.group r.1).taskKill = false) :
    w.finish = .next (w.live.foldl (fun s r => s.modLane r fun l => l.advance w.l.pc) w.s) := by
  have hb : (w.live.foldl (fun s r => s.modLane r fun l => l.advance w.l.pc) w.s).blockingPoint
      (w.live.filter fun r => (w.s.lane r).atPassEnd) =
      w.live.foldl (fun s r => s.modLane r fun l => l.advance w.l.pc) w.s := by
    refine blockingPoint_keep _ _ fun r hr => ?_
    simp only [List.mem_filter] at hr
    rw [foldl_modLane_taskKill (fun _ l => l.advance w.l.pc)]
    exact hk r hr.1 hr.2
  have hp : (w.live.foldl (fun s r => s.modLane r fun l => l.advance w.l.pc) w.s).parkedPoint w.l.lanes =
      w.live.foldl (fun s r => s.modLane r fun l => l.advance w.l.pc) w.s := by
    unfold State.parkedPoint
    refine blockingPoint_keep _ _ fun r hr => ?_
    exfalso
    simp only [List.mem_filter] at hr
    have h1 := hr.2
    rw [lane_foldl_modLane (fun _ l => l.advance w.l.pc) w.live w.s hn hh r, if_pos (hl ▸ hr.1)] at h1
    simp [Lane.atBlocking, Lane.advance_status] at h1
  simp only [Work.finish, Work.advance, Work.done, Work.settleTraps, hz, ht, List.append_nil, hb, hp]

/-! ### One result per lane -/

/-- Every lane of a ready gather receives a register word and goes past the word of the gather; nothing else changes. -/
theorem writeDst_finish {s s0 : State} {l : Latch} (hr : Ready s l) (h0 : Tallied s s0) (n : Reg) (f : State → LRef → PWord) :
    ∃ t, ((s0.work l).writeDst (.reg n) f).finish = .next t ∧ LanesOnly l.lanes s t ∧
      ∀ r ∈ l.lanes, t.lane r = ((s.lane r).wr (regNo s l r codeD n) (f s0 r)).advance l.pc := by
  have hr0 := h0.ready hr
  let g : LRef → Lane → Lane := fun r x => x.wr ((s0.work l).rnum r codeD n.toNat) (f s0 r)
  let s1 := l.lanes.foldl (fun s r => s.modLane r (g r)) s0
  have hw : (s0.work l).writeDst (.reg n) f = s1.work l := by
    simp only [Work.writeDst, Work.writeRegs, Work.zeroRegs, State.work, List.foldl_nil, List.foldl_map]
    rfl
  have hlane : ∀ r ∈ l.lanes, s1.lane r = g r (s0.lane r) := fun r h => by
    rw [lane_foldl_modLane g l.lanes s0 hr0.nodup hr0.there r, if_pos h]
  rw [hw, Work.finish_all (w := s1.work l) rfl hr.alone rfl hr0.nodup]
  · refine ⟨_, rfl, ?_, fun r h => ?_⟩
    · refine (LanesOnly.mono (fun _ h => by cases h) (LanesOnly.of_tallied h0)).trans ?_
      exact (LanesOnly.foldl_modLane g l.lanes l.lanes s0 fun _ h => h).trans
        (LanesOnly.foldl_modLane (fun _ x => x.advance l.pc) l.lanes l.lanes s1 fun _ h => h)
    · show (l.lanes.foldl (fun s r => s.modLane r fun x => x.advance l.pc) s1).lane r = _
      rw [lane_foldl_modLane (fun _ x => x.advance l.pc) l.lanes s1 hr0.nodup
        (fun r h => (foldl_modLane_has g r l.lanes s0).2 (hr0.there r h)) r, if_pos h, hlane r h]
      simp only [g, h0.lane, h0.num, regNo]
  · exact fun r h => (foldl_modLane_has g r l.lanes s0).2 (hr0.there r h)
  · intro r h
    have h1 : r ∈ l.lanes := h
    show (s1.lane r).atPassEnd = true → (s1.group r.1).taskKill = false
    rw [hlane r h1, foldl_modLane_taskKill g r.1 l.lanes s0]
    exact fun h2 => hr0.noKill r h1 (Lane.wr_atPassEnd _ _ _ ▸ h2)

/-- D := f(A), registers. -/
theorem alu1_regs {s : State} {l : Latch} (hr : Ready s l) (d a : Reg) (hf : InRange s l [rfld codeD d, rfld codeA a])
    (f : PWord → PWord) :
    ∃ t, alu1 (.reg d) (.reg a) f s = .next t ∧ LanesOnly l.lanes s t ∧
      ∀ r ∈ l.lanes, t.lane r = ((s.lane r).wr (regNo s l r codeD d) (f (s.reg r (regNo s l r codeA a)))).advance l.pc := by
  obtain ⟨s0, h0, hb⟩ := begin_inRange hf
  obtain ⟨t, ht, h1, h2⟩ := writeDst_finish hr h0 d fun _ r => f ((s0.work l).src r codeA (.reg a))
  refine ⟨t, ?_, h1, fun r h => ?_⟩
  · rw [alu1, withGather_latched hr.latched]
    simp only [Work.sources, chansOf, dstFlds, srcFlds, rfld, Option.bind, dstChan, srcChan, Option.toList] at hb ⊢
    simp only [List.cons_append, List.nil_append, List.filterMap_cons, List.filterMap_nil, Option.map, hb,
      Work.chanChecks_nil, Work.takeField_reg]
    exact ht
  · rw [h2 r h]
    simp only [Work.src, State.work, regNo]
    congr 2
    exact congrArg f (h0.reg r _ |>.trans (congrArg _ (h0.num l r codeA a.toNat)))

/-- D := f(A, B), registers. -/
theorem alu2_regs {s : State} {l : Latch} (hr : Ready s l) (d a b : Reg)
    (hf : InRange s l [rfld codeD d, rfld codeA a, rfld codeB b]) (f : PWord → PWord → PWord) :
    ∃ t, alu2 (.reg d) (.reg a) (.reg b) f s = .next t ∧ LanesOnly l.lanes s t ∧
      ∀ r ∈ l.lanes, t.lane r = ((s.lane r).wr (regNo s l r codeD d)
        (f (s.reg r (regNo s l r codeA a)) (s.reg r (regNo s l r codeB b)))).advance l.pc := by
  obtain ⟨s0, h0, hb⟩ := begin_inRange hf
  obtain ⟨t, ht, h1, h2⟩ := writeDst_finish hr h0 d
    fun _ r => f ((s0.work l).src r codeA (.reg a)) ((s0.work l).src r codeB (.reg b))
  refine ⟨t, ?_, h1, fun r h => ?_⟩
  · rw [alu2, withGather_latched hr.latched]
    simp only [Work.sources, chansOf, dstFlds, srcFlds, rfld, Option.bind, dstChan, srcChan, Option.toList] at hb ⊢
    simp only [List.cons_append, List.nil_append, List.filterMap_cons, List.filterMap_nil, Option.map, hb,
      Work.chanChecks_nil, Work.takeField_reg]
    exact ht
  · rw [h2 r h]
    have e1 : s0.reg r ((s0.work l).rnum r codeA a.toNat) = s.reg r (regNo s l r codeA a) :=
      h0.reg r _ |>.trans (congrArg _ (h0.num l r codeA a.toNat))
    have e2 : s0.reg r ((s0.work l).rnum r codeB b.toNat) = s.reg r (regNo s l r codeB b) :=
      h0.reg r _ |>.trans (congrArg _ (h0.num l r codeB b.toNat))
    show ((s.lane r).wr (regNo s l r codeD d) (f (s0.reg r _) (s0.reg r _))).advance l.pc = _
    rw [e1, e2]

/-- D := f(A, B, D), registers. -/
theorem alu3_regs {s : State} {l : Latch} (hr : Ready s l) (d a b : Reg)
    (hf : InRange s l [rfld codeD d, rfld codeA a, rfld codeB b]) (f : PWord → PWord → PWord → PWord) :
    ∃ t, alu3 d (.reg a) (.reg b) f s = .next t ∧ LanesOnly l.lanes s t ∧
      ∀ r ∈ l.lanes, t.lane r = ((s.lane r).wr (regNo s l r codeD d)
        (f (s.reg r (regNo s l r codeA a)) (s.reg r (regNo s l r codeB b)) (s.reg r (regNo s l r codeD d)))).advance l.pc := by
  obtain ⟨s0, h0, hb⟩ := begin_inRange hf
  obtain ⟨t, ht, h1, h2⟩ := writeDst_finish hr h0 d
    fun _ r => f ((s0.work l).src r codeA (.reg a)) ((s0.work l).src r codeB (.reg b)) ((s0.work l).regOf r codeD d)
  refine ⟨t, ?_, h1, fun r h => ?_⟩
  · rw [alu3, withGather_latched hr.latched]
    simp only [Work.sources, chansOf, srcFlds, rfld, Option.bind, srcChan, Option.toList] at hb ⊢
    simp only [List.cons_append, List.nil_append, List.filterMap_cons, List.filterMap_nil, Option.map, hb,
      Work.chanChecks_nil, Work.takeField_reg]
    exact ht
  · rw [h2 r h]
    show ((s.lane r).wr (regNo s l r codeD d) (f (s0.reg r ((s0.work l).rnum r codeA a.toNat))
      (s0.reg r ((s0.work l).rnum r codeB b.toNat)) (s0.reg r ((s0.work l).rnum r codeD d.toNat)))).advance l.pc = _
    simp only [h0.reg, h0.num, regNo]

theorem Tallied.imm12 {s t : State} (h : Tallied s t) (l : Latch) (r : LRef) (x : Bool) (imm : BitVec 12) :
    (t.work l).imm12 r x imm = (s.work l).imm12 r x imm := by
  have := h.rest; rw [← this]; rfl

/-- D := f(A, imm), registers. -/
theorem aluImm_regs {s : State} {l : Latch} (hr : Ready s l) (d a : Reg) (x : Bool) (imm : BitVec 12)
    (hf : InRange s l [rfld codeD d, rfld codeA a]) (f : Word → Word → Word) :
    ∃ t, aluImm (.reg d) (.reg a) x imm f s = .next t ∧ LanesOnly l.lanes s t ∧
      ∀ r ∈ l.lanes, t.lane r = ((s.lane r).wr (regNo s l r codeD d)
        (pure1 (fun y => f y ((s.work l).imm12 r x imm)) (s.reg r (regNo s l r codeA a)))).advance l.pc := by
  obtain ⟨s0, h0, hb⟩ := begin_inRange hf
  obtain ⟨t, ht, h1, h2⟩ := writeDst_finish hr h0 d
    fun _ r => pure1 (fun y => f y ((s0.work l).imm12 r x imm)) ((s0.work l).src r codeA (.reg a))
  refine ⟨t, ?_, h1, fun r h => ?_⟩
  · rw [aluImm, withGather_latched hr.latched]
    simp only [Work.sources, chansOf, dstFlds, srcFlds, rfld, Option.bind, dstChan, srcChan, Option.toList] at hb ⊢
    simp only [List.cons_append, List.nil_append, List.filterMap_cons, List.filterMap_nil, Option.map, hb,
      Work.chanChecks_nil, Work.takeField_reg]
    exact ht
  · rw [h2 r h]
    show ((s.lane r).wr (regNo s l r codeD d) (pure1 (fun y => f y ((s0.work l).imm12 r x imm))
      (s0.reg r ((s0.work l).rnum r codeA a.toNat)))).advance l.pc = _
    simp only [h0.reg, h0.num, h0.imm12, regNo]

/-- An instruction with a register destination and no channel operand begins with its perf counts alone. -/
theorem sources_inRange {s : State} {l : Latch} {flds : List Fld} (h : InRange s l flds) (d : Option Dst)
    (hd : d.bind dstChan = none) :
    ∃ s0, Tallied s s0 ∧ (s.work l).sources flds d none none = s0.work l := by
  obtain ⟨s0, h0, hb⟩ := begin_inRange h
  refine ⟨s0, h0, ?_⟩
  simp only [Work.sources, chansOf, Option.toList, hd, hb, List.append_nil, List.filterMap_nil, Work.chanChecks_nil]

/-- Where no group has a kill bit, an instruction that is a blocking point ends as any other does (R296). -/
theorem Work.finishPoint_quiet {w : Work} (hk : ∀ r ∈ w.live, (w.advance.s.group r.1).taskKill = false) :
    w.finishPoint = w.finish := by
  simp only [Work.finishPoint, Work.finish, blockingPoint_keep _ _ hk]

/-- A gather all of whose lanes have left it, none of them with a trap, closes with nothing more. -/
theorem Work.done_empty {w : Work} (ht : w.traps = []) (hk : ∀ r ∈ w.l.lanes, (w.s.group r.1).taskKill = false) :
    w.done = .next w.s := by
  have hp : w.s.parkedPoint w.l.lanes = w.s :=
    blockingPoint_keep _ _ fun r hr => hk r (List.mem_of_mem_filter hr)
  simp only [Work.done, Work.settleTraps, ht, hp]

theorem Work.finish_empty {w : Work} (hz : w.zero = []) (hl : w.live = []) (ht : w.traps = [])
    (hk : ∀ r ∈ w.l.lanes, (w.s.group r.1).taskKill = false) : w.finish = .next w.s := by
  have hp : w.s.parkedPoint w.l.lanes = w.s :=
    blockingPoint_keep _ _ fun r hr => hk r (List.mem_of_mem_filter hr)
  have hb : w.s.blockingPoint [] = w.s := blockingPoint_keep _ _ fun r hr => by cases hr
  simp only [Work.finish, Work.advance, Work.done, Work.settleTraps, hz, ht, hl, List.filter_nil, List.append_nil,
    List.foldl_nil, hb, hp]

end Sys2Proof.Machine
end

