-- ==== Sys2Proof/Laws/Memory.lean ====
section
/-!
SUPPORT. Memories: every operation keeps the canonical form, and what a byte reads as after a byte is set.
-/

-- The proofs here are many and small: checking them one after another keeps the memory of the compile low.
set_option Elab.async false

namespace Sys2Proof.Machine

open Sys2Proof

/-! ### Rising lists -/

theorem risingFrom_mono {lo hi : Int} (h : lo ≤ hi) : ∀ {t : List Nat}, risingFrom hi t = true → risingFrom lo t = true
  | [], _ => rfl
  | k :: t, h1 => by
    simp only [risingFrom, Bool.and_eq_true, decide_eq_true_eq] at h1 ⊢
    exact ⟨by omega, h1.2⟩

theorem risingFrom_filter (p : Nat → Bool) : ∀ {lo : Int} {t : List Nat}, risingFrom lo t = true → risingFrom lo (t.filter p) = true
  | _, [], _ => rfl
  | lo, k :: t, h => by
    simp only [risingFrom, Bool.and_eq_true, decide_eq_true_eq] at h
    have ih := risingFrom_filter p h.2
    simp only [List.filter]
    split
    · simp [risingFrom, h.1, ih]
    · exact risingFrom_mono (by omega) ih

theorem risingFrom_sput (k : Nat) : ∀ {lo : Int} {t : List Nat}, lo < k → risingFrom lo t = true → risingFrom lo (sput k t) = true
  | _, [], hk, _ => by simp [sput, risingFrom, hk]
  | lo, j :: t, hk, h => by
    simp only [risingFrom, Bool.and_eq_true, decide_eq_true_eq] at h
    simp only [sput]
    split
    · rename_i hj
      have := risingFrom_sput k (lo := (j : Int)) (by omega) h.2
      simp [risingFrom, h.1, this]
    · split
      · simp [risingFrom, h.1, h.2]
      · have : (k : Int) < j := by omega
        simp [risingFrom, hk, this, h.2]

theorem risingFrom_sdel (k : Nat) {lo : Int} {t : List Nat} (h : risingFrom lo t = true) : risingFrom lo (sdel k t) = true :=
  risingFrom_filter _ h

theorem keys_tput {α : Type} (k : Nat) (v : α) (t : List (Nat × α)) : (tput k v t).map (·.1) = sput k (t.map (·.1)) := by
  induction t with
  | nil => rfl
  | cons e t ih =>
    obtain ⟨j, w⟩ := e
    simp only [tput, sput, List.map]
    split
    · simp [ih]
    · split
      · rename_i h; simp [h]
      · simp

theorem keys_tdel {α : Type} (k : Nat) (t : List (Nat × α)) : (tdel k t).map (·.1) = sdel k (t.map (·.1)) := by
  induction t with
  | nil => rfl
  | cons e t ih =>
    simp only [tdel, sdel] at ih
    by_cases h : e.1 = k <;> simp [tdel, sdel, h, ih]

theorem risingFrom_tput {α : Type} (k : Nat) (v : α) {t : List (Nat × α)} (h : risingFrom (-1) (t.map (·.1)) = true) :
    risingFrom (-1) ((tput k v t).map (·.1)) = true := by
  rw [keys_tput]; exact risingFrom_sput k (by omega) h

theorem risingFrom_tdel {α : Type} (k : Nat) {t : List (Nat × α)} (h : risingFrom (-1) (t.map (·.1)) = true) :
    risingFrom (-1) ((tdel k t).map (·.1)) = true := by
  rw [keys_tdel]; exact risingFrom_sdel k h

/-! ### Cells -/

theorem cellAt_cellSet_self (a : Nat) (b : Byte) : ∀ {lo : Int} {t : List Host.Cell},
    risingFrom lo (t.map (·.1)) = true → cellAt a (cellSet a b t) = b
  | _, [], _ => by simp only [cellSet]; split <;> simp_all [cellAt]
  | lo, (k, c) :: t, h => by
    simp only [List.map, risingFrom, Bool.and_eq_true, decide_eq_true_eq] at h
    have gone : ∀ {lo : Int} {t : List Host.Cell}, (a : Int) ≤ lo → risingFrom lo (t.map (·.1)) = true → cellAt a t = 0 := by
      intro lo t
      induction t generalizing lo with
      | nil => intros; rfl
      | cons e t ih =>
        intro hl hr
        simp only [List.map, risingFrom, Bool.and_eq_true, decide_eq_true_eq] at hr
        have : e.1 ≠ a := by omega
        simp only [cellAt, if_neg this]
        exact ih (by omega) hr.2
    simp only [cellSet]
    split
    · rename_i hk
      have := cellAt_cellSet_self a b h.2
      simp [cellAt, Nat.ne_of_lt hk, this]
    · split
      · rename_i hk
        split
        · rename_i hb; rw [gone (by omega) h.2, hb]
        · simp [cellAt]
      · split
        · rename_i hka hkb hb
          have : k ≠ a := hkb
          simp only [cellAt, if_neg this]
          rw [gone (by omega) h.2, hb]
        · simp [cellAt]

theorem cellAt_cellSet_ne {a x : Nat} (h : x ≠ a) (b : Byte) (t : List Host.Cell) : cellAt x (cellSet a b t) = cellAt x t := by
  induction t with
  | nil => simp only [cellSet]; split <;> simp [cellAt, Ne.symm h]
  | cons e t ih =>
    obtain ⟨k, c⟩ := e
    simp only [cellSet]
    split
    · simp [cellAt, ih]
    · split
      · rename_i hk
        subst hk
        split <;> simp [cellAt, Ne.symm h]
      · split
        · rfl
        · simp [cellAt, Ne.symm h]

theorem keys_cellSet (a : Nat) (b : Byte) : ∀ {lo : Int} {t : List Host.Cell}, lo < a →
    risingFrom lo (t.map (·.1)) = true → risingFrom lo ((cellSet a b t).map (·.1)) = true
  | _, [], ha, _ => by simp only [cellSet]; split <;> simp [risingFrom, ha]
  | lo, (k, c) :: t, ha, h => by
    simp only [List.map, risingFrom, Bool.and_eq_true, decide_eq_true_eq] at h
    simp only [cellSet]
    split
    · have := keys_cellSet a b (lo := (k : Int)) (by omega) h.2
      simp [risingFrom, h.1, this]
    · split
      · rename_i hk
        split
        · exact risingFrom_mono (by omega) h.2
        · subst hk; simp [risingFrom, h.1, h.2]
      · split
        · simp [risingFrom, h.1, h.2]
        · have : (a : Int) < k := by omega
          simp [risingFrom, ha, this, h.2]

theorem nonzero_cellSet (a : Nat) (b : Byte) : ∀ {t : List Host.Cell},
    t.all (fun c => !(c.2 == 0)) = true → (cellSet a b t).all (fun c => !(c.2 == 0)) = true
  | [], _ => by simp only [cellSet]; split <;> simp_all
  | (k, c) :: t, h => by
    have h' := h
    simp only [List.all_cons, Bool.and_eq_true] at h
    have ih := nonzero_cellSet a b h.2
    simp only [cellSet]
    split
    · simp only [List.all_cons, Bool.and_eq_true]; exact ⟨h.1, ih⟩
    · split
      · split
        · exact h.2
        · rename_i hb; simp only [List.all_cons, Bool.and_eq_true]; exact ⟨by simpa using hb, h.2⟩
      · split
        · exact h'
        · rename_i hb; simp only [List.all_cons, Bool.and_eq_true]; exact ⟨by simpa using hb, h.1, h.2⟩

/-! ### The canonical form -/

theorem Memory.wf_iff (m : Memory) : m.wf = true ↔
    risingFrom (-1) (m.cells.map (·.1)) = true ∧ m.cells.all (fun c => !(c.2 == 0)) = true ∧
    risingFrom (-1) m.tags = true ∧ risingFrom (-1) (m.poison.map (·.1)) = true := by
  simp [Memory.wf, and_assoc]

theorem Memory.empty_wf : ({} : Memory).wf = true := rfl

theorem Memory.setByte_wf {m : Memory} (h : m.wf = true) (a : Nat) (b : Byte) : (m.setByte a b).wf = true := by
  rw [Memory.wf_iff] at h ⊢
  exact ⟨keys_cellSet a b (by omega) h.1, nonzero_cellSet a b h.2.1, h.2.2.1, h.2.2.2⟩

theorem Memory.setBytes_wf {m : Memory} (h : m.wf = true) (a : Nat) (bs : List Byte) : (m.setBytes a bs).wf = true := by
  induction bs generalizing m a with
  | nil => exact h
  | cons b t ih => exact ih (Memory.setByte_wf h a b) (a + 1)

theorem rising_foldl_sdel {t : List Nat} (h : risingFrom (-1) t = true) (gs : List Nat) :
    risingFrom (-1) (gs.foldl (fun t g => sdel g t) t) = true := by
  induction gs generalizing t with
  | nil => exact h
  | cons g gs ih => exact ih (risingFrom_sdel g h)

theorem Memory.untag_wf {m : Memory} (h : m.wf = true) (a n : Nat) : (m.untag a n).wf = true := by
  rw [Memory.wf_iff] at h ⊢
  exact ⟨h.1, h.2.1, rising_foldl_sdel h.2.2.1 _, h.2.2.2⟩

theorem Memory.setTag_wf {m : Memory} (h : m.wf = true) (a : Nat) (v : Bool) : (m.setTag a v).wf = true := by
  rw [Memory.wf_iff] at h ⊢
  refine ⟨h.1, h.2.1, ?_, h.2.2.2⟩
  cases v
  · exact risingFrom_sdel _ h.2.2.1
  · exact risingFrom_sput _ (by omega) h.2.2.1

/-- A fold over units that sets or removes table keys keeps the keys rising. -/
theorem rising_foldl_table {t : List (Nat × Nat)} (h : risingFrom (-1) (t.map (·.1)) = true)
    (f : List (Nat × Nat) → Nat → List (Nat × Nat))
    (hf : ∀ t k, risingFrom (-1) (t.map (·.1)) = true → risingFrom (-1) ((f t k).map (·.1)) = true) (ks : List Nat) :
    risingFrom (-1) ((ks.foldl f t).map (·.1)) = true := by
  induction ks generalizing t with
  | nil => exact h
  | cons k ks ih => exact ih (hf t k h)

theorem Memory.mark_wf {m : Memory} (h : m.wf = true) (u a n : Nat) : (m.mark u a n).wf = true := by
  rw [Memory.wf_iff] at h ⊢
  exact ⟨h.1, h.2.1, h.2.2.1, rising_foldl_table h.2.2.2 _ (fun t k ht => risingFrom_tput k 0 ht) _⟩

theorem Memory.cleanse_wf {m : Memory} (h : m.wf = true) (u a n : Nat) : (m.cleanse u a n).wf = true := by
  rw [Memory.wf_iff] at h ⊢
  refine ⟨h.1, h.2.1, h.2.2.1, rising_foldl_table h.2.2.2 _ (fun t k ht => ?_) _⟩
  dsimp only
  split
  · exact ht
  · split
    · exact risingFrom_tdel k ht
    · exact risingFrom_tput k _ ht

theorem Memory.write_wf {m : Memory} (h : m.wf = true) (u a : Nat) (bs : List Byte) : (m.write u a bs).wf = true :=
  Memory.cleanse_wf (Memory.untag_wf (Memory.setBytes_wf h a bs) a _) u a _

theorem Memory.writeWord_wf {m : Memory} (h : m.wf = true) (u a : Nat) (w : PWord) : (m.writeWord u a w).wf = true := by
  unfold Memory.writeWord
  dsimp only
  split
  · exact Memory.mark_wf (Memory.write_wf h u a _) u a 4
  · exact Memory.write_wf h u a _

theorem Memory.byte_setByte_self {m : Memory} (h : m.wf = true) (a : Nat) (b : Byte) : (m.setByte a b).byte a = b :=
  cellAt_cellSet_self a b ((Memory.wf_iff m).1 h).1

theorem Memory.byte_setByte_ne (m : Memory) {a x : Nat} (h : x ≠ a) (b : Byte) : (m.setByte a b).byte x = m.byte x :=
  cellAt_cellSet_ne h b m.cells

@[simp] theorem Memory.byte_mark (m : Memory) (u a n x : Nat) : (m.mark u a n).byte x = m.byte x := rfl
@[simp] theorem Memory.byte_setTag (m : Memory) (a x : Nat) (v : Bool) : (m.setTag a v).byte x = m.byte x := rfl
@[simp] theorem Memory.byte_untag (m : Memory) (a n x : Nat) : (m.untag a n).byte x = m.byte x := rfl
@[simp] theorem Memory.byte_cleanse (m : Memory) (u a n x : Nat) : (m.cleanse u a n).byte x = m.byte x := rfl

end Sys2Proof.Machine
end

