-- ==== Sys2Proof/Laws/Stores.lean ====
section
/-!
SUPPORT. What the stores of HBM and of scratchpads change, said once: HBM's contents and keys, or one block's scratchpad; and
that HBM keeps its canonical form.
-/

-- The proofs here are many and small: checking them one after another keeps the memory of the compile low.
set_option Elab.async false

namespace Sys2Proof.Machine

open Sys2Proof

/-- `t` is `s` but for the contents of HBM, the keys of its sectors, and the poison that L1s hold of them. -/
def OnlyHbm (s t : State) : Prop := { t with hbm := s.hbm, sectorKeys := s.sectorKeys, l1 := s.l1 } = s

theorem OnlyHbm.refl (s : State) : OnlyHbm s s := rfl

theorem OnlyHbm.trans {s t u : State} (h : OnlyHbm s t) (k : OnlyHbm t u) : OnlyHbm s u := by
  unfold OnlyHbm at *
  rw [← h, ← k]

/-- It keeps every field that is neither. -/
theorem OnlyHbm.keep {α : Type} {s t : State} (h : OnlyHbm s t) (p : State → α)
    (hp : ∀ (x : State) (m : Memory) (k l : List (Nat × Nat)), p { x with hbm := m, sectorKeys := k, l1 := l } = p x) :
    p t = p s := by
  rw [← hp t s.hbm s.sectorKeys s.l1, show ({ t with hbm := s.hbm, sectorKeys := s.sectorKeys, l1 := s.l1 } : State) = s from h]

theorem OnlyHbm.groups {s t : State} (h : OnlyHbm s t) : t.groups = s.groups := h.keep (·.groups) fun _ _ _ _ => rfl
theorem OnlyHbm.blocks {s t : State} (h : OnlyHbm s t) : t.blocks = s.blocks := h.keep (·.blocks) fun _ _ _ _ => rfl
theorem OnlyHbm.ctxs {s t : State} (h : OnlyHbm s t) : t.ctxs = s.ctxs := h.keep (·.ctxs) fun _ _ _ _ => rfl
theorem OnlyHbm.retired {s t : State} (h : OnlyHbm s t) : t.retired = s.retired := h.keep (·.retired) fun _ _ _ _ => rfl
theorem OnlyHbm.lane {s t : State} (h : OnlyHbm s t) (r : LRef) : t.lane r = s.lane r :=
  h.keep (·.lane r) fun _ _ _ _ => rfl

/-- A step of a fold that keeps a relation to its start, which is reflexive and transitive. -/
theorem foldl_related {α : Type} (R : State → State → Prop) (hr : ∀ s, R s s) (ht : ∀ {a b c}, R a b → R b c → R a c)
    (f : State → α → State) (hf : ∀ s a, R s (f s a)) : ∀ (ls : List α) (s : State), R s (ls.foldl f s)
  | [], s => hr s
  | a :: t, s => ht (hf s a) (foldl_related R hr ht f hf t (f s a))

theorem rekey_only (s : State) (key a n : Nat) : OnlyHbm s (s.rekey key a n) :=
  foldl_related OnlyHbm OnlyHbm.refl OnlyHbm.trans _ (fun s k => by dsimp only; split <;> rfl) _ s

theorem hbmPiece_only (s : State) (key a : Nat) (bs : List Byte) : OnlyHbm s (s.hbmPiece key a bs) := by
  unfold State.hbmPiece
  split
  · rfl
  · exact OnlyHbm.trans (rekey_only s key a bs.length) rfl

theorem hbmWrite_only (s : State) (key a : Nat) (bs : List Byte) : OnlyHbm s (s.hbmWrite key a bs) :=
  foldl_related OnlyHbm OnlyHbm.refl OnlyHbm.trans _ (fun s _ => hbmPiece_only s key _ _) _ s

theorem hbmWord_only (s : State) (key a : Nat) (w : PWord) : OnlyHbm s (s.hbmWord key a w) := by
  unfold State.hbmWord
  dsimp only
  split
  · exact OnlyHbm.trans (hbmWrite_only s key a _) rfl
  · exact hbmWrite_only s key a _

theorem hbmSetTag_only (s : State) (a : Nat) (v : Bool) : OnlyHbm s (s.hbmSetTag a v) := by
  unfold State.hbmSetTag; split <;> rfl

theorem hbmChunk_only (s : State) (key a : Nat) (c : Chunk) : OnlyHbm s (s.hbmChunk key a c) := by
  unfold State.hbmChunk
  dsimp only
  split
  · exact OnlyHbm.trans (hbmWrite_only s key a _) rfl
  · exact hbmWrite_only s key a _

/-- A store of words and a tag changes HBM alone. -/
theorem hbmStore_only (s : State) (key a : Nat) (cs : List Chunk) (tag : Bool) : OnlyHbm s (s.hbmStore key a cs tag) := by
  unfold State.hbmStore
  dsimp only
  split
  · exact OnlyHbm.trans (hbmChunk_only s key a _) (hbmSetTag_only _ _ _)
  · exact hbmChunk_only s key a _

/-! ### The canonical form of HBM -/

theorem rekey_wf {s : State} (h : s.hbm.wf = true) (key a n : Nat) : (s.rekey key a n).hbm.wf = true := by
  unfold State.rekey
  induction unitsOf 32 a n generalizing s with
  | nil => exact h
  | cons k t ih =>
    simp only [List.foldl_cons]
    apply ih
    split
    · exact h
    · exact Memory.untag_wf (Memory.setBytes_wf h _ _) _ _

theorem hbmPiece_wf {s : State} (h : s.hbm.wf = true) (key a : Nat) (bs : List Byte) : (s.hbmPiece key a bs).hbm.wf = true := by
  unfold State.hbmPiece
  split
  · exact h
  · exact Memory.write_wf (rekey_wf h key a bs.length) 32 a bs

theorem hbmWrite_wf {s : State} (h : s.hbm.wf = true) (key a : Nat) (bs : List Byte) : (s.hbmWrite key a bs).hbm.wf = true := by
  unfold State.hbmWrite
  induction unitsOf 4096 a bs.length generalizing s with
  | nil => exact h
  | cons g t ih => exact ih (hbmPiece_wf h key _ _)

theorem hbmWord_wf {s : State} (h : s.hbm.wf = true) (key a : Nat) (w : PWord) : (s.hbmWord key a w).hbm.wf = true := by
  unfold State.hbmWord
  dsimp only
  split
  · exact Memory.mark_wf (hbmWrite_wf h key a _) 32 a 4
  · exact hbmWrite_wf h key a _

theorem hbmSetTag_wf {s : State} (h : s.hbm.wf = true) (a : Nat) (v : Bool) : (s.hbmSetTag a v).hbm.wf = true := by
  unfold State.hbmSetTag
  split
  · exact h
  · exact Memory.setTag_wf h a v

theorem hbmChunk_wf {s : State} (h : s.hbm.wf = true) (key a : Nat) (c : Chunk) : (s.hbmChunk key a c).hbm.wf = true := by
  unfold State.hbmChunk
  dsimp only
  split
  · exact Memory.mark_wf (hbmWrite_wf h key a _) 32 a _
  · exact hbmWrite_wf h key a _

theorem hbmStore_wf {s : State} (h : s.hbm.wf = true) (key a : Nat) (cs : List Chunk) (tag : Bool) :
    (s.hbmStore key a cs tag).hbm.wf = true := by
  unfold State.hbmStore
  dsimp only
  split
  · exact hbmSetTag_wf (hbmChunk_wf h key a _) _ _
  · exact hbmChunk_wf h key a _

/-! ### Scratchpads -/

/-- `t` is `s` but for its blocks. -/
def OnlyBlocks (s t : State) : Prop := { t with blocks := s.blocks } = s

theorem OnlyBlocks.trans {s t u : State} (h : OnlyBlocks s t) (k : OnlyBlocks t u) : OnlyBlocks s u := by
  unfold OnlyBlocks at *
  rw [← h, ← k]

/-- A store to a scratchpad changes the blocks alone. -/
theorem scratchStore_only (s : State) (block a : Nat) (c : Chunk) (tag : Bool) : OnlyBlocks s (s.scratchStore block a c tag) := by
  unfold State.scratchStore; dsimp only; split <;> rfl

theorem scratchChunks_only (s : State) (block a : Nat) (cs : List Chunk) (tag : Bool) :
    OnlyBlocks s (s.scratchChunks block a cs tag) :=
  scratchStore_only s block a _ tag

end Sys2Proof.Machine
end

