-- ==== Sys2Proof/Laws/Around.lean ====
section
/-!
SUPPORT. What the operations around an instruction do, said once: open choices, bounds of the code capability, acquire points,
marks of an issue, writes from outside every region, events that arise, fault records, tickets and kills.
-/

-- The proofs here are many and small: checking them one after another keeps the memory of the compile low.
set_option Elab.async false

namespace Sys2Proof.Machine

open Sys2Proof

/-- An open choice is among what it chooses from (R276). -/
theorem oneOf_mem (k : Nat) (x : PWord) (t : List PWord) : oneOf k x t ∈ x :: t := by
  have h : k % (t.length + 1) < (x :: t).length := by simpa using Nat.mod_lt k (Nat.succ_pos _)
  rw [oneOf, List.getD_eq_getElem _ _ h]; exact List.getElem_mem h

/-- Moving the PC does not move the bounds of the code capability (R111). -/
@[simp] theorem Lane.goto_codeCap (l : Lane) (pc : DWord) : (l.goto pc).codeCap = l.codeCap := rfl
@[simp] theorem Lane.goto_anchor (l : Lane) (pc : DWord) : (l.goto pc).anchor = l.anchor := rfl

/-- An acquire point concerns its lane (R188) and the L1 of its core (R11) alone. -/
theorem acquires_frame (s : State) (r : LRef) (scope : Nat) : LanesOnly [r] (s.freshL1 r) (s.acquires r scope) :=
  LanesOnly.modLane _ r _

/-- What an L1 drops changes the L1s alone (R11). -/
theorem freshL1_rest (s : State) (r : LRef) : { s.freshL1 r with l1 := s.l1 } = s := by
  unfold State.freshL1; split <;> rfl

theorem dropLines_rest (s : State) (core a n : Nat) : { s.dropLines core a n with l1 := s.l1 } = s := rfl

theorem dropOwn_rest (s : State) (r : LRef) (a n : Nat) : { s.dropOwn r a n with l1 := s.l1 } = s := by
  unfold State.dropOwn; split <;> rfl

/-- After an acquire point its lane's core holds nothing poisoned in its L1 (R11, R147). -/
theorem freshL1_clean {s : State} {r : LRef} {c : Nat} (h : (s.group r.1).agent = .core c) (e : Nat × Nat)
    (he : e ∈ (s.freshL1 r).l1) : e.1 / 2 ^ 34 ≠ c := by
  simp only [State.freshL1, h] at he
  simpa using (List.mem_filter.mp he).2

/-- A store leaves no sector poisoned in an L1 that was clean there (R147). -/
theorem l1Written_keys (l1 : List (Nat × Nat)) (a n : Nat) (e : Nat × Nat) (he : e ∈ l1Written l1 a n) : ∃ m, (e.1, m) ∈ l1 := by
  obtain ⟨x, hx, hy⟩ := List.mem_filterMap.mp he
  dsimp only at hy
  split at hy
  · cases hy
  · cases hy; exact ⟨x.2, hx⟩

/-- It counts at its scope and at every scope within (R188). -/
theorem Lane.acquire_at (l : Lane) (scope t k : Nat) (hk : k < l.acquired.length) :
    (l.acquire scope t).acquired.getD k 0 = if k ≤ scope then t else l.acquired.getD k 0 := by
  simp [Lane.acquire, upto, List.getD_eq_getElem?_getD, hk]

/-- An issue marks the picked lanes alone (R84). -/
theorem touch_frame (s : State) (agent : Agent) (ls : List LRef) : LanesOnly ls s (s.touch agent ls) := by
  cases agent with
  | kcore _ => exact (LanesOnly.of_tallied (Tallied.refl s)).mono (by simp)
  | core c => exact LanesOnly.foldl_modLane _ ls ls s fun _ h => h

/-- On lines without region records, a write of the hardware, the host or another device is a plain store (R310). -/
theorem hbmOutside_plain {s : State} {a : Nat} {cs : List Chunk}
    (h : ∀ k ∈ unitsOf 128 a (joined cs).1.length, s.lineRec (128 * k) = none) (key : Nat) (tag : Bool) :
    s.hbmOutside key a cs tag = s.hbmStore key a cs tag := by
  have hr : s.regionsOn a (joined cs).1.length = [] := by
    simp only [State.regionsOn]
    rw [List.filterMap_eq_nil_iff.mpr fun k hk => by simp [h k hk]]; rfl
  have ha : s.admitOutside a (joined cs).1.length = s := by
    rw [State.admitOutside, State.awaitLines, hr]
    refine foldl_keep _ s _ fun k hk => ?_
    simp [State.admission, h k hk]
  rw [State.hbmOutside, ha]

/-- An event that arises enters the queue where there is room and none is held before it, and else is held (R357). -/
theorem offer_room {s : State} {e : EventRec} (h : s.eventHeld = []) (hn : s.eventQ.length < eventLimit) :
    s.offer e = s.enqueue e := by
  simp [State.offer, h, hn]

theorem offer_full {s : State} {e : EventRec} (h : eventLimit ≤ s.eventQ.length) :
    s.offer e = { s with eventHeld := s.eventHeld ++ [e] } := by
  simp [State.offer, Nat.not_lt.mpr h]

/-- A fault that no record covers finds a full queue and leaves the machine as it is (R321). -/
theorem fault_full {s : State} {die asid va : Nat} {k : Kind} {fatal : Bool}
    (hj : (s.die die).faults.find? (fun e => e.2.joins asid va k fatal) = none) (hf : freeIndex (s.die die).faults = none)
    (reason level core : Nat) (ctx : Option Nat) (lane : Option LRef) (copy : Option Nat) (bin : Option (Nat × Nat × Nat)) :
    s.fault die asid va k fatal reason level core ctx lane copy bin = (s, none) := by
  simp [State.fault, hj, hf]

/-- The tickets stand as they are where a lane names its own crew again (R280). -/
theorem setCrew_same {s : State} {r : LRef} {n : Nat} (h : (s.lane r).crew = n) :
    s.setCrew r n = s.modLane r fun l => { l with crew := n } := by
  simp [State.setCrew, h]

/-- A crew that some lane which has not exited still names keeps its ticket (R280). -/
theorem dropTicket_kept {s : State} {block crew : Nat} {g : Group} {l : Lane} (hg : g ∈ s.groups) (hb : g.block = block)
    (hl : l ∈ g.lanes) (hu : l.unexited = true) (hh : l.helper = false) (hc : l.crew = crew) :
    s.dropTicket block crew = s := by
  have hn : (s.groups.any fun g => g.block == block && g.lanes.any fun l => l.unexited && !l.helper && l.crew == crew) = true :=
    List.any_eq_true.mpr ⟨g, hg, by simp [hb]; exact ⟨l, hl, by simp [hu, hh, hc]⟩⟩
  simp [State.dropTicket, hn]

/-- The first trap that kills a context is the one whose entry stays (R332). -/
theorem killBy_kept {s : State} {ctx : Nat} {b : Bool} (hp : (s.ctx ctx).phase = .halting) (hk : (s.ctx ctx).request = .kill b)
    (e : Option FaultEntry) : s.killBy ctx e = (s.modCtx ctx fun c => c).killCtx ctx false := by
  unfold State.killBy
  congr 1
  rw [State.modCtx, State.modCtx, hp, hk]

end Sys2Proof.Machine
end

