-- ==== Sys2Proof/Laws/PerInstr.lean ====
section
/-!
SUPPORT. Laws of the encoding, made per instruction. Family RoundTrip: the number that the encoder gives a well-formed
instruction is a word's, and its raw decoding (Table 2.1, before the limits on values) is that instruction; the two rows of
aropen, which have one word, decode to the first.
-/

-- The proofs here are many and small: checking them one after another keeps the memory of the compile low.
set_option Elab.async false

namespace Sys2Proof.Laws

open Sys2Proof

/-- The instruction that a word of `i` decodes to: `i`, but for the second row of aropen (R303). -/
def RoundTrip.spelled : Instr → Instr
  | .aropenReopen d a => .aropen d a
  | i => i

/-- The number that the encoder gives an instruction is below 2^32, and decodes to the instruction. -/
def RoundTrip.Statement (i : Instr) : Prop :=
  ∀ n, encodeNat i = some n → n < 2 ^ 32 ∧ decodeRaw n = .ok (RoundTrip.spelled i)

open RoundTrip

/-! ### Fields -/

theorem Dst.bits_lt (d : Dst) : d.bits < 128 := by
  cases d with
  | reg r => exact lt_of_lt_of_le r.isLt (by decide)
  | push c => have := c.isLt; simp only [Dst.bits]; omega

theorem Src.bits_lt (d : Src) : d.bits < 128 := by
  cases d with
  | reg r => exact lt_of_lt_of_le r.isLt (by decide)
  | pop c => have := c.isLt; simp only [Src.bits]; omega
  | peek c => have := c.isLt; simp only [Src.bits]; omega

theorem chan96_lt (c : Chan) : 96 + c.toNat < 128 := by have := c.isLt; omega

theorem chan64_lt (c : Chan) : 64 + c.toNat < 128 := by have := c.isLt; omega

theorem chan_of_sub (k : Nat) (hk : k % 16 = 0) (c : Chan) : BitVec.ofNat 4 (k + c.toNat) = c := by
  apply BitVec.eq_of_toNat_eq; have := c.isLt; simp only [BitVec.toNat_ofNat]; omega

theorem regOf_toNat (r : Reg) : regOf r.toNat = some r := by
  have := r.isLt; simp [regOf, this]

theorem dstOf_bits (d : Dst) : dstOf d.bits = some d := by
  cases d with
  | reg r => have := r.isLt; simp [dstOf, Dst.bits, this]
  | push c =>
    have := c.isLt
    have h1 : ¬ 96 + c.toNat < 64 := by omega
    have h2 : 96 ≤ 96 + c.toNat ∧ 96 + c.toNat < 112 := by omega
    simp only [dstOf, Dst.bits, if_neg h1, if_pos h2, chan_of_sub 96 rfl]

theorem srcOf_bits (d : Src) : srcOf d.bits = some d := by
  cases d with
  | reg r => have := r.isLt; simp [srcOf, Src.bits, this]
  | pop c =>
    have := c.isLt
    have h1 : ¬ 96 + c.toNat < 64 := by omega
    have h2 : 96 ≤ 96 + c.toNat ∧ 96 + c.toNat < 112 := by omega
    simp only [srcOf, Src.bits, if_neg h1, if_pos h2, chan_of_sub 96 rfl]
  | peek c =>
    have := c.isLt
    have h1 : ¬ 64 + c.toNat < 64 := by omega
    have h2 : ¬ (96 ≤ 64 + c.toNat ∧ 64 + c.toNat < 112) := by omega
    have h3 : 64 + c.toNat < 80 := by omega
    simp only [srcOf, Src.bits, if_neg h1, if_neg h2, if_pos h3, chan_of_sub 64 rfl]

theorem popOf_bits (c : Chan) : popOf (96 + c.toNat) = some c := by
  have := c.isLt
  have h : 96 ≤ 96 + c.toNat ∧ 96 + c.toNat < 112 := by omega
  simp only [popOf, if_pos h, chan_of_sub 96 rfl]

theorem peekOf_bits (c : Chan) : peekOf (64 + c.toNat) = some c := by
  have := c.isLt
  have h : 64 ≤ 64 + c.toNat ∧ 64 + c.toNat < 80 := by omega
  simp only [peekOf, if_pos h, chan_of_sub 64 rfl]

theorem low3Of_toNat (b : BitVec 3) : low3Of b.toNat = some b := by
  have := b.isLt; simp [low3Of, this]

theorem zeroOf_zero : zeroOf 0 = some () := rfl

theorem zeroOf_eq {f : Nat} (h : f = 0) : zeroOf f = some () := if_pos h

theorem fmt1_ok {α : Type} {fa : Nat → Option α} {mk : α → Instr} {a : Nat} {x : α} (ha : fa a = some x) :
    fmt1 fa mk a = .ok (mk x) := by simp [fmt1, ha]

theorem fmt2_ok {α β : Type} {fa : Nat → Option α} {fb : Nat → Option β} {mk : α → β → Instr} {a b : Nat} {x : α} {y : β}
    (ha : fa a = some x) (hb : fb b = some y) : fmt2 fa fb mk a b = .ok (mk x y) := by simp [fmt2, ha, hb]

theorem fmt3_ok {α β γ : Type} {fa : Nat → Option α} {fb : Nat → Option β} {fc : Nat → Option γ} {mk : α → β → γ → Instr}
    {a b c : Nat} {x : α} {y : β} {z : γ} (ha : fa a = some x) (hb : fb b = some y) (hc : fc c = some z) :
    fmt3 fa fb fc mk a b c = .ok (mk x y z) := by simp [fmt3, ha, hb, hc]

theorem of_raw {i : Instr} {n : Nat} (he : encodeNat i = some n) (hn : n < 2 ^ 32) (hd : decodeRaw n = .ok (spelled i)) :
    Statement i := by
  intro m hm
  rw [he] at hm
  cases hm
  exact ⟨hn, hd⟩

theorem of_none {i : Instr} (he : encodeNat i = none) : Statement i := by
  intro m hm
  rw [he] at hm
  cases hm

/-! ### Format R -/

theorem packR_lt {m d a b fn : Nat} (hm : m < 64) (hd : d < 128) (ha : a < 128) (hb : b < 128) (hf : fn < 32) :
    packR m d a b fn < 2 ^ 32 := by simp only [packR]; omega

theorem packR_bits {m d a b fn : Nat} (hm : m < 64) (hd : d < 128) (ha : a < 128) (hb : b < 128) (hf : fn < 32) :
    bitsAt (packR m d a b fn) 26 6 = m ∧ bitsAt (packR m d a b fn) 19 7 = d ∧ bitsAt (packR m d a b fn) 12 7 = a ∧
    bitsAt (packR m d a b fn) 5 7 = b ∧ bitsAt (packR m d a b fn) 0 5 = fn := by
  simp only [packR, bitsAt]; omega

theorem rawOf {n m : Nat} (h : bitsAt n 26 6 = m) : decodeRaw n = decodeMajor m n := by rw [decodeRaw, h]

theorem maj1 (n : Nat) : decodeMajor 1 n = decInt (bitsAt n 19 7) (bitsAt n 12 7) (bitsAt n 5 7) (bitsAt n 0 5) := rfl

theorem maj2 (n : Nat) : decodeMajor 2 n = decCmp (bitsAt n 19 7) (bitsAt n 12 7) (bitsAt n 5 7) (bitsAt n 0 5) := rfl

theorem maj3 (n : Nat) : decodeMajor 3 n = decFlt (bitsAt n 19 7) (bitsAt n 12 7) (bitsAt n 5 7) (bitsAt n 0 5) := rfl

theorem maj4 (n : Nat) : decodeMajor 4 n = decCvt (bitsAt n 19 7) (bitsAt n 12 7) (bitsAt n 5 7) (bitsAt n 0 5) := rfl

theorem maj5 (n : Nat) : decodeMajor 5 n = decPk16 (bitsAt n 19 7) (bitsAt n 12 7) (bitsAt n 5 7) (bitsAt n 0 5) := rfl

theorem maj6 (n : Nat) : decodeMajor 6 n = decXch (bitsAt n 19 7) (bitsAt n 12 7) (bitsAt n 5 7) (bitsAt n 0 5) := rfl

theorem maj8 (n : Nat) : decodeMajor 8 n = fmt2 dstOf srcOf (fun d a => .iaddi d a (BitVec.ofNat 12 (bitsAt n 0 12))) (bitsAt n 19 7) (bitsAt n 12 7) := rfl

theorem maj9 (n : Nat) : decodeMajor 9 n = fmt2 dstOf srcOf (fun d a => .andi d a (BitVec.ofNat 12 (bitsAt n 0 12))) (bitsAt n 19 7) (bitsAt n 12 7) := rfl

theorem maj10 (n : Nat) : decodeMajor 10 n = fmt2 dstOf srcOf (fun d a => .ori d a (BitVec.ofNat 12 (bitsAt n 0 12))) (bitsAt n 19 7) (bitsAt n 12 7) := rfl

theorem maj11 (n : Nat) : decodeMajor 11 n = fmt2 dstOf srcOf (fun d a => .xori d a (BitVec.ofNat 12 (bitsAt n 0 12))) (bitsAt n 19 7) (bitsAt n 12 7) := rfl

theorem maj12 (n : Nat) : decodeMajor 12 n = fmt2 dstOf srcOf (fun d a => .shli d a (BitVec.ofNat 12 (bitsAt n 0 12))) (bitsAt n 19 7) (bitsAt n 12 7) := rfl

theorem maj13 (n : Nat) : decodeMajor 13 n = fmt2 dstOf srcOf (fun d a => .shri d a (BitVec.ofNat 12 (bitsAt n 0 12))) (bitsAt n 19 7) (bitsAt n 12 7) := rfl

theorem maj14 (n : Nat) : decodeMajor 14 n = fmt2 dstOf srcOf (fun d a => .sari d a (BitVec.ofNat 12 (bitsAt n 0 12))) (bitsAt n 19 7) (bitsAt n 12 7) := rfl

theorem maj15 (n : Nat) : decodeMajor 15 n = fmt2 dstOf zeroOf (fun d _ => .movi d (BitVec.ofNat 12 (bitsAt n 0 12))) (bitsAt n 19 7) (bitsAt n 12 7) := rfl

theorem maj16 (n : Nat) : decodeMajor 16 n = fmt2 dstOf srcOf (fun d a => .imuli d a (BitVec.ofNat 12 (bitsAt n 0 12))) (bitsAt n 19 7) (bitsAt n 12 7) := rfl

theorem maj17 (n : Nat) : decodeMajor 17 n = fmt1 dstOf (fun d => .ldb d (BitVec.ofNat 4 (bitsAt n 15 4)) (BitVec.ofNat 15 (bitsAt n 0 15))) (bitsAt n 19 7) := rfl

theorem maj18 (n : Nat) : decodeMajor 18 n = fmt1 dstOf (fun d => .ldbn d (BitVec.ofNat 4 (bitsAt n 15 4)) (BitVec.ofNat 15 (bitsAt n 0 15))) (bitsAt n 19 7) := rfl

theorem maj19 (n : Nat) : decodeMajor 19 n = fmt1 dstOf (fun d => .ldh d (BitVec.ofNat 4 (bitsAt n 15 4)) (BitVec.ofNat 15 (bitsAt n 0 15))) (bitsAt n 19 7) := rfl

theorem maj20 (n : Nat) : decodeMajor 20 n = fmt1 dstOf (fun d => .ldhn d (BitVec.ofNat 4 (bitsAt n 15 4)) (BitVec.ofNat 15 (bitsAt n 0 15))) (bitsAt n 19 7) := rfl

theorem maj21 (n : Nat) : decodeMajor 21 n = fmt1 dstOf (fun d => .ldw d (BitVec.ofNat 4 (bitsAt n 15 4)) (BitVec.ofNat 15 (bitsAt n 0 15))) (bitsAt n 19 7) := rfl

theorem maj22 (n : Nat) : decodeMajor 22 n = fmt1 regOf (fun d => .ldd d (BitVec.ofNat 4 (bitsAt n 15 4)) (BitVec.ofNat 15 (bitsAt n 0 15))) (bitsAt n 19 7) := rfl

theorem maj23 (n : Nat) : decodeMajor 23 n = fmt1 regOf (fun d => .ldq d (BitVec.ofNat 4 (bitsAt n 15 4)) (BitVec.ofNat 15 (bitsAt n 0 15))) (bitsAt n 19 7) := rfl

theorem maj24 (n : Nat) : decodeMajor 24 n = fmt1 regOf (fun d => .ldc d (BitVec.ofNat 4 (bitsAt n 15 4)) (BitVec.ofNat 15 (bitsAt n 0 15))) (bitsAt n 19 7) := rfl

theorem maj25 (n : Nat) : decodeMajor 25 n = fmt1 srcOf (fun d => .stb d (BitVec.ofNat 4 (bitsAt n 15 4)) (BitVec.ofNat 15 (bitsAt n 0 15))) (bitsAt n 19 7) := rfl

theorem maj26 (n : Nat) : decodeMajor 26 n = fmt1 srcOf (fun d => .sth d (BitVec.ofNat 4 (bitsAt n 15 4)) (BitVec.ofNat 15 (bitsAt n 0 15))) (bitsAt n 19 7) := rfl

theorem maj27 (n : Nat) : decodeMajor 27 n = fmt1 srcOf (fun d => .stw d (BitVec.ofNat 4 (bitsAt n 15 4)) (BitVec.ofNat 15 (bitsAt n 0 15))) (bitsAt n 19 7) := rfl

theorem maj28 (n : Nat) : decodeMajor 28 n = fmt1 regOf (fun d => .std d (BitVec.ofNat 4 (bitsAt n 15 4)) (BitVec.ofNat 15 (bitsAt n 0 15))) (bitsAt n 19 7) := rfl

theorem maj29 (n : Nat) : decodeMajor 29 n = fmt1 regOf (fun d => .stq d (BitVec.ofNat 4 (bitsAt n 15 4)) (BitVec.ofNat 15 (bitsAt n 0 15))) (bitsAt n 19 7) := rfl

theorem maj30 (n : Nat) : decodeMajor 30 n = fmt1 regOf (fun d => .stc d (BitVec.ofNat 4 (bitsAt n 15 4)) (BitVec.ofNat 15 (bitsAt n 0 15))) (bitsAt n 19 7) := rfl

theorem maj31 (n : Nat) : decodeMajor 31 n = fmt1 dstOf (fun d => .fld d (BitVec.ofNat 3 (bitsAt n 16 3)) (decide (bitsAt n 15 1 = 1)) (BitVec.ofNat 15 (bitsAt n 0 15))) (bitsAt n 19 7) := rfl

theorem maj32 (n : Nat) : decodeMajor 32 n = fmt1 srcOf (fun d => .fst d (BitVec.ofNat 3 (bitsAt n 16 3)) (decide (bitsAt n 15 1 = 1)) (BitVec.ofNat 15 (bitsAt n 0 15))) (bitsAt n 19 7) := rfl

theorem maj33 (n : Nat) : decodeMajor 33 n = decAtom (bitsAt n 19 7) (bitsAt n 15 4) (bitsAt n 11 4) (bitsAt n 9 2) (bitsAt n 6 3) (bitsAt n 3 3) (bitsAt n 0 3) := rfl

theorem maj34 (n : Nat) : decodeMajor 34 n = decOrdm (bitsAt n 19 7) (bitsAt n 15 4) (bitsAt n 11 4) (bitsAt n 9 2) (bitsAt n 6 3) (bitsAt n 3 3) (bitsAt n 0 3) := rfl

theorem maj35 (n : Nat) : decodeMajor 35 n = .ok (.bra (BitVec.ofNat 26 (bitsAt n 0 26))) := rfl

theorem maj36 (n : Nat) : decodeMajor 36 n = fmt1 regOf (fun a => .brz a (BitVec.ofNat 19 (bitsAt n 0 19))) (bitsAt n 19 7) := rfl

theorem maj37 (n : Nat) : decodeMajor 37 n = fmt1 regOf (fun a => .brnz a (BitVec.ofNat 19 (bitsAt n 0 19))) (bitsAt n 19 7) := rfl

theorem maj38 (n : Nat) : decodeMajor 38 n = .ok (.call (BitVec.ofNat 26 (bitsAt n 0 26))) := rfl

theorem maj39 (n : Nat) : decodeMajor 39 n = decCtl (bitsAt n 19 7) (bitsAt n 12 7) (bitsAt n 5 7) (bitsAt n 0 5) := rfl

theorem maj40 (n : Nat) : decodeMajor 40 n = fmt2 low3Of zeroOf (fun b _ => .rcvset b (BitVec.ofNat 12 (bitsAt n 0 12))) (bitsAt n 19 7) (bitsAt n 12 7) := rfl

theorem maj41 (n : Nat) : decodeMajor 41 n = fmt3 regOf regOf zeroOf (fun d len _ => .loop d len) (bitsAt n 19 7) (bitsAt n 12 7) (bitsAt n 0 12) := rfl

theorem maj42 (n : Nat) : decodeMajor 42 n = decCap (bitsAt n 19 7) (bitsAt n 12 7) (bitsAt n 5 7) (bitsAt n 0 5) := rfl

theorem maj43 (n : Nat) : decodeMajor 43 n = decCopy (bitsAt n 19 7) (bitsAt n 12 7) (bitsAt n 5 7) (bitsAt n 0 5) := rfl

theorem maj44 (n : Nat) : decodeMajor 44 n = decChan (bitsAt n 19 7) (bitsAt n 12 7) (bitsAt n 5 7) (bitsAt n 0 5) := rfl

theorem maj45 (n : Nat) : decodeMajor 45 n = decSync (bitsAt n 19 7) (bitsAt n 12 7) (bitsAt n 5 7) (bitsAt n 0 5) := rfl

theorem maj46 (n : Nat) : decodeMajor 46 n = fmt2 regOf regOf (fun d f => .mx d f (BitVec.ofNat 4 (bitsAt n 8 4)) (BitVec.ofNat 4 (bitsAt n 4 4)) (BitVec.ofNat 4 (bitsAt n 0 4))) (bitsAt n 19 7) (bitsAt n 12 7) := rfl

theorem maj47 (n : Nat) : decodeMajor 47 n = decMxa (bitsAt n 19 7) (bitsAt n 12 7) (bitsAt n 5 7) (bitsAt n 0 5) := rfl

theorem maj48 (n : Nat) : decodeMajor 48 n = decLnch (bitsAt n 19 7) (bitsAt n 12 7) (bitsAt n 5 7) (bitsAt n 0 5) := rfl

theorem maj49 (n : Nat) : decodeMajor 49 n = decTask (bitsAt n 19 7) (bitsAt n 12 7) (bitsAt n 5 7) (bitsAt n 0 5) := rfl

theorem maj50 (n : Nat) : decodeMajor 50 n = decRegn (bitsAt n 19 7) (bitsAt n 12 7) (bitsAt n 5 7) (bitsAt n 0 5) := rfl

theorem maj51 (n : Nat) : decodeMajor 51 n = decSys (bitsAt n 19 7) (bitsAt n 12 7) (bitsAt n 8 4) (bitsAt n 0 8) := rfl

theorem maj52 (n : Nat) : decodeMajor 52 n = fmt1 zeroOf (fun _ => .rgn (BitVec.ofNat 2 (bitsAt n 24 2)) (BitVec.ofNat 4 (bitsAt n 20 4)) (BitVec.ofNat 4 (bitsAt n 16 4)) (BitVec.ofNat 4 (bitsAt n 12 4)) (BitVec.ofNat 4 (bitsAt n 8 4)) (BitVec.ofNat 4 (bitsAt n 4 4))) (bitsAt n 0 4) := rfl

theorem maj62 (n : Nat) : decodeMajor 62 n = .ok (.bkpt (BitVec.ofNat 26 (bitsAt n 0 26))) := rfl

theorem rawInt {d a b fn : Nat} (hd : d < 128) (ha : a < 128) (hb : b < 128) (hf : fn < 32) :
    decodeRaw (packR 1 d a b fn) = decInt d a b fn := by
  obtain ⟨h1, h2, h3, h4, h5⟩ := packR_bits (m := 1) (by decide) hd ha hb hf
  rw [decodeRaw, h1, maj1, h2, h3, h4, h5]

theorem rawCmp {d a b fn : Nat} (hd : d < 128) (ha : a < 128) (hb : b < 128) (hf : fn < 32) :
    decodeRaw (packR 2 d a b fn) = decCmp d a b fn := by
  obtain ⟨h1, h2, h3, h4, h5⟩ := packR_bits (m := 2) (by decide) hd ha hb hf
  rw [decodeRaw, h1, maj2, h2, h3, h4, h5]

theorem rawFlt {d a b fn : Nat} (hd : d < 128) (ha : a < 128) (hb : b < 128) (hf : fn < 32) :
    decodeRaw (packR 3 d a b fn) = decFlt d a b fn := by
  obtain ⟨h1, h2, h3, h4, h5⟩ := packR_bits (m := 3) (by decide) hd ha hb hf
  rw [decodeRaw, h1, maj3, h2, h3, h4, h5]

theorem rawCvt {d a b fn : Nat} (hd : d < 128) (ha : a < 128) (hb : b < 128) (hf : fn < 32) :
    decodeRaw (packR 4 d a b fn) = decCvt d a b fn := by
  obtain ⟨h1, h2, h3, h4, h5⟩ := packR_bits (m := 4) (by decide) hd ha hb hf
  rw [decodeRaw, h1, maj4, h2, h3, h4, h5]

theorem rawPk16 {d a b fn : Nat} (hd : d < 128) (ha : a < 128) (hb : b < 128) (hf : fn < 32) :
    decodeRaw (packR 5 d a b fn) = decPk16 d a b fn := by
  obtain ⟨h1, h2, h3, h4, h5⟩ := packR_bits (m := 5) (by decide) hd ha hb hf
  rw [decodeRaw, h1, maj5, h2, h3, h4, h5]

theorem rawXch {d a b fn : Nat} (hd : d < 128) (ha : a < 128) (hb : b < 128) (hf : fn < 32) :
    decodeRaw (packR 6 d a b fn) = decXch d a b fn := by
  obtain ⟨h1, h2, h3, h4, h5⟩ := packR_bits (m := 6) (by decide) hd ha hb hf
  rw [decodeRaw, h1, maj6, h2, h3, h4, h5]

theorem rawCtl {d a b fn : Nat} (hd : d < 128) (ha : a < 128) (hb : b < 128) (hf : fn < 32) :
    decodeRaw (packR 39 d a b fn) = decCtl d a b fn := by
  obtain ⟨h1, h2, h3, h4, h5⟩ := packR_bits (m := 39) (by decide) hd ha hb hf
  rw [decodeRaw, h1, maj39, h2, h3, h4, h5]

theorem rawCap {d a b fn : Nat} (hd : d < 128) (ha : a < 128) (hb : b < 128) (hf : fn < 32) :
    decodeRaw (packR 42 d a b fn) = decCap d a b fn := by
  obtain ⟨h1, h2, h3, h4, h5⟩ := packR_bits (m := 42) (by decide) hd ha hb hf
  rw [decodeRaw, h1, maj42, h2, h3, h4, h5]

theorem rawCopy {d a b fn : Nat} (hd : d < 128) (ha : a < 128) (hb : b < 128) (hf : fn < 32) :
    decodeRaw (packR 43 d a b fn) = decCopy d a b fn := by
  obtain ⟨h1, h2, h3, h4, h5⟩ := packR_bits (m := 43) (by decide) hd ha hb hf
  rw [decodeRaw, h1, maj43, h2, h3, h4, h5]

theorem rawChan {d a b fn : Nat} (hd : d < 128) (ha : a < 128) (hb : b < 128) (hf : fn < 32) :
    decodeRaw (packR 44 d a b fn) = decChan d a b fn := by
  obtain ⟨h1, h2, h3, h4, h5⟩ := packR_bits (m := 44) (by decide) hd ha hb hf
  rw [decodeRaw, h1, maj44, h2, h3, h4, h5]

theorem rawSync {d a b fn : Nat} (hd : d < 128) (ha : a < 128) (hb : b < 128) (hf : fn < 32) :
    decodeRaw (packR 45 d a b fn) = decSync d a b fn := by
  obtain ⟨h1, h2, h3, h4, h5⟩ := packR_bits (m := 45) (by decide) hd ha hb hf
  rw [decodeRaw, h1, maj45, h2, h3, h4, h5]

theorem rawMxa {d a b fn : Nat} (hd : d < 128) (ha : a < 128) (hb : b < 128) (hf : fn < 32) :
    decodeRaw (packR 47 d a b fn) = decMxa d a b fn := by
  obtain ⟨h1, h2, h3, h4, h5⟩ := packR_bits (m := 47) (by decide) hd ha hb hf
  rw [decodeRaw, h1, maj47, h2, h3, h4, h5]

theorem rawLnch {d a b fn : Nat} (hd : d < 128) (ha : a < 128) (hb : b < 128) (hf : fn < 32) :
    decodeRaw (packR 48 d a b fn) = decLnch d a b fn := by
  obtain ⟨h1, h2, h3, h4, h5⟩ := packR_bits (m := 48) (by decide) hd ha hb hf
  rw [decodeRaw, h1, maj48, h2, h3, h4, h5]

theorem rawTask {d a b fn : Nat} (hd : d < 128) (ha : a < 128) (hb : b < 128) (hf : fn < 32) :
    decodeRaw (packR 49 d a b fn) = decTask d a b fn := by
  obtain ⟨h1, h2, h3, h4, h5⟩ := packR_bits (m := 49) (by decide) hd ha hb hf
  rw [decodeRaw, h1, maj49, h2, h3, h4, h5]

theorem rawRegn {d a b fn : Nat} (hd : d < 128) (ha : a < 128) (hb : b < 128) (hf : fn < 32) :
    decodeRaw (packR 50 d a b fn) = decRegn d a b fn := by
  obtain ⟨h1, h2, h3, h4, h5⟩ := packR_bits (m := 50) (by decide) hd ha hb hf
  rw [decodeRaw, h1, maj50, h2, h3, h4, h5]

/-! ### The other formats -/

theorem packI_bits {m d a imm : Nat} (h0 : m < 64) (h1 : d < 128) (h2 : a < 128) (h3 : imm < 4096) :
    packI m d a imm < 2 ^ 32 ∧
    bitsAt (packI m d a imm) 26 6 = m ∧
    bitsAt (packI m d a imm) 19 7 = d ∧
    bitsAt (packI m d a imm) 12 7 = a ∧
    bitsAt (packI m d a imm) 0 12 = imm := by
  simp only [packI, bitsAt]; omega

theorem packM_bits {m d c imm : Nat} (h0 : m < 64) (h1 : d < 128) (h2 : c < 16) (h3 : imm < 32768) :
    packM m d c imm < 2 ^ 32 ∧
    bitsAt (packM m d c imm) 26 6 = m ∧
    bitsAt (packM m d c imm) 19 7 = d ∧
    bitsAt (packM m d c imm) 15 4 = c ∧
    bitsAt (packM m d c imm) 0 15 = imm := by
  simp only [packM, bitsAt]; omega

theorem packF_bits {m d l k imm : Nat} (h0 : m < 64) (h1 : d < 128) (h2 : l < 8) (h3 : k < 2) (h4 : imm < 32768) :
    packF m d l k imm < 2 ^ 32 ∧
    bitsAt (packF m d l k imm) 26 6 = m ∧
    bitsAt (packF m d l k imm) 19 7 = d ∧
    bitsAt (packF m d l k imm) 16 3 = l ∧
    bitsAt (packF m d l k imm) 15 1 = k ∧
    bitsAt (packF m d l k imm) 0 15 = imm := by
  simp only [packF, bitsAt]; omega

theorem packA_bits {m d c aop ord scope use : Nat} (h0 : m < 64) (h1 : d < 128) (h2 : c < 16) (h3 : aop < 16) (h4 : ord < 4) (h5 : scope < 8) (h6 : use < 8) :
    packA m d c aop ord scope use < 2 ^ 32 ∧
    bitsAt (packA m d c aop ord scope use) 26 6 = m ∧
    bitsAt (packA m d c aop ord scope use) 19 7 = d ∧
    bitsAt (packA m d c aop ord scope use) 15 4 = c ∧
    bitsAt (packA m d c aop ord scope use) 11 4 = aop ∧
    bitsAt (packA m d c aop ord scope use) 9 2 = ord ∧
    bitsAt (packA m d c aop ord scope use) 6 3 = scope ∧
    bitsAt (packA m d c aop ord scope use) 3 3 = use ∧
    bitsAt (packA m d c aop ord scope use) 0 3 = 0 := by
  simp only [packA, bitsAt]; omega

theorem packJ_bits {m disp : Nat} (h0 : m < 64) (h1 : disp < 67108864) :
    packJ m disp < 2 ^ 32 ∧
    bitsAt (packJ m disp) 26 6 = m ∧
    bitsAt (packJ m disp) 0 26 = disp := by
  simp only [packJ, bitsAt]; omega

theorem packB_bits {m a disp : Nat} (h0 : m < 64) (h1 : a < 128) (h2 : disp < 524288) :
    packB m a disp < 2 ^ 32 ∧
    bitsAt (packB m a disp) 26 6 = m ∧
    bitsAt (packB m a disp) 19 7 = a ∧
    bitsAt (packB m a disp) 0 19 = disp := by
  simp only [packB, bitsAt]; omega

theorem packX_bits {m d f ca cb cv : Nat} (h0 : m < 64) (h1 : d < 128) (h2 : f < 128) (h3 : ca < 16) (h4 : cb < 16) (h5 : cv < 16) :
    packX m d f ca cb cv < 2 ^ 32 ∧
    bitsAt (packX m d f ca cb cv) 26 6 = m ∧
    bitsAt (packX m d f ca cb cv) 19 7 = d ∧
    bitsAt (packX m d f ca cb cv) 12 7 = f ∧
    bitsAt (packX m d f ca cb cv) 8 4 = ca ∧
    bitsAt (packX m d f ca cb cv) 4 4 = cb ∧
    bitsAt (packX m d f ca cb cv) 0 4 = cv := by
  simp only [packX, bitsAt]; omega

theorem packS_bits {m d a sub id : Nat} (h0 : m < 64) (h1 : d < 128) (h2 : a < 128) (h3 : sub < 16) (h4 : id < 256) :
    packS m d a sub id < 2 ^ 32 ∧
    bitsAt (packS m d a sub id) 26 6 = m ∧
    bitsAt (packS m d a sub id) 19 7 = d ∧
    bitsAt (packS m d a sub id) 12 7 = a ∧
    bitsAt (packS m d a sub id) 8 4 = sub ∧
    bitsAt (packS m d a sub id) 0 8 = id := by
  simp only [packS, bitsAt]; omega

theorem packG_bits {m cnt q0 q1 q2 q3 sl : Nat} (h0 : m < 64) (h1 : cnt < 4) (h2 : q0 < 16) (h3 : q1 < 16) (h4 : q2 < 16) (h5 : q3 < 16) (h6 : sl < 16) :
    packG m cnt q0 q1 q2 q3 sl < 2 ^ 32 ∧
    bitsAt (packG m cnt q0 q1 q2 q3 sl) 26 6 = m ∧
    bitsAt (packG m cnt q0 q1 q2 q3 sl) 24 2 = cnt ∧
    bitsAt (packG m cnt q0 q1 q2 q3 sl) 20 4 = q0 ∧
    bitsAt (packG m cnt q0 q1 q2 q3 sl) 16 4 = q1 ∧
    bitsAt (packG m cnt q0 q1 q2 q3 sl) 12 4 = q2 ∧
    bitsAt (packG m cnt q0 q1 q2 q3 sl) 8 4 = q3 ∧
    bitsAt (packG m cnt q0 q1 q2 q3 sl) 4 4 = sl ∧
    bitsAt (packG m cnt q0 q1 q2 q3 sl) 0 4 = 0 := by
  simp only [packG, bitsAt]; omega

/-! ### The instructions -/

theorem RoundTrip.iadd (d : Dst) (a b : Src) : Statement (.iadd d a b) :=
  of_raw rfl (packR_lt (by decide) (Dst.bits_lt d) (Src.bits_lt a) (Src.bits_lt b) (by decide)) ((rawInt (Dst.bits_lt d) (Src.bits_lt a) (Src.bits_lt b) (by decide)).trans (fmt3_ok (dstOf_bits d) (srcOf_bits a) (srcOf_bits b)))

theorem RoundTrip.isub (d : Dst) (a b : Src) : Statement (.isub d a b) :=
  of_raw rfl (packR_lt (by decide) (Dst.bits_lt d) (Src.bits_lt a) (Src.bits_lt b) (by decide)) ((rawInt (Dst.bits_lt d) (Src.bits_lt a) (Src.bits_lt b) (by decide)).trans (fmt3_ok (dstOf_bits d) (srcOf_bits a) (srcOf_bits b)))

theorem RoundTrip.imul (d : Dst) (a b : Src) : Statement (.imul d a b) :=
  of_raw rfl (packR_lt (by decide) (Dst.bits_lt d) (Src.bits_lt a) (Src.bits_lt b) (by decide)) ((rawInt (Dst.bits_lt d) (Src.bits_lt a) (Src.bits_lt b) (by decide)).trans (fmt3_ok (dstOf_bits d) (srcOf_bits a) (srcOf_bits b)))

theorem RoundTrip.imulh (d : Dst) (a b : Src) : Statement (.imulh d a b) :=
  of_raw rfl (packR_lt (by decide) (Dst.bits_lt d) (Src.bits_lt a) (Src.bits_lt b) (by decide)) ((rawInt (Dst.bits_lt d) (Src.bits_lt a) (Src.bits_lt b) (by decide)).trans (fmt3_ok (dstOf_bits d) (srcOf_bits a) (srcOf_bits b)))

theorem RoundTrip.nmulh (d : Dst) (a b : Src) : Statement (.nmulh d a b) :=
  of_raw rfl (packR_lt (by decide) (Dst.bits_lt d) (Src.bits_lt a) (Src.bits_lt b) (by decide)) ((rawInt (Dst.bits_lt d) (Src.bits_lt a) (Src.bits_lt b) (by decide)).trans (fmt3_ok (dstOf_bits d) (srcOf_bits a) (srcOf_bits b)))

theorem RoundTrip.imad (d : Reg) (a b : Src) : Statement (.imad d a b) :=
  of_raw rfl (packR_lt (by decide) (lt_of_lt_of_le d.isLt (by decide)) (Src.bits_lt a) (Src.bits_lt b) (by decide)) ((rawInt (lt_of_lt_of_le d.isLt (by decide)) (Src.bits_lt a) (Src.bits_lt b) (by decide)).trans (fmt3_ok (regOf_toNat d) (srcOf_bits a) (srcOf_bits b)))

theorem RoundTrip.imin (d : Dst) (a b : Src) : Statement (.imin d a b) :=
  of_raw rfl (packR_lt (by decide) (Dst.bits_lt d) (Src.bits_lt a) (Src.bits_lt b) (by decide)) ((rawInt (Dst.bits_lt d) (Src.bits_lt a) (Src.bits_lt b) (by decide)).trans (fmt3_ok (dstOf_bits d) (srcOf_bits a) (srcOf_bits b)))

theorem RoundTrip.imax (d : Dst) (a b : Src) : Statement (.imax d a b) :=
  of_raw rfl (packR_lt (by decide) (Dst.bits_lt d) (Src.bits_lt a) (Src.bits_lt b) (by decide)) ((rawInt (Dst.bits_lt d) (Src.bits_lt a) (Src.bits_lt b) (by decide)).trans (fmt3_ok (dstOf_bits d) (srcOf_bits a) (srcOf_bits b)))

theorem RoundTrip.nmin (d : Dst) (a b : Src) : Statement (.nmin d a b) :=
  of_raw rfl (packR_lt (by decide) (Dst.bits_lt d) (Src.bits_lt a) (Src.bits_lt b) (by decide)) ((rawInt (Dst.bits_lt d) (Src.bits_lt a) (Src.bits_lt b) (by decide)).trans (fmt3_ok (dstOf_bits d) (srcOf_bits a) (srcOf_bits b)))

theorem RoundTrip.nmax (d : Dst) (a b : Src) : Statement (.nmax d a b) :=
  of_raw rfl (packR_lt (by decide) (Dst.bits_lt d) (Src.bits_lt a) (Src.bits_lt b) (by decide)) ((rawInt (Dst.bits_lt d) (Src.bits_lt a) (Src.bits_lt b) (by decide)).trans (fmt3_ok (dstOf_bits d) (srcOf_bits a) (srcOf_bits b)))

theorem RoundTrip.iabs (d : Dst) (a : Src) : Statement (.iabs d a) :=
  of_raw rfl (packR_lt (by decide) (Dst.bits_lt d) (Src.bits_lt a) (by decide) (by decide)) ((rawInt (Dst.bits_lt d) (Src.bits_lt a) (by decide) (by decide)).trans (fmt3_ok (dstOf_bits d) (srcOf_bits a) zeroOf_zero))

theorem RoundTrip.ineg (d : Dst) (a : Src) : Statement (.ineg d a) :=
  of_raw rfl (packR_lt (by decide) (Dst.bits_lt d) (Src.bits_lt a) (by decide) (by decide)) ((rawInt (Dst.bits_lt d) (Src.bits_lt a) (by decide) (by decide)).trans (fmt3_ok (dstOf_bits d) (srcOf_bits a) zeroOf_zero))

theorem RoundTrip.and (d : Dst) (a b : Src) : Statement (.and d a b) :=
  of_raw rfl (packR_lt (by decide) (Dst.bits_lt d) (Src.bits_lt a) (Src.bits_lt b) (by decide)) ((rawInt (Dst.bits_lt d) (Src.bits_lt a) (Src.bits_lt b) (by decide)).trans (fmt3_ok (dstOf_bits d) (srcOf_bits a) (srcOf_bits b)))

theorem RoundTrip.or (d : Dst) (a b : Src) : Statement (.or d a b) :=
  of_raw rfl (packR_lt (by decide) (Dst.bits_lt d) (Src.bits_lt a) (Src.bits_lt b) (by decide)) ((rawInt (Dst.bits_lt d) (Src.bits_lt a) (Src.bits_lt b) (by decide)).trans (fmt3_ok (dstOf_bits d) (srcOf_bits a) (srcOf_bits b)))

theorem RoundTrip.xor (d : Dst) (a b : Src) : Statement (.xor d a b) :=
  of_raw rfl (packR_lt (by decide) (Dst.bits_lt d) (Src.bits_lt a) (Src.bits_lt b) (by decide)) ((rawInt (Dst.bits_lt d) (Src.bits_lt a) (Src.bits_lt b) (by decide)).trans (fmt3_ok (dstOf_bits d) (srcOf_bits a) (srcOf_bits b)))

theorem RoundTrip.andn (d : Dst) (a b : Src) : Statement (.andn d a b) :=
  of_raw rfl (packR_lt (by decide) (Dst.bits_lt d) (Src.bits_lt a) (Src.bits_lt b) (by decide)) ((rawInt (Dst.bits_lt d) (Src.bits_lt a) (Src.bits_lt b) (by decide)).trans (fmt3_ok (dstOf_bits d) (srcOf_bits a) (srcOf_bits b)))

theorem RoundTrip.not (d : Dst) (a : Src) : Statement (.not d a) :=
  of_raw rfl (packR_lt (by decide) (Dst.bits_lt d) (Src.bits_lt a) (by decide) (by decide)) ((rawInt (Dst.bits_lt d) (Src.bits_lt a) (by decide) (by decide)).trans (fmt3_ok (dstOf_bits d) (srcOf_bits a) zeroOf_zero))

theorem RoundTrip.shl (d : Dst) (a : Src) (b : Reg) : Statement (.shl d a b) :=
  of_raw rfl (packR_lt (by decide) (Dst.bits_lt d) (Src.bits_lt a) (lt_of_lt_of_le b.isLt (by decide)) (by decide)) ((rawInt (Dst.bits_lt d) (Src.bits_lt a) (lt_of_lt_of_le b.isLt (by decide)) (by decide)).trans (fmt3_ok (dstOf_bits d) (srcOf_bits a) (regOf_toNat b)))

theorem RoundTrip.shr (d : Dst) (a : Src) (b : Reg) : Statement (.shr d a b) :=
  of_raw rfl (packR_lt (by decide) (Dst.bits_lt d) (Src.bits_lt a) (lt_of_lt_of_le b.isLt (by decide)) (by decide)) ((rawInt (Dst.bits_lt d) (Src.bits_lt a) (lt_of_lt_of_le b.isLt (by decide)) (by decide)).trans (fmt3_ok (dstOf_bits d) (srcOf_bits a) (regOf_toNat b)))

theorem RoundTrip.sar (d : Dst) (a : Src) (b : Reg) : Statement (.sar d a b) :=
  of_raw rfl (packR_lt (by decide) (Dst.bits_lt d) (Src.bits_lt a) (lt_of_lt_of_le b.isLt (by decide)) (by decide)) ((rawInt (Dst.bits_lt d) (Src.bits_lt a) (lt_of_lt_of_le b.isLt (by decide)) (by decide)).trans (fmt3_ok (dstOf_bits d) (srcOf_bits a) (regOf_toNat b)))

theorem RoundTrip.rotl (d : Dst) (a : Src) (b : Reg) : Statement (.rotl d a b) :=
  of_raw rfl (packR_lt (by decide) (Dst.bits_lt d) (Src.bits_lt a) (lt_of_lt_of_le b.isLt (by decide)) (by decide)) ((rawInt (Dst.bits_lt d) (Src.bits_lt a) (lt_of_lt_of_le b.isLt (by decide)) (by decide)).trans (fmt3_ok (dstOf_bits d) (srcOf_bits a) (regOf_toNat b)))

theorem RoundTrip.popc (d : Dst) (a : Src) : Statement (.popc d a) :=
  of_raw rfl (packR_lt (by decide) (Dst.bits_lt d) (Src.bits_lt a) (by decide) (by decide)) ((rawInt (Dst.bits_lt d) (Src.bits_lt a) (by decide) (by decide)).trans (fmt3_ok (dstOf_bits d) (srcOf_bits a) zeroOf_zero))

theorem RoundTrip.clz (d : Dst) (a : Src) : Statement (.clz d a) :=
  of_raw rfl (packR_lt (by decide) (Dst.bits_lt d) (Src.bits_lt a) (by decide) (by decide)) ((rawInt (Dst.bits_lt d) (Src.bits_lt a) (by decide) (by decide)).trans (fmt3_ok (dstOf_bits d) (srcOf_bits a) zeroOf_zero))

theorem RoundTrip.brev (d : Dst) (a : Src) : Statement (.brev d a) :=
  of_raw rfl (packR_lt (by decide) (Dst.bits_lt d) (Src.bits_lt a) (by decide) (by decide)) ((rawInt (Dst.bits_lt d) (Src.bits_lt a) (by decide) (by decide)).trans (fmt3_ok (dstOf_bits d) (srcOf_bits a) zeroOf_zero))

theorem RoundTrip.sel (d : Reg) (a b : Src) : Statement (.sel d a b) :=
  of_raw rfl (packR_lt (by decide) (lt_of_lt_of_le d.isLt (by decide)) (Src.bits_lt a) (Src.bits_lt b) (by decide)) ((rawInt (lt_of_lt_of_le d.isLt (by decide)) (Src.bits_lt a) (Src.bits_lt b) (by decide)).trans (fmt3_ok (regOf_toNat d) (srcOf_bits a) (srcOf_bits b)))

theorem RoundTrip.bfe (d : Dst) (a : Src) (b : Reg) : Statement (.bfe d a b) :=
  of_raw rfl (packR_lt (by decide) (Dst.bits_lt d) (Src.bits_lt a) (lt_of_lt_of_le b.isLt (by decide)) (by decide)) ((rawInt (Dst.bits_lt d) (Src.bits_lt a) (lt_of_lt_of_le b.isLt (by decide)) (by decide)).trans (fmt3_ok (dstOf_bits d) (srcOf_bits a) (regOf_toNat b)))

theorem RoundTrip.bfi (d : Reg) (a : Src) (b : Reg) : Statement (.bfi d a b) :=
  of_raw rfl (packR_lt (by decide) (lt_of_lt_of_le d.isLt (by decide)) (Src.bits_lt a) (lt_of_lt_of_le b.isLt (by decide)) (by decide)) ((rawInt (lt_of_lt_of_le d.isLt (by decide)) (Src.bits_lt a) (lt_of_lt_of_le b.isLt (by decide)) (by decide)).trans (fmt3_ok (regOf_toNat d) (srcOf_bits a) (regOf_toNat b)))

theorem RoundTrip.iadds (d : Dst) (a b : Src) : Statement (.iadds d a b) :=
  of_raw rfl (packR_lt (by decide) (Dst.bits_lt d) (Src.bits_lt a) (Src.bits_lt b) (by decide)) ((rawInt (Dst.bits_lt d) (Src.bits_lt a) (Src.bits_lt b) (by decide)).trans (fmt3_ok (dstOf_bits d) (srcOf_bits a) (srcOf_bits b)))

theorem RoundTrip.isubs (d : Dst) (a b : Src) : Statement (.isubs d a b) :=
  of_raw rfl (packR_lt (by decide) (Dst.bits_lt d) (Src.bits_lt a) (Src.bits_lt b) (by decide)) ((rawInt (Dst.bits_lt d) (Src.bits_lt a) (Src.bits_lt b) (by decide)).trans (fmt3_ok (dstOf_bits d) (srcOf_bits a) (srcOf_bits b)))

theorem RoundTrip.mov (d : Dst) (a : Src) : Statement (.mov d a) :=
  of_raw rfl (packR_lt (by decide) (Dst.bits_lt d) (Src.bits_lt a) (by decide) (by decide)) ((rawInt (Dst.bits_lt d) (Src.bits_lt a) (by decide) (by decide)).trans (fmt3_ok (dstOf_bits d) (srcOf_bits a) zeroOf_zero))

theorem RoundTrip.icmpEq (d : Dst) (a b : Src) : Statement (.icmpEq d a b) :=
  of_raw rfl (packR_lt (by decide) (Dst.bits_lt d) (Src.bits_lt a) (Src.bits_lt b) (by decide)) ((rawCmp (Dst.bits_lt d) (Src.bits_lt a) (Src.bits_lt b) (by decide)).trans (fmt3_ok (dstOf_bits d) (srcOf_bits a) (srcOf_bits b)))

theorem RoundTrip.icmpNe (d : Dst) (a b : Src) : Statement (.icmpNe d a b) :=
  of_raw rfl (packR_lt (by decide) (Dst.bits_lt d) (Src.bits_lt a) (Src.bits_lt b) (by decide)) ((rawCmp (Dst.bits_lt d) (Src.bits_lt a) (Src.bits_lt b) (by decide)).trans (fmt3_ok (dstOf_bits d) (srcOf_bits a) (srcOf_bits b)))

theorem RoundTrip.icmpLt (d : Dst) (a b : Src) : Statement (.icmpLt d a b) :=
  of_raw rfl (packR_lt (by decide) (Dst.bits_lt d) (Src.bits_lt a) (Src.bits_lt b) (by decide)) ((rawCmp (Dst.bits_lt d) (Src.bits_lt a) (Src.bits_lt b) (by decide)).trans (fmt3_ok (dstOf_bits d) (srcOf_bits a) (srcOf_bits b)))

theorem RoundTrip.icmpLe (d : Dst) (a b : Src) : Statement (.icmpLe d a b) :=
  of_raw rfl (packR_lt (by decide) (Dst.bits_lt d) (Src.bits_lt a) (Src.bits_lt b) (by decide)) ((rawCmp (Dst.bits_lt d) (Src.bits_lt a) (Src.bits_lt b) (by decide)).trans (fmt3_ok (dstOf_bits d) (srcOf_bits a) (srcOf_bits b)))

theorem RoundTrip.icmpGt (d : Dst) (a b : Src) : Statement (.icmpGt d a b) :=
  of_raw rfl (packR_lt (by decide) (Dst.bits_lt d) (Src.bits_lt a) (Src.bits_lt b) (by decide)) ((rawCmp (Dst.bits_lt d) (Src.bits_lt a) (Src.bits_lt b) (by decide)).trans (fmt3_ok (dstOf_bits d) (srcOf_bits a) (srcOf_bits b)))

theorem RoundTrip.icmpGe (d : Dst) (a b : Src) : Statement (.icmpGe d a b) :=
  of_raw rfl (packR_lt (by decide) (Dst.bits_lt d) (Src.bits_lt a) (Src.bits_lt b) (by decide)) ((rawCmp (Dst.bits_lt d) (Src.bits_lt a) (Src.bits_lt b) (by decide)).trans (fmt3_ok (dstOf_bits d) (srcOf_bits a) (srcOf_bits b)))

theorem RoundTrip.icmpLtn (d : Dst) (a b : Src) : Statement (.icmpLtn d a b) :=
  of_raw rfl (packR_lt (by decide) (Dst.bits_lt d) (Src.bits_lt a) (Src.bits_lt b) (by decide)) ((rawCmp (Dst.bits_lt d) (Src.bits_lt a) (Src.bits_lt b) (by decide)).trans (fmt3_ok (dstOf_bits d) (srcOf_bits a) (srcOf_bits b)))

theorem RoundTrip.icmpLen (d : Dst) (a b : Src) : Statement (.icmpLen d a b) :=
  of_raw rfl (packR_lt (by decide) (Dst.bits_lt d) (Src.bits_lt a) (Src.bits_lt b) (by decide)) ((rawCmp (Dst.bits_lt d) (Src.bits_lt a) (Src.bits_lt b) (by decide)).trans (fmt3_ok (dstOf_bits d) (srcOf_bits a) (srcOf_bits b)))

theorem RoundTrip.icmpGtn (d : Dst) (a b : Src) : Statement (.icmpGtn d a b) :=
  of_raw rfl (packR_lt (by decide) (Dst.bits_lt d) (Src.bits_lt a) (Src.bits_lt b) (by decide)) ((rawCmp (Dst.bits_lt d) (Src.bits_lt a) (Src.bits_lt b) (by decide)).trans (fmt3_ok (dstOf_bits d) (srcOf_bits a) (srcOf_bits b)))

theorem RoundTrip.icmpGen (d : Dst) (a b : Src) : Statement (.icmpGen d a b) :=
  of_raw rfl (packR_lt (by decide) (Dst.bits_lt d) (Src.bits_lt a) (Src.bits_lt b) (by decide)) ((rawCmp (Dst.bits_lt d) (Src.bits_lt a) (Src.bits_lt b) (by decide)).trans (fmt3_ok (dstOf_bits d) (srcOf_bits a) (srcOf_bits b)))

theorem RoundTrip.fcmpEq (d : Dst) (a b : Src) : Statement (.fcmpEq d a b) :=
  of_raw rfl (packR_lt (by decide) (Dst.bits_lt d) (Src.bits_lt a) (Src.bits_lt b) (by decide)) ((rawCmp (Dst.bits_lt d) (Src.bits_lt a) (Src.bits_lt b) (by decide)).trans (fmt3_ok (dstOf_bits d) (srcOf_bits a) (srcOf_bits b)))

theorem RoundTrip.fcmpNe (d : Dst) (a b : Src) : Statement (.fcmpNe d a b) :=
  of_raw rfl (packR_lt (by decide) (Dst.bits_lt d) (Src.bits_lt a) (Src.bits_lt b) (by decide)) ((rawCmp (Dst.bits_lt d) (Src.bits_lt a) (Src.bits_lt b) (by decide)).trans (fmt3_ok (dstOf_bits d) (srcOf_bits a) (srcOf_bits b)))

theorem RoundTrip.fcmpLt (d : Dst) (a b : Src) : Statement (.fcmpLt d a b) :=
  of_raw rfl (packR_lt (by decide) (Dst.bits_lt d) (Src.bits_lt a) (Src.bits_lt b) (by decide)) ((rawCmp (Dst.bits_lt d) (Src.bits_lt a) (Src.bits_lt b) (by decide)).trans (fmt3_ok (dstOf_bits d) (srcOf_bits a) (srcOf_bits b)))

theorem RoundTrip.fcmpLe (d : Dst) (a b : Src) : Statement (.fcmpLe d a b) :=
  of_raw rfl (packR_lt (by decide) (Dst.bits_lt d) (Src.bits_lt a) (Src.bits_lt b) (by decide)) ((rawCmp (Dst.bits_lt d) (Src.bits_lt a) (Src.bits_lt b) (by decide)).trans (fmt3_ok (dstOf_bits d) (srcOf_bits a) (srcOf_bits b)))

theorem RoundTrip.fcmpGt (d : Dst) (a b : Src) : Statement (.fcmpGt d a b) :=
  of_raw rfl (packR_lt (by decide) (Dst.bits_lt d) (Src.bits_lt a) (Src.bits_lt b) (by decide)) ((rawCmp (Dst.bits_lt d) (Src.bits_lt a) (Src.bits_lt b) (by decide)).trans (fmt3_ok (dstOf_bits d) (srcOf_bits a) (srcOf_bits b)))

theorem RoundTrip.fcmpGe (d : Dst) (a b : Src) : Statement (.fcmpGe d a b) :=
  of_raw rfl (packR_lt (by decide) (Dst.bits_lt d) (Src.bits_lt a) (Src.bits_lt b) (by decide)) ((rawCmp (Dst.bits_lt d) (Src.bits_lt a) (Src.bits_lt b) (by decide)).trans (fmt3_ok (dstOf_bits d) (srcOf_bits a) (srcOf_bits b)))

theorem RoundTrip.fcmpUn (d : Dst) (a b : Src) : Statement (.fcmpUn d a b) :=
  of_raw rfl (packR_lt (by decide) (Dst.bits_lt d) (Src.bits_lt a) (Src.bits_lt b) (by decide)) ((rawCmp (Dst.bits_lt d) (Src.bits_lt a) (Src.bits_lt b) (by decide)).trans (fmt3_ok (dstOf_bits d) (srcOf_bits a) (srcOf_bits b)))

theorem RoundTrip.fadd (d : Dst) (a b : Src) : Statement (.fadd d a b) :=
  of_raw rfl (packR_lt (by decide) (Dst.bits_lt d) (Src.bits_lt a) (Src.bits_lt b) (by decide)) ((rawFlt (Dst.bits_lt d) (Src.bits_lt a) (Src.bits_lt b) (by decide)).trans (fmt3_ok (dstOf_bits d) (srcOf_bits a) (srcOf_bits b)))

theorem RoundTrip.fsub (d : Dst) (a b : Src) : Statement (.fsub d a b) :=
  of_raw rfl (packR_lt (by decide) (Dst.bits_lt d) (Src.bits_lt a) (Src.bits_lt b) (by decide)) ((rawFlt (Dst.bits_lt d) (Src.bits_lt a) (Src.bits_lt b) (by decide)).trans (fmt3_ok (dstOf_bits d) (srcOf_bits a) (srcOf_bits b)))

theorem RoundTrip.fmul (d : Dst) (a b : Src) : Statement (.fmul d a b) :=
  of_raw rfl (packR_lt (by decide) (Dst.bits_lt d) (Src.bits_lt a) (Src.bits_lt b) (by decide)) ((rawFlt (Dst.bits_lt d) (Src.bits_lt a) (Src.bits_lt b) (by decide)).trans (fmt3_ok (dstOf_bits d) (srcOf_bits a) (srcOf_bits b)))

theorem RoundTrip.ffma (d : Reg) (a b : Src) : Statement (.ffma d a b) :=
  of_raw rfl (packR_lt (by decide) (lt_of_lt_of_le d.isLt (by decide)) (Src.bits_lt a) (Src.bits_lt b) (by decide)) ((rawFlt (lt_of_lt_of_le d.isLt (by decide)) (Src.bits_lt a) (Src.bits_lt b) (by decide)).trans (fmt3_ok (regOf_toNat d) (srcOf_bits a) (srcOf_bits b)))

theorem RoundTrip.fmin (d : Dst) (a b : Src) : Statement (.fmin d a b) :=
  of_raw rfl (packR_lt (by decide) (Dst.bits_lt d) (Src.bits_lt a) (Src.bits_lt b) (by decide)) ((rawFlt (Dst.bits_lt d) (Src.bits_lt a) (Src.bits_lt b) (by decide)).trans (fmt3_ok (dstOf_bits d) (srcOf_bits a) (srcOf_bits b)))

theorem RoundTrip.fmax (d : Dst) (a b : Src) : Statement (.fmax d a b) :=
  of_raw rfl (packR_lt (by decide) (Dst.bits_lt d) (Src.bits_lt a) (Src.bits_lt b) (by decide)) ((rawFlt (Dst.bits_lt d) (Src.bits_lt a) (Src.bits_lt b) (by decide)).trans (fmt3_ok (dstOf_bits d) (srcOf_bits a) (srcOf_bits b)))

theorem RoundTrip.fabs (d : Dst) (a : Src) : Statement (.fabs d a) :=
  of_raw rfl (packR_lt (by decide) (Dst.bits_lt d) (Src.bits_lt a) (by decide) (by decide)) ((rawFlt (Dst.bits_lt d) (Src.bits_lt a) (by decide) (by decide)).trans (fmt3_ok (dstOf_bits d) (srcOf_bits a) zeroOf_zero))

theorem RoundTrip.fneg (d : Dst) (a : Src) : Statement (.fneg d a) :=
  of_raw rfl (packR_lt (by decide) (Dst.bits_lt d) (Src.bits_lt a) (by decide) (by decide)) ((rawFlt (Dst.bits_lt d) (Src.bits_lt a) (by decide) (by decide)).trans (fmt3_ok (dstOf_bits d) (srcOf_bits a) zeroOf_zero))

theorem RoundTrip.fsgn (d : Dst) (a b : Src) : Statement (.fsgn d a b) :=
  of_raw rfl (packR_lt (by decide) (Dst.bits_lt d) (Src.bits_lt a) (Src.bits_lt b) (by decide)) ((rawFlt (Dst.bits_lt d) (Src.bits_lt a) (Src.bits_lt b) (by decide)).trans (fmt3_ok (dstOf_bits d) (srcOf_bits a) (srcOf_bits b)))

theorem RoundTrip.frcp (d : Dst) (a : Src) : Statement (.frcp d a) :=
  of_raw rfl (packR_lt (by decide) (Dst.bits_lt d) (Src.bits_lt a) (by decide) (by decide)) ((rawFlt (Dst.bits_lt d) (Src.bits_lt a) (by decide) (by decide)).trans (fmt3_ok (dstOf_bits d) (srcOf_bits a) zeroOf_zero))

theorem RoundTrip.frsq (d : Dst) (a : Src) : Statement (.frsq d a) :=
  of_raw rfl (packR_lt (by decide) (Dst.bits_lt d) (Src.bits_lt a) (by decide) (by decide)) ((rawFlt (Dst.bits_lt d) (Src.bits_lt a) (by decide) (by decide)).trans (fmt3_ok (dstOf_bits d) (srcOf_bits a) zeroOf_zero))

theorem RoundTrip.fsqrt (d : Dst) (a : Src) : Statement (.fsqrt d a) :=
  of_raw rfl (packR_lt (by decide) (Dst.bits_lt d) (Src.bits_lt a) (by decide) (by decide)) ((rawFlt (Dst.bits_lt d) (Src.bits_lt a) (by decide) (by decide)).trans (fmt3_ok (dstOf_bits d) (srcOf_bits a) zeroOf_zero))

theorem RoundTrip.fexp2 (d : Dst) (a : Src) : Statement (.fexp2 d a) :=
  of_raw rfl (packR_lt (by decide) (Dst.bits_lt d) (Src.bits_lt a) (by decide) (by decide)) ((rawFlt (Dst.bits_lt d) (Src.bits_lt a) (by decide) (by decide)).trans (fmt3_ok (dstOf_bits d) (srcOf_bits a) zeroOf_zero))

theorem RoundTrip.flog2 (d : Dst) (a : Src) : Statement (.flog2 d a) :=
  of_raw rfl (packR_lt (by decide) (Dst.bits_lt d) (Src.bits_lt a) (by decide) (by decide)) ((rawFlt (Dst.bits_lt d) (Src.bits_lt a) (by decide) (by decide)).trans (fmt3_ok (dstOf_bits d) (srcOf_bits a) zeroOf_zero))

theorem RoundTrip.fsin (d : Dst) (a : Src) : Statement (.fsin d a) :=
  of_raw rfl (packR_lt (by decide) (Dst.bits_lt d) (Src.bits_lt a) (by decide) (by decide)) ((rawFlt (Dst.bits_lt d) (Src.bits_lt a) (by decide) (by decide)).trans (fmt3_ok (dstOf_bits d) (srcOf_bits a) zeroOf_zero))

theorem RoundTrip.fcos (d : Dst) (a : Src) : Statement (.fcos d a) :=
  of_raw rfl (packR_lt (by decide) (Dst.bits_lt d) (Src.bits_lt a) (by decide) (by decide)) ((rawFlt (Dst.bits_lt d) (Src.bits_lt a) (by decide) (by decide)).trans (fmt3_ok (dstOf_bits d) (srcOf_bits a) zeroOf_zero))

theorem RoundTrip.ftanh (d : Dst) (a : Src) : Statement (.ftanh d a) :=
  of_raw rfl (packR_lt (by decide) (Dst.bits_lt d) (Src.bits_lt a) (by decide) (by decide)) ((rawFlt (Dst.bits_lt d) (Src.bits_lt a) (by decide) (by decide)).trans (fmt3_ok (dstOf_bits d) (srcOf_bits a) zeroOf_zero))

theorem RoundTrip.ffloor (d : Dst) (a : Src) : Statement (.ffloor d a) :=
  of_raw rfl (packR_lt (by decide) (Dst.bits_lt d) (Src.bits_lt a) (by decide) (by decide)) ((rawFlt (Dst.bits_lt d) (Src.bits_lt a) (by decide) (by decide)).trans (fmt3_ok (dstOf_bits d) (srcOf_bits a) zeroOf_zero))

theorem RoundTrip.fceil (d : Dst) (a : Src) : Statement (.fceil d a) :=
  of_raw rfl (packR_lt (by decide) (Dst.bits_lt d) (Src.bits_lt a) (by decide) (by decide)) ((rawFlt (Dst.bits_lt d) (Src.bits_lt a) (by decide) (by decide)).trans (fmt3_ok (dstOf_bits d) (srcOf_bits a) zeroOf_zero))

theorem RoundTrip.ftrunc (d : Dst) (a : Src) : Statement (.ftrunc d a) :=
  of_raw rfl (packR_lt (by decide) (Dst.bits_lt d) (Src.bits_lt a) (by decide) (by decide)) ((rawFlt (Dst.bits_lt d) (Src.bits_lt a) (by decide) (by decide)).trans (fmt3_ok (dstOf_bits d) (srcOf_bits a) zeroOf_zero))

theorem RoundTrip.frint (d : Dst) (a : Src) : Statement (.frint d a) :=
  of_raw rfl (packR_lt (by decide) (Dst.bits_lt d) (Src.bits_lt a) (by decide) (by decide)) ((rawFlt (Dst.bits_lt d) (Src.bits_lt a) (by decide) (by decide)).trans (fmt3_ok (dstOf_bits d) (srcOf_bits a) zeroOf_zero))

theorem RoundTrip.fclass (d : Dst) (a : Src) : Statement (.fclass d a) :=
  of_raw rfl (packR_lt (by decide) (Dst.bits_lt d) (Src.bits_lt a) (by decide) (by decide)) ((rawFlt (Dst.bits_lt d) (Src.bits_lt a) (by decide) (by decide)).trans (fmt3_ok (dstOf_bits d) (srcOf_bits a) zeroOf_zero))

theorem RoundTrip.fscale (d : Dst) (a : Src) (b : Reg) : Statement (.fscale d a b) :=
  of_raw rfl (packR_lt (by decide) (Dst.bits_lt d) (Src.bits_lt a) (lt_of_lt_of_le b.isLt (by decide)) (by decide)) ((rawFlt (Dst.bits_lt d) (Src.bits_lt a) (lt_of_lt_of_le b.isLt (by decide)) (by decide)).trans (fmt3_ok (dstOf_bits d) (srcOf_bits a) (regOf_toNat b)))

theorem RoundTrip.ffms (d : Reg) (a b : Src) : Statement (.ffms d a b) :=
  of_raw rfl (packR_lt (by decide) (lt_of_lt_of_le d.isLt (by decide)) (Src.bits_lt a) (Src.bits_lt b) (by decide)) ((rawFlt (lt_of_lt_of_le d.isLt (by decide)) (Src.bits_lt a) (Src.bits_lt b) (by decide)).trans (fmt3_ok (regOf_toNat d) (srcOf_bits a) (srcOf_bits b)))

theorem RoundTrip.cvtF32I32 (d : Dst) (a : Src) : Statement (.cvtF32I32 d a) :=
  of_raw rfl (packR_lt (by decide) (Dst.bits_lt d) (Src.bits_lt a) (by decide) (by decide)) ((rawCvt (Dst.bits_lt d) (Src.bits_lt a) (by decide) (by decide)).trans (fmt3_ok (dstOf_bits d) (srcOf_bits a) zeroOf_zero))

theorem RoundTrip.cvtF32N32 (d : Dst) (a : Src) : Statement (.cvtF32N32 d a) :=
  of_raw rfl (packR_lt (by decide) (Dst.bits_lt d) (Src.bits_lt a) (by decide) (by decide)) ((rawCvt (Dst.bits_lt d) (Src.bits_lt a) (by decide) (by decide)).trans (fmt3_ok (dstOf_bits d) (srcOf_bits a) zeroOf_zero))

theorem RoundTrip.cvtI32F32 (d : Dst) (a : Src) : Statement (.cvtI32F32 d a) :=
  of_raw rfl (packR_lt (by decide) (Dst.bits_lt d) (Src.bits_lt a) (by decide) (by decide)) ((rawCvt (Dst.bits_lt d) (Src.bits_lt a) (by decide) (by decide)).trans (fmt3_ok (dstOf_bits d) (srcOf_bits a) zeroOf_zero))

theorem RoundTrip.cvtN32F32 (d : Dst) (a : Src) : Statement (.cvtN32F32 d a) :=
  of_raw rfl (packR_lt (by decide) (Dst.bits_lt d) (Src.bits_lt a) (by decide) (by decide)) ((rawCvt (Dst.bits_lt d) (Src.bits_lt a) (by decide) (by decide)).trans (fmt3_ok (dstOf_bits d) (srcOf_bits a) zeroOf_zero))

theorem RoundTrip.cvtI32F32Rn (d : Dst) (a : Src) : Statement (.cvtI32F32Rn d a) :=
  of_raw rfl (packR_lt (by decide) (Dst.bits_lt d) (Src.bits_lt a) (by decide) (by decide)) ((rawCvt (Dst.bits_lt d) (Src.bits_lt a) (by decide) (by decide)).trans (fmt3_ok (dstOf_bits d) (srcOf_bits a) zeroOf_zero))

theorem RoundTrip.cvtF16F32 (d : Dst) (a : Src) : Statement (.cvtF16F32 d a) :=
  of_raw rfl (packR_lt (by decide) (Dst.bits_lt d) (Src.bits_lt a) (by decide) (by decide)) ((rawCvt (Dst.bits_lt d) (Src.bits_lt a) (by decide) (by decide)).trans (fmt3_ok (dstOf_bits d) (srcOf_bits a) zeroOf_zero))

theorem RoundTrip.cvtF32F16 (d : Dst) (a : Src) : Statement (.cvtF32F16 d a) :=
  of_raw rfl (packR_lt (by decide) (Dst.bits_lt d) (Src.bits_lt a) (by decide) (by decide)) ((rawCvt (Dst.bits_lt d) (Src.bits_lt a) (by decide) (by decide)).trans (fmt3_ok (dstOf_bits d) (srcOf_bits a) zeroOf_zero))

theorem RoundTrip.cvtE8m7F32 (d : Dst) (a : Src) : Statement (.cvtE8m7F32 d a) :=
  of_raw rfl (packR_lt (by decide) (Dst.bits_lt d) (Src.bits_lt a) (by decide) (by decide)) ((rawCvt (Dst.bits_lt d) (Src.bits_lt a) (by decide) (by decide)).trans (fmt3_ok (dstOf_bits d) (srcOf_bits a) zeroOf_zero))

theorem RoundTrip.cvtF32E8m7 (d : Dst) (a : Src) : Statement (.cvtF32E8m7 d a) :=
  of_raw rfl (packR_lt (by decide) (Dst.bits_lt d) (Src.bits_lt a) (by decide) (by decide)) ((rawCvt (Dst.bits_lt d) (Src.bits_lt a) (by decide) (by decide)).trans (fmt3_ok (dstOf_bits d) (srcOf_bits a) zeroOf_zero))

theorem RoundTrip.packF16 (d : Dst) (a b : Src) : Statement (.packF16 d a b) :=
  of_raw rfl (packR_lt (by decide) (Dst.bits_lt d) (Src.bits_lt a) (Src.bits_lt b) (by decide)) ((rawCvt (Dst.bits_lt d) (Src.bits_lt a) (Src.bits_lt b) (by decide)).trans (fmt3_ok (dstOf_bits d) (srcOf_bits a) (srcOf_bits b)))

theorem RoundTrip.packE8m7 (d : Dst) (a b : Src) : Statement (.packE8m7 d a b) :=
  of_raw rfl (packR_lt (by decide) (Dst.bits_lt d) (Src.bits_lt a) (Src.bits_lt b) (by decide)) ((rawCvt (Dst.bits_lt d) (Src.bits_lt a) (Src.bits_lt b) (by decide)).trans (fmt3_ok (dstOf_bits d) (srcOf_bits a) (srcOf_bits b)))

theorem RoundTrip.sext8 (d : Dst) (a : Src) : Statement (.sext8 d a) :=
  of_raw rfl (packR_lt (by decide) (Dst.bits_lt d) (Src.bits_lt a) (by decide) (by decide)) ((rawCvt (Dst.bits_lt d) (Src.bits_lt a) (by decide) (by decide)).trans (fmt3_ok (dstOf_bits d) (srcOf_bits a) zeroOf_zero))

theorem RoundTrip.sext16 (d : Dst) (a : Src) : Statement (.sext16 d a) :=
  of_raw rfl (packR_lt (by decide) (Dst.bits_lt d) (Src.bits_lt a) (by decide) (by decide)) ((rawCvt (Dst.bits_lt d) (Src.bits_lt a) (by decide) (by decide)).trans (fmt3_ok (dstOf_bits d) (srcOf_bits a) zeroOf_zero))

theorem RoundTrip.zext8 (d : Dst) (a : Src) : Statement (.zext8 d a) :=
  of_raw rfl (packR_lt (by decide) (Dst.bits_lt d) (Src.bits_lt a) (by decide) (by decide)) ((rawCvt (Dst.bits_lt d) (Src.bits_lt a) (by decide) (by decide)).trans (fmt3_ok (dstOf_bits d) (srcOf_bits a) zeroOf_zero))

theorem RoundTrip.zext16 (d : Dst) (a : Src) : Statement (.zext16 d a) :=
  of_raw rfl (packR_lt (by decide) (Dst.bits_lt d) (Src.bits_lt a) (by decide) (by decide)) ((rawCvt (Dst.bits_lt d) (Src.bits_lt a) (by decide) (by decide)).trans (fmt3_ok (dstOf_bits d) (srcOf_bits a) zeroOf_zero))

theorem RoundTrip.haddF16 (d : Dst) (a b : Src) : Statement (.haddF16 d a b) :=
  of_raw rfl (packR_lt (by decide) (Dst.bits_lt d) (Src.bits_lt a) (Src.bits_lt b) (by decide)) ((rawPk16 (Dst.bits_lt d) (Src.bits_lt a) (Src.bits_lt b) (by decide)).trans (fmt3_ok (dstOf_bits d) (srcOf_bits a) (srcOf_bits b)))

theorem RoundTrip.hmulF16 (d : Dst) (a b : Src) : Statement (.hmulF16 d a b) :=
  of_raw rfl (packR_lt (by decide) (Dst.bits_lt d) (Src.bits_lt a) (Src.bits_lt b) (by decide)) ((rawPk16 (Dst.bits_lt d) (Src.bits_lt a) (Src.bits_lt b) (by decide)).trans (fmt3_ok (dstOf_bits d) (srcOf_bits a) (srcOf_bits b)))

theorem RoundTrip.hfmaF16 (d : Reg) (a b : Src) : Statement (.hfmaF16 d a b) :=
  of_raw rfl (packR_lt (by decide) (lt_of_lt_of_le d.isLt (by decide)) (Src.bits_lt a) (Src.bits_lt b) (by decide)) ((rawPk16 (lt_of_lt_of_le d.isLt (by decide)) (Src.bits_lt a) (Src.bits_lt b) (by decide)).trans (fmt3_ok (regOf_toNat d) (srcOf_bits a) (srcOf_bits b)))

theorem RoundTrip.hminF16 (d : Dst) (a b : Src) : Statement (.hminF16 d a b) :=
  of_raw rfl (packR_lt (by decide) (Dst.bits_lt d) (Src.bits_lt a) (Src.bits_lt b) (by decide)) ((rawPk16 (Dst.bits_lt d) (Src.bits_lt a) (Src.bits_lt b) (by decide)).trans (fmt3_ok (dstOf_bits d) (srcOf_bits a) (srcOf_bits b)))

theorem RoundTrip.hmaxF16 (d : Dst) (a b : Src) : Statement (.hmaxF16 d a b) :=
  of_raw rfl (packR_lt (by decide) (Dst.bits_lt d) (Src.bits_lt a) (Src.bits_lt b) (by decide)) ((rawPk16 (Dst.bits_lt d) (Src.bits_lt a) (Src.bits_lt b) (by decide)).trans (fmt3_ok (dstOf_bits d) (srcOf_bits a) (srcOf_bits b)))

theorem RoundTrip.hdotF16 (d : Reg) (a b : Src) : Statement (.hdotF16 d a b) :=
  of_raw rfl (packR_lt (by decide) (lt_of_lt_of_le d.isLt (by decide)) (Src.bits_lt a) (Src.bits_lt b) (by decide)) ((rawPk16 (lt_of_lt_of_le d.isLt (by decide)) (Src.bits_lt a) (Src.bits_lt b) (by decide)).trans (fmt3_ok (regOf_toNat d) (srcOf_bits a) (srcOf_bits b)))

theorem RoundTrip.haddE8m7 (d : Dst) (a b : Src) : Statement (.haddE8m7 d a b) :=
  of_raw rfl (packR_lt (by decide) (Dst.bits_lt d) (Src.bits_lt a) (Src.bits_lt b) (by decide)) ((rawPk16 (Dst.bits_lt d) (Src.bits_lt a) (Src.bits_lt b) (by decide)).trans (fmt3_ok (dstOf_bits d) (srcOf_bits a) (srcOf_bits b)))

theorem RoundTrip.hmulE8m7 (d : Dst) (a b : Src) : Statement (.hmulE8m7 d a b) :=
  of_raw rfl (packR_lt (by decide) (Dst.bits_lt d) (Src.bits_lt a) (Src.bits_lt b) (by decide)) ((rawPk16 (Dst.bits_lt d) (Src.bits_lt a) (Src.bits_lt b) (by decide)).trans (fmt3_ok (dstOf_bits d) (srcOf_bits a) (srcOf_bits b)))

theorem RoundTrip.hfmaE8m7 (d : Reg) (a b : Src) : Statement (.hfmaE8m7 d a b) :=
  of_raw rfl (packR_lt (by decide) (lt_of_lt_of_le d.isLt (by decide)) (Src.bits_lt a) (Src.bits_lt b) (by decide)) ((rawPk16 (lt_of_lt_of_le d.isLt (by decide)) (Src.bits_lt a) (Src.bits_lt b) (by decide)).trans (fmt3_ok (regOf_toNat d) (srcOf_bits a) (srcOf_bits b)))

theorem RoundTrip.hminE8m7 (d : Dst) (a b : Src) : Statement (.hminE8m7 d a b) :=
  of_raw rfl (packR_lt (by decide) (Dst.bits_lt d) (Src.bits_lt a) (Src.bits_lt b) (by decide)) ((rawPk16 (Dst.bits_lt d) (Src.bits_lt a) (Src.bits_lt b) (by decide)).trans (fmt3_ok (dstOf_bits d) (srcOf_bits a) (srcOf_bits b)))

theorem RoundTrip.hmaxE8m7 (d : Dst) (a b : Src) : Statement (.hmaxE8m7 d a b) :=
  of_raw rfl (packR_lt (by decide) (Dst.bits_lt d) (Src.bits_lt a) (Src.bits_lt b) (by decide)) ((rawPk16 (Dst.bits_lt d) (Src.bits_lt a) (Src.bits_lt b) (by decide)).trans (fmt3_ok (dstOf_bits d) (srcOf_bits a) (srcOf_bits b)))

theorem RoundTrip.hdotE8m7 (d : Reg) (a b : Src) : Statement (.hdotE8m7 d a b) :=
  of_raw rfl (packR_lt (by decide) (lt_of_lt_of_le d.isLt (by decide)) (Src.bits_lt a) (Src.bits_lt b) (by decide)) ((rawPk16 (lt_of_lt_of_le d.isLt (by decide)) (Src.bits_lt a) (Src.bits_lt b) (by decide)).trans (fmt3_ok (regOf_toNat d) (srcOf_bits a) (srcOf_bits b)))

theorem RoundTrip.qswpH (d : Dst) (a : Src) : Statement (.qswpH d a) :=
  of_raw rfl (packR_lt (by decide) (Dst.bits_lt d) (Src.bits_lt a) (by decide) (by decide)) ((rawXch (Dst.bits_lt d) (Src.bits_lt a) (by decide) (by decide)).trans (fmt3_ok (dstOf_bits d) (srcOf_bits a) zeroOf_zero))

theorem RoundTrip.qswpV (d : Dst) (a : Src) : Statement (.qswpV d a) :=
  of_raw rfl (packR_lt (by decide) (Dst.bits_lt d) (Src.bits_lt a) (by decide) (by decide)) ((rawXch (Dst.bits_lt d) (Src.bits_lt a) (by decide) (by decide)).trans (fmt3_ok (dstOf_bits d) (srcOf_bits a) zeroOf_zero))

theorem RoundTrip.qswpD (d : Dst) (a : Src) : Statement (.qswpD d a) :=
  of_raw rfl (packR_lt (by decide) (Dst.bits_lt d) (Src.bits_lt a) (by decide) (by decide)) ((rawXch (Dst.bits_lt d) (Src.bits_lt a) (by decide) (by decide)).trans (fmt3_ok (dstOf_bits d) (srcOf_bits a) zeroOf_zero))

theorem RoundTrip.qbc (d : Dst) (a : Src) : Statement (.qbc d a) :=
  of_raw rfl (packR_lt (by decide) (Dst.bits_lt d) (Src.bits_lt a) (by decide) (by decide)) ((rawXch (Dst.bits_lt d) (Src.bits_lt a) (by decide) (by decide)).trans (fmt3_ok (dstOf_bits d) (srcOf_bits a) zeroOf_zero))

theorem RoundTrip.shflIdx (d : Dst) (a : Src) (b : Reg) : Statement (.shflIdx d a b) :=
  of_raw rfl (packR_lt (by decide) (Dst.bits_lt d) (Src.bits_lt a) (lt_of_lt_of_le b.isLt (by decide)) (by decide)) ((rawXch (Dst.bits_lt d) (Src.bits_lt a) (lt_of_lt_of_le b.isLt (by decide)) (by decide)).trans (fmt3_ok (dstOf_bits d) (srcOf_bits a) (regOf_toNat b)))

theorem RoundTrip.shflUp (d : Dst) (a : Src) (b : Reg) : Statement (.shflUp d a b) :=
  of_raw rfl (packR_lt (by decide) (Dst.bits_lt d) (Src.bits_lt a) (lt_of_lt_of_le b.isLt (by decide)) (by decide)) ((rawXch (Dst.bits_lt d) (Src.bits_lt a) (lt_of_lt_of_le b.isLt (by decide)) (by decide)).trans (fmt3_ok (dstOf_bits d) (srcOf_bits a) (regOf_toNat b)))

theorem RoundTrip.shflDn (d : Dst) (a : Src) (b : Reg) : Statement (.shflDn d a b) :=
  of_raw rfl (packR_lt (by decide) (Dst.bits_lt d) (Src.bits_lt a) (lt_of_lt_of_le b.isLt (by decide)) (by decide)) ((rawXch (Dst.bits_lt d) (Src.bits_lt a) (lt_of_lt_of_le b.isLt (by decide)) (by decide)).trans (fmt3_ok (dstOf_bits d) (srcOf_bits a) (regOf_toNat b)))

theorem RoundTrip.shflXor (d : Dst) (a : Src) (b : Reg) : Statement (.shflXor d a b) :=
  of_raw rfl (packR_lt (by decide) (Dst.bits_lt d) (Src.bits_lt a) (lt_of_lt_of_le b.isLt (by decide)) (by decide)) ((rawXch (Dst.bits_lt d) (Src.bits_lt a) (lt_of_lt_of_le b.isLt (by decide)) (by decide)).trans (fmt3_ok (dstOf_bits d) (srcOf_bits a) (regOf_toNat b)))

theorem RoundTrip.voteAny (d : Dst) (a : Reg) : Statement (.voteAny d a) :=
  of_raw rfl (packR_lt (by decide) (Dst.bits_lt d) (lt_of_lt_of_le a.isLt (by decide)) (by decide) (by decide)) ((rawXch (Dst.bits_lt d) (lt_of_lt_of_le a.isLt (by decide)) (by decide) (by decide)).trans (fmt3_ok (dstOf_bits d) (regOf_toNat a) zeroOf_zero))

theorem RoundTrip.voteAll (d : Dst) (a : Reg) : Statement (.voteAll d a) :=
  of_raw rfl (packR_lt (by decide) (Dst.bits_lt d) (lt_of_lt_of_le a.isLt (by decide)) (by decide) (by decide)) ((rawXch (Dst.bits_lt d) (lt_of_lt_of_le a.isLt (by decide)) (by decide) (by decide)).trans (fmt3_ok (dstOf_bits d) (regOf_toNat a) zeroOf_zero))

theorem RoundTrip.voteMask (d a : Reg) : Statement (.voteMask d a) :=
  of_raw rfl (packR_lt (by decide) (lt_of_lt_of_le d.isLt (by decide)) (lt_of_lt_of_le a.isLt (by decide)) (by decide) (by decide)) ((rawXch (lt_of_lt_of_le d.isLt (by decide)) (lt_of_lt_of_le a.isLt (by decide)) (by decide) (by decide)).trans (fmt3_ok (regOf_toNat d) (regOf_toNat a) zeroOf_zero))

theorem RoundTrip.voteEq (d : Dst) (a : Reg) : Statement (.voteEq d a) :=
  of_raw rfl (packR_lt (by decide) (Dst.bits_lt d) (lt_of_lt_of_le a.isLt (by decide)) (by decide) (by decide)) ((rawXch (Dst.bits_lt d) (lt_of_lt_of_le a.isLt (by decide)) (by decide) (by decide)).trans (fmt3_ok (dstOf_bits d) (regOf_toNat a) zeroOf_zero))

theorem RoundTrip.redIadd (d : Dst) (a : Src) : Statement (.redIadd d a) :=
  of_raw rfl (packR_lt (by decide) (Dst.bits_lt d) (Src.bits_lt a) (by decide) (by decide)) ((rawXch (Dst.bits_lt d) (Src.bits_lt a) (by decide) (by decide)).trans (fmt3_ok (dstOf_bits d) (srcOf_bits a) zeroOf_zero))

theorem RoundTrip.redImin (d : Dst) (a : Src) : Statement (.redImin d a) :=
  of_raw rfl (packR_lt (by decide) (Dst.bits_lt d) (Src.bits_lt a) (by decide) (by decide)) ((rawXch (Dst.bits_lt d) (Src.bits_lt a) (by decide) (by decide)).trans (fmt3_ok (dstOf_bits d) (srcOf_bits a) zeroOf_zero))

theorem RoundTrip.redImax (d : Dst) (a : Src) : Statement (.redImax d a) :=
  of_raw rfl (packR_lt (by decide) (Dst.bits_lt d) (Src.bits_lt a) (by decide) (by decide)) ((rawXch (Dst.bits_lt d) (Src.bits_lt a) (by decide) (by decide)).trans (fmt3_ok (dstOf_bits d) (srcOf_bits a) zeroOf_zero))

theorem RoundTrip.redFadd (d : Dst) (a : Src) : Statement (.redFadd d a) :=
  of_raw rfl (packR_lt (by decide) (Dst.bits_lt d) (Src.bits_lt a) (by decide) (by decide)) ((rawXch (Dst.bits_lt d) (Src.bits_lt a) (by decide) (by decide)).trans (fmt3_ok (dstOf_bits d) (srcOf_bits a) zeroOf_zero))

theorem RoundTrip.redFmin (d : Dst) (a : Src) : Statement (.redFmin d a) :=
  of_raw rfl (packR_lt (by decide) (Dst.bits_lt d) (Src.bits_lt a) (by decide) (by decide)) ((rawXch (Dst.bits_lt d) (Src.bits_lt a) (by decide) (by decide)).trans (fmt3_ok (dstOf_bits d) (srcOf_bits a) zeroOf_zero))

theorem RoundTrip.redFmax (d : Dst) (a : Src) : Statement (.redFmax d a) :=
  of_raw rfl (packR_lt (by decide) (Dst.bits_lt d) (Src.bits_lt a) (by decide) (by decide)) ((rawXch (Dst.bits_lt d) (Src.bits_lt a) (by decide) (by decide)).trans (fmt3_ok (dstOf_bits d) (srcOf_bits a) zeroOf_zero))

theorem RoundTrip.matchLane (d : Dst) (a : Src) : Statement (.matchLane d a) :=
  of_raw rfl (packR_lt (by decide) (Dst.bits_lt d) (Src.bits_lt a) (by decide) (by decide)) ((rawXch (Dst.bits_lt d) (Src.bits_lt a) (by decide) (by decide)).trans (fmt3_ok (dstOf_bits d) (srcOf_bits a) zeroOf_zero))

theorem RoundTrip.iaddi (d : Dst) (a : Src) (imm : BitVec 12) : Statement (.iaddi d a imm) := by
  obtain ⟨h0, h1, h2, h3, h4⟩ := packI_bits (m := 8) (d := d.bits) (a := a.bits) (imm := imm.toNat) (by decide) (Dst.bits_lt d) (Src.bits_lt a) imm.isLt
  refine of_raw rfl h0 ?_
  rw [decodeRaw, h1, maj8, h2, h3, h4]
  refine (fmt2_ok (dstOf_bits d) (srcOf_bits a)).trans ?_
  simp only [BitVec.ofNat_toNat, BitVec.setWidth_eq, spelled]

theorem RoundTrip.andi (d : Dst) (a : Src) (imm : BitVec 12) : Statement (.andi d a imm) := by
  obtain ⟨h0, h1, h2, h3, h4⟩ := packI_bits (m := 9) (d := d.bits) (a := a.bits) (imm := imm.toNat) (by decide) (Dst.bits_lt d) (Src.bits_lt a) imm.isLt
  refine of_raw rfl h0 ?_
  rw [decodeRaw, h1, maj9, h2, h3, h4]
  refine (fmt2_ok (dstOf_bits d) (srcOf_bits a)).trans ?_
  simp only [BitVec.ofNat_toNat, BitVec.setWidth_eq, spelled]

theorem RoundTrip.ori (d : Dst) (a : Src) (imm : BitVec 12) : Statement (.ori d a imm) := by
  obtain ⟨h0, h1, h2, h3, h4⟩ := packI_bits (m := 10) (d := d.bits) (a := a.bits) (imm := imm.toNat) (by decide) (Dst.bits_lt d) (Src.bits_lt a) imm.isLt
  refine of_raw rfl h0 ?_
  rw [decodeRaw, h1, maj10, h2, h3, h4]
  refine (fmt2_ok (dstOf_bits d) (srcOf_bits a)).trans ?_
  simp only [BitVec.ofNat_toNat, BitVec.setWidth_eq, spelled]

theorem RoundTrip.xori (d : Dst) (a : Src) (imm : BitVec 12) : Statement (.xori d a imm) := by
  obtain ⟨h0, h1, h2, h3, h4⟩ := packI_bits (m := 11) (d := d.bits) (a := a.bits) (imm := imm.toNat) (by decide) (Dst.bits_lt d) (Src.bits_lt a) imm.isLt
  refine of_raw rfl h0 ?_
  rw [decodeRaw, h1, maj11, h2, h3, h4]
  refine (fmt2_ok (dstOf_bits d) (srcOf_bits a)).trans ?_
  simp only [BitVec.ofNat_toNat, BitVec.setWidth_eq, spelled]

theorem RoundTrip.shli (d : Dst) (a : Src) (imm : BitVec 12) : Statement (.shli d a imm) := by
  obtain ⟨h0, h1, h2, h3, h4⟩ := packI_bits (m := 12) (d := d.bits) (a := a.bits) (imm := imm.toNat) (by decide) (Dst.bits_lt d) (Src.bits_lt a) imm.isLt
  refine of_raw rfl h0 ?_
  rw [decodeRaw, h1, maj12, h2, h3, h4]
  refine (fmt2_ok (dstOf_bits d) (srcOf_bits a)).trans ?_
  simp only [BitVec.ofNat_toNat, BitVec.setWidth_eq, spelled]

theorem RoundTrip.shri (d : Dst) (a : Src) (imm : BitVec 12) : Statement (.shri d a imm) := by
  obtain ⟨h0, h1, h2, h3, h4⟩ := packI_bits (m := 13) (d := d.bits) (a := a.bits) (imm := imm.toNat) (by decide) (Dst.bits_lt d) (Src.bits_lt a) imm.isLt
  refine of_raw rfl h0 ?_
  rw [decodeRaw, h1, maj13, h2, h3, h4]
  refine (fmt2_ok (dstOf_bits d) (srcOf_bits a)).trans ?_
  simp only [BitVec.ofNat_toNat, BitVec.setWidth_eq, spelled]

theorem RoundTrip.sari (d : Dst) (a : Src) (imm : BitVec 12) : Statement (.sari d a imm) := by
  obtain ⟨h0, h1, h2, h3, h4⟩ := packI_bits (m := 14) (d := d.bits) (a := a.bits) (imm := imm.toNat) (by decide) (Dst.bits_lt d) (Src.bits_lt a) imm.isLt
  refine of_raw rfl h0 ?_
  rw [decodeRaw, h1, maj14, h2, h3, h4]
  refine (fmt2_ok (dstOf_bits d) (srcOf_bits a)).trans ?_
  simp only [BitVec.ofNat_toNat, BitVec.setWidth_eq, spelled]

theorem RoundTrip.movi (d : Dst) (imm : BitVec 12) : Statement (.movi d imm) := by
  obtain ⟨h0, h1, h2, h3, h4⟩ := packI_bits (m := 15) (d := d.bits) (a := 0) (imm := imm.toNat) (by decide) (Dst.bits_lt d) (by decide) imm.isLt
  refine of_raw rfl h0 ?_
  rw [decodeRaw, h1, maj15, h2, h3, h4]
  refine (fmt2_ok (dstOf_bits d) zeroOf_zero).trans ?_
  simp only [BitVec.ofNat_toNat, BitVec.setWidth_eq, spelled]

theorem RoundTrip.imuli (d : Dst) (a : Src) (imm : BitVec 12) : Statement (.imuli d a imm) := by
  obtain ⟨h0, h1, h2, h3, h4⟩ := packI_bits (m := 16) (d := d.bits) (a := a.bits) (imm := imm.toNat) (by decide) (Dst.bits_lt d) (Src.bits_lt a) imm.isLt
  refine of_raw rfl h0 ?_
  rw [decodeRaw, h1, maj16, h2, h3, h4]
  refine (fmt2_ok (dstOf_bits d) (srcOf_bits a)).trans ?_
  simp only [BitVec.ofNat_toNat, BitVec.setWidth_eq, spelled]

theorem RoundTrip.ldb (d : Dst) (c : Quad) (imm : BitVec 15) : Statement (.ldb d c imm) := by
  obtain ⟨h0, h1, h2, h3, h4⟩ := packM_bits (m := 17) (d := d.bits) (c := c.toNat) (imm := imm.toNat) (by decide) (Dst.bits_lt d) c.isLt imm.isLt
  refine of_raw rfl h0 ?_
  rw [decodeRaw, h1, maj17, h2, h3, h4]
  refine (fmt1_ok (dstOf_bits d)).trans ?_
  simp only [BitVec.ofNat_toNat, BitVec.setWidth_eq, spelled]

theorem RoundTrip.ldbn (d : Dst) (c : Quad) (imm : BitVec 15) : Statement (.ldbn d c imm) := by
  obtain ⟨h0, h1, h2, h3, h4⟩ := packM_bits (m := 18) (d := d.bits) (c := c.toNat) (imm := imm.toNat) (by decide) (Dst.bits_lt d) c.isLt imm.isLt
  refine of_raw rfl h0 ?_
  rw [decodeRaw, h1, maj18, h2, h3, h4]
  refine (fmt1_ok (dstOf_bits d)).trans ?_
  simp only [BitVec.ofNat_toNat, BitVec.setWidth_eq, spelled]

theorem RoundTrip.ldh (d : Dst) (c : Quad) (imm : BitVec 15) : Statement (.ldh d c imm) := by
  obtain ⟨h0, h1, h2, h3, h4⟩ := packM_bits (m := 19) (d := d.bits) (c := c.toNat) (imm := imm.toNat) (by decide) (Dst.bits_lt d) c.isLt imm.isLt
  refine of_raw rfl h0 ?_
  rw [decodeRaw, h1, maj19, h2, h3, h4]
  refine (fmt1_ok (dstOf_bits d)).trans ?_
  simp only [BitVec.ofNat_toNat, BitVec.setWidth_eq, spelled]

theorem RoundTrip.ldhn (d : Dst) (c : Quad) (imm : BitVec 15) : Statement (.ldhn d c imm) := by
  obtain ⟨h0, h1, h2, h3, h4⟩ := packM_bits (m := 20) (d := d.bits) (c := c.toNat) (imm := imm.toNat) (by decide) (Dst.bits_lt d) c.isLt imm.isLt
  refine of_raw rfl h0 ?_
  rw [decodeRaw, h1, maj20, h2, h3, h4]
  refine (fmt1_ok (dstOf_bits d)).trans ?_
  simp only [BitVec.ofNat_toNat, BitVec.setWidth_eq, spelled]

theorem RoundTrip.ldw (d : Dst) (c : Quad) (imm : BitVec 15) : Statement (.ldw d c imm) := by
  obtain ⟨h0, h1, h2, h3, h4⟩ := packM_bits (m := 21) (d := d.bits) (c := c.toNat) (imm := imm.toNat) (by decide) (Dst.bits_lt d) c.isLt imm.isLt
  refine of_raw rfl h0 ?_
  rw [decodeRaw, h1, maj21, h2, h3, h4]
  refine (fmt1_ok (dstOf_bits d)).trans ?_
  simp only [BitVec.ofNat_toNat, BitVec.setWidth_eq, spelled]

theorem RoundTrip.ldd (d : Reg) (c : Quad) (imm : BitVec 15) : Statement (.ldd d c imm) := by
  obtain ⟨h0, h1, h2, h3, h4⟩ := packM_bits (m := 22) (d := d.toNat) (c := c.toNat) (imm := imm.toNat) (by decide) (lt_of_lt_of_le d.isLt (by decide)) c.isLt imm.isLt
  refine of_raw rfl h0 ?_
  rw [decodeRaw, h1, maj22, h2, h3, h4]
  refine (fmt1_ok (regOf_toNat d)).trans ?_
  simp only [BitVec.ofNat_toNat, BitVec.setWidth_eq, spelled]

theorem RoundTrip.ldq (d : Reg) (c : Quad) (imm : BitVec 15) : Statement (.ldq d c imm) := by
  obtain ⟨h0, h1, h2, h3, h4⟩ := packM_bits (m := 23) (d := d.toNat) (c := c.toNat) (imm := imm.toNat) (by decide) (lt_of_lt_of_le d.isLt (by decide)) c.isLt imm.isLt
  refine of_raw rfl h0 ?_
  rw [decodeRaw, h1, maj23, h2, h3, h4]
  refine (fmt1_ok (regOf_toNat d)).trans ?_
  simp only [BitVec.ofNat_toNat, BitVec.setWidth_eq, spelled]

theorem RoundTrip.ldc (d : Reg) (c : Quad) (imm : BitVec 15) : Statement (.ldc d c imm) := by
  obtain ⟨h0, h1, h2, h3, h4⟩ := packM_bits (m := 24) (d := d.toNat) (c := c.toNat) (imm := imm.toNat) (by decide) (lt_of_lt_of_le d.isLt (by decide)) c.isLt imm.isLt
  refine of_raw rfl h0 ?_
  rw [decodeRaw, h1, maj24, h2, h3, h4]
  refine (fmt1_ok (regOf_toNat d)).trans ?_
  simp only [BitVec.ofNat_toNat, BitVec.setWidth_eq, spelled]

theorem RoundTrip.stb (d : Src) (c : Quad) (imm : BitVec 15) : Statement (.stb d c imm) := by
  obtain ⟨h0, h1, h2, h3, h4⟩ := packM_bits (m := 25) (d := d.bits) (c := c.toNat) (imm := imm.toNat) (by decide) (Src.bits_lt d) c.isLt imm.isLt
  refine of_raw rfl h0 ?_
  rw [decodeRaw, h1, maj25, h2, h3, h4]
  refine (fmt1_ok (srcOf_bits d)).trans ?_
  simp only [BitVec.ofNat_toNat, BitVec.setWidth_eq, spelled]

theorem RoundTrip.sth (d : Src) (c : Quad) (imm : BitVec 15) : Statement (.sth d c imm) := by
  obtain ⟨h0, h1, h2, h3, h4⟩ := packM_bits (m := 26) (d := d.bits) (c := c.toNat) (imm := imm.toNat) (by decide) (Src.bits_lt d) c.isLt imm.isLt
  refine of_raw rfl h0 ?_
  rw [decodeRaw, h1, maj26, h2, h3, h4]
  refine (fmt1_ok (srcOf_bits d)).trans ?_
  simp only [BitVec.ofNat_toNat, BitVec.setWidth_eq, spelled]

theorem RoundTrip.stw (d : Src) (c : Quad) (imm : BitVec 15) : Statement (.stw d c imm) := by
  obtain ⟨h0, h1, h2, h3, h4⟩ := packM_bits (m := 27) (d := d.bits) (c := c.toNat) (imm := imm.toNat) (by decide) (Src.bits_lt d) c.isLt imm.isLt
  refine of_raw rfl h0 ?_
  rw [decodeRaw, h1, maj27, h2, h3, h4]
  refine (fmt1_ok (srcOf_bits d)).trans ?_
  simp only [BitVec.ofNat_toNat, BitVec.setWidth_eq, spelled]

theorem RoundTrip.std (d : Reg) (c : Quad) (imm : BitVec 15) : Statement (.std d c imm) := by
  obtain ⟨h0, h1, h2, h3, h4⟩ := packM_bits (m := 28) (d := d.toNat) (c := c.toNat) (imm := imm.toNat) (by decide) (lt_of_lt_of_le d.isLt (by decide)) c.isLt imm.isLt
  refine of_raw rfl h0 ?_
  rw [decodeRaw, h1, maj28, h2, h3, h4]
  refine (fmt1_ok (regOf_toNat d)).trans ?_
  simp only [BitVec.ofNat_toNat, BitVec.setWidth_eq, spelled]

theorem RoundTrip.stq (d : Reg) (c : Quad) (imm : BitVec 15) : Statement (.stq d c imm) := by
  obtain ⟨h0, h1, h2, h3, h4⟩ := packM_bits (m := 29) (d := d.toNat) (c := c.toNat) (imm := imm.toNat) (by decide) (lt_of_lt_of_le d.isLt (by decide)) c.isLt imm.isLt
  refine of_raw rfl h0 ?_
  rw [decodeRaw, h1, maj29, h2, h3, h4]
  refine (fmt1_ok (regOf_toNat d)).trans ?_
  simp only [BitVec.ofNat_toNat, BitVec.setWidth_eq, spelled]

theorem RoundTrip.stc (d : Reg) (c : Quad) (imm : BitVec 15) : Statement (.stc d c imm) := by
  obtain ⟨h0, h1, h2, h3, h4⟩ := packM_bits (m := 30) (d := d.toNat) (c := c.toNat) (imm := imm.toNat) (by decide) (lt_of_lt_of_le d.isLt (by decide)) c.isLt imm.isLt
  refine of_raw rfl h0 ?_
  rw [decodeRaw, h1, maj30, h2, h3, h4]
  refine (fmt1_ok (regOf_toNat d)).trans ?_
  simp only [BitVec.ofNat_toNat, BitVec.setWidth_eq, spelled]

theorem RoundTrip.fld (d : Dst) (l : BitVec 3) (k : Bool) (imm : BitVec 15) : Statement (.fld d l k imm) := by
  obtain ⟨h0, h1, h2, h3, h4, h5⟩ := packF_bits (m := 31) (d := d.bits) (l := l.toNat) (k := (if k then 1 else 0)) (imm := imm.toNat) (by decide) (Dst.bits_lt d) l.isLt (by split <;> decide) imm.isLt
  refine of_raw rfl h0 ?_
  rw [decodeRaw, h1, maj31, h2, h3, h4, h5]
  refine (fmt1_ok (dstOf_bits d)).trans ?_
  simp only [BitVec.ofNat_toNat, BitVec.setWidth_eq, spelled]
  cases k <;> rfl

theorem RoundTrip.fst (d : Src) (l : BitVec 3) (k : Bool) (imm : BitVec 15) : Statement (.fst d l k imm) := by
  obtain ⟨h0, h1, h2, h3, h4, h5⟩ := packF_bits (m := 32) (d := d.bits) (l := l.toNat) (k := (if k then 1 else 0)) (imm := imm.toNat) (by decide) (Src.bits_lt d) l.isLt (by split <;> decide) imm.isLt
  refine of_raw rfl h0 ?_
  rw [decodeRaw, h1, maj32, h2, h3, h4, h5]
  refine (fmt1_ok (srcOf_bits d)).trans ?_
  simp only [BitVec.ofNat_toNat, BitVec.setWidth_eq, spelled]
  cases k <;> rfl

theorem RoundTrip.atomAdd (d : Reg) (c : Quad) (ord : BitVec 2) (scope use : BitVec 3) : Statement (.atomAdd d c ord scope use) := by
  obtain ⟨h0, h1, h2, h3, h4, h5, h6, h7, h8⟩ := packA_bits (m := 33) (d := d.toNat) (c := c.toNat) (aop := 0) (ord := ord.toNat) (scope := scope.toNat) (use := use.toNat) (by decide) (lt_of_lt_of_le d.isLt (by decide)) c.isLt (by decide) ord.isLt scope.isLt use.isLt
  refine of_raw rfl h0 ?_
  rw [decodeRaw, h1, maj33, h2, h3, h4, h5, h6, h7, h8]
  refine (fmt2_ok (regOf_toNat d) zeroOf_zero).trans ?_
  simp only [BitVec.ofNat_toNat, BitVec.setWidth_eq, spelled]

theorem RoundTrip.atomAnd (d : Reg) (c : Quad) (ord : BitVec 2) (scope use : BitVec 3) : Statement (.atomAnd d c ord scope use) := by
  obtain ⟨h0, h1, h2, h3, h4, h5, h6, h7, h8⟩ := packA_bits (m := 33) (d := d.toNat) (c := c.toNat) (aop := 1) (ord := ord.toNat) (scope := scope.toNat) (use := use.toNat) (by decide) (lt_of_lt_of_le d.isLt (by decide)) c.isLt (by decide) ord.isLt scope.isLt use.isLt
  refine of_raw rfl h0 ?_
  rw [decodeRaw, h1, maj33, h2, h3, h4, h5, h6, h7, h8]
  refine (fmt2_ok (regOf_toNat d) zeroOf_zero).trans ?_
  simp only [BitVec.ofNat_toNat, BitVec.setWidth_eq, spelled]

theorem RoundTrip.atomOr (d : Reg) (c : Quad) (ord : BitVec 2) (scope use : BitVec 3) : Statement (.atomOr d c ord scope use) := by
  obtain ⟨h0, h1, h2, h3, h4, h5, h6, h7, h8⟩ := packA_bits (m := 33) (d := d.toNat) (c := c.toNat) (aop := 2) (ord := ord.toNat) (scope := scope.toNat) (use := use.toNat) (by decide) (lt_of_lt_of_le d.isLt (by decide)) c.isLt (by decide) ord.isLt scope.isLt use.isLt
  refine of_raw rfl h0 ?_
  rw [decodeRaw, h1, maj33, h2, h3, h4, h5, h6, h7, h8]
  refine (fmt2_ok (regOf_toNat d) zeroOf_zero).trans ?_
  simp only [BitVec.ofNat_toNat, BitVec.setWidth_eq, spelled]

theorem RoundTrip.atomXor (d : Reg) (c : Quad) (ord : BitVec 2) (scope use : BitVec 3) : Statement (.atomXor d c ord scope use) := by
  obtain ⟨h0, h1, h2, h3, h4, h5, h6, h7, h8⟩ := packA_bits (m := 33) (d := d.toNat) (c := c.toNat) (aop := 3) (ord := ord.toNat) (scope := scope.toNat) (use := use.toNat) (by decide) (lt_of_lt_of_le d.isLt (by decide)) c.isLt (by decide) ord.isLt scope.isLt use.isLt
  refine of_raw rfl h0 ?_
  rw [decodeRaw, h1, maj33, h2, h3, h4, h5, h6, h7, h8]
  refine (fmt2_ok (regOf_toNat d) zeroOf_zero).trans ?_
  simp only [BitVec.ofNat_toNat, BitVec.setWidth_eq, spelled]

theorem RoundTrip.atomMin (d : Reg) (c : Quad) (ord : BitVec 2) (scope use : BitVec 3) : Statement (.atomMin d c ord scope use) := by
  obtain ⟨h0, h1, h2, h3, h4, h5, h6, h7, h8⟩ := packA_bits (m := 33) (d := d.toNat) (c := c.toNat) (aop := 4) (ord := ord.toNat) (scope := scope.toNat) (use := use.toNat) (by decide) (lt_of_lt_of_le d.isLt (by decide)) c.isLt (by decide) ord.isLt scope.isLt use.isLt
  refine of_raw rfl h0 ?_
  rw [decodeRaw, h1, maj33, h2, h3, h4, h5, h6, h7, h8]
  refine (fmt2_ok (regOf_toNat d) zeroOf_zero).trans ?_
  simp only [BitVec.ofNat_toNat, BitVec.setWidth_eq, spelled]

theorem RoundTrip.atomMax (d : Reg) (c : Quad) (ord : BitVec 2) (scope use : BitVec 3) : Statement (.atomMax d c ord scope use) := by
  obtain ⟨h0, h1, h2, h3, h4, h5, h6, h7, h8⟩ := packA_bits (m := 33) (d := d.toNat) (c := c.toNat) (aop := 5) (ord := ord.toNat) (scope := scope.toNat) (use := use.toNat) (by decide) (lt_of_lt_of_le d.isLt (by decide)) c.isLt (by decide) ord.isLt scope.isLt use.isLt
  refine of_raw rfl h0 ?_
  rw [decodeRaw, h1, maj33, h2, h3, h4, h5, h6, h7, h8]
  refine (fmt2_ok (regOf_toNat d) zeroOf_zero).trans ?_
  simp only [BitVec.ofNat_toNat, BitVec.setWidth_eq, spelled]

theorem RoundTrip.atomNmin (d : Reg) (c : Quad) (ord : BitVec 2) (scope use : BitVec 3) : Statement (.atomNmin d c ord scope use) := by
  obtain ⟨h0, h1, h2, h3, h4, h5, h6, h7, h8⟩ := packA_bits (m := 33) (d := d.toNat) (c := c.toNat) (aop := 6) (ord := ord.toNat) (scope := scope.toNat) (use := use.toNat) (by decide) (lt_of_lt_of_le d.isLt (by decide)) c.isLt (by decide) ord.isLt scope.isLt use.isLt
  refine of_raw rfl h0 ?_
  rw [decodeRaw, h1, maj33, h2, h3, h4, h5, h6, h7, h8]
  refine (fmt2_ok (regOf_toNat d) zeroOf_zero).trans ?_
  simp only [BitVec.ofNat_toNat, BitVec.setWidth_eq, spelled]

theorem RoundTrip.atomNmax (d : Reg) (c : Quad) (ord : BitVec 2) (scope use : BitVec 3) : Statement (.atomNmax d c ord scope use) := by
  obtain ⟨h0, h1, h2, h3, h4, h5, h6, h7, h8⟩ := packA_bits (m := 33) (d := d.toNat) (c := c.toNat) (aop := 7) (ord := ord.toNat) (scope := scope.toNat) (use := use.toNat) (by decide) (lt_of_lt_of_le d.isLt (by decide)) c.isLt (by decide) ord.isLt scope.isLt use.isLt
  refine of_raw rfl h0 ?_
  rw [decodeRaw, h1, maj33, h2, h3, h4, h5, h6, h7, h8]
  refine (fmt2_ok (regOf_toNat d) zeroOf_zero).trans ?_
  simp only [BitVec.ofNat_toNat, BitVec.setWidth_eq, spelled]

theorem RoundTrip.atomSwap (d : Reg) (c : Quad) (ord : BitVec 2) (scope use : BitVec 3) : Statement (.atomSwap d c ord scope use) := by
  obtain ⟨h0, h1, h2, h3, h4, h5, h6, h7, h8⟩ := packA_bits (m := 33) (d := d.toNat) (c := c.toNat) (aop := 8) (ord := ord.toNat) (scope := scope.toNat) (use := use.toNat) (by decide) (lt_of_lt_of_le d.isLt (by decide)) c.isLt (by decide) ord.isLt scope.isLt use.isLt
  refine of_raw rfl h0 ?_
  rw [decodeRaw, h1, maj33, h2, h3, h4, h5, h6, h7, h8]
  refine (fmt2_ok (regOf_toNat d) zeroOf_zero).trans ?_
  simp only [BitVec.ofNat_toNat, BitVec.setWidth_eq, spelled]

theorem RoundTrip.atomCas (d : Reg) (c : Quad) (ord : BitVec 2) (scope use : BitVec 3) : Statement (.atomCas d c ord scope use) := by
  obtain ⟨h0, h1, h2, h3, h4, h5, h6, h7, h8⟩ := packA_bits (m := 33) (d := d.toNat) (c := c.toNat) (aop := 9) (ord := ord.toNat) (scope := scope.toNat) (use := use.toNat) (by decide) (lt_of_lt_of_le d.isLt (by decide)) c.isLt (by decide) ord.isLt scope.isLt use.isLt
  refine of_raw rfl h0 ?_
  rw [decodeRaw, h1, maj33, h2, h3, h4, h5, h6, h7, h8]
  refine (fmt2_ok (regOf_toNat d) zeroOf_zero).trans ?_
  simp only [BitVec.ofNat_toNat, BitVec.setWidth_eq, spelled]

theorem RoundTrip.atomFadd (d : Reg) (c : Quad) (ord : BitVec 2) (scope use : BitVec 3) : Statement (.atomFadd d c ord scope use) := by
  obtain ⟨h0, h1, h2, h3, h4, h5, h6, h7, h8⟩ := packA_bits (m := 33) (d := d.toNat) (c := c.toNat) (aop := 10) (ord := ord.toNat) (scope := scope.toNat) (use := use.toNat) (by decide) (lt_of_lt_of_le d.isLt (by decide)) c.isLt (by decide) ord.isLt scope.isLt use.isLt
  refine of_raw rfl h0 ?_
  rw [decodeRaw, h1, maj33, h2, h3, h4, h5, h6, h7, h8]
  refine (fmt2_ok (regOf_toNat d) zeroOf_zero).trans ?_
  simp only [BitVec.ofNat_toNat, BitVec.setWidth_eq, spelled]

theorem RoundTrip.atomFmin (d : Reg) (c : Quad) (ord : BitVec 2) (scope use : BitVec 3) : Statement (.atomFmin d c ord scope use) := by
  obtain ⟨h0, h1, h2, h3, h4, h5, h6, h7, h8⟩ := packA_bits (m := 33) (d := d.toNat) (c := c.toNat) (aop := 11) (ord := ord.toNat) (scope := scope.toNat) (use := use.toNat) (by decide) (lt_of_lt_of_le d.isLt (by decide)) c.isLt (by decide) ord.isLt scope.isLt use.isLt
  refine of_raw rfl h0 ?_
  rw [decodeRaw, h1, maj33, h2, h3, h4, h5, h6, h7, h8]
  refine (fmt2_ok (regOf_toNat d) zeroOf_zero).trans ?_
  simp only [BitVec.ofNat_toNat, BitVec.setWidth_eq, spelled]

theorem RoundTrip.atomFmax (d : Reg) (c : Quad) (ord : BitVec 2) (scope use : BitVec 3) : Statement (.atomFmax d c ord scope use) := by
  obtain ⟨h0, h1, h2, h3, h4, h5, h6, h7, h8⟩ := packA_bits (m := 33) (d := d.toNat) (c := c.toNat) (aop := 12) (ord := ord.toNat) (scope := scope.toNat) (use := use.toNat) (by decide) (lt_of_lt_of_le d.isLt (by decide)) c.isLt (by decide) ord.isLt scope.isLt use.isLt
  refine of_raw rfl h0 ?_
  rw [decodeRaw, h1, maj33, h2, h3, h4, h5, h6, h7, h8]
  refine (fmt2_ok (regOf_toNat d) zeroOf_zero).trans ?_
  simp only [BitVec.ofNat_toNat, BitVec.setWidth_eq, spelled]

theorem RoundTrip.lda (d : Dst) (c : Quad) (scope : BitVec 3) : Statement (.lda d c scope) := by
  obtain ⟨h0, h1, h2, h3, h4, h5, h6, h7, h8⟩ := packA_bits (m := 34) (d := d.bits) (c := c.toNat) (aop := 0) (ord := 0) (scope := scope.toNat) (use := 0) (by decide) (Dst.bits_lt d) c.isLt (by decide) (by decide) scope.isLt (by decide)
  refine of_raw rfl h0 ?_
  rw [decodeRaw, h1, maj34, h2, h3, h4, h5, h6, h7, h8]
  refine (fmt3_ok (dstOf_bits d) zeroOf_zero zeroOf_zero).trans ?_
  simp only [BitVec.ofNat_toNat, BitVec.setWidth_eq, spelled]

theorem RoundTrip.stl (d : Src) (c : Quad) (scope : BitVec 3) : Statement (.stl d c scope) := by
  obtain ⟨h0, h1, h2, h3, h4, h5, h6, h7, h8⟩ := packA_bits (m := 34) (d := d.bits) (c := c.toNat) (aop := 1) (ord := 0) (scope := scope.toNat) (use := 0) (by decide) (Src.bits_lt d) c.isLt (by decide) (by decide) scope.isLt (by decide)
  refine of_raw rfl h0 ?_
  rw [decodeRaw, h1, maj34, h2, h3, h4, h5, h6, h7, h8]
  refine (fmt3_ok (srcOf_bits d) zeroOf_zero zeroOf_zero).trans ?_
  simp only [BitVec.ofNat_toNat, BitVec.setWidth_eq, spelled]

theorem RoundTrip.lds (d : Dst) (c : Quad) (scope : BitVec 3) : Statement (.lds d c scope) := by
  obtain ⟨h0, h1, h2, h3, h4, h5, h6, h7, h8⟩ := packA_bits (m := 34) (d := d.bits) (c := c.toNat) (aop := 2) (ord := 0) (scope := scope.toNat) (use := 0) (by decide) (Dst.bits_lt d) c.isLt (by decide) (by decide) scope.isLt (by decide)
  refine of_raw rfl h0 ?_
  rw [decodeRaw, h1, maj34, h2, h3, h4, h5, h6, h7, h8]
  refine (fmt3_ok (dstOf_bits d) zeroOf_zero zeroOf_zero).trans ?_
  simp only [BitVec.ofNat_toNat, BitVec.setWidth_eq, spelled]

theorem RoundTrip.sts (d : Src) (c : Quad) (scope : BitVec 3) : Statement (.sts d c scope) := by
  obtain ⟨h0, h1, h2, h3, h4, h5, h6, h7, h8⟩ := packA_bits (m := 34) (d := d.bits) (c := c.toNat) (aop := 3) (ord := 0) (scope := scope.toNat) (use := 0) (by decide) (Src.bits_lt d) c.isLt (by decide) (by decide) scope.isLt (by decide)
  refine of_raw rfl h0 ?_
  rw [decodeRaw, h1, maj34, h2, h3, h4, h5, h6, h7, h8]
  refine (fmt3_ok (srcOf_bits d) zeroOf_zero zeroOf_zero).trans ?_
  simp only [BitVec.ofNat_toNat, BitVec.setWidth_eq, spelled]

theorem RoundTrip.bra (disp : BitVec 26) : Statement (.bra disp) := by
  obtain ⟨h0, h1, h2⟩ := packJ_bits (m := 35) (disp := disp.toNat) (by decide) disp.isLt
  refine of_raw rfl h0 ?_
  rw [decodeRaw, h1, maj35, h2]
  rw [BitVec.ofNat_toNat, BitVec.setWidth_eq]; rfl

theorem RoundTrip.brz (a : Reg) (disp : BitVec 19) : Statement (.brz a disp) := by
  obtain ⟨h0, h1, h2, h3⟩ := packB_bits (m := 36) (a := a.toNat) (disp := disp.toNat) (by decide) (lt_of_lt_of_le a.isLt (by decide)) disp.isLt
  refine of_raw rfl h0 ?_
  rw [decodeRaw, h1, maj36, h2, h3]
  refine (fmt1_ok (regOf_toNat a)).trans ?_
  simp only [BitVec.ofNat_toNat, BitVec.setWidth_eq, spelled]

theorem RoundTrip.brnz (a : Reg) (disp : BitVec 19) : Statement (.brnz a disp) := by
  obtain ⟨h0, h1, h2, h3⟩ := packB_bits (m := 37) (a := a.toNat) (disp := disp.toNat) (by decide) (lt_of_lt_of_le a.isLt (by decide)) disp.isLt
  refine of_raw rfl h0 ?_
  rw [decodeRaw, h1, maj37, h2, h3]
  refine (fmt1_ok (regOf_toNat a)).trans ?_
  simp only [BitVec.ofNat_toNat, BitVec.setWidth_eq, spelled]

theorem RoundTrip.call (disp : BitVec 26) : Statement (.call disp) := by
  obtain ⟨h0, h1, h2⟩ := packJ_bits (m := 38) (disp := disp.toNat) (by decide) disp.isLt
  refine of_raw rfl h0 ?_
  rw [decodeRaw, h1, maj38, h2]
  rw [BitVec.ofNat_toNat, BitVec.setWidth_eq]; rfl

theorem RoundTrip.bri (a : Reg) : Statement (.bri a) :=
  of_raw rfl (packR_lt (by decide) (by decide) (lt_of_lt_of_le a.isLt (by decide)) (by decide) (by decide)) ((rawCtl (by decide) (lt_of_lt_of_le a.isLt (by decide)) (by decide) (by decide)).trans (fmt3_ok zeroOf_zero (regOf_toNat a) zeroOf_zero))

theorem RoundTrip.calli (a : Reg) : Statement (.calli a) :=
  of_raw rfl (packR_lt (by decide) (by decide) (lt_of_lt_of_le a.isLt (by decide)) (by decide) (by decide)) ((rawCtl (by decide) (lt_of_lt_of_le a.isLt (by decide)) (by decide) (by decide)).trans (fmt3_ok zeroOf_zero (regOf_toNat a) zeroOf_zero))

theorem RoundTrip.ret : Statement (.ret) :=
  of_raw rfl (packR_lt (by decide) (by decide) (by decide) (by decide) (by decide)) ((rawCtl (by decide) (by decide) (by decide) (by decide)).trans rfl)

theorem RoundTrip.exit : Statement (.exit) :=
  of_raw rfl (packR_lt (by decide) (by decide) (by decide) (by decide) (by decide)) ((rawCtl (by decide) (by decide) (by decide) (by decide)).trans rfl)

theorem RoundTrip.yield : Statement (.yield) :=
  of_raw rfl (packR_lt (by decide) (by decide) (by decide) (by decide) (by decide)) ((rawCtl (by decide) (by decide) (by decide) (by decide)).trans rfl)

theorem RoundTrip.rcvwait (n : BitVec 6) : Statement (.rcvwait n) :=
  of_raw rfl (packR_lt (by decide) (by decide) (lt_of_lt_of_le n.isLt (by decide)) (by decide) (by decide)) ((rawCtl (by decide) (lt_of_lt_of_le n.isLt (by decide)) (by decide) (by decide)).trans (fmt3_ok zeroOf_zero (regOf_toNat n) zeroOf_zero))

theorem RoundTrip.killpt : Statement (.killpt) :=
  of_raw rfl (packR_lt (by decide) (by decide) (by decide) (by decide) (by decide)) ((rawCtl (by decide) (by decide) (by decide) (by decide)).trans rfl)

theorem RoundTrip.nop : Statement (.nop) :=
  of_raw rfl (packR_lt (by decide) (by decide) (by decide) (by decide) (by decide)) ((rawCtl (by decide) (by decide) (by decide) (by decide)).trans rfl)

theorem RoundTrip.trap (code : BitVec 6) : Statement (.trap code) :=
  of_raw rfl (packR_lt (by decide) (by decide) (lt_of_lt_of_le code.isLt (by decide)) (by decide) (by decide)) ((rawCtl (by decide) (lt_of_lt_of_le code.isLt (by decide)) (by decide) (by decide)).trans (fmt3_ok zeroOf_zero (regOf_toNat code) zeroOf_zero))

theorem RoundTrip.rft : Statement (.rft) :=
  of_raw rfl (packR_lt (by decide) (by decide) (by decide) (by decide) (by decide)) ((rawCtl (by decide) (by decide) (by decide) (by decide)).trans rfl)

theorem RoundTrip.rcvset (b : BitVec 3) (imm : BitVec 12) : Statement (.rcvset b imm) := by
  obtain ⟨h0, h1, h2, h3, h4⟩ := packI_bits (m := 40) (d := b.toNat) (a := 0) (imm := imm.toNat) (by decide) (lt_of_lt_of_le b.isLt (by decide)) (by decide) imm.isLt
  refine of_raw rfl h0 ?_
  rw [decodeRaw, h1, maj40, h2, h3, h4]
  refine (fmt2_ok (low3Of_toNat b) zeroOf_zero).trans ?_
  simp only [BitVec.ofNat_toNat, BitVec.setWidth_eq, spelled]

theorem RoundTrip.loop (d : Reg) (len : BitVec 6) : Statement (.loop d len) := by
  obtain ⟨h0, h1, h2, h3, h4⟩ := packI_bits (m := 41) (d := d.toNat) (a := len.toNat) (imm := 0) (by decide) (lt_of_lt_of_le d.isLt (by decide)) (lt_of_lt_of_le len.isLt (by decide)) (by decide)
  refine of_raw rfl h0 ?_
  rw [decodeRaw, h1, maj41, h2, h3, h4]
  refine (fmt3_ok (regOf_toNat d) (regOf_toNat len) zeroOf_zero).trans ?_
  rfl

theorem RoundTrip.cmov (d a : Reg) : Statement (.cmov d a) :=
  of_raw rfl (packR_lt (by decide) (lt_of_lt_of_le d.isLt (by decide)) (lt_of_lt_of_le a.isLt (by decide)) (by decide) (by decide)) ((rawCap (lt_of_lt_of_le d.isLt (by decide)) (lt_of_lt_of_le a.isLt (by decide)) (by decide) (by decide)).trans (fmt3_ok (regOf_toNat d) (regOf_toNat a) zeroOf_zero))

theorem RoundTrip.cadd (d a b : Reg) : Statement (.cadd d a b) :=
  of_raw rfl (packR_lt (by decide) (lt_of_lt_of_le d.isLt (by decide)) (lt_of_lt_of_le a.isLt (by decide)) (lt_of_lt_of_le b.isLt (by decide)) (by decide)) ((rawCap (lt_of_lt_of_le d.isLt (by decide)) (lt_of_lt_of_le a.isLt (by decide)) (lt_of_lt_of_le b.isLt (by decide)) (by decide)).trans (fmt3_ok (regOf_toNat d) (regOf_toNat a) (regOf_toNat b)))

theorem RoundTrip.csetb (d a b : Reg) : Statement (.csetb d a b) :=
  of_raw rfl (packR_lt (by decide) (lt_of_lt_of_le d.isLt (by decide)) (lt_of_lt_of_le a.isLt (by decide)) (lt_of_lt_of_le b.isLt (by decide)) (by decide)) ((rawCap (lt_of_lt_of_le d.isLt (by decide)) (lt_of_lt_of_le a.isLt (by decide)) (lt_of_lt_of_le b.isLt (by decide)) (by decide)).trans (fmt3_ok (regOf_toNat d) (regOf_toNat a) (regOf_toNat b)))

theorem RoundTrip.csetbx (d a b : Reg) : Statement (.csetbx d a b) :=
  of_raw rfl (packR_lt (by decide) (lt_of_lt_of_le d.isLt (by decide)) (lt_of_lt_of_le a.isLt (by decide)) (lt_of_lt_of_le b.isLt (by decide)) (by decide)) ((rawCap (lt_of_lt_of_le d.isLt (by decide)) (lt_of_lt_of_le a.isLt (by decide)) (lt_of_lt_of_le b.isLt (by decide)) (by decide)).trans (fmt3_ok (regOf_toNat d) (regOf_toNat a) (regOf_toNat b)))

theorem RoundTrip.cbase (d a : Reg) : Statement (.cbase d a) :=
  of_raw rfl (packR_lt (by decide) (lt_of_lt_of_le d.isLt (by decide)) (lt_of_lt_of_le a.isLt (by decide)) (by decide) (by decide)) ((rawCap (lt_of_lt_of_le d.isLt (by decide)) (lt_of_lt_of_le a.isLt (by decide)) (by decide) (by decide)).trans (fmt3_ok (regOf_toNat d) (regOf_toNat a) zeroOf_zero))

theorem RoundTrip.clen (d a : Reg) : Statement (.clen d a) :=
  of_raw rfl (packR_lt (by decide) (lt_of_lt_of_le d.isLt (by decide)) (lt_of_lt_of_le a.isLt (by decide)) (by decide) (by decide)) ((rawCap (lt_of_lt_of_le d.isLt (by decide)) (lt_of_lt_of_le a.isLt (by decide)) (by decide) (by decide)).trans (fmt3_ok (regOf_toNat d) (regOf_toNat a) zeroOf_zero))

theorem RoundTrip.ccur (d a : Reg) : Statement (.ccur d a) :=
  of_raw rfl (packR_lt (by decide) (lt_of_lt_of_le d.isLt (by decide)) (lt_of_lt_of_le a.isLt (by decide)) (by decide) (by decide)) ((rawCap (lt_of_lt_of_le d.isLt (by decide)) (lt_of_lt_of_le a.isLt (by decide)) (by decide) (by decide)).trans (fmt3_ok (regOf_toNat d) (regOf_toNat a) zeroOf_zero))

theorem RoundTrip.cperm (d a : Reg) : Statement (.cperm d a) :=
  of_raw rfl (packR_lt (by decide) (lt_of_lt_of_le d.isLt (by decide)) (lt_of_lt_of_le a.isLt (by decide)) (by decide) (by decide)) ((rawCap (lt_of_lt_of_le d.isLt (by decide)) (lt_of_lt_of_le a.isLt (by decide)) (by decide) (by decide)).trans (fmt3_ok (regOf_toNat d) (regOf_toNat a) zeroOf_zero))

theorem RoundTrip.candp (d a b : Reg) : Statement (.candp d a b) :=
  of_raw rfl (packR_lt (by decide) (lt_of_lt_of_le d.isLt (by decide)) (lt_of_lt_of_le a.isLt (by decide)) (lt_of_lt_of_le b.isLt (by decide)) (by decide)) ((rawCap (lt_of_lt_of_le d.isLt (by decide)) (lt_of_lt_of_le a.isLt (by decide)) (lt_of_lt_of_le b.isLt (by decide)) (by decide)).trans (fmt3_ok (regOf_toNat d) (regOf_toNat a) (regOf_toNat b)))

theorem RoundTrip.cseal (d a b : Reg) : Statement (.cseal d a b) :=
  of_raw rfl (packR_lt (by decide) (lt_of_lt_of_le d.isLt (by decide)) (lt_of_lt_of_le a.isLt (by decide)) (lt_of_lt_of_le b.isLt (by decide)) (by decide)) ((rawCap (lt_of_lt_of_le d.isLt (by decide)) (lt_of_lt_of_le a.isLt (by decide)) (lt_of_lt_of_le b.isLt (by decide)) (by decide)).trans (fmt3_ok (regOf_toNat d) (regOf_toNat a) (regOf_toNat b)))

theorem RoundTrip.cunseal (d a b : Reg) : Statement (.cunseal d a b) :=
  of_raw rfl (packR_lt (by decide) (lt_of_lt_of_le d.isLt (by decide)) (lt_of_lt_of_le a.isLt (by decide)) (lt_of_lt_of_le b.isLt (by decide)) (by decide)) ((rawCap (lt_of_lt_of_le d.isLt (by decide)) (lt_of_lt_of_le a.isLt (by decide)) (lt_of_lt_of_le b.isLt (by decide)) (by decide)).trans (fmt3_ok (regOf_toNat d) (regOf_toNat a) (regOf_toNat b)))

theorem RoundTrip.ctag (d a : Reg) : Statement (.ctag d a) :=
  of_raw rfl (packR_lt (by decide) (lt_of_lt_of_le d.isLt (by decide)) (lt_of_lt_of_le a.isLt (by decide)) (by decide) (by decide)) ((rawCap (lt_of_lt_of_le d.isLt (by decide)) (lt_of_lt_of_le a.isLt (by decide)) (by decide) (by decide)).trans (fmt3_ok (regOf_toNat d) (regOf_toNat a) zeroOf_zero))

theorem RoundTrip.csetc (d a b : Reg) : Statement (.csetc d a b) :=
  of_raw rfl (packR_lt (by decide) (lt_of_lt_of_le d.isLt (by decide)) (lt_of_lt_of_le a.isLt (by decide)) (lt_of_lt_of_le b.isLt (by decide)) (by decide)) ((rawCap (lt_of_lt_of_le d.isLt (by decide)) (lt_of_lt_of_le a.isLt (by decide)) (lt_of_lt_of_le b.isLt (by decide)) (by decide)).trans (fmt3_ok (regOf_toNat d) (regOf_toNat a) (regOf_toNat b)))

theorem RoundTrip.cdisp (d : Reg) (l : BitVec 6) : Statement (.cdisp d l) :=
  of_raw rfl (packR_lt (by decide) (lt_of_lt_of_le d.isLt (by decide)) (lt_of_lt_of_le l.isLt (by decide)) (by decide) (by decide)) ((rawCap (lt_of_lt_of_le d.isLt (by decide)) (lt_of_lt_of_le l.isLt (by decide)) (by decide) (by decide)).trans (fmt3_ok (regOf_toNat d) (regOf_toNat l) zeroOf_zero))

theorem RoundTrip.cpyin (d a b : Reg) : Statement (.cpyin d a b) :=
  of_raw rfl (packR_lt (by decide) (lt_of_lt_of_le d.isLt (by decide)) (lt_of_lt_of_le a.isLt (by decide)) (lt_of_lt_of_le b.isLt (by decide)) (by decide)) ((rawCopy (lt_of_lt_of_le d.isLt (by decide)) (lt_of_lt_of_le a.isLt (by decide)) (lt_of_lt_of_le b.isLt (by decide)) (by decide)).trans (fmt3_ok (regOf_toNat d) (regOf_toNat a) (regOf_toNat b)))

theorem RoundTrip.cpyout (d a b : Reg) : Statement (.cpyout d a b) :=
  of_raw rfl (packR_lt (by decide) (lt_of_lt_of_le d.isLt (by decide)) (lt_of_lt_of_le a.isLt (by decide)) (lt_of_lt_of_le b.isLt (by decide)) (by decide)) ((rawCopy (lt_of_lt_of_le d.isLt (by decide)) (lt_of_lt_of_le a.isLt (by decide)) (lt_of_lt_of_le b.isLt (by decide)) (by decide)).trans (fmt3_ok (regOf_toNat d) (regOf_toNat a) (regOf_toNat b)))

theorem RoundTrip.cpycvt (d a b : Reg) : Statement (.cpycvt d a b) :=
  of_raw rfl (packR_lt (by decide) (lt_of_lt_of_le d.isLt (by decide)) (lt_of_lt_of_le a.isLt (by decide)) (lt_of_lt_of_le b.isLt (by decide)) (by decide)) ((rawCopy (lt_of_lt_of_le d.isLt (by decide)) (lt_of_lt_of_le a.isLt (by decide)) (lt_of_lt_of_le b.isLt (by decide)) (by decide)).trans (fmt3_ok (regOf_toNat d) (regOf_toNat a) (regOf_toNat b)))

theorem RoundTrip.cpywait (a : Reg) : Statement (.cpywait a) :=
  of_raw rfl (packR_lt (by decide) (by decide) (lt_of_lt_of_le a.isLt (by decide)) (by decide) (by decide)) ((rawCopy (by decide) (lt_of_lt_of_le a.isLt (by decide)) (by decide) (by decide)).trans (fmt3_ok zeroOf_zero (regOf_toNat a) zeroOf_zero))

theorem RoundTrip.pres (d : Dst) (a : Reg) : Statement (.pres d a) :=
  of_raw rfl (packR_lt (by decide) (Dst.bits_lt d) (lt_of_lt_of_le a.isLt (by decide)) (by decide) (by decide)) ((rawCopy (Dst.bits_lt d) (lt_of_lt_of_le a.isLt (by decide)) (by decide) (by decide)).trans (fmt3_ok (dstOf_bits d) (regOf_toNat a) zeroOf_zero))

theorem RoundTrip.pclr (a b : Reg) : Statement (.pclr a b) :=
  of_raw rfl (packR_lt (by decide) (by decide) (lt_of_lt_of_le a.isLt (by decide)) (lt_of_lt_of_le b.isLt (by decide)) (by decide)) ((rawCopy (by decide) (lt_of_lt_of_le a.isLt (by decide)) (lt_of_lt_of_le b.isLt (by decide)) (by decide)).trans (fmt3_ok zeroOf_zero (regOf_toNat a) (regOf_toNat b)))

theorem RoundTrip.chbind (n : Chan) (a b : Reg) : Statement (.chbind n a b) :=
  of_raw rfl (packR_lt (by decide) (chan96_lt n) (lt_of_lt_of_le a.isLt (by decide)) (lt_of_lt_of_le b.isLt (by decide)) (by decide)) ((rawChan (chan96_lt n) (lt_of_lt_of_le a.isLt (by decide)) (lt_of_lt_of_le b.isLt (by decide)) (by decide)).trans (fmt3_ok (popOf_bits n) (regOf_toNat a) (regOf_toNat b)))

theorem RoundTrip.chpush (n : Chan) (a : Src) : Statement (.chpush n a) :=
  of_raw rfl (packR_lt (by decide) (chan96_lt n) (Src.bits_lt a) (by decide) (by decide)) ((rawChan (chan96_lt n) (Src.bits_lt a) (by decide) (by decide)).trans (fmt3_ok (popOf_bits n) (srcOf_bits a) zeroOf_zero))

theorem RoundTrip.chpop (d : Dst) (n : Chan) : Statement (.chpop d n) :=
  of_raw rfl (packR_lt (by decide) (Dst.bits_lt d) (chan96_lt n) (by decide) (by decide)) ((rawChan (Dst.bits_lt d) (chan96_lt n) (by decide) (by decide)).trans (fmt3_ok (dstOf_bits d) (popOf_bits n) zeroOf_zero))

theorem RoundTrip.chpeek (d : Dst) (n : Chan) : Statement (.chpeek d n) :=
  of_raw rfl (packR_lt (by decide) (Dst.bits_lt d) (chan64_lt n) (by decide) (by decide)) ((rawChan (Dst.bits_lt d) (chan64_lt n) (by decide) (by decide)).trans (fmt3_ok (dstOf_bits d) (peekOf_bits n) zeroOf_zero))

theorem RoundTrip.chstat (d : Reg) (n : Chan) : Statement (.chstat d n) :=
  of_raw rfl (packR_lt (by decide) (lt_of_lt_of_le d.isLt (by decide)) (chan96_lt n) (by decide) (by decide)) ((rawChan (lt_of_lt_of_le d.isLt (by decide)) (chan96_lt n) (by decide) (by decide)).trans (fmt3_ok (regOf_toNat d) (popOf_bits n) zeroOf_zero))

theorem RoundTrip.chclose (n : Chan) : Statement (.chclose n) :=
  of_raw rfl (packR_lt (by decide) (chan96_lt n) (by decide) (by decide) (by decide)) ((rawChan (chan96_lt n) (by decide) (by decide) (by decide)).trans (fmt3_ok (popOf_bits n) zeroOf_zero zeroOf_zero))

theorem RoundTrip.chfree (n : Chan) : Statement (.chfree n) :=
  of_raw rfl (packR_lt (by decide) (chan96_lt n) (by decide) (by decide) (by decide)) ((rawChan (chan96_lt n) (by decide) (by decide) (by decide)).trans (fmt3_ok (popOf_bits n) zeroOf_zero zeroOf_zero))

theorem RoundTrip.barinit (a b : Reg) : Statement (.barinit a b) :=
  of_raw rfl (packR_lt (by decide) (by decide) (lt_of_lt_of_le a.isLt (by decide)) (lt_of_lt_of_le b.isLt (by decide)) (by decide)) ((rawSync (by decide) (lt_of_lt_of_le a.isLt (by decide)) (lt_of_lt_of_le b.isLt (by decide)) (by decide)).trans (fmt3_ok zeroOf_zero (regOf_toNat a) (regOf_toNat b)))

theorem RoundTrip.bararr (d : Dst) (a : Reg) : Statement (.bararr d a) :=
  of_raw rfl (packR_lt (by decide) (Dst.bits_lt d) (lt_of_lt_of_le a.isLt (by decide)) (by decide) (by decide)) ((rawSync (Dst.bits_lt d) (lt_of_lt_of_le a.isLt (by decide)) (by decide) (by decide)).trans (fmt3_ok (dstOf_bits d) (regOf_toNat a) zeroOf_zero))

theorem RoundTrip.barwait (a : Reg) (b : Src) : Statement (.barwait a b) :=
  of_raw rfl (packR_lt (by decide) (by decide) (lt_of_lt_of_le a.isLt (by decide)) (Src.bits_lt b) (by decide)) ((rawSync (by decide) (lt_of_lt_of_le a.isLt (by decide)) (Src.bits_lt b) (by decide)).trans (fmt3_ok zeroOf_zero (regOf_toNat a) (srcOf_bits b)))

theorem RoundTrip.barsync (a : Reg) : Statement (.barsync a) :=
  of_raw rfl (packR_lt (by decide) (by decide) (lt_of_lt_of_le a.isLt (by decide)) (by decide) (by decide)) ((rawSync (by decide) (lt_of_lt_of_le a.isLt (by decide)) (by decide) (by decide)).trans (fmt3_ok zeroOf_zero (regOf_toNat a) zeroOf_zero))

theorem RoundTrip.bardrop (a : Reg) : Statement (.bardrop a) :=
  of_raw rfl (packR_lt (by decide) (by decide) (lt_of_lt_of_le a.isLt (by decide)) (by decide) (by decide)) ((rawSync (by decide) (lt_of_lt_of_le a.isLt (by decide)) (by decide) (by decide)).trans (fmt3_ok zeroOf_zero (regOf_toNat a) zeroOf_zero))

theorem RoundTrip.gbar : Statement (.gbar) :=
  of_raw rfl (packR_lt (by decide) (by decide) (by decide) (by decide) (by decide)) ((rawSync (by decide) (by decide) (by decide) (by decide)).trans rfl)

theorem RoundTrip.cvinit (n : BitVec 6) (a : Reg) : Statement (.cvinit n a) :=
  of_raw rfl (packR_lt (by decide) (lt_of_lt_of_le n.isLt (by decide)) (lt_of_lt_of_le a.isLt (by decide)) (by decide) (by decide)) ((rawSync (lt_of_lt_of_le n.isLt (by decide)) (lt_of_lt_of_le a.isLt (by decide)) (by decide) (by decide)).trans (fmt3_ok (regOf_toNat n) (regOf_toNat a) zeroOf_zero))

theorem RoundTrip.cvsign (n : BitVec 6) : Statement (.cvsign n) :=
  of_raw rfl (packR_lt (by decide) (lt_of_lt_of_le n.isLt (by decide)) (by decide) (by decide) (by decide)) ((rawSync (lt_of_lt_of_le n.isLt (by decide)) (by decide) (by decide) (by decide)).trans (fmt3_ok (regOf_toNat n) zeroOf_zero zeroOf_zero))

theorem RoundTrip.strag (d a : Reg) : Statement (.strag d a) :=
  of_raw rfl (packR_lt (by decide) (lt_of_lt_of_le d.isLt (by decide)) (lt_of_lt_of_le a.isLt (by decide)) (by decide) (by decide)) ((rawSync (lt_of_lt_of_le d.isLt (by decide)) (lt_of_lt_of_le a.isLt (by decide)) (by decide) (by decide)).trans (fmt3_ok (regOf_toNat d) (regOf_toNat a) zeroOf_zero))

theorem RoundTrip.mx (d f : Reg) (ca cb : Quad) (cv : BitVec 4) : Statement (.mx d f ca cb cv) := by
  obtain ⟨h0, h1, h2, h3, h4, h5, h6⟩ := packX_bits (m := 46) (d := d.toNat) (f := f.toNat) (ca := ca.toNat) (cb := cb.toNat) (cv := cv.toNat) (by decide) (lt_of_lt_of_le d.isLt (by decide)) (lt_of_lt_of_le f.isLt (by decide)) ca.isLt cb.isLt cv.isLt
  refine of_raw rfl h0 ?_
  rw [decodeRaw, h1, maj46, h2, h3, h4, h5, h6]
  refine (fmt2_ok (regOf_toNat d) (regOf_toNat f)).trans ?_
  simp only [BitVec.ofNat_toNat, BitVec.setWidth_eq, spelled]

theorem RoundTrip.mxwait (n : BitVec 6) : Statement (.mxwait n) :=
  of_raw rfl (packR_lt (by decide) (by decide) (lt_of_lt_of_le n.isLt (by decide)) (by decide) (by decide)) ((rawMxa (by decide) (lt_of_lt_of_le n.isLt (by decide)) (by decide) (by decide)).trans (fmt3_ok zeroOf_zero (regOf_toNat n) zeroOf_zero))

theorem RoundTrip.btake : Statement (.btake) :=
  of_raw rfl (packR_lt (by decide) (by decide) (by decide) (by decide) (by decide)) ((rawMxa (by decide) (by decide) (by decide) (by decide)).trans rfl)

theorem RoundTrip.bpass : Statement (.bpass) :=
  of_raw rfl (packR_lt (by decide) (by decide) (by decide) (by decide) (by decide)) ((rawMxa (by decide) (by decide) (by decide) (by decide)).trans rfl)

theorem RoundTrip.mxzero (d : Reg) : Statement (.mxzero d) :=
  of_raw rfl (packR_lt (by decide) (lt_of_lt_of_le d.isLt (by decide)) (by decide) (by decide) (by decide)) ((rawMxa (lt_of_lt_of_le d.isLt (by decide)) (by decide) (by decide) (by decide)).trans (fmt3_ok (regOf_toNat d) zeroOf_zero zeroOf_zero))

theorem RoundTrip.launch (d a : Reg) : Statement (.launch d a) :=
  of_raw rfl (packR_lt (by decide) (lt_of_lt_of_le d.isLt (by decide)) (lt_of_lt_of_le a.isLt (by decide)) (by decide) (by decide)) ((rawLnch (lt_of_lt_of_le d.isLt (by decide)) (lt_of_lt_of_le a.isLt (by decide)) (by decide) (by decide)).trans (fmt3_ok (regOf_toNat d) (regOf_toNat a) zeroOf_zero))

theorem RoundTrip.launcha (d a b : Reg) : Statement (.launcha d a b) :=
  of_raw rfl (packR_lt (by decide) (lt_of_lt_of_le d.isLt (by decide)) (lt_of_lt_of_le a.isLt (by decide)) (lt_of_lt_of_le b.isLt (by decide)) (by decide)) ((rawLnch (lt_of_lt_of_le d.isLt (by decide)) (lt_of_lt_of_le a.isLt (by decide)) (lt_of_lt_of_le b.isLt (by decide)) (by decide)).trans (fmt3_ok (regOf_toNat d) (regOf_toNat a) (regOf_toNat b)))

theorem RoundTrip.join (a : Reg) : Statement (.join a) :=
  of_raw rfl (packR_lt (by decide) (by decide) (lt_of_lt_of_le a.isLt (by decide)) (by decide) (by decide)) ((rawLnch (by decide) (lt_of_lt_of_le a.isLt (by decide)) (by decide) (by decide)).trans (fmt3_ok zeroOf_zero (regOf_toNat a) zeroOf_zero))

theorem RoundTrip.jpoll (d : Dst) (a : Reg) : Statement (.jpoll d a) :=
  of_raw rfl (packR_lt (by decide) (Dst.bits_lt d) (lt_of_lt_of_le a.isLt (by decide)) (by decide) (by decide)) ((rawLnch (Dst.bits_lt d) (lt_of_lt_of_le a.isLt (by decide)) (by decide) (by decide)).trans (fmt3_ok (dstOf_bits d) (regOf_toNat a) zeroOf_zero))

theorem RoundTrip.nemit (a b : Reg) : Statement (.nemit a b) :=
  of_raw rfl (packR_lt (by decide) (by decide) (lt_of_lt_of_le a.isLt (by decide)) (lt_of_lt_of_le b.isLt (by decide)) (by decide)) ((rawTask (by decide) (lt_of_lt_of_le a.isLt (by decide)) (lt_of_lt_of_le b.isLt (by decide)) (by decide)).trans (fmt3_ok zeroOf_zero (regOf_toNat a) (regOf_toNat b)))

theorem RoundTrip.bound (a : Reg) : Statement (.bound a) :=
  of_raw rfl (packR_lt (by decide) (by decide) (lt_of_lt_of_le a.isLt (by decide)) (by decide) (by decide)) ((rawTask (by decide) (lt_of_lt_of_le a.isLt (by decide)) (by decide) (by decide)).trans (fmt3_ok zeroOf_zero (regOf_toNat a) zeroOf_zero))

theorem RoundTrip.incrd (d a : Reg) : Statement (.incrd d a) :=
  of_raw rfl (packR_lt (by decide) (lt_of_lt_of_le d.isLt (by decide)) (lt_of_lt_of_le a.isLt (by decide)) (by decide) (by decide)) ((rawTask (lt_of_lt_of_le d.isLt (by decide)) (lt_of_lt_of_le a.isLt (by decide)) (by decide) (by decide)).trans (fmt3_ok (regOf_toNat d) (regOf_toNat a) zeroOf_zero))

theorem RoundTrip.incimp (d a b : Reg) : Statement (.incimp d a b) :=
  of_raw rfl (packR_lt (by decide) (lt_of_lt_of_le d.isLt (by decide)) (lt_of_lt_of_le a.isLt (by decide)) (lt_of_lt_of_le b.isLt (by decide)) (by decide)) ((rawTask (lt_of_lt_of_le d.isLt (by decide)) (lt_of_lt_of_le a.isLt (by decide)) (lt_of_lt_of_le b.isLt (by decide)) (by decide)).trans (fmt3_ok (regOf_toNat d) (regOf_toNat a) (regOf_toNat b)))

theorem RoundTrip.aropen (d a : Reg) : Statement (.aropen d a) :=
  of_raw rfl (packR_lt (by decide) (lt_of_lt_of_le d.isLt (by decide)) (lt_of_lt_of_le a.isLt (by decide)) (by decide) (by decide)) ((rawRegn (lt_of_lt_of_le d.isLt (by decide)) (lt_of_lt_of_le a.isLt (by decide)) (by decide) (by decide)).trans (fmt3_ok (regOf_toNat d) (regOf_toNat a) zeroOf_zero))

theorem RoundTrip.aropenReopen (d a : Reg) : Statement (.aropenReopen d a) :=
  of_raw rfl (packR_lt (by decide) (lt_of_lt_of_le d.isLt (by decide)) (lt_of_lt_of_le a.isLt (by decide)) (by decide) (by decide)) ((rawRegn (lt_of_lt_of_le d.isLt (by decide)) (lt_of_lt_of_le a.isLt (by decide)) (by decide) (by decide)).trans (fmt3_ok (regOf_toNat d) (regOf_toNat a) zeroOf_zero))

theorem RoundTrip.arjoin (a b : Reg) : Statement (.arjoin a b) :=
  of_raw rfl (packR_lt (by decide) (by decide) (lt_of_lt_of_le a.isLt (by decide)) (lt_of_lt_of_le b.isLt (by decide)) (by decide)) ((rawRegn (by decide) (lt_of_lt_of_le a.isLt (by decide)) (lt_of_lt_of_le b.isLt (by decide)) (by decide)).trans (fmt3_ok zeroOf_zero (regOf_toNat a) (regOf_toNat b)))

theorem RoundTrip.arseal (a : Reg) : Statement (.arseal a) :=
  of_raw rfl (packR_lt (by decide) (by decide) (lt_of_lt_of_le a.isLt (by decide)) (by decide) (by decide)) ((rawRegn (by decide) (lt_of_lt_of_le a.isLt (by decide)) (by decide) (by decide)).trans (fmt3_ok zeroOf_zero (regOf_toNat a) zeroOf_zero))

theorem RoundTrip.arvote (a : Reg) : Statement (.arvote a) :=
  of_raw rfl (packR_lt (by decide) (by decide) (lt_of_lt_of_le a.isLt (by decide)) (by decide) (by decide)) ((rawRegn (by decide) (lt_of_lt_of_le a.isLt (by decide)) (by decide) (by decide)).trans (fmt3_ok zeroOf_zero (regOf_toNat a) zeroOf_zero))

theorem RoundTrip.arabort (a : Reg) : Statement (.arabort a) :=
  of_raw rfl (packR_lt (by decide) (by decide) (lt_of_lt_of_le a.isLt (by decide)) (by decide) (by decide)) ((rawRegn (by decide) (lt_of_lt_of_le a.isLt (by decide)) (by decide) (by decide)).trans (fmt3_ok zeroOf_zero (regOf_toNat a) zeroOf_zero))

theorem RoundTrip.arstat (d a : Reg) : Statement (.arstat d a) :=
  of_raw rfl (packR_lt (by decide) (lt_of_lt_of_le d.isLt (by decide)) (lt_of_lt_of_le a.isLt (by decide)) (by decide) (by decide)) ((rawRegn (lt_of_lt_of_le d.isLt (by decide)) (lt_of_lt_of_le a.isLt (by decide)) (by decide) (by decide)).trans (fmt3_ok (regOf_toNat d) (regOf_toNat a) zeroOf_zero))

theorem RoundTrip.srd (d : Dst) (id : BitVec 8) : Statement (.srd d id) := by
  obtain ⟨h0, h1, h2, h3, h4, h5⟩ := packS_bits (m := 51) (d := d.bits) (a := 0) (sub := 0) (id := id.toNat) (by decide) (Dst.bits_lt d) (by decide) (by decide) id.isLt
  refine of_raw rfl h0 ?_
  rw [decodeRaw, h1, maj51, h2, h3, h4, h5]
  refine (fmt2_ok (dstOf_bits d) zeroOf_zero).trans ?_
  simp only [BitVec.ofNat_toNat, BitVec.setWidth_eq, spelled]

theorem RoundTrip.swr (id : BitVec 8) (a : Src) : Statement (.swr id a) := by
  obtain ⟨h0, h1, h2, h3, h4, h5⟩ := packS_bits (m := 51) (d := 0) (a := a.bits) (sub := 1) (id := id.toNat) (by decide) (by decide) (Src.bits_lt a) (by decide) id.isLt
  refine of_raw rfl h0 ?_
  rw [decodeRaw, h1, maj51, h2, h3, h4, h5]
  refine (fmt2_ok zeroOf_zero (srcOf_bits a)).trans ?_
  simp only [BitVec.ofNat_toNat, BitVec.setWidth_eq, spelled]

theorem RoundTrip.fence (kind : BitVec 2) (scope : BitVec 3) : Statement (.fence kind scope) := by
  obtain ⟨h0, h1, h2, h3, h4, h5⟩ := packS_bits (m := 51) (d := 0) (a := 0) (sub := 2) (id := (kind.toNat * 8 + scope.toNat)) (by decide) (by decide) (by decide) (by decide) (by have := kind.isLt; have := scope.isLt; omega)
  refine of_raw rfl h0 ?_
  rw [decodeRaw, h1, maj51, h2, h3, h4, h5]
  refine (fmt3_ok zeroOf_zero zeroOf_zero (zeroOf_eq (by have := kind.isLt; have := scope.isLt; omega))).trans ?_
  have hk := kind.isLt
  have hs := scope.isLt
  have e1 : BitVec.ofNat 2 ((kind.toNat * 8 + scope.toNat) / 8) = kind := by
    apply BitVec.eq_of_toNat_eq; simp only [BitVec.toNat_ofNat]; omega
  have e2 : BitVec.ofNat 3 (kind.toNat * 8 + scope.toNat) = scope := by
    apply BitVec.eq_of_toNat_eq; simp only [BitVec.toNat_ofNat]; omega
  rw [e1, e2]; rfl

theorem RoundTrip.fenceop : Statement (.fenceop) := by
  obtain ⟨h0, h1, h2, h3, h4, h5⟩ := packS_bits (m := 51) (d := 0) (a := 0) (sub := 3) (id := 0) (by decide) (by decide) (by decide) (by decide) (by decide)
  refine of_raw rfl h0 ?_
  rw [decodeRaw, h1, maj51, h2, h3, h4, h5]
  rfl

theorem RoundTrip.csum (d : Reg) : Statement (.csum d) := by
  obtain ⟨h0, h1, h2, h3, h4, h5⟩ := packS_bits (m := 51) (d := d.toNat) (a := 0) (sub := 4) (id := 0) (by decide) (lt_of_lt_of_le d.isLt (by decide)) (by decide) (by decide) (by decide)
  refine of_raw rfl h0 ?_
  rw [decodeRaw, h1, maj51, h2, h3, h4, h5]
  exact fmt3_ok (regOf_toNat d) zeroOf_zero zeroOf_zero

theorem RoundTrip.halt : Statement (.halt) := by
  obtain ⟨h0, h1, h2, h3, h4, h5⟩ := packS_bits (m := 51) (d := 0) (a := 0) (sub := 5) (id := 0) (by decide) (by decide) (by decide) (by decide) (by decide)
  refine of_raw rfl h0 ?_
  rw [decodeRaw, h1, maj51, h2, h3, h4, h5]
  rfl

theorem RoundTrip.dbgmark (mark : BitVec 8) : Statement (.dbgmark mark) := by
  obtain ⟨h0, h1, h2, h3, h4, h5⟩ := packS_bits (m := 51) (d := 0) (a := 0) (sub := 6) (id := mark.toNat) (by decide) (by decide) (by decide) (by decide) mark.isLt
  refine of_raw rfl h0 ?_
  rw [decodeRaw, h1, maj51, h2, h3, h4, h5]
  show Except.ok (Instr.dbgmark (BitVec.ofNat 8 _)) = _
  rw [BitVec.ofNat_toNat, BitVec.setWidth_eq]; rfl

theorem RoundTrip.perf (d : Dst) (id : BitVec 8) : Statement (.perf d id) := by
  obtain ⟨h0, h1, h2, h3, h4, h5⟩ := packS_bits (m := 51) (d := d.bits) (a := 0) (sub := 7) (id := id.toNat) (by decide) (Dst.bits_lt d) (by decide) (by decide) id.isLt
  refine of_raw rfl h0 ?_
  rw [decodeRaw, h1, maj51, h2, h3, h4, h5]
  refine (fmt2_ok (dstOf_bits d) zeroOf_zero).trans ?_
  simp only [BitVec.ofNat_toNat, BitVec.setWidth_eq, spelled]

theorem RoundTrip.evwait (d : Reg) : Statement (.evwait d) := by
  obtain ⟨h0, h1, h2, h3, h4, h5⟩ := packS_bits (m := 51) (d := d.toNat) (a := 0) (sub := 11) (id := 0) (by decide) (lt_of_lt_of_le d.isLt (by decide)) (by decide) (by decide) (by decide)
  refine of_raw rfl h0 ?_
  rw [decodeRaw, h1, maj51, h2, h3, h4, h5]
  exact fmt3_ok (regOf_toNat d) zeroOf_zero zeroOf_zero

theorem RoundTrip.qlock (a : Reg) : Statement (.qlock a) := by
  obtain ⟨h0, h1, h2, h3, h4, h5⟩ := packS_bits (m := 51) (d := 0) (a := a.toNat) (sub := 12) (id := 0) (by decide) (by decide) (lt_of_lt_of_le a.isLt (by decide)) (by decide) (by decide)
  refine of_raw rfl h0 ?_
  rw [decodeRaw, h1, maj51, h2, h3, h4, h5]
  exact fmt3_ok zeroOf_zero (regOf_toNat a) zeroOf_zero

theorem RoundTrip.qunlock (a : Reg) : Statement (.qunlock a) := by
  obtain ⟨h0, h1, h2, h3, h4, h5⟩ := packS_bits (m := 51) (d := 0) (a := a.toNat) (sub := 13) (id := 0) (by decide) (by decide) (lt_of_lt_of_le a.isLt (by decide)) (by decide) (by decide)
  refine of_raw rfl h0 ?_
  rw [decodeRaw, h1, maj51, h2, h3, h4, h5]
  exact fmt3_ok zeroOf_zero (regOf_toNat a) zeroOf_zero

theorem RoundTrip.ctxrunRun (d a : Reg) : Statement (.ctxrunRun d a) := by
  obtain ⟨h0, h1, h2, h3, h4, h5⟩ := packS_bits (m := 51) (d := d.toNat) (a := a.toNat) (sub := 14) (id := 0) (by decide) (lt_of_lt_of_le d.isLt (by decide)) (lt_of_lt_of_le a.isLt (by decide)) (by decide) (by decide)
  refine of_raw rfl h0 ?_
  rw [decodeRaw, h1, maj51, h2, h3, h4, h5]
  exact fmt2_ok (regOf_toNat d) (regOf_toNat a)

theorem RoundTrip.ctxrunHalt (d a : Reg) : Statement (.ctxrunHalt d a) := by
  obtain ⟨h0, h1, h2, h3, h4, h5⟩ := packS_bits (m := 51) (d := d.toNat) (a := a.toNat) (sub := 14) (id := 1) (by decide) (lt_of_lt_of_le d.isLt (by decide)) (lt_of_lt_of_le a.isLt (by decide)) (by decide) (by decide)
  refine of_raw rfl h0 ?_
  rw [decodeRaw, h1, maj51, h2, h3, h4, h5]
  exact fmt2_ok (regOf_toNat d) (regOf_toNat a)

theorem RoundTrip.ctxrunResume (d a : Reg) : Statement (.ctxrunResume d a) := by
  obtain ⟨h0, h1, h2, h3, h4, h5⟩ := packS_bits (m := 51) (d := d.toNat) (a := a.toNat) (sub := 14) (id := 2) (by decide) (lt_of_lt_of_le d.isLt (by decide)) (lt_of_lt_of_le a.isLt (by decide)) (by decide) (by decide)
  refine of_raw rfl h0 ?_
  rw [decodeRaw, h1, maj51, h2, h3, h4, h5]
  exact fmt2_ok (regOf_toNat d) (regOf_toNat a)

theorem RoundTrip.ctxrunSave (d a : Reg) : Statement (.ctxrunSave d a) := by
  obtain ⟨h0, h1, h2, h3, h4, h5⟩ := packS_bits (m := 51) (d := d.toNat) (a := a.toNat) (sub := 14) (id := 3) (by decide) (lt_of_lt_of_le d.isLt (by decide)) (lt_of_lt_of_le a.isLt (by decide)) (by decide) (by decide)
  refine of_raw rfl h0 ?_
  rw [decodeRaw, h1, maj51, h2, h3, h4, h5]
  exact fmt2_ok (regOf_toNat d) (regOf_toNat a)

theorem RoundTrip.ctxrunDump (d a : Reg) : Statement (.ctxrunDump d a) := by
  obtain ⟨h0, h1, h2, h3, h4, h5⟩ := packS_bits (m := 51) (d := d.toNat) (a := a.toNat) (sub := 14) (id := 4) (by decide) (lt_of_lt_of_le d.isLt (by decide)) (lt_of_lt_of_le a.isLt (by decide)) (by decide) (by decide)
  refine of_raw rfl h0 ?_
  rw [decodeRaw, h1, maj51, h2, h3, h4, h5]
  exact fmt2_ok (regOf_toNat d) (regOf_toNat a)

theorem RoundTrip.ctxrunKill (d a : Reg) : Statement (.ctxrunKill d a) := by
  obtain ⟨h0, h1, h2, h3, h4, h5⟩ := packS_bits (m := 51) (d := d.toNat) (a := a.toNat) (sub := 14) (id := 5) (by decide) (lt_of_lt_of_le d.isLt (by decide)) (lt_of_lt_of_le a.isLt (by decide)) (by decide) (by decide)
  refine of_raw rfl h0 ?_
  rw [decodeRaw, h1, maj51, h2, h3, h4, h5]
  exact fmt2_ok (regOf_toNat d) (regOf_toNat a)

theorem RoundTrip.ctxrunState (d a : Reg) : Statement (.ctxrunState d a) := by
  obtain ⟨h0, h1, h2, h3, h4, h5⟩ := packS_bits (m := 51) (d := d.toNat) (a := a.toNat) (sub := 14) (id := 6) (by decide) (lt_of_lt_of_le d.isLt (by decide)) (lt_of_lt_of_le a.isLt (by decide)) (by decide) (by decide)
  refine of_raw rfl h0 ?_
  rw [decodeRaw, h1, maj51, h2, h3, h4, h5]
  exact fmt2_ok (regOf_toNat d) (regOf_toNat a)

theorem RoundTrip.privTlbInvalidateAll : Statement (.privTlbInvalidateAll) := of_none rfl

theorem RoundTrip.privTlbInvalidateAsid : Statement (.privTlbInvalidateAsid) := of_none rfl

theorem RoundTrip.privTlbInvalidateRange : Statement (.privTlbInvalidateRange) := of_none rfl

theorem RoundTrip.privIdentifierEntry : Statement (.privIdentifierEntry) := of_none rfl

theorem RoundTrip.privKeyLoad : Statement (.privKeyLoad) := of_none rfl

theorem RoundTrip.privKeyDestroy : Statement (.privKeyDestroy) := of_none rfl

theorem RoundTrip.privPlantBreakpoint : Statement (.privPlantBreakpoint) := of_none rfl

theorem RoundTrip.privRemoveBreakpoint : Statement (.privRemoveBreakpoint) := of_none rfl

theorem RoundTrip.privRevokeDebug : Statement (.privRevokeDebug) := of_none rfl

theorem RoundTrip.privEngineReset : Statement (.privEngineReset) := of_none rfl

theorem RoundTrip.privDerate : Statement (.privDerate) := of_none rfl

theorem RoundTrip.privFaultReplay : Statement (.privFaultReplay) := of_none rfl

theorem RoundTrip.privFaultFail : Statement (.privFaultFail) := of_none rfl

theorem RoundTrip.privReadFaultRecord : Statement (.privReadFaultRecord) := of_none rfl

theorem RoundTrip.privPoolQuery : Statement (.privPoolQuery) := of_none rfl

theorem RoundTrip.privQueueDisable : Statement (.privQueueDisable) := of_none rfl

theorem RoundTrip.privQueueActivate : Statement (.privQueueActivate) := of_none rfl

theorem RoundTrip.privMsix : Statement (.privMsix) := of_none rfl

theorem RoundTrip.privHandover : Statement (.privHandover) := of_none rfl

theorem RoundTrip.rgn (cnt : BitVec 2) (q0 q1 q2 q3 : Quad) (sl : BitVec 4) : Statement (.rgn cnt q0 q1 q2 q3 sl) := by
  obtain ⟨h0, h1, h2, h3, h4, h5, h6, h7, h8⟩ := packG_bits (m := 52) (cnt := cnt.toNat) (q0 := q0.toNat) (q1 := q1.toNat) (q2 := q2.toNat) (q3 := q3.toNat) (sl := sl.toNat) (by decide) cnt.isLt q0.isLt q1.isLt q2.isLt q3.isLt sl.isLt
  refine of_raw rfl h0 ?_
  rw [decodeRaw, h1, maj52, h2, h3, h4, h5, h6, h7, h8]
  refine (fmt1_ok zeroOf_zero).trans ?_
  simp only [BitVec.ofNat_toNat, BitVec.setWidth_eq, spelled]

theorem RoundTrip.bkpt (tag : BitVec 26) : Statement (.bkpt tag) := by
  obtain ⟨h0, h1, h2⟩ := packJ_bits (m := 62) (disp := tag.toNat) (by decide) tag.isLt
  refine of_raw rfl h0 ?_
  rw [decodeRaw, h1, maj62, h2]
  rw [BitVec.ofNat_toNat, BitVec.setWidth_eq]; rfl

theorem RoundTrip.mxOperandWaitEnd : Statement (.mxOperandWaitEnd) := of_none rfl

theorem RoundTrip.mxComputeEnd : Statement (.mxComputeEnd) := of_none rfl

theorem RoundTrip.copyAdvance : Statement (.copyAdvance) := of_none rfl

theorem RoundTrip.copyComplete : Statement (.copyComplete) := of_none rfl

theorem RoundTrip.asyncTrapDelivery : Statement (.asyncTrapDelivery) := of_none rfl

theorem RoundTrip.foragerDeal : Statement (.foragerDeal) := of_none rfl

theorem RoundTrip.contextCompletion : Statement (.contextCompletion) := of_none rfl

theorem RoundTrip.binTimerExpiry : Statement (.binTimerExpiry) := of_none rfl

theorem RoundTrip.improvementReachesDie : Statement (.improvementReachesDie) := of_none rfl

theorem RoundTrip.killTakesEffect : Statement (.killTakesEffect) := of_none rfl

theorem RoundTrip.regionInstallComplete : Statement (.regionInstallComplete) := of_none rfl

theorem RoundTrip.regionAbortDelivery : Statement (.regionAbortDelivery) := of_none rfl

theorem RoundTrip.remoteDataReturn : Statement (.remoteDataReturn) := of_none rfl

theorem RoundTrip.remoteAccessTimeout : Statement (.remoteAccessTimeout) := of_none rfl

theorem RoundTrip.derateTakesEffect : Statement (.derateTakesEffect) := of_none rfl

theorem RoundTrip.windowSlotAgeGrant : Statement (.windowSlotAgeGrant) := of_none rfl

theorem RoundTrip.shortLivedExpiry : Statement (.shortLivedExpiry) := of_none rfl

theorem RoundTrip.haltComplete : Statement (.haltComplete) := of_none rfl

theorem RoundTrip.rowEviction : Statement (.rowEviction) := of_none rfl

theorem RoundTrip.eventDelivery : Statement (.eventDelivery) := of_none rfl

theorem RoundTrip.ktimerExpiry : Statement (.ktimerExpiry) := of_none rfl

theorem RoundTrip.watchdogExpiry : Statement (.watchdogExpiry) := of_none rfl

theorem RoundTrip.imemUncorrectableError : Statement (.imemUncorrectableError) := of_none rfl

theorem RoundTrip.queueTableError : Statement (.queueTableError) := of_none rfl

theorem RoundTrip.doorbell : Statement (.doorbell) := of_none rfl

theorem RoundTrip.apertureAccess : Statement (.apertureAccess) := of_none rfl

theorem RoundTrip.hostRegisterWrite : Statement (.hostRegisterWrite) := of_none rfl

theorem RoundTrip.leaseResetRequest : Statement (.leaseResetRequest) := of_none rfl

theorem RoundTrip.fwstart : Statement (.fwstart) := of_none rfl

theorem RoundTrip.powerOn : Statement (.powerOn) := of_none rfl

theorem RoundTrip.correctedError : Statement (.correctedError) := of_none rfl

theorem RoundTrip.uncorrectableError : Statement (.uncorrectableError) := of_none rfl

theorem RoundTrip.ceWindowEnd : Statement (.ceWindowEnd) := of_none rfl

theorem RoundTrip.inputVoltageOutOfRange : Statement (.inputVoltageOutOfRange) := of_none rfl

theorem RoundTrip.powerWindowEnd : Statement (.powerWindowEnd) := of_none rfl

theorem RoundTrip.inletOverTemperature : Statement (.inletOverTemperature) := of_none rfl

theorem RoundTrip.cicadaClockGate : Statement (.cicadaClockGate) := of_none rfl

theorem RoundTrip.cicadaPowerGate : Statement (.cicadaPowerGate) := of_none rfl

theorem RoundTrip.hangReport : Statement (.hangReport) := of_none rfl

theorem RoundTrip.linkDown : Statement (.linkDown) := of_none rfl

theorem RoundTrip.linkRetrain : Statement (.linkRetrain) := of_none rfl

theorem RoundTrip.i3cDomidWrite : Statement (.i3cDomidWrite) := of_none rfl

theorem RoundTrip.i3cLeasereq : Statement (.i3cLeasereq) := of_none rfl

theorem RoundTrip.entdaa : Statement (.entdaa) := of_none rfl

theorem RoundTrip.rstdaa : Statement (.rstdaa) := of_none rfl

theorem RoundTrip.setdasa : Statement (.setdasa) := of_none rfl

theorem RoundTrip.getpid : Statement (.getpid) := of_none rfl

theorem RoundTrip.getbcr : Statement (.getbcr) := of_none rfl

theorem RoundTrip.getdcr : Statement (.getdcr) := of_none rfl

theorem RoundTrip.getstatus : Statement (.getstatus) := of_none rfl

theorem RoundTrip.illegalInstruction : Statement (.illegalInstruction) := of_none rfl

theorem RoundTrip.scrubComplete : Statement (.scrubComplete) := of_none rfl

theorem RoundTrip.fabricRouteLost : Statement (.fabricRouteLost) := of_none rfl

theorem RoundTrip.fabricRouteRestored : Statement (.fabricRouteRestored) := of_none rfl

theorem RoundTrip.remoteAccessRequest : Statement (.remoteAccessRequest) := of_none rfl

theorem RoundTrip.remoteRegionMessage : Statement (.remoteRegionMessage) := of_none rfl

end Sys2Proof.Laws
end

