-- ==== Sys2Proof/Laws/Traps.lean ====
section
/-!
SUPPORT. What the shared operations of traps do, said once: a check, a lane that fails it, taking an exception under each
policy, the return from one, and the end of an instruction.
-/

-- The proofs here are many and small: checking them one after another keeps the memory of the compile low.
set_option Elab.async false

namespace Sys2Proof.Machine

open Sys2Proof

/-! ### Checks -/

/-- A lane that fails a check leaves the state alone: its trap is handled when the instruction ends. -/
@[simp] theorem Work.strike_s (w : Work) (r : LRef) (c : Byte) (d : DWord) : (w.strike r c d).s = w.s := by
  unfold Work.strike; split <;> rfl

@[simp] theorem Work.strike_l (w : Work) (r : LRef) (c : Byte) (d : DWord) : (w.strike r c d).l = w.l := by
  unfold Work.strike; split <;> rfl

@[simp] theorem Work.strike_live (w : Work) (r : LRef) (c : Byte) (d : DWord) :
    (w.strike r c d).live = w.live.filter fun x => !(x == r) := by
  unfold Work.strike; split <;> rfl

/-- The trap of a lane that is no helper saves the run's first address and the data given. -/
theorem Work.strike_traps {w : Work} {r : LRef} (h : (w.s.lane r).helper = false) (c : Byte) (d : DWord) :
    (w.strike r c d).traps = w.traps ++ [{ lane := r, cause := c, pc := w.l.start, data := d }] := by
  simp [Work.strike, h]

/-- A helper lane traps nothing and receives zeros (R77). -/
theorem Work.strike_helper {w : Work} {r : LRef} (h : (w.s.lane r).helper = true) (c : Byte) (d : DWord) :
    (w.strike r c d).traps = w.traps ∧ (w.strike r c d).zero = w.zero ++ [r] := by
  simp [Work.strike, h]

/-- What a fold of checks over lanes keeps: the state and the latch. -/
theorem foldl_strike_keeps (f : State → LRef → Verdict) :
    ∀ (ls : List LRef) (w : Work),
      let v := ls.foldl (fun w r => match f w.s r with | some (c, d) => w.strike r c d | none => w) w
      v.s = w.s ∧ v.l = w.l
  | [], _ => ⟨rfl, rfl⟩
  | r :: t, w => by
    have ih := foldl_strike_keeps f t (match f w.s r with | some (c, d) => w.strike r c d | none => w)
    simp only [List.foldl_cons]
    refine ⟨ih.1.trans ?_, ih.2.trans ?_⟩ <;> (split <;> simp)

/-- A check changes neither the state nor the latch. -/
@[simp] theorem Work.check_s (w : Work) (f : State → LRef → Verdict) : (w.check f).s = w.s :=
  (foldl_strike_keeps f w.live w).1

@[simp] theorem Work.check_l (w : Work) (f : State → LRef → Verdict) : (w.check f).l = w.l :=
  (foldl_strike_keeps f w.live w).2

/-- A check that every lane passes does nothing. -/
theorem Work.check_pass {w : Work} {f : State → LRef → Verdict} (h : ∀ r ∈ w.live, f w.s r = none) : w.check f = w := by
  unfold Work.check
  exact foldl_keep _ w w.live fun r hr => by simp [h r hr]

/-! ### Taking an exception and returning from one -/

/-- Taking an exception changes that lane alone. -/
theorem deliver_frame (s : State) (r : LRef) (c : Byte) (pc data : DWord) : LanesOnly [r] s (s.deliver r c pc data) :=
  LanesOnly.modLane s r _

/-- The lane in its handler: the saved registers, the shadow, the flag and the PC (R327). -/
theorem deliver_lane {s : State} {r : LRef} (h : s.has r) (c : Byte) (pc data : DWord) :
    let x := s.lane r
    let y := (s.deliver r c pc data).lane r
    y.tcause = c.setWidth 32 ∧ y.tpc = pc ∧ y.tdata = data ∧ y.shadow.loop = x.loop ∧ y.shadow.map = s.mapOf r ∧
      y.loop = none ∧ y.inHandler = true ∧ y.status = .ready ∧ y.pc = x.entry + x.tvec.setWidth 64 ∧
      y.regs = x.regs ∧ y.tags = x.tags ∧ y.stack = x.stack := by
  simp only [State.deliver, lane_modLane_self _ _ _ h]
  and_intros <;> trivial

@[simp] theorem Lane.returnTrap_inHandler (l : Lane) : l.returnTrap.inHandler = false := rfl
@[simp] theorem Lane.returnTrap_pc (l : Lane) : l.returnTrap.pc = l.tpc := rfl
@[simp] theorem Lane.returnTrap_regs (l : Lane) : l.returnTrap.regs = l.regs := rfl
@[simp] theorem Lane.returnTrap_tags (l : Lane) : l.returnTrap.tags = l.tags := rfl

/-! ### Policies -/

theorem sortBy_one {α : Type} (before : α → α → Bool) (x : α) : sortBy before [x] = [x] := rfl

/-- One trap whose policy is deliver, of a lane that can take it (R326, R327). -/
theorem handle_deliver {s : State} {ctx : Nat} {t : Trap} (h : s.handling t = .deliver) :
    s.handle ctx [t] = (s.deliver t.lane t.cause t.pc t.data).count ctx 6 1 := by
  simp [State.handle, sortBy_one, h]

/-- One trap whose policy kills its lane (R331). -/
theorem handle_killLane {s : State} {ctx : Nat} {t : Trap} (h : s.handling t = .killLane) :
    s.handle ctx [t] = s.exitLane t.lane true := by
  simp [State.handle, sortBy_one, h]

/-- A trap is delivered only under the policy deliver, to a lane with a handler that is not in it. -/
theorem handling_deliver_iff (s : State) (t : Trap) : s.handling t = .deliver ↔
    s.policy (s.group t.lane.1).ctx t.cause = 0 ∧ (s.lane t.lane).canDeliver = true := by
  unfold State.handling
  split <;> rename_i h <;> simp_all

/-- No trap, nothing to handle. -/
theorem Work.settleTraps_nil {w : Work} (h : w.traps = []) : w.settleTraps = w.s := by
  unfold Work.settleTraps; rw [h]

/-- A trap of a Kolesque core takes the crash path (R355, R365). -/
theorem Work.settleTraps_complex {w : Work} {t : Trap} {ts : List Trap} {k : Nat} (h : w.traps = t :: ts)
    (hk : w.l.agent = .kcore k) : w.settleTraps = w.s.crash t.cause := by
  unfold Work.settleTraps; rw [h]; simp [hk]

/-- Traps of a compute core are handled under their context's policies. -/
theorem Work.settleTraps_core {w : Work} {t : Trap} {ts : List Trap} {c : Nat} (h : w.traps = t :: ts)
    (hc : w.l.agent = .core c) : w.settleTraps = w.s.handle (w.s.group t.lane.1).ctx (t :: ts) := by
  unfold Work.settleTraps; rw [h]; simp [hc]

/-- An instruction's end is always a next state. -/
theorem Work.finish_next (w : Work) : ∃ t, w.finish = .next t := ⟨_, rfl⟩

theorem Work.done_next (w : Work) : ∃ t, w.done = .next t := ⟨_, rfl⟩

end Sys2Proof.Machine
end

