-- ==== Sys2Proof/Tests/Slice0.lean ====
section
/-!
SUPPORT. Tests of one step each, whose expected results are the spec's own words, tables and worked examples (the rule or
table is named at each), and the witnesses: for every statement that has hypotheses, states and operands that meet them.
-/

-- The proofs here are many and small: checking them one after another keeps the memory of the compile low.
set_option Elab.async false

open Sys2Proof Sys2Proof.Machine Sys2Proof.Machine.Claims

set_option maxRecDepth 100000

namespace Sys2Proof.Tests

/-! ### Ill-formed terms (R23 to R31, R44, R121): one for each check -/

theorem test_wf_pair : wf (.voteMask 9 8) = false ∧ wf (.voteMask 8 8) = true := by decide
theorem test_wf_quad : wf (.ldq 6 1 0) = false ∧ wf (.ldq 8 1 0) = true := by decide
theorem test_wf_quad_a : wf (.cmov 8 5) = false ∧ wf (.cmov 8 4) = true := by decide
theorem test_wf_shift : wf (.shli (.reg 1) (.reg 2) 32) = false ∧ wf (.shli (.reg 1) (.reg 2) 31) = true := by decide
theorem test_wf_frame : wf (.fld (.reg 5) 0 true 4) = false ∧ wf (.fld (.reg 4) 0 true 2) = false ∧ wf (.fld (.push 3) 0 true 4) = false ∧
    wf (.fld (.reg 4) 0 true 4) = true := by decide
theorem test_wf_scope : wf (.lda (.reg 1) 1 5) = false ∧ wf (.lda (.reg 1) 1 4) = true ∧ wf (.fence 0 5) = false := by decide
theorem test_wf_atom : wf (.atomAdd 1 1 0 5 0) = false ∧ wf (.atomAdd 1 1 0 0 5) = false ∧ wf (.atomAdd 1 1 1 0 1) = false ∧
    wf (.atomSwap 1 1 0 0 1) = false ∧ wf (.atomSwap 1 1 0 0 3) = false ∧ wf (.atomAdd 1 1 1 4 0) = true := by decide
theorem test_wf_cas : wf (.atomCas 1 1 0 0 0) = false ∧ wf (.atomCas 2 1 0 0 0) = true := by decide
theorem test_wf_record : wf (.rcvwait 8) = false ∧ wf (.rcvwait 7) = true := by decide
theorem test_wf_level : wf (.cdisp 8 8) = false ∧ wf (.cdisp 8 7) = true := by decide
theorem test_wf_convergence : wf (.cvsign 16) = false ∧ wf (.mxwait 16) = false ∧ wf (.cvinit 16 1) = false ∧ wf (.cvsign 15) = true := by decide
theorem test_wf_special : wf (.srd (.reg 1) 0x28) = false ∧ wf (.srd (.reg 1) 0x3F) = false ∧ wf (.srd (.reg 1) 0x80) = false ∧
    wf (.srd (.reg 1) 0x10) = false ∧ wf (.srd (.reg 2) 0x10) = true ∧ wf (.swr 0x10 (.reg 2)) = false ∧ wf (.swr 0x15 (.reg 2)) = true := by decide
theorem test_wf_region_count : wf (.rgn 0 1 2 0 0 0) = false ∧ wf (.rgn 0 1 0 0 0 2) = false ∧ wf (.rgn 1 1 1 0 0 0) = false ∧
    wf (.rgn 3 0 1 2 0 0) = false ∧ wf (.rgn 3 0 1 2 3 15) = true := by decide
theorem test_wf_seals : wf (.cseal 8 4 3) = false ∧ wf (.cseal 8 4 12) = true := by decide

/-! ### Words (the tables of instructions give each word) -/

-- Tables 2.3 and 6.11, 5.4 and 5.5, 7.1
theorem test_decode_exchange : decodeWord 0x18509167 = .ok (.shflXor (.reg 10) (.reg 9) 11) ∧
    decodeWord 0x1848800F = .ok (.redFadd (.reg 9) (.reg 8)) ∧ decodeWord 0x1860800A = .ok (.voteMask 12 8) := by decide
theorem test_decode_control : decodeWord 0x8C000002 = .ok (.bra 2) ∧ decodeWord 0x98000010 = .ok (.call 16) ∧
    decodeWord 0x901FFFFE = .ok (.brz 3 0x7FFFE) ∧ decodeWord 0x9417FFFD = .ok (.brnz 2 0x7FFFD) ∧ decodeWord 0x9C005008 = .ok (.trap 5) := by decide
theorem test_decode_capability : decodeWord 0xA8204141 = .ok (.cadd 4 4 10) := by decide
-- Tables of chapters 10, 12 to 18, 20, 21
theorem test_decode_frame : decodeWord 0x7C208000 = .ok (.fld (.reg 4) 0 true 0) ∧ decodeWord 0x7C400004 = .ok (.fld (.reg 8) 0 false 4) ∧
    decodeWord 0x80480005 = .ok (.fst (.reg 9) 0 false 5) ∧ decodeWord 0x80418008 = .ok (.fst (.reg 8) 1 true 8) := by decide
theorem test_decode_copy : decodeWord 0xAC404180 = .ok (.cpyin 8 4 12) ∧ decodeWord 0xAC208181 = .ok (.cpyout 4 8 12) ∧
    decodeWord 0xAC404182 = .ok (.cpycvt 8 4 12) ∧ decodeWord 0xAC009003 = .ok (.cpywait 9) ∧
    decodeWord 0xAC688004 = .ok (.pres (.reg 13) 8) ∧ decodeWord 0xAC008185 = .ok (.pclr 8 12) := by decide
theorem test_decode_barrier : decodeWord 0xB400C180 = .ok (.barinit 12 12) ∧ decodeWord 0xB458C001 = .ok (.bararr (.reg 11) 12) ∧
    decodeWord 0xB400C162 = .ok (.barwait 12 (.reg 11)) ∧ decodeWord 0xB400C003 = .ok (.barsync 12) ∧ decodeWord 0xB400C004 = .ok (.bardrop 12) ∧
    decodeWord 0xB4000005 = .ok .gbar ∧ decodeWord 0xB400C006 = .ok (.cvinit 0 12) ∧ decodeWord 0xB4080007 = .ok (.cvsign 1) ∧
    decodeWord 0xB4A0C008 = .ok (.strag 20 12) := by decide
theorem test_decode_launch : decodeWord 0xC0A08000 = .ok (.launch 20 8) ∧ decodeWord 0xC0608281 = .ok (.launcha 12 8 20) ∧
    decodeWord 0xC000C002 = .ok (.join 12) ∧ decodeWord 0xC048C003 = .ok (.jpoll (.reg 9) 12) := by decide
theorem test_decode_channel : decodeWord 0xB3188180 = .ok (.chbind 3 8 12) ∧ decodeWord 0xB318D001 = .ok (.chpush 3 (.reg 13)) ∧
    decodeWord 0xB07E3002 = .ok (.chpop (.reg 15) 3) ∧ decodeWord 0xB07C3003 = .ok (.chpeek (.reg 15) 3) ∧
    decodeWord 0xB0863004 = .ok (.chstat 16 3) ∧ decodeWord 0xB3180005 = .ok (.chclose 3) ∧ decodeWord 0xB3180006 = .ok (.chfree 3) := by decide
theorem test_decode_matrix : decodeWord 0xBC001000 = .ok (.mxwait 1) ∧ decodeWord 0xBC000001 = .ok .btake ∧ decodeWord 0xBC000002 = .ok .bpass ∧
    decodeWord 0xBD000003 = .ok (.mxzero 32) := by decide
theorem test_decode_task : decodeWord 0xC400C240 = .ok (.nemit 12 18) ∧ decodeWord 0xC4014001 = .ok (.bound 20) ∧
    decodeWord 0xC4812002 = .ok (.incrd 16 18) ∧ decodeWord 0xC481C243 = .ok (.incimp 16 28 18) := by decide
theorem test_decode_region : decodeWord 0xC8618000 = .ok (.aropen 12 24) ∧ decodeWord 0xC800C101 = .ok (.arjoin 12 8) ∧
    decodeWord 0xC800C002 = .ok (.arseal 12) ∧ decodeWord 0xC800C003 = .ok (.arvote 12) ∧ decodeWord 0xC800C004 = .ok (.arabort 12) ∧
    decodeWord 0xC880C005 = .ok (.arstat 16 12) := by decide
theorem test_decode_system : decodeWord 0xCC000500 = .ok .halt ∧ decodeWord 0xCC000605 = .ok (.dbgmark 5) ∧
    decodeWord 0xCC400702 = .ok (.perf (.reg 8) 2) ∧ decodeWord 0xCC400400 = .ok (.csum 8) := by decide
theorem test_decode_complex : decodeWord 0xCC200B00 = .ok (.evwait 4) ∧ decodeWord 0xCC005C00 = .ok (.qlock 5) ∧ decodeWord 0xCC005D00 = .ok (.qunlock 5) ∧
    decodeWord 0xCC308E00 = .ok (.ctxrunRun 6 8) ∧ decodeWord 0xCC308F01 = .ok .privIdentifierEntry := by decide

/-! ### States -/

/-- A lane exists. -/
def hasB (s : State) (r : LRef) : Bool := s.holds r.1 && decide (r.2 < (s.group r.1).lanes.length)

/-- `Ready` as a check. -/
def readyB (s : State) (l : Latch) : Bool :=
  s.issue == some l && decide (l.late = []) && decide l.lanes.Nodup && l.lanes.all (hasB s) && l.lanes.all fun r => !(s.lane r).atPassEnd || !(s.group r.1).taskKill

theorem ready_of {s : State} {l : Latch} (h : readyB s l = true) : Ready s l := by
  simp only [readyB, hasB, Bool.and_eq_true, beq_iff_eq, decide_eq_true_eq, List.all_eq_true, Bool.or_eq_true, Bool.not_eq_true'] at h
  obtain ⟨⟨⟨⟨h1, h0⟩, h2⟩, h3⟩, h4⟩ := h
  exact ⟨h1, h0, h2, fun r hr => h3 r hr, fun r hr ha => (h4 r hr).resolve_left (by simp [ha])⟩

/-- `InRange` as a check. -/
def rangeB (s : State) (l : Latch) (flds : List Fld) : Bool :=
  l.lanes.all fun r => flds.all fun f => inRange ((s.work l).num r f.code f.num) f.width (s.group r.1).regs

theorem range_of {s : State} {l : Latch} {flds : List Fld} (h : rangeB s l flds = true) : InRange s l flds := by
  simp only [rangeB, List.all_eq_true] at h
  exact h

/-- `Alone` as a check. -/
def aloneB (s : State) (l : Latch) (r : LRef) : Bool := readyB s l && l.lanes == [r] && !(s.lane r).helper && !(s.group r.1).taskKill

theorem alone_of {s : State} {l : Latch} {r : LRef} (h : aloneB s l r = true) : Alone s l r := by
  simp only [aloneB, Bool.and_eq_true, beq_iff_eq, Bool.not_eq_true'] at h
  obtain ⟨⟨⟨h1, h2⟩, h3⟩, h4⟩ := h
  exact ⟨ready_of h1, h2, h3, h4⟩

/-- `Delivers` as a check. -/
def deliversB (s : State) (l : Latch) (r : LRef) (cause : Byte) : Bool :=
  (match l.agent with | .core _ => true | _ => false) && s.policy (s.group r.1).ctx cause == 0 && (s.lane r).canDeliver

theorem delivers_of {s : State} {l : Latch} {r : LRef} {cause : Byte} (h : deliversB s l r cause = true) : Delivers s l r cause := by
  simp only [deliversB, Bool.and_eq_true, beq_iff_eq] at h
  obtain ⟨⟨h1, h2⟩, h3⟩ := h
  refine ⟨?_, h2, h3⟩
  cases ha : l.agent with
  | core c => exact ⟨c, rfl⟩
  | kcore k => simp [ha] at h1

/-- Lane 0 of the group of a placed word. -/
def r0 : LRef := (3, 0)

/-- A gather of lane 0, and one of all eight lanes, at the placed word. -/
def one : Latch := { agent := .core 0, row := 0, lanes := [r0], pc := 0x10000, start := 0x10000, word := 0 }
def eight : Latch := { one with lanes := [r0, (3, 1), (3, 2), (3, 3), (3, 4), (3, 5), (3, 6), (3, 7)] }

/-- The placed context with a gather latched. -/
def base (l : Latch) : State := { State.reset.withFetchWord 32 0 with agenda := [], issue := some l }

/-- Words of lane 0's registers. -/
def put (s : State) (ws : List (Nat × Word)) : State := s.modLane r0 fun x => ws.foldl (fun y w => y.wr w.1 ⟨w.2, false⟩) x

/-- Capabilities of lane 0's quads. -/
def caps (s : State) (cs : List (Nat × Cap)) : State := s.modLane r0 fun x => cs.foldl (fun y c => putCap y (4 * c.1) c.2 []) x

/-- A data capability of HBM, one of each scratchpad space, a code capability, a grid's and a region's handle. -/
def data : Cap := mkCap 0x20000 0x1F 0 0 0x20000 0x20100
def share : Cap := mkCap 128 0x1F 1 0 0 1024
def whole : Cap := mkCap 0 0x1F 2 0 0 4096
def ring : Cap := mkCap 512 0x1F 2 0 0 4096
def kids : Cap := mkHandle 0 0 2
def area : Cap := mkHandle (255 * 256) 0x80 1

/-- v0 to v3 are 5, 3, 0 and 1; then quads 3 to 9 hold the capabilities above, quad 10 a sealing authority for otype 5, quad 11
a capability sealed with it. -/
def rich : State :=
  caps (put (base one) [(0, 5), (1, 3), (2, 0), (3, 1)])
    [(3, data), (4, bootCap), (5, share), (6, whole), (7, kids), (8, area), (9, ring), (10, mkCap 5 0x1F 15 0 0 16), (11, withOtype data 5)]

/-- The word that an instruction leaves in a register of lane 0, with its poison. -/
def left (i : Instr) (s : State) (n : Nat) : Option PWord := match exec i s with | .next t => some (t.reg r0 n) | _ => none

/-- The result in v8 of an instruction of two sources, v10 and v11. -/
def two (i : Instr) (a b : Word) : Option Word := (left i (put (base one) [(10, a), (11, b)]) 8).map (·.val)

theorem alone_rich : Alone rich one r0 := alone_of (by decide)
theorem ready_eight : Ready (base eight) eight := ready_of (by decide)

/-! ### Worked results (Table 6.3) -/

theorem test_imul : two (.imul (.reg 8) (.reg 10) (.reg 11)) 0xFFFFFFFE 3 = some 0xFFFFFFFA := by decide
theorem test_imulh : two (.imulh (.reg 8) (.reg 10) (.reg 11)) 0xFFFFFFFE 3 = some 0xFFFFFFFF := by decide
theorem test_nmulh : two (.nmulh (.reg 8) (.reg 10) (.reg 11)) 0xFFFFFFFE 3 = some 2 := by decide
theorem test_iadd : two (.iadd (.reg 8) (.reg 10) (.reg 11)) 0x7FFFFFF0 0x20 = some 0x80000010 := by decide
theorem test_iadds : two (.iadds (.reg 8) (.reg 10) (.reg 11)) 0x7FFFFFF0 0x20 = some 0x7FFFFFFF := by decide
theorem test_isubs : two (.isubs (.reg 8) (.reg 10) (.reg 11)) 0x80000005 0x10 = some 0x80000000 := by decide
theorem test_iabs : two (.iabs (.reg 8) (.reg 10)) 0x80000000 0 = some 0x80000000 := by decide
theorem test_sar : two (.sar (.reg 8) (.reg 10) 11) 0x80000000 0x28 = some 0xFFFFFFFF := by decide
theorem test_rotl : two (.rotl (.reg 8) (.reg 10) 11) 0x80000001 0x21 = some 3 := by decide
theorem test_bfe_signed : two (.bfe (.reg 8) (.reg 10) 11) 0xDEADBEEF 0x00010808 = some 0xFFFFFFBE := by decide
theorem test_bfe_unsigned : two (.bfe (.reg 8) (.reg 10) 11) 0xDEADBEEF 0x00000808 = some 0xBE := by decide


/-! ### Witnesses: encodings, steps, registers -/

theorem witness_RoundTrip : wf (.iadd (.reg 8) (.reg 63) (.pop 15)) = true ∧ encode (.iadd (.reg 8) (.reg 63) (.pop 15)) ≠ none ∧
    wf (.aropenReopen 12 24) = true ∧ encode (.aropenReopen 12 24) ≠ none := by decide
theorem witness_DecodeInjective : decodeWord 0x98000010 = .ok (.call 16) ∧ privOp (.call 16) = none := by decide
theorem witness_PrivWordsDecode : (60#6).toNat % 4 = 0 ∧ encodePriv .privHandover 63 60 ≠ none ∧ encodePriv .privKeyDestroy 0 0 ≠ none := by decide
theorem witness_NoInstructions : (0xF7FFFFFF#32).toNat / 2 ^ 26 = 0x3D ∧ (0xD4000000#32).toNat / 2 ^ 26 = 0x35 ∧
    (0x1FFFFFFF#32).toNat / 2 ^ 26 = 0x07 ∧ (0xFC000000#32).toNat / 2 ^ 26 = 0x3F := by decide
theorem witness_EveryStepCloses : ∃ t, step (State.reset.withFetchWord 32 0) = .next t := ⟨_, rfl⟩
theorem witness_MemoryWrites : (Memory.setBytes {} 30 [1, 2, 3, 4]).wf = true := by decide
theorem witness_RegisterWrite : (63 : Nat) < 64 := by decide

/-- A loop state of two passes over two words. -/
def loopAt (p : Word) (i : Nat) : Loop := { n := 2, p := p, i := i, len := 2, steps := [], body := [] }

theorem witness_GoingPast : (loopAt 0 0).i + 1 < (loopAt 0 0).len ∧ ((loopAt 0 1).len ≤ (loopAt 0 1).i + 1 ∧ (loopAt 0 1).p + 1 ≠ (loopAt 0 1).n) ∧
    ((loopAt 1 1).len ≤ (loopAt 1 1).i + 1 ∧ (loopAt 1 1).p + 1 = (loopAt 1 1).n) := by decide

/-- Kolesque core 0 at an evwait, as withFetchWord places it (R360). -/
def onComplex : State := State.reset.withFetchWord 32 0xCC200B00

theorem witness_ComplexStepExecutes : onComplex.agenda = [.kissue 0] ∧ hasB onComplex (kGid 0, 0) = true ∧ (onComplex.kcore 0).status = .running ∧
    (onComplex.lane (kGid 0, 0)).status = .ready ∧ (onComplex.lane (kGid 0, 0)).loop = none ∧ (onComplex.lane (kGid 0, 0)).stepOver = false ∧
    fetchVerdict (onComplex.lane (kGid 0, 0)) (onComplex.lane (kGid 0, 0)).pc = none ∧
    (onComplex.kcore 0).imem.word 8 (onComplex.lane (kGid 0, 0)).pc.toNat = { val := 0xCC200B00, poison := false } ∧ isHint 0xCC200B00 = false ∧
    decodeWord 0xCC200B00 = .ok (.evwait 4) ∧ illegalOnComplex 0xCC200B00 = false := by decide
/-- With an empty agenda the machine chooses the same agent. -/
theorem witness_ComplexStepExecutes_chosen : ({ onComplex with agenda := [] } : State).nextAction = some (.kissue 0) := by decide

/-- A placed srd, and what its fetch leaves. -/
def placed : State := State.reset.withFetchWord 32 0xCC000000
def fetched : Work × Option Word :=
  let s1 := { placed with agenda := [], turn := 0, power := { placed.power with braked := sdel 0 placed.power.braked } }
  let s2 := s1.modRow 0 0 fun r => { r with lastIssue := 0 + 1 }
  let s3 := s2.modCore 0 fun k => { k with gathers := k.gathers + 1, gate := {} }
  (s3.work { eight with pc := 0x10000, start := 0x10000, word := 0 }).fetch 0x10000

theorem witness_ComputeStepExecutes : placed.agenda = [.issue 0] ∧ placed.power.pwrBrake = false ∧ placed.power.thermBrake = false ∧
    ({ placed with agenda := [], turn := 0, power := { placed.power with braked := sdel 0 placed.power.braked } } : State).pickGather 0 = some (0, eight.lanes) ∧
    (placed.core 0).cycles.toNat = 0 ∧ (∀ r ∈ eight.lanes, (placed.lane r).loop = none ∧ (placed.lane r).stepOver = false ∧ (placed.lane r).pc = 0x10000) ∧
    fetched.2 = some 0xCC000000 ∧ fetched.1.live = eight.lanes ∧ fetched.1.live.Nodup ∧ (∀ r ∈ fetched.1.live, (fetched.1.s.lane r).stepOver = false) ∧
    isHint 0xCC000000 = false := by decide
theorem witness_ComputeStepExecutes_chosen : ({ placed with agenda := [] } : State).nextAction = some (.issue 0) := by decide

/-! ### Witnesses: arithmetic, exchanges, votes, reductions. Registers at the ends of their ranges -/

theorem witness_IntegerResults : Ready (base eight) eight ∧ InRange (base eight) eight (fDAB 63 0 63) ∧ InRange (base eight) eight (fDA 63 0) :=
  ⟨ready_eight, range_of (by decide), range_of (by decide)⟩
theorem witness_ShiftResults : Ready (base eight) eight ∧ InRange (base eight) eight (fDAB 0 63 0) := ⟨ready_eight, range_of (by decide)⟩
theorem witness_FieldAndSelectResults : Ready rich one ∧ InRange rich one (fDAB 0 1 2) ∧ ∀ r ∈ one.lanes, (rd rich one r codeD 0).poison = false :=
  ⟨alone_rich.ready, range_of (by decide), by decide⟩
theorem witness_ThreeSourceResults : Ready rich one ∧ InRange rich one (fDAB 63 62 61) := ⟨alone_rich.ready, range_of (by decide)⟩
theorem witness_ComparisonResults : Ready rich one ∧ InRange rich one (fDAB 0 0 0) := ⟨alone_rich.ready, range_of (by decide)⟩
theorem witness_FloatResults : Ready rich one ∧ InRange rich one (fDAB 0 1 2) ∧ InRange rich one (fDA 63 63) :=
  ⟨alone_rich.ready, range_of (by decide), range_of (by decide)⟩
theorem witness_PackedResults : Ready (base eight) eight ∧ InRange (base eight) eight (fDAB 1 2 3) := ⟨ready_eight, range_of (by decide)⟩
theorem witness_ImmediateResults : Ready rich one ∧ InRange rich one (fDA 63 0) ∧ InRange rich one [rfld codeD 63] :=
  ⟨alone_rich.ready, range_of (by decide), range_of (by decide)⟩
theorem witness_RoundingKeepsFormatValues : (0x7F7F : Nat) < 2 ^ (e8m7.m + e8m7.ebits + 1) ∧ e8m7.read 0x7F7F ≠ .nan ∧ f16.read 1 ≠ .nan ∧
    f32.read 0xFF800000 ≠ .nan := by decide
theorem witness_LaneExchangeResults : Ready (base eight) eight ∧ InRange (base eight) eight (fDAB 8 9 10) ∧
    ∀ r ∈ eight.lanes, (rd (base eight) eight r codeB 10).poison = false := ⟨ready_eight, range_of (by decide), by decide⟩
theorem witness_VoteResults : Ready (base eight) eight ∧ InRange (base eight) eight (fDA 62 9) ∧ InRange (base eight) eight [rfld codeD 62 2, rfld codeA 9] ∧
    ∀ r ∈ eight.lanes, (rd (base eight) eight r codeA 9).poison = false := ⟨ready_eight, range_of (by decide), range_of (by decide), by decide⟩
theorem witness_ReductionResults : Ready (base eight) eight ∧ InRange (base eight) eight (fDA 9 8) := ⟨ready_eight, range_of (by decide)⟩

/-! ### Witnesses: capabilities -/

theorem witness_CapabilityReads : Ready rich one ∧ InRange rich one [rfld codeD 62 2, rfld codeA 12 4] ∧ InRange rich one [rfld codeD 63 1, rfld codeA 60 4] :=
  ⟨alone_rich.ready, range_of (by decide), range_of (by decide)⟩
theorem witness_CapabilityMoves : InRange rich one (fCap 60 12 []) ∧ InRange rich one [rfld codeD 60 4] ∧ InRange rich one (fCap 60 12 [rfld codeB 0]) ∧
    ∀ r ∈ one.lanes, rdBad rich one r codeA 12 = false ∧ (rd rich one r codeB 0).poison = false ∧ (rdCap rich one r codeA 12).otype = 0 :=
  ⟨range_of (by decide), range_of (by decide), range_of (by decide), by decide⟩
/-- Bounds of 5 bytes, at exponent 0, which both csetb and csetbx set. -/
theorem witness_CapabilityBounds : InRange rich one (fCap 60 12 [rfld codeB 0]) ∧ ∀ r ∈ one.lanes,
    rdBad rich one r codeA 12 = false ∧ (rd rich one r codeB 0).poison = false ∧ (rdCap rich one r codeA 12).tag = true ∧ (rdCap rich one r codeA 12).otype = 0 ∧
    (rdCap rich one r codeA 12).base ≤ (rdCap rich one r codeA 12).cursor.toNat ∧
    ((rdCap rich one r codeA 12).cursor.toNat + (rd rich one r codeB 0).val.toNat : Nat) ≤ (rdCap rich one r codeA 12).top ∧
    (rdCap rich one r codeA 12).cursor.toNat = 0x20000 ∧ (rd rich one r codeB 0).val.toNat = 5 := ⟨range_of (by decide), by decide⟩
theorem witness_CapabilitySeals : InRange rich one (fCap 60 12 [rfld codeB 40 4]) ∧ InRange rich one (fCap 60 44 [rfld codeB 40 4]) ∧
    (let k := rdCap rich one r0 codeB 40
     rdBad rich one r0 codeA 12 = false ∧ rdBad rich one r0 codeB 40 = false ∧ rdBad rich one r0 codeA 44 = false ∧ k.tag = true ∧ k.otype = 0 ∧ k.space = 15 ∧
     k.base ≤ k.cursor.toNat ∧ (k.cursor.toNat : Int) < k.top ∧ 4 ≤ k.cursor.toNat ∧ k.cursor.toNat ≤ 15 ∧
     (rdCap rich one r0 codeA 12).tag = true ∧ (rdCap rich one r0 codeA 12).otype = 0 ∧
     (rdCap rich one r0 codeA 44).tag = true ∧ 4 ≤ (rdCap rich one r0 codeA 44).otype ∧ (rdCap rich one r0 codeA 44).otype = k.cursor.toNat) :=
  ⟨range_of (by decide), range_of (by decide), by decide⟩
theorem witness_ScratchRoots : InRange rich one (fCap 60 12 [rfld codeB 3]) ∧ rdBad rich one r0 codeA 12 = false ∧ (rd rich one r0 codeB 3).poison = false ∧
    (rdCap rich one r0 codeA 12).tag = true ∧ (rdCap rich one r0 codeA 12).otype = 0 ∧ (rd rich one r0 codeB 3).val.toNat = 1 ∧
    (rdCap rich one r0 codeA 12).perm 0 = true := ⟨range_of (by decide), by decide, by decide, by decide, by decide, by decide, by decide⟩
theorem witness_CapabilitiesNeverGrow : Instr.cadd 60 12 0 ∈ derivers 60 12 0 ∧ (rich.lane r0).owned = [] ∧ (rich.lane r0).stale = [] ∧
    (rich.lane r0).regs.length = 64 ∧ one.agent = .core (rich.group r0.1).coreOf ∧ (rich.lane r0).loop = none ∧ one.hints.idx = none ∧
    (left (.cadd 60 12 0) rich 60).map (·.val) = some 0x20005 ∧
    (let c := rdCap rich one r0 codeA 12
     c.base ≤ c.cursor.toNat ∧ (c.cursor.toNat : Int) ≤ c.top ∧ c.top - c.base ≤ (2 ^ 21 - 1) * 2 ^ c.exp ∧ c.exp ≤ 43) := by decide

/-! ### Witnesses: memory -/

/-- The state an access leaves behind, and its place. -/
def seen (s : State) (l : Latch) (r : LRef) (e : MemRow) : State × Option Spot :=
  let x := ((counted s l e.flds).work l).resolve r e.acc
  (x.1.s, x.2)

/-- Lane 0 has a handler at 0x40. -/
def handled : State := rich.modLane r0 fun x => { x with tvec := 0x40 }

/-- Lines 0 of the block wait for a copy's bytes. -/
def absent : State := rich.modBlock 2 fun b => { b with pclr := tput 1 0 b.pclr }

def ldw3 (s : State) : MemRow := ⟨.ldw (.reg 8) 3 1, [rfld codeD 8, qfld 3], quadAcc s r0 3 (disp15 s one r0 1 * 4) 4 [0] .read⟩
def ldw5 (s : State) : MemRow := ⟨.ldw (.reg 8) 5 0, [rfld codeD 8, qfld 5], quadAcc s r0 5 (disp15 s one r0 0 * 4) 4 [0] .read⟩
def ldq3 (s : State) : MemRow := ⟨.ldq 60 3 0, [rfld codeD 60 4, qfld 3], quadAcc s r0 3 (disp15 s one r0 0 * 16) 16 [0] .read⟩
def ldc5 (s : State) : MemRow := ⟨.ldc 60 5 1, [rfld codeD 60 4, qfld 5], quadAcc s r0 5 (disp15 s one r0 1 * 16) 16 [0, 2] .read⟩
def stw5 (s : State) : MemRow := ⟨.stw (.reg 0) 5 0, [rfld codeD 0, qfld 5], quadAcc s r0 5 (disp15 s one r0 0 * 4) 4 [1] .write⟩
def stw3 (s : State) : MemRow := ⟨.stw (.reg 0) 3 63, [rfld codeD 0, qfld 3], quadAcc s r0 3 (disp15 s one r0 63 * 4) 4 [1] .write⟩
def stc5 (s : State) (d : Reg) : MemRow := ⟨.stc d 5 0, [rfld codeD d 4, qfld 5], quadAcc s r0 5 (disp15 s one r0 0 * 16) 16 [1, 3] .write⟩

theorem lands_of {s v : State} {l : Latch} {r : LRef} {e : MemRow} {p : Spot}
    (h : ((counted s l e.flds).work l).resolve r e.acc = (v.work l, some p)) : Lands s l r e v p := h

/-- A load from HBM and one from scratchpad land and may be read; on an absent line the lane parks. -/
theorem witness_LoadResults_hbm : ldw3 rich ∈ (wordLoads rich one r0 8 3 1 0 0).map (·.1) ∧ InRange rich one (ldw3 rich).flds ∧
    (∃ v p, Lands rich one r0 (ldw3 rich) v p ∧ p = .hbm 0 0x20004 ∧ (sees v r0 p 4).isSome = true) :=
  ⟨.tail _ (.tail _ (.tail _ (.tail _ (.head _)))), range_of (by decide), (seen rich one r0 (ldw3 rich)).1, .hbm 0 0x20004, lands_of (by rfl), rfl, by rfl⟩
theorem witness_LoadResults_scratch : (∃ v p, Lands rich one r0 (ldw5 rich) v p ∧ p = .scratch 2 128 ∧ (sees v r0 p 4).isSome = true) ∧
    ∃ v, Lands absent one r0 (ldw5 absent) v (.scratch 2 128) ∧ v.present 2 1 = false :=
  ⟨⟨(seen rich one r0 (ldw5 rich)).1, .scratch 2 128, lands_of (by rfl), rfl, by rfl⟩, (seen absent one r0 (ldw5 absent)).1, lands_of (by rfl), by rfl⟩
theorem witness_LoadResults_wide : (∃ v p, Lands rich one r0 (ldq3 rich) v p ∧ (sees v r0 p 16).isSome = true) ∧
    (∃ v p, Lands rich one r0 (ldc5 rich) v p ∧ (sees v r0 p 16).isSome = true) ∧ InRange rich one (ldq3 rich).flds ∧ InRange rich one (ldc5 rich).flds :=
  ⟨⟨(seen rich one r0 (ldq3 rich)).1, .hbm 0 0x20000, lands_of (by rfl), by rfl⟩,
   ⟨(seen rich one r0 (ldc5 rich)).1, .scratch 2 144, lands_of (by rfl), by rfl⟩, range_of (by decide), range_of (by decide)⟩
/-- The pages at 0x20000 are another device's; or its line holds a tentative version of a region that installs. -/
def away : State := rich.modCore 0 fun c =>
  { c with tlb := [{ asid := 0, va := 0x20000, size := 4096, dev := 9, pa := 0x7000, rd := true, w := true, x := false, pol := 0 }] }
def installing : State :=
  { rich with regions := [(0, { state := .committing })] }.modDie (homeDie 0x20004) fun d => { d with dir := [⟨0x20004 / 128, 0, []⟩] }
def answered : State := away.modLane r0 fun x =>
  { x with returned := [⟨{ id := 0, gid := 3, lane := 0, dev := 9, addr := 0x7004, size := 4, va := 0x20004 }, [1, 2, 3, 4], false, false, false⟩] }
theorem witness_LoadResults_away : ∃ v, Lands away one r0 (ldw3 away) v (.remote 9 0x7004 0x20004) ∧ brought v r0 0x20004 4 = none :=
  ⟨(seen away one r0 (ldw3 away)).1, lands_of (by rfl), by rfl⟩
theorem witness_LoadResults_installing : ∃ v, Lands installing one r0 (ldw3 installing) v (.hbm 0 0x20004) ∧ v.stalled 0x20004 = true :=
  ⟨(seen installing one r0 (ldw3 installing)).1, lands_of (by rfl), by rfl⟩
theorem witness_LoadResults_answered : ∃ v, Lands answered one r0 (ldw3 answered) v (.remote 9 0x7004 0x20004) ∧
    (sees v r0 (.remote 9 0x7004 0x20004) 4).isSome = true := ⟨(seen answered one r0 (ldw3 answered)).1, lands_of (by rfl), by rfl⟩
/-- A store to scratchpad, to the last word within a capability of HBM, and of a tagged capability without FRM. -/
theorem witness_StoreResults : (∃ v, Lands rich one r0 (stw5 rich) v (.scratch 2 128) ∧ Quiet v r0 (.scratch 2 128)) ∧
    (∃ v, Lands rich one r0 (stw3 rich) v (.hbm 0 0x200FC) ∧ Quiet v r0 (.hbm 0 0x200FC)) ∧
    (∃ v, Lands rich one r0 (stc5 rich 12) v (.scratch 2 128) ∧ Quiet v r0 (.scratch 2 128)) ∧
    (rich.cap r0 12).tag = true ∧ (rich.cap r0 12).perm 6 = false :=
  ⟨⟨(seen rich one r0 (stw5 rich)).1, lands_of (by rfl), by decide, by decide, by decide⟩, ⟨(seen rich one r0 (stw3 rich)).1, lands_of (by rfl), by decide, by decide, by decide, by decide⟩,
   ⟨(seen rich one r0 (stc5 rich 12)).1, lands_of (by rfl), by decide, by decide, by decide⟩, by decide, by decide⟩

/-- A store to another device's page, by a group in no region, and by a member of region 0. -/
def far : State :=
  { away with regions := [(0, { state := .opened, members := [3] })] }.modGroup 3 fun g =>
    { g with region := some { handle := 255 * 256, target := {} } }
theorem witness_StoreResults_remote : (∃ v, Lands away one r0 (stw3 away) v (.remote 9 0x70FC 0x200FC) ∧ (v.group r0.1).region = none) ∧
    ∃ v, Lands far one r0 (stw3 far) v (.remote 9 0x70FC 0x200FC) ∧ v.memberOf r0.1 = some 0 :=
  ⟨⟨(seen away one r0 (stw3 away)).1, lands_of (by rfl), by rfl⟩, (seen far one r0 (stw3 far)).1, lands_of (by rfl), by rfl⟩

def atom3 (i : Instr) : MemRow := ⟨i, [rfld codeD 0 2, qfld 3], quadAcc rich r0 3 0 4 [0, 1, 4] .rmw⟩
/-- An atom on HBM at a granule that nothing holds; its cas compares with an unpoisoned word. -/
theorem witness_AtomicResults : InRange rich one [rfld codeD 0 2, qfld 3] ∧ (rich.reg r0 (regNo rich one r0 codeD 0 + 1)).poison = false ∧
    ∃ v, Lands rich one r0 (atom3 (.atomCas 0 3 0 0 4)) v (.hbm 0 0x20000) ∧ (sees { v with l1 := [] } r0 (.hbm 0 0x20000) 4).isSome = true ∧ Quiet v r0 (.hbm 0 0x20000) ∧
      (v.group r0.1).spec = [] ∧ v.dirUsed (homeDie 0x20000) < dirCapacity :=
  ⟨range_of (by decide), by decide, (seen rich one r0 (atom3 (.atomCas 0 3 0 0 4))).1, lands_of (by rfl), by rfl, ⟨by decide, by decide, by decide, by decide⟩, by rfl, by decide⟩

/-- An access through quad 15 of lane 0, holding `c`, at a displacement of `n` words. -/
def through (c : Cap) (n : BitVec 15) : State × MemRow :=
  let s := caps handled [(15, c)]
  (s, ⟨.ldw (.reg 8) 15 n, [rfld codeD 8, qfld 15], quadAcc s r0 15 (disp15 s one r0 n * 4) 4 [0] .read⟩)

def trapsB (x : State × MemRow) (cause : Byte) : Bool :=
  aloneB x.1 one r0 && rangeB x.1 one x.2.flds && deliversB x.1 one r0 cause

/-- Each check of R142 failed alone, the bound missed by one byte at either end. -/
theorem witness_AccessTraps :
    (let x := through { data with tag := false } 0
     trapsB x 0x04 = true ∧ x.2.acc.poison = false ∧ x.2.acc.cap.tag = false) ∧
    (let x := through (withOtype data 4) 0
     trapsB x 0x07 = true ∧ x.2.acc.cap.tag = true ∧ x.2.acc.cap.otype ≠ 0) ∧
    (let x := through (mkCap 0x20000 0x1E 0 0 0x20000 0x20100) 0
     trapsB x 0x06 = true ∧ x.2.acc.cap.tag = true ∧ x.2.acc.cap.otype = 0 ∧ x.2.acc.cap.perm 0 = false) ∧
    (let x := through (mkCap 5 0x1F 3 0 0 16) 0
     trapsB x 0x06 = true ∧ x.2.acc.cap.otype = 0 ∧ 2 < x.2.acc.cap.space) ∧
    (let x := through data 64
     trapsB x 0x05 = true ∧ x.2.acc.cap.perm 0 = true ∧ x.2.acc.cap.top < (x.2.acc.addr.toNat : Int) + 4) ∧
    (let x := through data 0x7FFF
     trapsB x 0x05 = true ∧ (x.2.acc.addr.toNat : Int) < x.2.acc.cap.base ∧ x.2.acc.cap.space ≤ 2) ∧
    (let x := through (mkCap 0x20001 0x1F 0 0 0x20000 0x20100) 0
     trapsB x 0x0B = true ∧ x.2.acc.cap.base ≤ (x.2.acc.addr.toNat : Int) ∧ (x.2.acc.addr.toNat : Int) + 4 ≤ x.2.acc.cap.top ∧ x.2.acc.addr.toNat % 4 ≠ 0) := by
  decide
/-- Step 7: the last word of the share and of the block passed by one; a page that is not there, its fault new, held already, and
the queue full; an access beyond 2^56, which is fatal. Step 8 on another device's page. -/
def unmapped : State × MemRow := through (mkCap (2 ^ 40) 0x1F 0 0 (2 ^ 40) (2 ^ 40 + 256)) 0
def missing (n : Nat) : FaultRec := { va := n, asid := 0, core := 0, reason := 0, level := 3, kind := .read, fatal := false }
def located (x : State × MemRow) : State × Except (Bool × Nat × Nat) Phys :=
  (counted x.1 one x.2.flds).locate (some 0) 0 (x.1.ctx 0).hdr.asid x.2.acc.addr.toNat x.2.acc.kind
def errorOf : Except (Bool × Nat × Nat) Phys → Option Bool
  | .error e => some e.1
  | .ok _ => none
theorem witness_AccessTraps_places :
    (let x := through (mkCap 0 0x1F 1 0 0 0x100000) ((BitVec.ofNat 15 (32 * ((rich.block 2).shareOn 0).lines)))
     trapsB x 0x05 = true ∧ (x.1.group 3).agent = .core 0 ∧ x.2.acc.cap.space = 1 ∧ x.2.acc.cap.perm 0 = true ∧
     x.2.acc.addr.toNat = 128 * ((x.1.block 2).shareOn 0).lines ∧ (x.2.acc.addr.toNat : Int) + 4 ≤ x.2.acc.cap.top) ∧
    (let x := through (mkCap 0 0x1F 2 0 0 0x100000) ((BitVec.ofNat 15 (32 * (rich.block 2).lines)))
     trapsB x 0x05 = true ∧ x.2.acc.cap.space = 2 ∧ x.2.acc.addr.toNat = 128 * (x.1.block 2).lines) ∧
    (errorOf (located unmapped).2 = some false ∧ unmapped.2.acc.cap.space = 0 ∧ unmapped.2.acc.cap.perm 0 = true ∧
      aloneB unmapped.1 one r0 = true ∧ ((located unmapped).1.die 0).faults = [] ∧ freeIndex [] = some 0 ∧
      (missing (2 ^ 40 + 4095)).joins 0 (2 ^ 40) .read false = true) ∧
    (let x := through (mkCap (2 ^ 56) 0x1F 0 0 (2 ^ 56) (2 ^ 56 + 256)) 0
     errorOf (located x).2 = some true ∧ trapsB x 0x09 = true ∧ x.2.acc.addr.toNat % 4 = 0) ∧
    (let s := caps { handled with cores := away.cores } [(4, mkCap 0x20000 0x1F 0 0 0x20000 0x20100)]
     deliversB s one r0 0x06 = true ∧ (s.cap r0 16).tag = true ∧ (s.cap r0 16).perm 7 = false ∧ (s.cap r0 16).perm 6 = false ∧
     (((counted s one [rfld codeD 16 4, qfld 3]).work one).resolve r0 (quadAcc s r0 3 0 16 [1, 3] .write)).2 = some (.remote 9 0x7000 0x20000)) := by decide
theorem lists {α : Type} (v : α) : ∀ (l : List Nat) (k : Nat), k ∈ l → tget k (l.map fun j => (j, v)) = some v
  | i :: t, k, h => by
    by_cases e : i = k
    · simp [tget, e]
    · simp only [List.map_cons, tget, e, if_false]
      exact lists v t k ((List.mem_cons.mp h).resolve_left (Ne.symm e))
theorem witness_AccessTraps_full : freeIndex ((List.range 1024).map fun k => (k, missing 0)) = none ∧
    ∀ q ∈ (List.range 1024).map fun k => (k, missing 0), q.2.joins 0 (2 ^ 40) .read false = false := by
  refine ⟨List.find?_eq_none.mpr fun k hk => by rw [lists (missing 0) (List.range 1024) k hk]; simp, fun q hq => ?_⟩
  obtain ⟨k, -, rfl⟩ := List.mem_map.mp hq
  change FaultRec.joins (missing 0) 0 (2 ^ 40) .read false = false
  decide
/-- A poisoned capability; and a frame capability stored through one without FRM (R146). -/
theorem witness_AccessTraps_poison_and_frame :
    (let s := handled.modLane r0 fun x => x.wr 13 ⟨0, true⟩
     aloneB s one r0 = true ∧ s.quadPoison r0 12 = true ∧ deliversB s one r0 0x0A = true) ∧
    (let s := caps handled [(4, mkCap 0x20000 0x5F 0 0 0x20000 0x20100)]
     aloneB s one r0 = true ∧ rangeB s one (stc5 s 16).flds = true ∧ (s.cap r0 16).tag = true ∧ (s.cap r0 16).perm 6 = true ∧
     (stc5 s 16).acc.cap.perm 6 = false ∧ (((counted s one (stc5 s 16).flds).work one).resolve r0 (stc5 s 16).acc).2 = some (.scratch 2 128)) := by decide

/-! ### Witnesses: channels -/

/-- The state an instruction leaves, with the gather latched as before. -/
def after (i : Instr) (s : State) : State := match exec i s with | .next t => t | _ => s

/-- `Bound` as a check. -/
def boundB (s : State) (r : LRef) (n off : Nat) (ws : List Nat := [0, 1, 2]) : Bool :=
  (match (s.group r.1).chans.getD n none with | some (o, _) => o == off | none => false) &&
  (s.blocks.any fun x => x.bid == (s.group r.1).block) && ws.all (fun i => !((s.block (s.group r.1).block).ringWord off i).poison) &&
  (s.block (s.group r.1).block).ringArmed off && decide (1 ≤ (s.block (s.group r.1).block).ringCap off)

theorem bound_of {s : State} {r : LRef} {n off : Nat} {ws : List Nat} (h : boundB s r n off ws = true) : Bound s r n off ws := by
  simp only [boundB, Bool.and_eq_true, Bool.not_eq_true', decide_eq_true_eq, List.all_eq_true] at h
  obtain ⟨⟨⟨⟨h1, h2⟩, h3⟩, h4⟩, h5⟩ := h
  refine ⟨?_, h2, h3, h4, h5⟩
  split at h1
  · rename_i o k e; simp at h1; exact ⟨k, by rw [e, h1]⟩
  · simp at h1

/-- Channel 15 is bound to a ring of 16 entries at offset 512; then with an entry; then full; then closed, and empty. -/
def ringed : State := after (.chbind 15 36 16) (put rich [(16, 16)])
def filled : State := after (.chpush 15 (.reg 0)) ringed
def full : State := ringed.modBlock 2 fun b => { b with scratch := b.scratch.writeWord 8 520 ⟨16, false⟩ }
def shut : State := after (.chclose 15) ringed

theorem test_chbind : (ringed.block 2).ringWord 512 0 = ⟨0xC0000010, false⟩ ∧ (ringed.block 2).ringWord 512 3 = ⟨1, false⟩ := by decide
theorem test_chpush : (filled.block 2).ringWord 512 2 = ⟨1, false⟩ ∧ (filled.block 2).scratch.word 8 528 = ⟨5, false⟩ := by decide
theorem test_chpop : (left (.chpop (.reg 8) 15) filled 8) = some ⟨5, false⟩ := by decide
theorem test_chpop_closed : (left (.chpop (.reg 8) 15) shut 8) = some ⟨0, false⟩ := by decide

theorem witness_ChannelMoves_push : Alone ringed one r0 ∧ Bound ringed r0 15 512 [0, 1, 2] ∧ (ringed.lane r0).heldA = none ∧ InRange ringed one [rfld codeA 0] ∧
    (ringed.block 2).ringClosed 512 = false ∧ ringed.pushWaiting 2 512 = false ∧ (ringed.block 2).ringCount 512 < (ringed.block 2).ringCap 512 :=
  ⟨alone_of (by decide), bound_of (by decide), by decide, range_of (by decide), by decide, by decide, by decide⟩
theorem witness_ChannelMoves_shut : (let s := shut.modLane r0 fun x => { x with tvec := 0x40 }
    boundB s r0 15 512 = true ∧ (s.block 2).ringClosed 512 = true ∧ deliversB s one r0 0x0C = true) := by decide
theorem witness_ChannelMoves_full : Alone full one r0 ∧ Bound full r0 15 512 [0, 1, 2] ∧ (full.block 2).ringClosed 512 = false ∧
    (full.block 2).ringCount 512 = (full.block 2).ringCap 512 := ⟨alone_of (by decide), bound_of (by decide), by decide, by decide⟩
theorem witness_ChannelMoves_pop : Alone filled one r0 ∧ Bound filled r0 15 512 [0, 1, 2] ∧ InRange filled one [rfld codeD 8] ∧ filled.popWaiting 2 512 = false ∧
    (filled.block 2).ringCount 512 = 1 := ⟨alone_of (by decide), bound_of (by decide), range_of (by decide), by decide, by decide⟩
theorem witness_ChannelMoves_empty : Alone shut one r0 ∧ Bound shut r0 15 512 [0, 1, 2] ∧ shut.popWaiting 2 512 = false ∧ (shut.block 2).ringCount 512 = 0 ∧
    (shut.block 2).ringClosed 512 = true ∧ (ringed.block 2).ringCount 512 = 0 ∧ (ringed.block 2).ringClosed 512 = false :=
  ⟨alone_of (by decide), bound_of (by decide), by decide, by decide, by decide, by decide, by decide⟩
/-- A ring of the least size that ends within the scratchpad; one that is armed already; one with a second binding. -/
theorem witness_ChannelControl : (let s := put rich [(16, 16)]
     let c := rdCap s one r0 codeA 36
     aloneB s one r0 = true ∧ rangeB s one [rfld codeA 36 4, rfld codeB 16] = true ∧ rdBad s one r0 codeA 36 = false ∧ (rd s one r0 codeB 16).poison = false ∧
     c.tag = true ∧ c.otype = 0 ∧ c.space = 2 ∧ c.perm 0 = true ∧ c.perm 1 = true ∧ c.cursor.toNat % 16 = 0 ∧
     (rd s one r0 codeB 16).val.toNat ∈ [16, 32, 64, 128, 256, 512, 1024, 2048, 4096] ∧ c.base ≤ c.cursor.toNat ∧ (c.cursor.toNat : Int) + 80 ≤ c.top ∧
     c.cursor.toNat + 80 ≤ s.spaceSize r0 c.space ∧ ((s.block 2).ringWord 512 0).poison = false ∧ (s.group 3).chans.getD 0 none = none ∧
     (s.block 2).ringArmed 512 = false ∧ (ringed.block 2).ringArmed 512 = true ∧ (ringed.block 2).ringCap 512 = 16 ∧ ((ringed.block 2).ringWord 512 3).poison = false ∧ (ringed.group 3).chans.getD 0 none = none) ∧
    ((ringed.group 3).parkedOn 15 = false ∧ ((ringed.block 2).ringWord 512 3).val.toNat % 65536 = 1) ∧
    (let s := after (.chbind 0 36 16) ringed
     boundB s r0 15 512 = true ∧ (s.group 3).parkedOn 15 = false ∧ ((s.block 2).ringWord 512 3).val.toNat % 65536 = 2) ∧
    (let s := ringed.modGroup 3 fun g =>
       { g with lanes := g.lanes.zipIdx.map fun x => if x.2 = 1 then { x.1 with status := .parked (.pop 15 512 1 true false 0) 0x10000 }
                                                    else { x.1 with tvec := 0x40 } }
     boundB s r0 15 512 = true ∧ (s.group 3).parkedOn 15 = true ∧ deliversB s one r0 0x0C = true) := by decide

/-! ### Witnesses: control flow -/

theorem witness_JumpResults : Ready rich one ∧ (∀ r ∈ one.lanes, (rich.group r.1).taskKill = false) ∧ InRange rich one [rfld codeA 2] ∧
    InRange rich one [rfld codeA 16 4] ∧ (rd rich one r0 codeA 2).poison = false ∧ (rd rich one r0 codeA 2).val = 0 ∧ (rd rich one r0 codeA 3).val ≠ 0 ∧
    (rdBad rich one r0 codeA 16 = false ∧ (rdCap rich one r0 codeA 16).tag = true ∧ (rdCap rich one r0 codeA 16).otype = 0 ∧ (rdCap rich one r0 codeA 16).perm 5 = true) :=
  ⟨alone_rich.ready, by decide, range_of (by decide), range_of (by decide), by decide⟩
/-- A stack of 7 entries, one of 8, one of 256, and none. -/
theorem witness_CallResults : (let s := rich.modLane r0 fun x => { x with depth := 7, stack := List.replicate 7 bootCap }
     readyB s one = true ∧ (s.lane r0).depth < 8 ∧ (s.lane r0).stack.length < 8 ∧ 1 ≤ (s.lane r0).depth) ∧
    (let s := handled.modLane r0 fun x => { x with depth := 256, stack := List.replicate 8 bootCap }
     aloneB s one r0 = true ∧ 256 ≤ (s.lane r0).depth ∧ deliversB s one r0 0x05 = true) ∧
    ((rich.lane r0).unexited = true ∧ (rich.group 3).region = none ∧ (rich.block 2).roster = [] ∧ (rich.grid 1).coop = false ∧ (rich.lane r0).depth = 0) := by decide
theorem witness_TrapsAndReturns : (let s := { (base eight) with groups := (base eight).groups.map fun g => { g with lanes := g.lanes.map fun x => { x with tvec := 0x40 } } }
     readyB s eight = true ∧ (∀ r ∈ eight.lanes, deliversB s eight r 0x10 = true ∧ deliversB s eight r 0x11 = true ∧ (s.lane r).helper = false) ∧
     ∀ r ∈ eight.lanes, ∀ q ∈ eight.lanes, (s.group r.1).ctx = (s.group q.1).ctx) ∧
    (let s := (after (.trap 63) handled).modLane r0 fun x => x
     readyB s one = true ∧ (s.lane r0).inHandler = true ∧ (s.lane r0).shadow.map = (s.row 0 0).map) ∧
    (rich.policy 0 0x10 = 0 ∧ (rich.lane r0).canDeliver = false ∧ (rich.lane r0).unexited = true ∧ (rich.ctx 0).phase = .running ∧ (rich.group 3).isK = false) := by decide
/-- A branch out of the code bounds keeps them (R111): the next fetch there is a bounds fault (R112). -/
theorem test_bra_far : ((after (.bra 0x20000) rich).lane r0).pc = 0x90000 ∧
    fetchVerdict ((after (.bra 0x20000) rich).lane r0) 0x90000 = some (0x05, 0x90000) := by decide
theorem test_trap : ((after (.trap 63) handled).lane r0).tcause = 0x10 ∧ ((after (.trap 63) handled).lane r0).pc = 0x10040 := by decide

/-- A word of code behind the placed one: a body of one word for a loop. -/
def bodied : State := { rich with hbm := rich.hbm.setBytes 0x10004 (leBytes 4 0x20408FFF) }
def withRecord (members arrived : DWord) : State := rich.modGroup 3 fun g => { g with recs := g.recs.set 7 { target := 0x10000, members := members, arrived := arrived } }

theorem witness_ReconvergenceAndLoopResults : ((rich.group 3).lanes.all fun x => x.status != .held 7) = true ∧
    (let s := rich
     (∀ h ∈ s.groups, h.gid = 3 → h.settleRecs = h) ∧ ((s.group 3).recs.getD 7 {}).members.getLsbD 0 = false) ∧
    (let s := withRecord 3 0
     let x := (s.group 3).recs.getD 7 {}
     aloneB s one r0 = true ∧ x.members.getLsbD 0 = true ∧ one.pc = x.target ∧ (s.group 3).recs.length = 8 ∧
     ((s.group 3).recs.zipIdx.all fun y => y.2 == 7 || y.1.members == 0) = true ∧ (∀ y ∈ (s.group 3).lanes, y.status ≠ .held 7) ∧
     (∀ h ∈ s.groups, h.gid = 3 → h = s.group 3) ∧ x.members.getLsbD 1 = true ∧ x.arrived.getLsbD 1 = false ∧ ((s.group 3).lanes.getD 1 {}).unexited = true) ∧
    (let s := withRecord 3 2
     let x := (s.group 3).recs.getD 7 {}
     ((s.group 3).lanes.zipIdx.all fun y => y.2 == 0 || !(x.members.getLsbD y.2) || x.arrived.getLsbD y.2 || !y.1.unexited) = true) := by decide
/-- Lane 1 is held at record 7, and record 6 waits for lane 2; lane 0 is not the last member of record 7, or is the last. -/
theorem witness_ReconvergenceAndLoopResults_held : [(7, 2), (3, 2)].all (fun (m : DWord × DWord) =>
    let s := (withRecord m.1 m.2).modGroup 3 fun g =>
      { g with recs := g.recs.set 6 { target := 0x10040, members := 4, arrived := 0 }, lanes := g.lanes.modify 1 fun x => { x with status := .held 7 } }
    let x := (s.group 3).recs.getD 7 {}
    let open' := (s.group 3).lanes.zipIdx.any fun y => y.2 != 0 && x.members.getLsbD y.2 && !x.arrived.getLsbD y.2 && y.1.unexited
    aloneB s one r0 && x.members.getLsbD 0 && one.pc == x.target && (s.group 3).recs.length == 8 && open' == (m.1 == 7) &&
    ((s.group 3).lanes.getD 1 {}).status == .held 7 && ((s.group 3).lanes.getD 1 {}).unexited &&
    ((s.group 3).recs.zipIdx.all fun y => y.2 == 7 || y.1.members == 0 ||
      ((s.group 3).lanes.zipIdx.any fun z => y.1.members.getLsbD z.2 && !y.1.arrived.getLsbD z.2 && z.1.unexited)) &&
    (s.groups.filter fun h => h.gid == 3) == [s.group 3]) = true := by decide
theorem witness_ReconvergenceAndLoopResults_loop :
    (let f := fetchWords (bodied.work one) (one.pc + 4) 1 []
     f.2 = some [0x20408FFF] ∧ f.1.live = [r0] ∧ f.1.traps = [] ∧ loopError false one.run [0x20408FFF] = none ∧
     rangeB f.1.s one [rfld codeD 2] = true ∧ (rd f.1.s one r0 codeD 2).poison = false ∧ (rd f.1.s one r0 codeD 2).val = 0 ∧ (rd f.1.s one r0 codeD 3).val ≠ 0) := by decide

def bounded : State := (rich.modGroup 3 fun g => { g with bound := some 0x40000000 }).modCtx 0 fun c => { c with slots := tput 0 3 c.slots }
theorem witness_QuietResults : Ready rich one ∧ (∀ r ∈ one.lanes, (rich.ctx (rich.group r.1).ctx).hdr.tracesize < 16 ∧ (rich.group r.1).bound = none) ∧
    (let s := bounded.modDie 0 fun d => { d with replicas := tput 3 (0x3F800000, 1) d.replicas }
     aloneB s one r0 = true ∧ (s.group 3).bound = some 0x40000000 ∧ s.killKey 0 0 = some 0x3F800000 ∧ cannotBeat 0x40000000 0x3F800000 = true ∧
     (s.group 3).lanes.all (fun x => !x.kill && !x.halted) = true) := ⟨alone_rich.ready, by decide, by decide⟩

/-! ### Witnesses: barriers -/

/-- `Obj` as a check. -/
def objB (s : State) (l : Latch) (r : LRef) (a : Reg) (off : Nat) : Bool :=
  let c := rdCap s l r codeA a
  !rdBad s l r codeA a && c.tag && c.otype == 0 && (c.space == 1 || c.space == 2) && (c.perm 0 && c.perm 1) && c.cursor.toNat % 16 == 0 &&
  (decide (c.base ≤ c.cursor.toNat) && decide ((c.cursor.toNat : Int) + 16 ≤ c.top)) && decide (c.cursor.toNat + 16 ≤ s.spaceSize r c.space) &&
  off == (s.block (s.group r.1).block).offset (s.group r.1).coreOf c.space c.cursor.toNat && off % 16 == 0 &&
  s.present (s.group r.1).block (off / 128) && (s.blocks.any fun x => x.bid == (s.group r.1).block) && (s.block (s.group r.1).block).scratch.wf && !(s.group r.1).isK

theorem obj_of {s : State} {l : Latch} {r : LRef} {a : Reg} {off : Nat} (h : objB s l r a off = true) : Obj s l r a off := by
  simp only [objB, Bool.and_eq_true, Bool.not_eq_true', beq_iff_eq, Bool.or_eq_true, decide_eq_true_eq] at h
  obtain ⟨⟨⟨⟨⟨⟨⟨⟨⟨⟨⟨⟨⟨h1, h2⟩, h3⟩, h4⟩, h5⟩, h6⟩, h7⟩, h8⟩, h9⟩, h10⟩, h11⟩, h12⟩, h13⟩, h14⟩ := h
  exact ⟨h1, h2, h3, h4, h5, h6, h7, h8, h9, h10, h11, h12, h13, h14⟩

/-- An object at offset 0 armed for v0 = 5 members; one at which one has arrived. -/
def armed : State := after (.barinit 24 0) rich
def begun : State := armed.modBlock 2 fun b => { b with scratch := b.scratch.writeWord 8 0 ⟨armedWord 1 5, false⟩ }
/-- A block whose roster is full. -/
def crowded : State :=
  rich.modBlock 2 fun b => { b with roster := (List.range 32).map fun (k : Nat) => (k, ({ off := 1024 + 16 * k, n := 1 } : Roster)) }

theorem test_barinit : objWords armed 2 0 = [0xB0000005, 0, 0, 0] := by decide
theorem test_bararr : (left (.bararr (.reg 8) 24) armed 8) = some ⟨0, false⟩ := by decide

theorem witness_BarrierResults_init : Obj rich one r0 24 0 ∧ InRange rich one [rfld codeA 24 4, rfld codeB 0] ∧
    (rd rich one r0 codeB 0).val.toNat = 5 ∧ (rich.grid (rich.block 2).grid).blksize = 8 ∧ (rd rich one r0 codeB 2).val.toNat = 0 ∧
    (rd rich one r0 codeB 0).poison = false ∧ (rich.block 2).armed 0 = none ∧ tget 0 (rich.block 2).roster = none :=
  ⟨obj_of (by decide), range_of (by decide), by decide⟩
theorem witness_BarrierResults_full : objB crowded one r0 24 0 = true ∧ (crowded.block 2).armed 0 = none ∧
    ((List.range 32).all fun k => (tget k (crowded.block 2).roster).isSome) = true := by decide
theorem witness_BarrierResults_again : Obj armed one r0 24 0 ∧ ((armed.block 2).armed 0).map (·.1) = some 0 ∧ (armed.block 2).expectedAt 0 = 5 ∧
    (armed.block 2).arrivedAt 0 = 0 ∧ armed.barWaiting 2 0 = false ∧ (rd armed one r0 codeB 1).val.toNat = 3 :=
  ⟨obj_of (by decide), by decide⟩
theorem witness_BarrierResults_arrived : (begun.block 2).arrivedAt 0 = 1 ∧ ((begun.block 2).armed 0).isSome = true ∧ (begun.block 2).expectedAt 0 = 5 ∧
    (rd begun one r0 codeB 1).val.toNat = 3 ∧ objB begun one r0 24 0 = true := by decide
theorem witness_BarrierResults_arrive : ∃ e, (armed.block 2).armed 0 = some (0, e) ∧ MayArrive armed r0 0 0 e ∧ InRange armed one [rfld codeD 8, rfld codeA 24 4] ∧
    1 ≤ (armed.block 2).expectedAt 0 :=
  ⟨{ off := 0, n := 5 }, by decide, ⟨by decide, by decide, by decide, by decide, by decide⟩, range_of (by decide), by decide⟩
theorem witness_BarrierResults_wait : InRange armed one [rfld codeA 24 4, rfld codeB 0] ∧ (rd armed one r0 codeB 0).val ≠ (armed.block 2).objWord 0 1 ∧
    (rd armed one r0 codeB 2).val = (armed.block 2).objWord 0 1 := ⟨range_of (by decide), by decide, by decide⟩

/-- The placed grid, launched cooperatively; and with every other thread of it arrived. -/
def cooperative : State := { rich with grids := rich.grids.map fun (g : Grid) => { g with coop := true } }
theorem witness_GridBarrierResults : Alone cooperative one r0 ∧ (cooperative.grids.any fun x => x.uid == 1) = true ∧ (cooperative.grid 1).coop = true ∧
    (cooperative.group 3).isK = false ∧ (cooperative.ctx 0).hdr.log = false ∧
    ((cooperative.gridThreads 1).all fun x => ((cooperative.grid 1).gbarArrived ++ [(2, 0)]).contains x) = false ∧
    (let s : State := { cooperative with grids := cooperative.grids.map fun (g : Grid) => { g with gbarArrived := (List.range 7).map fun k => (2, k + 1) } }
     ((s.gridThreads 1).all fun x => ((s.grid 1).gbarArrived ++ [(2, 0)]).contains x) = true) := ⟨alone_of (by decide), by decide⟩

/-- Convergence register 15 armed for three, two of whom have signed. -/
def signing : State := rich.modBlock 2 fun b => { b with cvs := [(15, { count := 3, signed := 2, kind := 1, mask := 6 })] }
theorem witness_ConvergenceResults : (rd rich one r0 codeA 1).poison = false ∧ InRange rich one [rfld codeA 1] ∧ (rd rich one r0 codeA 1).val.toNat = 3 ∧
    ((rich.block 2).cv 15).signed = 0 ∧
    (let s := signing.modBlock 2 fun b => { b with cvs := [(15, { count := 3, signed := 1, kind := 1, mask := 2 })] }
     aloneB s one r0 = true ∧ ((s.block 2).cv 15).count ≠ 0 ∧ mbit ((s.block 2).cv 15).mask 0 = false ∧ ((s.block 2).cv 15).signed + 1 ≠ ((s.block 2).cv 15).count) ∧
    (((signing.block 2).cv 15).signed + 1 = ((signing.block 2).cv 15).count ∧ (signing.blocks.any fun x => x.bid == 2) = true ∧
     (∀ x ∈ signing.blocks, x.bid = 2 → x = signing.block 2) ∧ ((signing.block 2).cv 15).kind = 1) ∧
    InRange armed one [rfld codeD 60 4, rfld codeA 24 4] ∧ InRange rich one [rfld codeD 62 2] :=
  ⟨by decide, range_of (by decide), by decide, by decide, by decide, by decide, range_of (by decide), range_of (by decide)⟩

/-! ### Witnesses: copies -/

/-- v48 to v51 are 16, 128, 0x0011 (an image format) and 64; an image header of one plane and one segment stands at offset 0. -/
def header : List Word := [0x1A9EB17E, 0x01000001, 1, 0, 32, 0, 1056, 0]
def stocked : State := (put rich [(48, 16), (49, 128), (50, 0x11), (51, 64)]).modBlock 2 fun b =>
  { b with scratch := header.zipIdx.foldl (fun m w => m.writeWord 8 (4 * w.2) ⟨w.1, false⟩) b.scratch }

theorem witness_CopyResults_in : InRange stocked one (copyFlds 20 12 48) ∧ (stocked.copies.filter fun c => c.core == 0).length < 128 ∧ (stocked.lane r0).tiletag = 0 ∧
    rdBad stocked one r0 codeD 20 = false ∧ rdBad stocked one r0 codeA 12 = false ∧ (rd stocked one r0 codeB 48).poison = false ∧
    (rd stocked one r0 codeB 48).val.toNat = 16 ∧
    (∀ c ∈ [share, data], c.tag = true ∧ c.otype = 0 ∧ c.perm 0 = true ∧ c.perm 1 = true ∧ c.cursor.toNat % 16 = 0 ∧ c.base ≤ c.cursor.toNat ∧
      (c.cursor.toNat : Int) + 16 ≤ c.top) ∧
    rdCap stocked one r0 codeD 20 = share ∧ rdCap stocked one r0 codeA 12 = data ∧ share.space = 1 ∧ share.cursor.toNat + 16 ≤ stocked.spaceSize r0 1 ∧ data.space = 0 ∧
    rdCap stocked one r0 codeD 12 = data ∧ rdCap stocked one r0 codeA 20 = share := ⟨range_of (by decide), by decide⟩
theorem witness_CopyResults_convert : InRange stocked one (copyFlds 24 12 2) ∧
    (let x : CopyArgs := { cd := rdCap stocked one r0 codeD 24, pd := rdBad stocked one r0 codeD 24, ca := rdCap stocked one r0 codeA 12,
                           pa := rdBad stocked one r0 codeA 12, b := rd stocked one r0 codeB 2 }
     x.verdict true [0, 1] = none ∧ stocked.cvtVerdict r0 x = none ∧ stocked.imageVerdict r0 x = none ∧ (stocked.group 3).isK = false ∧
     ∀ k ∈ unitsOf 128 0 32, stocked.present 2 k = true) := ⟨range_of (by decide), by decide⟩
theorem witness_CopyResults_wait : (let s := after (.cpyin 20 12 48) stocked
     aloneB s one r0 = true ∧ rangeB s one [rfld codeA 2] = true ∧ (rd s one r0 codeA 2).poison = false ∧ s.outstanding 3 (rd s one r0 codeA 2).val = true ∧
     s.outstanding 3 (rd s one r0 codeA 3).val = false) := by decide
theorem witness_CopyResults_lines : InRange stocked one [rfld codeD 8, rfld codeA 20 4] ∧ share.cursor.toNat < stocked.spaceSize r0 share.space ∧
    InRange stocked one [rfld codeA 20 4, rfld codeB 49] ∧ (rd stocked one r0 codeB 49).val.toNat = 128 ∧ (share.cursor.toNat : Int) + 128 ≤ share.top ∧
    share.cursor.toNat + 128 ≤ stocked.spaceSize r0 share.space ∧ stocked.present 2 1 = true ∧ absent.present 2 1 = false :=
  ⟨range_of (by decide), by decide, range_of (by decide), by decide⟩

/-! ### Witnesses: the matrix engine -/

def crewed : State := stocked.modBlock 2 fun b => { b with cvs := [(15, { count := 64, signed := 62 })] }
theorem witness_MatrixResults_mx : InRange crewed one [rfld codeD 0 (crewed.accumulators r0 15)] ∧
    InRange crewed one [rfld codeD 0, rfld 8 50, qfld 6, qfld 6 32] ∧ crewed.accumulators r0 15 = 64 ∧
    ((counted crewed one [rfld codeD 0, rfld 8 50, qfld 6, qfld 6 32]).work one).mxVerdict r0 50 6 6 15 = none ∧
    ((crewed.block 2).cv 15).signed + 1 ≠ ((crewed.block 2).cv 15).count ∧ crewed.signing 2 15 = none ∧ (crewed.blocks.any fun x => x.bid == 2) = true :=
  ⟨range_of (by decide), range_of (by decide), by decide, by decide, by decide, by decide, by decide⟩
theorem witness_MatrixResults_wait : tget 63 (crewed.lane r0).sigs = none ∧
    (let s := after (.mx 0 50 6 6 15) crewed
     ((tget 15 (s.lane r0).sigs).map fun x => match x with | .matrix op => s.ops.any fun o => o.id == op | _ => false) = some true) ∧
    (let s := after (.cvsign 15) (rich.modBlock 2 fun b => { b with cvs := [(15, { count := 3 })] })
     aloneB s one r0 = true ∧ tget 15 (s.lane r0).sigs = some (.plain 0) ∧ ((s.block 2).cv 15).gen = 0 ∧
     (let t := s.modBlock 2 fun b => { b with cvs := [(15, { count := 3, gen := 63 })] }
      ((t.block 2).cv 15).gen ≠ 0)) ∧
    (let s := { after (.mx 0 50 6 6 15) crewed with ops := [] }
     ((tget 15 (s.lane r0).sigs).map fun x => match x with | .matrix op => s.ops.any fun o => o.id == op | _ => true) = some false) ∧
    (let s := after (.cvsign 15) (rich.modBlock 2 fun b => { b with cvs := [(15, { count := 1 })] })
     aloneB s one r0 = true ∧ tget 15 (s.lane r0).sigs = some Sig.passed) := by decide

/-- An operation that lane 1 has opened on cv15, of `n` signatures, with format `v`; lane 1's format and A image differ by `f` and `k`.
Lane 0's signature is a later one, or the last. -/
def mySigner (s : State) : Signer := ((counted s one [rfld codeD 0, rfld 8 50, qfld 6, qfld 6 32]).work one).signerOf r0 0 50 6 6
def crewOf (n : Nat) (v f : Word) (k : Nat) : State :=
  let s := (put crewed [(50, v)]).modBlock 2 fun b => { b with cvs := [(15, { count := 64, signed := n, kind := 2, mask := 2 })] }
  let x := mySigner s
  let y : Signer := { x with lane := 1, tidx := 1, fmt := f ^^^ x.fmt, aOff := x.aOff + k }
  let o : MxOp := { id := 9, ctx := 0, block := 2, core := 0, cv := 15, pc := 0x10000, entry := 0, phase := .signing, signers := [y] }
  { s with ops := [o] }
def signersIn (s : State) : List Signer := (s.ops.flatMap (·.signers)) ++ [mySigner s]
def mxOk (s : State) : Bool :=
  aloneB s one r0 && rangeB s one [rfld codeD 0 (s.accumulators r0 15)] && rangeB s one [rfld codeD 0, rfld 8 50, qfld 6, qfld 6 32] &&
  ((counted s one [rfld codeD 0, rfld 8 50, qfld 6, qfld 6 32]).work one).mxVerdict r0 50 6 6 15 == none &&
  (s.signing 2 15).map (·.id) == some 9 && (s.blocks.any fun x => x.bid == 2)
def mayTrap (s : State) : State := { s with groups := s.groups.map fun g => { g with lanes := g.lanes.map fun x => { x with tvec := 0x40 } } }
theorem witness_MatrixResults_later : mxOk (crewOf 40 0x10888 0 0) = true ∧
    ((crewOf 40 0x10888 0 0).block 2).cv 15 = { count := 64, signed := 40, kind := 2, mask := 2 } := by decide
theorem witness_MatrixResults_passes : mxOk (crewOf 63 0x10888 0 0) = true ∧ VotePasses (signersIn (crewOf 63 0x10888 0 0)) := by
  refine ⟨by decide, ?_, ?_, ?_⟩
  · show ¬ ∃ x ∈ signersIn (crewOf 63 0x10888 0 0), ∃ y ∈ signersIn (crewOf 63 0x10888 0 0), x.fmt ≠ y.fmt
    decide
  · show ¬ ∃ x ∈ signersIn (crewOf 63 0x10888 0 0), ∃ y ∈ signersIn (crewOf 63 0x10888 0 0), x.aOff ≠ y.aOff ∨ x.bOff ≠ y.bOff
    decide
  · rintro ⟨x, hx, ha, -⟩
    exact ha ((show ∀ x ∈ signersIn (crewOf 63 0x10888 0 0), x.fmt.toNat / 2 ^ 16 % 4 = 1 by decide) x hx)
theorem witness_MatrixResults_fails :
    (let s := mayTrap (crewOf 63 0x10888 1 0)
     mxOk s = true ∧ ((signersIn s).map signerLane).Nodup ∧ (s.lane r0).unexited = true ∧ (∀ y ∈ signersIn s, (s.group y.gid).ctx = (s.group 3).ctx ∧
       s.policy (s.group y.gid).ctx 0x02 = 0 ∧ (s.lane (signerLane y)).canDeliver = true)) ∧ VoteFails (signersIn (crewOf 63 0x10888 1 0)) 1 :=
  ⟨by decide, .inl ⟨rfl, show ∃ x ∈ signersIn (crewOf 63 0x10888 1 0), ∃ y ∈ signersIn (crewOf 63 0x10888 1 0), x.fmt ≠ y.fmt by decide⟩⟩
theorem witness_MatrixResults_fails_2 : VoteFails (signersIn (crewOf 63 0x888 0 16)) 2 :=
  .inr (.inl ⟨rfl, show ¬ ∃ x ∈ signersIn (crewOf 63 0x888 0 16), ∃ y ∈ signersIn (crewOf 63 0x888 0 16), x.fmt ≠ y.fmt by decide,
    show ∃ x ∈ signersIn (crewOf 63 0x888 0 16), ∃ y ∈ signersIn (crewOf 63 0x888 0 16), x.aOff ≠ y.aOff ∨ x.bOff ≠ y.bOff by decide⟩)
theorem witness_MatrixResults_fails_3 : VoteFails (signersIn (crewOf 63 0x888 0 0)) 3 :=
  .inr (.inr ⟨rfl, show ¬ ∃ x ∈ signersIn (crewOf 63 0x888 0 0), ∃ y ∈ signersIn (crewOf 63 0x888 0 0), x.fmt ≠ y.fmt by decide,
    show ¬ ∃ x ∈ signersIn (crewOf 63 0x888 0 0), ∃ y ∈ signersIn (crewOf 63 0x888 0 0), x.aOff ≠ y.aOff ∨ x.bOff ≠ y.bOff by decide,
    mySigner (crewOf 63 0x888 0 0), by decide, by decide, 50, by decide, by decide, by decide⟩)
/-- A voted operation whose crew holds the baton, the engine's queue empty. -/
def voted : State :=
  ({ crewOf 63 0x10888 0 0 with ops := (crewOf 63 0x10888 0 0).ops.map fun o =>
      { o with phase := .baton, signers := signersIn (crewOf 63 0x10888 0 0) } } : State).modCore 0 fun k => { k with tickets := [(2, 15)] }
theorem witness_MatrixResults_queue : (∀ o ∈ voted.ops, o.phase = .baton ∧ (voted.ctx o.ctx).phase = .running ∧
    (voted.core o.core).tickets.head? = some (o.block, o.cv) ∧ tget o.cv (voted.block o.block).ranks = none ∧ (o.signers.map signerLane).Nodup ∧ o.signers.length = 2) ∧ voted.ops.length = 1 := by decide
def leaving : State := (after .btake rich).modGroup 3 fun g =>
  { g with lanes := g.lanes.zipIdx.map fun x => if x.2 = 0 then x.1 else { x.1 with status := .exited } }
theorem witness_MatrixResults_baton : (rich.core (rich.block 2).core0).tickets = [] ∧
    (let s := after .btake rich
     aloneB s one r0 = true ∧ (s.core 0).tickets.head? = some (2, (s.lane r0).crew) ∧
     (let t := s.modLane r0 fun x => { x with crew := 1 }
      (t.core 0).tickets ≠ [] ∧ (t.core 0).tickets.contains (2, (t.lane r0).crew) = false ∧ (t.core 0).tickets.head? ≠ some (2, (t.lane r0).crew))) := by decide
/-- A crew of one thread that has exited and the issuing lane, which leaves it: its ticket goes. -/
theorem witness_MatrixResults_stays : tget (rich.lane r0).crew (rich.block 2).ranks = none ∧
    ((crewOf 63 0x10888 0 0).core 0).tickets.contains (2, ((crewOf 63 0x10888 0 0).lane r0).crew) = false ∧
    (rich.core 0).tickets.contains (2, (rich.lane r0).crew) = false ∧
    (let s := leaving
     aloneB s one r0 = true ∧ (63#6).toNat ≠ (s.lane r0).crew ∧ tget 63 (s.lane r0).sigs = none ∧ (s.core 0).tickets.contains (2, (s.lane r0).crew) = true ∧
     (s.lane (3, 1)).crew = (s.lane r0).crew ∧ (s.lane (3, 1)).status = .exited ∧
     ((s.groups.all fun g => g.gid == 3) && (s.group 3).lanes.zipIdx.all fun x => x.2 == 0 || !x.1.unexited) = true ∧ ∀ g ∈ s.groups, g = s.group g.gid) := by decide
theorem test_mxwait_leaves_crew : ((after (.mxwait 63) leaving).core 0).tickets = [] := by decide
theorem witness_MatrixResults_zero : Ready rich one ∧ InRange rich one [rfld codeD 48 16] := ⟨alone_rich.ready, range_of (by decide)⟩

/-! ### Witnesses: launches -/

/-- A launch record for one block of eight threads of 64 registers and one granule, at the data capability's address. -/
def record : List Word := [0, 0, 0, 0, 1, 0x00010001, 0x0001C008, 0x00010000]
def launching : State :=
  let s := rich.modCtx 0 fun c => { c with hdr := { c.hdr with poolsize := 4 } }
  { s with hbm := record.zipIdx.foldl (fun (m : Memory) (w : Word × Nat) => m.setBytes (0x20000 + 4 * w.2) (leBytes 4 w.1.toNat)) s.hbm }

def launchFlds (b : List Fld) : List Fld := [rfld codeD 60 4, rfld codeA 12 4] ++ b
def launchLoad (b : List Fld) : Work × Option LaunchRec :=
  ((counted launching one (launchFlds b)).work one).loadRecord r0 (rdCap launching one r0 codeA 12) (rdBad launching one r0 codeA 12)
def handleB (s : State) (l : Latch) (r : LRef) (code : Nat) (n : Reg) : Bool :=
  let c := rdCap s l r code n
  !rdBad s l r code n && c.tag && c.otype == 2 && c.cursor.toNat / 2 ^ 24 % 256 == (s.ctx (s.group r.1).ctx).hdr.key.toNat

theorem handle_of {s : State} {l : Latch} {r : LRef} {code : Nat} {n : Reg} (h : handleB s l r code n = true) : Handle s l r code n := by
  simp only [handleB, Bool.and_eq_true, Bool.not_eq_true', beq_iff_eq] at h
  obtain ⟨⟨⟨h1, h2⟩, h3⟩, h4⟩ := h
  exact ⟨h1, h2, h3, h4⟩

theorem witness_LaunchResults : Alone launching one r0 ∧ InRange launching one (launchFlds []) ∧ (launching.grid 1).ctx = (launching.group 3).ctx ∧
    (launchLoad []).1.live = one.lanes ∧ (launchLoad []).1.traps = [] ∧
    ((launchLoad []).2.map fun x => decide ((x.ws.all fun w => !w.poison) = true ∧ x.reason (launching.grid 1) (launching.lane r0) = none ∧ x.coop = false ∧
      x.granules = 1)) = some true ∧
    1 ≤ (launching.ctx 0).hdr.poolsize ∧ (launching.ctx 0).granQ = [] ∧ (launching.ctx 0).findRun 1 = some 1 ∧
    (match zeroGranules (some 0) (dieOf 0) (launching.ctx 0).hdr.asid 1 (launchLoad []).1.s ((launching.ctx 0).granuleAt 1) with | .ok _ => true | _ => false) = true :=
  ⟨alone_of (by decide), range_of (by decide), by decide⟩
theorem witness_LaunchResults_after : InRange launching one (launchFlds [rfld codeB 28 4]) ∧ Handle launching one r0 codeB 28 ∧
    (named launching r0 (rdCap launching one r0 codeB 28)).map (·.grid) = some 1 := ⟨range_of (by decide), handle_of (by decide), by decide⟩
theorem witness_LaunchResults_join : InRange rich one [rfld codeA 28 4] ∧ Handle rich one r0 codeA 28 ∧ InRange rich one [rfld codeD 8, rfld codeA 28 4] ∧
    ((named rich r0 (rdCap rich one r0 codeA 28)).map (·.done)) = some false ∧
    (let s := rich.modCtx 0 fun c => { c with frames := c.frames.map fun f => { f with done := true } }
     handleB s one r0 codeA 28 = true ∧ ((named s r0 (rdCap s one r0 codeA 28)).map (·.done)) = some true) :=
  ⟨range_of (by decide), handle_of (by decide), range_of (by decide), by decide, by decide⟩
theorem test_launch : ((after (.launch 60 12) launching).grids.getLast?).map (fun g => (g.dimx, g.blksize, g.regs, g.frame)) = some (1, 8, 64, 1) := by decide

/-! ### Witnesses: tasks -/

def node5 : Node := { code := bootCap, kill := false, width := 8, regs := 64, size := 16, count := 4, timeout := 0, frame := 1, lines := 0 }
def tasking : State :=
  ({ rich with incumbents := [(3, (0x7F800000, 0xFFFFFFFF))] }.modDie 0 fun d => { d with replicas := [(3, (0x7F800000, 0xFFFFFFFF))] }).modCtx 0 fun c =>
    { c with nodes := [(5, node5)], slots := [(15, 3), (0, 3)] }
def emptied : Work × Option (List PWord) :=
  ((counted tasking one [rfld codeA 12 4, rfld codeB 0]).work one).loadTask r0 (rdCap tasking one r0 codeA 12) (rdBad tasking one r0 codeA 12) 4

theorem witness_TaskResults_emit : Alone tasking one r0 ∧ InRange tasking one [rfld codeA 12 4, rfld codeB 0] ∧ (rd tasking one r0 codeB 0).poison = false ∧
    (rd tasking one r0 codeB 0).val.toNat = 5 ∧ tget 5 (tasking.ctx 0).nodes = some node5 ∧ emptied.1.live = one.lanes ∧ emptied.1.traps = [] ∧
    (emptied.2.map fun x => decide ((x.headD {}).poison = false ∧ fval (x.headD {}).val ≠ .nan)) = some true ∧
    ((tasking.ctx 0).bin 0 5).records.length + 1 < node5.count ∧ (emptied.2.map fun x => emptied.1.s.hopeless 0 0 x) = some false ∧
    ((tasking.ctx 0).bin 0 5).expired = false ∧
    (let s := tasking.modBin 0 0 5 fun b => { b with records := List.replicate 16 [{}] }
     4 * node5.count ≤ ((s.ctx 0).bin 0 5).records.length) := ⟨alone_of (by decide), range_of (by decide), by decide⟩
theorem witness_TaskResults_incumbent : (rd tasking one r0 codeA 0).poison = false ∧ fval (rd tasking one r0 codeA 0).val ≠ .nan ∧
    InRange tasking one [rfld codeD 62 2, rfld codeA 2] ∧ (rd tasking one r0 codeA 2).val.toNat = 0 ∧ tget 0 (tasking.ctx 0).slots = some 3 ∧
    InRange tasking one [rfld codeD 63, rfld codeA 0 2, rfld codeB 2] ∧ (tasking.reg r0 (regNo tasking one r0 codeA 0 + 1)).poison = false ∧
    fOrder 5 0x7F800000 = some .lt ∧ fOrder 5 0 ≠ some .lt ∧ tget 3 tasking.incumbents = some (0x7F800000, 0xFFFFFFFF) :=
  ⟨by decide, by decide, range_of (by decide), by decide, by decide, range_of (by decide), by decide, by decide, by decide, by decide⟩

/-- A node number that no entry has, and one that none can have. -/
theorem witness_TaskResults_nodes : (let s := (put tasking [(0, 255), (1, 256)]).modLane r0 fun x => { x with tvec := 0x40 }
    deliversB s one r0 0x14 = true ∧ tget (rd s one r0 codeB 0).val.toNat (s.ctx 0).nodes = none ∧ 256 ≤ (rd s one r0 codeB 1).val.toNat ∧
    (rd s one r0 codeB 0).poison = false ∧ (rd s one r0 codeB 1).poison = false) ∧ (5 : Nat) < 256 := by decide

/-! ### Witnesses: regions -/

/-- A region opened through quad 15; joined; joined and sealed, the other lanes gone. -/
def opened : State := after (.aropen 60 2) rich
def joined : State := after (.arjoin 60 16) opened
def sealedOne : State :=
  (after (.arseal 60) joined).modGroup 3 fun g => { g with lanes := g.lanes.zipIdx.map fun x => if x.2 = 0 then x.1 else { x.1 with status := .exited } }

theorem test_aropen : (opened.region 0).state = .opened ∧ opened.openCount = rich.openCount + 1 := by decide

theorem witness_RegionResults_open : InRange rich one [rfld codeD 60 4, rfld codeA 2] ∧ (rd rich one r0 codeA 2).poison = false ∧ rich.freeObject = some 0 ∧
    (rd rich one r0 codeA 2).val.getLsbD 0 = false ∧ (rd rich one r0 codeA 3).val.getLsbD 0 = true ∧ rich.quadPoison r0 32 = false ∧
    rich.keepsAge (rich.cap r0 32) = true ∧
    (let s := { rich with regions := (List.range 256).map fun k => (k, ({ state := .opened } : Region)) }
     s.freeObject = none) := ⟨range_of (by decide), by decide⟩
theorem witness_RegionResults_join : Alone opened one r0 ∧ InRange opened one [rfld codeA 60 4, rfld codeB 16 4] ∧ rdBad opened one r0 codeA 60 = false ∧
    (rdCap opened one r0 codeA 60).tag = true ∧ (rdCap opened one r0 codeA 60).otype = 1 ∧ opened.regionOf (rdCap opened one r0 codeA 60).cursor = some 0 ∧
    (opened.region 0).state = .opened ∧ (opened.group 3).region = none ∧ (opened.region 0).members.length + (opened.region 0).remote.length < 4096 ∧
    rdBad opened one r0 codeB 16 = false ∧ ((rdCap opened one r0 codeB 16).tag = true ∧ (rdCap opened one r0 codeB 16).otype = 0 ∧ (rdCap opened one r0 codeB 16).perm 5 = true) ∧
    (rdCap opened one r0 codeB 48).tag = false ∧ (rdCap opened one r0 codeB 48).md = 0 := ⟨alone_of (by decide), range_of (by decide), by decide⟩
theorem witness_RegionResults_seal : Alone joined one r0 ∧ InRange joined one [rfld codeA 60 4] ∧ joined.regionOf (rdCap joined one r0 codeA 60).cursor = some 0 ∧
    (joined.region 0).state = .opened ∧ joined.allVoted 0 = false ∧ (sealedOne.region 0).state = .sealed ∧ aloneB sealedOne one r0 = true :=
  ⟨alone_of (by decide), range_of (by decide), by decide⟩
theorem witness_RegionResults_vote : ((sealedOne.group 3).region.map fun m => decide (m.handle = (rdCap sealedOne one r0 codeA 60).cursor ∧ m.aborted = none)) = some true ∧
    (∀ h ∈ sealedOne.groups, h.gid = 3 → h = sealedOne.group 3) ∧
    ((sealedOne.group 3).numbered.all fun y => y.1 == 0 || !y.2.unexited || y.2.helper || match y.2.status with | .parked .vote _ => true | _ => false) = true ∧
    (sealedOne.region 0).members = [3] ∧ (sealedOne.region 0).remote = [] := by decide
theorem witness_RegionResults_stat : InRange opened one [rfld codeD 8, rfld codeA 60 4] ∧ (rdCap opened one r0 codeA 60).cursor.toNat / 256 % 256 = opened.domid.toNat ∧
    (let s := after (.arabort 60) opened
     aloneB s one r0 = true ∧ s.regionOf (rdCap s one r0 codeA 60).cursor = none) ∧
    (let s := caps opened [(15, mkHandle (65536 * 7 + 9 * 256 + 255) 0x80 1)]
     (rdCap s one r0 codeA 60).tag = true ∧ (rdCap s one r0 codeA 60).otype = 1 ∧ (rdCap s one r0 codeA 60).cursor.toNat / 256 % 256 ≠ s.domid.toNat) :=
  ⟨range_of (by decide), by decide, by decide, by decide⟩

/-! ### Witnesses: the system instructions -/

theorem witness_SystemResults_lane : Ready (base eight) eight ∧ (∃ c, eight.agent = .core c) ∧ (∀ r ∈ eight.lanes, ((base eight).group r.1).isK = false) ∧
    InRange (base eight) eight [rfld codeD 63] ∧ InRange (base eight) eight [rfld codeD 62 2] ∧ (∀ r ∈ eight.lanes, ((0x00 : Nat), BitVec.ofNat 32 r.2) ∈ specials (base eight) r) ∧
    (∀ r ∈ eight.lanes, ((0x27 : Nat), (0x7FC00000 : Word)) ∈ specials (base eight) r) ∧ (∀ r ∈ eight.lanes, (rd (base eight) eight r codeA 63).poison = false) ∧
    (0x10#8).toNat < 0x40 ∧ (∀ e ∈ writables, e.1 ≠ (0x10#8).toNat) ∧ (0x3F#8).toNat < 0x40 ∧ 0x28 ≤ (0x28#8).toNat ∧ 0x80 ≤ (0x80#8).toNat :=
  ⟨ready_eight, ⟨0, rfl⟩, by decide, range_of (by decide), range_of (by decide), by decide, by decide, by decide, by decide, by decide⟩
theorem witness_SystemResults_fault : Delivers handled one r0 0x15 ∧ Delivers handled one r0 0x01 ∧ 0x40 ≤ (0x40#8).toNat ∧ (0x7F#8).toNat < 0x80 ∧
    Alone handled one r0 := ⟨delivers_of (by decide), delivers_of (by decide), by decide, by decide, alone_of (by decide)⟩

/-- Kolesque core 0 with the operation of word `w` latched, v16 to v19 holding `args`, beside the placed context. -/
def kone (w : Word) : Latch := { agent := .kcore 0, row := 0, lanes := [(kGid 0, 0)], pc := 0, start := 0, word := w }
def kr : LRef := (kGid 0, 0)
def kstate (w : Word) (args : List Word) : State :=
  let s : State := { rich with
    groups := rich.groups ++ onComplex.groups, kcores := onComplex.kcores, complex := onComplex.complex, issue := some (kone w) }
  s.modLane kr fun x => args.zipIdx.foldl (fun y v => y.wr (16 + v.2) ⟨v.1, false⟩) x

theorem witness_SystemResults_complex : Alone (kstate 0 []) (kone 0) kr ∧ (kone 0).agent = .kcore 0 ∧ ((kstate 0 []).group (kGid 0)).agent = .kcore 0 ∧
    InRange (kstate 0 []) (kone 0) [rfld codeD 63] ∧ InRange (kstate 0 []) (kone 0) [rfld codeA 63] ∧ (rd (kstate 0 []) (kone 0) kr codeA 63).poison = false ∧
    tget 15 (kstate 0 []).complex.ktimers = none ∧
    (let s := { kstate 0 [] with complex := { (kstate 0 []).complex with ktimers := [(15, 7)] } }
     tget 15 s.complex.ktimers = some 7) :=
  ⟨alone_of (by decide), rfl, by decide, range_of (by decide), range_of (by decide), by decide, by decide, by decide⟩
theorem witness_SystemResults_rest : InRange rich one [rfld codeD 63] ∧ (rich.ctx 0).phase = .running ∧ (rich.lane r0).unexited = true ∧ (rich.group 3).isK = false ∧
    (rich.lane r0).stale = [] ∧ InRange rich one (((List.range 4).zip [0, 1, 2, 15]).map fun x => qfld (BitVec.ofNat 4 x.2) (64 + x.1)) ∧
    (∀ g ∈ rich.groups, ∀ x ∈ g.lanes, x.stale = []) ∧ (rich.core 0).rows ≠ [] ∧ ((rich.row 0 0).slot = none ∧ rich.findSlot 0 = some (0, none)) ∧
    (let s := rich.modRow 0 0 fun y => { y with slot := some 3 }
     ((tget 0 (s.core 0).rows).map fun y => y.slot.isSome) = some true) ∧
    (let s := rich.modCore 0 fun c => { c with rows := c.rows ++ (List.range 16).map fun k => (k + 1, { grid := 1, regs := 64, slot := some k }) }
     let s := { s with groups := s.groups ++ (List.range 16).map fun k => { rich.group 3 with gid := 10 + k, row := k + 1 } }
     (s.row 0 0).slot = none ∧ s.findSlot 0 = none) :=
  ⟨range_of (by decide), by decide, by decide, by decide, by decide, range_of (by decide), by decide, by decide, by decide, by decide, by decide⟩

/-- A core whose slots are all held: row 1 of its rows has no lane that could issue, and gives up its slot. -/
def robbed : State := rich.modCore 0 fun c => { c with rows := c.rows ++ (List.range 16).map fun k => (k + 1, { grid := 1, regs := 64, slot := some k }) }
theorem witness_SystemResults_steal : (robbed.row 0 0).slot = none ∧ robbed.findSlot 0 = some (0, some 1) := by decide

/-! ### Witnesses: the command complex -/

theorem witness_EventAndLockResults : Alone handled one r0 ∧ Delivers handled one r0 0x15 ∧ Alone (kstate 0 []) (kone 0) kr ∧
    InRange (kstate 0 []) (kone 0) [rfld codeD 60 4] ∧ (kstate 0 []).complex.successor = none ∧ ((kstate 0 []).group (kGid 0)).taskKill = false :=
  ⟨alone_of (by decide), delivers_of (by decide), alone_of (by decide), range_of (by decide), by decide, by decide⟩
/-- An event of queue 1023; its lock serves its ticket, then another. -/
def locking (t : Word) : State :=
  (kstate 0 [1023]).modKcore 0 fun k => { k with event := some { kind := 1, queue := 1023, ticket := t, ofQueue := true } }
def lockB (t : Word) : Bool :=
  aloneB (locking t) (kone 0) kr && rangeB (locking t) (kone 0) [rfld codeA 16] && !(rd (locking t) (kone 0) kr codeA 16).poison &&
  ((locking t).kcore 0).event.map (·.queue) == some (rd (locking t) (kone 0) kr codeA 16).val.toNat && !((locking t).kcore 0).released
theorem witness_EventAndLockResults_lock : lockB 0 = true ∧ lockB 1 = true ∧ ((locking 0).queue 1023).serving = 0 ∧ ((locking 1).queue 1023).serving ≠ 1 := by decide

/-- D in range and the block at v16 unpoisoned, D and A as the word has them. -/
def goodB (w : Word) (args : List Word) : Bool :=
  let s := kstate w args
  aloneB s (kone w) kr && rangeB s (kone w) [rfld codeD 8, rfld codeA 16 4] && ((List.range 4).all fun i => !(blockWord s (kone w) kr 16 i).poison)

theorem good_of {w : Word} {args : List Word} (h : goodB w args = true) :
    OnComplex (kstate w args) (kone w) kr 0 ∧ GoodBlock (kstate w args) (kone w) kr 8 16 := by
  simp only [goodB, Bool.and_eq_true, List.all_eq_true, Bool.not_eq_true', List.mem_range] at h
  exact ⟨⟨alone_of h.1.1, rfl⟩, range_of h.1.2, h.2⟩

/-- Contexts 0 running, then settled otherwise, then saving; 255 and 256 name none; every number taken. -/
theorem witness_ContextOperationResults : OnComplex (kstate 0 [0, 0x8000, 0]) (kone 0) kr 0 ∧ GoodBlock (kstate 0 [0, 0x8000, 0]) (kone 0) kr 8 16 ∧
    ((kstate 0 []).ctx 0).phase = .running ∧ ((kstate 0 []).ctx 0).ending = none ∧ ((kstate 0 []).ctx 0).waiting = none ∧
    ((kstate 0 []).ctx 1).phase = .free ∧ ((kstate 0 []).ctx 255).phase = .free ∧ 0x8000 % 4096 = 0 ∧ (0x8000 : Nat) < 2 ^ 39 ∧
    goodB 0 [256] = true ∧ goodB 0 [255] = true ∧
    (let s := (kstate 0 [0]).modCtx 0 fun c => { c with phase := .halted }
     aloneB s (kone 0) kr = true ∧ (s.ctx 0).phase ≠ .free ∧ (s.ctx 0).phase ≠ .running ∧ (s.ctx 0).phase ≠ .halting ∧ (s.ctx 0).phase ≠ .saving) ∧
    (((kstate 0 [0]).modCtx 0 fun c => { c with phase := .saving }).ctx 0).phase = .saving ∧
    (let s := (kstate 0 [0]).modCtx 0 fun c => { c with phase := .frozen }
     (s.ctx 0).phase = .frozen ∧ s.drained 0 = true ∧ ({ s with copies := [{ id := 1, core := 0, ctx := 0, gid := 3, block := 2, pc := 0, entry := 0, seq := 0, copyIn := true, xfers := [] }] } : State).drained 0 = false) ∧
    (let s := (kstate 0 [0, 0x8000, 0]).modCtx 0 fun c => { c with phase := .halting, request := .ctxDump }
     aloneB s (kone 0) kr = true ∧ (s.ctx 0).phase = .halting ∧ (s.ctx 0).request = .ctxDump ∧ (s.ctx 0).waiting = none) ∧
    (let s := (kstate 0 [0]).modCtx 0 fun c => { c with ending := some 0 }
     (s.ctx 0).phase ≠ .free ∧ (s.ctx 0).ending.isSome = true) :=
  ⟨(good_of (by decide)).1, (good_of (by decide)).2, by decide⟩
/-- Memory that holds no image: the restore fails, and leaves the slices and the groups as they were. -/
theorem witness_ContextOperationResults_run : let t := (kstate 0 []).restore 1 0x8000
    (t.groups.map Group.gid).Nodup ∧ ∀ d, d < 4 → ((kstate 0 []).die d).dir = [] ∧ t.dirUsed d < dirCapacity := by
  have h : (kstate 0 []).restore 1 0x8000 = (kstate 0 []).modCtx 1 fun _ => { phase := .running, ending := some 2 } := by
    have hw : (wordAt ((kstate 0 []).hbmBytes (kstate 0 []).leaseKey 0x8000 512) 0 == 0x1A6EC0DE) = false := by decide
    unfold State.restore
    extract_lets hd secs p
    have hr : (kstate 0 []).restorable 0x8000 hd secs p = false := by
      simp only [State.restorable, hd, hw, Bool.and_false, Bool.false_and]
    simp only [hr, Bool.false_eq_true, if_false]
    cases p <;> rfl
  simp only [h]
  exact ⟨by decide, by decide⟩
theorem witness_ContextOperationResults_full : (let s := { kstate 0 [] with ctxs := (List.range 256).map fun k => (k, ({ phase := .running } : Ctx)) }
    (List.range 256).all fun j => (s.ctx j).phase != .free) = true := by decide +kernel

def privAt (i : Instr) : Word := (encodePriv i 8 16).getD 0
def privB (i : Instr) (args : List Word) : Bool :=
  goodB (privAt i) args && (privAt i).toNat / 2 ^ 19 % 64 == 8 && (privAt i).toNat / 2 ^ 12 % 64 == 16

/-- Address spaces 511 and 0; pages; keys 63, empty, loaded and in use. -/
theorem witness_TranslationAndKeyResults : privB .privTlbInvalidateAll [0] = true ∧ privB .privTlbInvalidateAsid [1, 511] = true ∧
    privB .privTlbInvalidateRange [0x102, 0, 0xFFFFF000, 0xFFFF] = true ∧ privB .privIdentifierEntry [511, 0x5000, 1, 0x8000003F] = true ∧
    privB .privIdentifierEntry [0, 0x5000, 1, 0] = true ∧ privB .privKeyLoad [63, 0x20000, 0] = true ∧ privB .privKeyDestroy [1, 0, 0, 1] = true ∧
    tget 63 (kstate 0 []).keys = none ∧ 0x20000 + 64 ≤ 2 ^ 39 ∧
    (let s := { kstate 0 [] with keys := [(1, 4), (63, 7)], asids := [(0, { live := true, key := 63, root := 0 })], aperSlot := 2 }
     (tget 63 s.keys).isSome = true ∧ (s.asids.any fun y => y.2.live && y.2.key == 63) = true ∧ (s.asids.any fun y => y.2.live && y.2.key == 1) = false ∧
     s.aperSlot.toNat ≠ 1 ∧ s.aperSlot.toNat = 2 ∧ tget 1 s.keys = some 4 ∧ 4 % 3 ≠ 2 ∧ (s.keys.any fun y => y.1 != 1 && y.2 == 4) = false) := by decide

/-- A table of one entry at 0x50000; device `dev` has a route. -/
def entry (pte dev : Nat) : State :=
  let s := kstate 0 []
  { s with hbm := s.hbm.setBytes 0x50000 (leBytes 8 pte), routes := [dev] }
theorem witness_TranslationAndKeyResults_walk : ((kstate 0 []).asid 1).live = false ∧ ((kstate 0 []).asid 0).live = true ∧
    (kstate 0 []).leaseLost = false ∧
    (walkFrom (entry 0 9) 0 0 .read 1 (2 ^ 39) = .fatal 7 0 ∧ walkFrom (entry 0 9) 0 0 .read 1 0x50000 = .recoverable 0 0 ∧
     walkFrom (entry 0x21 9) 0 0 .read 1 0x50000 = .fatal 2 0 ∧ walkFrom (entry (255 * 2 ^ 56 + 1) 9) 0 0 .read 1 0x50000 = .fatal 3 0 ∧
     walkFrom (entry (9 * 2 ^ 56 + 0x5001) 9) 0 0 .read 2 0x50000 = .fatal 4 1 ∧ walkFrom (entry (255 * 2 ^ 56 + 3) 9) 0 0 .read 4 0x50000 = .fatal 3 3 ∧
     walkFrom (entry (8 * 2 ^ 56 + 0x5007) 9) 0 0 .read 1 0x50000 = .fatal 2 0 ∧ walkFrom (entry (255 * 2 ^ 56 + 0x1007) 9) 0 0 .read 2 0x50000 = .fatal 5 1 ∧
     walkFrom (entry (255 * 2 ^ 56 + 0x5007) 9) 0 0 .write 1 0x50000 = .recoverable 6 0 ∧
     walkFrom (entry (255 * 2 ^ 56 + 2 ^ 39 + 7) 9) 0 0 .read 1 0x50000 = .fatal 7 0 ∧
     (match walkFrom (entry (9 * 2 ^ 56 + 0x5007) 9) 0 0 .read 1 0x50000 with | .ok y => decide (y.dev = 9 ∧ y.pa = 0x5000) | _ => false) = true ∧
     (match walkFrom (entry (255 * 2 ^ 56 + 0x10087) 9) 0 0xFFF .read 1 0x50000 with | .ok y => decide (y.size = 65536 ∧ y.pa = 0x10000) | _ => false) = true) ∧
    (let s := { kstate 0 [] with hbm := (entry 1 9).hbm.mark 32 0x50000 8 }
     s.hbmPoison 0x50000 8 = true) ∧
    (((kstate 0 []).core 0).tlb ++ ((kstate 0 []).die 0).tlb = [] ∧ ((away.core 0).tlb.find? (·.covers 0 0x20FFF)).isSome = true ∧
     (match (away.translate (some 0) 0 0 0x20FFF .read).2 with | .ok _ => true | _ => false) = true ∧ (away.keyOf (away.asid 0).key).isSome = true ∧
     ({ away with leaseLost := true } : State).keyOf (away.asid 0).key = none) := by decide
/-- An access under identifier 511, in a large leaf. -/
def farLoad : Remote := { id := 1, gid := 3, lane := 0, dev := 9, addr := 0, size := 4, asid := 511, va := 0xFFFFF000, leaf := (0xFFE00000, 0x200000) }
/-- A load that used a translation is outstanding, or has come back and is still to be taken; a held entry permits the access, or does
not; and a key that is not in use, and slot 0 named by nothing. -/
theorem witness_TranslationAndKeyResults_waits : farLoad ∈ ({ kstate 0 [] with remotes := [farLoad] } : State).remotes ∧
    (let s := (kstate 0 []).modLane r0 fun x => { x with returned := [⟨farLoad, [0, 0, 0, 0], false, false, false⟩] }
     ∃ g ∈ s.groups, g.freed = false ∧ ∃ x ∈ g.lanes, ∃ z ∈ x.returned, z.acc = farLoad) ∧
    (farLoad.asid == 511 && decide (farLoad.leaf.1 < 0xFFFFFFFFF000) && decide (0xFFFFFFFF < farLoad.leaf.1 + farLoad.leaf.2)) = true ∧ (kstate 0 []).remotes = [] ∧
    ((kstate 0 []).groups.all fun g => g.lanes.all fun x => x.returned == []) = true ∧
    (let held := (away.core 0).tlb ++ (away.die 0).tlb
     (held.find? fun y => y.covers 0 0x20FFF && permits y .read).isSome = true) ∧
    (let s := { kstate 0 [] with asids := [(0, { live := true, key := 5, root := 0 })], aperSlot := 2 }
     (s.asids.any fun y => y.2.live && y.2.key == 0) = false ∧ s.aperSlot.toNat ≠ 0) := by decide

/-- A fault record on which lane 0 waits; and firmware at 0x30000. -/
def faulted (fatal : Bool) : State :=
  let s := kstate (privAt .privFaultFail) [3, 1023, 1]
  let s := s.modLane r0 fun x => { x with status := .parked (.replay 3 1023) x.pc, tvec := 0x40 }
  s.modDie 3 fun d => { d with faults := [(1023, { va := 0x40000, asid := 0, core := 0, reason := 1, level := 3, kind := .read, fatal := fatal, lanes := [r0] })] }
def image : List Word := [0x4B6F1E55, 1, 0x40, 8, 4, 0, 0, 0, 0x11111111, 0x22222222, 0x33333333]
def imaged (s : State) : State :=
  { s with hbm := image.zipIdx.foldl (fun (m : Memory) (w : Word × Nat) => m.setBytes (0x30000 + 4 * w.2) (leBytes 4 w.1.toNat)) s.hbm }

theorem witness_PrivilegedOperationResults_debug : privB .privPlantBreakpoint [0, 0x10000, 0] = true ∧ privB .privRemoveBreakpoint [0, 0x10000, 0] = true ∧
    privB .privRevokeDebug [0] = true ∧ ((kstate 0 []).ctx 0).hdr.debug = false ∧
    (let s := (kstate (privAt .privPlantBreakpoint) [0, 0x10000, 0]).modCtx 0 fun c => { c with hdr := { c.hdr with debug := true } }
     (s.ctx 0).phase = .running ∧ (s.ctx 0).bkpts = [] ∧ s.peekCode 0 0x10000 = some 0 ∧ (s.pokeCode 0 0x10000 0xF8000000).isSome = true ∧
     (let t := s.modCtx 0 fun c => { c with bkpts := [(0x10000, 0x12345678)] }
      tget 0x10000 (t.ctx 0).bkpts = some 0x12345678 ∧ (t.pokeCode 0 0x10000 0x12345678).isSome = true)) := by decide
theorem witness_PrivilegedOperationResults_faults : privB .privFaultReplay [3, 1023, 0] = true ∧ privB .privFaultFail [3, 1023, 1] = true ∧
    privB .privReadFaultRecord [3, 1023] = true := by decide
theorem witness_PrivilegedOperationResults_record : ((faulted false).lane r0).status = .parked (.replay 3 1023) ((faulted false).lane r0).pc ∧
    ((tget 1023 ((faulted false).die 3).faults).map fun f => decide (f.fatal = false ∧ f.bins = [] ∧ f.copies = [] ∧ f.grids = [] ∧ f.lanes = [r0])) = some true ∧
    (((faulted true).die 3).faults.map fun f => f.2.fatal) = [true] ∧ (faulted false).policy 0 0x09 = 0 ∧ ((faulted false).lane r0).canDeliver = true := by decide
theorem witness_PrivilegedOperationResults_rest : privB .privEngineReset [159] = true ∧ privB .privDerate [7, 65535] = true ∧ privB .privPoolQuery [0] = true ∧
    privB .privQueueDisable [1023, 0] = true ∧ privB .privQueueActivate [1023, 1] = true ∧ privB .privMsix [63] = true ∧ privB .privHandover [0, 0x30000, 0] = true ∧
    ((imaged (kstate 0 [])).firmware 0x30000).isSome = true ∧ (kstate 0 []).complex.successor = none := by decide

/-! ### Witnesses: events. Each state's `ev` holds what the event's agent brings -/

/-- An operation of one signer, whose two images stand at offsets 0 and 2048, the second one's header word 1 as given. -/
def signer : Signer := { gid := 3, lane := 0, tidx := 0, fmt := 0x11, aOff := 0, bOff := 2048, aTop := 4096, bTop := 4096, d := 0, f := 50, ca := 6, cb := 6 }
def matOp (phase : OpPhase) : MxOp :=
  { id := 50, ctx := 0, block := 2, core := 0, cv := 15, pc := 0x10000, entry := 0x10000, signers := [signer], phase := phase }
def engined (w1 : Word) (phase : OpPhase) : State :=
  let s := stocked.modBlock 2 fun b =>
    { b with scratch := (header.set 1 w1).zipIdx.foldl (fun m w => m.writeWord 8 (2048 + 4 * w.2) ⟨w.1, false⟩) b.scratch }
  { s with issue := none, ev := { a := 0 }, ops := [matOp phase] }

/-- The second image has role B, or not. -/
theorem witness_MachineEvents_operands : (engined 0x01002001 .queued).engineHead 0 = some (matOp .queued) ∧ (matOp .queued).ranked.head? = some signer ∧
    (∀ y ∈ (matOp .queued).signers, y.aOff = signer.aOff ∧ y.bOff = signer.bOff ∧ y.fmt = signer.fmt) ∧ (matOp .queued).signers ≠ [] ∧ (matOp .queued).tag = 0 ∧
    (engined 0x01002001 .queued).linesPresent 2 0 32 = true ∧ (engined 0x01002001 .queued).linesPresent 2 2048 32 = true ∧
    (matOp .queued).reason (imageWords (engined 0x01002001 .queued) (matOp .queued) 0 8) (imageWords (engined 0x01002001 .queued) (matOp .queued) 2048 8) = none ∧
    (matOp .queued).reason (imageWords (engined 0x01000001 .queued) (matOp .queued) 0 8) (imageWords (engined 0x01000001 .queued) (matOp .queued) 2048 8) ≠ none := by decide
def computing : OpPhase :=
  .computing (imageWords (engined 0x01002001 .queued) (matOp .queued) 0 264) (imageWords (engined 0x01002001 .queued) (matOp .queued) 2048 264)
theorem witness_MachineEvents_compute : (engined 0x01002001 computing).engineHead 0 = some (matOp computing) ∧ (matOp computing).ranked[0]? = some signer ∧
    ((matOp computing).signers.map fun z => (z.gid, z.lane)).Nodup ∧ (engined 0x01002001 computing).signerLives signer = true ∧
    hasB (engined 0x01002001 computing) r0 = true ∧ ((engined 0x01002001 computing).lane r0).dirty.contains 63 = false := by decide +kernel

/-- A copy of one granule from HBM to scratchpad, or back. -/
def xferAt (src dst : Place) : Xfer := { lane := 0, src := src, dst := dst, len := 16, total := 1 }
def copyAt (x : Xfer) : Copy :=
  { id := 60, core := 0, ctx := 0, gid := 3, block := 2, pc := 0x10000, entry := 0x10000, seq := 0, copyIn := true, xfers := [x] }
def copying (x : Xfer) : State := { rich with issue := none, ev := { a := 60, b := 0 }, copies := [copyAt x] }
def xin : Xfer := xferAt (.global 0x20000) (.scratch 128)
def xout : Xfer := xferAt (.scratch 128) (.global 0x20000)

theorem witness_MachineEvents_copy : (∃ v, MayMove (copying xin) v (copyAt xin) xin 0x20000 128 0 0x20000 .read) ∧
    (∃ v, MayMove (copying xout) v (copyAt xout) xout 0x20000 128 0 0x20000 .write) ∧ xin.tags = false ∧ 0x20000 % 16 = 0 := by
  refine ⟨⟨((copying xin).locate none 0 0 0x20000 .read).1, ?_⟩, ⟨((copying xout).locate none 0 0 0x20000 .write).1, ?_⟩, rfl, rfl⟩ <;>
    exact ⟨by rfl, by decide, by rfl, by decide, rfl, by decide, by rfl, by decide, by decide, by decide⟩
theorem witness_MachineEvents_copied : (let c := copyAt { xin with done := 1 }
    (copying { xin with done := 1 }).copies.find? (fun c => c.id == 60) = some c ∧ c.written = true ∧ c.tag = 0) := by decide

/-- Lane 0 with an engine fault, or a region abort as member of region 0, to come. -/
theorem witness_MachineEvents_lane : (let s := handled.modLane r0 fun x => { x with async := [.engine 0x0E 1 2] }
     (s.lane r0).async = [.engine 0x0E 1 2] ∧ (s.lane r0).atBoundary = true ∧ s.policy (s.group 3).ctx 0x0E = 0 ∧ (s.lane r0).canDeliver = true) ∧
    (let s := joined.modLane r0 fun x => { x with async := [.region 4] }
     (s.lane r0).async = [.region 4] ∧ (s.lane r0).atBoundary = true ∧ (s.group 3).region.isSome = true ∧ hasB s r0 = true) ∧
    (let s := rich.modLane r0 fun x => { x with kill := true }
     (s.lane r0).kill = true ∧ (s.lane r0).atBoundary = true ∧ (s.group 3).region = none ∧ (s.block 2).roster = [] ∧
     (s.grid 1).coop = false ∧ hasB s r0 = true) ∧
    ((rich.modLane r0 fun x => { x with halted := true }).lane r0).halted = true := by decide

/-- A grid of two blocks heads the highest launch queue; every core but core 0 is withheld, and core 0 is empty. -/
def dealing : State :=
  { rich with
    groups := [], blocks := [], grids := rich.grids.map fun g => { g with dimx := 2, next := 0, state := .queued, framed := true }
    launchQ := [(3, [1])], cores := (List.range 160).map fun k => (k, { withheld := k != 0 }) }
theorem witness_MachineEvents_deal : (∀ b ∈ dealing.blocks, b.rest = none) ∧ (dealing.launchQueue 3).head? = some 1 ∧ (dealing.ctx (dealing.grid 1).ctx).phase = .running ∧
    (dealing.grid 1).held = false ∧ (dealing.grid 1).pred = none ∧ (dealing.grid 1).framed = true ∧ (dealing.grid 1).coop = false ∧
    (dealing.placeBlock (dealing.grid 1) (dealing.grid 1).next).isSome = true ∧ (dealing.grid 1).next + 1 ≠ (dealing.grid 1).blocks := by decide +kernel

theorem witness_MachineEvents_context : (let s := { rich with groups := [], blocks := [], grids := [] }
     (s.ctx 0).ending = none ∧ s.finished 0 = true ∧ s.delayed = []) ∧
    (let s := tasking.modCtx 0 fun c => { c with granQ := [(9, 0, 1)], bins := [(5, { records := [List.replicate 4 ⟨0x3F800000, false⟩], timer := true })] }
     let b := (s.ctx 0).bin 0 5
     tget 5 (s.ctx 0).nodes = some node5 ∧ b.timer = true ∧ b.records ≠ [] ∧ b.held = false ∧ b.records.length < node5.count ∧ (s.ctx 0).phase = .running ∧
     (s.ctx 0).granQ ≠ [] ∧ ∀ y ∈ b.records, s.hopeless 0 0 y = false) ∧
    (let s := rich.modDie 3 fun d => { d with coming := [(7, 1, 2)] }
     (s.die 3).coming = [(7, 1, 2)] ∧ ∀ c ∈ s.ctxs, tget 0 c.2.slots ≠ some 7) ∧
    (let s := rich.modCtx 0 fun c => { c with phase := .halting, request := .kill true }
     s.drained 0 = true ∧ (s.ctx 0).phase = .halting ∧ (s.ctx 0).owed = [] ∧ (s.ctx 0).request = .kill true) ∧
    (let s := rich.modCtx 0 fun c => { c with phase := .halting, request := .halt 1 }
     s.drained 0 = true ∧ (s.ctx 0).owed = [] ∧ (s.ctx 0).request = .halt 1) ∧
    (let s := rich.modCtx 0 fun c => { c with phase := .halting, request := .program }
     s.drained 0 = true ∧ (s.ctx 0).owed = [] ∧ (s.ctx 0).request = .program) := by decide
theorem witness_MachineEvents_region : (let s := sealedOne.modRegion 0 fun x => { x with state := .committing }
     (s.region 0).state = .committing ∧ (s.region 0).members ≠ [] ∧ s.delayed = [] ∧ (∀ g ∈ (s.region 0).members, (s.group g).spec = []) ∧
     ∀ d, d < 4 → ∀ y ∈ (s.die d).dir, y.region ≠ 0) := by decide
theorem witness_MachineEvents_remote : (let s : State := { rich with remotes := [{ id := 70, gid := 3, lane := 0, dev := 9, addr := 0, size := 4 }], ev := { a := 70, data := [1, 2, 3, 4] } }
     let s := s.modLane r0 fun x => { x with status := .parked (.remote 70) x.pc }
     (s.remotes.find? (fun y => y.id == 70)).map (fun y => (y.gid, y.lane, y.size)) = some (3, 0, s.ev.data.length) ∧
     (s.lane r0).status = .parked (.remote 70) 0x10000 ∧ ∀ g ∈ s.groups, g.gid = 3 → g = s.group 3) := by decide
theorem witness_MachineEvents_rows : ({ rich with derateNext := some 7 } : State).derateNext = some 7 ∧
    (let s := rich.modCore 0 fun c => { c with cycles := 65536, rows := [(0, { grid := 1, regs := 64, rgnSince := some 0 }), (1, { grid := 1, regs := 64, slot := some 5 })] }
     (s.row 0 0).rgnSince = some 0 ∧ 0 + 65536 ≤ (s.core 0).cycles.toNat ∧ (s.row 0 0).slot = none ∧
     (1, ({ grid := 1, regs := 64, slot := some 5 } : Row)) ∈ (s.core 0).rows ∧ ((s.core 0).rows.filter fun y => y.2.slot.isSome).length = 1 ∧
     (let t := s.modLane r0 fun x => { x with status := .parked .window x.pc }
      ((t.atWindow 0 0).any fun q => !q.halted) = true ∧ t.slotOverdue 0 = some 0)) ∧
    (let s := (rich.modRow 0 0 fun y => { y with sl := 0x8000 }).modLane r0 fun x => x.wr 63 {}
     (s.lane r0).unwritten.getLsbD 63 = false ∧ (s.group 3).isK = false ∧ (s.group 3).freed = false ∧ (s.group 3).evicted = false ∧ (s.row (s.group 3).coreOf (s.group 3).row).sl.getLsbD (63 / 4) = true ∧ (s.row 0 0).map = [] ∧ (s.lane r0).halted = false) ∧
    (let s := (rich.modCtx 0 fun c => { c with phase := .saving }).modGroup 3 fun g => { g with lanes := g.lanes.map fun x => { x with status := .exited } }
     s.evictable 0 0 = true) ∧
    (let s := (rich.modCtx 0 fun c => { c with phase := .saving }).modGroup 3 fun g => { g with lanes := g.lanes.map fun x => { x with passed := true } }
     s.evictable 0 0 = true) := by decide
theorem witness_MachineEvents_illegal : Ready handled one ∧ (∀ r ∈ one.lanes, deliversB handled one r 0x01 = true ∧ (handled.lane r).helper = false) :=
  ⟨ready_of (by decide), by decide⟩

/-- The placed context beside a Kolesque core that waits for an event, or runs one. -/
def kidle : State := { (kstate 0 []).modLane kr fun x => { x with status := .parked .event 0x20 } with
  issue := none, ev := { a := 0 }, kcores := [(0, { status := .idle, dest := 60 })], eventQ := [{ kind := 5 }] }
def kbusy : State := imaged { kstate 0 [] with
  issue := none, ev := { a := 0 }, kcores := [(0, { status := .running, event := some { kind := 5 } })]
  complex := { (kstate 0 []).complex with wdog := 1, fwimg := 0x30000, ktimers := [(15, 1)] } }

theorem witness_ComplexAndHostEvents_complex : kidle.complex.state = .running ∧ (kidle.kcores.find? fun k => k.2.status == .idle).map (·.1) = some 0 ∧
    (kidle.lane (kGid 0, 0)).status = .parked .event 0x20 ∧ hasB kidle (kGid 0, 0) = true ∧ (kidle.lane (kGid 0, 0)).loop = none ∧
    (kidle.kcore 0).dest + 4 ≤ (kidle.lane (kGid 0, 0)).regs.length ∧ tget 15 kbusy.complex.ktimers = some 1 ∧
    (kbusy.kcore 0).status = .running ∧ (kbusy.kcore 0).event.isSome = true ∧ kbusy.complex.wdog ≠ 0 ∧ kidle.eventHeld = [] ∧
    ({ kidle with eventHeld := [{ kind := 3 }] } : State).eventHeld = { kind := 3 } :: [] ∧
    (kbusy.firmware kbusy.complex.fwimg.toNat).isSome = true ∧ ((kstate 0 []).firmware 0).isNone = true := by decide
theorem witness_ComplexAndHostEvents_memory : (let s := { kbusy with kcores := [(0, { status := .running })] }
     (s.kcore 0).event = none ∧ (s.kcore 0).errs = [] ∧ s.firmware s.complex.fwimg.toNat = some (0x40, 8, 4)) ∧ kbusy.complex.state ≠ .reset ∧
    (kbusy.eventHeld = [] ∧ kbusy.eventQ.length < 4096) ∧ ¬ Room { kbusy with eventHeld := [{ kind := 3 }] } :=
  ⟨by decide, by decide, by decide, fun h => by simp [Room] at h⟩
theorem witness_ComplexAndHostEvents_queue : (let s := { kidle with linkUp := true, queues := [(1023, { active := true })] }
     s.linkUp = true ∧ (s.queue 1023).active = true ∧ (∀ e ∈ s.eventQ ++ s.eventHeld, e.kind ≠ 1 ∨ e.queue ≠ 1023)) ∧
    (let s := { kidle with linkUp := true, queues := [(1023, { active := true })], eventHeld := [{ kind := 1, queue := 1023, w3 := 0xFFFF }] }
     s.eventHeld = [] ++ { kind := 1, queue := 1023, w3 := 0xFFFF } :: []) ∧
    (let s := { kidle with linkUp := true, queues := [(1023, { active := true })], eventQ := [{ kind := 1, queue := 1023, w3 := 0xFFFF }] }
     s.eventQ = [] ++ { kind := 1, queue := 1023, w3 := 0xFFFF } :: [] ∧ s.eventHeld = []) := by decide
theorem witness_ComplexAndHostEvents_aperture : (let s := { rich with linkUp := true, sexton := { rich.sexton with state := 2 }, ev := { a := 2 ^ 36 - 4096, flag := true, data := [1, 2] } }
     s.linkUp = true ∧ s.aperture = some (0, s.leaseKey) ∧ s.ev.a + 4096 ≤ 2 ^ 36 ∧ s.ev.data.length ≤ 4096 ∧ s.ev.data ≠ [] ∧ s.hbm.wf = true ∧
     (∀ i, i < 2 → s.lineRec (0 + s.ev.a + i) = none ∧ s.isRetired (0 + s.ev.a + i) = false)) ∧
    ({ rich with linkUp := true } : State).aperture = none ∧
    (let s := { rich with linkUp := true, sexton := { rich.sexton with state := 3 } }
     s.sexton.state = 3 ∧ ({ s with power := { s.power with on := true } } : State).power.on = true ∧ (1#64).getLsbD 0 = true ∧ (List.replicate 32 (0#8)).length = 32) := by decide
theorem witness_ComplexAndHostEvents_sexton : rich.sexton.state = 0 ∧ 4800 ≤ 4800 ∧ 5400 ≤ 5400 ∧ 4799 < 4800 ∧
    (let s := { rich with sexton := { rich.sexton with state := 2 }, power := { rich.power with on := true } }
     s.power.on = true ∧ s.sexton.state ≠ 0 ∧ s.sexton.state ≠ 1 ∧ s.sexton.state ≠ 4) ∧ (State.losePower rich).power.on = false ∧
    (let s := { rich with power := { rich.power with on := true } }
     s.power.on = true ∧ s.sexton.state = 0) ∧
    (let s := imaged { rich with sexton := { rich.sexton with state := 2, fwaddr := 0x30000 } }
     s.sexton.state = 2 ∧ s.firmware s.sexton.fwaddr.toNat = some (0x40, 8, 4) ∧ (s.kcore 11).status ≠ .retired) ∧
    (let s := { rich with sexton := { rich.sexton with state := 5 } }
     s.sexton.state = 5 ∧ s.firmware s.sexton.fwaddr.toNat = none) ∧
    (let s := { rich with sexton := { rich.sexton with state := 1 } }
     s.sexton.state = 1 ∧ s.lasting = [] ∧ s.unspared = []) := by decide
theorem witness_ComplexAndHostEvents_error : ({ rich with ev := { unit := some (.hbm 0) } } : State).ev.unit = some (.hbm 0) ∧ rich.isStale 0 = false ∧
    ({ rich with baseKey := rich.drawnKey + 3, sectorKeys := [] } : State).isStale 0 = true := by decide

theorem witness_PowerLinkBoardEvents_power : (4799 < 4800 ∧ 5400 < 5401) ∧ ({ rich with power := { rich.power with on := true } } : State).power.on = true ∧
    60 ≤ 60 ∧ (45 < 46 ∧ 60 < 61) := by decide
theorem witness_PowerLinkBoardEvents_gate : (let s := rich.modGroup 3 fun g => { g with lanes := g.lanes.map fun x => { x with status := .parked .event x.pc } }
     (s.core 0).rows ≠ [] ∧ (∀ y ∈ (s.core 0).rows, s.rowBlocked 0 y.1 = true) ∧ (s.core 0).gate.clock = false ∧ ((s.group 3).lanes[7]?).map (·.unexited) = some true ∧
     (let t := s.modCore 0 fun c => { c with gate := { clock := true } }
      (t.core 0).gate.clock = true ∧ (t.core 0).gate.reported = false)) := by decide
theorem witness_PowerLinkBoardEvents_link : (∀ y ∈ rich.regions, 9 ∉ y.2.holders ∧ y.1 < 256 ∧ ∀ z ∈ y.2.remote, z.1 ≠ 9) ∧
    (let x : Region := { state := .opened, members := [3], holders := [9] }
     ({ far with regions := [(0, x)] } : State).regions = [(0, x)] ∧ x.members ≠ [] ∧ 9 ∈ x.holders) ∧ ({ rich with domid := 0 } : State).domid ≠ 0xFF ∧
    (let s := { rich with
       ev := { req := some { dev := 9, addr := 0x20000, op := .write [1] false false } }, power := { rich.power with on := true }
       sexton := { rich.sexton with state := 2 } }
     s.lineRec 0x20000 = none ∧ 0x20000 + 1 ≤ 2 ^ 39 ∧ s.hbm.wf = true ∧ s.isRetired 0x20000 = false ∧ (s.keyOf 0).isSome = true ∧
     s.power.on = true ∧ s.sexton.state = 2) ∧
    (opened.region 0).state = .opened ∧ (1#64).getLsbD 0 = true ∧ (0#64).getLsbD 0 = false ∧
    (let s := { opened with power := { opened.power with on := true }, sexton := { opened.sexton with state := 3 }, ev := { value := 1, msg := some (.abort 0 7) } }
     s.power.on = true ∧ s.sexton.state ∉ [0, 1, 4] ∧ s.ev.value.getLsbD 0 = true ∧ s.ev.flag = false ∧ s.ev.msg = some (.abort 0 7) ∧ (s.region 0).state = .opened) ∧
    (State.losePower rich).power.on = false ∧ rich.sexton.state = 0 ∧ rich.farSpec = [] := by decide
/-- Another device's speculative atomic on 0x20000, whose group commits it, or discards those of lane 2. -/
def fromAway (op : RemoteOp) : State := { rich with
  issue := none, ev := { req := some { dev := 9, addr := 0x20000, op := op, group := some 7 } }, power := { rich.power with on := true }
  sexton := { rich.sexton with state := 3 } }
theorem witness_PowerLinkBoardEvents_speculation : (let s := fromAway (.speculate 2 0 5 0 false)
     s.power.on = true ∧ s.sexton.state ≠ 0 ∧ s.sexton.state ≠ 4 ∧ s.keyOf 0 = some 0 ∧ (∀ i, i < 4 → s.lineRec (0x20000 + i) = none) ∧ s.farSpec = [] ∧
     s.dirUsed (homeDie 0x20000) < dirCapacity) ∧
    (let s := { fromAway .commit with farSpec := [((9, 7), ⟨2, 0, 0x20000, 0, ⟨5, false⟩, 0⟩)] }
     ∀ y ∈ s.farSpec, y.1 = (9, 7) ∧ s.lineRec y.2.addr = none) := by decide
theorem test_far_commit : (let s := { fromAway .commit with farSpec := [((9, 7), ⟨2, 0, 0x20000, 0, ⟨5, false⟩, 0⟩)] }
    match exec .remoteAccessRequest s with
    | .next t => decide (t.farSpec = [] ∧ (t.hbmRead 0 0x20000).val = (s.hbmRead 0 0x20000).val + 5)
    | _ => false) = true := by decide
theorem test_far_discard : (let s := { fromAway (.discard (some 2)) with
      farSpec := [((9, 7), ⟨2, 0, 0x20000, 0, ⟨5, false⟩, 0⟩), ((9, 7), ⟨3, 0, 0x20000, 0, ⟨6, false⟩, 0⟩)] }
    match exec .remoteAccessRequest s with
    | .next t => decide (t.farSpec.map (·.2.lane) = [3] ∧ t.hbm = s.hbm)
    | _ => false) = true := by decide
/-- The L1 of core 0 holds the sector of 0x20004 poisoned: a load takes the poison (R147), and after an acquire point none. -/
def spoiled : State := { rich with l1 := [(l1Key 0 0x20004, 0)] }
theorem test_l1_poison : ((after (.ldw (.reg 8) 3 1) spoiled).reg r0 8).poison = true ∧ (after (.fence 0 1) spoiled).l1 = [] ∧
    (after (.ldw (.reg 8) 3 1) spoiled).l1 = spoiled.l1 ∧ ((after (.ldw (.reg 8) 3 1) rich).reg r0 8).poison = false := by decide
/-! ### Witnesses: hints and the picker -/

/-- A hint of kind 4 before an srd, legal; one of kind 5, which no run may hold; one of kind 0, which an srd does not admit. -/
theorem witness_NoInstructions_runs : ((0xFD000005#32).toNat / 2 ^ 26 = 0x3F ∧ (0xFD400000#32).toNat / 2 ^ 26 = 0x3F) ∧ (0xCC000000#32).toNat / 2 ^ 26 ≠ 0x3F ∧
    runError false [0xFD000005] 0xCC000000 = none ∧ runError false [0xFD000005, 0xFD400000] 0xCC000000 = some (1, 0xFD400000) ∧
    runError false [0xFC000001] 0xCC000000 = some (0, 0xFC000001) ∧ runError false [] 0xD4000000 = some (0, 0xD4000000) :=
  ⟨by decide, by decide, by decide, by decide, by decide, by decide⟩

theorem no_fault : ∀ n, ¬ RunFault false [0xFD000005] 0xCC000000 n := by
  have h : decodeWord 0xCC000000 = .ok (.srd (.reg 0) 0) := by decide
  rintro n (⟨x, hx, hb⟩ | ⟨-, ⟨e, he, -⟩ | ⟨hc, -⟩⟩)
  · match n with
    | 0 =>
      obtain rfl : 0xFD000005#32 = x := by simpa using hx
      rcases hb with hb | hb
      · simp [HintBroken] at hb
      · simp [HintRefused] at hb
    | n + 1 => simp at hx
  · rw [h] at he; simp at he
  · simp at hc

theorem first_fault : FirstFault false [0xFD400000] 0xCC000000 0 0xFD400000 :=
  ⟨.inl ⟨0xFD400000, rfl, .inl (.inl (by decide))⟩, fun m h => absurd h (by omega), rfl⟩

/-- The placed srd behind a hint. -/
def hinted (h : Word) : State := { placed with hbm := placed.hbm.setBytes 0x10000 (leBytes 4 h.toNat ++ leBytes 4 0xCC000000) }
def started (h : Word) : Work :=
  let s1 := { hinted h with agenda := [], turn := 0, power := { placed.power with braked := sdel 0 placed.power.braked } }
  let s2 := s1.modRow 0 0 fun r => { r with lastIssue := 0 + 1 }
  let s3 := s2.modCore 0 fun k => { k with gathers := k.gathers + 1, gate := {} }
  s3.work { eight with pc := 0x10000, start := 0x10000, word := 0 }

theorem fetches_two {u x v : Work} {a : DWord} {h w : Word} (h1 : u.fetch a = (x, some h)) (h2 : isHint h = true)
    (h3 : x.fetch (a + 4) = (v, some w)) (h4 : isHint w = false) : Fetches u a [h] w v := ⟨x, h1, h2, h3, h4⟩
theorem pair_of {α β : Type} {p : α × β} {b : β} (h : p.2 = b) : p = (p.1, b) := by rw [← h]

def second (h : Word) : Work × Option Word := ((started h).fetch 0x10000).1.fetch (0x10000 + 4)
def fetchB (h : Word) : Bool :=
  ((started h).fetch 0x10000).2 == some h && isHint h && (second h).2 == some 0xCC000000 && (second h).1.live == eight.lanes
theorem fetches_of {h : Word} (k : fetchB h = true) : ∃ v, Fetches (started h) 0x10000 [h] 0xCC000000 v ∧ v.live = eight.lanes := by
  simp only [fetchB, Bool.and_eq_true, beq_iff_eq] at k
  exact ⟨(second h).1, fetches_two (pair_of k.1.1.1) k.1.1.2 (pair_of k.1.2) (by decide), k.2⟩

theorem witness_ComputeStepExecutes_hints : (∃ v, Fetches (started 0xFD000005) 0x10000 [0xFD000005] 0xCC000000 v ∧ v.live = eight.lanes) ∧
    (∃ v, Fetches (started 0xFD400000) 0x10000 [0xFD400000] 0xCC000000 v ∧ v.live = eight.lanes) ∧
    (∀ n, ¬ RunFault false [0xFD000005] 0xCC000000 n) ∧ decodeWord 0xCC000000 = .ok (.srd (.reg 0) 0) ∧
    FirstFault false [0xFD400000] 0xCC000000 0 0xFD400000 ∧ (0xCC000000#32).toNat / 2 ^ 26 ≠ 0x29 ∧
    (∀ r ∈ eight.lanes, (placed.lane r).returned = [] ∧ (placed.lane r).stack.length ≤ 8) :=
  ⟨fetches_of (by decide +kernel), fetches_of (by decide +kernel), no_fault, by decide, first_fault, by decide, by decide⟩
/-- A word of ctxrun with an id that no operation has, on a compute core. -/
theorem witness_ComputeStepExecutes_privileged : (∃ e, decodeWord 0xCC000EFF = .error e) ∧ ∃ i, decodeWord (0xCC000EFF &&& 0xFFFFFF00) = .ok i :=
  ⟨⟨_, rfl⟩, _, rfl⟩
/-- The picker's groups and rows are one each; the placed row is its choice, and a machine with no row has none. -/
theorem witness_ComputeStepExecutes_picker : (∀ g ∈ placed.groups, g = placed.group g.gid) ∧ ((placed.core 0).rows.map (·.1)).Nodup ∧
    (placed.pickGather 0).map (·.1) = some 0 ∧ State.reset.pickGather 0 = none ∧ (∀ g ∈ State.reset.groups, g = State.reset.group g.gid) := by decide

/-! ### Witnesses: the exact results and bounds of Table 6.8, stores of members, and more atoms -/

/-- Operands at the ends of the ranges of Table 6.8. -/
theorem witness_FloatResults_exact : fIsNaN 0x7F800001 = true ∧ (0x80200000#32).toNat % 2 ^ 31 ≤ 0x200000 ∧ (0xFF800000#32).toNat % 2 ^ 31 = 0x7F800000 ∧
    (0x400000#32).toNat % 2 ^ 31 = (twoTo (-127)).toNat ∧ (0x7F000000#32).toNat % 2 ^ 31 = (twoTo 127).toNat ∧ fIsNaN 0x7F800000 = false ∧
    (0x80000000 : Nat) < (0x80000001#32).toNat ∧ (0x7F800000#32).toNat ≤ 0x7F800000 ∧ (0x7F7FFFFF#32).toNat % 2 ^ 31 < 0x7F800000 ∧
    0x7F800000 ≤ (0xFFC00000#32).toNat % 2 ^ 31 ∧ (0x80000000#32).toNat % 2 ^ 31 = 0 ∧ 0x48000000 < (0x48000001#32).toNat % 2 ^ 31 ∧
    0x41200000 ≤ (0xC1200000#32).toNat % 2 ^ 31 ∧ 0x200000 < (0x200001#32).toNat % 2 ^ 31 ∧ 0 < (1#32).toNat := by decide
/-- The value of a normal word, and of one below 2^-126, from its fields. -/
theorem fVal_of (x : Word) (m : Nat) (e : Nat) (h : x.toNat = m + 2 ^ 23 * e) (hm : m < 2 ^ 23) (h0 : 1 ≤ e) (h1 : e < 256) :
    fVal x = (m + 2 ^ 23 : ℚ) * 2 ^ ((e : Int) - 150) := by
  have h2 : x.toNat % 2 ^ 23 = m := by omega
  have h3 : x.toNat / 2 ^ 23 % 256 = e := by omega
  have h4 : x.toNat < 2 ^ 31 := by omega
  have h5 : max e 1 = e := by omega
  have h6 : ¬ e = 0 := by omega
  simp only [fVal, fSig, fExp, h2, h3, h4, h5, h6, if_true, if_false]
  push_cast
  rfl
theorem fVal_neg (x : Word) (m : Nat) (e : Nat) (h : x.toNat = m + 2 ^ 23 * e + 2 ^ 31) (hm : m < 2 ^ 23) (h0 : 1 ≤ e) (h1 : e < 256) :
    fVal x = -(m + 2 ^ 23 : ℚ) * 2 ^ ((e : Int) - 150) := by
  have h2 : x.toNat % 2 ^ 23 = m := by omega
  have h3 : x.toNat / 2 ^ 23 % 256 = e := by omega
  have h4 : ¬ x.toNat < 2 ^ 31 := by omega
  have h5 : max e 1 = e := by omega
  have h6 : ¬ e = 0 := by omega
  simp only [fVal, fSig, fExp, h2, h3, h4, h5, h6, if_false]
  push_cast
  ring

theorem witness_FloatResults_powers : fVal 0xC3150000 = (-149 : Int) ∧ fVal 0x42FE0000 = (127 : Int) ∧ 128 ≤ fVal 0x43000000 ∧ fVal 0xC3170000 < -150 := by
  rw [fVal_neg 0xC3150000 0x150000 0x86 rfl (by norm_num) (by norm_num) (by norm_num), fVal_of 0x42FE0000 0x7E0000 0x85 rfl (by norm_num) (by norm_num) (by norm_num),
    fVal_of 0x43000000 0 0x86 rfl (by norm_num) (by norm_num) (by norm_num), fVal_neg 0xC3170000 0x170000 0x86 rfl (by norm_num) (by norm_num) (by norm_num)]
  norm_num
/-- The operands of the bounds, each range at an end. -/
theorem witness_RoundingKeepsFormatValues_bounds : (-150 ≤ fVal 0xC3160000 ∧ fVal 0xC3160000 < 128) ∧
    (0 < fVal 0x3F000000 ∧ 1 / 2 ≤ fVal 0x3F000000 ∧ fVal 0x40000000 ≤ 2) ∧ |((fVal 0x40000000 : ℚ) : ℝ)| ≤ Real.pi ∧
    (Real.pi < |((fVal 0x48000000 : ℚ) : ℝ)| ∧ |fVal 0x48000000| ≤ 2 ^ 17) := by
  have a : fVal 0x48000000 = 131072 := by rw [fVal_of _ 0 0x90 rfl (by norm_num) (by norm_num) (by norm_num)]; norm_num
  have b : fVal 0x40000000 = 2 := by rw [fVal_of _ 0 0x80 rfl (by norm_num) (by norm_num) (by norm_num)]; norm_num
  have c : fVal 0x3F000000 = 1 / 2 := by rw [fVal_of _ 0 0x7E rfl (by norm_num) (by norm_num) (by norm_num)]; norm_num
  have d : fVal 0xC3160000 = -150 := by rw [fVal_neg _ 0x160000 0x86 rfl (by norm_num) (by norm_num) (by norm_num)]; norm_num
  rw [a, b, c, d]
  have lo := Real.pi_gt_three
  have hi := Real.pi_lt_four
  norm_num
  constructor <;> linarith

/-- The same member where a route leads to the device, and where none does any more. -/
def routed (s : State) (devs : List Nat) : State := { s with routes := devs }
theorem witness_StoreResults_routes : (∃ v, Lands (routed far [9]) one r0 (stw3 (routed far [9])) v (.remote 9 0x70FC 0x200FC) ∧
      v.memberOf r0.1 = some 0 ∧ 9 ∈ v.routes) ∧
    ∃ v, Lands (routed far []) one r0 (stw3 (routed far [])) v (.remote 9 0x70FC 0x200FC) ∧ v.memberOf r0.1 = some 0 ∧ 9 ∉ v.routes ∧
      (v.region 0).state = .opened ∧ r0.1 ∈ (v.region 0).members ∧ (v.lane r0).unexited = true :=
  ⟨⟨(seen (routed far [9]) one r0 (stw3 (routed far [9]))).1, lands_of (by rfl), by rfl, by decide⟩,
   (seen (routed far []) one r0 (stw3 (routed far []))).1, lands_of (by rfl), by rfl, by decide, by decide, by decide, by decide⟩

/-- An atom of lane 0 through a quad. -/
def atomAt (s : State) (c : Quad) (i : Instr) : MemRow := ⟨i, [rfld codeD 0 2, qfld c], quadAcc s r0 c 0 4 [0, 1, 4] .rmw⟩
def held (s : State) : State := s.modGroup 3 fun g =>
  { g with spec := [{ lane := 0, key := 0, addr := 0x20000, aop := 0, operand := {}, compare := 0 }] }
/-- A cas that compares with a poisoned word; a speculative use in scratchpad; an absent line; a line whose region installs; another
device's page, its answer awaited or there, with no free record; and a group that holds an operation on the line already. -/
theorem witness_AtomicResults_refused :
    (let s := handled.modLane r0 fun x => x.wr 1 ⟨3, true⟩
     aloneB s one r0 = true ∧ deliversB s one r0 0x0A = true ∧ (s.reg r0 (regNo s one r0 codeD 0 + 1)).poison = true ∧
     (seen s one r0 (atomAt s 3 (.atomCas 0 3 0 0 0))).2 = some (.hbm 0 0x20000)) ∧
    (deliversB handled one r0 0x06 = true ∧ (atomAt handled 5 (.atomAdd 0 5 0 0 4)).acc.cap.space ≠ 0 ∧
     (seen handled one r0 (atomAt handled 5 (.atomAdd 0 5 0 0 4))).2 = some (.scratch 2 128)) ∧
    ((seen absent one r0 (atomAt absent 5 (.atomAdd 0 5 0 0 0))).2 = some (.scratch 2 128) ∧ absent.present 2 1 = false) ∧
    ((seen installing one r0 (atomAt installing 3 (.atomAdd 0 3 0 0 0))).2 = some (.hbm 0 0x20000) ∧ installing.stalled 0x20000 = true) := by decide
/-- The answer of a speculative atomic that found no free record there is to be taken. -/
def overflowed : State := away.modLane r0 fun x =>
  { x with returned := [⟨{ id := 0, gid := 3, lane := 0, dev := 9, addr := 0x7000, size := 4, va := 0x20000 }, [1, 2, 3, 4], false, false, true⟩] }
theorem witness_AtomicResults_away :
    (∃ v, Lands away one r0 (atomAt away 3 (.atomAdd 0 3 0 0 1)) v (.remote 9 0x7000 0x20000) ∧ (v.group r0.1).region = none ∧ brought v r0 0x20000 4 = none) ∧
    ∃ v, Lands overflowed one r0 (atomAt overflowed 3 (.atomAdd 0 3 0 0 4)) v (.remote 9 0x7000 0x20000) ∧ (v.group r0.1).region = none ∧
      (sees v r0 (.remote 9 0x7000 0x20000) 4).isSome = true ∧ (brought v r0 0x20000 4).map (·.overflow) = some true :=
  ⟨⟨(seen away one r0 (atomAt away 3 (.atomAdd 0 3 0 0 1))).1, lands_of (by rfl), by rfl, by rfl⟩,
   (seen overflowed one r0 (atomAt overflowed 3 (.atomAdd 0 3 0 0 4))).1, lands_of (by rfl), by rfl, by rfl, by rfl⟩
theorem witness_AtomicResults_held : ∃ v, Lands (held rich) one r0 (atomAt (held rich) 3 (.atomAdd 0 3 0 0 4)) v (.hbm 0 0x20000) ∧
    (sees { v with l1 := [] } r0 (.hbm 0 0x20000) 4).isSome = true ∧ Quiet v r0 (.hbm 0 0x20000) ∧
    (sees ({ v with l1 := [] }.modGroup r0.1 fun g => { g with spec := [] }) r0 (.hbm 0 0x20000) 4).isSome = true ∧
    ∃ o ∈ (v.group r0.1).spec, o.addr / 128 = 0x20000 / 128 :=
  ⟨(seen (held rich) one r0 (atomAt (held rich) 3 (.atomAdd 0 3 0 0 4))).1, lands_of (by rfl), by rfl, ⟨by decide, by decide, by decide, by decide, by decide⟩, by rfl,
   ⟨_, .head _, rfl⟩⟩
/-- A slice with no free record. -/
def crammed : State := rich.modDie (homeDie 0x20000) fun d => { d with dir := List.replicate 32768 ⟨0, 0, []⟩ }
theorem witness_AtomicResults_crammed : ∃ v, Lands crammed one r0 (atomAt crammed 3 (.atomAdd 0 3 0 0 4)) v (.hbm 0 0x20000) ∧ (v.group r0.1).spec = [] ∧
    dirCapacity ≤ v.dirUsed (homeDie 0x20000) := by
  refine ⟨(seen crammed one r0 (atomAt crammed 3 (.atomAdd 0 3 0 0 4))).1, lands_of (by rfl), by rfl, ?_⟩
  have h : ((seen crammed one r0 (atomAt crammed 3 (.atomAdd 0 3 0 0 4))).1.die (homeDie 0x20000)).dir = List.replicate 32768 ⟨0, 0, []⟩ := by rfl
  simp only [State.dirUsed, h, List.length_replicate, dirCapacity, Nat.add_assoc]
  exact Nat.le_add_right _ _

/-! ### Witnesses: channel fields, spilled return entries, and barriers that refuse -/

/-- Every row of arithmetic that writes, takes or shows an entry of channel 15 is in range. -/
theorem witness_ChannelMoves_rows : ((dRows ringed one r0 15 0 1 7).all fun e => rangeB ringed one e.flds) = true ∧
    ((aRows filled one r0 8 1 7 (.pop 15) {}).all fun e => rangeB filled one e.flds) = true ∧
    ((bRows filled one r0 8 1 (.peek 15) {}).all fun e => rangeB filled one e.flds) = true ∧ (filled.lane r0).heldB = none := by decide
/-- A load from HBM that pushes its word; a store to HBM of the entry that it takes, and one of the entry that it leaves. -/
def pushing (s : State) : MemRow := ⟨.ldw (.push 15) 3 1, [qfld 3], quadAcc s r0 3 (disp15 s one r0 1 * 4) 4 [0] .read⟩
def popping (s : State) (x : Src) : MemRow := ⟨.stw x 3 1, [qfld 3], quadAcc s r0 3 (disp15 s one r0 1 * 4) 4 [1] .write⟩
def taken (peek : Bool) : State :=
  let u := counted filled one [qfld 3]
  let u := acquired (some 1) r0 (if peek then u else putWord u 2 516 ⟨1, false⟩)
  u.modLane r0 fun x => { x with heldA := some ⟨5, false⟩ }
theorem witness_ChannelMoves_memory : (pushing ringed, false, none) ∈ pushLoads ringed r0 one 15 3 1 0 0 ∧ InRange ringed one (pushing ringed).flds ∧
    (∃ v, Lands ringed one r0 (pushing ringed) v (.hbm 0 0x20004) ∧ (sees v r0 (.hbm 0 0x20004) 4).isSome = true) ∧
    (popping filled (.pop 15), none) ∈ popStores filled r0 one (.pop 15) 3 1 0 0 ∧ filled.popWaiting 2 512 = false ∧
    ((filled.block 2).ringWord 512 1, (filled.block 2).scratch.word 8 528) = (⟨0, false⟩, ⟨5, false⟩) ∧
    (∃ v, ((taken false).work one).resolve r0 (popping filled (.pop 15)).acc = (v.work one, some (.hbm 0 0x20004)) ∧ Quiet v r0 (.hbm 0 0x20004)) ∧
    ∃ v, ((taken true).work one).resolve r0 (popping filled (.peek 15)).acc = (v.work one, some (.hbm 0 0x20004)) ∧ Quiet v r0 (.hbm 0 0x20004) :=
  ⟨.tail _ (.tail _ (.tail _ (.tail _ (.head _)))), range_of (by decide), ⟨(seen ringed one r0 (pushing ringed)).1, lands_of (by rfl), by rfl⟩,
   .tail _ (.tail _ (.head _)), by decide, by decide,
   ⟨(((taken false).work one).resolve r0 (popping filled (.pop 15)).acc).1.s, by rfl, by decide, by decide, by decide, by decide, by decide⟩,
   (((taken true).work one).resolve r0 (popping filled (.peek 15)).acc).1.s, by rfl, by decide, by decide, by decide, by decide, by decide⟩

/-- Lane 0 with `n` return entries, 8 of them in hardware; its return region lies at 0, where it is mapped, or at 2^40. -/
def spilled (n : Nat) (s : State) : State := s.modLane r0 fun x => { x with depth := n, stack := List.replicate 8 bootCap }
def unplaced (n : Nat) : State := spilled n (rich.modCtx 0 fun c => { c with hdr := { c.hdr with privbase := 0x10000000000 } })
def entryAt (s : State) (n : Nat) (kind : Kind) : Option (Nat × Nat) :=
  match (s.locate (some 0) 0 (s.ctx 0).hdr.asid n kind).2 with | .ok (.hbm key pa) => some (key, pa) | _ => none
/-- The least and the greatest depth of a call that spills, and the least of a ret that reads back, the entry there poisoned, or its
line installing; and each with a region that does not translate. -/
theorem witness_CallResults_spilled : (∀ n ∈ [8, 255], aloneB (spilled n rich) one r0 = true ∧ entryAt (spilled n rich) (16 * (n - 8)) .write = some (0, 16 * (n - 8)) ∧
      (rich.lineRec (16 * (n - 8))).isNone = true) ∧ (∀ r ∈ one.lanes, (rich.group r.1).taskKill = false) ∧
    rich.hbm.wf = true ∧ rich.isRetired 0 = false ∧ rich.isRetired (16 * 247) = false ∧ InRange rich one [rfld codeA 16 4] ∧
    errorOf ((unplaced 8).locate (some 0) 0 0 (2 ^ 40) .write).2 = some false ∧
    (aloneB (spilled 9 rich) one r0 = true ∧ entryAt (counted (spilled 9 rich) one []) 0 .read = some (0, 0) ∧ rich.stalled 0 = false ∧ rich.hbmPoison 0 16 = false) ∧
    (let s := spilled 9 { handled with hbm := handled.hbm.mark 32 0 16 }
     deliversB s one r0 0x0A = true ∧ s.hbmPoison 0 16 = true ∧ s.stalled 0 = false) ∧
    (let s := spilled 9 ({ rich with regions := [(0, { state := .committing })] }.modDie (homeDie 0) fun d => { d with dir := [⟨0, 0, []⟩] })
     s.stalled 0 = true) ∧
    errorOf ((counted (unplaced 9) one []).locate (some 0) 0 0 (2 ^ 40) .read).2 = some false := by
  refine ⟨by decide, by decide, by decide, by decide, by decide, range_of (by decide), by decide⟩

/-- The block's object at offset 0, armed for 5 threads: that one arrived, that one dropped, and one whose threads are none. -/
def rostered (e : Roster) : State := (armed.modBlock 2 fun b => { b with roster := [(0, e)] }).modLane r0 fun x => { x with tvec := 0x40 }
def refusedB (s : State) : Bool :=
  objB s one r0 24 0 && deliversB s one r0 0x0D && rangeB s one [rfld codeD 8, rfld codeA 24 4] && aloneB s one r0
theorem witness_BarrierResults_refused : (refusedB handled = true ∧ (handled.block 2).armed 0 = none) ∧
    (let s := rostered { off := 0, n := 0 }
     refusedB s = true ∧ ((s.block 2).armed 0).map (·.2.n) = some 0) ∧
    (let s := rostered { off := 0, n := 5, arrived := 1 }
     refusedB s = true ∧ ((s.block 2).armed 0).map (fun e => (e.2.n, mbit e.2.arrived 0)) = some (5, true)) ∧
    (let s := rostered { off := 0, n := 5, dropped := 1 }
     refusedB s = true ∧ ((s.block 2).armed 0).map (fun e => (e.2.n, mbit e.2.arrived 0, mbit e.2.dropped 0)) = some (5, false, true)) := by decide
/-- Four of five have arrived, so that a drop completes the phase. -/
theorem witness_BarrierResults_drop : (let s := armed.modBlock 2 fun b => { b with scratch := b.scratch.writeWord 8 0 ⟨armedWord 4 5, false⟩ }
    objB s one r0 24 0 = true ∧ (s.block 2).arrivedAt 0 = 4 ∧ (s.block 2).expectedAt 0 - 1 = 4) := by decide
/-- The placed grid is not cooperative, and lane 0 has a handler. -/
theorem witness_GridBarrierResults_plain : Alone handled one r0 ∧ (handled.grid (handled.group 3).grid).coop = false ∧ Delivers handled one r0 0x0D :=
  ⟨alone_of (by decide), by decide, delivers_of (by decide)⟩

/-! ### Witnesses: more launches, tasks, keys and resets -/

/-- A launch of the record `ws` by lane 0, which has a handler; what the load of the record leaves. -/
def launchOf (ws : List Word) : State :=
  let s := handled.modCtx 0 fun c => { c with hdr := { c.hdr with poolsize := 4 } }
  { s with hbm := ws.zipIdx.foldl (fun (m : Memory) (w : Word × Nat) => m.setBytes (0x20000 + 4 * w.2) (leBytes 4 w.1.toNat)) s.hbm }
def loadOf (s : State) : Work × Option LaunchRec :=
  ((counted s one (launchFlds [])).work one).loadRecord r0 (rdCap s one r0 codeA 12) (rdBad s one r0 codeA 12)
def loadB (s : State) (p : LaunchRec → Bool) : Bool :=
  aloneB s one r0 && rangeB s one (launchFlds []) && (loadOf s).1.live == one.lanes && (loadOf s).1.traps == [] && ((loadOf s).2.any p)
def cleanB (x : LaunchRec) : Bool := x.ws.all fun w => !w.poison
def reasonOf (ws : List Word) : Option Nat :=
  let s := launchOf ws
  if loadB s cleanB then ((loadOf s).2.map fun x => x.reason (s.grid 1) (s.lane r0)).join else none
/-- A record for each reason of Table 13.3 but the depth's, and the deepest parent; a poisoned one; requests above the pool and above
what is free of it; a cooperative one. -/
theorem witness_LaunchResults_refused :
    [[0, 0, 0x20000000, 0, 1, 0x00010001, 0x0001C008, 0x00010000], [0, 0, 0, 0, 0, 0x00010001, 0x0001C008, 0x00010000],
     [0, 0, 0, 0, 1, 0x00010001, 0x0001C000, 0x00010000], [0, 0, 0, 0, 1, 0x00010001, 0x0001C008, 0x0001FFFF],
     [0, 0, 0, 0, 1, 0x00010001, 0x0005C008, 0x00010000], [0, 0, 0, 0, 1, 0x00010001, 0x0001C008, 0x02580000]].map reasonOf =
      [some 1, some 2, some 3, some 4, some 5, some 7] ∧
    (let s := launchOf record
     let s := { s with grids := s.grids.map fun (g : Grid) => { g with depth := 64 } }
     (loadOf s).2.map (fun x => x.reason (s.grid 1) (s.lane r0)) = some (some 6)) ∧
    deliversB (launchOf record) one r0 0x14 = true ∧ deliversB (launchOf record) one r0 0x13 = true ∧ deliversB (launchOf record) one r0 0x0A = true ∧
    (let s := { launchOf record with hbm := (launchOf record).hbm.mark 32 0x20000 4 }
     loadB s (fun x => !cleanB x) = true) := by decide
theorem witness_LaunchResults_pool :
    (let s := launchOf [0, 0, 0, 0, 1, 0x00010001, 0x0001C008, 0x00050000]
     loadB s (fun x => cleanB x && x.reason (s.grid 1) (s.lane r0) == none && decide (4 < x.granules)) = true ∧ (s.ctx 0).hdr.poolsize = 4) ∧
    (let s := launchOf [0, 0, 0, 0, 1, 0x00010001, 0x0001C008, 0x00040000]
     loadB s (fun x => cleanB x && x.reason (s.grid 1) (s.lane r0) == none && x.granules == 4) = true ∧ (s.ctx 0).granQ = [] ∧ (s.ctx 0).findRun 4 = none) ∧
    (let s := launchOf [0, 0, 0, 0, 1, 0x00010001, 0x0011C008, 0x00010000]
     loadB s (fun x => cleanB x && x.reason (s.grid 1) (s.lane r0) == none && x.coop) = true ∧ (s.ctx 0).findRun 1 = some 1 ∧
     rangeB s one (launchFlds [rfld codeB 28 4]) = true ∧ handleB s one r0 codeB 28 = true ∧
     (match zeroGranules (some 0) 0 (s.ctx 0).hdr.asid 1 (loadOf s).1.s ((s.ctx 0).granuleAt 1) with | .ok _ => true | _ => false) = true) := by decide

/-- A handle that is poisoned, untagged, of another type, of another context; one whose frame is freed, its grid completed, or failed;
one whose grid failed and is held. -/
theorem witness_LaunchResults_handles :
    (let s := caps handled [(7, kids)]
     let b := fun (s : State) (c : Byte) => aloneB s one r0 && rangeB s one [rfld codeD 8, rfld codeA 28 4] && deliversB s one r0 c
     b (s.modLane r0 fun x => x.wr 28 ⟨0, true⟩) 0x0A = true ∧ rdBad (s.modLane r0 fun x => x.wr 28 ⟨0, true⟩) one r0 codeA 28 = true ∧
     b (caps s [(7, { kids with tag := false })]) 0x04 = true ∧ (rdCap (caps s [(7, { kids with tag := false })]) one r0 codeA 28).tag = false ∧
     b (caps s [(7, area)]) 0x07 = true ∧ (rdCap (caps s [(7, area)]) one r0 codeA 28).otype ≠ 2 ∧
     (rdCap (caps s [(7, mkHandle 0x1000000 0 2)]) one r0 codeA 28).cursor.toNat / 2 ^ 24 % 256 ≠ (s.ctx 0).hdr.key.toNat) ∧
    (let s := caps rich [(7, mkHandle 3 0 2)]
     handleB s one r0 codeA 28 = true ∧ (named s r0 (rdCap s one r0 codeA 28)).isNone = true ∧ (s.ctx 0).failures = [] ∧
     (let t := s.modCtx 0 fun c => { c with failures := [(9, 3, 0)] }
      (named t r0 (rdCap t one r0 codeA 28)).isNone = true ∧
      ((t.ctx 0).failures.any fun y => y.2.1 == (rdCap t one r0 codeA 28).cursor.toNat % 2 ^ 24 && y.2.2 == hi32 (rdCap t one r0 codeA 28).cursor) = true)) ∧
    (let s := rich.modCtx 0 fun c => { c with frames := c.frames.map fun f => { f with done := true, failed := true } }
     (named s r0 (rdCap s one r0 codeA 28)).map (fun y => (y.done, y.failed)) = some (true, true)) := by decide
/-- A lane parked in a join of a grid that has completed, and of one that failed and is gone. -/
theorem witness_LaunchResults_wake :
    (let s := { rich with grids := rich.grids.map fun (g : Grid) => { g with state := .completed } }.modLane r0 fun x => { x with status := .parked (.grid 1) 0x10000 }
     (s.lane r0).status = .parked (.grid 1) 0x10000 ∧ (s.lane r0).halted = false ∧ (s.lane r0).kill = false ∧
     (∀ x ∈ s.grids, x.uid = 1 → x.state = .completed ∨ x.state = .failed) ∧ (s.ctx 0).failures = []) ∧
    (let s := (rich.modCtx 0 fun c => { c with failures := [(9, 3, 0)] }).modLane r0 fun x => { x with status := .parked (.grid 9) 0x10000 }
     (∀ x ∈ s.grids, x.uid = 9 → x.state = .completed ∨ x.state = .failed) ∧ ((s.ctx 0).failures.any fun y => y.1 == 9) = true) := by decide
theorem test_join_failed : (let s := rich.modCtx 0 fun c => { c with frames := c.frames.map fun f => { f with done := true, failed := true } }
    left (.jpoll (.reg 8) 28) s 8 = some ⟨3, false⟩ ∧ ((after (.jpoll (.reg 8) 28) { s with l1 := spoiled.l1 }).l1 = spoiled.l1)) := by decide

/-- An earlier lane waits for the bin, in which places have come free. -/
theorem witness_TaskResults_awaited : (let s := tasking.modBin 0 0 5 fun b => { b with waiters := [(3, 1)] }
    aloneB s one r0 = true ∧ ((s.ctx 0).bin 0 5).waiters = [(3, 1)] ∧ (s.lane (3, 1)).halted = false ∧ (s.lane (3, 1)).kill = false ∧
    (s.group 3).evicted = false ∧ ((s.ctx 0).bin 0 5).records.length < 4 * node5.count) := by decide

/-- An event whose ticket went with an activation of its queue. -/
theorem witness_EventAndLockResults_void : (let s := (locking 0).modKcore 0 fun k => { k with event := k.event.map fun e => { e with void := true } }
    aloneB s (kone 0) kr = true ∧ rangeB s (kone 0) [rfld codeA 16] = true ∧ (s.kcore 0).event.map (fun e => (e.ofQueue, e.void, e.queue)) = some (true, true, 1023) ∧
    (rd s (kone 0) kr codeA 16).val = 1023) := by decide

/-- An access that a lane of a row being saved still has to take. -/
theorem witness_TranslationAndKeyResults_saved :
    (let s := ((kstate 0 []).modLane r0 fun x => { x with returned := [⟨farLoad, [0, 0, 0, 0], false, false, false⟩] }).modGroup 3 fun g => { g with evicted := true }
     ∃ g ∈ s.groups, g.freed = false ∧ ∃ x ∈ g.lanes, ∃ z ∈ x.returned, z.acc = farLoad) := by decide
/-- Key loads of slot 0, of a loaded slot, of an address whose 64 bytes pass the end of HBM, and without a lease key, the die's fault
queue having room or not; destruction of slot 0, with its key and without. -/
theorem witness_TranslationAndKeyResults_keys : privB .privKeyLoad [0, 0x20000, 0] = true ∧ privB .privKeyLoad [64, 0x20000, 0] = true ∧
    privB .privKeyLoad [1, 0xFFFFFFC1, 0x7F] = true ∧ 2 ^ 39 < 0x7FFFFFFFC1 + 64 ∧ tget 1 (kstate 0 []).keys = none ∧
    (freeIndex ((kstate 0 []).die (homeDie 0x20000)).faults).isSome = true ∧ (missing 0).joins 0 0x20000 .read true = false ∧
    ((kstate 0 []).lineRec 0x20000 = none ∧ (kstate 0 []).lineRec (0x20000 + 63) = none) ∧
    privB .privKeyDestroy [0, 0, 0, 1] = true ∧
    (let s := { kstate 0 [] with asids := [], aperSlot := 2 }
     (s.asids.any fun y => y.2.live && y.2.key == 0) = false ∧ s.aperSlot.toNat ≠ 0 ∧ s.keyOf 0 = some 0 ∧ 0 % 3 ≠ 2 ∧
     ({ s with leaseLost := true } : State).keyOf 0 = none) := by decide

/-- An operation of core 0 that runs, whose signer is lane 0, lane 1 waiting in mxwait on it and lane 2 for the baton; a queue with
an event to come; a fault that holds a save. -/
def resetting : State :=
  let s := (kstate (privAt .privEngineReset) [0]).modGroup 3 fun g =>
    { g with lanes := g.lanes.zipIdx.map fun x =>
        if x.2 = 1 then { x.1 with status := .parked (.op 50) 0x10000 } else if x.2 = 2 then { x.1 with status := .parked .baton 0x10000 } else x.1 }
  { s with ops := [{ matOp .queued with nums := [(3, 7)] }] }
theorem witness_PrivilegedOperationResults_engine : aloneB resetting (kone (privAt .privEngineReset)) kr = true ∧ (resetting.ops.map (·.id)).Nodup ∧
    (∀ g ∈ resetting.groups, g = resetting.group g.gid) ∧
    (∀ o ∈ resetting.ops, o.core = 0 ∧ o.phase ≠ .signing ∧ o.phase ≠ .baton ∧ o.signers.map signerLane = [r0] ∧
      o.nums.find? (fun w => w.1 == 3) = some (3, 7)) ∧ (resetting.lane r0).unexited = true ∧ hasB resetting (3, 1) = true ∧
    (resetting.lane (3, 1)).status = .parked (.op 50) 0x10000 ∧ (resetting.group 3).isK = false ∧ (resetting.group 3).block = 2 ∧
    (hasB resetting (3, 2) = true ∧ (resetting.block 2).rest = none ∧ (resetting.block 2).core0 = 0 ∧ (resetting.lane (3, 2)).status = .parked .baton 0x10000) ∧
    (∀ q ∈ [(3, 3), (3, 7)], (resetting.lane q).status = .ready) := by decide
theorem witness_PrivilegedOperationResults_saves : (let s := (faulted false).modDie 3 fun d =>
      { d with faults := d.faults.map fun y => (y.1, { y.2 with saves := [0, 1] }) }
    (tget 1023 (s.die 3).faults).map (fun f => (f.saves, f.lanes)) = some ([0, 1], [r0])) ∧
    (let s := { kstate 0 [] with eventQ := [{ kind := 1, queue := 1023, ofQueue := true }] }
     s.eventQ.map (fun e => (e.ofQueue, e.queue)) = [(true, 1023)]) := by decide

/-! ### Witnesses: deals and ends -/

/-- The same, with every core withheld. -/
def closed : State := { dealing with cores := (List.range 160).map fun k => (k, { withheld := true }) }
/-- The seat that the one group of the grid's next block takes. -/
def seat : Group := { gid := 3, agent := .core 0, ctx := 0, grid := 1, block := 2, width := 8, regs := 64, row := 0, slot := 0, gidx := 0, lanes := [] }

theorem withheld_at {s : State} (h : s.cores = (List.range 160).map fun k => (k, ({ withheld := k != 0 } : Core))) {c : Nat} (hc : c < 160) (h0 : c ≠ 0) :
    (s.core c).withheld = true := by
  have : ∀ k : Fin 160, k.1 ≠ 0 → ((tget k.1 ((List.range 160).map fun k => (k, ({ withheld := k != 0 } : Core)))).getD {}).withheld = true := by decide +kernel
  simpa [State.core, h] using this ⟨c, hc⟩ h0

theorem seated : SeatedOn dealing (dealing.grid 1) [0] [seat] := by
  have hr : rowsWith dealing (dealing.grid 1) 0 [] = [] := by decide +kernel
  refine ⟨by decide, by decide, fun i x hx => ?_⟩
  match i with
  | 0 =>
    obtain rfl : seat = x := by simpa using hx
    refine ⟨0, 0, rfl, rfl, .inr ⟨?_, ?_, rfl, ?_, ?_⟩, fun m d h => absurd h (by omega)⟩
    · rintro m j ⟨⟨y, hy, -⟩, -⟩
      simp [hr] at hy
    · simp only [List.take_zero, AdmitsRow, hr]
      decide
    · simp [hr]
    · exact fun m h => absurd h (by simp [seat])
  | i + 1 => simp at hx

/-- The block goes to core 0, the one core with room; and, with every core withheld, to none. -/
theorem witness_MachineEvents_deals : GoesTo dealing (dealing.grid 1) [0] ∧ (∃ y ∈ dealing.grids, y.uid = 1) ∧ 0 < (dealing.grid 1).width ∧
    (dealing.grid 1).pred = none ∧ (∀ cores, ¬ GoesTo closed (closed.grid 1) cores) := by
  refine ⟨.inl ⟨0, rfl, ⟨by decide, show (0 : Nat) < 160 by decide⟩, ⟨fun j c h => ?_, [seat], seated⟩, fun a ha _ => .inl ?_⟩, by decide, by decide, by decide, ?_⟩
  · match j with
    | 0 =>
      obtain rfl : 0 = c := by simpa using h
      unfold ChunksFor
      decide
    | j + 1 => simp at h
  · by_contra hn
    have h160 : a < 160 := ha.2
    simpa [ha.1] using withheld_at (s := dealing) rfl h160 hn
  · have none : ∀ a, ¬ Dealable closed (closed.grid 1) a := by
      rintro a ⟨h, h160⟩
      have h160 : a < 160 := h160
      have all : ∀ k : Fin 160, (closed.core k.1).withheld = true := by decide +kernel
      simpa [h] using all ⟨a, h160⟩
    rintro cores (⟨c, -, hc, -⟩ | ⟨-, d, ⟨-, h2, -, -, hc, -⟩, -⟩)
    · exact none c hc
    · match cores with
      | [] => simp at h2
      | c :: _ => exact none c (hc c (.head _)).1

/-- A kill that waits for a result; and a context whose regions are to be freed with it. -/
theorem witness_MachineEvents_kill : (let s := rich.modLane r0 fun x => { x with kill := true, status := .result 8 5 0 0x10004 }
     (s.lane r0).awaitsResult = true) ∧
    (let s := { rich with groups := [], blocks := [], grids := [], regions := [(0, { state := .committed, ctx := 0 })] }
     (s.ctx 0).ending = none ∧ s.finished 0 = true ∧ s.delayed = [] ∧ (s.regions.map fun y => y.2.ctx) = [0]) := by decide

/-! ### Witnesses: invariants -/

/-- Reset's memories have their canonical form, and a step leaves it. -/
theorem witness_StepsKeepMemories : State.reset.hbm.wf = true ∧ State.reset.queueMem.wf = true ∧ State.reset.blocks = [] ∧ State.reset.kcores = [] ∧
    ∃ t, step State.reset = .next t := ⟨by decide, by decide, by decide, by decide, _, rfl⟩

end Sys2Proof.Tests
end

section
/-!
PROOFS. The exchanges within a quad and the shuffles (R87, R89): what the two shared operations, `xchQuad` and `xchShfl`, give
every lane of a ready gather, and with it the results of the eight instructions.
-/

namespace Sys2Proof.Machine

open Sys2Proof Sys2Proof.Machine.Claims

/-! ### Operands of a gather in range -/

/-- An instruction whose D and A are registers takes nothing from a channel and begins with its perf counts alone. -/
theorem sources_regs {s : State} {l : Latch} {flds : List Fld} (h : InRange s l flds) (d a : Reg) :
    ∃ s0, Tallied s s0 ∧ (s.work l).sources flds (some (.reg d)) (some (.reg a)) none = s0.work l :=
  sources_inRange h none rfl

/-- Perf counts change no register that a field names. -/
theorem Tallied.regOf {s t : State} (h : Tallied s t) (l : Latch) (r : LRef) (code : Nat) (n : Reg) :
    (t.work l).regOf r code n = rd s l r code n := by
  show t.reg r ((t.work l).rnum r code n.toNat) = s.reg r ((s.work l).rnum r code n.toNat)
  rw [h.num, h.reg]

/-- What a lane receives from a source lane after the perf counts (R89). -/
theorem Tallied.from' {s t : State} (h : Tallied s t) (l : Latch) (a : Reg) (r : LRef) (k : Nat) :
    (t.work l).from' (.reg a) r k = recv s l a r k := by
  show (if (partners l r).contains k then (t.work l).regOf (r.1, k) codeA a else {}) = recv s l a r k
  rw [h.regOf, recv]

/-! ### The shared operations -/

/-- An instruction that comes, after its perf counts, to one word per lane gives every lane that word. -/
theorem gives_of_writeDst {i : Instr} {s s0 : State} {l : Latch} {d : Reg} {v : LRef → PWord} (hr : Ready s l)
    (h0 : Tallied s s0) (he : exec i s = ((s0.work l).writeDst (.reg d) fun _ => v).finish) : Gives i s l d v := by
  obtain ⟨t, ht, hother, hlane⟩ := writeDst_finish hr h0 d fun _ => v
  exact ⟨t, he.trans ht, hother, hlane⟩

/-- Every lane receives the A of the lane that the exchange picks for it, a choice that rests on the gather alone (R87, R89). -/
theorem gives_of_xchQuad {i : Instr} {s : State} {l : Latch} {d a : Reg} {pick : Work → LRef → Nat} {k : LRef → Nat}
    (hr : Ready s l) (hf : InRange s l (fDA d a)) (he : exec i s = xchQuad (.reg d) (.reg a) pick s)
    (hk : ∀ t r, pick (State.work t l) r = k r) : Gives i s l d fun r => recv s l a r (k r) := by
  obtain ⟨s0, h0, hb⟩ := sources_regs (flds := dstFlds (.reg d) ++ srcFlds (.reg a) codeA) hf d a
  refine gives_of_writeDst hr h0 (he.trans ?_)
  simp only [xchQuad, withGather_latched hr.latched, hb, hk, h0.from']

/-- Where no lane's index is poisoned, every lane receives the A of the lane that the shuffle picks for it, and keeps its own
A where none is in range (R89). -/
theorem gives_of_xchShfl {i : Instr} {s : State} {l : Latch} {d a b : Reg} {pick : Nat → Nat → Nat → Option Nat}
    {v : LRef → PWord} (hr : Ready s l) (hf : InRange s l (fDAB d a b))
    (hp : ∀ r ∈ l.lanes, (rd s l r codeB b).poison = false) (he : exec i s = xchShfl (.reg d) (.reg a) b pick s)
    (hv : ∀ r, v r = (pick (s.group r.1).width r.2 (rd s l r codeB b).val.toNat).elim (rd s l r codeA a) (recv s l a r)) :
    Gives i s l d v := by
  obtain ⟨s0, h0, hb⟩ :=
    sources_regs (flds := dstFlds (.reg d) ++ srcFlds (.reg a) codeA ++ [rfld codeB b]) hf d a
  have hkeep : (s0.work l).live.foldl
      (fun v r => if ((s0.work l).regOf r codeB b).poison then v.strike r 0x0A 0 else v) (s0.work l) = s0.work l :=
    foldl_keep _ _ _ fun r h => by rw [h0.regOf, hp r h]; rfl
  have hgroup : ∀ x, (s0.work l).s.group x = s.group x := h0.group
  have hsrc : ∀ r, (s0.work l).src r codeA (.reg a) = rd s l r codeA a := fun r => h0.regOf l r codeA a
  refine gives_of_writeDst hr h0 (he.trans ?_)
  simp only [xchShfl, withGather_latched hr.latched, hb, hkeep]
  refine congrArg (fun f => ((s0.work l).writeDst (.reg d) f).finish) (funext fun _ => funext fun r => ?_)
  rw [hv r, hgroup, h0.regOf]
  cases pick (s.group r.1).width r.2 (rd s l r codeB b).val.toNat with
  | some k => exact h0.from' l a r k
  | none => exact hsrc r

/-! ### The instructions -/

theorem exec_qswpH (d : Dst) (a : Src) (s : State) : exec (.qswpH d a) s = xchQuad d a (fun _ r => r.2 ^^^ 1) s := rfl

theorem exec_qswpV (d : Dst) (a : Src) (s : State) : exec (.qswpV d a) s = xchQuad d a (fun _ r => r.2 ^^^ 2) s := rfl

theorem exec_qswpD (d : Dst) (a : Src) (s : State) : exec (.qswpD d a) s = xchQuad d a (fun _ r => r.2 ^^^ 3) s := rfl

theorem exec_qbc (d : Dst) (a : Src) (s : State) :
    exec (.qbc d a) s = xchQuad d a (fun w r => ((w.peers r).find? fun k => k / 4 == r.2 / 4).getD r.2) s := rfl

theorem exec_shflIdx (d : Dst) (a : Src) (b : Reg) (s : State) :
    exec (.shflIdx d a b) s = xchShfl d a b (fun w _ n => some (n % w)) s := rfl

theorem exec_shflUp (d : Dst) (a : Src) (b : Reg) (s : State) :
    exec (.shflUp d a b) s = xchShfl d a b (fun _ k n => if k + 1 ≤ n then none else some (k - n)) s := rfl

theorem exec_shflDn (d : Dst) (a : Src) (b : Reg) (s : State) :
    exec (.shflDn d a b) s = xchShfl d a b (fun w k n => if w ≤ k + n then none else some (k + n)) s := rfl

theorem exec_shflXor (d : Dst) (a : Src) (b : Reg) (s : State) :
    exec (.shflXor d a b) s = xchShfl d a b (fun w k n => some (k ^^^ (n % w))) s := rfl

/-- Settles O24: each of the eight instructions is one of the two shared operations, with the source lane of Table 5.4; that
the lane is in range is the other side of the model's test that it is not. -/
theorem laneExchangeResults : Obligations.LaneExchangeResults := by
  refine ⟨fun d a s l hr hf => ⟨?qswpH, ?qswpV, ?qswpD, ?qbc⟩,
    fun d a b s l hr hf hp => ⟨?shflIdx, ?shflUp, ?shflDn, ?shflXor⟩⟩
  case qswpH => exact gives_of_xchQuad hr hf (exec_qswpH ..) fun _ _ => rfl
  case qswpV => exact gives_of_xchQuad hr hf (exec_qswpV ..) fun _ _ => rfl
  case qswpD => exact gives_of_xchQuad hr hf (exec_qswpD ..) fun _ _ => rfl
  case qbc => exact gives_of_xchQuad hr hf (exec_qbc ..) fun _ _ => rfl
  case shflIdx => exact gives_of_xchShfl hr hf hp (exec_shflIdx ..) fun _ => rfl
  case shflUp =>
    refine gives_of_xchShfl hr hf hp (exec_shflUp ..) fun r => ?_
    by_cases h : (rd s l r codeB b).val.toNat ≤ r.2
    · rw [if_pos h, if_neg (by omega), Option.elim_some]
    · rw [if_neg h, if_pos (by omega), Option.elim_none]
  case shflDn =>
    refine gives_of_xchShfl hr hf hp (exec_shflDn ..) fun r => ?_
    by_cases h : r.2 + (rd s l r codeB b).val.toNat < (s.group r.1).width
    · rw [if_pos h, if_neg (by omega), Option.elim_some]
    · rw [if_neg h, if_pos (by omega), Option.elim_none]
  case shflXor => exact gives_of_xchShfl hr hf hp (exec_shflXor ..) fun _ => rfl

end Sys2Proof.Machine
end

section
/-!
PROOFS. The shifts, the bit fields and sel, and the comparisons (R97 to R99, R101): the words that the model computes, written
as the tables of the claims have them, and with them what each instruction gives every lane of a ready gather.
-/

namespace Sys2Proof.Machine

open Sys2Proof Sys2Proof.Machine.Claims

/-! ### Results of two and of three registers -/

/-- An instruction that is one operation over two sources gives every lane the operation's result. -/
theorem gives_of_alu2 {i : Instr} {s : State} {l : Latch} {d a b : Reg} {f : PWord → PWord → PWord} (hr : Ready s l)
    (hf : InRange s l (fDAB d a b)) (he : exec i s = alu2 (.reg d) (.reg a) (.reg b) f s) :
    Gives i s l d fun r => f (rd s l r codeA a) (rd s l r codeB b) := by
  obtain ⟨t, ht, hother, hlane⟩ := alu2_regs hr d a b hf f
  exact ⟨t, he.trans ht, hother, hlane⟩

/-- An instruction that is one operation over A, B and D gives every lane the operation's result. -/
theorem gives_of_alu3 {i : Instr} {s : State} {l : Latch} {d a b : Reg} {f : PWord → PWord → PWord → PWord} (hr : Ready s l)
    (hf : InRange s l (fDAB d a b)) (he : exec i s = alu3 d (.reg a) (.reg b) f s) :
    Gives i s l d fun r => f (rd s l r codeA a) (rd s l r codeB b) (rd s l r codeD d) := by
  obtain ⟨t, ht, hother, hlane⟩ := alu3_regs hr d a b hf f
  exact ⟨t, he.trans ht, hother, hlane⟩

/-- The model's operations and the claims' handle the poison of two operands alike, so only the words are to be compared. -/
theorem alu2_pure2 {f g : Word → Word → Word} (h : ∀ x y, f x y = g x y) (d : Dst) (a b : Src) (s : State) :
    alu2 d a b (pure2 f) s = alu2 d a b (op2 g) s := by
  obtain rfl : f = g := funext₂ h
  rfl

/-! ### Shifts -/

theorem shiftLeft_eq_ofNat (x : Word) (n : Nat) : x <<< n = BitVec.ofNat 32 (x.toNat * 2 ^ n) :=
  BitVec.eq_of_toNat_eq (by rw [BitVec.toNat_shiftLeft, BitVec.toNat_ofNat, Nat.shiftLeft_eq])

theorem ushiftRight_eq_ofNat (x : Word) (n : Nat) : x >>> n = BitVec.ofNat 32 (x.toNat / 2 ^ n) := by
  have hlt : x.toNat / 2 ^ n < 2 ^ 32 := (Nat.div_le_self ..).trans_lt x.isLt
  exact BitVec.eq_of_toNat_eq
    (by rw [BitVec.toNat_ushiftRight, BitVec.toNat_ofNat, Nat.shiftRight_eq_div_pow, Nat.mod_eq_of_lt hlt])

theorem sshiftRight_eq_ofInt (x : Word) (n : Nat) : x.sshiftRight n = BitVec.ofInt 32 (x.toInt / 2 ^ n) := by
  rw [BitVec.sshiftRight_eq, Int.shiftRight_eq_div_pow]
  norm_cast

/-- A rotation is the sum of what stays in the word and what comes in at its other end: they share no bit. -/
theorem rotateLeft_eq_ofNat (x : Word) {k : Nat} (hk : k < 32) :
    x.rotateLeft k = BitVec.ofNat 32 (x.toNat * 2 ^ k + x.toNat / 2 ^ (32 - k)) := by
  have hsplit : 2 ^ 32 = 2 ^ (32 - k) * 2 ^ k := by rw [← pow_add]; congr 1; omega
  have hlow : x.toNat / 2 ^ (32 - k) < 2 ^ k := Nat.div_lt_of_lt_mul (hsplit ▸ x.isLt)
  have hhigh : x.toNat * 2 ^ k % 2 ^ 32 = 2 ^ k * (x.toNat % 2 ^ (32 - k)) := by
    rw [hsplit, Nat.mul_mod_mul_right, Nat.mul_comm]
  have hsum : x.toNat * 2 ^ k % 2 ^ 32 + x.toNat / 2 ^ (32 - k) < 2 ^ 32 := by
    calc x.toNat * 2 ^ k % 2 ^ 32 + x.toNat / 2 ^ (32 - k)
      _ < 2 ^ k * (x.toNat % 2 ^ (32 - k) + 1) := by rw [hhigh, Nat.mul_succ]; omega
      _ ≤ 2 ^ k * 2 ^ (32 - k) := Nat.mul_le_mul_left _ (Nat.mod_lt _ (Nat.two_pow_pos _))
      _ = 2 ^ 32 := by rw [hsplit, Nat.mul_comm]
  refine BitVec.eq_of_toNat_eq ?_
  calc (x.rotateLeft k).toNat
    _ = x.toNat * 2 ^ k % 2 ^ 32 ||| x.toNat / 2 ^ (32 - k) := by
      rw [BitVec.toNat_rotateLeft, Nat.mod_eq_of_lt hk, Nat.shiftLeft_eq, Nat.shiftRight_eq_div_pow]
    _ = x.toNat * 2 ^ k % 2 ^ 32 + x.toNat / 2 ^ (32 - k) := by rw [hhigh, Nat.two_pow_add_eq_or_of_lt hlow]
    _ = (x.toNat * 2 ^ k + x.toNat / 2 ^ (32 - k)) % 2 ^ 32 := by rw [← Nat.mod_add_mod, Nat.mod_eq_of_lt hsum]
    _ = (BitVec.ofNat 32 (x.toNat * 2 ^ k + x.toNat / 2 ^ (32 - k))).toNat := (BitVec.toNat_ofNat ..).symm

theorem shlWord_eq (x y : Word) : shlWord x y = if y.toNat < 32 then BitVec.ofNat 32 (x.toNat * 2 ^ y.toNat) else 0 := by
  rw [shlWord, shiftLeft_eq_ofNat]

theorem shrWord_eq (x y : Word) : shrWord x y = if y.toNat < 32 then BitVec.ofNat 32 (x.toNat / 2 ^ y.toNat) else 0 := by
  rw [shrWord, ushiftRight_eq_ofNat]

theorem sarWord_eq (x y : Word) : sarWord x y =
    if y.toNat < 32 then BitVec.ofInt 32 (x.toInt / 2 ^ y.toNat) else if x.toInt < 0 then 0xFFFFFFFF else 0 := by
  simp only [sarWord, sshiftRight_eq_ofInt, BitVec.msb_eq_toInt, decide_eq_true_eq]

theorem rotlWord_eq (x y : Word) :
    rotlWord x y = BitVec.ofNat 32 (x.toNat * 2 ^ (y.toNat % 32) + x.toNat / 2 ^ (32 - y.toNat % 32)) :=
  rotateLeft_eq_ofNat x (Nat.mod_lt _ (by decide))

/-- Every shift is one operation over A and its count, with any operands (R98). -/
theorem exec_shiftOps : ∀ e ∈ shiftOps, ∀ (d : Dst) (a : Src) (b : Reg) (s : State),
    exec (e.1 d a b) s = alu2 d a (.reg b) (op2 e.2) s := by
  simp only [shiftOps, List.forall_mem_cons]
  refine ⟨?shl, ?shr, ?sar, ?rotl, List.forall_mem_nil _⟩
  case shl => exact fun d a b => alu2_pure2 shlWord_eq d a (.reg b)
  case shr => exact fun d a b => alu2_pure2 shrWord_eq d a (.reg b)
  case sar => exact fun d a b => alu2_pure2 sarWord_eq d a (.reg b)
  case rotl => exact fun d a b => alu2_pure2 rotlWord_eq d a (.reg b)

/-- Settles O16: each shift is one operation over A and B, whose word the arithmetic of R98 gives. -/
theorem shiftResults : Obligations.ShiftResults :=
  fun e he _ _ _ _ _ hr hf => gives_of_alu2 hr hf (exec_shiftOps e he ..)

/-! ### Bit fields and sel -/

/-- The field that bfe extracts is below `2 ^ descLen`, and R99's sign extension takes that off where its top bit is set. -/
theorem bfeWord_eq (x y : Word) : bfeWord x y =
    if descLen y = 0 then 0
    else if y.getLsbD 16 ∧ 2 ^ (descLen y - 1) ≤ descField x y then BitVec.ofInt 32 ((descField x y : Int) - 2 ^ descLen y)
    else BitVec.ofNat 32 (descField x y) := by
  have hlen : fieldLen y = descLen y := rfl
  have hfield : x.toNat / 2 ^ fieldPos y % 2 ^ descLen y = descField x y := rfl
  have hcast : (2 ^ (descLen y - 1) : Int) ≤ descField x y ↔ 2 ^ (descLen y - 1) ≤ descField x y := by norm_cast
  simp only [bfeWord, hlen, hfield, hcast, wrap32, apply_ite (BitVec.ofInt 32), BitVec.ofInt_natCast]

theorem bfiWord_eq (x y z : Word) : bfiWord x y z =
    let mask : Word := BitVec.ofNat 32 ((2 ^ descLen y - 1) * 2 ^ descPos y)
    (z &&& ~~~mask) ||| (BitVec.ofNat 32 (x.toNat * 2 ^ descPos y) &&& mask) := by
  rw [← shiftLeft_eq_ofNat]
  rfl

theorem exec_bfe (d : Dst) (a : Src) (b : Reg) (s : State) : exec (.bfe d a b) s = alu2 d a (.reg b) (pure2 bfeWord) s := rfl

theorem exec_bfi (d : Reg) (a : Src) (b : Reg) (s : State) : exec (.bfi d a b) s = alu3 d a (.reg b) (pure3 bfiWord) s := rfl

theorem exec_sel (d : Reg) (a b : Src) (s : State) : exec (.sel d a b) s = execSel d a b s := rfl

theorem condTrue_iff (w : Word) : condTrue w = true ↔ w ≠ 0 := by simp [condTrue]

/-- Where no lane's condition is poisoned, no lane traps, and each receives the word that its condition selects. -/
theorem gives_sel {s : State} {l : Latch} {d a b : Reg} (hr : Ready s l) (hf : InRange s l (fDAB d a b))
    (hp : ∀ r ∈ l.lanes, (rd s l r codeD d).poison = false) :
    Gives (.sel d (.reg a) (.reg b)) s l d fun r =>
      if (rd s l r codeD d).val ≠ 0 then rd s l r codeA a else rd s l r codeB b := by
  obtain ⟨s0, h0, hb⟩ := begin_inRange hf
  have hsources : (s.work l).sources (rfld codeD d :: (srcFlds (.reg a) codeA ++ srcFlds (.reg b) codeB)) none
      (some (.reg a)) (some (.reg b)) = s0.work l := hb
  have hkeep : (s0.work l).live.foldl
      (fun v r => if ((s0.work l).regOf r codeD d).poison then v.strike r 0x0A 0 else v) (s0.work l) = s0.work l :=
    foldl_keep _ _ _ fun r h => by rw [h0.regOf, hp r h]; rfl
  have hsrc : ∀ r code (n : Reg), (s0.work l).src r code (.reg n) = rd s l r code n := fun r code n => h0.regOf l r code n
  refine gives_of_writeDst hr h0 ((exec_sel ..).trans ?_)
  rw [execSel, withGather_latched hr.latched]
  simp only [hsources, hkeep]
  simp only [h0.regOf, hsrc, condTrue_iff]

/-- Settles O17: the three instructions are one operation each, whose field arithmetic is R99's. -/
theorem fieldAndSelectResults : Obligations.FieldAndSelectResults := by
  refine ⟨fun d a b s l hr hf => ⟨?bfe, ?bfi⟩, fun d a b s l hr hf hp => gives_sel hr hf hp⟩
  case bfe => exact gives_of_alu2 hr hf ((exec_bfe ..).trans (alu2_pure2 bfeWord_eq ..))
  case bfi =>
    have hword := funext fun x => funext₂ (bfiWord_eq x)
    exact gives_of_alu3 hr hf ((exec_bfi ..).trans (congrArg (fun f => alu3 d (.reg a) (.reg b) (op3 f) s) hword))

/-! ### Comparisons -/

theorem icmpS_eq (x y : Word) : icmpS .eq x y = boolWord (decide (x = y)) :=
  congrArg boolWord (decide_eq_decide.2 BitVec.toInt_inj)

theorem icmpS_ne (x y : Word) : icmpS .ne x y = boolWord (decide (x ≠ y)) :=
  congrArg boolWord (decide_eq_decide.2 (not_congr BitVec.toInt_inj))

theorem icmpN_lt (x y : Word) : icmpN .lt x y = boolWord (decide (x.toNat < y.toNat)) :=
  congrArg boolWord (decide_eq_decide.2 Int.ofNat_lt)

theorem icmpN_le (x y : Word) : icmpN .le x y = boolWord (decide (x.toNat ≤ y.toNat)) :=
  congrArg boolWord (decide_eq_decide.2 Int.ofNat_le)

/-- Every integer comparison is one operation over A and B, with any operands (R101). -/
theorem exec_icmpOps : ∀ e ∈ icmpOps, ∀ (d : Dst) (a b : Src) (s : State),
    exec (e.1 d a b) s = alu2 d a b (op2 fun x y => if e.2 x y then 1 else 0) s := by
  simp only [icmpOps, List.forall_mem_cons]
  refine ⟨?eq, ?ne, ?lt, ?le, ?gt, ?ge, ?ltn, ?len, ?gtn, ?gen, List.forall_mem_nil _⟩
  case eq => exact alu2_pure2 icmpS_eq
  case ne => exact alu2_pure2 icmpS_ne
  case lt => exact alu2_pure2 (f := icmpS .lt) fun _ _ => rfl
  case le => exact alu2_pure2 (f := icmpS .le) fun _ _ => rfl
  case gt => exact alu2_pure2 (f := icmpS .gt) fun _ _ => rfl
  case ge => exact alu2_pure2 (f := icmpS .ge) fun _ _ => rfl
  case ltn => exact alu2_pure2 icmpN_lt
  case len => exact alu2_pure2 icmpN_le
  case gtn => exact alu2_pure2 (f := icmpN .gt) fun x y => icmpN_lt y x
  case gen => exact alu2_pure2 (f := icmpN .ge) fun x y => icmpN_le y x

/-- The truth of a relation on an order, which is none beside a NaN (R101). -/
def Rel.onOrder : Rel → Option Ordering → Bool
  | .eq, o => o == some .eq
  | .ne, o => o != some .eq
  | .lt, o => o == some .lt
  | .le, o => o == some .lt || o == some .eq
  | .gt, o => o == some .gt
  | .ge, o => o == some .gt || o == some .eq

theorem fcmp_eq_onOrder (r : Rel) (x y : Word) : fcmp r x y = boolWord (r.onOrder (fOrder x y)) := by
  have hcmp : (fval x).cmp (fval y) = fOrder x y := rfl
  unfold fcmp
  rw [hcmp]
  match fOrder x y with
  | none => cases r <;> rfl
  | some .lt => cases r <;> rfl
  | some .eq => cases r <;> rfl
  | some .gt => cases r <;> rfl

/-- Values are unordered exactly where one of them is NaN. -/
theorem FVal.cmp_eq_none_iff (x y : FVal) : x.cmp y = none ↔ x = .nan ∨ y = .nan := by
  cases x <;> cases y <;> simp [FVal.cmp]

theorem fcmpUn_eq (x y : Word) : fcmpUn x y = boolWord (fOrder x y == none) := by
  refine congrArg boolWord (Bool.eq_iff_iff.2 ?_)
  have hcmp : fOrder x y = none ↔ fval x = .nan ∨ fval y = .nan := FVal.cmp_eq_none_iff ..
  simp only [isNaN, Bool.or_eq_true, beq_iff_eq, hcmp]

/-- Every floating-point comparison is one operation over A and B, with any operands (R101). -/
theorem exec_fcmpOps : ∀ e ∈ fcmpOps, ∀ (d : Dst) (a b : Src) (s : State),
    exec (e.1 d a b) s = alu2 d a b (op2 fun x y => if e.2 (fOrder x y) then 1 else 0) s := by
  simp only [fcmpOps, List.forall_mem_cons]
  refine ⟨?eq, ?ne, ?lt, ?le, ?gt, ?ge, ?un, List.forall_mem_nil _⟩
  case eq => exact alu2_pure2 (fcmp_eq_onOrder .eq)
  case ne => exact alu2_pure2 (fcmp_eq_onOrder .ne)
  case lt => exact alu2_pure2 (fcmp_eq_onOrder .lt)
  case le => exact alu2_pure2 (fcmp_eq_onOrder .le)
  case gt => exact alu2_pure2 (fcmp_eq_onOrder .gt)
  case ge => exact alu2_pure2 (fcmp_eq_onOrder .ge)
  case un => exact alu2_pure2 fcmpUn_eq

/-- Settles O19: each comparison is one operation over A and B, whose word is 1 or 0 as its relation holds; a NaN leaves the
operands without an order, which only ne and un accept. -/
theorem comparisonResults : Obligations.ComparisonResults :=
  ⟨fun e he _ _ _ _ _ hr hf => gives_of_alu2 hr hf (exec_icmpOps e he ..),
   fun e he _ _ _ _ _ hr hf => gives_of_alu2 hr hf (exec_fcmpOps e he ..)⟩

end Sys2Proof.Machine
end

section
/-!
PROOFS. The encoding (R22, R30 to R39, R44, R45): the round trip of a word, that no bit of a word is ignored, the words of priv,
and the words and runs that are no instructions.
-/

namespace Sys2Proof.Laws

open Sys2Proof

/-! ### Decoding what was encoded -/

/-- Every instruction that has a word is read back from it: its own law of the encoding, by the instruction. -/
theorem RoundTrip.statement : ∀ i : Instr, RoundTrip.Statement i
  | .iadd .. => RoundTrip.iadd _ _ _
  | .isub .. => RoundTrip.isub _ _ _
  | .imul .. => RoundTrip.imul _ _ _
  | .imulh .. => RoundTrip.imulh _ _ _
  | .nmulh .. => RoundTrip.nmulh _ _ _
  | .imad .. => RoundTrip.imad _ _ _
  | .imin .. => RoundTrip.imin _ _ _
  | .imax .. => RoundTrip.imax _ _ _
  | .nmin .. => RoundTrip.nmin _ _ _
  | .nmax .. => RoundTrip.nmax _ _ _
  | .iabs .. => RoundTrip.iabs _ _
  | .ineg .. => RoundTrip.ineg _ _
  | .and .. => RoundTrip.and _ _ _
  | .or .. => RoundTrip.or _ _ _
  | .xor .. => RoundTrip.xor _ _ _
  | .andn .. => RoundTrip.andn _ _ _
  | .not .. => RoundTrip.not _ _
  | .shl .. => RoundTrip.shl _ _ _
  | .shr .. => RoundTrip.shr _ _ _
  | .sar .. => RoundTrip.sar _ _ _
  | .rotl .. => RoundTrip.rotl _ _ _
  | .popc .. => RoundTrip.popc _ _
  | .clz .. => RoundTrip.clz _ _
  | .brev .. => RoundTrip.brev _ _
  | .sel .. => RoundTrip.sel _ _ _
  | .bfe .. => RoundTrip.bfe _ _ _
  | .bfi .. => RoundTrip.bfi _ _ _
  | .iadds .. => RoundTrip.iadds _ _ _
  | .isubs .. => RoundTrip.isubs _ _ _
  | .mov .. => RoundTrip.mov _ _
  | .icmpEq .. => RoundTrip.icmpEq _ _ _
  | .icmpNe .. => RoundTrip.icmpNe _ _ _
  | .icmpLt .. => RoundTrip.icmpLt _ _ _
  | .icmpLe .. => RoundTrip.icmpLe _ _ _
  | .icmpGt .. => RoundTrip.icmpGt _ _ _
  | .icmpGe .. => RoundTrip.icmpGe _ _ _
  | .icmpLtn .. => RoundTrip.icmpLtn _ _ _
  | .icmpLen .. => RoundTrip.icmpLen _ _ _
  | .icmpGtn .. => RoundTrip.icmpGtn _ _ _
  | .icmpGen .. => RoundTrip.icmpGen _ _ _
  | .fcmpEq .. => RoundTrip.fcmpEq _ _ _
  | .fcmpNe .. => RoundTrip.fcmpNe _ _ _
  | .fcmpLt .. => RoundTrip.fcmpLt _ _ _
  | .fcmpLe .. => RoundTrip.fcmpLe _ _ _
  | .fcmpGt .. => RoundTrip.fcmpGt _ _ _
  | .fcmpGe .. => RoundTrip.fcmpGe _ _ _
  | .fcmpUn .. => RoundTrip.fcmpUn _ _ _
  | .fadd .. => RoundTrip.fadd _ _ _
  | .fsub .. => RoundTrip.fsub _ _ _
  | .fmul .. => RoundTrip.fmul _ _ _
  | .ffma .. => RoundTrip.ffma _ _ _
  | .fmin .. => RoundTrip.fmin _ _ _
  | .fmax .. => RoundTrip.fmax _ _ _
  | .fabs .. => RoundTrip.fabs _ _
  | .fneg .. => RoundTrip.fneg _ _
  | .fsgn .. => RoundTrip.fsgn _ _ _
  | .frcp .. => RoundTrip.frcp _ _
  | .frsq .. => RoundTrip.frsq _ _
  | .fsqrt .. => RoundTrip.fsqrt _ _
  | .fexp2 .. => RoundTrip.fexp2 _ _
  | .flog2 .. => RoundTrip.flog2 _ _
  | .fsin .. => RoundTrip.fsin _ _
  | .fcos .. => RoundTrip.fcos _ _
  | .ftanh .. => RoundTrip.ftanh _ _
  | .ffloor .. => RoundTrip.ffloor _ _
  | .fceil .. => RoundTrip.fceil _ _
  | .ftrunc .. => RoundTrip.ftrunc _ _
  | .frint .. => RoundTrip.frint _ _
  | .fclass .. => RoundTrip.fclass _ _
  | .fscale .. => RoundTrip.fscale _ _ _
  | .ffms .. => RoundTrip.ffms _ _ _
  | .cvtF32I32 .. => RoundTrip.cvtF32I32 _ _
  | .cvtF32N32 .. => RoundTrip.cvtF32N32 _ _
  | .cvtI32F32 .. => RoundTrip.cvtI32F32 _ _
  | .cvtN32F32 .. => RoundTrip.cvtN32F32 _ _
  | .cvtI32F32Rn .. => RoundTrip.cvtI32F32Rn _ _
  | .cvtF16F32 .. => RoundTrip.cvtF16F32 _ _
  | .cvtF32F16 .. => RoundTrip.cvtF32F16 _ _
  | .cvtE8m7F32 .. => RoundTrip.cvtE8m7F32 _ _
  | .cvtF32E8m7 .. => RoundTrip.cvtF32E8m7 _ _
  | .packF16 .. => RoundTrip.packF16 _ _ _
  | .packE8m7 .. => RoundTrip.packE8m7 _ _ _
  | .sext8 .. => RoundTrip.sext8 _ _
  | .sext16 .. => RoundTrip.sext16 _ _
  | .zext8 .. => RoundTrip.zext8 _ _
  | .zext16 .. => RoundTrip.zext16 _ _
  | .haddF16 .. => RoundTrip.haddF16 _ _ _
  | .hmulF16 .. => RoundTrip.hmulF16 _ _ _
  | .hfmaF16 .. => RoundTrip.hfmaF16 _ _ _
  | .hminF16 .. => RoundTrip.hminF16 _ _ _
  | .hmaxF16 .. => RoundTrip.hmaxF16 _ _ _
  | .hdotF16 .. => RoundTrip.hdotF16 _ _ _
  | .haddE8m7 .. => RoundTrip.haddE8m7 _ _ _
  | .hmulE8m7 .. => RoundTrip.hmulE8m7 _ _ _
  | .hfmaE8m7 .. => RoundTrip.hfmaE8m7 _ _ _
  | .hminE8m7 .. => RoundTrip.hminE8m7 _ _ _
  | .hmaxE8m7 .. => RoundTrip.hmaxE8m7 _ _ _
  | .hdotE8m7 .. => RoundTrip.hdotE8m7 _ _ _
  | .qswpH .. => RoundTrip.qswpH _ _
  | .qswpV .. => RoundTrip.qswpV _ _
  | .qswpD .. => RoundTrip.qswpD _ _
  | .qbc .. => RoundTrip.qbc _ _
  | .shflIdx .. => RoundTrip.shflIdx _ _ _
  | .shflUp .. => RoundTrip.shflUp _ _ _
  | .shflDn .. => RoundTrip.shflDn _ _ _
  | .shflXor .. => RoundTrip.shflXor _ _ _
  | .voteAny .. => RoundTrip.voteAny _ _
  | .voteAll .. => RoundTrip.voteAll _ _
  | .voteMask .. => RoundTrip.voteMask _ _
  | .voteEq .. => RoundTrip.voteEq _ _
  | .redIadd .. => RoundTrip.redIadd _ _
  | .redImin .. => RoundTrip.redImin _ _
  | .redImax .. => RoundTrip.redImax _ _
  | .redFadd .. => RoundTrip.redFadd _ _
  | .redFmin .. => RoundTrip.redFmin _ _
  | .redFmax .. => RoundTrip.redFmax _ _
  | .matchLane .. => RoundTrip.matchLane _ _
  | .iaddi .. => RoundTrip.iaddi _ _ _
  | .andi .. => RoundTrip.andi _ _ _
  | .ori .. => RoundTrip.ori _ _ _
  | .xori .. => RoundTrip.xori _ _ _
  | .shli .. => RoundTrip.shli _ _ _
  | .shri .. => RoundTrip.shri _ _ _
  | .sari .. => RoundTrip.sari _ _ _
  | .movi .. => RoundTrip.movi _ _
  | .imuli .. => RoundTrip.imuli _ _ _
  | .ldb .. => RoundTrip.ldb _ _ _
  | .ldbn .. => RoundTrip.ldbn _ _ _
  | .ldh .. => RoundTrip.ldh _ _ _
  | .ldhn .. => RoundTrip.ldhn _ _ _
  | .ldw .. => RoundTrip.ldw _ _ _
  | .ldd .. => RoundTrip.ldd _ _ _
  | .ldq .. => RoundTrip.ldq _ _ _
  | .ldc .. => RoundTrip.ldc _ _ _
  | .stb .. => RoundTrip.stb _ _ _
  | .sth .. => RoundTrip.sth _ _ _
  | .stw .. => RoundTrip.stw _ _ _
  | .std .. => RoundTrip.std _ _ _
  | .stq .. => RoundTrip.stq _ _ _
  | .stc .. => RoundTrip.stc _ _ _
  | .fld .. => RoundTrip.fld _ _ _ _
  | .fst .. => RoundTrip.fst _ _ _ _
  | .atomAdd .. => RoundTrip.atomAdd _ _ _ _ _
  | .atomAnd .. => RoundTrip.atomAnd _ _ _ _ _
  | .atomOr .. => RoundTrip.atomOr _ _ _ _ _
  | .atomXor .. => RoundTrip.atomXor _ _ _ _ _
  | .atomMin .. => RoundTrip.atomMin _ _ _ _ _
  | .atomMax .. => RoundTrip.atomMax _ _ _ _ _
  | .atomNmin .. => RoundTrip.atomNmin _ _ _ _ _
  | .atomNmax .. => RoundTrip.atomNmax _ _ _ _ _
  | .atomSwap .. => RoundTrip.atomSwap _ _ _ _ _
  | .atomCas .. => RoundTrip.atomCas _ _ _ _ _
  | .atomFadd .. => RoundTrip.atomFadd _ _ _ _ _
  | .atomFmin .. => RoundTrip.atomFmin _ _ _ _ _
  | .atomFmax .. => RoundTrip.atomFmax _ _ _ _ _
  | .lda .. => RoundTrip.lda _ _ _
  | .stl .. => RoundTrip.stl _ _ _
  | .lds .. => RoundTrip.lds _ _ _
  | .sts .. => RoundTrip.sts _ _ _
  | .bra .. => RoundTrip.bra _
  | .brz .. => RoundTrip.brz _ _
  | .brnz .. => RoundTrip.brnz _ _
  | .call .. => RoundTrip.call _
  | .bri .. => RoundTrip.bri _
  | .calli .. => RoundTrip.calli _
  | .rcvwait .. => RoundTrip.rcvwait _
  | .trap .. => RoundTrip.trap _
  | .rcvset .. => RoundTrip.rcvset _ _
  | .loop .. => RoundTrip.loop _ _
  | .cmov .. => RoundTrip.cmov _ _
  | .cadd .. => RoundTrip.cadd _ _ _
  | .csetb .. => RoundTrip.csetb _ _ _
  | .csetbx .. => RoundTrip.csetbx _ _ _
  | .cbase .. => RoundTrip.cbase _ _
  | .clen .. => RoundTrip.clen _ _
  | .ccur .. => RoundTrip.ccur _ _
  | .cperm .. => RoundTrip.cperm _ _
  | .candp .. => RoundTrip.candp _ _ _
  | .cseal .. => RoundTrip.cseal _ _ _
  | .cunseal .. => RoundTrip.cunseal _ _ _
  | .ctag .. => RoundTrip.ctag _ _
  | .csetc .. => RoundTrip.csetc _ _ _
  | .cdisp .. => RoundTrip.cdisp _ _
  | .cpyin .. => RoundTrip.cpyin _ _ _
  | .cpyout .. => RoundTrip.cpyout _ _ _
  | .cpycvt .. => RoundTrip.cpycvt _ _ _
  | .cpywait .. => RoundTrip.cpywait _
  | .pres .. => RoundTrip.pres _ _
  | .pclr .. => RoundTrip.pclr _ _
  | .chbind .. => RoundTrip.chbind _ _ _
  | .chpush .. => RoundTrip.chpush _ _
  | .chpop .. => RoundTrip.chpop _ _
  | .chpeek .. => RoundTrip.chpeek _ _
  | .chstat .. => RoundTrip.chstat _ _
  | .chclose .. => RoundTrip.chclose _
  | .chfree .. => RoundTrip.chfree _
  | .barinit .. => RoundTrip.barinit _ _
  | .bararr .. => RoundTrip.bararr _ _
  | .barwait .. => RoundTrip.barwait _ _
  | .barsync .. => RoundTrip.barsync _
  | .bardrop .. => RoundTrip.bardrop _
  | .cvinit .. => RoundTrip.cvinit _ _
  | .cvsign .. => RoundTrip.cvsign _
  | .strag .. => RoundTrip.strag _ _
  | .mx .. => RoundTrip.mx _ _ _ _ _
  | .mxwait .. => RoundTrip.mxwait _
  | .mxzero .. => RoundTrip.mxzero _
  | .launch .. => RoundTrip.launch _ _
  | .launcha .. => RoundTrip.launcha _ _ _
  | .join .. => RoundTrip.join _
  | .jpoll .. => RoundTrip.jpoll _ _
  | .nemit .. => RoundTrip.nemit _ _
  | .bound .. => RoundTrip.bound _
  | .incrd .. => RoundTrip.incrd _ _
  | .incimp .. => RoundTrip.incimp _ _ _
  | .aropen .. => RoundTrip.aropen _ _
  | .aropenReopen .. => RoundTrip.aropenReopen _ _
  | .arjoin .. => RoundTrip.arjoin _ _
  | .arseal .. => RoundTrip.arseal _
  | .arvote .. => RoundTrip.arvote _
  | .arabort .. => RoundTrip.arabort _
  | .arstat .. => RoundTrip.arstat _ _
  | .srd .. => RoundTrip.srd _ _
  | .swr .. => RoundTrip.swr _ _
  | .fence .. => RoundTrip.fence _ _
  | .csum .. => RoundTrip.csum _
  | .dbgmark .. => RoundTrip.dbgmark _
  | .perf .. => RoundTrip.perf _ _
  | .evwait .. => RoundTrip.evwait _
  | .qlock .. => RoundTrip.qlock _
  | .qunlock .. => RoundTrip.qunlock _
  | .ctxrunRun .. => RoundTrip.ctxrunRun _ _
  | .ctxrunHalt .. => RoundTrip.ctxrunHalt _ _
  | .ctxrunResume .. => RoundTrip.ctxrunResume _ _
  | .ctxrunSave .. => RoundTrip.ctxrunSave _ _
  | .ctxrunDump .. => RoundTrip.ctxrunDump _ _
  | .ctxrunKill .. => RoundTrip.ctxrunKill _ _
  | .ctxrunState .. => RoundTrip.ctxrunState _ _
  | .rgn .. => RoundTrip.rgn _ _ _ _ _ _
  | .bkpt .. => RoundTrip.bkpt _
  | .ret => RoundTrip.ret
  | .exit => RoundTrip.exit
  | .yield => RoundTrip.yield
  | .killpt => RoundTrip.killpt
  | .nop => RoundTrip.nop
  | .rft => RoundTrip.rft
  | .gbar => RoundTrip.gbar
  | .btake => RoundTrip.btake
  | .bpass => RoundTrip.bpass
  | .fenceop => RoundTrip.fenceop
  | .halt => RoundTrip.halt
  | .privTlbInvalidateAll => RoundTrip.privTlbInvalidateAll
  | .privTlbInvalidateAsid => RoundTrip.privTlbInvalidateAsid
  | .privTlbInvalidateRange => RoundTrip.privTlbInvalidateRange
  | .privIdentifierEntry => RoundTrip.privIdentifierEntry
  | .privKeyLoad => RoundTrip.privKeyLoad
  | .privKeyDestroy => RoundTrip.privKeyDestroy
  | .privPlantBreakpoint => RoundTrip.privPlantBreakpoint
  | .privRemoveBreakpoint => RoundTrip.privRemoveBreakpoint
  | .privRevokeDebug => RoundTrip.privRevokeDebug
  | .privEngineReset => RoundTrip.privEngineReset
  | .privDerate => RoundTrip.privDerate
  | .privFaultReplay => RoundTrip.privFaultReplay
  | .privFaultFail => RoundTrip.privFaultFail
  | .privReadFaultRecord => RoundTrip.privReadFaultRecord
  | .privPoolQuery => RoundTrip.privPoolQuery
  | .privQueueDisable => RoundTrip.privQueueDisable
  | .privQueueActivate => RoundTrip.privQueueActivate
  | .privMsix => RoundTrip.privMsix
  | .privHandover => RoundTrip.privHandover
  | .mxOperandWaitEnd => RoundTrip.mxOperandWaitEnd
  | .mxComputeEnd => RoundTrip.mxComputeEnd
  | .copyAdvance => RoundTrip.copyAdvance
  | .copyComplete => RoundTrip.copyComplete
  | .asyncTrapDelivery => RoundTrip.asyncTrapDelivery
  | .foragerDeal => RoundTrip.foragerDeal
  | .contextCompletion => RoundTrip.contextCompletion
  | .binTimerExpiry => RoundTrip.binTimerExpiry
  | .improvementReachesDie => RoundTrip.improvementReachesDie
  | .killTakesEffect => RoundTrip.killTakesEffect
  | .regionInstallComplete => RoundTrip.regionInstallComplete
  | .regionAbortDelivery => RoundTrip.regionAbortDelivery
  | .remoteDataReturn => RoundTrip.remoteDataReturn
  | .remoteAccessTimeout => RoundTrip.remoteAccessTimeout
  | .derateTakesEffect => RoundTrip.derateTakesEffect
  | .windowSlotAgeGrant => RoundTrip.windowSlotAgeGrant
  | .shortLivedExpiry => RoundTrip.shortLivedExpiry
  | .haltComplete => RoundTrip.haltComplete
  | .rowEviction => RoundTrip.rowEviction
  | .eventDelivery => RoundTrip.eventDelivery
  | .ktimerExpiry => RoundTrip.ktimerExpiry
  | .watchdogExpiry => RoundTrip.watchdogExpiry
  | .imemUncorrectableError => RoundTrip.imemUncorrectableError
  | .queueTableError => RoundTrip.queueTableError
  | .doorbell => RoundTrip.doorbell
  | .apertureAccess => RoundTrip.apertureAccess
  | .hostRegisterWrite => RoundTrip.hostRegisterWrite
  | .leaseResetRequest => RoundTrip.leaseResetRequest
  | .fwstart => RoundTrip.fwstart
  | .powerOn => RoundTrip.powerOn
  | .correctedError => RoundTrip.correctedError
  | .uncorrectableError => RoundTrip.uncorrectableError
  | .ceWindowEnd => RoundTrip.ceWindowEnd
  | .inputVoltageOutOfRange => RoundTrip.inputVoltageOutOfRange
  | .powerWindowEnd => RoundTrip.powerWindowEnd
  | .inletOverTemperature => RoundTrip.inletOverTemperature
  | .cicadaClockGate => RoundTrip.cicadaClockGate
  | .cicadaPowerGate => RoundTrip.cicadaPowerGate
  | .hangReport => RoundTrip.hangReport
  | .linkDown => RoundTrip.linkDown
  | .linkRetrain => RoundTrip.linkRetrain
  | .i3cDomidWrite => RoundTrip.i3cDomidWrite
  | .i3cLeasereq => RoundTrip.i3cLeasereq
  | .entdaa => RoundTrip.entdaa
  | .rstdaa => RoundTrip.rstdaa
  | .setdasa => RoundTrip.setdasa
  | .getpid => RoundTrip.getpid
  | .getbcr => RoundTrip.getbcr
  | .getdcr => RoundTrip.getdcr
  | .getstatus => RoundTrip.getstatus
  | .illegalInstruction => RoundTrip.illegalInstruction
  | .scrubComplete => RoundTrip.scrubComplete
  | .fabricRouteLost => RoundTrip.fabricRouteLost
  | .fabricRouteRestored => RoundTrip.fabricRouteRestored
  | .remoteAccessRequest => RoundTrip.remoteAccessRequest
  | .remoteRegionMessage => RoundTrip.remoteRegionMessage

/-- The rows of aropen have the same limits. -/
theorem RoundTrip.wf_spelled (i : Instr) : wf (RoundTrip.spelled i) = wf i := by
  cases i <;> rfl

theorem decodeWord_of_raw {w : Word} {i : Instr} (h : decodeRaw w.toNat = .ok i) (hw : wf i = true) : decodeWord w = .ok i := by
  simp only [decodeWord, h, hw, if_true]

/-- Settles O2: the encoder's number is a word's, its raw decoding is the instruction, and the limits on values are those that
the instruction meets. -/
theorem roundTrip : Obligations.RoundTrip := by
  intro i w hwf he
  obtain ⟨n, hn, rfl⟩ := Option.map_eq_some_iff.1 he
  obtain ⟨hlt, hraw⟩ := RoundTrip.statement i n hn
  show decodeWord (BitVec.ofNat 32 n) = .ok (RoundTrip.spelled i)
  refine decodeWord_of_raw ?_ ((RoundTrip.wf_spelled i).trans hwf)
  rw [BitVec.toNat_ofNat, Nat.mod_eq_of_lt hlt, hraw]

/-! ### A word is the encoding of what it decodes to -/

/-- A field's reader takes one number for each operand, which the writer gives back. -/
def ExactField {α : Type} (read : Nat → Option α) (bits : α → Nat) : Prop := ∀ f x, read f = some x → bits x = f

theorem exact_dstOf : ExactField dstOf Dst.bits := by
  intro f x h
  unfold dstOf at h
  split at h
  · cases h; simp only [Dst.bits, BitVec.toNat_ofNat]; omega
  · split at h
    · cases h; simp only [Dst.bits, BitVec.toNat_ofNat]; omega
    · cases h

theorem exact_srcOf : ExactField srcOf Src.bits := by
  intro f x h
  unfold srcOf at h
  split at h
  · cases h; simp only [Src.bits, BitVec.toNat_ofNat]; omega
  · split at h
    · cases h; simp only [Src.bits, BitVec.toNat_ofNat]; omega
    · split at h
      · cases h; simp only [Src.bits, BitVec.toNat_ofNat]; omega
      · cases h

theorem exact_regOf : ExactField regOf BitVec.toNat := by
  intro f x h
  obtain ⟨hlt, hx⟩ := Option.ite_none_right_eq_some.1 h
  cases hx
  exact Nat.mod_eq_of_lt hlt

theorem exact_low3Of : ExactField low3Of BitVec.toNat := by
  intro f x h
  obtain ⟨hlt, hx⟩ := Option.ite_none_right_eq_some.1 h
  cases hx
  exact Nat.mod_eq_of_lt hlt

theorem exact_popOf : ExactField popOf fun c => 96 + c.toNat := by
  intro f x h
  obtain ⟨hlt, hx⟩ := Option.ite_none_right_eq_some.1 h
  cases hx
  simp only [BitVec.toNat_ofNat]; omega

theorem exact_peekOf : ExactField peekOf fun c => 64 + c.toNat := by
  intro f x h
  obtain ⟨hlt, hx⟩ := Option.ite_none_right_eq_some.1 h
  cases hx
  simp only [BitVec.toNat_ofNat]; omega

theorem exact_zeroOf : ExactField zeroOf fun _ => 0 := by
  intro f x h
  obtain ⟨hz, -⟩ := Option.ite_none_right_eq_some.1 h
  exact hz.symm

theorem fmt1_encode {α : Type} {fa : Nat → Option α} {ga : α → Nat} {mk : α → Instr} {a n : Nat} {p : Nat → Nat} {i : Instr}
    (h : fmt1 fa mk a = .ok i) (ha : ExactField fa ga) (he : ∀ x, encodeNat (mk x) = some (p (ga x))) (hn : p a = n) :
    encodeNat i = some n := by
  unfold fmt1 at h
  split at h
  · next x hx =>
    cases h
    rw [he, ha a x hx, hn]
  · cases h

theorem fmt2_encode {α β : Type} {fa : Nat → Option α} {fb : Nat → Option β} {ga : α → Nat} {gb : β → Nat}
    {mk : α → β → Instr} {a b n : Nat} {p : Nat → Nat → Nat} {i : Instr} (h : fmt2 fa fb mk a b = .ok i)
    (ha : ExactField fa ga) (hb : ExactField fb gb) (he : ∀ x y, encodeNat (mk x y) = some (p (ga x) (gb y)))
    (hn : p a b = n) : encodeNat i = some n := by
  unfold fmt2 at h
  split at h
  · next x y hx hy =>
    cases h
    rw [he, ha a x hx, hb b y hy, hn]
  · cases h

theorem fmt3_encode {α β γ : Type} {fa : Nat → Option α} {fb : Nat → Option β} {fc : Nat → Option γ} {ga : α → Nat}
    {gb : β → Nat} {gc : γ → Nat} {mk : α → β → γ → Instr} {a b c n : Nat} {p : Nat → Nat → Nat → Nat} {i : Instr}
    (h : fmt3 fa fb fc mk a b c = .ok i) (ha : ExactField fa ga) (hb : ExactField fb gb) (hc : ExactField fc gc)
    (he : ∀ x y z, encodeNat (mk x y z) = some (p (ga x) (gb y) (gc z))) (hn : p a b c = n) : encodeNat i = some n := by
  unfold fmt3 at h
  split at h
  · next x y z hx hy hz =>
    cases h
    rw [he, ha a x hx, hb b y hy, hc c z hz, hn]
  · cases h

/-! A table of format R: each of its rows is written back by the readers of its three fields. -/

section
variable {d a b fn : Nat} {i : Instr}

theorem decInt_encode (h : decInt d a b fn = .ok i) : encodeNat i = some (packR 1 d a b fn) := by
  have hd := exact_dstOf; have hs := exact_srcOf; have hr := exact_regOf; have hz := exact_zeroOf
  unfold decInt at h
  split at h <;> first | (cases h) | exact fmt3_encode (p := fun d a b => packR 1 d a b _) h ‹_› ‹_› ‹_› (fun _ _ _ => rfl) rfl

theorem decCmp_encode (h : decCmp d a b fn = .ok i) : encodeNat i = some (packR 2 d a b fn) := by
  have hd := exact_dstOf; have hs := exact_srcOf; have hr := exact_regOf; have hz := exact_zeroOf
  unfold decCmp at h
  split at h <;> first | (cases h) | exact fmt3_encode (p := fun d a b => packR 2 d a b _) h ‹_› ‹_› ‹_› (fun _ _ _ => rfl) rfl

theorem decFlt_encode (h : decFlt d a b fn = .ok i) : encodeNat i = some (packR 3 d a b fn) := by
  have hd := exact_dstOf; have hs := exact_srcOf; have hr := exact_regOf; have hz := exact_zeroOf
  unfold decFlt at h
  split at h <;> first | (cases h) | exact fmt3_encode (p := fun d a b => packR 3 d a b _) h ‹_› ‹_› ‹_› (fun _ _ _ => rfl) rfl

theorem decCvt_encode (h : decCvt d a b fn = .ok i) : encodeNat i = some (packR 4 d a b fn) := by
  have hd := exact_dstOf; have hs := exact_srcOf; have hr := exact_regOf; have hz := exact_zeroOf
  unfold decCvt at h
  split at h <;> first | (cases h) | exact fmt3_encode (p := fun d a b => packR 4 d a b _) h ‹_› ‹_› ‹_› (fun _ _ _ => rfl) rfl

theorem decPk16_encode (h : decPk16 d a b fn = .ok i) : encodeNat i = some (packR 5 d a b fn) := by
  have hd := exact_dstOf; have hs := exact_srcOf; have hr := exact_regOf; have hz := exact_zeroOf
  unfold decPk16 at h
  split at h <;> first | (cases h) | exact fmt3_encode (p := fun d a b => packR 5 d a b _) h ‹_› ‹_› ‹_› (fun _ _ _ => rfl) rfl

theorem decXch_encode (h : decXch d a b fn = .ok i) : encodeNat i = some (packR 6 d a b fn) := by
  have hd := exact_dstOf; have hs := exact_srcOf; have hr := exact_regOf; have hz := exact_zeroOf
  unfold decXch at h
  split at h <;> first | (cases h) | exact fmt3_encode (p := fun d a b => packR 6 d a b _) h ‹_› ‹_› ‹_› (fun _ _ _ => rfl) rfl

theorem decCtl_encode (h : decCtl d a b fn = .ok i) : encodeNat i = some (packR 39 d a b fn) := by
  have hd := exact_dstOf; have hs := exact_srcOf; have hr := exact_regOf; have hz := exact_zeroOf
  unfold decCtl at h
  split at h <;> first | (cases h) | exact fmt3_encode (p := fun d a b => packR 39 d a b _) h ‹_› ‹_› ‹_› (fun _ _ _ => rfl) rfl

theorem decCap_encode (h : decCap d a b fn = .ok i) : encodeNat i = some (packR 42 d a b fn) := by
  have hd := exact_dstOf; have hs := exact_srcOf; have hr := exact_regOf; have hz := exact_zeroOf
  unfold decCap at h
  split at h <;> first | (cases h) | exact fmt3_encode (p := fun d a b => packR 42 d a b _) h ‹_› ‹_› ‹_› (fun _ _ _ => rfl) rfl

theorem decCopy_encode (h : decCopy d a b fn = .ok i) : encodeNat i = some (packR 43 d a b fn) := by
  have hd := exact_dstOf; have hs := exact_srcOf; have hr := exact_regOf; have hz := exact_zeroOf
  unfold decCopy at h
  split at h <;> first | (cases h) | exact fmt3_encode (p := fun d a b => packR 43 d a b _) h ‹_› ‹_› ‹_› (fun _ _ _ => rfl) rfl

theorem decChan_encode (h : decChan d a b fn = .ok i) : encodeNat i = some (packR 44 d a b fn) := by
  have hd := exact_dstOf; have hs := exact_srcOf; have hr := exact_regOf; have hz := exact_zeroOf; have hp := exact_popOf; have hk := exact_peekOf
  unfold decChan at h
  split at h <;> first | (cases h) | exact fmt3_encode (p := fun d a b => packR 44 d a b _) h ‹_› ‹_› ‹_› (fun _ _ _ => rfl) rfl

theorem decSync_encode (h : decSync d a b fn = .ok i) : encodeNat i = some (packR 45 d a b fn) := by
  have hd := exact_dstOf; have hs := exact_srcOf; have hr := exact_regOf; have hz := exact_zeroOf
  unfold decSync at h
  split at h <;> first | (cases h) | exact fmt3_encode (p := fun d a b => packR 45 d a b _) h ‹_› ‹_› ‹_› (fun _ _ _ => rfl) rfl

theorem decMxa_encode (h : decMxa d a b fn = .ok i) : encodeNat i = some (packR 47 d a b fn) := by
  have hd := exact_dstOf; have hs := exact_srcOf; have hr := exact_regOf; have hz := exact_zeroOf
  unfold decMxa at h
  split at h <;> first | (cases h) | exact fmt3_encode (p := fun d a b => packR 47 d a b _) h ‹_› ‹_› ‹_› (fun _ _ _ => rfl) rfl

theorem decLnch_encode (h : decLnch d a b fn = .ok i) : encodeNat i = some (packR 48 d a b fn) := by
  have hd := exact_dstOf; have hs := exact_srcOf; have hr := exact_regOf; have hz := exact_zeroOf
  unfold decLnch at h
  split at h <;> first | (cases h) | exact fmt3_encode (p := fun d a b => packR 48 d a b _) h ‹_› ‹_› ‹_› (fun _ _ _ => rfl) rfl

theorem decTask_encode (h : decTask d a b fn = .ok i) : encodeNat i = some (packR 49 d a b fn) := by
  have hd := exact_dstOf; have hs := exact_srcOf; have hr := exact_regOf; have hz := exact_zeroOf
  unfold decTask at h
  split at h <;> first | (cases h) | exact fmt3_encode (p := fun d a b => packR 49 d a b _) h ‹_› ‹_› ‹_› (fun _ _ _ => rfl) rfl

theorem decRegn_encode (h : decRegn d a b fn = .ok i) : encodeNat i = some (packR 50 d a b fn) := by
  have hd := exact_dstOf; have hs := exact_srcOf; have hr := exact_regOf; have hz := exact_zeroOf
  unfold decRegn at h
  split at h <;> first | (cases h) | exact fmt3_encode (p := fun d a b => packR 50 d a b _) h ‹_› ‹_› ‹_› (fun _ _ _ => rfl) rfl


end

/-! The tables whose words have other fields: atoms, ordered accesses and the system words. -/

/-- A number made a bit vector is itself where it fits, as the fields of a word do. -/
theorem toNat_ofNat_of_lt {n x : Nat} (h : x < 2 ^ n) : (BitVec.ofNat n x).toNat = x := Nat.mod_eq_of_lt h

theorem atom_encode {mk : Reg → Quad → BitVec 2 → BitVec 3 → BitVec 3 → Instr} {d c aop ord scope use low3 : Nat} {i : Instr}
    (hc : c < 2 ^ 4) (ho : ord < 2 ^ 2) (hs : scope < 2 ^ 3) (hu : use < 2 ^ 3)
    (h : fmt2 regOf zeroOf (fun d _ => mk d (BitVec.ofNat 4 c) (BitVec.ofNat 2 ord) (BitVec.ofNat 3 scope) (BitVec.ofNat 3 use))
      d low3 = .ok i)
    (he : ∀ d c ord scope use, encodeNat (mk d c ord scope use) =
      some (packA 33 d.toNat c.toNat aop ord.toNat scope.toNat use.toNat)) :
    encodeNat i = some (packA 33 d c aop ord scope use + low3) := by
  refine fmt2_encode (p := fun d z => packA 33 d c aop ord scope use + z) h exact_regOf exact_zeroOf (fun x _ => ?_) rfl
  rw [he, toNat_ofNat_of_lt hc, toNat_ofNat_of_lt ho, toNat_ofNat_of_lt hs, toNat_ofNat_of_lt hu, Nat.add_zero]

theorem decAtom_encode {d c aop ord scope use low3 : Nat} {i : Instr} (hc : c < 2 ^ 4) (ho : ord < 2 ^ 2) (hs : scope < 2 ^ 3)
    (hu : use < 2 ^ 3) (h : decAtom d c aop ord scope use low3 = .ok i) :
    encodeNat i = some (packA 33 d c aop ord scope use + low3) := by
  unfold decAtom at h
  split at h <;> first | (cases h) | exact atom_encode hc ho hs hu h fun _ _ _ _ _ => rfl

theorem ordm_encode {α : Type} {fa : Nat → Option α} {ga : α → Nat} {mk : α → Quad → BitVec 3 → Instr}
    {d c aop ord scope use low3 : Nat} {i : Instr} (hc : c < 2 ^ 4) (hs : scope < 2 ^ 3)
    (h : fmt3 fa zeroOf zeroOf (fun d _ _ => mk d (BitVec.ofNat 4 c) (BitVec.ofNat 3 scope)) d (ord + use) low3 = .ok i)
    (hf : ExactField fa ga) (he : ∀ d c scope, encodeNat (mk d c scope) = some (packA 34 (ga d) c.toNat aop 0 scope.toNat 0)) :
    encodeNat i = some (packA 34 d c aop ord scope use + low3) := by
  unfold fmt3 at h
  split at h
  · next x y z hx hy hz =>
    cases h
    have hou : 0 = ord + use := exact_zeroOf _ _ hy
    obtain ⟨rfl, rfl⟩ : ord = 0 ∧ use = 0 := by omega
    rw [he, hf d x hx, ← exact_zeroOf _ _ hz, toNat_ofNat_of_lt hc, toNat_ofNat_of_lt hs, Nat.add_zero]
  · cases h

theorem decOrdm_encode {d c aop ord scope use low3 : Nat} {i : Instr} (hc : c < 2 ^ 4) (hs : scope < 2 ^ 3)
    (h : decOrdm d c aop ord scope use low3 = .ok i) : encodeNat i = some (packA 34 d c aop ord scope use + low3) := by
  unfold decOrdm at h
  split at h
  · exact ordm_encode hc hs h exact_dstOf fun _ _ _ => rfl
  · exact ordm_encode hc hs h exact_srcOf fun _ _ _ => rfl
  · exact ordm_encode hc hs h exact_dstOf fun _ _ _ => rfl
  · exact ordm_encode hc hs h exact_srcOf fun _ _ _ => rfl
  · cases h

theorem decCtxrun_encode {d a id : Nat} {i : Instr} (h : decCtxrun d a id = .ok i) : encodeNat i = some (packS 51 d a 14 id) := by
  unfold decCtxrun at h
  split at h <;> first | (cases h) | exact fmt2_encode (p := fun d a => packS 51 d a 14 _) h exact_regOf exact_regOf (fun _ _ => rfl) rfl

/-- Every word of priv decodes to a row of its op (Table 21.7). -/
theorem decPriv_op {d a id : Nat} {i : Instr} (h : decPriv d a id = .ok i) : privOp i = some id := by
  unfold decPriv fmt2 at h
  split at h <;> first | (cases h) | (split at h <;> cases h; rfl)

theorem decSys_encode {d a sub id : Nat} {i : Instr} (hid : id < 2 ^ 8) (h : decSys d a sub id = .ok i) (hp : privOp i = none) :
    encodeNat i = some (packS 51 d a sub id) := by
  have hd := exact_dstOf; have hs := exact_srcOf; have hr := exact_regOf; have hz := exact_zeroOf
  have id8 : (BitVec.ofNat 8 id).toNat = id := toNat_ofNat_of_lt hid
  unfold decSys at h
  split at h
  case h_1 => exact fmt2_encode (p := fun d a => packS 51 d a 0 id) h hd hz (fun _ _ => by rw [encodeNat, id8]) rfl
  case h_2 => exact fmt2_encode (p := fun d a => packS 51 d a 1 id) h hz hs (fun _ _ => by rw [encodeNat, id8]) rfl
  case h_3 =>
    refine fmt3_encode (p := fun d a k => packS 51 d a 2 (k * 32 + id % 32)) h hz hz hz (fun _ _ _ => ?_) ?_
    · rw [encodeNat, BitVec.toNat_ofNat, BitVec.toNat_ofNat]; congr 2; omega
    · rw [Nat.div_add_mod']
  case h_7 => exact fmt2_encode (p := fun d a => packS 51 d a 6 id) h hz hz (fun _ _ => by rw [encodeNat, id8]) rfl
  case h_8 => exact fmt2_encode (p := fun d a => packS 51 d a 7 id) h hd hz (fun _ _ => by rw [encodeNat, id8]) rfl
  case h_12 => exact decCtxrun_encode h
  case h_13 => rw [decPriv_op h] at hp; cases hp
  case h_14 => cases h
  all_goals exact fmt3_encode (p := fun d a id => packS 51 d a _ id) h ‹_› ‹_› ‹_› (fun _ _ _ => rfl) rfl

/-! ### The majors -/

theorem bitsAt_lt (n lo len : Nat) : bitsAt n lo len < 2 ^ len := Nat.mod_lt _ (Nat.two_pow_pos _)

@[simp] theorem toNat_ofNat_bitsAt (n lo len : Nat) : (BitVec.ofNat len (bitsAt n lo len)).toNat = bitsAt n lo len :=
  toNat_ofNat_of_lt (bitsAt_lt n lo len)

/-! A word `n` of major `m` is put together from its fields, in each format of Table 2.1. -/

section
variable {n m : Nat} {i : Instr}

theorem packR_fields (hn : n < 2 ^ 32) (hm : bitsAt n 26 6 = m) :
    packR m (bitsAt n 19 7) (bitsAt n 12 7) (bitsAt n 5 7) (bitsAt n 0 5) = n := by
  simp only [packR, bitsAt] at hm ⊢; omega

theorem packI_fields (hn : n < 2 ^ 32) (hm : bitsAt n 26 6 = m) :
    packI m (bitsAt n 19 7) (bitsAt n 12 7) (bitsAt n 0 12) = n := by
  simp only [packI, bitsAt] at hm ⊢; omega

theorem packM_fields (hn : n < 2 ^ 32) (hm : bitsAt n 26 6 = m) :
    packM m (bitsAt n 19 7) (bitsAt n 15 4) (bitsAt n 0 15) = n := by
  simp only [packM, bitsAt] at hm ⊢; omega

theorem packF_fields (hn : n < 2 ^ 32) (hm : bitsAt n 26 6 = m) :
    packF m (bitsAt n 19 7) (bitsAt n 16 3) (bitsAt n 15 1) (bitsAt n 0 15) = n := by
  simp only [packF, bitsAt] at hm ⊢; omega

theorem packA_fields (hn : n < 2 ^ 32) (hm : bitsAt n 26 6 = m) :
    packA m (bitsAt n 19 7) (bitsAt n 15 4) (bitsAt n 11 4) (bitsAt n 9 2) (bitsAt n 6 3) (bitsAt n 3 3) + bitsAt n 0 3 = n := by
  simp only [packA, bitsAt] at hm ⊢; omega

theorem packJ_fields (hn : n < 2 ^ 32) (hm : bitsAt n 26 6 = m) : packJ m (bitsAt n 0 26) = n := by
  simp only [packJ, bitsAt] at hm ⊢; omega

theorem packB_fields (hn : n < 2 ^ 32) (hm : bitsAt n 26 6 = m) : packB m (bitsAt n 19 7) (bitsAt n 0 19) = n := by
  simp only [packB, bitsAt] at hm ⊢; omega

theorem packX_fields (hn : n < 2 ^ 32) (hm : bitsAt n 26 6 = m) :
    packX m (bitsAt n 19 7) (bitsAt n 12 7) (bitsAt n 8 4) (bitsAt n 4 4) (bitsAt n 0 4) = n := by
  simp only [packX, bitsAt] at hm ⊢; omega

theorem packS_fields (hn : n < 2 ^ 32) (hm : bitsAt n 26 6 = m) :
    packS m (bitsAt n 19 7) (bitsAt n 12 7) (bitsAt n 8 4) (bitsAt n 0 8) = n := by
  simp only [packS, bitsAt] at hm ⊢; omega

theorem packG_fields (hn : n < 2 ^ 32) (hm : bitsAt n 26 6 = m) :
    packG m (bitsAt n 24 2) (bitsAt n 20 4) (bitsAt n 16 4) (bitsAt n 12 4) (bitsAt n 8 4) (bitsAt n 4 4) + bitsAt n 0 4 = n := by
  simp only [packG, bitsAt] at hm ⊢; omega

theorem fmtR_encode (hn : n < 2 ^ 32) (hm : bitsAt n 26 6 = m)
    (h : encodeNat i = some (packR m (bitsAt n 19 7) (bitsAt n 12 7) (bitsAt n 5 7) (bitsAt n 0 5))) : encodeNat i = some n := by
  rw [h, packR_fields hn hm]

theorem fmtI_encode {α β : Type} {fd : Nat → Option α} {fa : Nat → Option β} {gd : α → Nat} {ga : β → Nat}
    {mk : α → β → BitVec 12 → Instr} (hn : n < 2 ^ 32) (hm : bitsAt n 26 6 = m) (hd : ExactField fd gd) (ha : ExactField fa ga)
    (h : fmt2 fd fa (fun d a => mk d a (BitVec.ofNat 12 (bitsAt n 0 12))) (bitsAt n 19 7) (bitsAt n 12 7) = .ok i)
    (he : ∀ d a imm, encodeNat (mk d a imm) = some (packI m (gd d) (ga a) imm.toNat)) : encodeNat i = some n :=
  fmt2_encode (p := fun d a => packI m d a (bitsAt n 0 12)) h hd ha (fun _ _ => by rw [he, toNat_ofNat_bitsAt])
    (packI_fields hn hm)

theorem fmtM_encode {α : Type} {fd : Nat → Option α} {gd : α → Nat} {mk : α → Quad → BitVec 15 → Instr}
    (hn : n < 2 ^ 32) (hm : bitsAt n 26 6 = m) (hd : ExactField fd gd)
    (h : fmt1 fd (fun d => mk d (BitVec.ofNat 4 (bitsAt n 15 4)) (BitVec.ofNat 15 (bitsAt n 0 15))) (bitsAt n 19 7) = .ok i)
    (he : ∀ d c imm, encodeNat (mk d c imm) = some (packM m (gd d) c.toNat imm.toNat)) : encodeNat i = some n :=
  fmt1_encode (p := fun d => packM m d (bitsAt n 15 4) (bitsAt n 0 15)) h hd
    (fun _ => by rw [he, toNat_ofNat_bitsAt, toNat_ofNat_bitsAt]) (packM_fields hn hm)

theorem fmtF_encode {α : Type} {fd : Nat → Option α} {gd : α → Nat} {mk : α → BitVec 3 → Bool → BitVec 15 → Instr}
    (hn : n < 2 ^ 32) (hm : bitsAt n 26 6 = m) (hd : ExactField fd gd)
    (h : fmt1 fd (fun d => mk d (BitVec.ofNat 3 (bitsAt n 16 3)) (decide (bitsAt n 15 1 = 1)) (BitVec.ofNat 15 (bitsAt n 0 15)))
      (bitsAt n 19 7) = .ok i)
    (he : ∀ d l k imm, encodeNat (mk d l k imm) = some (packF m (gd d) l.toNat (if k then 1 else 0) imm.toNat)) :
    encodeNat i = some n := by
  have hk : (if decide (bitsAt n 15 1 = 1) = true then 1 else 0) = bitsAt n 15 1 := by
    have := bitsAt_lt n 15 1
    by_cases h1 : bitsAt n 15 1 = 1
    · simp only [h1, decide_true, if_true]
    · simp only [h1, decide_false, Bool.false_eq_true, if_false]; omega
  exact fmt1_encode (p := fun d => packF m d (bitsAt n 16 3) (bitsAt n 15 1) (bitsAt n 0 15)) h hd
    (fun _ => by rw [he, toNat_ofNat_bitsAt, toNat_ofNat_bitsAt, hk]) (packF_fields hn hm)

theorem fmtJ_encode {mk : BitVec 26 → Instr} (hn : n < 2 ^ 32) (hm : bitsAt n 26 6 = m)
    (h : Except.ok (ε := Illegal) (mk (BitVec.ofNat 26 (bitsAt n 0 26))) = .ok i)
    (he : ∀ disp, encodeNat (mk disp) = some (packJ m disp.toNat)) : encodeNat i = some n := by
  cases h
  rw [he, toNat_ofNat_bitsAt, packJ_fields hn hm]

theorem fmtB_encode {mk : Reg → BitVec 19 → Instr} (hn : n < 2 ^ 32) (hm : bitsAt n 26 6 = m)
    (h : fmt1 regOf (fun a => mk a (BitVec.ofNat 19 (bitsAt n 0 19))) (bitsAt n 19 7) = .ok i)
    (he : ∀ a disp, encodeNat (mk a disp) = some (packB m a.toNat disp.toNat)) : encodeNat i = some n :=
  fmt1_encode (p := fun a => packB m a (bitsAt n 0 19)) h exact_regOf (fun _ => by rw [he, toNat_ofNat_bitsAt]) (packB_fields hn hm)

end

/-- A word of a major is the encoding of what the major's table reads in it. -/
theorem decodeMajor_encode {n m : Nat} {i : Instr} (hn : n < 2 ^ 32) (hm : bitsAt n 26 6 = m) (hp : privOp i = none)
    (h : decodeMajor m n = .ok i) : encodeNat i = some n := by
  have hd := exact_dstOf; have hs := exact_srcOf; have hr := exact_regOf; have hz := exact_zeroOf; have hl := exact_low3Of
  unfold decodeMajor at h
  dsimp only at h
  split at h
  case h_1 => exact fmtR_encode hn hm (decInt_encode h)
  case h_2 => exact fmtR_encode hn hm (decCmp_encode h)
  case h_3 => exact fmtR_encode hn hm (decFlt_encode h)
  case h_4 => exact fmtR_encode hn hm (decCvt_encode h)
  case h_5 => exact fmtR_encode hn hm (decPk16_encode h)
  case h_6 => exact fmtR_encode hn hm (decXch_encode h)
  case h_38 => exact fmtR_encode hn hm (decCtl_encode h)
  case h_41 => exact fmtR_encode hn hm (decCap_encode h)
  case h_42 => exact fmtR_encode hn hm (decCopy_encode h)
  case h_43 => exact fmtR_encode hn hm (decChan_encode h)
  case h_44 => exact fmtR_encode hn hm (decSync_encode h)
  case h_46 => exact fmtR_encode hn hm (decMxa_encode h)
  case h_47 => exact fmtR_encode hn hm (decLnch_encode h)
  case h_48 => exact fmtR_encode hn hm (decTask_encode h)
  case h_49 => exact fmtR_encode hn hm (decRegn_encode h)
  case h_32 => exact (decAtom_encode (bitsAt_lt ..) (bitsAt_lt ..) (bitsAt_lt ..) (bitsAt_lt ..) h).trans (congrArg some (packA_fields hn hm))
  case h_33 => exact (decOrdm_encode (bitsAt_lt ..) (bitsAt_lt ..) h).trans (congrArg some (packA_fields hn hm))
  case h_40 => exact fmt3_encode h hr hr hz (fun _ _ _ => rfl) (packI_fields hn hm)
  case h_45 =>
    exact fmt2_encode (p := fun d f => packX 46 d f _ _ _) h hr hr (fun _ _ => by simp only [encodeNat, toNat_ofNat_bitsAt])
      (packX_fields hn hm)
  case h_50 => exact (decSys_encode (bitsAt_lt ..) h hp).trans (congrArg some (packS_fields hn hm))
  case h_51 =>
    exact fmt1_encode (p := fun z => packG 52 _ _ _ _ _ _ + z) h hz (fun _ => by simp only [encodeNat, toNat_ofNat_bitsAt]; rfl)
      (packG_fields hn hm)
  case h_53 => cases h
  case h_54 => cases h
  any_goals exact fmtI_encode hn hm ‹_› ‹_› h fun _ _ _ => rfl
  any_goals exact fmtM_encode hn hm ‹_› h fun _ _ _ => rfl
  any_goals exact fmtF_encode hn hm ‹_› h fun _ _ _ _ => rfl
  any_goals exact fmtJ_encode hn hm h fun _ => rfl
  any_goals exact fmtB_encode hn hm h fun _ _ => rfl

theorem decodeWord_raw {w : Word} {i : Instr} (h : decodeWord w = .ok i) : decodeRaw w.toNat = .ok i ∧ wf i = true := by
  unfold decodeWord at h
  split at h
  · next j hj =>
    split at h
    · next hw => cases h; exact ⟨hj, hw⟩
    · cases h
  · cases h

/-- The words of priv apart, a word is the encoding of the instruction it decodes to. -/
theorem encode_of_decodeWord {w : Word} {i : Instr} (h : decodeWord w = .ok i) (hp : privOp i = none) : encode i = some w := by
  rw [encode, decodeMajor_encode w.isLt rfl hp (decodeWord_raw h).1, Option.map_some, BitVec.ofNat_toNat, BitVec.setWidth_eq]

/-- Settles O3: an instruction has one encoding, which every word is that decodes to it. -/
theorem decodeInjective : Obligations.DecodeInjective := by
  intro v w i hv hw hp
  exact Option.some.inj ((encode_of_decodeWord hv hp).symm.trans (encode_of_decodeWord hw hp))

/-! ### The words of priv -/

theorem privOp_lt {i : Instr} {op : Nat} (h : privOp i = some op) : op < 14 := by
  unfold privOp at h
  split at h <;> cases h <;> decide

/-- A number below 14 is the op of a row (Table 21.7), which has no limits of its own. -/
theorem decPriv_ok {d a : Reg} (ha : a.toNat % 4 = 0) {op : Nat} (h : op < 14) :
    ∃ j, decPriv d.toNat a.toNat op = .ok j ∧ wf j = true := by
  have hq : quadRegOf a.toNat = some (BitVec.ofNat 6 a.toNat) := if_pos ⟨a.isLt, ha⟩
  have hf : ∀ j : Instr, fmt2 regOf quadRegOf (fun _ _ => j) d.toNat a.toNat = .ok j := fun j => fmt2_ok (regOf_toNat d) hq
  interval_cases op <;> exact ⟨_, hf _, rfl⟩

/-- Settles O4: the id field of the word is the op, by which decPriv picks the row. -/
theorem privWordsDecode : Obligations.PrivWordsDecode := by
  intro i d a w ha he
  obtain ⟨op, hop, rfl⟩ := Option.map_eq_some_iff.1 he
  have hlt := privOp_lt hop
  obtain ⟨j, hj, hw⟩ := decPriv_ok (d := d) ha hlt
  have hd := d.isLt
  have hal := a.isLt
  obtain ⟨hlt32, hmaj, hdf, haf, hsub, hid⟩ := packS_bits (m := 51) (d := d.toNat) (a := a.toNat) (sub := 15) (id := op)
    (by decide) (by omega) (by omega) (by decide) (by omega)
  refine ⟨j, decodeWord_of_raw ?_ hw, (decPriv_op hj).trans hop.symm⟩
  rw [toNat_ofNat_of_lt hlt32, decodeRaw, hmaj, maj51, hdf, haf, hsub, hid]
  exact hj

end Sys2Proof.Laws
end

section
/-!
PROOFS. The words and the runs of hints that are no instructions (R34, R36 to R39, R44, R45).
-/

namespace Sys2Proof.Laws

open Sys2Proof Sys2Proof.Machine.Claims

/-! ### Majors -/

theorem decodeWord_error_of_major {w : Word} {m : Nat} {e : Illegal} (hm : w.toNat / 2 ^ 26 = m)
    (h : decodeMajor m w.toNat = .error e) : decodeWord w = .error e := by
  have hmaj : bitsAt w.toNat 26 6 = m := by
    have := w.isLt
    simp only [bitsAt]; omega
  simp only [decodeWord, decodeRaw, hmaj, h]

theorem decodeWord_illegal_major {w : Word}
    (h : w.toNat / 2 ^ 26 = 0x00 ∨ w.toNat / 2 ^ 26 = 0x07 ∨ (0x35 ≤ w.toNat / 2 ^ 26 ∧ w.toNat / 2 ^ 26 ≤ 0x3D)) :
    decodeWord w = .error .major := by
  refine decodeWord_error_of_major rfl ?_
  generalize w.toNat / 2 ^ 26 = m at h
  obtain rfl | rfl | ⟨hlo, hhi⟩ := h
  · rfl
  · rfl
  · interval_cases m <;> rfl

theorem decodeWord_hint {w : Word} (h : w.toNat / 2 ^ 26 = 0x3F) : decodeWord w = .error .hint :=
  decodeWord_error_of_major h rfl

/-! ### One hint -/

theorem majorOf_eq (w : Word) : majorOf w = w.toNat / 2 ^ 26 := by
  have := w.isLt
  simp only [majorOf, bitsAt]; omega

theorem formatOf_eq_br {m : Nat} : formatOf m = .br ↔ m = 0x24 ∨ m = 0x25 := by
  unfold formatOf
  split_ifs <;> simp <;> omega

/-- The payload's own fields are those of its kind (Table 2.5). -/
theorem hintFieldsOk_iff (h : Word) :
    hintFieldsOk h = true ↔ ¬ (5 ≤ hintKind h ∨ (hintKind h = 0 ∧ 2 ^ 20 ≤ h.toNat % 2 ^ 22) ∨
      (hintKind h = 1 ∧ (32 ≤ h.toNat % 2 ^ 22 ∨ h.toNat % 2 ^ 22 % 8 = 0)) ∨ (hintKind h = 3 ∧ 4 ≤ h.toNat % 2 ^ 22) ∨
      (hintKind h = 4 ∧ 256 ≤ h.toNat % 2 ^ 22)) := by
  have wide : bitsAt h.toNat 20 2 = 0 ↔ h.toNat % 2 ^ 22 < 2 ^ 20 := by simp only [bitsAt]; omega
  have idx : bitsAt h.toNat 5 17 = 0 ↔ h.toNat % 2 ^ 22 < 32 := by simp only [bitsAt]; omega
  have selected : bitsAt h.toNat 0 3 = 0 ↔ h.toNat % 2 ^ 22 % 8 = 0 := by simp only [bitsAt]; omega
  have memh : bitsAt h.toNat 2 20 = 0 ↔ h.toNat % 2 ^ 22 < 4 := by simp only [bitsAt]; omega
  have fourth : bitsAt h.toNat 8 14 = 0 ↔ h.toNat % 2 ^ 22 < 256 := by simp only [bitsAt]; omega
  unfold hintFieldsOk
  generalize h.toNat % 2 ^ 22 = p at wide idx selected memh fourth ⊢
  generalize hintKind h = k
  dsimp only
  match k with
  | 0 => simp [wide]
  | 1 => simp [idx, selected]
  | 2 => simp
  | 3 => simp [memh]
  | 4 => simp [fourth]
  | k + 5 => simp

/-- A hint stands where R36 and R39 let it stand: once, or as a step behind a step of a lesser body word. -/
theorem hintPlaceOk_iff (before : List Word) (h : Word) :
    hintPlaceOk before.reverse h = true ↔ ¬ ((hintKind h ≠ 2 ∧ ∃ x ∈ before, hintKind x = hintKind h) ∨
      (hintKind h = 2 ∧ (before.filter fun x => hintKind x == 2) ≠ [] ∧
        (8 ≤ (before.filter fun x => hintKind x == 2).length ∨
          ∀ x, before.getLast? = some x → hintKind x ≠ 2 ∨ h.toNat % 2 ^ 22 % 32 ≤ x.toNat % 32))) := by
  unfold hintPlaceOk
  simp only [List.any_reverse, List.filter_reverse, List.length_reverse]
  by_cases h2 : hintKind h = 2
  · by_cases hs : ∃ x ∈ before, hintKind x = 2
    · have hany : (before.any fun b => hintKind b == 2) = true := by simpa using hs
      have hne : (before.filter fun x => hintKind x == 2) ≠ [] := by simpa using hs
      obtain ⟨init, last, rfl⟩ : ∃ init last, before = init ++ [last] :=
        ⟨_, _, (List.dropLast_append_getLast (by rintro rfl; simp at hs)).symm⟩
      simp only [h2, hany, hne, if_true, List.reverse_concat, List.getLast?_concat, Option.some.injEq, forall_eq', bitsAt,
        Bool.and_eq_true, beq_iff_eq, decide_eq_true_eq, ne_eq, not_true_eq_false, false_and, not_false_eq_true, true_and, false_or,
        pow_zero, Nat.div_one]
      omega
    · have hany : (before.any fun b => hintKind b == 2) = false := by simpa using hs
      have hnil : (before.filter fun x => hintKind x == 2) = [] := by simpa using hs
      simp [h2, hany, hnil]
  · simp [h2]

theorem bitsAt_one_eq_one {n lo : Nat} : bitsAt n lo 1 = 1 ↔ ¬ bitsAt n lo 1 = 0 := by
  simp only [bitsAt]; omega

/-- A field that a selector names is a register where the instruction uses it as one and its class bit is clear (R38). -/
theorem idxFieldOk_iff (w : Word) : 
    (idxFieldOk w 0 = true ↔ ¬ ((usesOf w).d = 0 ∨ w.toNat / 2 ^ 25 % 2 = 1)) ∧
    (idxFieldOk w 1 = true ↔ ¬ ((usesOf w).a = 0 ∨ w.toNat / 2 ^ (if majorOf w ∈ [0x24, 0x25] then 25 else 18) % 2 = 1)) ∧
    (idxFieldOk w 2 = true ↔ ¬ ((usesOf w).b = 0 ∨ w.toNat / 2 ^ (if majorOf w ∈ [0x24, 0x25] then 25 else 11) % 2 = 1)) := by
  have hbr : formatOf (majorOf w) = .br ↔ majorOf w ∈ [0x24, 0x25] := by simp [formatOf_eq_br]
  have bit : ∀ lo, (bitsAt w.toNat lo 1 == 0) = true ↔ ¬ w.toNat / 2 ^ lo % 2 = 1 := by
    intro lo; simp only [bitsAt, beq_iff_eq]; omega
  refine ⟨?_, ?_, ?_⟩ <;> simp only [idxFieldOk, classZero, hbr, Bool.and_eq_true, decide_eq_true_eq, bit, not_or] <;>
    by_cases hm : majorOf w ∈ [0x24, 0x25] <;> simp [hm, Nat.pos_iff_ne_zero]

/-- Nothing is refused where each selected field is admitted. -/
theorem selected_iff {f g c0 c1 c2 q0 q1 q2 : Prop} (hg : g ↔ ¬f) :
    ((g ∧ (c0 ∨ ¬q0)) ∧ (c1 ∨ ¬q1)) ∧ (c2 ∨ ¬q2) ↔ ¬ (f ∨ (¬c0 ∧ q0) ∨ (¬c1 ∧ q1) ∨ (¬c2 ∧ q2)) := by
  tauto

/-- The governed word admits a hint of a kind that there is where nothing in Table 2.5 or in R38 and R39 refuses it. -/
theorem hintAdmitted_iff {h : Word} (hk : hintKind h < 5) (w : Word) : hintAdmitted h w = true ↔ ¬ HintRefused h w := by
  have hkind : h.toNat / 2 ^ 22 % 16 = hintKind h := rfl
  have hb0 : h.toNat % 2 ^ 22 % 2 = bitsAt h.toNat 0 1 := by simp only [bitsAt]; omega
  have hb1 : h.toNat % 2 ^ 22 / 2 % 2 = bitsAt h.toNat 1 1 := by simp only [bitsAt]; omega
  have hb2 : h.toNat % 2 ^ 22 / 4 % 2 = bitsAt h.toNat 2 1 := by simp only [bitsAt]; omega
  have hstep : h.toNat % 2 ^ 22 % 32 = bitsAt h.toNat 0 5 := by simp only [bitsAt]; omega
  have hlen : w.toNat / 2 ^ 12 % 64 = bitsAt w.toNat 12 6 := rfl
  have hfn : w.toNat % 32 = bitsAt w.toNat 0 5 := by simp only [bitsAt]; omega
  have hother : (match formatOf (majorOf w) with | .other => false | _ => true) = true ↔ formatOf (majorOf w) ≠ .other := by
    cases formatOf (majorOf w) <;> simp
  obtain ⟨hd, ha, hb⟩ := idxFieldOk_iff w
  unfold hintAdmitted HintRefused
  dsimp only
  rw [hkind, ← majorOf_eq, hb0, hb1, hb2, hstep, hlen, hfn]
  by_cases h3e : majorOf w = 0x3E
  · simp [h3e]
  rw [if_neg h3e]
  generalize hintKind h = k at hk ⊢
  match k, hk with
  | 0, _ =>
    simp [h3e]
    omega
  | 1, _ =>
    simp only [Bool.and_eq_true, Bool.or_eq_true, hd, ha, hb, beq_iff_eq, bitsAt_one_eq_one, h3e, ne_eq, not_false_eq_true,
      true_and, one_ne_zero, false_and, false_or, OfNat.one_ne_ofNat, or_false]
    exact selected_iff hother
  | 2, _ => simp [h3e]
  | 3, _ =>
    simp [h3e]
    omega
  | 4, _ => simp

/-- The hint is one of those that may stand there: its fields, its place and the governed word allow it. -/
def HintPasses (w : Word) (before : List Word) (h : Word) : Prop := ¬ (HintBroken before h ∨ HintRefused h w)

theorem hintPasses_iff (w : Word) (before : List Word) (h : Word) :
    (hintFieldsOk h && hintPlaceOk before.reverse h && hintAdmitted h w) = true ↔ HintPasses w before h := by
  have hbroken : ¬ HintBroken before h ↔ hintFieldsOk h = true ∧ hintPlaceOk before.reverse h = true := by
    rw [hintFieldsOk_iff, hintPlaceOk_iff, ← not_or, HintBroken]
    simp only [or_assoc]
    rfl
  rw [Bool.and_eq_true, Bool.and_eq_true, HintPasses, not_or, hbroken]
  refine and_congr_right fun ⟨hf, _⟩ => hintAdmitted_iff ?_ w
  have := (hintFieldsOk_iff h).1 hf
  omega

/-! ### A run of hints -/

/-- What the search of a run from its place `off` on finds: the first hint that may not stand there. -/
theorem hintError_some {w : Word} {hs : List Word} : ∀ {before : List Word} {off k : Nat} {b : Word},
    hintError w before.reverse off hs = some (k, b) →
    ∃ n, k = off + n ∧ hs[n]? = some b ∧ ¬ HintPasses w (before ++ hs.take n) b ∧
      ∀ m h, m < n → hs[m]? = some h → HintPasses w (before ++ hs.take m) h := by
  induction hs with
  | nil => intro before off k b h; cases h
  | cons a t ih =>
    intro before off k b h
    rw [hintError] at h
    split at h
    · next hp =>
      rw [← List.reverse_concat] at h
      obtain ⟨n, rfl, hn, hbad, hgood⟩ := ih h
      refine ⟨n + 1, by omega, hn, by simpa using hbad, fun m x hm hx => ?_⟩
      match m with
      | 0 => cases hx; simpa using (hintPasses_iff w before a).1 hp
      | m + 1 => simpa using hgood m x (by omega) hx
    · next hp =>
      cases h
      exact ⟨0, rfl, rfl, by simpa using mt (hintPasses_iff w before a).2 hp, fun m _ hm => absurd hm (Nat.not_lt_zero m)⟩

theorem hintError_none {w : Word} {hs : List Word} : ∀ {before : List Word} {off : Nat},
    hintError w before.reverse off hs = none → ∀ m h, hs[m]? = some h → HintPasses w (before ++ hs.take m) h := by
  induction hs with
  | nil => intro before off _ m h hm; cases hm
  | cons a t ih =>
    intro before off h m x hx
    rw [hintError] at h
    split at h
    · next hp =>
      rw [← List.reverse_concat] at h
      match m with
      | 0 => cases hx; simpa using (hintPasses_iff w before a).1 hp
      | m + 1 => simpa using ih h m x hx
    · cases h

/-! ### The governed word -/

/-- The governed word is no instruction of the core (R44, R355). -/
def WordFault (complex : Bool) (w : Word) : Prop :=
  (∃ e, decodeWord w = .error e ∧
    ¬ (complex = false ∧ w.toNat / 2 ^ 26 = 0x33 ∧ 14 ≤ w.toNat / 2 ^ 8 % 16 ∧ ∃ i, decodeWord (w &&& 0xFFFFFF00) = .ok i)) ∨
  (complex = true ∧ illegalOnComplex w = true)

theorem isOk_iff {ε α : Type} {x : Except ε α} : x.isOk = true ↔ ∃ a, x = .ok a := by
  cases x <;> simp [Except.isOk, Except.toBool]

theorem isOk_ok {ε α : Type} (a : α) : (Except.ok a : Except ε α).isOk = true := rfl

theorem isOk_error {ε α : Type} (e : ε) : (Except.error e : Except ε α).isOk = false := rfl

theorem legalWord_iff (complex : Bool) (w : Word) : legalWord complex w = true ↔ ¬ WordFault complex w := by
  have hsub : bitsAt w.toNat 8 4 = w.toNat / 2 ^ 8 % 16 := rfl
  unfold legalWord judged WordFault
  rw [majorOf_eq, hsub]
  generalize w &&& 0xFFFFFF00 = v
  generalize w.toNat / 2 ^ 26 = major
  generalize w.toNat / 2 ^ 8 % 16 = sub
  match complex, hd : decodeWord w with
  | true, .ok i => simp [hd, isOk_ok]
  | true, .error e => simp [hd, isOk_error]
  | false, .ok i => simp [hd, isOk_ok]
  | false, .error e =>
    by_cases hp : major = 0x33 ∧ 14 ≤ sub
    · simp [hp, isOk_error, isOk_iff]
    · have hq : ¬ (major = 0x33 ∧ 14 ≤ sub ∧ ∃ i, decodeWord v = .ok i) := fun h => hp ⟨h.1, h.2.1⟩
      simp [hp, hq, hd, isOk_error]

/-! ### A run -/

theorem runFault_iff {complex : Bool} {hs : List Word} {w : Word} {n : Nat} : RunFault complex hs w n ↔
    (∃ h, hs[n]? = some h ∧ ¬ HintPasses w (hs.take n) h) ∨ (n = hs.length ∧ WordFault complex w) := by
  simp only [RunFault, HintPasses, not_not]
  rfl

theorem runError_some {complex : Bool} {hs : List Word} {w : Word} {n : Nat} {b : Word}
    (h : runError complex hs w = some (n, b)) : FirstFault complex hs w n b := by
  unfold runError at h
  split at h
  · next e he =>
    cases h
    obtain ⟨k, hk, hb, hbad, hgood⟩ := hintError_some (before := []) he
    obtain rfl : n = k := by omega
    have hlt := (List.getElem?_eq_some_iff.1 hb).1
    refine ⟨runFault_iff.2 (.inl ⟨b, hb, hbad⟩), fun m hm hf => ?_, by rw [List.getElem?_append_left hlt, hb]⟩
    obtain ⟨x, hx, hxbad⟩ | ⟨rfl, -⟩ := runFault_iff.1 hf
    · exact hxbad (hgood m x hm hx)
    · omega
  · next he =>
    split at h
    · cases h
    · next hl =>
      cases h
      refine ⟨runFault_iff.2 (.inr ⟨rfl, not_not.1 (mt (legalWord_iff complex w).2 hl)⟩), fun m hm hf => ?_, by simp⟩
      obtain ⟨x, hx, hxbad⟩ | ⟨rfl, -⟩ := runFault_iff.1 hf
      · exact hxbad (hintError_none (before := []) he m x hx)
      · omega

theorem runError_none {complex : Bool} {hs : List Word} {w : Word} (h : runError complex hs w = none) (n : Nat) :
    ¬ RunFault complex hs w n := by
  unfold runError at h
  split at h
  · cases h
  · next he =>
    split at h
    · next hl =>
      intro hf
      obtain ⟨x, hx, hxbad⟩ | ⟨-, hw⟩ := runFault_iff.1 hf
      · exact hxbad (hintError_none (before := []) he n x hx)
      · exact (legalWord_iff complex w).1 hl hw
    · cases h

/-- A run has at most one first illegal word. -/
theorem firstFault_unique {complex : Bool} {hs : List Word} {w : Word} {n m : Nat} {b c : Word}
    (hb : FirstFault complex hs w n b) (hc : FirstFault complex hs w m c) : (n, b) = (m, c) := by
  obtain ⟨hn, hnlt, hnb⟩ := hb
  obtain ⟨hm, hmlt, hmc⟩ := hc
  obtain rfl : n = m := by
    rcases Nat.lt_trichotomy n m with h | h | h
    · exact absurd hn (hmlt n h)
    · exact h
    · exact absurd hm (hnlt m h)
  rw [hnb] at hmc
  cases hmc
  rfl

/-- Settles O5: majors and hint words are refused by the table of majors; the decoder's search of a run stops at its first
illegal word. -/
theorem noInstructions : Obligations.NoInstructions := by
  refine ⟨fun w => decodeWord_illegal_major, fun w => decodeWord_hint, fun complex hs w _ _ => ?_⟩
  have hsome : ∀ n b, FirstFault complex hs w n b ↔ runError complex hs w = some (n, b) := by
    refine fun n b => ⟨fun hf => ?_, runError_some⟩
    match he : runError complex hs w with
    | none => exact absurd hf.1 (runError_none he n)
    | some (m, c) => rw [firstFault_unique hf (runError_some he)]
  refine ⟨⟨fun hno => ?_, runError_none⟩, hsome⟩
  match he : runError complex hs w with
  | none => rfl
  | some (m, c) => exact absurd (runError_some he).1 (hno m)

end Sys2Proof.Laws
end

section
/-!
PROOFS. No step stops: every instruction word answers a next state where a gather is latched, every event answers one in any
state, and what a step is about to run is an event or a word whose gather it has latched (R36, R44; log entry 3).
-/

namespace Sys2Proof.Machine

open Sys2Proof

/-- The machine goes on: the outcome is a next state. -/
def GoesOn (o : Host.Outcome State Fault Refusal) : Prop := ∃ t, o = .next t

theorem answers_ite {c : Prop} [Decidable c] {x y : Host.Outcome State Fault Refusal} (hx : GoesOn x) (hy : GoesOn y) :
    GoesOn (if c then x else y) := by
  split
  · exact hx
  · exact hy

/-- A gather is latched. -/
def State.Latched (s : State) : Prop := ∃ l, s.issue = some l

/-! ### The shared operations -/

section
variable {s : State} (h : s.Latched)
include h

theorem withGather_answers {f : Work → Host.Outcome State Fault Refusal} (hf : ∀ w, GoesOn (f w)) : GoesOn (withGather s f) := by
  obtain ⟨l, hl⟩ := h
  rw [withGather, hl]
  exact hf _

theorem alu1_answers (d : Dst) (a : Src) (f : PWord → PWord) :
    GoesOn (alu1 d a f s) := withGather_answers h fun _ => ⟨_, rfl⟩

theorem alu2_answers (d : Dst) (a b : Src) (f : PWord → PWord → PWord) :
    GoesOn (alu2 d a b f s) := withGather_answers h fun _ => ⟨_, rfl⟩

theorem alu3_answers (d : Reg) (a b : Src) (f : PWord → PWord → PWord → PWord) :
    GoesOn (alu3 d a b f s) := withGather_answers h fun _ => ⟨_, rfl⟩

theorem aluImm_answers (d : Dst) (a : Src) (signed : Bool) (imm : BitVec 12) (f : Word → Word → Word) :
    GoesOn (aluImm d a signed imm f s) := withGather_answers h fun _ => ⟨_, rfl⟩

theorem aluCount_answers (d : Dst) (a : Src) (b : Reg) (f : Word → Word → Word) :
    GoesOn (aluCount d a b f s) := alu2_answers h ..

theorem atomOp_answers (aop : BitVec 4) (d : Reg) (c : Quad) (ord : BitVec 2) (scope : BitVec 3) (use : Use) :
    GoesOn (atomOp aop d c ord scope use s) := withGather_answers h fun _ => ⟨_, rfl⟩

theorem xchRed_answers (d : Dst) (a : Src) (f : List (Option Word) → Word) :
    GoesOn (xchRed d a f s) := withGather_answers h fun _ => ⟨_, rfl⟩

theorem loadWord_answers (d : Dst) (flds : List Fld) (signed : Bool) (mk : Work → LRef → Acc) :
    GoesOn (loadWord d flds signed mk s) := withGather_answers h fun _ => ⟨_, rfl⟩

theorem loadWide_answers (d : Reg) (n : Nat) (flds : List Fld) (mk : Work → LRef → Acc) :
    GoesOn (loadWide d n flds mk s) := withGather_answers h fun _ => ⟨_, rfl⟩

theorem loadCap_answers (d : Reg) (flds : List Fld) (mk : Work → LRef → Acc) :
    GoesOn (loadCap d flds mk s) := withGather_answers h fun _ => ⟨_, rfl⟩

theorem capRead_answers (d a : Reg) (n : Nat) (f : Cap → List Word) :
    GoesOn (capRead d a n f s) := withGather_answers h fun _ => ⟨_, rfl⟩

theorem storeWordThen_answers (after : Work → Work) (d : Src) (n : Nat) (flds : List Fld) (mk : Work → LRef → Acc) :
    GoesOn (storeWordThen after d n flds mk s) := withGather_answers h fun _ => ⟨_, rfl⟩

theorem storeWord_answers (d : Src) (n : Nat) (flds : List Fld) (mk : Work → LRef → Acc) :
    GoesOn (storeWord d n flds mk s) := storeWordThen_answers h ..

theorem storeWide_answers (d : Reg) (n : Nat) (flds : List Fld) (mk : Work → LRef → Acc) :
    GoesOn (storeWide d n flds mk s) := withGather_answers h fun _ => ⟨_, rfl⟩

theorem storeQuad_answers (d : Reg) (flds : List Fld) (mk : Work → LRef → Acc) :
    GoesOn (storeQuad d flds mk s) := withGather_answers h fun _ => ⟨_, rfl⟩

theorem xchQuad_answers (d : Dst) (a : Src) (pick : Work → LRef → Nat) :
    GoesOn (xchQuad d a pick s) := withGather_answers h fun _ => ⟨_, rfl⟩

theorem xchShfl_answers (d : Dst) (a : Src) (b : Reg) (pick : Nat → Nat → Nat → Option Nat) :
    GoesOn (xchShfl d a b pick s) := withGather_answers h fun _ => ⟨_, rfl⟩

theorem capOp_answers (d a : Reg) (b : Option Reg) (verdict : State → LRef → Cap → Bool → PWord → Verdict) (result : State → LRef → Cap → Word → Cap) :
    GoesOn (capOp d a b verdict result s) := withGather_answers h fun _ => ⟨_, rfl⟩

theorem loadAcquire_answers (scope : BitVec 3) (d : Dst) (flds : List Fld) (mk : Work → LRef → Acc) :
    GoesOn (loadAcquire scope d flds mk s) := withGather_answers h fun _ => ⟨_, rfl⟩

theorem branchIf_answers (a : Reg) (disp : BitVec 19) (taken : Word → Bool) :
    GoesOn (branchIf a disp taken s) := withGather_answers h fun _ => ⟨_, rfl⟩

theorem setBoundsOp_answers (exact : Bool) (d a b : Reg) :
    GoesOn (setBoundsOp exact d a b s) := by
  unfold setBoundsOp
  exact capOp_answers h ..

theorem sealOp_answers (d a b : Reg) (checkA : Cap → Bool → Verdict) (checkB : Cap → Cap → Bool) (result : Cap → Cap → Cap) :
    GoesOn (sealOp d a b checkA checkB result s) := withGather_answers h fun _ => ⟨_, rfl⟩

theorem moveCopy_answers (copyIn : Bool) (d a b : Reg) :
    GoesOn (moveCopy copyIn d a b s) := withGather_answers h fun _ => ⟨_, rfl⟩

theorem onChannel_answers (n : Nat) (ws : List Nat) (f : Work → Nat → List LRef → Work) :
    GoesOn (onChannel n ws f s) := withGather_answers h fun _ => ⟨_, rfl⟩

theorem launchOp_answers (d a : Reg) (b : Option Reg) :
    GoesOn (launchOp d a b s) := withGather_answers h fun _ => ⟨_, rfl⟩

theorem openOp_answers (d a : Reg) :
    GoesOn (openOp d a s) := withGather_answers h fun _ => ⟨_, rfl⟩

theorem withComplex_answers (d : Reg) (width : Nat) {f : Work → LRef → Nat → Host.Outcome State Fault Refusal}
    (hf : ∀ w r k, GoesOn (f w r k)) : GoesOn (withComplex s d width f) := by
  refine withGather_answers h fun w => ?_
  split
  · exact ⟨_, rfl⟩
  · exact ⟨_, rfl⟩
  · exact hf ..

theorem complexOp_answers (d a : Reg) (reads : List Nat) (f : State → (Nat → Word) → Done) : GoesOn (complexOp s d a reads f) := by
  refine withComplex_answers h d 1 fun w _ _ => ?_
  dsimp only
  split
  · exact ⟨_, rfl⟩
  · split
    · exact ⟨_, rfl⟩
    · split <;> exact ⟨_, rfl⟩

theorem privRun_answers (reads : List Nat) (f : State → (Nat → Word) → Done) : GoesOn (privRun s reads f) :=
  complexOp_answers h ..

theorem voteWork_answers (flds : List Fld) (d : Option Dst) (a : Reg) {f : Work → Host.Outcome State Fault Refusal}
    (hf : ∀ w, GoesOn (f w)) : GoesOn (voteWork flds d a s f) := withGather_answers h fun _ => hf _

theorem xchVote_answers (d : Dst) (a : Reg) (f : List Word → Word) : GoesOn (xchVote d a f s) :=
  voteWork_answers h _ _ _ fun _ => ⟨_, rfl⟩

/-! ### The words whose meaning has branches of its own -/

theorem execFld_answers (d : Dst) (l : BitVec 3) (k : Bool) (imm : BitVec 15) : GoesOn (execFld d l k imm s) := by
  unfold execFld
  split
  · exact loadCap_answers h ..
  · exact loadWord_answers h ..

theorem execFst_answers (d : Src) (l : BitVec 3) (k : Bool) (imm : BitVec 15) : GoesOn (execFst d l k imm s) := by
  unfold execFst
  split
  · exact storeQuad_answers h ..
  · exact storeWord_answers h ..

theorem execLoop_answers (d : Reg) (len : BitVec 6) : GoesOn (execLoop d len s) := by
  refine withGather_answers h fun w => ?_
  dsimp only
  split
  · exact ⟨_, rfl⟩
  · split <;> exact ⟨_, rfl⟩

theorem execSrd_answers (d : Dst) (id : BitVec 8) : GoesOn (execSrd d id s) := by
  refine withGather_answers h fun w => ?_
  dsimp only
  split_ifs <;> exact ⟨_, rfl⟩

theorem execSwr_answers (id : BitVec 8) (a : Src) : GoesOn (execSwr id a s) := by
  refine withGather_answers h fun w => ?_
  dsimp only
  split_ifs <;> exact ⟨_, rfl⟩

theorem execRgn_answers (cnt : BitVec 2) (q0 : Quad) (q1 : Quad) (q2 : Quad) (q3 : Quad) (sl : BitVec 4) : GoesOn (execRgn cnt q0 q1 q2 q3 sl s) := by
  refine withGather_answers h fun w => ?_
  dsimp only
  split
  · exact ⟨_, rfl⟩
  · exact ⟨_, rfl⟩
  · exact answers_ite ⟨_, rfl⟩ ⟨_, rfl⟩

theorem execYield_answers : GoesOn (execYield s) := by
  refine withGather_answers h fun w => ?_
  dsimp only
  split <;> exact ⟨_, rfl⟩

theorem execGbar_answers : GoesOn (execGbar s) := by
  refine withGather_answers h fun w => ?_
  dsimp only
  split
  · exact ⟨_, rfl⟩
  · split <;> exact ⟨_, rfl⟩

theorem execHalt_answers : GoesOn (execHalt s) := by
  refine withGather_answers h fun w => ?_
  dsimp only
  split <;> exact ⟨_, rfl⟩

theorem execEvwait_answers (d : Reg) : GoesOn (execEvwait d s) := by
  refine withComplex_answers h d 4 fun w _ k => ?_
  dsimp only
  split <;> exact ⟨_, rfl⟩

theorem execQlock_answers (a : Reg) : GoesOn (execQlock a s) := by
  refine withComplex_answers h 0 0 fun w _ k => ?_
  dsimp only
  split
  · exact ⟨_, rfl⟩
  · split_ifs <;> exact ⟨_, rfl⟩

theorem execQunlock_answers (a : Reg) : GoesOn (execQunlock a s) := by
  refine withComplex_answers h 0 0 fun w _ k => ?_
  dsimp only
  split
  · exact ⟨_, rfl⟩
  · split_ifs <;> exact ⟨_, rfl⟩

end

/-! ### Every instruction and event -/

/-- Every instruction word answers a next state where its gather is latched. -/

theorem exec_word_answers (i : Instr) (hi : isEvent i = false) {s : State} (h : s.Latched) : GoesOn (exec i s) := by
  delta exec
  cases i with
  | iadd | isub | imul | imulh | nmulh | imin | imax | nmin | nmax | and | or | xor | andn | iadds | isubs | icmpEq
    | icmpNe | icmpLt | icmpLe | icmpGt | icmpGe | icmpLtn | icmpLen | icmpGtn | icmpGen | fcmpEq | fcmpNe | fcmpLt
    | fcmpLe | fcmpGt | fcmpGe | fcmpUn | fadd | fsub | fmul | fmin | fmax | fsgn | packF16 | packE8m7 | haddF16
    | hmulF16 | hminF16 | hmaxF16 | haddE8m7 | hmulE8m7 | hminE8m7 | hmaxE8m7 => exact alu2_answers h ..
  | imad | bfi | ffma | ffms | hfmaF16 | hdotF16 | hfmaE8m7 | hdotE8m7 => exact alu3_answers h ..
  | iabs | ineg | not | popc | clz | brev | mov | fabs | fneg | frcp | frsq | fsqrt | fexp2 | flog2 | fsin | fcos
    | ftanh | ffloor | fceil | ftrunc | frint | fclass | cvtF32I32 | cvtF32N32 | cvtI32F32 | cvtN32F32 | cvtI32F32Rn
    | cvtF16F32 | cvtF32F16 | cvtE8m7F32 | cvtF32E8m7 | sext8 | sext16 | zext8 | zext16 | chpush | chpop | chpeek => exact alu1_answers h ..
  | shl | shr | sar | rotl | bfe | fscale => exact aluCount_answers h ..
  | sel | matchLane | movi | bra | call | bri | calli | rcvwait | trap | rcvset | cmov | cdisp | cpycvt | cpywait
    | pres | pclr | chbind | chstat | barinit | bararr | barwait | barsync | bardrop | cvinit | cvsign | strag | mx
    | mxwait | mxzero | join | jpoll | nemit | bound | incrd | incimp | arjoin | arseal | arvote | arabort | arstat
    | fence | csum | dbgmark | perf | bkpt | ret | exit | killpt | nop | rft | btake | bpass | fenceop
    | illegalInstruction => exact withGather_answers h fun _ => ⟨_, rfl⟩
  | qswpH | qswpV | qswpD | qbc => exact xchQuad_answers h ..
  | shflIdx | shflUp | shflDn | shflXor => exact xchShfl_answers h ..
  | voteAny | voteAll | voteEq => exact xchVote_answers h ..
  | voteMask => exact voteWork_answers h _ _ _ fun _ => ⟨_, rfl⟩
  | redIadd | redImin | redImax | redFadd | redFmin | redFmax => exact xchRed_answers h ..
  | iaddi | andi | ori | xori | shli | shri | sari | imuli => exact aluImm_answers h ..
  | ldb | ldbn | ldh | ldhn | ldw => exact loadWord_answers h ..
  | ldd | ldq => exact loadWide_answers h ..
  | ldc => exact loadCap_answers h ..
  | stb | sth | stw | stl => exact storeWord_answers h ..
  | std | stq => exact storeWide_answers h ..
  | stc => exact storeQuad_answers h ..
  | fld => exact execFld_answers h ..
  | fst => exact execFst_answers h ..
  | atomAdd | atomAnd | atomOr | atomXor | atomMin | atomMax | atomNmin | atomNmax | atomSwap | atomCas | atomFadd
    | atomFmin | atomFmax => exact atomOp_answers h ..
  | lda | lds => exact loadAcquire_answers h ..
  | sts => exact storeWordThen_answers h ..
  | brz | brnz => exact branchIf_answers h ..
  | loop => exact execLoop_answers h ..
  | cadd | candp | csetc => exact capOp_answers h ..
  | csetb | csetbx => exact setBoundsOp_answers h ..
  | cbase | clen | ccur | cperm | ctag => exact capRead_answers h ..
  | cseal | cunseal => exact sealOp_answers h ..
  | cpyin | cpyout => exact moveCopy_answers h ..
  | chclose | chfree => exact onChannel_answers h ..
  | launch | launcha => exact launchOp_answers h ..
  | aropen | aropenReopen => exact openOp_answers h ..
  | srd => exact execSrd_answers h ..
  | swr => exact execSwr_answers h ..
  | evwait => exact execEvwait_answers h ..
  | qlock => exact execQlock_answers h ..
  | qunlock => exact execQunlock_answers h ..
  | ctxrunRun | ctxrunHalt | ctxrunResume | ctxrunSave | ctxrunDump | ctxrunKill | ctxrunState => exact complexOp_answers h ..
  | rgn => exact execRgn_answers h ..
  | yield => exact execYield_answers h
  | gbar => exact execGbar_answers h
  | halt => exact execHalt_answers h
  | privTlbInvalidateAll | privTlbInvalidateAsid | privTlbInvalidateRange | privIdentifierEntry | privKeyLoad
    | privKeyDestroy | privPlantBreakpoint | privRemoveBreakpoint | privRevokeDebug | privEngineReset | privDerate
    | privFaultReplay | privFaultFail | privReadFaultRecord | privPoolQuery | privQueueDisable | privQueueActivate
    | privMsix | privHandover => exact privRun_answers h ..
  | _ => exact nomatch hi

/-- Every event answers a next state. -/
theorem exec_event_answers (i : Instr) (hi : isEvent i = true) (s : State) : GoesOn (exec i s) := by
  delta exec
  cases i with
  | mxOperandWaitEnd | mxComputeEnd | copyAdvance | copyComplete | asyncTrapDelivery | foragerDeal | contextCompletion
    | binTimerExpiry | improvementReachesDie | killTakesEffect | regionInstallComplete | regionAbortDelivery
    | remoteDataReturn | remoteAccessTimeout | derateTakesEffect | windowSlotAgeGrant | shortLivedExpiry | haltComplete
    | rowEviction | eventDelivery | ktimerExpiry | watchdogExpiry | imemUncorrectableError | queueTableError | doorbell
    | apertureAccess | hostRegisterWrite | leaseResetRequest | fwstart | powerOn | correctedError | uncorrectableError
    | ceWindowEnd | inputVoltageOutOfRange | powerWindowEnd | inletOverTemperature | cicadaClockGate | cicadaPowerGate
    | hangReport | linkDown | linkRetrain | i3cDomidWrite | i3cLeasereq | entdaa | rstdaa | setdasa | getpid | getbcr
    | getdcr | getstatus | scrubComplete | fabricRouteLost | fabricRouteRestored | remoteAccessRequest
    | remoteRegionMessage => exact ⟨_, rfl⟩
  | _ => exact nomatch hi

theorem exec_answers (i : Instr) (s : State) (h : isEvent i = false → s.Latched) : GoesOn (exec i s) := by
  cases he : isEvent i with
  | false => exact exec_word_answers i he (h he)
  | true => exact exec_event_answers i he s

/-! ### What a step is about to run -/

/-- What is run is an event, or a word whose gather is latched. -/
def Prep.Runnable : Prep → Prop
  | .settled _ => True
  | .run t i => isEvent i = false → t.Latched

theorem instrOf_issue (w : Work) (k : Bool) (word : Word) (e : Option (Nat × Word)) : (instrOf w k word e).1.issue = w.s.issue := by
  unfold instrOf; split <;> rfl

theorem runnable_settled (t : State) : (Prep.settled t).Runnable := True.intro

theorem Prep.Runnable.latched {p : Prep} (hp : p.Runnable) {t : State} {i : Instr} (he : p = .run t i) (hi : isEvent i = false) :
    t.Latched := by
  subst he
  exact hp hi

theorem runnable_ite {c : Prop} [Decidable c] {x y : Prep} (hx : x.Runnable) (hy : y.Runnable) :
    (if c then x else y).Runnable := by
  split
  · exact hx
  · exact hy

theorem runnable_list {α : Type} {l : List α} {x : Prep} {f : α → List α → Prep} (hx : x.Runnable)
    (hf : ∀ a t, (f a t).Runnable) : (match l with | [] => x | a :: t => f a t).Runnable := by
  cases l with
  | nil => exact hx
  | cons a t => exact hf a t

theorem latch_runnable (s : State) (agent : Agent) (row : Nat) (lanes : List LRef) (pc : DWord) :
    (s.latch agent row lanes pc).Runnable := by
  unfold State.latch
  extract_lets k w w' inBody plain once plain' begun
  split
  extract_lets bodies fetched cands apart
  clear_value cands
  split
  · exact runnable_settled _
  · split
    extract_lets live issued
    split
    extract_lets live' l
    split
    · exact runnable_settled _
    · exact fun _ => ⟨_, instrOf_issue ..⟩

theorem issueCore_runnable (s : State) (c : Nat) : (s.issueCore c).Runnable := by
  unfold State.issueCore
  extract_lets braked brake s' tick
  split
  · exact runnable_settled _
  · split
    · exact runnable_settled _
    · extract_lets pc now s₁ s₂ s₃
      split
      · exact runnable_settled _
      · next t i he => exact fun hi => show t.Latched from Prep.Runnable.latched (latch_runnable ..) he hi

theorem issueKcore_runnable (s : State) (k : Nat) : (s.issueKcore k).Runnable := by
  unfold State.issueKcore
  dsimp only
  split
  · exact latch_runnable ..
  · exact runnable_settled _

theorem prepare_runnable (s : State) : s.prepare.Runnable := by
  unfold State.prepare
  dsimp only
  split
  · exact runnable_settled _
  · exact issueCore_runnable ..
  · exact issueKcore_runnable ..
  · split
    · next hi => exact fun h => absurd (hi.symm.trans h) (by decide)
    · exact runnable_settled _
  · exact runnable_settled _
  · exact runnable_settled _
  · exact runnable_settled _

/-- Settles O6: a step settles, or runs what answers. -/
theorem everyStepGoesOn : Obligations.EveryStepGoesOn := by
  intro s
  have hr := prepare_runnable s
  unfold State.goesOn step
  split
  · exact ⟨_, rfl⟩
  · next t i he =>
    rw [he] at hr
    obtain ⟨u, hu⟩ := exec_answers i t hr
    rw [hu]
    exact ⟨_, rfl⟩

end Sys2Proof.Machine
end

section
/-!
PROOFS. The integer instructions and the immediate ones (R97, R100): the words that the model computes, written as the tables of
the claims have them, and with them what each instruction gives every lane of a ready gather.
-/

namespace Sys2Proof.Machine

open Sys2Proof Sys2Proof.Machine.Claims

/-! ### Results of one register -/

/-- An instruction that is one operation over one source gives every lane the operation's result. -/
theorem gives_of_alu1 {i : Instr} {s : State} {l : Latch} {d a : Reg} {f : PWord → PWord} (hr : Ready s l)
    (hf : InRange s l (fDA d a)) (he : exec i s = alu1 (.reg d) (.reg a) f s) :
    Gives i s l d fun r => f (rd s l r codeA a) := by
  obtain ⟨t, ht, hother, hlane⟩ := alu1_regs hr d a hf f
  exact ⟨t, he.trans ht, hother, hlane⟩

/-- The model's operations and the claims' handle the poison of one operand alike, so only the words are to be compared. -/
theorem alu1_pure1 {f g : Word → Word} (h : ∀ x, f x = g x) (d : Dst) (a : Src) (s : State) :
    alu1 d a (pure1 f) s = alu1 d a (op1 g) s := by
  obtain rfl : f = g := funext h
  rfl

/-- The same of three operands. -/
theorem alu3_pure3 {f g : Word → Word → Word → Word} (h : ∀ x y z, f x y z = g x y z) (d : Reg) (a b : Src) (s : State) :
    alu3 d a b (pure3 f) s = alu3 d a b (op3 g) s := by
  obtain rfl : f = g := funext fun x => funext₂ (h x)
  rfl

/-! ### The words of two sources -/

theorem add_eq_ofNat (x y : Word) : x + y = BitVec.ofNat 32 (x.toNat + y.toNat) :=
  BitVec.eq_of_toNat_eq (by rw [BitVec.toNat_add, BitVec.toNat_ofNat])

theorem mul_eq_ofNat (x y : Word) : x * y = BitVec.ofNat 32 (x.toNat * y.toNat) :=
  BitVec.eq_of_toNat_eq (by rw [BitVec.toNat_mul, BitVec.toNat_ofNat])

theorem mul_add_eq_ofNat (x y z : Word) : x * y + z = BitVec.ofNat 32 (x.toNat * y.toNat + z.toNat) :=
  BitVec.eq_of_toNat_eq (by rw [BitVec.toNat_add, BitVec.toNat_mul, BitVec.toNat_ofNat, Nat.mod_add_mod])

theorem sub_eq_ofInt (x y : Word) : x - y = BitVec.ofInt 32 ((x.toNat : Int) - y.toNat) :=
  BitVec.eq_of_toNat_eq (by rw [BitVec.toNat_sub, BitVec.toNat_ofInt]; omega)

theorem satI32_eq_clampS (x : Int) : satI32 x = clampS x := by
  refine congrArg (BitVec.ofInt 32) ?_
  split_ifs <;> omega

theorem lesserN_eq (x y : Word) : lesserN x y = if y.toNat < x.toNat then y else x := by
  simp only [lesserN, asN32, Int.ofNat_lt]

theorem greaterN_eq (x y : Word) : greaterN x y = if x.toNat < y.toNat then y else x := by
  simp only [greaterN, asN32, gt_iff_lt, Int.ofNat_lt]

/-! ### The words of one source -/

theorem neg_eq_ofInt (x : Word) : 0 - x = BitVec.ofInt 32 (-x.toInt) := by
  rw [BitVec.ofInt_neg, BitVec.ofInt_toInt]
  exact BitVec.zero_sub x

theorem absWord_eq (x : Word) : wrap32 ((asI32 x).natAbs : Int) = if x.toInt < 0 then BitVec.ofInt 32 (-x.toInt) else x := by
  show BitVec.ofInt 32 (x.toInt.natAbs : Int) = _
  split
  · next h => rw [Int.ofNat_natAbs_of_nonpos h.le]
  · next h => rw [Int.natAbs_of_nonneg (not_lt.1 h), BitVec.ofInt_toInt]

theorem popcWord_eq (x : Word) : popcWord x = BitVec.ofNat 32 (((List.range 32).map fun i => (x.getLsbD i).toNat).sum) := by
  refine congrArg (BitVec.ofNat 32) ?_
  rw [upto, ← List.countP_eq_length_filter]
  generalize List.range 32 = l
  induction l with
  | nil => rfl
  | cons i t ih => cases h : x.getLsbD i <;> simp [h, ih, Nat.add_comm]

/-- A word's highest bit that is set is its logarithm, and no bit above is. -/
theorem clzWord_eq (x : Word) : clzWord x = BitVec.ofNat 32 (if x = 0 then 32 else 31 - Nat.log2 x.toNat) := by
  refine congrArg (BitVec.ofNat 32) ?_
  split
  · next h => subst h; decide
  · next h =>
    have hx : x.toNat ≠ 0 := fun h0 => h (BitVec.eq_of_toNat_eq h0)
    have hlog : Nat.log2 x.toNat < 32 := (Nat.log2_lt hx).2 x.isLt
    have hfind : (upto 32).find? (fun i => x.getLsbD (31 - i)) = some (31 - Nat.log2 x.toNat) := by
      rw [upto, List.find?_range_eq_some]
      refine ⟨?_, List.mem_range.2 (by omega), fun j hj => ?_⟩
      · rw [show 31 - (31 - Nat.log2 x.toNat) = Nat.log2 x.toNat by omega, BitVec.getLsbD, Nat.testBit_log2 hx]
      · have hlt : x.toNat < 2 ^ (31 - j) := (Nat.log2_lt hx).1 (by omega)
        rw [BitVec.getLsbD, Nat.testBit_lt_two_pow hlt]; rfl
    rw [hfind, Option.getD_some]

/-- The bits set by a fold that sets, one after another, those that a test selects. -/
theorem getLsbD_foldl_setBit (p : Nat → Bool) (i : Nat) (hi : i < 32) : ∀ (l : List Nat) (w : Word),
    (l.foldl (fun x j => if p j then x ||| (1#32 <<< j) else x) w).getLsbD i = (w.getLsbD i || (l.contains i && p i))
  | [], w => by simp
  | j :: t, w => by
    rw [List.foldl_cons, getLsbD_foldl_setBit p i hi t]
    by_cases hj : i = j
    · subst hj
      cases p i <;> simp [hi]
    · have hbit : (1#32 <<< j).getLsbD i = false := by
        rw [BitVec.getLsbD_shiftLeft, BitVec.getLsbD_one]
        by_cases h : i < j <;> simp [h]; omega
      cases p j <;> simp [hj, hbit]

theorem brevWord_eq (x : Word) : brevWord x = x.reverse := by
  refine BitVec.eq_of_getLsbD_eq fun i hi => ?_
  rw [brevWord, getLsbD_foldl_setBit (fun j => x.getLsbD (31 - j)) i hi, BitVec.getLsbD_reverse, BitVec.getMsbD]
  simp [upto, hi]

/-! ### The instructions -/

/-- Every integer instruction of two sources is one operation over A and B, with any operands (R97). -/
theorem exec_intOps : ∀ e ∈ intOps, ∀ (d : Dst) (a b : Src) (s : State), exec (e.1 d a b) s = alu2 d a b (op2 e.2) s := by
  simp only [intOps, List.forall_mem_cons]
  refine ⟨?iadd, ?isub, ?imul, ?imulh, ?nmulh, ?imin, ?imax, ?nmin, ?nmax, ?and, ?or, ?xor, ?andn, ?iadds, ?isubs,
    List.forall_mem_nil _⟩
  case iadd => exact alu2_pure2 add_eq_ofNat
  case isub => exact alu2_pure2 sub_eq_ofInt
  case imul => exact alu2_pure2 mul_eq_ofNat
  case imulh => exact alu2_pure2 (f := imulhWord) fun _ _ => rfl
  case nmulh => exact alu2_pure2 (f := nmulhWord) fun _ _ => rfl
  case imin => exact alu2_pure2 (f := lesserS) fun _ _ => rfl
  case imax => exact alu2_pure2 (f := greaterS) fun _ _ => rfl
  case nmin => exact alu2_pure2 lesserN_eq
  case nmax => exact alu2_pure2 greaterN_eq
  case and => exact alu2_pure2 (f := (· &&& ·)) fun _ _ => rfl
  case or => exact alu2_pure2 (f := (· ||| ·)) fun _ _ => rfl
  case xor => exact alu2_pure2 (f := (· ^^^ ·)) fun _ _ => rfl
  case andn => exact alu2_pure2 (f := fun x y => x &&& ~~~y) fun _ _ => rfl
  case iadds => exact alu2_pure2 fun x y => satI32_eq_clampS (x.toInt + y.toInt)
  case isubs => exact alu2_pure2 fun x y => satI32_eq_clampS (x.toInt - y.toInt)

/-- Every integer instruction of one source is one operation over A, with any operands (R97). -/
theorem exec_intOps1 : ∀ e ∈ intOps1, ∀ (d : Dst) (a : Src) (s : State), exec (e.1 d a) s = alu1 d a (op1 e.2) s := by
  simp only [intOps1, List.forall_mem_cons]
  refine ⟨?iabs, ?ineg, ?not, ?popc, ?clz, ?brev, ?mov, List.forall_mem_nil _⟩
  case iabs => exact alu1_pure1 absWord_eq
  case ineg => exact alu1_pure1 neg_eq_ofInt
  case not => exact alu1_pure1 (f := fun x => ~~~x) fun _ => rfl
  case popc => exact alu1_pure1 popcWord_eq
  case clz => exact alu1_pure1 clzWord_eq
  case brev => exact alu1_pure1 brevWord_eq
  case mov => exact alu1_pure1 (f := id) fun _ => rfl

/-- Settles O15: each instruction is one operation over its sources, whose word is the integers' result narrowed. -/
theorem integerResults : Obligations.IntegerResults :=
  ⟨fun e he _ _ _ _ _ hr hf => gives_of_alu2 hr hf (exec_intOps e he ..),
   fun e he _ _ _ _ hr hf => gives_of_alu1 hr hf (exec_intOps1 e he ..)⟩

/-! ### Immediates -/

/-- The immediate of a lane is the one that the claims give it (R23, R37, R128). -/
theorem imm12_eq_immOf (s : State) (l : Latch) (r : LRef) (signed : Bool) (imm : BitVec 12) :
    (s.work l).imm12 r signed imm = immOf s l r signed imm := by
  unfold Work.imm12 immOf
  show (match l.hints.wide with | some p => _ | none => _) = _
  cases l.hints.wide with
  | some p => rfl
  | none =>
    cases signed
    · exact BitVec.eq_of_toNat_eq ((BitVec.toNat_setWidth ..).trans (BitVec.toNat_ofNat ..).symm)
    · rfl

/-- An instruction that is one operation over A and the immediate gives every lane the operation's result. -/
theorem gives_of_aluImm {i : Instr} {s : State} {l : Latch} {d a : Reg} {signed : Bool} {imm : BitVec 12}
    {f : Word → Word → Word} (hr : Ready s l) (hf : InRange s l (fDA d a))
    (he : exec i s = aluImm (.reg d) (.reg a) signed imm f s) :
    Gives i s l d fun r => op1 (fun x => f x (immOf s l r signed imm)) (rd s l r codeA a) := by
  obtain ⟨t, ht, hother, hlane⟩ := aluImm_regs hr d a signed imm hf f
  refine ⟨t, he.trans ht, hother, fun r h => (hlane r h).trans ?_⟩
  rw [imm12_eq_immOf]
  rfl

theorem aluImm_congr {f g : Word → Word → Word} (h : ∀ x y, f x y = g x y) (d : Dst) (a : Src) (signed : Bool) (imm : BitVec 12)
    (s : State) : aluImm d a signed imm f s = aluImm d a signed imm g s := by
  obtain rfl : f = g := funext₂ h
  rfl

/-- Every immediate instruction is one operation over A and its immediate (R100). -/
theorem exec_immOps : ∀ e ∈ immOps, ∀ (d : Dst) (a : Src) (imm : BitVec 12) (s : State),
    exec (e.1 d a imm) s = aluImm d a e.2.1 imm e.2.2 s := by
  simp only [immOps, List.forall_mem_cons]
  refine ⟨?iaddi, ?andi, ?ori, ?xori, ?imuli, ?shli, ?shri, ?sari, List.forall_mem_nil _⟩
  case iaddi => exact fun d a imm s => aluImm_congr (f := (· + ·)) (fun _ _ => rfl) d a true imm s
  case andi => exact fun d a imm s => aluImm_congr (f := (· &&& ·)) (fun _ _ => rfl) d a false imm s
  case ori => exact fun d a imm s => aluImm_congr (f := (· ||| ·)) (fun _ _ => rfl) d a false imm s
  case xori => exact fun d a imm s => aluImm_congr (f := (· ^^^ ·)) (fun _ _ => rfl) d a false imm s
  case imuli => exact fun d a imm s => aluImm_congr (f := (· * ·)) (fun _ _ => rfl) d a true imm s
  case shli => exact fun d a imm s => aluImm_congr shlWord_eq d a false imm s
  case shri => exact fun d a imm s => aluImm_congr shrWord_eq d a false imm s
  case sari => exact fun d a imm s => aluImm_congr sarWord_eq d a false imm s

theorem exec_movi (d : Dst) (imm : BitVec 12) (s : State) : exec (.movi d imm) s = execMovi d imm s := rfl

/-- movi has no source: every lane receives its immediate. -/
theorem gives_movi {s : State} {l : Latch} {d : Reg} (imm : BitVec 12) (hr : Ready s l) (hf : InRange s l [rfld codeD d]) :
    Gives (.movi (.reg d) imm) s l d fun r => ⟨immOf s l r true imm, false⟩ := by
  obtain ⟨s0, h0, hb⟩ := sources_inRange (flds := dstFlds (.reg d)) hf (some (.reg d)) rfl
  refine gives_of_writeDst hr h0 ((exec_movi ..).trans ?_)
  simp only [execMovi, withGather_latched hr.latched, hb, h0.imm12, imm12_eq_immOf]

/-- Settles O22: each is one operation over A and the immediate, and movi gives the immediate itself. -/
theorem immediateResults : Obligations.ImmediateResults :=
  ⟨fun e he _ _ _ _ _ hr hf => gives_of_aluImm hr hf (exec_immOps e he ..), fun _ imm _ _ hr hf => gives_movi imm hr hf⟩

end Sys2Proof.Machine
end

section
/-!
PROOFS. Words of a floating-point format in the order of their values (R62, R103): the magnitude of a word, as an integer
multiple of the least subnormal, grows with the word, so the comparison of two values is that of two signed integers.
-/

namespace Sys2Proof.Machine

open Sys2Proof Sys2Proof.Machine.Claims

/-! ### Reading a word by its sign and its magnitude -/

/-- A word's bits below its sign. -/
def Fmt.mag (f : Fmt) (x : Nat) : Nat := x % 2 ^ (f.m + f.ebits)

/-- A word's sign. -/
def Fmt.neg (f : Fmt) (x : Nat) : Bool := x / 2 ^ (f.m + f.ebits) % 2 == 1

/-- The mantissa of a magnitude, its hidden bit with it. -/
def Fmt.mant (f : Fmt) (g : Nat) : Nat := g % 2 ^ f.m + if g / 2 ^ f.m = 0 then 0 else 2 ^ f.m

/-- The exponent of a magnitude above that of the subnormals. -/
def Fmt.scale (f : Fmt) (g : Nat) : Nat := g / 2 ^ f.m - 1

/-- A magnitude in units of the least subnormal. -/
def Fmt.units (f : Fmt) (g : Nat) : Nat := f.mant g * 2 ^ f.scale g

/-- The least exponent of the format. -/
def Fmt.low (f : Fmt) : Int := 1 - f.bias - f.m

theorem Fmt.mag_mod (f : Fmt) (x : Nat) : f.mag x % 2 ^ f.m = x % 2 ^ f.m := by
  rw [Fmt.mag, pow_add, Nat.mod_mul_right_mod]

theorem Fmt.mag_div (f : Fmt) (x : Nat) : f.mag x / 2 ^ f.m = x / 2 ^ f.m % 2 ^ f.ebits := by
  rw [Fmt.mag, pow_add, Nat.mod_mul_right_div_self]

theorem Fmt.mag_split (f : Fmt) (x : Nat) : f.mag x = x / 2 ^ f.m % 2 ^ f.ebits * 2 ^ f.m + x % 2 ^ f.m := by
  rw [← f.mag_div, ← f.mag_mod]; exact (Nat.div_add_mod' ..).symm

theorem nanIn_iff (f : Fmt) (x : Nat) : nanIn f x = true ↔ f.emax * 2 ^ f.m < f.mag x := by
  simp only [nanIn, decide_eq_true_eq]; rfl

/-- The exponent field is at its maximum from the infinities on. -/
theorem Fmt.emax_le_iff (f : Fmt) (x : Nat) : f.emax * 2 ^ f.m ≤ f.mag x ↔ x / 2 ^ f.m % 2 ^ f.ebits = f.emax := by
  have hle : x / 2 ^ f.m % 2 ^ f.ebits ≤ f.emax := Nat.le_sub_one_of_lt (Nat.mod_lt _ (Nat.two_pow_pos _))
  rw [← Nat.le_div_iff_mul_le (Nat.two_pow_pos _), f.mag_div]
  omega

theorem Fmt.mag_eq_emax_add (f : Fmt) {x : Nat} (he : x / 2 ^ f.m % 2 ^ f.ebits = f.emax) :
    f.mag x = f.emax * 2 ^ f.m + x % 2 ^ f.m := by
  rw [f.mag_split, he]

theorem Fmt.read_nan {f : Fmt} {x : Nat} (h : nanIn f x = true) : f.read x = .nan := by
  rw [nanIn_iff] at h
  have he := (f.emax_le_iff x).1 h.le
  have hfrac : x % 2 ^ f.m ≠ 0 := by rw [f.mag_eq_emax_add he] at h; omega
  simp only [Fmt.read, he, if_true, hfrac, if_false]

theorem Fmt.read_inf {f : Fmt} {x : Nat} (h : f.mag x = f.emax * 2 ^ f.m) : f.read x = .inf (f.neg x) := by
  have he := (f.emax_le_iff x).1 h.ge
  have hfrac : x % 2 ^ f.m = 0 := by rw [f.mag_eq_emax_add he] at h; omega
  simp only [Fmt.read, he, if_true, hfrac]
  rfl

theorem Fmt.read_fin {f : Fmt} {x : Nat} (h : f.mag x < f.emax * 2 ^ f.m) :
    f.read x = .fin (f.neg x) (f.mant (f.mag x)) (f.low + f.scale (f.mag x)) := by
  have he : x / 2 ^ f.m % 2 ^ f.ebits ≠ f.emax := fun he => absurd ((f.emax_le_iff x).2 he) (by omega)
  have hneg : (x / f.signBit % 2 == 1) = f.neg x := rfl
  simp only [Fmt.read, if_neg he, Fmt.mant, Fmt.scale, Fmt.low, f.mag_mod, f.mag_div, hneg]
  by_cases hz : x / 2 ^ f.m % 2 ^ f.ebits = 0
  · simp only [hz, if_true, Nat.zero_sub, Nat.cast_zero, add_zero]
  · simp only [if_neg hz, FVal.fin.injEq]
    exact ⟨trivial, Nat.add_comm .., by omega⟩

theorem Fmt.read_eq_nan_iff {f : Fmt} {x : Nat} : f.read x = .nan ↔ nanIn f x = true := by
  refine ⟨fun h => ?_, Fmt.read_nan⟩
  rw [nanIn_iff]
  by_contra hc
  rcases Nat.lt_or_eq_of_le (not_lt.1 hc) with hlt | heq
  · rw [Fmt.read_fin hlt] at h; cases h
  · rw [Fmt.read_inf heq] at h; cases h

/-! ### Magnitudes order as their values do -/

theorem Fmt.mant_lt (f : Fmt) (g : Nat) : f.mant g < 2 ^ (f.m + 1) := by
  have := Nat.mod_lt g (Nat.two_pow_pos f.m)
  rw [pow_succ, Fmt.mant]; split <;> omega

theorem Fmt.units_lt_units {f : Fmt} {g h : Nat} (hgh : g < h) : f.units g < f.units h := by
  have hdiv : g / 2 ^ f.m ≤ h / 2 ^ f.m := Nat.div_le_div_right hgh.le
  unfold Fmt.units
  rcases Nat.lt_or_eq_of_le hdiv with hlt | heq
  · have hscale : f.mant g * 2 ^ f.scale g < 2 ^ f.m * 2 ^ (h / 2 ^ f.m - 1) := by
      by_cases hz : g / 2 ^ f.m = 0
      · have hm : f.mant g < 2 ^ f.m := by
          rw [Fmt.mant, if_pos hz]; exact Nat.mod_lt _ (Nat.two_pow_pos _)
        rw [Fmt.scale, hz, Nat.zero_sub, pow_zero, Nat.mul_one]
        exact hm.trans_le (Nat.le_mul_of_pos_right _ (Nat.two_pow_pos _))
      · calc f.mant g * 2 ^ f.scale g
          _ < 2 ^ (f.m + 1) * 2 ^ f.scale g := Nat.mul_lt_mul_of_pos_right (f.mant_lt g) (Nat.two_pow_pos _)
          _ = 2 ^ f.m * 2 ^ (g / 2 ^ f.m) := by
            rw [← pow_add, ← pow_add, Fmt.scale, Nat.add_assoc, Nat.add_sub_cancel' (Nat.one_le_iff_ne_zero.2 hz)]
          _ ≤ 2 ^ f.m * 2 ^ (h / 2 ^ f.m - 1) :=
            Nat.mul_le_mul_left _ (Nat.pow_le_pow_right (by decide) (Nat.le_sub_one_of_lt hlt))
    refine hscale.trans_le (Nat.mul_le_mul_right _ ?_)
    rw [Fmt.mant, if_neg (Nat.ne_zero_of_lt hlt)]; exact Nat.le_add_left ..
  · have hmod : g % 2 ^ f.m < h % 2 ^ f.m := by
      have hg := Nat.div_add_mod g (2 ^ f.m)
      have hh := Nat.div_add_mod h (2 ^ f.m)
      rw [heq] at hg; omega
    rw [Fmt.scale, heq, ← Fmt.scale]
    refine Nat.mul_lt_mul_of_pos_right ?_ (Nat.two_pow_pos _)
    simp only [Fmt.mant, heq]; omega

theorem Fmt.units_lt_iff {f : Fmt} {g h : Nat} : f.units g < f.units h ↔ g < h := by
  refine ⟨fun hu => ?_, Fmt.units_lt_units⟩
  by_contra hc
  rcases Nat.lt_or_eq_of_le (not_lt.1 hc) with hlt | rfl
  · have := Fmt.units_lt_units (f := f) hlt; omega
  · omega

theorem Fmt.units_zero (f : Fmt) : f.units 0 = 0 := by simp [Fmt.units, Fmt.mant]

/-- A word's value in units of the least subnormal, the infinities one step beyond the largest finite word. -/
def Fmt.signed (f : Fmt) (x : Nat) : Int := if f.neg x then -(f.units (f.mag x) : Int) else f.units (f.mag x)

/-- How two integers compare. -/
def orderOf (x y : Int) : Ordering := if x < y then .lt else if x = y then .eq else .gt

theorem orderOf_of_lt {x y : Int} (h : x < y) : orderOf x y = .lt := if_pos h

theorem orderOf_of_gt {x y : Int} (h : y < x) : orderOf x y = .gt := by
  rw [orderOf, if_neg h.not_gt, if_neg h.ne']

theorem orderOf_of_eq {x y : Int} (h : x = y) : orderOf x y = .eq := by
  rw [orderOf, if_neg h.not_lt, if_pos h]

/-- The exact comparison of two finite values, at any exponent that is not above either of theirs. -/
theorem FVal.cmp_fin (sa sb : Bool) (ma mb : Nat) (e : Int) (i j : Nat) :
    (FVal.fin sa ma (e + i)).cmp (.fin sb mb (e + j)) =
      some (orderOf (if sa then -((ma * 2 ^ i : Nat) : Int) else (ma * 2 ^ i : Nat))
        (if sb then -((mb * 2 ^ j : Nat) : Int) else (mb * 2 ^ j : Nat))) := by
  obtain ⟨k, hi, hj, hk⟩ : ∃ k, k ≤ i ∧ k ≤ j ∧ min (e + i) (e + j) = e + (k : Nat) :=
    ⟨min i j, Nat.min_le_left .., Nat.min_le_right .., by omega⟩
  have hpow : ∀ n m : Nat, k ≤ n → ((m * 2 ^ n : Nat) : Int) = (m : Int) * 2 ^ (e + n - (e + k)).toNat * 2 ^ k := by
    intro n m hn
    rw [show (e + n - (e + k)).toNat = n - k by omega, mul_assoc, ← pow_add, Nat.sub_add_cancel hn]; push_cast; rfl
  have hpos : (0 : Int) < 2 ^ k := by positivity
  have hsgn : ∀ (s : Bool) (x : Int), (if s then -(x * 2 ^ k) else x * 2 ^ k) = (if s then -x else x) * 2 ^ k := by
    intro s x; split <;> ring
  rw [hpow i ma hi, hpow j mb hj, hsgn, hsgn]
  simp only [FVal.cmp, hk, orderOf, mul_lt_mul_iff_left₀ hpos, mul_eq_mul_right_iff, hpos.ne', or_false]

theorem signed_bounds (b : Bool) (u : Nat) : -(u : Int) ≤ (if b then -(u : Int) else u) ∧ (if b then -(u : Int) else u) ≤ u := by
  cases b <;> simp

/-- An infinity is beyond every value whose magnitude is less. -/
theorem orderOf_signed_gt {a b : Bool} {u v : Nat} (h : u < v) :
    orderOf (if a then -(v : Int) else v) (if b then -(u : Int) else u) = if a then .lt else .gt := by
  obtain ⟨hlow, hhigh⟩ := signed_bounds b u
  cases a with
  | true => exact orderOf_of_lt (by rw [if_pos rfl]; omega)
  | false => exact orderOf_of_gt (by rw [if_neg Bool.false_ne_true]; omega)

theorem orderOf_signed_lt {a b : Bool} {u v : Nat} (h : u < v) :
    orderOf (if a then -(u : Int) else u) (if b then -(v : Int) else v) = if b then .gt else .lt := by
  obtain ⟨hlow, hhigh⟩ := signed_bounds a u
  cases b with
  | true => exact orderOf_of_gt (by rw [if_pos rfl]; omega)
  | false => exact orderOf_of_lt (by rw [if_neg Bool.false_ne_true]; omega)

theorem orderOf_signed_self {a b : Bool} {v : Nat} (h : 0 < v) :
    orderOf (if a then -(v : Int) else v) (if b then -(v : Int) else v) = if a == b then .eq else if a then .lt else .gt := by
  cases a <;> cases b
  · exact orderOf_of_eq rfl
  · exact orderOf_of_gt (by simp; omega)
  · exact orderOf_of_lt (by simp; omega)
  · exact orderOf_of_eq rfl

/-- The comparison of two words that are no NaN is that of their signed values. -/
theorem Fmt.cmp_read {f : Fmt} (hf : 0 < f.ebits) {x y : Nat} (hx : nanIn f x = false) (hy : nanIn f y = false) :
    (f.read x).cmp (f.read y) = some (orderOf (f.signed x) (f.signed y)) := by
  have hle : ∀ {z}, nanIn f z = false → f.mag z ≤ f.emax * 2 ^ f.m := fun h =>
    not_lt.1 fun hc => by rw [(nanIn_iff f _).2 hc] at h; cases h
  have hpos : 0 < f.units (f.emax * 2 ^ f.m) := by
    have hemax : 0 < f.emax := Nat.sub_pos_of_lt (Nat.one_lt_two_pow hf.ne')
    rw [← f.units_zero]
    exact Fmt.units_lt_units (Nat.mul_pos hemax (Nat.two_pow_pos _))
  rcases Nat.lt_or_eq_of_le (hle hx) with hxf | hxi <;> rcases Nat.lt_or_eq_of_le (hle hy) with hyf | hyi
  · rw [Fmt.read_fin hxf, Fmt.read_fin hyf, FVal.cmp_fin]; rfl
  · rw [Fmt.read_fin hxf, Fmt.read_inf hyi]
    exact congrArg some (orderOf_signed_lt (Fmt.units_lt_units (hyi ▸ hxf))).symm
  · rw [Fmt.read_inf hxi, Fmt.read_fin hyf]
    exact congrArg some (orderOf_signed_gt (Fmt.units_lt_units (hxi ▸ hyf))).symm
  · rw [Fmt.read_inf hxi, Fmt.read_inf hyi, Fmt.signed, Fmt.signed, hxi, hyi]
    exact congrArg some (orderOf_signed_self hpos).symm

/-! ### The lesser and the greater of two words -/

/-- A word of the format is its sign and its magnitude. -/
theorem Fmt.word_eq {f : Fmt} {x : Nat} (hx : x < 2 ^ (f.m + f.ebits + 1)) :
    x = f.mag x + if f.neg x then 2 ^ (f.m + f.ebits) else 0 := by
  have hdiv : x / 2 ^ (f.m + f.ebits) < 2 := Nat.div_lt_of_lt_mul (by rwa [← pow_succ])
  have hsplit := Nat.div_add_mod x (2 ^ (f.m + f.ebits))
  simp only [Fmt.neg, Nat.mod_eq_of_lt hdiv, Fmt.mag]
  obtain h | h : x / 2 ^ (f.m + f.ebits) = 0 ∨ x / 2 ^ (f.m + f.ebits) = 1 := by
    generalize x / 2 ^ (f.m + f.ebits) = q at hdiv; omega
  · rw [h, Nat.mul_zero, Nat.zero_add] at hsplit
    rw [h, hsplit]; rfl
  · rw [h, Nat.mul_one, Nat.add_comm] at hsplit
    rw [h, if_pos (beq_self_eq_true 1), hsplit]

theorem rankIn_eq (f : Fmt) (x : Nat) : rankIn f x = if f.neg x then -(f.mag x : Int) - 1 else f.mag x := by
  simp only [rankIn, Fmt.neg, Fmt.mag, beq_iff_eq]

/-- Words rank as their values compare, and two words of one value as their signs do. -/
theorem rankIn_lt_iff {f : Fmt} {x y : Nat} : rankIn f x < rankIn f y ↔
    f.signed x < f.signed y ∨ (f.signed x = f.signed y ∧ f.neg x = true ∧ f.neg y = false) := by
  have hlt := fun g h => Fmt.units_lt_iff (f := f) (g := g) (h := h)
  have h1 := hlt (f.mag x) (f.mag y)
  have h2 := hlt (f.mag y) (f.mag x)
  have h3 := hlt 0 (f.mag x)
  have h4 := hlt 0 (f.mag y)
  rw [f.units_zero] at h3 h4
  rw [rankIn_eq, rankIn_eq, Fmt.signed, Fmt.signed]
  cases f.neg x <;> cases f.neg y <;> simp <;> omega

theorem Fmt.eq_of_signed_eq {f : Fmt} {x y : Nat} (hx : x < 2 ^ (f.m + f.ebits + 1)) (hy : y < 2 ^ (f.m + f.ebits + 1))
    (hs : f.neg x = f.neg y) (h : f.signed x = f.signed y) : x = y := by
  have hu : f.units (f.mag x) = f.units (f.mag y) := by
    rw [Fmt.signed, Fmt.signed, hs] at h
    cases hn : f.neg y <;> simp only [hn, if_true, Bool.false_eq_true, if_false, neg_inj, Nat.cast_inj] at h <;> exact h
  have hm : f.mag x = f.mag y := by
    rcases lt_trichotomy (f.mag x) (f.mag y) with hlt | heq | hgt
    · exact absurd hu (Fmt.units_lt_units hlt).ne
    · exact heq
    · exact absurd hu (Fmt.units_lt_units hgt).ne'
  rw [Fmt.word_eq hx, Fmt.word_eq hy, hs, hm]

/-- R103: the word that the claims choose is the model's. -/
theorem Fmt.minmax_eq_chosen {f : Fmt} (hf : 0 < f.ebits) (max : Bool) {x y : Nat} (hx : x < 2 ^ (f.m + f.ebits + 1))
    (hy : y < 2 ^ (f.m + f.ebits + 1)) : f.minmax max x y = chosen f max x y := by
  cases hnx : nanIn f x with
  | true =>
    rw [chosen, if_pos hnx, Fmt.minmax, Fmt.read_nan hnx]
    cases hny : nanIn f y with
    | true => rw [Fmt.read_nan hny, if_pos rfl]; rfl
    | false =>
      have hr : f.read y ≠ .nan := fun h => by rw [Fmt.read_eq_nan_iff.1 h] at hny; cases hny
      rw [if_neg Bool.false_ne_true]
      cases h : f.read y with
      | nan => exact absurd h hr
      | inf _ => rfl
      | fin _ _ _ => rfl
  | false =>
    have hrx : f.read x ≠ .nan := fun h => by rw [Fmt.read_eq_nan_iff.1 h] at hnx; cases hnx
    rw [chosen, if_neg (by rw [hnx]; exact Bool.false_ne_true)]
    cases hny : nanIn f y with
    | true =>
      rw [if_pos rfl, Fmt.minmax, Fmt.read_nan hny]
      cases h : f.read x with
      | nan => exact absurd h hrx
      | inf _ => rfl
      | fin _ _ _ => rfl
    | false =>
      have hry : f.read y ≠ .nan := fun h => by rw [Fmt.read_eq_nan_iff.1 h] at hny; cases hny
      have hcmp : f.minmax max x y = match (f.read x).cmp (f.read y) with
          | some .lt => if max then y else x
          | some .gt => if max then x else y
          | _ => if f.neg x == max then y else x := by
        unfold Fmt.minmax
        split
        · next h _ => exact absurd h hrx
        · next h _ => exact absurd h hrx
        · next h _ => exact absurd h hry
        · rfl
      rw [hcmp, Fmt.cmp_read hf hnx hny, if_neg Bool.false_ne_true]
      simp only [rankIn_lt_iff]
      rcases lt_trichotomy (f.signed x) (f.signed y) with h | h | h
      · rw [orderOf_of_lt h]
        simp [h, h.not_gt, h.ne']
      · rw [orderOf_of_eq h, h]
        by_cases hs : f.neg x = f.neg y
        · rw [Fmt.eq_of_signed_eq hx hy hs h]; simp
        · revert hs; cases f.neg x <;> cases f.neg y <;> cases max <;> simp
      · rw [orderOf_of_gt h]
        simp [h, h.not_gt, h.ne']

/-! ### Packed words -/

theorem half_zero (x : Word) : half x 0 = x.toNat % 65536 := by rw [half, pow_zero, Nat.div_one]

theorem half_one (x : Word) : half x 1 = x.toNat / 65536 := by
  rw [half, pow_one]; exact Nat.mod_eq_of_lt (Nat.div_lt_of_lt_mul x.isLt)

theorem half_lt (x : Word) (i : Nat) : half x i < 65536 := Nat.mod_lt _ (by decide)

/-- An operation on values, element by element, is the claims' operation by halves (R109). -/
theorem pkOp_eq {f : Fmt} {op : FVal → FVal → FVal → FVal} {g : Nat → Nat → Nat → Nat}
    (h : ∀ x y z, f.rne (op (f.read x) (f.read y) (f.read z)) = g x y z) (a b d : Word) : pkOp f op a b d = byHalves g a b d := by
  simp only [pkOp, byHalves, packHalves, h, half_zero, half_one]

theorem pkMinMax_eq {f : Fmt} (hf : 0 < f.ebits) (hw : f.m + f.ebits + 1 = 16) (max : Bool) (a b : Word) :
    pkMinMax f max a b = byHalves (fun x y _ => chosen f max x y) a b 0 := by
  have hlt : ∀ w i, half w i < 2 ^ (f.m + f.ebits + 1) := fun w i => hw ▸ half_lt w i
  rw [pkMinMax, Fmt.minmax_eq_chosen hf max (hlt a 0) (hlt b 0), Fmt.minmax_eq_chosen hf max (hlt a 1) (hlt b 1)]
  simp only [byHalves, packHalves, half_zero, half_one]

theorem hdot_eq (f : Fmt) (a b d : Word) : hdot f a b d = dotIn f a b d := by
  simp only [hdot, dotIn, half_zero, half_one]

/-- Every packed instruction that does not read D is one operation by halves over A and B (R109). -/
theorem exec_pkOps : ∀ e ∈ pkOps, ∀ (d : Dst) (a b : Src) (s : State), exec (e.1 d a b) s = alu2 d a b (op2 e.2) s := by
  simp only [pkOps, List.forall_mem_cons]
  refine ⟨?addF16, ?mulF16, ?minF16, ?maxF16, ?addE8m7, ?mulE8m7, ?minE8m7, ?maxE8m7, List.forall_mem_nil _⟩
  case addF16 => exact alu2_pure2 fun x y => pkOp_eq (f := f16) (op := fun u v _ => u.add v) (fun _ _ _ => rfl) x y 0
  case mulF16 => exact alu2_pure2 fun x y => pkOp_eq (f := f16) (op := fun u v _ => u.mul v) (fun _ _ _ => rfl) x y 0
  case minF16 => exact alu2_pure2 (pkMinMax_eq (f := f16) (by decide) rfl false)
  case maxF16 => exact alu2_pure2 (pkMinMax_eq (f := f16) (by decide) rfl true)
  case addE8m7 => exact alu2_pure2 fun x y => pkOp_eq (f := e8m7) (op := fun u v _ => u.add v) (fun _ _ _ => rfl) x y 0
  case mulE8m7 => exact alu2_pure2 fun x y => pkOp_eq (f := e8m7) (op := fun u v _ => u.mul v) (fun _ _ _ => rfl) x y 0
  case minE8m7 => exact alu2_pure2 (pkMinMax_eq (f := e8m7) (by decide) rfl false)
  case maxE8m7 => exact alu2_pure2 (pkMinMax_eq (f := e8m7) (by decide) rfl true)

/-- Settles O21: each packed instruction acts on each half as its rule says of one half. -/
theorem packedResults : Obligations.PackedResults :=
  fun e he _ _ _ _ _ hr hf => gives_of_alu2 hr hf (exec_pkOps e he ..)

/-- Every instruction that reads D after A and B is one operation over the three (R97, R104, R109, R110). -/
theorem exec_threeOps : ∀ e ∈ threeOps, ∀ (d : Reg) (a b : Src) (s : State), exec (e.1 d a b) s = alu3 d a b (op3 e.2) s := by
  simp only [threeOps, List.forall_mem_cons]
  refine ⟨?imad, ?ffma, ?ffms, ?hfmaF16, ?hfmaE8m7, ?hdotF16, ?hdotE8m7, List.forall_mem_nil _⟩
  case imad => exact alu3_pure3 mul_add_eq_ofNat
  case ffma => exact alu3_pure3 (f := ffma) fun _ _ _ => rfl
  case ffms => exact alu3_pure3 (f := ffms) fun _ _ _ => rfl
  case hfmaF16 => exact alu3_pure3 (pkOp_eq (f := f16) (op := fun u v z => (u.mul v).add z) fun _ _ _ => rfl)
  case hfmaE8m7 => exact alu3_pure3 (pkOp_eq (f := e8m7) (op := fun u v z => (u.mul v).add z) fun _ _ _ => rfl)
  case hdotF16 => exact alu3_pure3 (hdot_eq f16)
  case hdotE8m7 => exact alu3_pure3 (hdot_eq e8m7)

/-- Settles O18: each is one operation over A, B and D, rounded once. -/
theorem threeSourceResults : Obligations.ThreeSourceResults :=
  fun e he _ _ _ _ _ hr hf => gives_of_alu3 hr hf (exec_threeOps e he ..)

end Sys2Proof.Machine
end

section
/-!
PROOFS. Memories, registers and program counters: what a write of bytes gives every byte and tag (R1, R143, R146), what a write
of a register leaves of its lane (R95, R276), and where a lane stands past a word (R126, R129).
-/

namespace Sys2Proof.Machine

open Sys2Proof

/-! ### Memories -/

theorem mem_sdel {x k : Nat} {t : List Nat} : x ∈ sdel k t ↔ x ∈ t ∧ x ≠ k := by
  simp [sdel]

theorem mem_sput {x k : Nat} : ∀ {t : List Nat}, x ∈ sput k t ↔ x = k ∨ x ∈ t
  | [] => by simp [sput]
  | j :: t => by
    unfold sput
    split
    · simp only [List.mem_cons, mem_sput]; exact or_left_comm
    · split
      · next h => simp [h]
      · simp

theorem mem_foldl_sdel {x : Nat} : ∀ {gs t : List Nat}, x ∈ gs.foldl (fun t g => sdel g t) t ↔ x ∈ t ∧ x ∉ gs
  | [], t => by simp
  | g :: gs, t => by
    rw [List.foldl_cons, mem_foldl_sdel, mem_sdel, List.mem_cons, not_or, and_assoc]

theorem mem_unitsOf {u a n k : Nat} : k ∈ unitsOf u a n ↔ n ≠ 0 ∧ a / u ≤ k ∧ k ≤ (a + n - 1) / u := by
  unfold unitsOf
  split
  · next h => simp [h]
  · next h =>
    have hle : a / u ≤ (a + n - 1) / u := Nat.div_le_div_right (by omega)
    simp only [upto, List.mem_map, List.mem_range]
    constructor
    · rintro ⟨i, hi, rfl⟩; omega
    · exact fun ⟨_, hlow, hhigh⟩ => ⟨k - a / u, by omega, by omega⟩

/-- Bytes set one behind the other read as set, and every other byte as before. -/
theorem Memory.byte_setBytes {x : Nat} : ∀ {bs : List Byte} {m : Memory} {a : Nat}, m.wf = true →
    (m.setBytes a bs).byte x = if a ≤ x ∧ x < a + bs.length then bs.getD (x - a) 0 else m.byte x
  | [], m, a, _ => by rw [if_neg (by simp)]; rfl
  | b :: t, m, a, h => by
    rw [Memory.setBytes, Memory.byte_setBytes (Memory.setByte_wf h a b), List.length_cons]
    by_cases hx : x = a
    · subst hx
      rw [if_neg (by omega), if_pos (by omega), Memory.byte_setByte_self h, Nat.sub_self, List.getD_cons_zero]
    · rw [Memory.byte_setByte_ne m hx]
      by_cases hin : a + 1 ≤ x ∧ x < a + 1 + t.length
      · rw [if_pos hin, if_pos (by omega), show x - a = (x - (a + 1)) + 1 by omega, List.getD_cons_succ]
      · rw [if_neg hin, if_neg (by omega)]

@[simp] theorem Memory.tags_setBytes : ∀ (bs : List Byte) (m : Memory) (a : Nat), (m.setBytes a bs).tags = m.tags
  | [], _, _ => rfl
  | _ :: t, m, a => Memory.tags_setBytes t (m.setByte a _) (a + 1)

theorem Memory.tag_write (m : Memory) (u a x : Nat) (bs : List Byte) :
    (m.write u a bs).tag x = (m.tag x && !decide (x / 16 ∈ unitsOf 16 a bs.length)) := by
  have htags : (m.write u a bs).tags = (unitsOf 16 a bs.length).foldl (fun t g => sdel g t) m.tags := by
    rw [← Memory.tags_setBytes bs m a]; rfl
  rw [Memory.tag, htags, Memory.tag, Bool.eq_iff_iff]
  simp only [List.contains_iff_mem, mem_foldl_sdel, Bool.and_eq_true, Bool.not_eq_true', decide_eq_false_iff_not]

/-- Settles O12: the bytes by induction on what is written, the tags by the granules that the write touches. -/
theorem memoryWrites : Obligations.MemoryWrites := by
  refine ⟨fun m u a x bs h => ?bytes, fun m u a x bs => ?tags⟩
  case bytes => exact Memory.byte_setBytes h
  case tags =>
    rw [Memory.tag_write]
    simp only [mem_unitsOf, ne_eq, List.length_eq_zero_iff, Bool.decide_and, Bool.and_assoc]

/-! ### Registers -/

@[simp] theorem Lane.putTag_regs (l : Lane) (q : Nat) (v : Bool) : (l.putTag q v).regs = l.regs := rfl
@[simp] theorem Lane.putTag_dirty (l : Lane) (q : Nat) (v : Bool) : (l.putTag q v).dirty = l.dirty := rfl

theorem Lane.putReg_of_owned {l : Lane} {n : Nat} (h : l.ownerOf n ≠ none) (w : PWord) :
    l.putReg n w = { l with dirty := sput n l.dirty } := by
  rw [Lane.putReg, if_pos (Option.isSome_iff_ne_none.2 h)]

theorem Lane.putReg_of_free {l : Lane} {n : Nat} (h : l.ownerOf n = none) (w : PWord) : l.putReg n w = l.setReg n w := by
  rw [Lane.putReg, h]; rfl

@[simp] theorem Lane.putReg_tags (l : Lane) (n : Nat) (w : PWord) : (l.putReg n w).tags = l.tags := by
  unfold Lane.putReg; split <;> rfl

/-- A tag bit after the tag of one quad is put. -/
theorem Lane.getLsbD_putTag (l : Lane) {q k : Nat} (hk : k < 16) (v : Bool) :
    (l.putTag q v).tags.getLsbD k = if k = q then v else l.tags.getLsbD k := by
  have hbit : (1#16 <<< q).getLsbD k = decide (k = q) := by
    rw [BitVec.getLsbD_shiftLeft, BitVec.getLsbD_one, Bool.eq_iff_iff]
    simp only [hk, decide_true, Bool.true_and, Bool.and_eq_true, Bool.not_eq_true', decide_eq_false_iff_not, decide_eq_true_eq]
    omega
  cases v with
  | false =>
    show (l.tags &&& ~~~(1#16 <<< q)).getLsbD k = _
    rw [BitVec.getLsbD_and, BitVec.getLsbD_not, hbit]
    by_cases h : k = q <;> simp [h, hk]
  | true =>
    show (l.tags ||| (1#16 <<< q)).getLsbD k = _
    rw [BitVec.getLsbD_or, hbit]
    by_cases h : k = q <;> simp [h]

theorem Lane.regs_putReg (l : Lane) (n m : Nat) (v : PWord) : (l.putReg n v).regs.getD m {} =
    if m = n ∧ n < l.regs.length ∧ l.ownerOf n = none then v else l.regs.getD m {} := by
  by_cases ho : l.ownerOf n = none
  · rw [Lane.putReg_of_free ho]
    simp only [Lane.setReg, ho, List.getD_eq_getElem?_getD, List.getElem?_set, and_true]
    by_cases hm : m = n
    · subst hm; by_cases hl : m < l.regs.length <;> simp [hl]
    · simp [hm, Ne.symm hm]
  · rw [Lane.putReg_of_owned ho]
    simp only [ho, and_false, if_false]

/-- Settles O13: a register write puts the word, or marks it open where the engine owns it, and clears one tag. -/
theorem registerWrite : Obligations.RegisterWrite := by
  intro l n m v _
  have hdirty : l.ownerOf n ≠ none → n ∈ (l.wr n v).dirty := fun h => by
    rw [Lane.wr, Lane.putTag_dirty, Lane.putReg_of_owned h]
    exact mem_sput.2 (Or.inl rfl)
  have htags : ∀ q, q < 16 → (l.wr n v).tags.getLsbD q = (l.tags.getLsbD q && !decide (q = n / 4)) := fun q hq => by
    rw [Lane.wr, Lane.getLsbD_putTag _ hq, Lane.putReg_tags]
    by_cases h : q = n / 4 <;> simp [h]
  refine ⟨l.regs_putReg n m v, hdirty, htags, ?_⟩
  unfold Lane.wr Lane.putReg
  split <;> exact ⟨rfl, rfl, rfl, rfl, rfl, rfl, rfl, rfl, rfl, rfl, rfl, rfl, rfl⟩

/-! ### Past a word -/

/-- Past a word a lane keeps its registers and its special registers, and may issue. -/
theorem Lane.advance_keeps (l : Lane) (pc : DWord) :
    (l.advance pc).regs = l.regs ∧ (l.advance pc).tags = l.tags ∧ (l.advance pc).stack = l.stack ∧
    (l.advance pc).tvec = l.tvec ∧ (l.advance pc).tcause = l.tcause ∧ (l.advance pc).tpc = l.tpc ∧
    (l.advance pc).tdata = l.tdata ∧ (l.advance pc).inHandler = l.inHandler ∧ (l.advance pc).chflags = l.chflags ∧
    (l.advance pc).status = .ready := by
  unfold Lane.advance
  dsimp only
  split
  · exact ⟨rfl, rfl, rfl, rfl, rfl, rfl, rfl, rfl, rfl, rfl⟩
  · split_ifs <;> exact ⟨rfl, rfl, rfl, rfl, rfl, rfl, rfl, rfl, rfl, rfl⟩

theorem Lane.advance_plain {l : Lane} (pc : DWord) (h : l.loop = none) :
    (l.advance pc).pc = pc + 4 ∧ (l.advance pc).loop = none := by
  unfold Lane.advance
  dsimp only [Lane.dropHeld]
  rw [h]
  exact ⟨rfl, rfl⟩

theorem Lane.advance_body {l : Lane} (pc : DWord) {x : Loop} (h : l.loop = some x) (hi : x.i + 1 < x.len) :
    (l.advance pc).pc = pc + 4 ∧ (l.advance pc).loop = some { x with i := x.i + 1 } := by
  unfold Lane.advance
  dsimp only [Lane.dropHeld]
  rw [h]
  dsimp only
  rw [if_pos hi]
  exact ⟨rfl, rfl⟩

theorem Lane.advance_nextPass {l : Lane} (pc : DWord) {x : Loop} (h : l.loop = some x) (hi : x.len ≤ x.i + 1)
    (hp : x.p + 1 ≠ x.n) : (l.advance pc).pc = pc - 4 * BitVec.ofNat 64 (x.len - 1) ∧
      (l.advance pc).loop = some { x with i := 0, p := x.p + 1 } := by
  unfold Lane.advance
  dsimp only [Lane.dropHeld]
  rw [h]
  dsimp only
  rw [if_neg (not_lt.2 hi), if_neg hp]
  exact ⟨rfl, rfl⟩

theorem Lane.advance_lastPass {l : Lane} (pc : DWord) {x : Loop} (h : l.loop = some x) (hi : x.len ≤ x.i + 1)
    (hp : x.p + 1 = x.n) : (l.advance pc).pc = pc + 4 ∧ (l.advance pc).loop = none := by
  unfold Lane.advance
  dsimp only [Lane.dropHeld]
  rw [h]
  dsimp only
  rw [if_neg (not_lt.2 hi), if_pos hp]
  exact ⟨rfl, rfl⟩

/-- Settles O14: a lane goes past a word as the branches of its loop state say. -/
theorem goingPast : Obligations.GoingPast := by
  intro l pc
  obtain ⟨hregs, htags, hstack, htvec, htcause, htpc, htdata, hin, hch, hst⟩ := l.advance_keeps pc
  exact ⟨hregs, htags, hstack, htvec, htcause, htpc, htdata, hin, hch, hst, Lane.advance_plain pc,
    fun _ => Lane.advance_body pc, fun _ => Lane.advance_nextPass pc, fun _ => Lane.advance_lastPass pc⟩

end Sys2Proof.Machine
end

section
/-!
PROOFS. What an instruction gives its lanes where it writes more than a word (R95, R137): a change of each lane of a ready gather
alone, after its perf counts, and the lane past the word.
-/

namespace Sys2Proof.Machine

open Sys2Proof Sys2Proof.Machine.Claims

/-! ### Changes of one lane -/

theorem modLane_modLane (s : State) (r : LRef) (f g : Lane → Lane) :
    (s.modLane r f).modLane r g = s.modLane r fun l => g (f l) := by
  unfold State.modLane State.modGroup
  dsimp only
  rw [List.map_map]
  refine congrArg (fun gs => { s with groups := gs }) (List.map_congr_left fun x _ => ?_)
  by_cases h : (x.gid == r.1) = true
  · simp only [Function.comp, h, if_true, List.modify_modify_eq]
    rfl
  · simp only [Function.comp, h, Bool.false_eq_true, if_false]

/-- Words to consecutive registers of a lane are one change of the lane. -/
theorem wrs_eq_modLane : ∀ (ws : List PWord) (s : State) (r : LRef) (n : Nat),
    s.wrs r n ws = s.modLane r fun x => putWords x n ws
  | [], s, r, n => by
    have hid : ∀ g : Group, { g with lanes := g.lanes.modify r.2 fun x => x } = g := fun g => by
      rw [show (fun x : Lane => x) = id from rfl, List.modify_id]
    show s = { s with groups := s.groups.map fun g => if g.gid == r.1 then { g with lanes := g.lanes.modify r.2 fun x => x } else g }
    simp only [hid, ite_self, List.map_id']
  | w :: t, s, r, n => by
    rw [State.wrs, wrs_eq_modLane t, State.wr, modLane_modLane]
    rfl

theorem wrCap_eq_modLane (s : State) (r : LRef) (n : Nat) (c : Cap) (p : List Bool) :
    s.wrCap r n c p = s.modLane r fun x => putCap x n c p := rfl

/-! ### What a change of its registers leaves of a lane's loop -/

theorem Lane.putReg_loop (x : Lane) (n : Nat) (v : PWord) : (x.putReg n v).loop = x.loop := by
  unfold Lane.putReg; split <;> rfl

@[simp] theorem Lane.atPassEnd_wr (x : Lane) (n : Nat) (v : PWord) : (x.wr n v).atPassEnd = x.atPassEnd := x.wr_atPassEnd n v

theorem atPassEnd_putWords : ∀ (ws : List PWord) (x : Lane) (n : Nat), (putWords x n ws).atPassEnd = x.atPassEnd
  | [], _, _ => rfl
  | w :: t, x, n => by rw [putWords, atPassEnd_putWords t, Lane.atPassEnd_wr]

theorem atPassEnd_putCap (x : Lane) (n : Nat) (c : Cap) (p : List Bool) : (putCap x n c p).atPassEnd = x.atPassEnd := by
  have hloop : (putCap x n c p).loop = x.loop := by
    show ((((x.putReg _ _).putReg _ _).putReg _ _).putReg _ _).loop = _
    simp only [Lane.putReg_loop]
  rw [Lane.atPassEnd, hloop, ← Lane.atPassEnd]

/-! ### The gather past its word -/

/-- Every lane of a ready gather, changed, goes past the word of the gather; nothing else changes. -/
theorem finish_lanes {s s0 : State} {l : Latch} (hr : Ready s l) (h0 : Tallied s s0) {g : LRef → Lane → Lane}
    (hg : ∀ r x, (g r x).atPassEnd = x.atPassEnd) :
    ∃ t, ((l.lanes.foldl (fun s r => s.modLane r (g r)) s0).work l).finish = .next t ∧ LanesOnly l.lanes s t ∧
      ∀ r ∈ l.lanes, t.lane r = (g r (s.lane r)).advance l.pc := by
  have hr0 := h0.ready hr
  generalize hs1 : l.lanes.foldl (fun s r => s.modLane r (g r)) s0 = s1
  have hhas : ∀ r ∈ l.lanes, s1.has r := fun r h => hs1 ▸ (foldl_modLane_has g r l.lanes s0).2 (hr0.there r h)
  have hlane : ∀ r ∈ l.lanes, s1.lane r = g r (s.lane r) := fun r h => by
    rw [← hs1, lane_foldl_modLane g l.lanes s0 hr0.nodup hr0.there r, if_pos h, h0.lane]
  have hkill : ∀ r ∈ l.lanes, (s1.lane r).atPassEnd = true → (s1.group r.1).taskKill = false := fun r h he => by
    rw [← hs1, foldl_modLane_taskKill g r.1 l.lanes s0]
    refine hr0.noKill r h ?_
    rwa [hlane r h, hg, ← h0.lane] at he
  refine ⟨_, Work.finish_all (w := s1.work l) rfl hr.alone rfl hr0.nodup hhas hkill, ?_, fun r h => ?_⟩
  · refine (LanesOnly.mono (fun _ h => by cases h) (LanesOnly.of_tallied h0)).trans ?_
    exact (hs1 ▸ LanesOnly.foldl_modLane g l.lanes l.lanes s0 fun _ h => h).trans
      (LanesOnly.foldl_modLane (fun _ x => x.advance l.pc) l.lanes l.lanes s1 fun _ h => h)
  · show (l.lanes.foldl (fun s r => s.modLane r fun x => x.advance l.pc) s1).lane r = _
    rw [lane_foldl_modLane (fun _ x => x.advance l.pc) l.lanes s1 hr0.nodup hhas r, if_pos h, hlane r h]

/-- An instruction that comes, after its perf counts, to consecutive words per lane gives every lane those words. -/
theorem givesWords_of_writeRegs {i : Instr} {s s0 : State} {l : Latch} {d : Reg} {v : LRef → List PWord} (k : Nat)
    (hr : Ready s l) (h0 : Tallied s s0)
    (he : exec i s = (((s0.work l).writeRegs codeD d.toNat fun _ => v).zeroRegs codeD d.toNat k).finish) :
    GivesWords i s l d v := by
  obtain ⟨t, ht, hother, hlane⟩ := finish_lanes hr h0 (g := fun r x => putWords x (regNo s l r codeD d) (v r))
    fun r x => atPassEnd_putWords ..
  refine ⟨t, he.trans (Eq.trans ?_ ht), hother, hlane⟩
  have hnum : ∀ r, (s0.work l).rnum r codeD d.toNat = regNo s l r codeD d := fun r => h0.num l r codeD d.toNat
  simp only [Work.writeRegs, wrs_eq_modLane, hnum]
  show Work.finish { s0.work l with s := _ } = _
  rw [List.foldl_map]
  rfl

/-- An instruction that comes, after its perf counts, to a capability per lane gives every lane that capability. -/
theorem givesCap_of_wrCap {i : Instr} {s s0 : State} {l : Latch} {d : Reg} {c : LRef → Cap} {p : LRef → List Bool}
    (hr : Ready s l) (h0 : Tallied s s0)
    (he : exec i s = (({ s0.work l with
      s := l.lanes.foldl (fun s r => s.wrCap r ((s0.work l).rnum r codeD d.toNat) (c r) (p r)) s0 } : Work).zeroRegs
        codeD d.toNat 4).finish) : GivesCap i s l d c p := by
  obtain ⟨t, ht, hother, hlane⟩ := finish_lanes hr h0 (g := fun r x => putCap x (regNo s l r codeD d) (c r) (p r))
    fun r x => atPassEnd_putCap ..
  refine ⟨t, he.trans (Eq.trans ?_ ht), hother, hlane⟩
  have hnum : ∀ r, (s0.work l).rnum r codeD d.toNat = regNo s l r codeD d := fun r => h0.num l r codeD d.toNat
  simp only [wrCap_eq_modLane, hnum]
  rfl

end Sys2Proof.Machine
end

section
/-!
PROOFS. Votes, reductions and match (R73, R90): what the contributors of a lane's group give it, and the tree of the
floating-point reductions.
-/

namespace Sys2Proof.Machine

open Sys2Proof Sys2Proof.Machine.Claims

/-! ### Contributors -/

/-- The contributors to a lane are the claims' after the perf counts (R90). -/
theorem Tallied.givers {s t : State} (h : Tallied s t) (l : Latch) (r : LRef) : (t.work l).givers r = givers s l r := by
  show (partners l r).filter (fun k => !(t.lane (r.1, k)).helper) = _
  simp only [h.lane]
  rfl

/-! ### Votes -/

/-- Where no lane's condition is poisoned, a vote traps no lane. -/
theorem voteWork_clean {s s0 : State} {l : Latch} {flds : List Fld} {d : Option Dst} {a : Reg}
    {f : Work → Host.Outcome State Fault Refusal} (hr : Ready s l) (h0 : Tallied s s0)
    (hb : (s.work l).sources (flds ++ [rfld codeA a]) d none none = s0.work l)
    (hp : ∀ r ∈ l.lanes, (rd s l r codeA a).poison = false) : voteWork flds d a s f = f (s0.work l) := by
  have hkeep : (s0.work l).live.foldl
      (fun v r => if ((s0.work l).regOf r codeA a).poison then v.strike r 0x0A 0 else v) (s0.work l) = s0.work l :=
    foldl_keep _ _ _ fun r h => by rw [h0.regOf, hp r h]; rfl
  simp only [voteWork, withGather_latched hr.latched, hb, hkeep]

/-- Where no lane's condition is poisoned, every lane receives the vote of its group's contributors. -/
theorem gives_of_xchVote {i : Instr} {s : State} {l : Latch} {d a : Reg} {f : List Word → Word} (hr : Ready s l)
    (hf : InRange s l (fDA d a)) (hp : ∀ r ∈ l.lanes, (rd s l r codeA a).poison = false)
    (he : exec i s = xchVote (.reg d) a f s) : Gives i s l d fun r => ⟨f ((given s l a r).map (·.val)), false⟩ := by
  obtain ⟨s0, h0, hb⟩ := sources_inRange (flds := dstFlds (.reg d) ++ [rfld codeA a]) hf (some (.reg d)) rfl
  refine gives_of_writeDst hr h0 (he.trans ?_)
  rw [xchVote, voteWork_clean hr h0 hb hp]
  simp only [h0.givers, h0.regOf, given, List.map_map]
  rfl

theorem condTrue_eq : condTrue = (· != 0) :=
  funext fun w => by rw [Bool.eq_iff_iff, condTrue_iff, bne_iff_ne]

theorem all_eq_headD (l : List Word) : (l.all fun x => x == l.headD 0) = match l with | [] => true | x :: t => t.all (· == x) := by
  cases l with
  | nil => rfl
  | cons x t => simp

theorem xchVote_congr {f g : List Word → Word} (h : ∀ x, f x = g x) (d : Dst) (a : Reg) (s : State) :
    xchVote d a f s = xchVote d a g s := by
  obtain rfl : f = g := funext h
  rfl

/-- Every vote of one word is one operation over the contributors' words (R90). -/
theorem exec_voteOps : ∀ e ∈ voteOps, ∀ (d : Dst) (a : Reg) (s : State),
    exec (e.1 d a) s = xchVote d a (fun l => if e.2 l then 1 else 0) s := by
  simp only [voteOps, List.forall_mem_cons]
  refine ⟨?any, ?all, ?eq, List.forall_mem_nil _⟩
  case any => exact xchVote_congr (f := fun l => boolWord (l.any condTrue)) fun l => by rw [condTrue_eq]; rfl
  case all => exact xchVote_congr (f := fun l => boolWord (l.all condTrue)) fun l => by rw [condTrue_eq]; rfl
  case eq =>
    exact xchVote_congr (f := fun l => boolWord (l.all fun x => x == l.headD 0)) fun l => by
      rw [all_eq_headD]; cases l <;> rfl

theorem exec_voteMask (d a : Reg) (s : State) : exec (.voteMask d a) s = execVoteMask d a s := rfl

/-- Where no lane's condition is poisoned, every lane receives the mask of its group's contributors whose condition is true. -/
theorem gives_voteMask {s : State} {l : Latch} {d a : Reg} (hr : Ready s l)
    (hp : ∀ r ∈ l.lanes, (rd s l r codeA a).poison = false) (hf : InRange s l [rfld codeD d 2, rfld codeA a]) :
    GivesWords (.voteMask d a) s l d fun r =>
      let m : DWord := (givers s l r).foldl (fun m k => if (rd s l (r.1, k) codeA a).val ≠ 0 then m ||| (1#64 <<< k) else m) 0
      [⟨lo32 m, false⟩, ⟨hi32 m, false⟩] := by
  obtain ⟨s0, h0, hb⟩ := sources_inRange (flds := [rfld codeD d 2] ++ [rfld codeA a]) hf none rfl
  refine givesWords_of_writeRegs 2 hr h0 ((exec_voteMask ..).trans ?_)
  rw [execVoteMask, voteWork_clean hr h0 hb hp]
  simp only [h0.givers, h0.regOf, condTrue_iff]

/-- Settles O25: with no poisoned condition no lane traps, and each receives the vote of its group's contributors. -/
theorem voteResults : Obligations.VoteResults :=
  fun _ _ _ _ hr hp => ⟨fun e he hf => gives_of_xchVote (f := fun w => if e.2 w then 1 else 0) hr hf hp (exec_voteOps e he ..),
    fun hf => gives_voteMask hr hp hf⟩

/-! ### Reductions -/

/-- Every lane receives the reduction of its group's contributors, poisoned if a word of theirs is (R90). -/
theorem gives_of_xchRed {i : Instr} {s : State} {l : Latch} {d a : Reg} {f : List (Option Word) → Word} (hr : Ready s l)
    (hf : InRange s l (fDA d a)) (he : exec i s = xchRed (.reg d) (.reg a) f s) :
    Gives i s l d fun r => ⟨f (givenAt s l a r), (given s l a r).any (·.poison)⟩ := by
  obtain ⟨s0, h0, hb⟩ := sources_regs (flds := dstFlds (.reg d) ++ srcFlds (.reg a) codeA) hf d a
  have hsrc : ∀ r, (s0.work l).src r codeA (.reg a) = rd s l r codeA a := fun r => h0.regOf l r codeA a
  have hgroup : ∀ x, (s0.work l).s.group x = s.group x := h0.group
  refine gives_of_writeDst hr h0 (he.trans ?_)
  simp only [xchRed, withGather_latched hr.latched, hb, h0.givers, hsrc, hgroup, given, List.any_map, Function.comp_def]
  rfl

/-- The side that is absent passes the other on (R73). -/
def joinSides (op : Word → Word → Word) : Option Word → Option Word → Option Word
  | some x, some y => some (op x y)
  | some x, none => some x
  | none, y => y

theorem treeAt_succ (op : Word → Word → Word) (l : List (Option Word)) (k i : Nat) :
    treeAt op l (k + 1) i = joinSides op (treeAt op l k i) (treeAt op l k (i + 2 ^ k)) := by
  rw [treeAt]
  cases treeAt op l k i <;> cases treeAt op l k (i + 2 ^ k) <;> rfl

theorem joinSides_none (op : Word → Word → Word) (x : Option Word) : joinSides op x none = x := by
  cases x <;> rfl

theorem getD_treeLevel (op : Word → Word → Word) : ∀ (l : List (Option Word)) (i : Nat),
    (treeLevel op l).getD i none = joinSides op (l.getD (2 * i) none) (l.getD (2 * i + 1) none)
  | [], i => rfl
  | [x], i => by
    have hone : treeLevel op [x] = [x] := by cases x <;> rfl
    cases i with
    | zero => rw [hone]; exact (joinSides_none op x).symm
    | succ i => rw [hone]; rfl
  | x :: y :: t, i => by
    have hcons : treeLevel op (x :: y :: t) = joinSides op x y :: treeLevel op t := by cases x <;> cases y <;> rfl
    rw [hcons]
    cases i with
    | zero => rfl
    | succ i =>
      rw [List.getD_cons_succ, getD_treeLevel op t, show 2 * (i + 1) = 2 * i + 1 + 1 by omega]
      rfl

/-- A level of the tree taken first is the level above of the rest. -/
theorem treeAt_treeLevel (op : Word → Word → Word) (l : List (Option Word)) : ∀ k i : Nat,
    treeAt op (treeLevel op l) k i = treeAt op l (k + 1) (2 * i)
  | 0, i => by rw [treeAt_succ]; exact getD_treeLevel op l i
  | k + 1, i => by
    rw [treeAt_succ, treeAt_treeLevel op l k, treeAt_treeLevel op l k, treeAt_succ op l (k + 1), Nat.mul_add,
      ← Nat.pow_succ']

theorem treeFold_eq_treeAt (op : Word → Word → Word) : ∀ (n : Nat) (l : List (Option Word)), treeFold op n l = treeAt op l n 0
  | 0, l => by cases l <;> rfl
  | n + 1, l => by rw [treeFold, treeFold_eq_treeAt op n, treeAt_treeLevel]

/-- Absent lanes behind the group's change nothing. -/
theorem treeAt_append_none (op : Word → Word → Word) (l : List (Option Word)) (n : Nat) : ∀ k i : Nat,
    treeAt op (l ++ List.replicate n none) k i = treeAt op l k i
  | 0, i => by
    show (l ++ List.replicate n none).getD i none = l.getD i none
    by_cases h : i < l.length
    · rw [List.getD_append _ _ _ _ h]
    · rw [List.getD_append_right _ _ _ _ (not_lt.1 h), List.getD_eq_default _ _ (not_lt.1 h)]
      simp only [List.getD_eq_getElem?_getD, List.getElem?_replicate]
      split <;> rfl
  | k + 1, i => by rw [treeAt_succ, treeAt_append_none op l n k, treeAt_append_none op l n k, ← treeAt_succ]

theorem laneTree_eq_treeAt (op : Word → Word → Word) (l : List (Option Word)) : laneTree op l = treeAt op l 6 0 := by
  rw [laneTree, treeFold_eq_treeAt, treeAt_append_none]

theorem fIsNaN_eq_isNaN (x : Word) : isNaN x = fIsNaN x := by
  have hiff : f32.read x.toNat = .nan ↔ nanIn f32 x.toNat = true := Fmt.read_eq_nan_iff
  rw [isNaN, Bool.eq_iff_iff, beq_iff_eq, fval, hiff]
  rfl

theorem canonNaN_eq_oneNaN (x : Word) : canonNaN x = oneNaN x := by
  rw [canonNaN, oneNaN, fIsNaN_eq_isNaN]; rfl

theorem fmin_eq_minWord (x y : Word) : fmin x y = minWord x y :=
  congrArg (BitVec.ofNat 32) (Fmt.minmax_eq_chosen (f := f32) (by decide) false x.isLt y.isLt)

theorem fmax_eq_maxWord (x y : Word) : fmax x y = maxWord x y :=
  congrArg (BitVec.ofNat 32) (Fmt.minmax_eq_chosen (f := f32) (by decide) true x.isLt y.isLt)

theorem xchRed_congr {f g : List (Option Word) → Word} (h : ∀ x, f x = g x) (d : Dst) (a : Src) (s : State) :
    xchRed d a f s = xchRed d a g s := by
  obtain rfl : f = g := funext h
  rfl

/-- Every reduction is one operation over the contributors' words by lane (R73, R90). -/
theorem exec_redOps : ∀ e ∈ redOps, ∀ (d : Dst) (a : Src) (s : State), exec (e.1 d a) s = xchRed d a e.2 s := by
  have hmin : fmin = minWord := funext₂ fmin_eq_minWord
  have hmax : fmax = maxWord := funext₂ fmax_eq_maxWord
  simp only [redOps, List.forall_mem_cons]
  refine ⟨?iadd, ?imin, ?imax, ?fadd, ?fmin, ?fmax, List.forall_mem_nil _⟩
  case iadd => exact xchRed_congr (f := fun l => (present l).foldl (· + ·) 0) fun _ => rfl
  case imin => exact xchRed_congr (f := fun l => (present l).foldl lesserS 0x7FFFFFFF) fun _ => rfl
  case imax => exact xchRed_congr (f := fun l => (present l).foldl greaterS 0x80000000) fun _ => rfl
  case fadd =>
    exact xchRed_congr (f := fun l => canonNaN (sumTree l)) fun l => by
      rw [canonNaN_eq_oneNaN, sumTree, laneTree_eq_treeAt]; rfl
  case fmin =>
    exact xchRed_congr (f := fun l => canonNaN ((laneTree fmin l).getD 0x7F800000)) fun l => by
      rw [canonNaN_eq_oneNaN, laneTree_eq_treeAt, hmin]
  case fmax =>
    exact xchRed_congr (f := fun l => canonNaN ((laneTree fmax l).getD 0xFF800000)) fun l => by
      rw [canonNaN_eq_oneNaN, laneTree_eq_treeAt, hmax]

theorem exec_matchLane (d : Dst) (a : Src) (s : State) : exec (.matchLane d a) s = execMatchLane d a s := rfl

/-- Every lane receives the lowest contributor with its word, itself if there is none; poisoned words equal nothing (R90). -/
theorem gives_matchLane {s : State} {l : Latch} {d a : Reg} (hr : Ready s l) (hf : InRange s l (fDA d a)) :
    Gives (.matchLane (.reg d) (.reg a)) s l d fun r =>
      let mine := rd s l r codeA a
      ⟨BitVec.ofNat 32 (((givers s l r).find? fun k =>
        !mine.poison && !(rd s l (r.1, k) codeA a).poison && (rd s l (r.1, k) codeA a).val == mine.val).getD r.2), false⟩ := by
  obtain ⟨s0, h0, hb⟩ := sources_regs (flds := dstFlds (.reg d) ++ srcFlds (.reg a) codeA) hf d a
  have hsrc : ∀ r, (s0.work l).src r codeA (.reg a) = rd s l r codeA a := fun r => h0.regOf l r codeA a
  refine gives_of_writeDst hr h0 ((exec_matchLane ..).trans ?_)
  simp only [execMatchLane, withGather_latched hr.latched, hb, h0.givers, hsrc]
  refine congrArg (fun f => ((s0.work l).writeDst (.reg d) f).finish) (funext fun _ => funext fun r => ?_)
  cases (rd s l r codeA a).poison with
  | true => simp only [if_true, Bool.not_true, Bool.false_and, List.find?_eq_none.2 fun _ _ => Bool.false_ne_true]
  | false => simp only [Bool.false_eq_true, if_false, Bool.not_false, Bool.true_and]

/-- Settles O26: the contributors' words come to each lane through the tree of R73 or in lane order. -/
theorem reductionResults : Obligations.ReductionResults :=
  fun _ _ _ _ hr hf => ⟨fun e he => gives_of_xchRed hr hf (exec_redOps e he ..), gives_matchLane hr hf⟩

end Sys2Proof.Machine
end

section
/-!
PROOFS. The fields of a capability's metadata (Table 8.1), and its bounds (R132, R138).
-/

namespace Sys2Proof.Machine

open Sys2Proof Sys2Proof.Machine.Claims

/-! ### Metadata -/

theorem Cap.mhi_toNat (c : Cap) : c.mhi.toNat = c.md.toNat / 2 ^ 32 := by
  have := c.md.isLt
  show (hi32 c.md).toNat = _
  unfold hi32
  simp; omega

theorem Cap.mlo_toNat (c : Cap) : c.mlo.toNat = c.md.toNat % 2 ^ 32 := by
  show (lo32 c.md).toNat = _
  unfold lo32
  simp

theorem mkMeta_toNat (p sp ot e b t : Nat) : (mkMeta p sp ot e b t).toNat = (p % 256 * 2 ^ 24 + sp % 16 * 2 ^ 20 +
    ot % 16 * 2 ^ 16 + e % 64 * 2 ^ 10 + b / 2 ^ 11 % 2 ^ 10) * 2 ^ 32 + (b % 2 ^ 11 * 2 ^ 21 + t % 2 ^ 21) := by
  rw [mkMeta, BitVec.toNat_ofNat]
  refine Nat.mod_eq_of_lt ?_
  omega

section
variable (c : Cap) {p sp ot e b t : Nat} (h : c.md = mkMeta p sp ot e b t)
include h

theorem Cap.perms_of_md : c.perms = p % 256 := by
  rw [Cap.perms, c.mhi_toNat, h, mkMeta_toNat]; omega

theorem Cap.space_of_md : c.space = sp % 16 := by
  rw [Cap.space, c.mhi_toNat, h, mkMeta_toNat]; omega

theorem Cap.otype_of_md : c.otype = ot % 16 := by
  rw [Cap.otype, c.mhi_toNat, h, mkMeta_toNat]; omega

theorem Cap.exp_of_md : c.exp = e % 64 := by
  rw [Cap.exp, c.mhi_toNat, h, mkMeta_toNat]; omega

theorem Cap.bField_of_md : c.bField = b % 2 ^ 21 := by
  rw [Cap.bField, c.mhi_toNat, c.mlo_toNat, h, mkMeta_toNat]; omega

theorem Cap.tField_of_md : c.tField = t % 2 ^ 21 := by
  rw [Cap.tField, c.mlo_toNat, h, mkMeta_toNat]; omega

end

theorem Cap.perms_lt (c : Cap) : c.perms < 256 := by
  have := c.mhi.isLt
  rw [Cap.perms]; omega

theorem Cap.exp_lt (c : Cap) : c.exp < 64 := Nat.mod_lt _ (by decide)

theorem Cap.bField_lt (c : Cap) : c.bField < 2 ^ 21 := by
  have := c.mlo.isLt
  rw [Cap.bField]; omega

theorem Cap.tField_lt (c : Cap) : c.tField < 2 ^ 21 := Nat.mod_lt _ (by decide)

/-- The otype is 4 bits of the metadata, the rest is the other fields'. -/
theorem Cap.setMeta_otype (c : Cap) (n : Nat) : c.setMeta c.perms c.space n = withOtype c n := by
  have hlt := c.md.isLt
  refine congrArg (fun m => { c with md := m }) (BitVec.eq_of_toNat_eq ?_)
  rw [mkMeta_toNat, BitVec.toNat_ofNat, Cap.perms, Cap.space, Cap.exp, Cap.bField, Cap.tField, c.mhi_toNat, c.mlo_toNat]
  omega

/-- The permissions are the metadata's highest byte, the rest is the other fields'. -/
theorem Cap.setMeta_perms (c : Cap) (n : Nat) : c.setMeta n c.space c.otype = withPerms c n := by
  have hlt := c.md.isLt
  refine congrArg (fun m => { c with md := m }) (BitVec.eq_of_toNat_eq ?_)
  rw [mkMeta_toNat, BitVec.toNat_ofNat, Cap.otype, Cap.space, Cap.exp, Cap.bField, Cap.tField, c.mhi_toNat, c.mlo_toNat]
  omega

end Sys2Proof.Machine
end

section
/-!
PROOFS. The capability instructions whose checks pass (R137 to R140, R233): what they read, and the capability that each gives
every lane of a ready gather.
-/

namespace Sys2Proof.Machine

open Sys2Proof Sys2Proof.Machine.Claims

/-! ### Operands -/

theorem Tallied.quadPoison {s t : State} (h : Tallied s t) (r : LRef) (n : Nat) : t.quadPoison r n = s.quadPoison r n := by
  have := h.rest; rw [← this]; rfl

theorem Tallied.quadWords {s t : State} (h : Tallied s t) (r : LRef) (n : Nat) : t.quadWords r n = s.quadWords r n := by
  have := h.rest; rw [← this]; rfl

theorem Tallied.spaceSize {s t : State} (h : Tallied s t) (r : LRef) (n : Nat) : t.spaceSize r n = s.spaceSize r n := by
  have := h.rest; rw [← this]; rfl

theorem Tallied.grid {s t : State} (h : Tallied s t) (n : Nat) : t.grid n = s.grid n := by
  have := h.rest; rw [← this]; rfl

theorem Tallied.quadA {s t : State} (h : Tallied s t) (l : Latch) (r : LRef) (a : Reg) :
    (t.work l).quadA r a = regNo s l r codeA a := h.num l r codeA a.toNat

/-- Where the operand's checks pass, capVerdict finds nothing (Table 8.5). -/
theorem capVerdict_pass {c : Cap} {t sl : Bool} (ht : t = true → c.tag = true) (hs : sl = true → c.otype = 0) :
    capVerdict c false t sl none = none := by
  have h1 : (t && !c.tag) = false := by cases t <;> simp_all
  have h2 : (sl && decide (c.otype ≠ 0)) = false := by cases sl <;> simp_all
  simp only [capVerdict, Bool.false_eq_true, if_false, h1, h2]

theorem GivesCap.congr {i : Instr} {s : State} {l : Latch} {d : Reg} {c c' : LRef → Cap} {p : LRef → List Bool}
    (h : GivesCap i s l d c p) (hc : ∀ r ∈ l.lanes, c r = c' r) : GivesCap i s l d c' p := by
  obtain ⟨t, ht, hother, hlane⟩ := h
  exact ⟨t, ht, hother, fun r hr => hc r hr ▸ hlane r hr⟩

/-- What is written rests on the state before the writes. -/
theorem Work.writeRegs_now (w : Work) (code num : Nat) (f : State → LRef → List PWord) :
    w.writeRegs code num f = w.writeRegs code num fun _ => f w.s := rfl

theorem GivesWords.congr {i : Instr} {s : State} {l : Latch} {d : Reg} {v v' : LRef → List PWord} (h : GivesWords i s l d v)
    (hv : ∀ r, v r = v' r) : GivesWords i s l d v' := by
  obtain rfl : v = v' := funext hv
  exact h

@[simp] theorem work_s (s : State) (l : Latch) : (s.work l).s = s := rfl

/-! ### Reads -/

/-- Every lane receives the field of its capability, poisoned where a word of the capability is (check R). -/
theorem givesWords_of_capRead {i : Instr} {s : State} {l : Latch} {d a : Reg} {n : Nat} {f : Cap → List Word} (hr : Ready s l)
    (hf : InRange s l [rfld codeD d n, rfld codeA a 4]) (he : exec i s = capRead d a n f s) :
    GivesWords i s l d fun r => (f (rdCap s l r codeA a)).map fun x => ⟨x, rdBad s l r codeA a⟩ := by
  obtain ⟨s0, h0, hb⟩ := sources_inRange hf none rfl
  refine givesWords_of_writeRegs n hr h0 (he.trans ?_)
  rw [capRead, withGather_latched hr.latched, hb, Work.writeRegs_now]
  simp only [h0.quadA]
  refine congrArg (fun g => (((s0.work l).writeRegs codeD d.toNat fun _ => g).zeroRegs codeD d.toNat n).finish)
    (funext fun r => ?_)
  show (f (s0.cap r (regNo s l r codeA a))).map (fun x => PWord.mk x (s0.quadPoison r (regNo s l r codeA a))) = _
  rw [h0.cap, h0.quadPoison]
  rfl

theorem exec_cbase (d a : Reg) (s : State) : exec (.cbase d a) s = capRead d a 2 (fun c => twoWords c.base) s := rfl

theorem exec_clen (d a : Reg) (s : State) : exec (.clen d a) s = capRead d a 2 (fun c => twoWords (c.top - c.base)) s := rfl

theorem exec_ccur (d a : Reg) (s : State) :
    exec (.ccur d a) s = capRead d a 2 (fun c => [lo32 c.cursor, hi32 c.cursor]) s := rfl

theorem exec_cperm (d a : Reg) (s : State) : exec (.cperm d a) s =
    capRead d a 1 (fun c => [BitVec.ofNat 32 (c.perms + c.space * 2 ^ 8 + c.otype * 2 ^ 12)]) s := rfl

theorem exec_ctag (d a : Reg) (s : State) : exec (.ctag d a) s = capRead d a 1 (fun c => [boolWord c.tag]) s := rfl

/-- Settles O27: each reads one field of cA, whose poison passes to every word of the result. -/
theorem capabilityReads : Obligations.CapabilityReads := by
  refine fun d a s l hr => ⟨fun hf => ⟨?cbase, ?clen, ?ccur⟩, fun hf => ⟨?cperm, ?ctag⟩⟩
  case cbase => exact GivesWords.congr (givesWords_of_capRead hr hf (exec_cbase ..)) fun _ => rfl
  case clen => exact GivesWords.congr (givesWords_of_capRead hr hf (exec_clen ..)) fun _ => rfl
  case ccur => exact GivesWords.congr (givesWords_of_capRead hr hf (exec_ccur ..)) fun _ => rfl
  case cperm => exact GivesWords.congr (givesWords_of_capRead hr hf (exec_cperm ..)) fun _ => rfl
  case ctag => exact GivesWords.congr (givesWords_of_capRead hr hf (exec_ctag ..)) fun _ => rfl

/-! ### Results -/

/-- A capability instruction over cA and vB whose checks pass in every lane gives every lane its result. -/
theorem givesCap_of_capOp {i : Instr} {s : State} {l : Latch} {d a b : Reg}
    {verdict : State → LRef → Cap → Bool → PWord → Verdict} {result : State → LRef → Cap → Word → Cap} {c : LRef → Cap}
    (hr : Ready s l) (hf : InRange s l (fCap d a [rfld codeB b])) (he : exec i s = capOp d a (some b) verdict result s)
    (hv : ∀ t, ∀ r ∈ l.lanes, verdict t r (rdCap s l r codeA a) (rdBad s l r codeA a) (rd s l r codeB b) = none)
    (hc : ∀ s0, Tallied s s0 → ∀ r ∈ l.lanes, result s0 r (rdCap s l r codeA a) (rd s l r codeB b).val = c r) :
    GivesCap i s l d c fun _ => [] := by
  obtain ⟨s0, h0, hb⟩ := sources_inRange (flds := [rfld codeD d 4, rfld codeA a 4] ++ ((some b).map fun x => rfld codeB x).toList)
    hf none rfl
  have hcap : ∀ r, s0.cap r (regNo s l r codeA a) = rdCap s l r codeA a := fun r => h0.cap r _
  have hbad : ∀ r, s0.quadPoison r (regNo s l r codeA a) = rdBad s l r codeA a := fun r => h0.quadPoison r _
  refine GivesCap.congr (c := fun r => result s0 r (rdCap s l r codeA a) (rd s l r codeB b).val) ?_ (hc s0 h0)
  refine givesCap_of_wrCap hr h0 (he.trans ?_)
  rw [capOp, withGather_latched hr.latched, hb]
  dsimp only
  rw [foldl_keep _ (s0.work l) (s0.work l).live ?pass]
  case pass =>
    intro r h
    rw [h0.quadA, h0.regOf]
    show (match verdict s0 r (s0.cap r _) (s0.quadPoison r _) _ with | some (c, t) => _ | none => _) = _
    rw [hcap, hbad, hv s0 r h]
  simp only [h0.quadA, h0.regOf]
  show Work.finish (Work.zeroRegs { s0.work l with s := l.lanes.foldl (fun s r => s.wrCap r _ (result s0 r (s0.cap r _) _) []) s0 } _ _ _) = _
  simp only [hcap]

/-- A seal or an unseal whose checks on cA and on cB pass in every lane gives every lane its result (R139). -/
theorem givesCap_of_sealOp {i : Instr} {s : State} {l : Latch} {d a b : Reg} {checkA : Cap → Bool → Verdict}
    {checkB : Cap → Cap → Bool} {result : Cap → Cap → Cap} (hr : Ready s l) (hf : InRange s l (fCap d a [rfld codeB b 4]))
    (he : exec i s = sealOp d a b checkA checkB result s)
    (hv : ∀ r ∈ l.lanes, checkA (rdCap s l r codeA a) (rdBad s l r codeA a) = none ∧
      sealVerdict (rdCap s l r codeA a) (rdCap s l r codeB b) (rdBad s l r codeB b) = none ∧
      checkB (rdCap s l r codeA a) (rdCap s l r codeB b) = true) :
    GivesCap i s l d (fun r => result (rdCap s l r codeA a) (rdCap s l r codeB b)) fun _ => [] := by
  obtain ⟨s0, h0, hb⟩ := sources_inRange (flds := [rfld codeD d 4, rfld codeA a 4, rfld codeB b 4]) hf none rfl
  have hcap : ∀ r code (n : Reg), s0.cap r (regNo s l r code n) = rdCap s l r code n := fun r code n => h0.cap r _
  have hbad : ∀ r code (n : Reg), s0.quadPoison r (regNo s l r code n) = rdBad s l r code n := fun r code n => h0.quadPoison r _
  have hnum : ∀ r code (n : Reg), (s0.work l).rnum r code n.toNat = regNo s l r code n := fun r code n => h0.num l r code n.toNat
  refine givesCap_of_wrCap hr h0 (he.trans ?_)
  rw [sealOp, withGather_latched hr.latched, hb]
  dsimp only
  rw [foldl_keep _ (s0.work l) (s0.work l).live ?pass]
  case pass =>
    intro r h
    obtain ⟨hA, hS, hB⟩ := hv r h
    simp only [h0.quadA, hnum, work_s, hcap, hbad, hA, hS, hB, if_true]
  simp only [h0.quadA, hnum]
  show Work.finish (Work.zeroRegs
    { s0.work l with s := l.lanes.foldl (fun s r => s.wrCap r _ (result (s0.cap r _) (s0.cap r _)) []) s0 } _ _ _) = _
  simp only [hcap]

/-! ### Moves -/

theorem lane_congr_reg {s t : State} {r : LRef} (hl : t.lane r = s.lane r) (hs : t.steps = s.steps) (n : Nat) :
    t.reg r n = s.reg r n := by
  rw [State.reg, hl, hs, State.reg]

theorem lane_congr_quadWords {s t : State} {r : LRef} (hl : t.lane r = s.lane r) (hs : t.steps = s.steps) (n : Nat) :
    t.quadWords r n = s.quadWords r n := by
  simp only [State.quadWords, lane_congr_reg hl hs]

theorem lane_congr_cap {s t : State} {r : LRef} (hl : t.lane r = s.lane r) (hs : t.steps = s.steps) (n : Nat) :
    t.cap r n = s.cap r n := by
  rw [State.cap, lane_congr_quadWords hl hs, hl, State.cap]

/-- Changes of different lanes, each resting on nothing that a change of another lane touches, rest on the state before any of them. -/
theorem foldl_modLane_now (F : State → LRef → Lane → Lane)
    (hF : ∀ s r f x, x ≠ r → F (s.modLane r f) x = F s x) : ∀ (ls : List LRef) (s : State), ls.Nodup →
    ls.foldl (fun s r => s.modLane r (F s r)) s = ls.foldl (fun t r => t.modLane r (F s r)) s
  | [], _, _ => rfl
  | r :: ls, s, hn => by
    obtain ⟨hr, hn⟩ := List.nodup_cons.1 hn
    rw [List.foldl_cons, foldl_modLane_now F hF ls _ hn, List.foldl_cons]
    refine List.foldl_ext _ _ _ fun t x hx => ?_
    have hne : x ≠ r := fun h => hr (h ▸ hx)
    rw [hF s r _ x hne]

/-- The lane that a move of its own capability makes. -/
def moveCap (src dst : LRef → Nat) (s : State) (r : LRef) (x : Lane) : Lane :=
  putCap x (dst r) (s.cap r (src r)) ((s.quadWords r (src r)).map (·.poison))

theorem moveCap_modLane (src dst : LRef → Nat) (s : State) (r : LRef) (f : Lane → Lane) (x : LRef) (hne : x ≠ r) :
    moveCap src dst (s.modLane r f) x = moveCap src dst s x := by
  have hlane := lane_modLane_ne s hne f
  funext y
  rw [moveCap, lane_congr_cap hlane rfl, lane_congr_quadWords hlane rfl, moveCap]

theorem exec_cmov (d a : Reg) (s : State) : exec (.cmov d a) s = execCmov d a s := rfl

theorem gives_cmov {s : State} {l : Latch} {d a : Reg} (hr : Ready s l) (hf : InRange s l (fCap d a [])) :
    GivesCap (.cmov d a) s l d (fun r => rdCap s l r codeA a)
      fun r => (s.quadWords r (regNo s l r codeA a)).map (·.poison) := by
  obtain ⟨s0, h0, hb⟩ := sources_inRange (flds := [rfld codeD d 4, rfld codeA a 4]) hf none rfl
  refine givesCap_of_wrCap hr h0 ((exec_cmov ..).trans ?_)
  rw [execCmov, withGather_latched hr.latched, hb]
  dsimp only
  simp only [h0.quadA]
  have hmove := foldl_modLane_now _ (moveCap_modLane (fun r => regNo s l r codeA a) fun r => (s0.work l).rnum r codeD d.toNat)
    l.lanes s0 hr.nodup
  refine (congrArg (fun t => Work.finish (Work.zeroRegs { s0.work l with s := t } codeD d.toNat 4)) hmove).trans ?_
  simp only [rdCap, ← h0.quadWords, ← h0.cap]
  rfl

theorem exec_cdisp (d : Reg) (k : BitVec 6) (s : State) : exec (.cdisp d k) s = execCdisp d k s := rfl

/-- The lane that receives a capability of its grid's display. -/
def showCap (k : BitVec 6) (dst : LRef → Nat) (s : State) (r : LRef) (x : Lane) : Lane :=
  putCap x (dst r) ((s.grid (s.group r.1).grid).display.getD k.toNat {}) []

theorem showCap_modLane (k : BitVec 6) (dst : LRef → Nat) (s : State) (r : LRef) (f : Lane → Lane) (x : LRef) (_ : x ≠ r) :
    showCap k dst (s.modLane r f) x = showCap k dst s x := by
  funext y
  rw [showCap, group_modLane_grid]
  rfl

theorem gives_cdisp {s : State} {l : Latch} {d : Reg} (k : BitVec 6) (hr : Ready s l) (hf : InRange s l [rfld codeD d 4]) :
    GivesCap (.cdisp d k) s l d (fun r => (s.grid (s.group r.1).grid).display.getD k.toNat {}) fun _ => [] := by
  obtain ⟨s0, h0, hb⟩ := sources_inRange hf none rfl
  refine givesCap_of_wrCap hr h0 ((exec_cdisp ..).trans ?_)
  rw [execCdisp, withGather_latched hr.latched, hb]
  have hmove := foldl_modLane_now _ (showCap_modLane k fun r => (s0.work l).rnum r codeD d.toNat) l.lanes s0 hr.nodup
  refine (congrArg (fun t => Work.finish (Work.zeroRegs { s0.work l with s := t } codeD d.toNat 4)) hmove).trans ?_
  simp only [← h0.grid, ← h0.group]
  rfl

theorem exec_cadd (d a b : Reg) (s : State) : exec (.cadd d a b) s = execCadd d a b s := rfl

theorem exec_candp (d a b : Reg) (s : State) : exec (.candp d a b) s = execCandp d a b s := rfl

/-- Settles O28: cmov and cdisp check nothing, and the checks of cadd and candp pass. -/
theorem capabilityMoves : Obligations.CapabilityMoves := by
  refine fun d a b k s l hr => ⟨gives_cmov hr, gives_cdisp k hr, fun hf hp => ⟨?cadd, ?candp⟩⟩
  case cadd =>
    refine givesCap_of_capOp hr hf (exec_cadd ..) (fun t r h => ?_) fun s0 h0 r h => rfl
    obtain ⟨hbad, hpoison, hotype⟩ := hp r h
    rw [hbad, hpoison]
    exact capVerdict_pass nofun fun _ => hotype
  case candp =>
    refine givesCap_of_capOp hr hf (exec_candp ..) (fun t r h => ?_) fun s0 h0 r h => Cap.setMeta_perms ..
    obtain ⟨hbad, hpoison, hotype⟩ := hp r h
    rw [hbad, hpoison]
    exact capVerdict_pass nofun fun _ => hotype

/-! ### Bounds -/

/-- The least exponent from `k` upward at which the rounded bounds fit is the one found. -/
theorem fitBounds_least {b t e : Nat} (hfit : (t + 2 ^ e - 1) / 2 ^ e * 2 ^ e - b / 2 ^ e * 2 ^ e ≤ (2 ^ 21 - 1) * 2 ^ e)
    (hless : ∀ k, k < e → (2 ^ 21 - 1) * 2 ^ k < (t + 2 ^ k - 1) / 2 ^ k * 2 ^ k - b / 2 ^ k * 2 ^ k) :
    ∀ fuel k, k ≤ e → e ≤ k + fuel →
      fitBounds b t fuel k = (e, b / 2 ^ e * 2 ^ e, (t + 2 ^ e - 1) / 2 ^ e * 2 ^ e)
  | 0, k, hk, he => by
    obtain rfl : k = e := by omega
    rfl
  | fuel + 1, k, hk, he => by
    rw [fitBounds]
    rcases Nat.lt_or_eq_of_le hk with hlt | rfl
    · rw [if_neg (not_le.2 (hless k hlt)), fitBounds_least hfit hless fuel (k + 1) hlt (by omega)]
    · rw [if_pos hfit]

/-- Where the operand's checks pass, those of its bounds among them, capVerdict finds nothing (Table 8.5). -/
theorem capVerdict_within {c : Cap} {n : Nat} (ht : c.tag = true) (hs : c.otype = 0) (hbase : c.base ≤ c.cursor.toNat)
    (htop : ((c.cursor.toNat + n : Nat) : Int) ≤ c.top) : capVerdict c false true true (some n) = none := by
  have hin : ¬ ((c.cursor.toNat : Int) < c.base ∨ c.top < (c.cursor.toNat : Int) + n) := by push_cast at htop; omega
  simp only [capVerdict, ht, hs, Bool.false_eq_true, if_false, Bool.not_true, Bool.and_false, ne_eq, not_true, decide_false,
    if_neg hin]

/-- What csetb and csetbx check of a lane's operands. -/
def boundsCheck (exact : Bool) (c : Cap) (p : Bool) (x : PWord) : Verdict :=
  match capVerdict c (p || x.poison) true true (some x.val.toNat) with
  | some v => some v
  | none =>
    let f := fitBounds c.cursor.toNat (c.cursor.toNat + x.val.toNat) 63 0
    if exact && (f.2.1 != c.cursor.toNat || f.2.2 != c.cursor.toNat + x.val.toNat) then some (0x05, c.cursor) else none

/-- What they give it. -/
def boundsResult (c : Cap) (x : Word) : Cap :=
  let f := fitBounds c.cursor.toNat (c.cursor.toNat + x.toNat) 63 0
  c.setBounds f.1 f.2.1 f.2.2

theorem exec_csetb (d a b : Reg) (s : State) : exec (.csetb d a b) s =
    capOp d a (some b) (fun _ _ => boundsCheck false) (fun _ _ => boundsResult) s := rfl

theorem exec_csetbx (d a b : Reg) (s : State) : exec (.csetbx d a b) s =
    capOp d a (some b) (fun _ _ => boundsCheck true) (fun _ _ => boundsResult) s := rfl

/-- Bounds rounded outward at an exponent (R138): the base down, the top up. -/
def roundDown (x k : Nat) : Nat := x / 2 ^ k * 2 ^ k
def roundUp (x k : Nat) : Nat := (x + 2 ^ k - 1) / 2 ^ k * 2 ^ k

/-- The `n` bytes at a capability's cursor lie within it, and `e` is the least exponent that holds them rounded outward. -/
structure BoundsFit (c : Cap) (n e : Nat) : Prop where
  tag : c.tag = true
  plain : c.otype = 0
  base : c.base ≤ c.cursor.toNat
  top : ((c.cursor.toNat + n : Nat) : Int) ≤ c.top
  small : e ≤ 43
  fits : roundUp (c.cursor.toNat + n) e - roundDown c.cursor.toNat e ≤ (2 ^ 21 - 1) * 2 ^ e
  least : ∀ k, k < e → (2 ^ 21 - 1) * 2 ^ k < roundUp (c.cursor.toNat + n) k - roundDown c.cursor.toNat k

/-- The bounds that csetb finds are those at that exponent. -/
theorem BoundsFit.found {c : Cap} {n e : Nat} (h : BoundsFit c n e) : fitBounds c.cursor.toNat (c.cursor.toNat + n) 63 0 =
    (e, roundDown c.cursor.toNat e, roundUp (c.cursor.toNat + n) e) :=
  fitBounds_least h.fits h.least 63 0 (Nat.zero_le _) (by have := h.small; omega)

/-- The capability that csetb and csetbx give. -/
def Cap.fitted (c : Cap) (n e : Nat) : Cap :=
  { c with md := mkMeta c.perms c.space 0 e (c.cursor.toNat / 2 ^ e % 2 ^ 21) (roundUp (c.cursor.toNat + n) e / 2 ^ e % 2 ^ 21) }

theorem BoundsFit.set {c : Cap} {n e : Nat} (h : BoundsFit c n e) :
    c.setBounds e (roundDown c.cursor.toNat e) (roundUp (c.cursor.toNat + n) e) = c.fitted n e := by
  rw [Cap.setBounds, h.plain, Cap.fitted, roundDown, Nat.mul_div_cancel _ (Nat.two_pow_pos e)]

theorem BoundsFit.verdict {c : Cap} {n e : Nat} (h : BoundsFit c n e) : capVerdict c false true true (some n) = none :=
  capVerdict_within h.tag h.plain h.base h.top

section
variable {s : State} {l : Latch} {d a b : Reg} {e : LRef → Nat} (hr : Ready s l) (hf : InRange s l (fCap d a [rfld codeB b]))
  (hp : ∀ r ∈ l.lanes, rdBad s l r codeA a = false ∧ (rd s l r codeB b).poison = false ∧
    BoundsFit (rdCap s l r codeA a) (rd s l r codeB b).val.toNat (e r))
include hr hf hp

theorem gives_csetb :
    GivesCap (.csetb d a b) s l d (fun r => (rdCap s l r codeA a).fitted (rd s l r codeB b).val.toNat (e r)) fun _ => [] := by
  refine givesCap_of_capOp hr hf (exec_csetb ..) (fun t r h => ?_) fun s0 h0 r h => ?_
  · obtain ⟨hbad, hpoison, hfit⟩ := hp r h
    simp only [boundsCheck, hbad, hpoison, Bool.or_self, hfit.verdict, Bool.false_and, Bool.false_eq_true, if_false]
  · obtain ⟨_, _, hfit⟩ := hp r h
    simp only [boundsResult, hfit.found, hfit.set]

theorem gives_csetbx (hexact : ∀ r ∈ l.lanes,
      roundDown (rdCap s l r codeA a).cursor.toNat (e r) = (rdCap s l r codeA a).cursor.toNat ∧
      roundUp ((rdCap s l r codeA a).cursor.toNat + (rd s l r codeB b).val.toNat) (e r) =
        (rdCap s l r codeA a).cursor.toNat + (rd s l r codeB b).val.toNat) :
    GivesCap (.csetbx d a b) s l d (fun r => (rdCap s l r codeA a).fitted (rd s l r codeB b).val.toNat (e r)) fun _ => [] := by
  refine givesCap_of_capOp hr hf (exec_csetbx ..) (fun t r h => ?_) fun s0 h0 r h => ?_
  · obtain ⟨hbad, hpoison, hfit⟩ := hp r h
    obtain ⟨hdown, hup⟩ := hexact r h
    simp only [boundsCheck, hbad, hpoison, Bool.or_self, hfit.verdict, hfit.found, hdown, hup, bne_self_eq_false, Bool.and_false,
      Bool.false_eq_true, if_false]
  · obtain ⟨_, _, hfit⟩ := hp r h
    simp only [boundsResult, hfit.found, hfit.set]

end

/-- Settles O29: the model's search stops at the least exponent that holds the bounds, where the other checks pass. -/
theorem capabilityBounds : Obligations.CapabilityBounds := by
  intro d a b s l e hr hf c lo hi down up hp res
  have hfit : ∀ r ∈ l.lanes, rdBad s l r codeA a = false ∧ (rd s l r codeB b).poison = false ∧
      BoundsFit (rdCap s l r codeA a) (rd s l r codeB b).val.toNat (e r) := fun r h => by
    obtain ⟨hbad, hpoison, htag, hotype, hbase, htop, he, hunits, hless⟩ := hp r h
    exact ⟨hbad, hpoison, htag, hotype, hbase, htop, he, hunits, hless⟩
  exact ⟨gives_csetb hr hf hfit, gives_csetbx hr hf hfit⟩

/-! ### Seals -/

theorem exec_cseal (d a b : Reg) (s : State) : exec (.cseal d a b) s = execCseal d a b s := rfl

theorem exec_cunseal (d a b : Reg) (s : State) : exec (.cunseal d a b) s = execCunseal d a b s := rfl

/-- A sealing capability within whose bounds its cursor lies passes (R139). -/
theorem sealVerdict_pass {c k : Cap} (ht : k.tag = true) (hs : k.otype = 0) (hspace : k.space = 15)
    (hbase : k.base ≤ k.cursor.toNat) (htop : (k.cursor.toNat : Int) < k.top) : sealVerdict c k false = none := by
  simp only [sealVerdict, ht, hs, hspace, decide_eq_false hbase.not_gt, decide_eq_false htop.not_ge, Bool.false_eq_true,
    if_false, ne_eq, not_true, decide_false, Bool.not_true, Bool.or_self]

/-- Settles O30: the checks on both operands pass, and the otype alone changes. -/
theorem capabilitySeals : Obligations.CapabilitySeals := by
  intro d a b s l hr hf c k hp
  have hseal : ∀ r ∈ l.lanes, sealVerdict (c r) (k r) (rdBad s l r codeB b) = none := fun r h => by
    obtain ⟨_, hbad, _, htag, hotype, hspace, hbase, htop⟩ := hp r h
    rw [hbad]
    exact sealVerdict_pass htag hotype hspace hbase htop
  refine ⟨fun ho => ?cseal, fun ho => ?cunseal⟩
  case cseal =>
    refine GivesCap.congr (givesCap_of_sealOp hr hf (exec_cseal ..) fun r h => ⟨?_, hseal r h, ?_⟩)
      fun r _ => Cap.setMeta_otype ..
    · obtain ⟨hbad, _, htag, _⟩ := hp r h
      rw [hbad]
      exact capVerdict_pass (fun _ => htag) fun _ => (ho r h).1
    · obtain ⟨_, hlow, hhigh⟩ := ho r h
      rw [decide_eq_true hlow, decide_eq_true hhigh]
      rfl
  case cunseal =>
    refine GivesCap.congr (givesCap_of_sealOp hr hf (exec_cunseal ..) fun r h => ⟨?_, hseal r h, ?_⟩)
      fun r _ => Cap.setMeta_otype ..
    · obtain ⟨hbad, _, htag, _⟩ := hp r h
      have hverdict : capVerdict (rdCap s l r codeA a) false true false none = none :=
        capVerdict_pass (fun _ => htag) fun h => absurd h Bool.false_ne_true
      simp only [hbad, hverdict]
      exact if_neg (not_lt.2 (ho r h).1)
    · exact beq_iff_eq.2 (ho r h).2

/-! ### Scratchpad roots -/

theorem exec_csetc (d a b : Reg) (s : State) : exec (.csetc d a b) s = execCsetc d a b s := rfl

/-- Settles O31: the checks pass, and the root measures what the lane's share or its block's scratchpad does. -/
theorem scratchRoots : Obligations.ScratchRoots := by
  intro d a b s l hr hf c sp hp
  refine givesCap_of_capOp hr hf (exec_csetc ..) (fun t r h => ?_) fun s0 h0 r h => ?_
  · obtain ⟨hbad, hpoison, htag, hotype, hsp, hperm⟩ := hp r h
    have hverdict : capVerdict (rdCap s l r codeA a) false true true none = none :=
      capVerdict_pass (fun _ => htag) fun _ => hotype
    have hspace : ¬ ((rd s l r codeB b).val ≠ 1 ∧ (rd s l r codeB b).val ≠ 2) := fun hne =>
      hsp.elim (fun h1 => hne.1 (BitVec.eq_of_toNat_eq h1)) fun h2 => hne.2 (BitVec.eq_of_toNat_eq h2)
    have hread : ((c r).perm 0 || (c r).perm 1) = true := Bool.or_eq_true_iff.2 hperm
    simp only [hbad, hpoison, Bool.or_self, hverdict, if_neg hspace]
    rw [hread, if_neg (by decide)]
  · rw [h0.spaceSize]

end Sys2Proof.Machine
end

section
/-!
PROOFS. What the end of an instruction leaves of every lane's registers: traps, kills, halts of a context and commit points
change neither a word nor a tag of a lane whose registers no engine owns and that holds no word past its time (R95, R327 to R335).
-/

namespace Sys2Proof.Machine

open Sys2Proof

/-! ### Lanes whose registers stand -/

/-- The registers and tags of `x`, where the engine owns none and none is past its time, stand in `y`. -/
def Lane.Alike (x y : Lane) : Prop :=
  x.owned = [] → x.stale = [] → y.owned = [] ∧ y.stale = [] ∧ y.regs = x.regs ∧ y.tags = x.tags

theorem Lane.Alike.refl (x : Lane) : x.Alike x := fun ho hs => ⟨ho, hs, rfl, rfl⟩

theorem Lane.Alike.trans {x y z : Lane} (h : x.Alike y) (k : y.Alike z) : x.Alike z := fun ho hs => by
  obtain ⟨hyo, hys, hyr, hyt⟩ := h ho hs
  obtain ⟨hzo, hzs, hzr, hzt⟩ := k hyo hys
  exact ⟨hzo, hzs, hzr.trans hyr, hzt.trans hyt⟩

/-- The same of every lane of a group, by its number. -/
def Group.Alike (g h : Group) : Prop := h.gid = g.gid ∧ ∀ k : Nat, Lane.Alike ((g.lanes[k]?).getD {}) ((h.lanes[k]?).getD {})

theorem Group.Alike.of_lanes {g h : Group} (hgid : h.gid = g.gid) (hl : h.lanes = g.lanes) : g.Alike h :=
  ⟨hgid, fun k => hl ▸ Lane.Alike.refl _⟩

theorem Group.Alike.refl (g : Group) : g.Alike g := .of_lanes rfl rfl

theorem Group.Alike.trans {g h i : Group} (x : g.Alike h) (y : h.Alike i) : g.Alike i :=
  ⟨y.1.trans x.1, fun k => (x.2 k).trans (y.2 k)⟩

theorem Group.Alike.map {g h : Group} (f : Lane → Lane) (hgid : h.gid = g.gid) (hl : h.lanes = g.lanes.map f)
    (hf : ∀ x : Lane, x.Alike (f x)) : g.Alike h := ⟨hgid, fun k => by
  rw [hl, List.getElem?_map]
  cases g.lanes[k]? with
  | none => exact Lane.Alike.refl _
  | some x => exact hf x⟩

theorem Group.numbered_getElem? (g : Group) (k : Nat) : g.numbered[k]? = (g.lanes[k]?).map fun x => (k, x) := by
  rw [Group.numbered, upto]
  by_cases h : k < g.lanes.length
  · simp [h, List.getElem?_eq_getElem]
  · simp [h, List.getElem?_eq_none]

theorem Group.Alike.numbered {g h : Group} (f : Nat × Lane → Lane) (hgid : h.gid = g.gid) (hl : h.lanes = g.numbered.map f)
    (hf : ∀ x : Nat × Lane, x.2.Alike (f x)) : g.Alike h := ⟨hgid, fun k => by
  rw [hl, List.getElem?_map, Group.numbered_getElem?]
  cases g.lanes[k]? with
  | none => exact Lane.Alike.refl _
  | some x => exact hf (k, x)⟩

theorem Group.Alike.modify {g h : Group} (i : Nat) (f : Lane → Lane) (hgid : h.gid = g.gid) (hl : h.lanes = g.lanes.modify i f)
    (hf : ∀ x : Lane, x.Alike (f x)) : g.Alike h := ⟨hgid, fun k => by
  rw [hl, List.getElem?_modify]
  cases g.lanes[k]? with
  | none => exact Lane.Alike.refl _
  | some x =>
    show x.Alike (if i = k then f x else x)
    split
    · exact hf x
    · exact Lane.Alike.refl x⟩

/-! ### States in which every lane's registers stand -/

/-- The same of every lane of the state. -/
structure State.Alike (s t : State) : Prop where
  lane : ∀ r, (s.lane r).Alike (t.lane r)

theorem State.Alike.refl (s : State) : s.Alike s := ⟨fun _ => Lane.Alike.refl _⟩

theorem State.Alike.trans {s t u : State} (h : s.Alike t) (k : t.Alike u) : s.Alike u :=
  ⟨fun r => (h.lane r).trans (k.lane r)⟩

theorem State.Alike.of_map {s t : State} (f : Group → Group) (ht : t.groups = s.groups.map f) (hf : ∀ g : Group, g.Alike (f g)) :
    s.Alike t := ⟨fun r => by
  rw [State.lane, State.lane, State.group, State.group, ht, find_map_gid _ _ fun g => (hf g).1]
  cases s.groups.find? (·.gid == r.1) with
  | none => exact Lane.Alike.refl _
  | some g => exact (hf g).2 r.2⟩

theorem State.Alike.of_groups {s t : State} (h : t.groups = s.groups) : s.Alike t :=
  .of_map id (by rw [h, List.map_id]) Group.Alike.refl

theorem State.Alike.regroup {s t u : State} (h : s.Alike t) (hg : u.groups = t.groups) : s.Alike u :=
  h.trans (.of_groups hg)

theorem alike_modGroup (s : State) (gid : Nat) {f : Group → Group} (hf : ∀ g : Group, g.Alike (f g)) : s.Alike (s.modGroup gid f) :=
  .of_map (fun g => if g.gid == gid then f g else g) rfl fun g => by
    split
    · exact hf g
    · exact Group.Alike.refl g

theorem alike_modLane (s : State) (r : LRef) {f : Lane → Lane} (hf : ∀ x : Lane, x.Alike (f x)) : s.Alike (s.modLane r f) :=
  alike_modGroup s r.1 fun g => .modify r.2 f rfl rfl hf

theorem alike_foldl {β : Type} {f : State → β → State} (hf : ∀ (s : State) b, s.Alike (f s b)) (ls : List β) (s : State) :
    s.Alike (ls.foldl f s) := foldl_related State.Alike State.Alike.refl (fun h k => h.trans k) f hf ls s

theorem alike_ite {s t u : State} {c : Prop} [Decidable c] (ht : s.Alike t) (hu : s.Alike u) :
    s.Alike (if c then t else u) := by
  split
  · exact ht
  · exact hu

/-! ### Barriers and regions -/

theorem alike_dropFrom (s : State) (t : Whose) (off slot : Nat) (e : Roster) : s.Alike (s.dropFrom t off slot e) := by
  unfold State.dropFrom
  exact alike_ite (.of_groups rfl) (.of_groups rfl)

theorem alike_dropAll (s : State) (t : Whose) : s.Alike (s.dropAll t) := by
  refine alike_foldl (fun s x => ?_) _ s
  split
  · exact alike_ite (alike_dropFrom ..) (State.Alike.refl s)
  · exact State.Alike.refl s

theorem alike_gbarCheck (s : State) (grid : Nat) (t : Whose) : s.Alike (s.gbarCheck grid t) := by
  unfold State.gbarCheck
  exact alike_ite (.of_groups rfl) (State.Alike.refl s)

theorem alike_dropRecords (s : State) (i : Nat) : s.Alike (s.dropRecords i) := by
  unfold State.dropRecords
  refine alike_foldl (fun s _ => ?_) _ s
  exact alike_ite (State.Alike.refl s) (.of_groups rfl)

theorem alike_freeRegion (s : State) (i : Nat) : s.Alike (s.freeRegion i) := by
  unfold State.freeRegion
  exact alike_ite (.of_groups rfl) (State.Alike.refl s)

/-- A lane's pending events are no part of its registers. -/
theorem Lane.Alike.async (x : Lane) (a : List Async) : x.Alike { x with async := a } := fun ho hs => ⟨ho, hs, rfl, rfl⟩

theorem alike_abortRegion (s : State) (i : Nat) (reason : Byte) : s.Alike (s.abortRegion i reason) := by
  unfold State.abortRegion
  dsimp only
  refine alike_ite ?_ (State.Alike.refl s)
  refine .trans ?_ (alike_freeRegion _ i)
  refine .trans ?_ (alike_foldl (fun s gid => ?_) _ _)
  · refine .trans ?_ (alike_foldl (fun s gid => ?_) _ _)
    · exact (alike_dropRecords s i).regroup rfl
    · exact alike_ite (State.Alike.refl s) (.of_groups rfl)
  · refine alike_modGroup s gid fun g => .map _ rfl rfl fun x => ?_
    split
    · exact Lane.Alike.async x _
    · exact Lane.Alike.refl x

/-! ### The end of a lane -/

theorem alike_dropTicket (s : State) (block crew : Nat) : s.Alike (s.dropTicket block crew) := by
  unfold State.dropTicket
  exact alike_ite (.of_groups rfl) (State.Alike.refl s)

theorem Lane.Alike.ended (x : Lane) : x.Alike x.ended := fun _ hs => ⟨rfl, hs, rfl, rfl⟩

theorem Group.Alike.settleRecs (g : Group) : g.Alike g.settleRecs := by
  unfold Group.settleRecs
  generalize (upto 8).zip g.recs = l
  suffices h : ∀ (l : List (Nat × Rec)) (k : Group), g.Alike k → g.Alike (l.foldl _ k) from h l g (Group.Alike.refl g)
  intro l
  induction l with
  | nil => exact fun _ h => h
  | cons x t ih =>
    refine fun k h => ih _ (h.trans ?_)
    dsimp only
    split
    · refine .map _ rfl rfl fun y => ?_
      split
      · exact fun ho hs => ⟨ho, hs, rfl, rfl⟩
      · exact Lane.Alike.refl y
    · exact Group.Alike.refl k

theorem alike_endLane (s : State) (r : LRef) (killed : Bool) : s.Alike (s.endLane r killed) := by
  unfold State.endLane
  extract_lets l g t s₁ s₂ s₃ s₄ s₅ s₆
  refine alike_ite (State.Alike.refl s) ?_
  have h₁ : s.Alike s₁ :=
    alike_ite (.regroup (alike_modGroup s r.1 (f := fun g => { g with spec := g.spec.filter fun o => o.lane != r.2 })
      fun g => .of_lanes rfl rfl) rfl) (State.Alike.refl s)
  have h₂ : s.Alike s₂ := h₁.trans (alike_modLane s₁ r Lane.Alike.ended)
  have h₃ : s.Alike s₃ := h₂.trans (alike_modGroup s₂ r.1 Group.Alike.settleRecs)
  have h₄ : s.Alike s₄ := h₃.trans (alike_dropAll s₃ t)
  have h₅ : s.Alike s₅ := alike_ite (h₄.trans (alike_gbarCheck s₄ g.grid t)) h₄
  have h₆ : s.Alike s₆ := by
    dsimp only [s₆]
    split
    · exact alike_ite (h₅.trans (alike_abortRegion ..)) (alike_ite h₅ (h₅.trans (alike_abortRegion ..)))
    · exact h₅
  exact alike_ite h₃ (h₆.trans (alike_dropTicket s₆ g.block l.crew))

theorem alike_endHelpers (s : State) (gid : Nat) : s.Alike (s.endHelpers gid) := by
  unfold State.endHelpers
  refine alike_foldl (fun s x => ?_) _ s
  exact alike_ite (alike_endLane s (gid, x.1) false) (State.Alike.refl s)

theorem alike_exitLane (s : State) (r : LRef) (killed : Bool) : s.Alike (s.exitLane r killed) :=
  (alike_endLane s r killed).trans (alike_endHelpers _ r.1)

/-! ### Traps -/

theorem alike_deliver (s : State) (r : LRef) (cause : Byte) (pc data : DWord) : s.Alike (s.deliver r cause pc data) :=
  alike_modLane s r fun _ ho hs => ⟨ho, hs, rfl, rfl⟩

/-- Nothing of a lane that holds no word past its time changes as its words are refreshed (R157). -/
theorem Lane.Alike.refresh (x : Lane) (t who : Nat) : x.Alike (x.refresh t who) := fun ho hs => by
  refine ⟨ho, rfl, ?_, rfl⟩
  rw [Lane.refresh, hs]
  rfl

theorem Group.Alike.stopAt (now : DWord) (g : Group) : g.Alike (g.stopAt now) :=
  .map _ rfl rfl fun _ ho hs => ⟨ho, hs, rfl, rfl⟩

theorem Group.Alike.halt (t : Nat) (now : DWord) (g : Group) : g.Alike (g.halt t now) := by
  unfold Group.halt
  refine .trans ?_ (Group.Alike.stopAt now _)
  refine .numbered _ rfl rfl fun x => ?_
  have h := Lane.Alike.refresh x.2 t (g.gid * 64 + x.1)
  dsimp only
  split
  · exact h.trans fun ho hs => ⟨ho, hs, rfl, rfl⟩
  · exact h

theorem alike_haltLanes (s : State) (ctx : Nat) : s.Alike (s.haltLanes ctx) :=
  .trans (t := s.pendOps ctx) (.of_groups rfl) (alike_foldl (fun s gid => alike_modGroup s gid (Group.Alike.halt _ _)) _ _)

theorem alike_keepRows (s : State) (ctx : Nat) : s.Alike (s.keepRows ctx) := by
  unfold State.keepRows
  refine alike_ite (.of_map _ rfl fun g => ?_) (State.Alike.refl s)
  split
  · exact .of_lanes rfl rfl
  · exact Group.Alike.refl g

theorem alike_haltCtx (s : State) (ctx : Nat) (why : Request) : s.Alike (s.haltCtx ctx why) :=
  .regroup ((alike_haltLanes s ctx).trans (alike_keepRows _ ctx)) rfl

theorem alike_dumpCtx (s : State) (ctx : Nat) (es : List FaultEntry) (kill : Bool) : s.Alike (s.dumpCtx ctx es kill) :=
  .trans (t := s.modCtx ctx _) (.of_groups rfl) (alike_haltCtx _ ctx _)

theorem alike_stopLanes (s : State) (ctx : Nat) : s.Alike (s.stopLanes ctx) := by
  refine .trans (t := s.pendOps ctx) (.of_groups rfl) (.of_map _ rfl fun g => ?_)
  split
  · exact Group.Alike.halt _ _ g
  · exact Group.Alike.refl g

theorem alike_killBy (s : State) (ctx : Nat) (e : Option FaultEntry) : s.Alike (s.killBy ctx e) :=
  .trans (t := s.modCtx ctx _) (.of_groups rfl) (.regroup (alike_stopLanes _ ctx) rfl)

theorem alike_handle (s : State) (ctx : Nat) (ts : List Trap) : s.Alike (s.handle ctx ts) := by
  unfold State.handle
  extract_lets slot hs s₁ s₂ stops es s₃ kill
  have h₁ : s.Alike s₁ := alike_foldl (fun s x => by
    exact alike_ite (.regroup (alike_deliver ..) rfl) (State.Alike.refl s)) _ s
  have h₂ : s.Alike s₂ := h₁.trans (alike_foldl (fun s x => by
    exact alike_ite (alike_exitLane ..) (State.Alike.refl s)) _ s₁)
  have h₃ : s.Alike s₃ := h₂.trans (alike_foldl (fun s x => by
    exact alike_modLane s _ fun _ ho hs => ⟨ho, hs, rfl, rfl⟩) _ s₂)
  refine alike_ite h₂ ?_
  exact alike_ite (h₃.trans (alike_dumpCtx ..)) (h₃.trans (alike_killBy ..))

/-! ### Commit points and kill points -/

theorem alike_hbmAtom (s : State) (key a aop : Nat) (d : PWord) (c : Word) : s.Alike (s.hbmAtom key a aop d c).1 := by
  unfold State.hbmAtom
  dsimp only
  split
  · exact State.Alike.refl s
  · exact .of_groups (hbmWord_only ..).groups

theorem alike_admission {s t : State} {a : Nat} (h : s.admission none a = .apply t) : s.Alike t := by
  unfold State.admission at h
  split at h
  · cases h; exact State.Alike.refl s
  · cases h
  · split at h
    · cases h
    · cases h
      exact alike_abortRegion ..

theorem alike_outsideAtom (s : State) (key a : Nat) (aop : BitVec 4) (d : PWord) (c : Word) :
    s.Alike (s.outsideAtom key a aop d c) := by
  unfold State.outsideAtom
  split
  · next t _ h => exact (alike_admission h).trans (alike_hbmAtom ..)
  · exact State.Alike.refl s

theorem alike_applySpec (s : State) (ops : List (Option Nat × SpecOp)) : s.Alike (applySpec s ops) := by
  unfold applySpec
  refine alike_foldl (fun s x => ?_) ops s
  exact alike_ite (.of_groups rfl) (alike_outsideAtom ..)

theorem alike_commitSpec (s : State) (gid : Nat) : s.Alike (s.commitSpec gid) :=
  (alike_applySpec s _).trans (alike_modGroup _ gid fun g => .of_lanes rfl rfl)

theorem alike_killPoint (s : State) (gid : Nat) : s.Alike (s.killPoint gid) := by
  unfold State.killPoint
  dsimp only
  split
  · refine alike_ite (alike_ite (State.Alike.refl s) ?_) (alike_commitSpec s gid)
    refine alike_modGroup s gid fun g => .map _ rfl rfl fun x => ?_
    split
    · exact fun ho hs => ⟨ho, hs, rfl, rfl⟩
    · exact Lane.Alike.refl x
  · exact alike_commitSpec s gid
  · exact State.Alike.refl s

theorem alike_blockingPoint (s : State) (ls : List LRef) : s.Alike (s.blockingPoint ls) := by
  unfold State.blockingPoint
  refine alike_foldl (fun s gid => ?_) _ s
  exact alike_ite (alike_killPoint s gid) (State.Alike.refl s)

/-- The end of an instruction on a compute core keeps every lane's registers. -/
theorem alike_settle {w : Work} {c : Nat} (hc : w.l.agent = .core c) (ls : List LRef) :
    w.s.Alike (w.settleTraps.parkedPoint ls) := by
  refine .trans ?_ (alike_blockingPoint _ _)
  unfold Work.settleTraps
  split
  · exact State.Alike.refl _
  · split
    · next h => rw [hc] at h; cases h
    · exact alike_handle ..

end Sys2Proof.Machine
end

section
/-!
PROOFS. The bounds of a capability as multiples of 2^E (R132), and what each derivation does to them (R136 to R139).
-/

namespace Sys2Proof.Machine

open Sys2Proof Sys2Proof.Machine.Claims

/-! ### Bounds in units of 2^E -/

/-- The units around the cursor whose residues the fields hold, less than 2^21 apart, are the bounds. -/
theorem Cap.bounds_eq (c : Cap) {b t : Int} (hb : b % 2 ^ 21 = c.bField) (ht : t % 2 ^ 21 = c.tField)
    (hlo : b ≤ (c.cursor.toNat / 2 ^ c.exp : Nat)) (hhi : ((c.cursor.toNat / 2 ^ c.exp : Nat) : Int) ≤ t) (hw : t - b < 2 ^ 21) :
    c.base = b * 2 ^ c.exp ∧ c.top = t * 2 ^ c.exp := by
  have hbf := c.bField_lt
  have htf := c.tField_lt
  unfold Cap.base Cap.top
  dsimp only
  generalize c.cursor.toNat / 2 ^ c.exp = a at *
  refine ⟨congrArg (· * _) ?_, congrArg (· * _) ?_⟩ <;> omega

/-- Such units there are of every capability. -/
theorem Cap.exists_bounds (c : Cap) : ∃ b t : Int, b % 2 ^ 21 = c.bField ∧ t % 2 ^ 21 = c.tField ∧
    b ≤ (c.cursor.toNat / 2 ^ c.exp : Nat) ∧ ((c.cursor.toNat / 2 ^ c.exp : Nat) : Int) ≤ t ∧
    c.base = b * 2 ^ c.exp ∧ c.top = t * 2 ^ c.exp := by
  have hbf := c.bField_lt
  have htf := c.tField_lt
  unfold Cap.base Cap.top
  dsimp only
  generalize c.cursor.toNat / 2 ^ c.exp = a
  refine ⟨_, _, ?_, ?_, ?_, ?_, rfl, rfl⟩ <;> omega

theorem units_lt_of_width {b t : Int} {e : Nat} (h : t * 2 ^ e - b * 2 ^ e ≤ (2 ^ 21 - 1) * 2 ^ e) : t - b < 2 ^ 21 := by
  have hpos : (0 : Int) < 2 ^ e := by positivity
  have : t - b ≤ 2 ^ 21 - 1 := le_of_mul_le_mul_right (by linarith [sub_mul t b (2 ^ e)]) hpos
  omega

/-- A cursor within the bounds decodes to the same bounds (R132). -/
theorem Cap.bounds_at {c : Cap} (h : Canonical c) {n : DWord} (hlo : c.base ≤ n.toNat) (hhi : (n.toNat : Int) ≤ c.top)
    {v : Bool} : ({ c with cursor := n, tag := v } : Cap).base = c.base ∧ ({ c with cursor := n, tag := v } : Cap).top = c.top := by
  obtain ⟨b, t, hb, ht, -, -, hbase, htop⟩ := c.exists_bounds
  obtain ⟨-, -, hw, -⟩ := h
  have hpos : (0 : Int) < 2 ^ c.exp := by positivity
  rw [hbase] at hlo hw ⊢
  rw [htop] at hhi hw ⊢
  refine Cap.bounds_eq _ hb ht ?_ ?_ (units_lt_of_width hw)
  · exact_mod_cast (Int.le_ediv_iff_mul_le hpos).2 hlo
  · have := Int.ediv_le_ediv hpos hhi
    rw [Int.mul_ediv_cancel _ hpos.ne'] at this
    exact_mod_cast this

/-! ### Derived capabilities -/

/-- A result that is untagged, or well-formed and no more than its source. -/
def Derived (c x : Cap) : Prop := c.tag = false ∨ (Canonical c ∧ WithinCap c x)

/-- A tagged source obeys R132. -/
def Sound (x : Cap) : Prop := x.tag = true → Canonical x

theorem Derived.of_tagged {c x : Cap} (h : c.tag = true → Canonical c ∧ WithinCap c x) : Derived c x := by
  cases ht : c.tag with
  | false => exact Or.inl ht
  | true => exact Or.inr (h ht)

/-- What keeps cursor, bounds and exponent and adds no permission is no more than its source. -/
theorem Derived.of_bounds {c x : Cap} (hx : Sound x) (htag : c.tag = true → x.tag = true) (hcur : c.cursor = x.cursor)
    (hexp : c.exp = x.exp) (hbase : c.base = x.base) (htop : c.top = x.top)
    (hperm : ∀ i, i < 8 → c.perm i = true → x.perm i = true) : Derived c x :=
  .of_tagged fun h => ⟨by have := hx (htag h); rwa [Canonical, hcur, hexp, hbase, htop], hbase.ge, htop.le, hperm⟩

theorem Derived.refl {x : Cap} (hx : Sound x) : Derived x x :=
  .of_bounds hx id rfl rfl rfl rfl fun _ _ => id

theorem Derived.moved {x : Cap} (hx : Sound x) (n : DWord) : Derived
    { x with cursor := n, tag := x.tag && decide (x.base ≤ (n.toNat : Int)) && decide ((n.toNat : Int) ≤ x.top) } x :=
  .of_tagged fun h => by
    simp only [Bool.and_eq_true, decide_eq_true_eq] at h
    obtain ⟨⟨htag, hlo⟩, hhi⟩ := h
    obtain ⟨hbase, htop⟩ := Cap.bounds_at (hx htag) hlo hhi
    obtain ⟨-, -, hw, he⟩ := hx htag
    refine ⟨⟨?_, ?_, ?_, he⟩, hbase.ge, htop.le, fun _ _ => id⟩
    · rw [hbase]; exact hlo
    · rw [htop]; exact hhi
    · rw [hbase, htop]; exact hw

/-- The same fields of the metadata at the same cursor give the same bounds. -/
theorem Cap.bounds_congr {c x : Cap} (hcur : c.cursor = x.cursor) (hexp : c.exp = x.exp) (hb : c.bField = x.bField)
    (ht : c.tField = x.tField) : c.base = x.base ∧ c.top = x.top := by
  unfold Cap.base Cap.top
  rw [hcur, hexp, hb, ht]
  exact ⟨rfl, rfl⟩

section
variable (c : Cap) (p sp o : Nat)

theorem Cap.setMeta_md : (c.setMeta p sp o).md = mkMeta p sp o c.exp c.bField c.tField := by rw [Cap.setMeta]

theorem Cap.setMeta_exp : (c.setMeta p sp o).exp = c.exp :=
  (Cap.exp_of_md _ (c.setMeta_md p sp o)).trans (Nat.mod_eq_of_lt c.exp_lt)

theorem Cap.setMeta_bounds : (c.setMeta p sp o).base = c.base ∧ (c.setMeta p sp o).top = c.top := by
  refine Cap.bounds_congr (by rw [Cap.setMeta]) (c.setMeta_exp p sp o) ?_ ?_
  · exact (Cap.bField_of_md _ (c.setMeta_md p sp o)).trans (Nat.mod_eq_of_lt c.bField_lt)
  · exact (Cap.tField_of_md _ (c.setMeta_md p sp o)).trans (Nat.mod_eq_of_lt c.tField_lt)

theorem mbit_eq_testBit (m i : Nat) : mbit m i = m.testBit i := by
  rw [mbit, Nat.testBit_eq_decide_div_mod_eq]
  rfl

theorem Cap.perm_setMeta {i : Nat} (hi : i < 8) : (c.setMeta p sp o).perm i = mbit p i := by
  have hp : p % 256 = p % 2 ^ 8 := by norm_num
  rw [Cap.perm, Cap.perms_of_md _ (c.setMeta_md p sp o), hp, mbit_eq_testBit, mbit_eq_testBit, Nat.testBit_mod_two_pow,
    decide_eq_true hi, Bool.true_and]

end

theorem Derived.setMeta {x : Cap} (hx : Sound x) (p sp o : Nat) (hp : ∀ i, mbit p i = true → mbit x.perms i = true) :
    Derived (x.setMeta p sp o) x := by
  obtain ⟨hbase, htop⟩ := x.setMeta_bounds p sp o
  refine .of_bounds hx (fun h => ?_) ?_ (x.setMeta_exp p sp o) hbase htop fun i hi h => hp i ?_
  · rwa [Cap.setMeta] at h
  · rw [Cap.setMeta]
  · rwa [x.perm_setMeta p sp o hi] at h

/-- The search ends at an exponent that fits and is no more than any other that does. -/
theorem fitBounds_fits {b t x : Nat} (hx : roundUp t x - roundDown b x ≤ (2 ^ 21 - 1) * 2 ^ x) :
    ∀ fuel k, k ≤ x → x ≤ k + fuel → ∃ e, e ≤ x ∧ roundUp t e - roundDown b e ≤ (2 ^ 21 - 1) * 2 ^ e ∧
      fitBounds b t fuel k = (e, roundDown b e, roundUp t e)
  | 0, k, hk, he => by
    obtain rfl : k = x := by omega
    exact ⟨k, le_rfl, hx, rfl⟩
  | fuel + 1, k, hk, he => by
    rw [fitBounds]
    by_cases hfit : roundUp t k - roundDown b k ≤ (2 ^ 21 - 1) * 2 ^ k
    · exact ⟨k, hk, hfit, if_pos hfit⟩
    · have hne : k ≠ x := fun h => hfit (h ▸ hx)
      obtain ⟨e, hle, hok, heq⟩ := fitBounds_fits hx fuel (k + 1) (by omega) (by omega)
      exact ⟨e, hle, hok, (if_neg hfit).trans heq⟩

theorem roundDown_ge {u : Int} {a e : Nat} (h : u * 2 ^ e ≤ (a : Int)) : u * 2 ^ e ≤ (roundDown a e : Int) := by
  have hpos : (0 : Int) < 2 ^ e := by positivity
  have := (Int.le_ediv_iff_mul_le hpos).2 h
  rw [roundDown]
  push_cast
  exact mul_le_mul_of_nonneg_right this hpos.le

theorem roundUp_le {u : Int} {a e : Nat} (h : (a : Int) ≤ u * 2 ^ e) : (roundUp a e : Int) ≤ u * 2 ^ e := by
  have hpos : (0 : Int) < 2 ^ e := by positivity
  have hone : 1 ≤ 2 ^ e := Nat.one_le_two_pow
  have : ((a + 2 ^ e - 1 : Nat) : Int) / 2 ^ e < u + 1 := by
    refine Int.ediv_lt_of_lt_mul hpos ?_
    push_cast [Nat.cast_sub (show 1 ≤ a + 2 ^ e by omega)]
    linarith [add_mul u 1 (2 ^ e)]
  rw [roundUp]
  push_cast
  exact mul_le_mul_of_nonneg_right (by omega) hpos.le

theorem roundDown_le (a e : Nat) : roundDown a e ≤ a := Nat.div_mul_le_self a _

theorem le_roundUp (a e : Nat) : a ≤ roundUp a e := by
  have hpos := Nat.two_pow_pos e
  have := Nat.div_add_mod (a + 2 ^ e - 1) (2 ^ e)
  have := Nat.mod_lt (a + 2 ^ e - 1) hpos
  rw [roundUp, Nat.mul_comm]
  omega

/-- A bound that is a multiple of 2^x is one of every smaller power. -/
theorem mul_two_pow_le {e x : Nat} (h : e ≤ x) (u : Int) : u * 2 ^ x = u * 2 ^ (x - e) * 2 ^ e := by
  rw [mul_assoc, ← pow_add, Nat.sub_add_cancel h]

/-- What the checks of csetb have found of a lane's operands. -/
theorem boundsCheck_none {x : Cap} {p : Bool} {y : PWord} {exact : Bool} (h : boundsCheck exact x p y = none) :
    x.tag = true ∧ x.base ≤ x.cursor.toNat ∧ ((x.cursor.toNat : Int) + y.val.toNat) ≤ x.top := by
  unfold boundsCheck at h
  split at h
  · cases h
  · next hv =>
    unfold capVerdict at hv
    split at hv
    · cases hv
    split at hv
    · cases hv
    next htag =>
    split at hv
    · cases hv
    dsimp only at hv
    split at hv
    · cases hv
    next hin =>
    rw [not_or, not_lt, not_lt] at hin
    exact ⟨by simpa using htag, hin.1, hin.2⟩

theorem Cap.perm_of_perms {c x : Cap} (h : c.perms = x.perms) (i : Nat) : c.perm i = x.perm i := by
  rw [Cap.perm, h, ← Cap.perm]

theorem Cap.setBounds_md (c : Cap) (e b t : Nat) : (c.setBounds e b t).md =
    mkMeta c.perms c.space c.otype e (b / 2 ^ e % 2 ^ 21) (t / 2 ^ e % 2 ^ 21) := by rw [Cap.setBounds]

theorem Cap.setBounds_cursor (c : Cap) (e b t : Nat) : (c.setBounds e b t).cursor = c.cursor := by rw [Cap.setBounds]

/-- Bounds rounded outward at an exponent that holds them decode to themselves (R138). -/
theorem Cap.setBounds_bounds (x : Cap) {n e : Nat} (he : e ≤ 43)
    (hfit : roundUp (x.cursor.toNat + n) e - roundDown x.cursor.toNat e ≤ (2 ^ 21 - 1) * 2 ^ e) :
    let c := x.setBounds e (roundDown x.cursor.toNat e) (roundUp (x.cursor.toNat + n) e)
    c.exp = e ∧ c.perms = x.perms ∧ c.base = roundDown x.cursor.toNat e ∧ c.top = roundUp (x.cursor.toNat + n) e := by
  intro c
  have hpos := Nat.two_pow_pos e
  have hmd := x.setBounds_md e (roundDown x.cursor.toNat e) (roundUp (x.cursor.toNat + n) e)
  have hcur : c.cursor = x.cursor := x.setBounds_cursor ..
  have hexp : c.exp = e := (c.exp_of_md hmd).trans (Nat.mod_eq_of_lt (by omega))
  have hb := c.bField_of_md hmd
  have ht := c.tField_of_md hmd
  rw [roundDown, Nat.mul_div_cancel _ hpos, Nat.mod_mod] at hb
  rw [roundUp, Nat.mul_div_cancel _ hpos, Nat.mod_mod] at ht
  have hle : x.cursor.toNat / 2 ^ e ≤ (x.cursor.toNat + n + 2 ^ e - 1) / 2 ^ e := Nat.div_le_div_right (by omega)
  have hunits : (x.cursor.toNat + n + 2 ^ e - 1) / 2 ^ e - x.cursor.toNat / 2 ^ e ≤ 2 ^ 21 - 1 := by
    rw [roundUp, roundDown, ← Nat.sub_mul] at hfit
    exact Nat.le_of_mul_le_mul_right hfit hpos
  have hbounds := c.bounds_eq (b := (x.cursor.toNat / 2 ^ e : Nat)) (t := ((x.cursor.toNat + n + 2 ^ e - 1) / 2 ^ e : Nat))
    (by rw [hb]; rfl) (by rw [ht]; rfl) (by rw [hexp, hcur]) (by rw [hexp, hcur]; exact_mod_cast hle) (by omega)
  rw [hexp] at hbounds
  refine ⟨hexp, (c.perms_of_md hmd).trans (Nat.mod_eq_of_lt x.perms_lt), hbounds.1.trans ?_, hbounds.2.trans ?_⟩
  · rw [roundDown]; push_cast; rfl
  · rw [roundUp]; push_cast; rfl

/-- Bounds set within the source's bounds are no more than the source (R138). -/
theorem Derived.bounds {x : Cap} (hx : Sound x) {p : Bool} {y : PWord} {exact : Bool} (h : boundsCheck exact x p y = none) :
    Derived (boundsResult x y.val) x := .of_tagged fun _ => by
  obtain ⟨htag, hlo, hhi⟩ := boundsCheck_none h
  obtain ⟨-, -, hw, hexp⟩ := hx htag
  obtain ⟨b, t, -, -, -, -, hbase, htop⟩ := x.exists_bounds
  rw [hbase] at hlo hw
  rw [htop] at hhi hw
  have hunits : ((2 ^ 21 - 1 : Nat) : Int) = 2 ^ 21 - 1 := by norm_num
  have hat : roundUp (x.cursor.toNat + y.val.toNat) x.exp - roundDown x.cursor.toNat x.exp ≤ (2 ^ 21 - 1) * 2 ^ x.exp := by
    have hdown := roundDown_ge hlo
    have hup := roundUp_le (a := x.cursor.toNat + y.val.toNat) (by exact_mod_cast hhi)
    zify [(roundDown_le x.cursor.toNat x.exp).trans ((Nat.le_add_right _ y.val.toNat).trans (le_roundUp _ x.exp))]
    rw [hunits]
    linarith
  obtain ⟨e, hle, hfit, heq⟩ := fitBounds_fits hat 63 0 (Nat.zero_le _) (by omega)
  have hres : boundsResult x y.val = x.setBounds e (roundDown x.cursor.toNat e) (roundUp (x.cursor.toNat + y.val.toNat) e) := by
    rw [boundsResult]; simp only [heq]
  rw [hres]
  obtain ⟨hcexp, hperms, hcbase, hctop⟩ := x.setBounds_bounds (hle.trans hexp) hfit
  have hcur := x.setBounds_cursor e (roundDown x.cursor.toNat e) (roundUp (x.cursor.toNat + y.val.toNat) e)
  have hdown := roundDown_le x.cursor.toNat e
  have hup := le_roundUp (x.cursor.toNat + y.val.toNat) e
  refine ⟨⟨?_, ?_, ?_, ?_⟩, ?_, ?_, fun i _ => (Cap.perm_of_perms hperms i).symm ▸ id⟩
  · rw [hcbase, hcur]; exact_mod_cast hdown
  · rw [hctop, hcur]; exact_mod_cast (Nat.le_add_right _ _).trans hup
  · rw [hcbase, hctop, hcexp]
    zify [hdown.trans ((Nat.le_add_right _ y.val.toNat).trans hup)] at hfit
    rwa [hunits] at hfit
  · rw [hcexp]; exact hle.trans hexp
  · rw [hbase, hcbase, mul_two_pow_le hle]
    exact roundDown_ge (by rwa [← mul_two_pow_le hle])
  · rw [htop, hctop, mul_two_pow_le hle]
    exact roundUp_le (by rw [← mul_two_pow_le hle]; exact_mod_cast hhi)

end Sys2Proof.Machine
end

section
/-!
PROOFS. What a capability instruction of one lane leaves in its destination: the result where its checks pass, zeros in a helper
lane that fails them, and else what was there (R77, R137).
-/

namespace Sys2Proof.Machine

open Sys2Proof Sys2Proof.Machine.Claims

/-! ### A gather of one lane -/

/-- A gather of the lane `r` in which nothing has been written yet: the lane remains, or it has trapped, or it is a helper lane
that would have. -/
structure Work.OneLane (w : Work) (s : State) (l : Latch) (r : LRef) : Prop where
  state : w.s = s
  latch : w.l = l
  lanes : (w.live = [r] ∧ w.zero = []) ∨ (w.live = [] ∧ (w.zero = [] ∨ w.zero = [r]))

/-- A lane that fails a check leaves the gather. -/
theorem Work.OneLane.strike {w : Work} {s : State} {l : Latch} {r : LRef} (h : w.OneLane s l r) (hl : w.live = [r]) (c : Byte)
    (d : DWord) : (w.strike r c d).OneLane s l r ∧ (w.strike r c d).live = [] := by
  have hzero : w.zero = [] := by
    rcases h.lanes with ⟨-, hz⟩ | ⟨hnil, -⟩
    · exact hz
    · rw [hl] at hnil; cases hnil
  have hlive : (w.strike r c d).live = [] := by rw [Work.strike_live, hl]; simp
  refine ⟨⟨(w.strike_s r c d).trans h.state, (w.strike_l r c d).trans h.latch, Or.inr ⟨hlive, ?_⟩⟩, hlive⟩
  unfold Work.strike
  split
  · exact Or.inr (by simp [hzero])
  · exact Or.inl hzero

/-- A check of the lanes that remain: those that stay have passed it. -/
theorem Work.OneLane.check {w : Work} {s : State} {l : Latch} {r : LRef} (h : w.OneLane s l r) {f : Work → LRef → Work} {P : Prop}
    (hf : (f w r = w ∧ P) ∨ ∃ c d, f w r = w.strike r c d) :
    (w.live.foldl f w).OneLane s l r ∧ ((w.live.foldl f w).live = [r] → P) := by
  rcases h.lanes with ⟨hl, -⟩ | ⟨hl, -⟩
  · rw [hl, List.foldl_cons, List.foldl_nil]
    rcases hf with ⟨hw, hp⟩ | ⟨c, d, hw⟩
    · rw [hw]; exact ⟨h, fun _ => hp⟩
    · rw [hw]
      obtain ⟨hone, hnil⟩ := h.strike hl c d
      exact ⟨hone, fun hr => by rw [hnil] at hr; cases hr⟩
  · rw [hl, List.foldl_nil]
    exact ⟨h, fun hr => by rw [hl] at hr; cases hr⟩

theorem Work.OneLane.rnum {w : Work} {s : State} {l : Latch} {r : LRef} (h : w.OneLane s l r) (x : LRef) (code n : Nat) :
    w.rnum x code n = (s.work l).rnum x code n := by
  obtain ⟨rfl, rfl, -⟩ := h
  rfl

theorem Work.OneLane.cap {w : Work} {s s0 : State} {l : Latch} {r : LRef} {a : Reg} (h : w.OneLane s0 l r) (h0 : Tallied s s0) :
    w.s.cap r (w.quadA r a) = rdCap s l r codeA a := by
  rw [h.state, Work.quadA, h.rnum, h0.cap, h0.num, rdCap, regNo]

theorem Work.OneLane.verdict {w : Work} {s : State} {l : Latch} {r : LRef} (h : w.OneLane s l r) (f : LRef → Verdict) :
    let v := w.live.foldl (fun v r => match f r with | some (c, d) => v.strike r c d | none => v) w
    v.OneLane s l r ∧ (v.live = [r] → f r = none) := by
  refine h.check ?_
  cases hf : f r with
  | none => exact Or.inl ⟨rfl, rfl⟩
  | some x => exact Or.inr ⟨x.1, x.2, rfl⟩

/-- The beginning of an instruction with no channel operand. -/
theorem oneLane_sources {s : State} {l : Latch} {r : LRef} (hl : l.lanes = [r]) (flds : List Fld) :
    ∃ s0, Tallied s s0 ∧ ((s.work l).sources flds none none none).OneLane s0 l r := by
  obtain ⟨s0, h0, hw⟩ := tally_works s l ((s.work l).unstaged flds)
  refine ⟨s0, h0, ?_⟩
  have hone : (s0.work l).OneLane s0 l r := ⟨rfl, rfl, Or.inl ⟨hl, rfl⟩⟩
  have hs : (s.work l).sources flds none none none = (s0.work l).bounds flds := by
    simp only [Work.sources, chansOf, Option.toList, Option.bind, List.append_nil, List.filterMap_nil, Work.chanChecks_nil,
      Work.begin, hw]
  rw [hs]
  exact (hone.verdict (boundsVerdict (s0.work l) flds)).1

/-! ### A lane's capability -/

/-- The capability in a quad of a lane. -/
def Lane.capAt (x : Lane) (n : Nat) : Cap :=
  capOfWords [(x.regs.getD n {}).val, (x.regs.getD (n + 1) {}).val, (x.regs.getD (n + 2) {}).val, (x.regs.getD (n + 3) {}).val]
    (x.tagOf n)

theorem reg_quiet {s : State} {r : LRef} (ho : (s.lane r).owned = []) (hs : (s.lane r).stale = []) (n : Nat) :
    s.reg r n = (s.lane r).regs.getD n {} := by
  simp only [State.reg, Lane.ownerOf, ho, hs, List.find?_nil, Option.map_none, List.contains_nil, Bool.false_and,
    Bool.false_eq_true, if_false]

theorem cap_quiet {s : State} {r : LRef} (ho : (s.lane r).owned = []) (hs : (s.lane r).stale = []) (n : Nat) :
    s.cap r n = (s.lane r).capAt n := by
  simp only [State.cap, State.quadWords, reg_quiet ho hs, List.map_cons, List.map_nil, Lane.capAt]

theorem Lane.Alike.capAt {x y : Lane} (h : x.Alike y) (ho : x.owned = []) (hs : x.stale = []) (n : Nat) :
    y.capAt n = x.capAt n := by
  obtain ⟨-, -, hregs, htags⟩ := h ho hs
  rw [Lane.capAt, Lane.tagOf, hregs, htags, ← Lane.tagOf, ← Lane.capAt]

theorem State.Alike.cap {s t : State} (h : s.Alike t) {r : LRef} (ho : (s.lane r).owned = []) (hs : (s.lane r).stale = [])
    (n : Nat) : t.cap r n = s.cap r n := by
  obtain ⟨hto, hts, -, -⟩ := h.lane r ho hs
  rw [cap_quiet hto hts, cap_quiet ho hs, (h.lane r).capAt ho hs]

theorem pair64_hi_lo (x : DWord) : pair64 (hi32 x) (lo32 x) = x := by
  refine BitVec.eq_of_toNat_eq ?_
  have hlt := x.isLt
  have hhi : (hi32 x).toNat = x.toNat / 2 ^ 32 := by unfold hi32; simp; omega
  have hlo : (lo32 x).toNat = x.toNat % 2 ^ 32 := by unfold lo32; simp
  have hor := Nat.two_pow_add_eq_or_of_lt (i := 32) (lo32 x).isLt (hi32 x).toNat
  rw [pair64, BitVec.toNat_or, BitVec.toNat_shiftLeft, BitVec.toNat_setWidth, BitVec.toNat_setWidth,
    Nat.mod_eq_of_lt (show (hi32 x).toNat < 2 ^ 64 by omega), Nat.mod_eq_of_lt (show (lo32 x).toNat < 2 ^ 64 by omega),
    Nat.shiftLeft_eq, Nat.mod_eq_of_lt (by omega), Nat.mul_comm, ← hor, hhi, hlo]
  omega

/-- The lane owns nothing, has nothing past its time and has its 64 registers. -/
structure Lane.Whole (x : Lane) : Prop where
  owned : x.owned = []
  stale : x.stale = []
  regs : x.regs.length = 64

theorem Lane.Whole.ownerOf {x : Lane} (h : x.Whole) (n : Nat) : x.ownerOf n = none := by
  rw [Lane.ownerOf, h.owned]; rfl

theorem Lane.Whole.putReg {x : Lane} (h : x.Whole) (n : Nat) (v : PWord) : (x.putReg n v).Whole := by
  rw [Lane.putReg_of_free (h.ownerOf n)]
  exact ⟨h.owned, by rw [Lane.setReg, h.stale]; rfl, by rw [Lane.setReg, List.length_set]; exact h.regs⟩

theorem Lane.Whole.putTag {x : Lane} (h : x.Whole) (q : Nat) (v : Bool) : (x.putTag q v).Whole := ⟨h.owned, h.stale, h.regs⟩

theorem Lane.Whole.putWords : ∀ (ws : List PWord) {x : Lane} (n : Nat), x.Whole → (Claims.putWords x n ws).Whole
  | [], _, _, h => h
  | _ :: t, _, n, h => Lane.Whole.putWords t (n + 1) ((h.putReg n _).putTag ..)

/-- A capability put into a quad of a whole lane is read from it. -/
theorem Lane.Whole.putCap {x : Lane} (h : x.Whole) {n : Nat} (hn : n < 64) (hq : n % 4 = 0) (c : Cap) (p : List Bool) :
    (Claims.putCap x n c p).Whole ∧ (Claims.putCap x n c p).capAt n = c := by
  have h1 := h.putReg n ⟨lo32 c.cursor, p.getD 0 false⟩
  have h2 := h1.putReg (n + 1) ⟨hi32 c.cursor, p.getD 1 false⟩
  have h3 := h2.putReg (n + 2) ⟨c.mlo, p.getD 2 false⟩
  have h4 := h3.putReg (n + 3) ⟨c.mhi, p.getD 3 false⟩
  have howned : x.quadOwned n = false := by
    rw [Lane.quadOwned, List.any_eq_false]
    exact fun i _ => by rw [h.ownerOf]; simp
  refine ⟨h4.putTag .., ?_⟩
  have htag : (Claims.putCap x n c p).tagOf n = c.tag := by
    rw [Claims.putCap, Lane.tagOf, Lane.getLsbD_putTag _ (by omega), if_pos rfl, howned, Bool.not_false, Bool.and_true]
  have hregs : ∀ m, (Claims.putCap x n c p).regs.getD m {} =
      if m = n + 3 then ⟨c.mhi, p.getD 3 false⟩ else if m = n + 2 then ⟨c.mlo, p.getD 2 false⟩
      else if m = n + 1 then ⟨hi32 c.cursor, p.getD 1 false⟩ else if m = n then ⟨lo32 c.cursor, p.getD 0 false⟩
      else x.regs.getD m {} := fun m => by
    rw [Claims.putCap, Lane.putTag_regs]
    simp only [Lane.regs_putReg, h.ownerOf, h1.ownerOf, h2.ownerOf, h3.ownerOf, h.regs, h1.regs, h2.regs, h3.regs, and_true]
    simp only [show n + 3 < 64 by omega, show n + 2 < 64 by omega, show n + 1 < 64 by omega, hn, and_true]
  rw [Lane.capAt, htag]
  simp only [hregs]
  simp [capOfWords, Cap.mhi, Cap.mlo, pair64_hi_lo]

/-- Words written from a quad's first register on untag it (R95). -/
theorem Lane.tagOf_putWords : ∀ (ws : List PWord) (x : Lane) {q : Nat} (n : Nat), q < 16 → x.tags.getLsbD q = false →
    (Claims.putWords x n ws).tags.getLsbD q = false
  | [], _, _, _, _, h => h
  | v :: t, x, q, n, hq, h => Lane.tagOf_putWords t _ (n + 1) hq (by
      rw [Lane.wr, Lane.getLsbD_putTag _ hq, Lane.putReg_tags, h, ite_self])

theorem Lane.Whole.zeros {x : Lane} (h : x.Whole) {n : Nat} (hn : n < 64) :
    (Claims.putWords x n (List.replicate 4 {})).Whole ∧ ((Claims.putWords x n (List.replicate 4 {})).capAt n).tag = false := by
  refine ⟨h.putWords .., ?_⟩
  show (Claims.putWords (x.wr n {}) (n + 1) (List.replicate 3 {})).tags.getLsbD (n / 4) = false
  refine Lane.tagOf_putWords _ _ _ (by omega) ?_
  rw [Lane.wr, Lane.getLsbD_putTag _ (by omega), if_pos rfl]

/-- The capability of a whole lane that has been changed. -/
theorem cap_modLane {s : State} {r : LRef} (hhas : s.has r) {f : Lane → Lane} (h : (f (s.lane r)).Whole) (n : Nat) :
    ((s.modLane r f).lane r).Whole ∧ (s.modLane r f).cap r n = (f (s.lane r)).capAt n := by
  have hlane := lane_modLane_self s r f hhas
  rw [← hlane] at h
  exact ⟨h, (cap_quiet h.owned h.stale n).trans (congrArg (·.capAt n) hlane)⟩

/-! ### To the end of the instruction -/

theorem Lane.Alike.advance (x : Lane) (pc : DWord) : x.Alike (x.advance pc) := fun ho hs => by
  obtain ⟨hregs, htags, -⟩ := x.advance_keeps pc
  have hrest : (x.advance pc).owned = x.owned ∧ (x.advance pc).stale = x.stale := by
    unfold Lane.advance
    dsimp only
    split
    · exact ⟨rfl, rfl⟩
    · split_ifs <;> exact ⟨rfl, rfl⟩
  exact ⟨hrest.1.trans ho, hrest.2.trans hs, hregs, htags⟩

/-- From the last write on nothing changes a lane's registers. -/
theorem alike_finish {w : Work} {c : Nat} {t : State} (hc : w.l.agent = .core c) (h : w.finish = .next t) : w.s.Alike t := by
  obtain rfl : _ = t := Host.Outcome.next.inj h
  refine .trans ?_ (alike_settle (w := w.advance) hc _)
  exact (alike_foldl (fun s r => alike_modLane s r fun x => .advance x _) _ w.s).trans (alike_blockingPoint ..)

section
variable {s s0 t : State} {l : Latch} {r : LRef} {w : Work} {d : Reg}

/-- Where a register field stands for itself. -/
theorem rnum_plain (hi : l.hints.idx = none) (hl : (s.lane r).loop = none) (code n : Nat) : (s.work l).rnum r code n = n := by
  simp only [Work.rnum, Work.num, idxValue, loopStep, work_s, show (s.work l).l = l from rfl, hi, hl, Int.add_zero]
  exact Int.toNat_natCast n

/-- The writes of an instruction are none, zeros, or the capability given. -/
theorem state_after_writes {F : State → LRef → State} (hw : w.OneLane s l r)
    (hnum : (s.work l).rnum r codeD d.toNat = d.toNat) :
    let u := ({ w with s := w.live.foldl F w.s } : Work).zeroRegs codeD d.toNat 4
    u.l = l ∧ (u.s = s ∨ u.s = s.modLane r (fun x => putWords x d.toNat (List.replicate 4 {})) ∨ (w.live = [r] ∧ u.s = F s r)) := by
  obtain ⟨rfl, rfl, ⟨hlive, hzero⟩ | ⟨hlive, hzero | hzero⟩⟩ := hw
  · rw [Work.zeroRegs, hlive, hzero]
    exact ⟨rfl, Or.inr (Or.inr ⟨rfl, rfl⟩)⟩
  · rw [Work.zeroRegs, hlive, hzero]
    exact ⟨rfl, Or.inl rfl⟩
  · rw [Work.zeroRegs, hlive, hzero, List.foldl_cons, List.foldl_nil]
    split
    · exact ⟨rfl, Or.inr (Or.inl ((wrs_eq_modLane ..).trans (congrArg (fun n => w.s.modLane r fun x => putWords x n _) hnum)))⟩
    · exact ⟨rfl, Or.inl rfl⟩

/-- What they leave in a lane's quad D. -/
theorem cap_after_writes {F : State → LRef → State} {res : Cap} {p : List Bool} (hw : w.OneLane s l r) (hhas : s.has r)
    (hwhole : (s.lane r).Whole) (hd : d.toNat % 4 = 0) (hnum : (s.work l).rnum r codeD d.toNat = d.toNat)
    (hF : F s r = s.modLane r fun x => putCap x d.toNat res p) :
    let u := ({ w with s := w.live.foldl F w.s } : Work).zeroRegs codeD d.toNat 4
    u.l = l ∧ (u.s.lane r).Whole ∧ (u.s.cap r d.toNat = s.cap r d.toNat ∨ (u.s.cap r d.toNat).tag = false ∨
      (w.live = [r] ∧ u.s.cap r d.toNat = res)) := by
  intro u
  have hlt : d.toNat < 64 := d.isLt
  obtain ⟨hl, hu | hu | ⟨hlive, hu⟩⟩ := state_after_writes (F := F) hw hnum
  all_goals refine ⟨hl, ?_⟩; rw [show u.s = _ from hu]
  · exact ⟨hwhole, Or.inl rfl⟩
  · obtain ⟨hput, htag⟩ := hwhole.zeros hlt
    obtain ⟨hput', hcap⟩ := cap_modLane (f := fun x => putWords x d.toNat (List.replicate 4 {})) hhas hput d.toNat
    exact ⟨hput', Or.inr (Or.inl (hcap ▸ htag))⟩
  · obtain ⟨hput, hres⟩ := hwhole.putCap hlt hd res p
    obtain ⟨hput', hcap⟩ := cap_modLane (f := fun x => putCap x d.toNat res p) hhas hput d.toNat
    rw [hF]
    exact ⟨hput', Or.inr (Or.inr ⟨hlive, hcap.trans hres⟩)⟩

/-- What is in a lane's quad D at the end of an instruction that gives it a capability where its checks pass. -/
theorem cap_after_finish {F : State → LRef → State} {res : Cap} {p : List Bool} {c : Nat} (hw : w.OneLane s l r) (hhas : s.has r)
    (hwhole : (s.lane r).Whole) (hc : l.agent = .core c) (hd : d.toNat % 4 = 0)
    (hnum : (s.work l).rnum r codeD d.toNat = d.toNat) (hF : F s r = s.modLane r fun x => putCap x d.toNat res p)
    (ht : (({ w with s := w.live.foldl F w.s } : Work).zeroRegs codeD d.toNat 4).finish = .next t) :
    t.cap r d.toNat = s.cap r d.toNat ∨ (t.cap r d.toNat).tag = false ∨ (w.live = [r] ∧ t.cap r d.toNat = res) := by
  obtain ⟨hl, hu, hcap⟩ := cap_after_writes hw hhas hwhole hd hnum hF
  have halike := alike_finish (hl.symm ▸ hc) ht
  rw [← halike.cap hu.owned hu.stale] at hcap
  exact hcap

end

/-! ### The derivations -/

section
variable {s t : State} {l : Latch} {r : LRef} {d a b : Reg} {c : Nat} (hr : Ready s l) (hl : l.lanes = [r])
  (hwhole : (s.lane r).Whole) (hc : l.agent = .core c) (hd : d.toNat % 4 = 0) (hloop : (s.lane r).loop = none)
  (hidx : l.hints.idx = none)
include hr hl hwhole hc hd hloop hidx

/-- What is true of the lane in the state of the writes, which is the state of the step but for perf counts. -/
theorem cap_after_tallied {s0 : State} {w : Work} {F : State → LRef → State} {res : Cap} {p : List Bool} (h0 : Tallied s s0)
    (hw : w.OneLane s0 l r) (hF : F s0 r = s0.modLane r fun x => putCap x d.toNat res p)
    (ht : (({ w with s := w.live.foldl F w.s } : Work).zeroRegs codeD d.toNat 4).finish = .next t) :
    t.cap r d.toNat = s.cap r d.toNat ∨ (t.cap r d.toNat).tag = false ∨ (w.live = [r] ∧ t.cap r d.toNat = res) := by
  have hhas : s0.has r := (h0.ready hr).there r (by rw [hl]; exact List.mem_singleton.2 rfl)
  have hlane := h0.lane r
  rw [← h0.cap]
  exact cap_after_finish hw hhas (hlane.symm ▸ hwhole) hc hd (rnum_plain hidx (hlane.symm ▸ hloop) _ _) hF ht

/-- A derivation over cA and vB whose result, where the checks pass, is no more than cA. -/
theorem derived_of_capOp {i : Instr} {verdict : State → LRef → Cap → Bool → PWord → Verdict}
    {result : State → LRef → Cap → Word → Cap} (he : exec i s = capOp d a (some b) verdict result s) (ht : exec i s = .next t)
    (hv : ∀ s1 s2 x p y, Sound x → verdict s1 r x p y = none → Derived (result s2 r x y.val) x)
    (hx : Sound (rdCap s l r codeA a)) :
    t.cap r d.toNat = s.cap r d.toNat ∨ Derived (t.cap r d.toNat) (rdCap s l r codeA a) := by
  obtain ⟨s0, h0, hone⟩ := oneLane_sources (s := s) hl ([rfld codeD d 4, rfld codeA a 4] ++ ((some b).map fun x => rfld codeB x).toList)
  rw [he, capOp, withGather_latched hr.latched] at ht
  dsimp only at ht
  generalize (s.work l).sources _ none none none = w at hone ht
  obtain ⟨hone', hpass⟩ := hone.verdict fun r =>
    verdict w.s r (w.s.cap r (w.quadA r a)) (w.s.quadPoison r (w.quadA r a)) (w.regOf r codeB b)
  generalize w.live.foldl _ w = v at hone' hpass ht
  rw [hone.cap h0] at hpass
  have hb : v.regOf r codeB b = w.regOf r codeB b := by
    rw [Work.regOf, Work.regOf, hone'.state, hone.state, hone'.rnum, hone.rnum]
  have hnum : v.rnum r codeD d.toNat = d.toNat := by rw [hone'.rnum, rnum_plain hidx ((h0.lane r).symm ▸ hloop)]
  rcases cap_after_tallied hr hl hwhole hc hd hloop hidx (w := v) (p := []) h0 hone'
    (res := result v.s r (v.s.cap r (v.quadA r a)) (v.regOf r codeB b).val)
    (by rw [hnum, wrCap_eq_modLane]) ht with h | h | ⟨hlive, h⟩
  · exact Or.inl h
  · exact Or.inr (Or.inl h)
  · rw [h, hone'.cap h0, hb]
    exact Or.inr (hv _ _ _ _ _ hx (hpass hlive))

/-- A seal or an unseal whose result, where the checks pass, is no more than cA. -/
theorem derived_of_sealOp {i : Instr} {checkA : Cap → Bool → Verdict} {checkB : Cap → Cap → Bool} {result : Cap → Cap → Cap}
    (he : exec i s = sealOp d a b checkA checkB result s) (ht : exec i s = .next t) (hv : ∀ x k, Sound x → Derived (result x k) x)
    (hx : Sound (rdCap s l r codeA a)) :
    t.cap r d.toNat = s.cap r d.toNat ∨ Derived (t.cap r d.toNat) (rdCap s l r codeA a) := by
  obtain ⟨s0, h0, hone⟩ := oneLane_sources (s := s) hl [rfld codeD d 4, rfld codeA a 4, rfld codeB b 4]
  rw [he, sealOp, withGather_latched hr.latched] at ht
  dsimp only at ht
  generalize (s.work l).sources _ none none none = w at hone ht
  obtain ⟨hone', -⟩ := hone.check (P := True) (f := fun v r =>
    match checkA (w.s.cap r (w.quadA r a)) (w.s.quadPoison r (w.quadA r a)) with
    | some (c, t) => v.strike r c t
    | none =>
      match sealVerdict (w.s.cap r (w.quadA r a)) (w.s.cap r (w.rnum r codeB b.toNat))
        (w.s.quadPoison r (w.rnum r codeB b.toNat)) with
      | some (c, t) => v.strike r c t
      | none => if checkB (w.s.cap r (w.quadA r a)) (w.s.cap r (w.rnum r codeB b.toNat)) then v
        else v.strike r 0x06 (w.s.cap r (w.quadA r a)).cursor) (by
    split
    · exact Or.inr ⟨_, _, rfl⟩
    · split
      · exact Or.inr ⟨_, _, rfl⟩
      · split
        · exact Or.inl ⟨rfl, trivial⟩
        · exact Or.inr ⟨_, _, rfl⟩)
  generalize w.live.foldl _ w = v at hone' ht
  have hnum : v.rnum r codeD d.toNat = d.toNat := by rw [hone'.rnum, rnum_plain hidx ((h0.lane r).symm ▸ hloop)]
  rcases cap_after_tallied hr hl hwhole hc hd hloop hidx (w := v) (p := []) h0 hone'
    (res := result (v.s.cap r (v.quadA r a)) (v.s.cap r (v.rnum r codeB b.toNat)))
    (by rw [hnum, wrCap_eq_modLane]) ht with h | h | ⟨-, h⟩
  · exact Or.inl h
  · exact Or.inr (Or.inl h)
  · rw [h, hone'.cap h0]
    exact Or.inr (hv _ _ hx)

theorem derived_of_cmov (ht : exec (.cmov d a) s = .next t) (hx : Sound (rdCap s l r codeA a)) :
    t.cap r d.toNat = s.cap r d.toNat ∨ Derived (t.cap r d.toNat) (rdCap s l r codeA a) := by
  obtain ⟨s0, h0, hone⟩ := oneLane_sources (s := s) hl [rfld codeD d 4, rfld codeA a 4]
  rw [exec_cmov, execCmov, withGather_latched hr.latched] at ht
  dsimp only at ht
  generalize (s.work l).sources _ none none none = w at hone ht
  have hnum : w.rnum r codeD d.toNat = d.toNat := by rw [hone.rnum, rnum_plain hidx ((h0.lane r).symm ▸ hloop)]
  have hsrc := hone.cap h0 (a := a)
  rw [hone.state] at hsrc
  rcases cap_after_tallied hr hl hwhole hc hd hloop hidx (w := w) h0 hone (res := rdCap s l r codeA a)
    (p := (s0.quadWords r (w.quadA r a)).map (·.poison)) (by rw [hnum, wrCap_eq_modLane, hsrc]) ht with h | h | ⟨-, h⟩
  · exact Or.inl h
  · exact Or.inr (Or.inl h)
  · rw [h]
    exact Or.inr (.refl hx)

end

/-- A masked set of permissions has no permission more. -/
theorem mbit_and (m k i : Nat) (h : mbit (m &&& k) i = true) : mbit m i = true := by
  rw [mbit_eq_testBit, Nat.testBit_and, Bool.and_eq_true] at h
  rw [mbit_eq_testBit]
  exact h.1

/-- Settles O32: where the instruction's checks pass, cD is the result, whose bounds and permissions lie within cA's; where the lane
traps, cD stands; in a helper lane that would have trapped, cD is untagged. -/
theorem capabilitiesNeverGrow : Obligations.CapabilitiesNeverGrow := by
  intro d a b s t l r i hi hr hl ho hs hregs hc hd _ _ hloop hidx hx ht
  have hwhole : (s.lane r).Whole := ⟨ho, hs, hregs⟩
  simp only [derivers, List.mem_cons, List.not_mem_nil, or_false] at hi
  rcases hi with rfl | rfl | rfl | rfl | rfl | rfl | rfl
  · exact derived_of_cmov hr hl hwhole hc hd hloop hidx ht hx
  · exact derived_of_capOp hr hl hwhole hc hd hloop hidx (exec_cadd ..) ht (fun _ _ _ _ _ hx _ => Derived.moved hx _) hx
  · exact derived_of_capOp hr hl hwhole hc hd hloop hidx (exec_csetb ..) ht (fun _ _ _ _ _ hx hv => Derived.bounds hx hv) hx
  · exact derived_of_capOp hr hl hwhole hc hd hloop hidx (exec_csetbx ..) ht (fun _ _ _ _ _ hx hv => Derived.bounds hx hv) hx
  · exact derived_of_capOp hr hl hwhole hc hd hloop hidx (exec_candp ..) ht
      (fun _ _ _ _ _ hx _ => Derived.setMeta hx _ _ _ fun i => mbit_and _ _ i) hx
  · exact derived_of_sealOp hr hl hwhole hc hd hloop hidx (exec_cseal ..) ht (fun _ _ hx => Derived.setMeta hx _ _ _ fun _ => id) hx
  · exact derived_of_sealOp hr hl hwhole hc hd hloop hidx (exec_cunseal ..) ht (fun _ _ hx => Derived.setMeta hx _ _ _ fun _ => id) hx

end Sys2Proof.Machine
end

section
/-!
PROOFS. What the closing of a step leaves (R83, R379): its last act notes of every row whether some lane of it could issue, and
opens the gate of a core with such a row.
-/

namespace Sys2Proof.Machine

open Sys2Proof Sys2Proof.Machine.Claims

@[simp] theorem settleRows_rowLanes (s : State) (c n : Nat) : s.settleRows.rowLanes c n = s.rowLanes c n := rfl

/-- Every row notes what it is, once the rows have noted it. -/
theorem settleRows_ready {s : State} {c : Nat} {k : Core} (hk : (c, k) ∈ s.settleRows.cores) {n : Nat} {row : Row}
    (hrow : (n, row) ∈ k.rows) : row.ready = (s.rowLanes c n).any fun x => x.2.2.canIssue := by
  obtain ⟨x, -, hx⟩ := List.mem_map.1 hk
  obtain ⟨rfl, rfl⟩ := Prod.mk.inj hx
  obtain ⟨y, -, hy⟩ := List.mem_map.1 hrow
  obtain ⟨rfl, rfl⟩ := Prod.mk.inj hy
  rfl

/-- A core with a row that notes a ready lane is open. -/
theorem settleRows_gate {s : State} {c : Nat} {k : Core} (hk : (c, k) ∈ s.settleRows.cores) {n : Nat} {row : Row}
    (hrow : (n, row) ∈ k.rows) (hready : row.ready = true) : k.gate = {} := by
  obtain ⟨x, -, hx⟩ := List.mem_map.1 hk
  obtain ⟨rfl, rfl⟩ := Prod.mk.inj hx
  obtain ⟨y, hy, hxy⟩ := List.mem_map.1 hrow
  obtain ⟨rfl, rfl⟩ := Prod.mk.inj hxy
  exact if_pos (List.any_eq_true.2 ⟨y, hy, hready⟩)

/-- A step that is concluded leaves its state closed, whatever it was concluded from. -/
theorem closed_conclude (s : State) : Closed s.conclude where
  ready _ _ hk _ _ hrow := settleRows_ready hk hrow
  gate _ _ hk := fun ⟨_, _, hrow, hready⟩ => settleRows_gate hk hrow hready
  latch := rfl
  event := rfl

/-- What a step does is concluded. -/
theorem step_concludes {s t : State} (h : step s = .next t) : ∃ u : State, t = u.conclude := by
  unfold step at h
  split at h
  · next u _ => exact ⟨u, (Host.Outcome.next.inj h).symm⟩
  · next u i _ =>
    split at h
    · next v _ => exact ⟨v, (Host.Outcome.next.inj h).symm⟩
    · cases h
    · cases h

/-- Settles O7: whatever a step does, it is concluded, which notes the rows and latches nothing. -/
theorem everyStepCloses : Obligations.EveryStepCloses := fun s t h => by
  obtain ⟨u, rfl⟩ := step_concludes h
  exact closed_conclude u

/-! ### After reset -/

/-- Settles O8: after reset no core has been given a row. -/
theorem resetIsClosed : Obligations.ResetIsClosed where
  ready _ _ hk := nomatch hk
  gate _ _ hk := nomatch hk
  latch := rfl
  event := rfl

/-- Settles O9: each is a field of the state at reset. -/
theorem resetRegisters : Obligations.ResetRegisters :=
  ⟨rfl, rfl, rfl, rfl, rfl, rfl, rfl, rfl, rfl, rfl, rfl⟩

/-- Settles O1, word by word. -/
theorem wordsDecode : Obligations.WordsDecode := by
  unfold Obligations.WordsDecode
  decide

end Sys2Proof.Machine
end

section
/-!
PROOFS. The step of a Kolesque core (R354): a lane that notes an answer of another device goes on with the instruction that the
answer is of (R384), whatever its instruction memory holds at its PC.
-/

namespace Sys2Proof.Machine

open Sys2Proof Sys2Proof.Machine.Claims

/-- Kolesque core 0 at an evwait, its lane noting an answer of another device for a nop. -/
def answeredComplex : State :=
  (State.reset.withFetchWord 32 0xCC200B00).modLane (kGid 0, 0) fun x =>
    { x with returned := [{ acc := { id := 0, gid := kGid 0, lane := 0, dev := 0, addr := 0, size := 4, word := 0x9C000007 }, bytes := [] }] }

/-- Whether Kolesque core 0 runs after a step. -/
def runsAfter (o : Host.Outcome State Fault Refusal) : Bool :=
  match o with
  | .next t => (t.kcore 0).status == .running
  | _ => false

/-- Refutes O10: nothing in it says that the lane notes no answer of another device. Where it does, the step runs the nop that the
answer is of, not the evwait at the PC, and the core goes on running. -/
theorem not_complexStepExecutes : ¬ Obligations.ComplexStepExecutes := by
  intro h
  have hstep := h answeredComplex 0 [] (.evwait 4) 0xCC200B00 (Or.inl rfl) ⟨by decide, by decide⟩ (by decide) (by decide) (by decide) (by decide)
    (by decide) (by decide) (by decide) (by decide) (by decide)
  have hrun := congrArg runsAfter hstep
  revert hrun
  decide

end Sys2Proof.Machine
end

section
/-!
PROOFS. Changes lane by lane of a gather, of which branches, returns, traps and fences are made (R111 to R120): what a sequence of
them makes of each lane, where no group of the gather has kill points.
-/

namespace Sys2Proof.Machine

open Sys2Proof Sys2Proof.Machine.Claims

/-! ### Changes lane by lane -/

/-- `t` is `s` but for perf counts and for the lanes of the gather, each of which is as `f` says. -/
structure LaneWise (s : State) (l : Latch) (f : LRef → Lane → Lane) (t : State) : Prop where
  only : LanesOnly l.lanes s t
  lane : ∀ r ∈ l.lanes, t.lane r = f r (s.lane r)
  has : ∀ r ∈ l.lanes, t.has r
  kill : ∀ r ∈ l.lanes, (t.group r.1).taskKill = (s.group r.1).taskKill

section
variable {s t : State} {l : Latch} {f : LRef → Lane → Lane}

theorem LaneWise.of_tallied (hr : Ready s l) (h : Tallied s t) : LaneWise s l (fun _ x => x) t where
  only := (LanesOnly.of_tallied h).mono fun _ hr => by cases hr
  lane r _ := h.lane r
  has := (h.ready hr).there
  kill r _ := by rw [h.group]

theorem LaneWise.refl (hr : Ready s l) : LaneWise s l (fun _ x => x) s := .of_tallied hr (Tallied.refl s)

/-- A change of some lanes of the gather. -/
theorem LaneWise.each (h : LaneWise s l f t) (g : LRef → Lane → Lane) {ls : List LRef} (hn : ls.Nodup) (hls : ∀ r ∈ ls, r ∈ l.lanes) :
    LaneWise s l (fun r x => if r ∈ ls then g r (f r x) else f r x) (ls.foldl (fun s r => s.modLane r (g r)) t) where
  only := h.only.trans (LanesOnly.foldl_modLane g l.lanes ls t hls)
  lane r hr := by rw [lane_foldl_modLane g ls t hn (fun r hr => h.has r (hls r hr)), h.lane r hr]
  has r hr := (foldl_modLane_has g r ls t).2 (h.has r hr)
  kill r hr := by rw [foldl_modLane_taskKill, h.kill r hr]

/-- Blocking points of the gather's lanes change nothing. -/
theorem LaneWise.blockingPoint (h : LaneWise s l f t) (hk : NoKills s l) {ls : List LRef} (hls : ∀ r ∈ ls, r ∈ l.lanes) :
    t.blockingPoint ls = t := blockingPoint_keep _ _ fun r hr => by rw [h.kill r (hls r hr)]; exact hk r (hls r hr)

theorem LaneWise.moves {i : Instr} {g : LRef → Lane → Lane} (h : LaneWise s l f t) (he : exec i s = .next t)
    (hg : ∀ r ∈ l.lanes, f r (s.lane r) = g r (s.lane r)) : Moves i s l g :=
  ⟨t, he, h.only, fun r hr => (h.lane r hr).trans (hg r hr)⟩

/-- An instruction that has handled every lane of its gather ends, no lane having trapped. -/
theorem LaneWise.done {w : Work} (h : LaneWise s l f w.s) (hk : NoKills s l) (hl : w.l = l) (ht : w.traps = []) :
    w.done = .next w.s :=
  Work.done_empty ht fun r hr => by rw [hl] at hr; rw [h.kill r hr]; exact hk r hr

/-- The lanes that remain go past the word. -/
theorem LaneWise.finish {w : Work} (h : LaneWise s l f w.s) (hk : NoKills s l) (hl : w.l = l) (ht : w.traps = []) (hz : w.zero = [])
    (hn : w.live.Nodup) (hlive : ∀ r ∈ w.live, r ∈ l.lanes) :
    ∃ t, w.finish = .next t ∧ LaneWise s l (fun r x => if r ∈ w.live then (f r x).advance l.pc else f r x) t := by
  subst hl
  have hadv := h.each (fun _ x => x.advance w.l.pc) hn hlive
  refine ⟨_, ?_, hadv⟩
  have hb := hadv.blockingPoint hk (ls := w.live.filter fun r => (w.s.lane r).atPassEnd)
    fun r hr => hlive r (List.mem_of_mem_filter hr)
  rw [Work.finish, Work.advance]
  simp only [hz, List.append_nil, hb]
  exact hadv.done (w := { w with s := _, live := [], zero := [] }) hk rfl ht

end

/-! ### Branches -/

/-- Where a lane jumps, a jump to its word or below marking it (R113). -/
theorem goOn_eq_jump (x : Lane) (a : DWord) : x.jump a = Claims.goOn x (x.code.at a) := rfl

/-- The lanes of a work jump. -/
theorem LaneWise.jumps {s : State} {l : Latch} {f : LRef → Lane → Lane} {w : Work} (h : LaneWise s l f w.s) (hk : NoKills s l)
    (hl : w.l = l) (hn : w.live.Nodup) (hlive : ∀ r ∈ w.live, r ∈ l.lanes) (a : State → LRef → DWord) :
    (w.jumps a).l = w.l ∧ (w.jumps a).live = [] ∧ (w.jumps a).zero = w.zero ∧ (w.jumps a).traps = w.traps ∧
    LaneWise s l (fun r x => if r ∈ w.live then branched l (a w.s r) ((f r x).jump (a w.s r)) else f r x) (w.jumps a).s := by
  refine ⟨rfl, rfl, rfl, rfl, ?_⟩
  have hjump := h.each (fun r x => x.jump (a w.s r)) hn hlive
  have hpass := hjump.each (fun _ x => if x.unexited then { x with passed := true } else x)
    (ls := w.live.filter fun r => decide ((a w.s r).toNat ≤ w.l.pc.toNat)) (hn.filter _)
    fun r hr => hlive r (List.mem_of_mem_filter hr)
  have hs : (w.jumps a).s = (w.live.filter fun r => decide ((a w.s r).toNat ≤ w.l.pc.toNat)).foldl
      (fun s r => s.modLane r fun x => if x.unexited then { x with passed := true } else x)
      (w.live.foldl (fun s r => s.modLane r fun x => x.jump (a w.s r)) w.s) :=
    hpass.blockingPoint hk fun r hr => hlive r (List.mem_of_mem_filter hr)
  rw [hs]
  refine { hpass with lane := fun r hr => (hpass.lane r hr).trans ?_ }
  rw [hl]
  by_cases hr : r ∈ w.live
  · by_cases hback : (a w.s r).toNat ≤ l.pc.toNat
    · simp only [List.mem_filter, hr, hback, decide_true, and_self, if_true, branched, Bool.or_true]
      rfl
    · simp only [List.mem_filter, hr, hback, decide_false, Bool.false_eq_true, and_false, if_true, if_false, branched, Bool.or_false]
  · simp only [List.mem_filter, hr, false_and, if_false]

theorem exec_bra (disp : BitVec 26) (s : State) : exec (.bra disp) s = execBra disp s := rfl

theorem moves_bra {s : State} {l : Latch} (hr : Ready s l) (hk : NoKills s l) (disp : BitVec 26) :
    Moves (.bra disp) s l fun _ x => branched l (target l disp.toInt) (Claims.goOn x (x.code.at (target l disp.toInt))) := by
  obtain ⟨hl, -, -, ht, hjump⟩ := (LaneWise.refl hr).jumps (w := s.work l) hk rfl hr.nodup (fun _ h => h)
    fun _ _ => target l disp.toInt
  have hend := hjump.done (w := (s.work l).jumps _) hk hl (ht.trans hr.alone)
  have he : exec (.bra disp) s = ((s.work l).jumps fun _ _ => target l disp.toInt).done := by
    rw [exec_bra, execBra, withGather_latched hr.latched]
    rfl
  exact hjump.moves (he.trans hend) fun r h => if_pos h

theorem exec_brz (a : Reg) (disp : BitVec 19) (s : State) : exec (.brz a disp) s = branchIf a disp (fun x => !condTrue x) s := rfl

theorem exec_brnz (a : Reg) (disp : BitVec 19) (s : State) : exec (.brnz a disp) s = branchIf a disp condTrue s := rfl

/-- A branch on vA, unpoisoned in every lane: each lane goes where its own condition says. -/
theorem moves_branchIf {i : Instr} {s : State} {l : Latch} {a : Reg} {disp : BitVec 19} {taken : Word → Bool} (hr : Ready s l)
    (hk : NoKills s l) (he : exec i s = branchIf a disp taken s) (hf : InRange s l [rfld codeA a])
    (hp : ∀ r ∈ l.lanes, (rd s l r codeA a).poison = false) :
    Moves i s l fun r x => if taken (rd s l r codeA a).val then
      branched l (target l disp.toInt) (Claims.goOn x (x.code.at (target l disp.toInt))) else x.advance l.pc := by
  obtain ⟨s0, h0, hb⟩ := sources_inRange hf none rfl
  have hreg : ∀ r, (s0.work l).regOf r codeA a = rd s l r codeA a := fun r => h0.regOf l r codeA a
  let goes := l.lanes.filter fun r => taken (rd s l r codeA a).val
  let stay := l.lanes.filter fun r => !goes.contains r
  have hgoes : ∀ r, r ∈ goes ↔ r ∈ l.lanes ∧ taken (rd s l r codeA a).val = true := fun r => List.mem_filter
  have hstay : ∀ r, r ∈ stay ↔ r ∈ l.lanes ∧ r ∉ goes := fun r => by
    rw [List.mem_filter, Bool.not_eq_true', List.contains_eq_mem, decide_eq_false_iff_not]
  obtain ⟨hl, -, -, ht, hjump⟩ := (LaneWise.of_tallied hr h0).jumps (w := { s0.work l with live := goes }) hk rfl (hr.nodup.filter _)
    (fun r h => ((hgoes r).1 h).1) fun _ _ => target l disp.toInt
  obtain ⟨t, hfin, hall⟩ := LaneWise.finish
    (w := { (Work.jumps { s0.work l with live := goes } fun _ _ => target l disp.toInt) with live := stay })
    hjump hk hl (ht.trans hr.alone) rfl (hr.nodup.filter _) fun r h => ((hstay r).1 h).1
  refine hall.moves (he.trans (Eq.trans ?_ hfin)) fun r h => ?_
  · rw [branchIf, withGather_latched hr.latched, hb]
    dsimp only
    rw [foldl_keep _ (s0.work l) (s0.work l).live ?pass]
    case pass =>
      intro r h
      rw [hreg, hp r h, if_neg Bool.false_ne_true]
    simp only [hreg]
    rfl
  · by_cases hg : taken (rd s l r codeA a).val = true
    · have hin : r ∈ goes := (hgoes r).2 ⟨h, hg⟩
      simp only [if_pos hg, hstay, hin, not_true, and_false, if_false]
      rfl
    · have hout : r ∉ goes := fun hin => hg ((hgoes r).1 hin).2
      simp only [if_neg hg, hstay, h, hout, not_false_iff, and_self, if_true, if_false]

theorem find_pair {α : Type} (f : LRef → α) {r : LRef} : ∀ {ls : List LRef}, r ∈ ls →
    (ls.map fun x => (x, f x)).find? (fun x => x.1 == r) = some (r, f r)
  | x :: t, h => by
    rw [List.map_cons]
    by_cases hx : x = r
    · subst hx; exact List.find?_cons_of_pos (beq_self_eq_true x)
    · rw [List.find?_cons_of_neg (by simpa using hx)]
      exact find_pair f ((List.mem_cons.1 h).resolve_left (Ne.symm hx))

/-- The lanes of a work take the capability in quad A for their code (R114). -/
theorem LaneWise.install {s : State} {l : Latch} {f : LRef → Lane → Lane} {w : Work} (h : LaneWise s l f w.s) (hk : NoKills s l)
    (hl : w.l = l) (hn : w.live.Nodup) (hlive : ∀ r ∈ w.live, r ∈ l.lanes) (a : Reg) {c : LRef → Cap}
    (hc : ∀ r ∈ w.live, w.s.cap r (w.rnum r codeA a.toNat) = c r) :
    (w.install a).l = w.l ∧ (w.install a).zero = w.zero ∧ (w.install a).traps = w.traps ∧
    LaneWise s l (fun r x => if r ∈ w.live then branched l (c r).cursor { Claims.goOn (f r x) (c r) with anchor := (c r).cursor }
      else f r x) (w.install a).s := by
  let capOf := fun r => (((w.live.map fun r => (r, w.s.cap r (w.rnum r codeA a.toNat))).find? fun x => x.1 == r).map (·.2)).getD {}
  have hcap : ∀ r ∈ w.live, capOf r = c r := fun r hr => by
    refine (congrArg (fun o => (o.map (·.2)).getD ({} : Cap)) (find_pair (fun r => w.s.cap r (w.rnum r codeA a.toNat)) hr)).trans ?_
    exact hc r hr
  have hcode := h.each (fun r x => { x with code := capOf r, anchor := (capOf r).cursor }) hn hlive
  obtain ⟨-, -, -, -, hjump⟩ := hcode.jumps (w := { w with
    s := w.live.foldl (fun s r => s.modLane r fun x => { x with code := capOf r, anchor := (capOf r).cursor }) w.s })
    hk hl hn hlive fun _ r => (capOf r).cursor
  refine ⟨rfl, rfl, rfl, { hjump with lane := fun r hr => (hjump.lane r hr).trans ?_ }⟩
  by_cases hin : r ∈ w.live
  · simp only [if_pos hin, hcap r hin]
    rfl
  · simp only [if_neg hin]

theorem exec_bri (a : Reg) (s : State) : exec (.bri a) s = execBri a s := rfl

/-- A code capability passes the checks of bri and calli. -/
theorem codeVerdict_pass {s : State} {l : Latch} {r : LRef} {a : Reg} (h : CodeCap s l r a) :
    codeVerdict (rdCap s l r codeA a) (rdBad s l r codeA a) = none := by
  obtain ⟨hbad, htag, hotype, hperm⟩ := h
  simp only [codeVerdict, hbad, htag, hotype, hperm, Bool.false_eq_true, Bool.not_true, if_false, ne_eq, not_true]

/-- Where they pass in every lane, nothing has changed. -/
theorem checkCode_keep {s s0 : State} {l : Latch} {a : Reg} (h0 : Tallied s s0) (hc : ∀ r ∈ l.lanes, CodeCap s l r a) :
    (s0.work l).checkCode a = s0.work l := by
  refine Work.check_pass fun r hr => ?_
  rw [work_s, h0.num, h0.cap, h0.quadPoison]
  exact codeVerdict_pass (hc r hr)

theorem moves_bri {s : State} {l : Latch} {a : Reg} (hr : Ready s l) (hk : NoKills s l) (hf : InRange s l [rfld codeA a 4])
    (hc : ∀ r ∈ l.lanes, CodeCap s l r a) : Moves (.bri a) s l fun r x =>
      branched l (rdCap s l r codeA a).cursor { Claims.goOn x (rdCap s l r codeA a) with anchor := (rdCap s l r codeA a).cursor } := by
  obtain ⟨s0, h0, hb⟩ := sources_inRange hf none rfl
  obtain ⟨hl, -, ht, hall⟩ := (LaneWise.of_tallied hr h0).install (w := s0.work l) hk rfl hr.nodup (fun _ h => h) a
    (c := fun r => rdCap s l r codeA a) fun r _ => by rw [h0.num, work_s, h0.cap]; rfl
  have hend := hall.done (w := (s0.work l).install a) hk hl (ht.trans hr.alone)
  have he : exec (.bri a) s = ((s0.work l).install a).done := by
    rw [exec_bri, execBri, withGather_latched hr.latched, hb, checkCode_keep h0 hc]
    rfl
  exact hall.moves (he.trans hend) fun r h => if_pos h

/-- Settles O39: a branch is a jump of the lanes whose condition holds; the others go past. -/
theorem jumpResults : Obligations.JumpResults := by
  intro s l hr hk take
  refine ⟨fun disp => moves_bra hr hk disp, fun a disp hf hp => ⟨?brz, ?brnz⟩, fun a hf hc => moves_bri hr hk hf hc⟩
  case brz =>
    obtain ⟨t, ht, honly, hlane⟩ := moves_branchIf hr hk (exec_brz a disp s) hf hp
    refine ⟨t, ht, honly, fun r h => (hlane r h).trans ?_⟩
    simp only [condTrue, Bool.not_not, beq_iff_eq]
    rfl
  case brnz =>
    obtain ⟨t, ht, honly, hlane⟩ := moves_branchIf hr hk (exec_brnz a disp s) hf hp
    refine ⟨t, ht, honly, fun r h => (hlane r h).trans ?_⟩
    simp only [condTrue, Bool.not_eq_true', beq_eq_false_iff_ne]
    rfl

end Sys2Proof.Machine
end

section
/-!
PROOFS. The halt of a context whose lane traps with no handler to enter (R333, R334): it visits groups by their numbers, and where
groups of one number depend on others in a ring it visits none.
-/

namespace Sys2Proof.Machine

open Sys2Proof Sys2Proof.Machine.Claims

/-- A group that has pushed to the ring at an offset and is bound to it. -/
def ringGroup (gid off : Nat) (ls : List Lane) : Group :=
  { gid := gid, lanes := ls, pushed := [off], chans := [some (off, 0)] }

/-- Two groups of each of three numbers: one of a number shares a ring with one of the next, the other with one of the number before. -/
def ringedGroups : List Group :=
  [ringGroup 1 0 [{ status := .ready }], ringGroup 2 0 [], ringGroup 2 1 [], ringGroup 3 1 [], ringGroup 3 2 [], ringGroup 1 2 []]

/-- The gather of the one lane of group 1. -/
def loneLatch : Latch := { agent := .core 0, row := 0, lanes := [(1, 0)], pc := 0, start := 0, word := 0 }

/-- Their context runs, its policies all deliver. -/
def ringedState : State := { issue := some loneLatch, ctxs := [(0, { phase := .running })], groups := ringedGroups }

theorem ringedState_alone : Alone ringedState loneLatch (1, 0) where
  ready := ⟨rfl, rfl, by decide, fun r hr => by cases List.mem_singleton.1 hr; exact ⟨by decide, by decide⟩, by decide⟩
  only := rfl
  real := rfl
  plain := rfl

/-- Whether lane 0 of group 1 is halted after an instruction. -/
def haltedAfter (o : Host.Outcome State Fault Refusal) : Bool :=
  match o with
  | .next t => (t.lane (1, 0)).halted
  | _ => false

/-- Refutes O41: where two groups of one number follow different groups, each of six groups must follow another, and the halt of the
context reaches no lane, the trapping one neither. -/
theorem not_trapsAndReturns : ¬ Obligations.TrapsAndReturns := by
  intro ⟨_, h⟩
  obtain ⟨t, ht, -, hhalted, -⟩ := h ringedState loneLatch (1, 0) 0 0 ringedState_alone rfl (by decide) (by decide) (by decide)
    (by decide) (by decide)
  have hrun : haltedAfter (exec (.trap 0) ringedState) = false := by decide
  rw [ht] at hrun
  exact absurd hhalted (ne_true_of_eq_false hrun)

end Sys2Proof.Machine
end

section
/-!
PROOFS. The crews of a core's engine (R279, R280): a crew is left, with its ticket, when it has exited lanes and no other; a lane that
leaves it is none of them any more.
-/

namespace Sys2Proof.Machine

open Sys2Proof Sys2Proof.Machine.Claims

/-- A gather of a lane that has exited. -/
def exitedLatch : Latch := { agent := .core 0, row := 0, lanes := [(1, 0)], pc := 0, start := 0, word := 0 }

/-- A lane that has exited, the one lane of crew 0 of its block, which has a ticket. -/
def exitedState : State :=
  { issue := some exitedLatch, groups := [{ gid := 1, lanes := [{ status := .exited }] }], cores := [(0, { tickets := [(0, 0)] })] }

theorem exitedState_alone : Alone exitedState exitedLatch (1, 0) where
  ready := ⟨rfl, rfl, by decide, fun r hr => by cases List.mem_singleton.1 hr; exact ⟨by decide, by decide⟩, by decide⟩
  only := rfl
  real := rfl
  plain := rfl

/-- The lanes of the state are its one lane and lanes with nothing in them. -/
theorem exitedState_names (q : LRef) (hq : exitedState.has q) : q = (1, 0) := by
  obtain ⟨hold, hlt⟩ := hq
  obtain ⟨g, k⟩ := q
  have hg : g = 1 := by
    by_contra hne
    simp only [State.holds, exitedState, List.any_cons, List.any_nil, Bool.or_false, beq_iff_eq] at hold
    exact hne hold.symm
  subst hg
  have hk : k < 1 := hlt
  obtain rfl : k = 0 := by omega
  rfl

/-- The tickets of core 0 after an instruction. -/
def ticketsAfter (o : Host.Outcome State Fault Refusal) : List (Nat × Nat) :=
  match o with
  | .next t => (t.core 0).tickets
  | _ => []

/-- Refutes O48: where the lane that leaves its crew is the only one of it and has itself exited, no exited lane is left to count
for the crew, and its ticket stays. -/
theorem not_matrixResults : ¬ Obligations.MatrixResults := by
  intro ⟨h, _⟩
  obtain ⟨-, -, -, hleave, -⟩ := h exitedState exitedLatch (1, 0) exitedState_alone
  have hnext := hleave 1 (by decide) rfl (by decide) ⟨(1, 0), ⟨⟨by decide, by decide⟩, rfl, rfl, rfl⟩, rfl⟩
    (fun q hq hname => absurd (exitedState_names q hname.1) hq) (by decide)
  have htickets := congrArg ticketsAfter hnext
  revert htickets
  decide

end Sys2Proof.Machine
end

section
/-!
PROOFS. A store at a place where a line of a TLB maps its virtual address to a physical one that is not a multiple of the
access's size: the bytes beyond the frame's end belong to the next granule of 4 KiB, and where that one is retired they are
not written.
-/

namespace Sys2Proof.Machine

open Sys2Proof Sys2Proof.Machine.Claims

/-- A gather of the one lane of group 1. -/
def edgeLatch : Latch := { agent := .core 0, row := 0, lanes := [(1, 0)], pc := 0, start := 0, word := 0 }

/-- Quad 0 holds a capability of bytes 0 to 15 of the HBM, with permissions 0, 1 and 4; v4 holds a word of ones. -/
def edgeLane : Lane :=
  { regs := [⟨0, false⟩, ⟨0, false⟩, ⟨16, false⟩, ⟨0x13000000, false⟩, ⟨0xFFFFFFFF, false⟩, {}, {}, {}], tags := 1 }

/-- Granule 1 is retired, and the core's TLB maps virtual address 0 to the last two bytes of granule 0. -/
def edgeState : State :=
  { issue := some edgeLatch, groups := [{ gid := 1, lanes := [edgeLane] }], retired := [1]
    cores := [(0, { tlb := [{ asid := 0, va := 0, size := 4096, dev := 0xFF, pa := 4094, rd := true, w := true, x := true
                              pol := 0 }] })] }

theorem edgeState_alone : Alone edgeState edgeLatch (1, 0) where
  ready := ⟨rfl, rfl, by decide, fun r hr => by cases List.mem_singleton.1 hr; exact ⟨by decide, by decide⟩, by decide⟩
  only := rfl
  real := rfl
  plain := rfl

/-- The third byte of the word at the edge, after an instruction. -/
def edgeByte (o : Host.Outcome State Fault Refusal) : Byte :=
  match o with
  | .next t => byteAt t (.hbm 0 4094) 2
  | _ => 0

/-- Refutes O34: the store of a word whose last two bytes fall into a retired granule leaves them as they were. -/
theorem not_storeResults : ¬ Obligations.StoreResults := by
  intro h
  obtain ⟨-, hplain, -⟩ := h 4 0 0 0 0 edgeState edgeLatch (1, 0) edgeState_alone
  have hrow := hplain _ (.tail _ (.tail _ (.head _))) (fun q hq => by cases List.mem_singleton.1 hq; decide)
    (counted edgeState edgeLatch [rfld codeD 4, qfld 0]) (.hbm 0 4094) rfl
  obtain ⟨t, hnext, hstored, -⟩ := hrow.2 ⟨rfl, rfl, rfl, rfl, rfl⟩
  have hbyte := (congrArg edgeByte hnext).trans (hstored.new 2 (by decide))
  revert hbyte
  decide

/-- A scratchpad with an armed ring of 16 entries at its start, which holds one entry, a word of ones. -/
def oneEntryRing : Memory :=
  { cells := [(0, 16), (3, 0xC0), (8, 1), (16, 0xFF), (17, 0xFF), (18, 0xFF), (19, 0xFF)] }

/-- The state at the edge, entry 0 of the group's channel table bound to the ring. -/
def edgeRingState : State :=
  { edgeState with groups := [{ gid := 1, lanes := [edgeLane], chans := [some (0, 16)] }]
                   blocks := [{ bid := 0, grid := 0, index := 0, scratch := oneEntryRing }] }

theorem edgeRingState_alone : Alone edgeRingState edgeLatch (1, 0) where
  ready := ⟨rfl, rfl, by decide, fun r hr => by cases List.mem_singleton.1 hr; exact ⟨by decide, by decide⟩, by decide⟩
  only := rfl
  real := rfl
  plain := rfl

theorem edgeRingState_bound : Bound edgeRingState (1, 0) 0 0 [0, 1, 2] where
  entry := ⟨16, rfl⟩
  held := rfl
  clean := by decide
  armed := rfl
  cap := by decide

/-- Refutes O37: the store of an entry taken from a channel, whose last two bytes fall into a retired granule, leaves them as they
were. -/
theorem not_channelMoves : ¬ Obligations.ChannelMoves := by
  intro h
  obtain ⟨-, -, hmem⟩ := h 0 edgeRingState edgeLatch (1, 0) 0 edgeRingState_alone edgeRingState_bound rfl
  obtain ⟨-, hstores⟩ := hmem 0 0 0 0
  have hstore := hstores false _ (.tail _ (.tail _ (.head _))) (fun q hq => by cases List.mem_singleton.1 hq; decide) rfl (by decide)
  obtain ⟨t, hnext, hstored, -⟩ := hstore _ (.hbm 0 4094) rfl ⟨rfl, rfl, rfl, rfl, rfl⟩
  have hbyte := (congrArg edgeByte hnext).trans (hstored.new 2 (by decide))
  revert hbyte
  decide

/-- Refutes O35: a swap whose word's last two bytes fall into a retired granule leaves them as they were. -/
theorem not_atomicResults : ¬ Obligations.AtomicResults := by
  intro h
  have hswap := h (.atomSwap, 8, fun _ y => y) (by simp [atomOps]) 4 0 0 0 0 edgeState edgeLatch (1, 0) edgeState_alone
    (fun q hq f hf => by cases List.mem_singleton.1 hq; revert f; decide) (counted edgeState edgeLatch [rfld codeD 4, qfld 0]) (.hbm 0 4094) rfl
  obtain ⟨-, -, hmade⟩ := hswap
  obtain ⟨-, -, -, -, hhere⟩ := hmade (by decide)
  obtain ⟨hplain, -⟩ := hhere _ _ rfl rfl ⟨rfl, rfl, rfl, rfl, rfl⟩
  obtain ⟨t, w, hnext, hstored, -⟩ := hplain (.inl (by decide))
  have hbyte := (congrArg edgeByte hnext).trans (hstored.new 2 (by decide))
  revert hbyte
  decide

end Sys2Proof.Machine
end

section
/-!
PROOFS. Other halts that meet the ring of groups of `ringedState`: halt, and ctxrun's halt.
-/

namespace Sys2Proof.Machine

open Sys2Proof Sys2Proof.Machine.Claims

/-- Refutes O52: where the groups of the context follow each other in a ring, halt reaches no lane, its own neither. -/
theorem not_systemResults : ¬ Obligations.SystemResults := by
  intro ⟨_, h⟩
  obtain ⟨-, -, -, hhalt, -⟩ := h ringedState loneLatch (1, 0) ringedState_alone
  obtain ⟨t, ht, hhalted, -⟩ := hhalt rfl rfl
  have hrun : haltedAfter (exec .halt ringedState) = false := by decide
  rw [ht] at hrun
  exact absurd hhalted (ne_true_of_eq_false hrun)

/-- The gather of a Kolesque core's lane. -/
def complexLatch : Latch := { agent := .kcore 0, row := 0, lanes := [(9, 0)], pc := 0, start := 0, word := 0 }

/-- The ringed groups and the one of a Kolesque core, whose lane names context 0 in v0. -/
def ringedComplex : State :=
  { issue := some complexLatch, ctxs := [(0, { phase := .running })]
    groups := ringedGroups ++ [{ gid := 9, agent := .kcore 0, lanes := [{ status := .ready }] }] }

theorem ringedComplex_alone : OnComplex ringedComplex complexLatch (9, 0) 0 where
  alone := ⟨⟨rfl, rfl, by decide, fun r hr => by cases List.mem_singleton.1 hr; exact ⟨by decide, by decide⟩, by decide⟩, rfl, rfl, rfl⟩
  agent := rfl

/-- Refutes O54: where the groups of the context follow each other in a ring, ctxrun's halt reaches no lane. -/
theorem not_contextOperationResults : ¬ Obligations.ContextOperationResults := by
  intro h
  have hgood : GoodBlock ringedComplex complexLatch (9, 0) 4 0 :=
    ⟨fun q hq f hf => by cases List.mem_singleton.1 hq; revert f; decide, by decide⟩
  obtain ⟨-, -, hsettled, -⟩ := h ringedComplex complexLatch (9, 0) 0 4 0 ringedComplex_alone hgood
  obtain ⟨hrunning, -⟩ := hsettled (by decide) (by unfold Settled; decide)
  obtain ⟨⟨t, hanswers, hall, -⟩, -⟩ := hrunning (by decide)
  obtain ⟨hhalted, -⟩ := hall (1, 0) ⟨by decide, by decide⟩ (by decide) (by decide) (by decide)
  have hother : ((1, 0) : LRef) ≠ (9, 0) := by decide
  have hrun := congrArg haltedAfter hanswers
  have hkept : haltedAfter (exec (.ctxrunHalt 4 0) ringedComplex) = true := by
    simpa only [haltedAfter, past, State.wr, List.map_nil, State.wrs, lane_modLane_ne _ hother, hhalted] using hrun
  revert hkept
  decide

end Sys2Proof.Machine
end

section
/-!
PROOFS. The end of the last thread of a crew by a kill (R280, R297).
-/

namespace Sys2Proof.Machine

open Sys2Proof Sys2Proof.Machine.Claims

/-- A killed lane, the one lane of crew 0, whose ticket has a place among restored ones that its block keeps. -/
def killedState : State :=
  { ev := { a := 1, b := 0 }, groups := [{ gid := 1, lanes := [{ status := .ready, kill := true }] }]
    blocks := [{ bid := 0, grid := 0, index := 0, ranks := [(0, ⟨0, 0⟩)] }], cores := [(0, { tickets := [(0, 0)] })] }

/-- Whether a block keeps a crew's place after an event. -/
def ranksAfter (o : Host.Outcome State Fault Refusal) : List Nat :=
  match o with
  | .next t => (t.block 0).ranks.map (·.1)
  | _ => []

/-- Refutes O57: with the last thread of its crew a kill takes the crew's place among restored tickets from its block. -/
theorem not_machineEvents : ¬ Obligations.MachineEvents := by
  intro h
  obtain ⟨-, -, -, -, -, -, -, -, -, -, hkill, -⟩ := h killedState
  obtain ⟨t, hnext, -, -, -, -, -, -, -, hblocks⟩ := hkill rfl rfl rfl rfl rfl rfl rfl ⟨by decide, by decide⟩
  have hranks : ranksAfter (exec .killTakesEffect killedState) = [0] := by
    rw [hnext]
    show (State.block t 0).ranks.map _ = _
    rw [State.block, hblocks]
    rfl
  revert hranks
  decide

end Sys2Proof.Machine
end

section
/-!
PROOFS. The delivery of an event to a lane whose registers the matrix engine owns (R276, R357): its four words are not written.
-/

namespace Sys2Proof.Machine

open Sys2Proof Sys2Proof.Machine.Claims

/-- An idle Kolesque core whose lane waits for an event with v0 to v3 owned, and an event for it. -/
def ownedEventState : State :=
  { eventQ := [{ kind := 1 }], complex := { state := .running }, kcores := [(0, { status := .idle })]
    groups := [{ gid := kGid 0, agent := .kcore 0, lanes := [{ status := .parked .event 0, regs := List.replicate 4 {}
                                                               owned := [(0, 4, 0)] }] }] }

/-- Register v0 of the lane of Kolesque core 0 after an event. -/
def complexWord (o : Host.Outcome State Fault Refusal) : PWord :=
  match o with
  | .next t => (t.lane (kGid 0, 0)).regs.getD 0 {}
  | _ => {}

/-- Refutes O58: the event's words do not reach registers that the matrix engine owns. -/
theorem not_complexAndHostEvents : ¬ Obligations.ComplexAndHostEvents := by
  intro h
  obtain ⟨hdelivery, -⟩ := h ownedEventState
  obtain ⟨t, hnext, -, -, -, -, -, -, -, -, hwords⟩ := hdelivery { kind := 1 } [] 0 rfl rfl rfl rfl ⟨by decide, by decide⟩ rfl
  have hword := (congrArg complexWord hnext).trans (hwords (by decide) 0 (by decide))
  revert hword
  decide

end Sys2Proof.Machine
end

section
/-!
PROOFS. A return entry spilled under the key that all of HBM stands under since an earlier lease (R353, R371): the sector is not
told from one of that lease, and its tag reads as clear.
-/

namespace Sys2Proof.Machine

open Sys2Proof Sys2Proof.Machine.Claims

/-- The identifier of the lane's context names the key of an earlier lease; the lane's return stack is full, its oldest entry tagged. -/
def spillState : State :=
  { issue := some edgeLatch, baseKey := 1, keys := [(1, 1)], asids := [(0, { live := true, key := 1 })]
    groups := [{ gid := 1, lanes := [{ status := .ready, stack := List.replicate 8 { tag := true }, depth := 8 }] }]
    cores := [(0, { tlb := [{ asid := 0, va := 0, size := 4096, dev := 0xFF, pa := 0, rd := true, w := true, x := true
                              pol := 0 }] })] }

theorem spillState_alone : Alone spillState edgeLatch (1, 0) where
  ready := ⟨rfl, rfl, by decide, fun r hr => by cases List.mem_singleton.1 hr; exact ⟨by decide, by decide⟩, by decide⟩
  only := rfl
  real := rfl
  plain := rfl

/-- The tag of the spilled entry after an instruction. -/
def spilledTag (o : Host.Outcome State Fault Refusal) : Bool :=
  match o with
  | .next t => tagAt t (.hbm 1 0)
  | _ => true

/-- Refutes O40: a tagged return entry, spilled under the base key where that is no longer the lease's, stands untagged. -/
theorem not_callResults : ¬ Obligations.CallResults := by
  intro ⟨_, h, _⟩
  have hkills : NoKills spillState edgeLatch := fun r hr => by cases List.mem_singleton.1 hr; rfl
  obtain ⟨hspill, -⟩ := h spillState edgeLatch (1, 0) 0 spillState_alone hkills rfl
  obtain ⟨hcall, -⟩ := hspill (by decide) (by decide)
  obtain ⟨t, hnext, hspilled, -⟩ := hcall spillState 1 0 (by rw [State.locate, if_neg (by decide)]; rfl) (by decide) rfl rfl rfl 0
  have htag := (congrArg spilledTag hnext).trans hspilled.tag
  revert htag
  decide

end Sys2Proof.Machine
end

section
/-!
PROOFS. A gather of one lane: how an instruction begins with it, and what its end makes of a lane that goes past, parks, traps or
is held back (R86, R142, R327).
-/

namespace Sys2Proof.Machine

open Sys2Proof Sys2Proof.Machine.Claims

/-! ### Beginnings -/

theorem inRange_nil (s : State) (l : Latch) : InRange s l [] := fun _ _ _ h => by cases h

theorem begin_counted {s : State} {l : Latch} {flds : List Fld} (h : InRange s l flds) :
    (s.work l).begin flds = (counted s l flds).work l := by
  obtain ⟨s0, -, hb⟩ := begin_inRange h
  rw [counted, hb]
  rfl

theorem tallied_counted {s : State} {l : Latch} {flds : List Fld} (h : InRange s l flds) : Tallied s (counted s l flds) := by
  obtain ⟨s0, h0, hb⟩ := begin_inRange h
  rw [counted, hb]
  exact h0

/-- With register operands alone the operands are read as the instruction begins. -/
theorem sources_counted {s : State} {l : Latch} {flds : List Fld} (h : InRange s l flds) (d : Option Dst)
    (hd : d.bind dstChan = none) : (s.work l).sources flds d none none = (counted s l flds).work l := by
  simp only [Work.sources, chansOf, Option.toList, hd, begin_counted h, List.append_nil, List.filterMap_nil, Work.chanChecks_nil]

section
variable {s t : State} (h : Tallied s t)
include h

theorem Tallied.issue : t.issue = s.issue := by rw [← h.rest]
theorem Tallied.groups : t.groups = s.groups := by rw [← h.rest]
theorem Tallied.block (b : Nat) : t.block b = s.block b := by rw [← h.rest]; rfl
theorem Tallied.blocks : t.blocks = s.blocks := by rw [← h.rest]
theorem Tallied.hbm : t.hbm = s.hbm := by rw [← h.rest]
theorem Tallied.steps : t.steps = s.steps := by rw [← h.rest]
theorem Tallied.past : t.past = s.past := by rw [← h.rest]
theorem Tallied.l1 : t.l1 = s.l1 := by rw [← h.rest]
theorem Tallied.grids : t.grids = s.grids := by rw [← h.rest]
theorem Tallied.core (c : Nat) : t.core c = s.core c := by rw [← h.rest]; rfl
theorem Tallied.kcore (c : Nat) : t.kcore c = s.kcore c := by rw [← h.rest]; rfl
theorem Tallied.die (c : Nat) : t.die c = s.die c := by rw [← h.rest]; rfl
theorem Tallied.region (c : Nat) : t.region c = s.region c := by rw [← h.rest]; rfl
theorem Tallied.queue (c : Nat) : t.queue c = s.queue c := by rw [← h.rest]; rfl
theorem Tallied.row (c n : Nat) : t.row c n = s.row c n := by rw [← h.rest]; rfl

/-- What perf counts leave of a context, field by field. -/
theorem Tallied.ctx_field {α : Type} (p : Ctx → α) (hp : ∀ c : Ctx, p c.noPerf = p c) (n : Nat) : p (t.ctx n) = p (s.ctx n) := by
  rw [← hp, h.ctxs, hp]

theorem Tallied.policy (ctx : Nat) (cause : Byte) : t.policy ctx cause = s.policy ctx cause := by
  simp only [State.policy, h.ctx_field (fun c => c.hdr.policy) (fun _ => rfl)]

end

/-! ### Ends -/

section
variable {s : State} {l : Latch} {r : LRef} (h : Alone s l r)
include h

theorem Claims.Alone.late : l.late = [] := h.ready.alone
theorem Claims.Alone.has : s.has r := h.ready.there r (by simp [h.only])

theorem Claims.Alone.work (u : State) : u.work l = { s := u, l := l, live := [r], traps := [] } := by
  rw [State.work, h.only, h.late]

theorem Claims.Alone.counted {flds : List Fld} (hf : InRange s l flds) : Alone (Claims.counted s l flds) l r where
  ready := (tallied_counted hf).ready h.ready
  only := h.only
  real := by rw [(tallied_counted hf).lane]; exact h.real
  plain := by rw [(tallied_counted hf).group]; exact h.plain

/-- The lane is past its word, or passes a blocking point, and nothing else changes. -/
theorem Claims.Alone.quiet (u : State) (hk : (u.group r.1).taskKill = false) (w : Work) (hw : w.l = l) (hs : w.s = u) (ht : w.traps = []) :
    w.done = .next u := by
  subst hs
  exact Work.done_empty ht fun q hq => by
    rw [hw, h.only, List.mem_singleton] at hq
    rw [hq, hk]

theorem Claims.Alone.advance_of {w : Work} (hw : w.l = l) (hlive : w.live = [r]) (hz : w.zero = [])
    (hk : (w.s.group r.1).taskKill = false) : w.advance.s = past l r w.s := by
  simp only [Work.advance, hlive, hz, hw, List.append_nil, List.foldl_cons, List.foldl_nil]
  refine blockingPoint_keep _ _ fun q hq => ?_
  obtain rfl := List.mem_singleton.1 (List.mem_of_mem_filter hq)
  show ((past l q w.s).group q.1).taskKill = false
  rw [past, group_modLane_taskKill, hk]

/-- The lane goes past its word. -/
theorem Claims.Alone.finish_of {w : Work} (hw : w.l = l) (hlive : w.live = [r]) (ht : w.traps = []) (hz : w.zero = [])
    (hk : (w.s.group r.1).taskKill = false) : w.finish = .next (past l r w.s) := by
  exact h.quiet _ (by rw [past, group_modLane_taskKill, hk]) _ hw (h.advance_of hw hlive hz hk) ht

theorem Claims.Alone.finishPoint_of {w : Work} (hw : w.l = l) (hlive : w.live = [r]) (ht : w.traps = []) (hz : w.zero = [])
    (hk : (w.s.group r.1).taskKill = false) : w.finishPoint = .next (past l r w.s) := by
  rw [Work.finishPoint_quiet, h.finish_of hw hlive ht hz hk]
  intro q hq
  rw [hlive, List.mem_singleton] at hq
  rw [h.advance_of hw hlive hz hk, hq, past, group_modLane_taskKill, hk]

theorem Claims.Alone.finish {u : State} (hk : (u.group r.1).taskKill = false) : (u.work l).finish = .next (past l r u) :=
  h.finish_of rfl h.only h.late rfl hk

theorem Claims.Alone.finishPoint {u : State} (hk : (u.group r.1).taskKill = false) :
    (u.work l).finishPoint = .next (past l r u) :=
  h.finishPoint_of rfl h.only h.late rfl hk

/-- A gather that its lane has left, without a trap, ends as it stands. -/
theorem Claims.Alone.finish_left {u : State} (hk : (u.group r.1).taskKill = false) {w : Work} (hw : w.l = l) (hs : w.s = u) (hl : w.live = [])
    (hz : w.zero = []) (ht : w.traps = []) : w.finish = .next u := by
  subst hs
  exact Work.finish_empty hz hl ht fun q hq => by
    rw [hw, h.only, List.mem_singleton] at hq
    rw [hq, hk]

theorem Claims.Alone.finishPoint_left {u : State} (hk : (u.group r.1).taskKill = false) {w : Work} (hw : w.l = l) (hs : w.s = u) (hl : w.live = [])
    (hz : w.zero = []) (ht : w.traps = []) : w.finishPoint = .next u := by
  rw [Work.finishPoint_quiet, h.finish_left hk hw hs hl hz ht]
  rw [hl]
  exact fun q hq => by cases hq

theorem Claims.Alone.park_work (u : State) (w : Wait) :
    (u.work l).park r w = { s := parked l r w u, l := l, live := [], traps := [] } := by
  rw [h.work, Work.park]
  simp only [beq_self_eq_true, Bool.not_true, List.filter_cons_of_neg, List.filter_nil, Bool.false_eq_true, not_false_eq_true]
  rfl

theorem Claims.Alone.finish_park {u : State} (hk : (u.group r.1).taskKill = false) (w : Wait) :
    ((u.work l).park r w).finish = .next (parked l r w u) := by
  rw [h.park_work]
  exact h.finish_left (by rw [parked, group_modLane_taskKill, hk]) rfl rfl rfl rfl rfl

theorem Claims.Alone.finishPoint_park {u : State} (hk : (u.group r.1).taskKill = false) (w : Wait) :
    ((u.work l).park r w).finishPoint = .next (parked l r w u) := by
  rw [h.park_work]
  exact h.finishPoint_left (by rw [parked, group_modLane_taskKill, hk]) rfl rfl rfl rfl rfl

theorem Claims.Alone.done_park {u : State} (hk : (u.group r.1).taskKill = false) (w : Wait) :
    ((u.work l).park r w).done = .next (parked l r w u) := by
  rw [h.park_work]
  exact h.quiet _ (by rw [parked, group_modLane_taskKill, hk]) _ rfl rfl rfl

theorem Claims.Alone.hold_work (u : State) : (u.work l).hold r = { s := heldBack r u, l := l, live := [], traps := [] } := by
  rw [h.work, Work.hold]
  simp only [beq_self_eq_true, Bool.not_true, List.filter_cons_of_neg, List.filter_nil, Bool.false_eq_true, not_false_eq_true]
  rfl

theorem Claims.Alone.strike_work {u : State} (hh : (u.lane r).helper = false) (cause : Byte) (data : DWord) :
    (u.work l).strike r cause data =
      { s := u, l := l, live := [], traps := [{ lane := r, cause := cause, pc := l.start, data := data }] } := by
  rw [h.work, Work.strike]
  simp only [hh, Bool.false_eq_true, if_false, beq_self_eq_true, Bool.not_true, List.filter_cons_of_neg, List.filter_nil,
    not_false_eq_true, List.nil_append]

/-- A trap of the lane that is delivered enters its handler, and the context's counter 6 counts it (R327, R337). -/
theorem Claims.Alone.finish_strike {u : State} (hk : (u.group r.1).taskKill = false) (hh : (u.lane r).helper = false) {cause : Byte}
    (hd : Delivers u l r cause) (data : DWord) :
    ((u.work l).strike r cause data).finish = .next (trapped l r cause data u) := by
  obtain ⟨⟨c, hagent⟩, hpolicy, hcan⟩ := hd
  have hhandle : (u.handle (u.group r.1).ctx [{ lane := r, cause := cause, pc := l.start, data := data }]) = trapped l r cause data u := by
    simp only [State.handle, sortBy, List.foldl_cons, List.foldl_nil, insertBy, List.map_cons, List.map_nil, State.handling, hpolicy,
      hcan, if_true]
    rfl
  have htaken : ((trapped l r cause data u).group r.1).taskKill = false := by
    show (((u.deliver r cause l.start data).count _ 6 1).group r.1).taskKill = false
    rw [State.count, show ∀ c f, ((u.deliver r cause l.start data).modCtx c f).group r.1 = (u.deliver r cause l.start data).group r.1
      from fun _ _ => rfl, State.deliver, group_modLane_taskKill, hk]
  rw [h.strike_work hh, Work.finish]
  simp only [Work.advance, List.filter_nil, List.append_nil, List.foldl_nil, Work.done, Work.settleTraps, hagent]
  rw [show u.blockingPoint [] = u from rfl, hhandle]
  exact congrArg Host.Outcome.next (blockingPoint_keep _ _ fun q hq => by
    have hq' := List.mem_of_mem_filter hq
    rw [h.only, List.mem_singleton] at hq'
    rw [hq', htaken])

theorem Claims.Alone.traps {i : Instr} {flds : List Fld} (hf : InRange s l flds) {cause : Byte} {data : DWord}
    (he : exec i s = (((Claims.counted s l flds).work l).strike r cause data).finish) : TrapsWith i s l r flds cause data := by
  intro hd
  have h0 := tallied_counted hf
  rw [he]
  refine (h.counted hf).finish_strike (h.counted hf).plain (h.counted hf).real ⟨hd.agent, ?_, ?_⟩ data
  · rw [h0.policy, h0.group]; exact hd.policy
  · rw [h0.lane]; exact hd.can

/-! ### Steps in between -/

theorem Claims.Alone.actors_work {u : State} (hh : (u.lane r).helper = false) : (u.work l).actors = [r] := by
  rw [h.work, Work.actors]
  simp only [hh, Bool.not_false, List.filter_cons_of_pos, List.filter_nil]

theorem Claims.Alone.writeRegs_work (u : State) (code num : Nat) (f : State → LRef → List PWord) :
    (u.work l).writeRegs code num f = (u.wrs r ((u.work l).rnum r code num) (f u r)).work l := by
  rw [h.work, h.work]
  rfl

theorem Claims.Alone.writeDst_work (u : State) (d : Reg) (f : State → LRef → PWord) :
    (u.work l).writeDst (.reg d) f = (u.wr r (regNo u l r codeD d) (f u r)).work l := by
  rw [h.work, h.work, regNo, h.work]
  rfl

end

theorem zeroRegs_work (u : State) (l : Latch) (code num width : Nat) : (u.work l).zeroRegs code num width = u.work l := rfl

theorem groupsOf_one (r : LRef) : groupsOf [r] = [r.1] := rfl

end Sys2Proof.Machine
end

section
/-!
PROOFS. The instructions of the command complex alone (R44), and the event and the queue lock of a Kolesque core (R360).
-/

namespace Sys2Proof.Machine

open Sys2Proof Sys2Proof.Machine.Claims

/-! ### On a compute core -/

/-- What a row of priv runs. -/
theorem exec_priv (s : State) : ∀ i ∈ complexOnly, ∃ reads f, exec i s = privRun s reads f := by
  simp only [complexOnly, List.forall_mem_cons, List.not_mem_nil, false_imp_iff, implies_true, and_true]
  refine ⟨?_, ?_, ?_, ?_, ?_, ?_, ?_, ?_, ?_, ?_, ?_, ?_, ?_, ?_, ?_, ?_, ?_, ?_, ?_⟩
  · exact ⟨_, _, show execPrivTlbInvalidateAll s = privRun s _ _ from rfl⟩
  · exact ⟨_, _, show execPrivTlbInvalidateAsid s = privRun s _ _ from rfl⟩
  · exact ⟨_, _, show execPrivTlbInvalidateRange s = privRun s _ _ from rfl⟩
  · exact ⟨_, _, show execPrivIdentifierEntry s = privRun s _ _ from rfl⟩
  · exact ⟨_, _, show execPrivKeyLoad s = privRun s _ _ from rfl⟩
  · exact ⟨_, _, show execPrivKeyDestroy s = privRun s _ _ from rfl⟩
  · exact ⟨_, _, show execPrivPlantBreakpoint s = privRun s _ _ from rfl⟩
  · exact ⟨_, _, show execPrivRemoveBreakpoint s = privRun s _ _ from rfl⟩
  · exact ⟨_, _, show execPrivRevokeDebug s = privRun s _ _ from rfl⟩
  · exact ⟨_, _, show execPrivEngineReset s = privRun s _ _ from rfl⟩
  · exact ⟨_, _, show execPrivDerate s = privRun s _ _ from rfl⟩
  · exact ⟨_, _, show execPrivFaultReplay s = privRun s _ _ from rfl⟩
  · exact ⟨_, _, show execPrivFaultFail s = privRun s _ _ from rfl⟩
  · exact ⟨_, _, show execPrivReadFaultRecord s = privRun s _ _ from rfl⟩
  · exact ⟨_, _, show execPrivPoolQuery s = privRun s _ _ from rfl⟩
  · exact ⟨_, _, show execPrivQueueDisable s = privRun s _ _ from rfl⟩
  · exact ⟨_, _, show execPrivQueueActivate s = privRun s _ _ from rfl⟩
  · exact ⟨_, _, show execPrivMsix s = privRun s _ _ from rfl⟩
  · exact ⟨_, _, show execPrivHandover s = privRun s _ _ from rfl⟩

/-- What a row of ctxrun runs. -/
theorem exec_ctxrun (d a : Reg) (s : State) : ∀ i ∈ [Instr.ctxrunRun d a, .ctxrunHalt d a, .ctxrunResume d a, .ctxrunSave d a,
    .ctxrunDump d a, .ctxrunKill d a, .ctxrunState d a], ∃ reads f, exec i s = complexOp s d a reads f := by
  simp only [List.forall_mem_cons, List.not_mem_nil, false_imp_iff, implies_true, and_true]
  refine ⟨?_, ?_, ?_, ?_, ?_, ?_, ?_⟩
  · exact ⟨_, _, show execCtxrunRun d a s = complexOp s d a _ _ from rfl⟩
  · exact ⟨_, _, show execCtxrunHalt d a s = complexOp s d a _ _ from rfl⟩
  · exact ⟨_, _, show execCtxrunResume d a s = complexOp s d a _ _ from rfl⟩
  · exact ⟨_, _, show execCtxrunSave d a s = complexOp s d a _ _ from rfl⟩
  · exact ⟨_, _, show execCtxrunDump d a s = complexOp s d a _ _ from rfl⟩
  · exact ⟨_, _, show execCtxrunKill d a s = complexOp s d a _ _ from rfl⟩
  · exact ⟨_, _, show execCtxrunState d a s = complexOp s d a _ _ from rfl⟩

/-- On a compute core what only the complex may run is a privilege fault whose data are the word (R44). -/
theorem withComplex_core {s : State} {l : Latch} {r : LRef} (h : Alone s l r) (hd : Delivers s l r 0x15) (d : Reg) (width : Nat)
    (f : Work → LRef → Nat → Host.Outcome State Fault Refusal) :
    withComplex s d width f = .next (trapped l r 0x15 (l.word.setWidth 64) s) := by
  obtain ⟨c, hagent⟩ := hd.agent
  rw [withComplex, withGather_latched h.ready.latched, ← h.finish_strike h.plain h.real hd, h.strike_work h.real, h.work]
  simp only [hagent, Work.strikeAll, List.foldl_cons, List.foldl_nil]
  rw [← h.work, h.strike_work h.real]
  rfl

theorem privilege_of_complex {s : State} {l : Latch} {r : LRef} (h : Alone s l r) (hd : Delivers s l r 0x15) (d a : Reg) :
    ∀ i ∈ complexOnly ++ [.evwait d, .qlock a, .qunlock a, .ctxrunRun d a, .ctxrunHalt d a, .ctxrunResume d a, .ctxrunSave d a,
      .ctxrunDump d a, .ctxrunKill d a, .ctxrunState d a], exec i s = .next (trapped l r 0x15 (l.word.setWidth 64) s) := by
  intro i hi
  rcases List.mem_append.1 hi with hpriv | hrest
  · obtain ⟨reads, f, he⟩ := exec_priv s i hpriv
    rw [he, privRun, complexOp]
    exact withComplex_core h hd _ _ _
  · simp only [List.mem_cons] at hrest
    rcases hrest with rfl | rfl | rfl | hctx
    · show execEvwait d s = _
      rw [execEvwait]
      exact withComplex_core h hd _ _ _
    · show execQlock a s = _
      rw [execQlock]
      exact withComplex_core h hd _ _ _
    · show execQunlock a s = _
      rw [execQunlock]
      exact withComplex_core h hd _ _ _
    · obtain ⟨reads, f, he⟩ := exec_ctxrun d a s i (by simpa only [List.mem_cons] using hctx)
      rw [he, complexOp]
      exact withComplex_core h hd _ _ _

/-! ### On a Kolesque core -/

theorem kcore_releaseLock_ne (s : State) {j k : Nat} (hj : j ≠ k) : (s.releaseLock k).kcore j = s.kcore j := by
  unfold State.releaseLock
  split
  · split
    · exact kcore_modKcore_ne _ hj _
    · rfl
  · rfl

theorem queues_releaseLock (s : State) (k : Nat) : (s.releaseLock k).queues =
    (if (s.kcore k).event.any (fun e => e.ofQueue && !e.void && !(s.kcore k).released) then
      s.modQueue (((s.kcore k).event.map (·.queue)).getD 0) fun q => q.release (((s.kcore k).event.map (·.ticket)).getD 0) else s).queues := by
  unfold State.releaseLock
  cases (s.kcore k).event with
  | none => rfl
  | some e =>
    simp only [Option.any_some, Option.map_some, Option.getD_some]
    split <;> rfl

theorem tryHandover_none {u : State} (h : u.complex.successor = none) : u.tryHandover = u := by
  rw [State.tryHandover, h]

/-- A release of the queue lock changes the event's queue and the core alone. -/
theorem releaseLock_keeps (s : State) (k : Nat) : ∃ qs ks, s.releaseLock k = { s with queues := qs, kcores := ks } := by
  unfold State.releaseLock
  split
  · split
    · exact ⟨_, _, rfl⟩
    · exact ⟨s.queues, s.kcores, rfl⟩
  · exact ⟨s.queues, s.kcores, rfl⟩

section
variable {s : State} {l : Latch} {r : LRef} {k : Nat} (h : OnComplex s l r k)
include h

theorem withComplex_kcore (d : Reg) (width : Nat) (f : Work → LRef → Nat → Host.Outcome State Fault Refusal) :
    withComplex s d width f = f (s.work l) r k := by
  rw [withComplex, withGather_latched h.alone.ready.latched, h.alone.work]
  simp only [h.agent]

/-- A Kolesque core counts no unstaged field. -/
theorem counted_kcore {flds : List Fld} (hf : InRange s l flds) : counted s l flds = s := by
  rw [counted, Work.begin, Work.tally]
  simp only [show (s.work l).l.agent = .kcore k from h.agent]
  rw [Work.bounds_keep fun q hq => boundsVerdict_none hf hq]
  rfl

theorem begin_kcore {flds : List Fld} (hf : InRange s l flds) : (s.work l).begin flds = s.work l := by
  rw [begin_counted hf, counted_kcore h hf]

/-- evwait ends the event, its lock passed, and parks the core. -/
theorem exec_evwait_kcore (d : Reg) (hf : InRange s l [rfld codeD d 4]) (hs : s.complex.successor = none) :
    exec (.evwait d) s = .next (parked l r .event ((s.releaseLock k).modKcore k fun x =>
      { x with event := none, released := false, dest := regNo s l r codeD d, status := .idle })) := by
  obtain ⟨qs, ks, hkeeps⟩ := releaseLock_keeps s k
  show execEvwait d s = _
  rw [execEvwait, withComplex_kcore h, begin_kcore h hf, h.alone.work]
  dsimp only
  rw [hs, ← h.alone.work]
  simp only [Option.isSome_none, Bool.false_eq_true, if_false]
  rw [h.alone.park_work]
  refine (congrArg (fun t => Work.done { s := t, l := l, live := [], traps := [] }) (tryHandover_none ?_)).trans
    (h.alone.quiet _ ?_ _ rfl rfl rfl)
  · rw [hkeeps]; exact hs
  · rw [parked, group_modLane_taskKill]
    rw [hkeeps]; exact h.alone.plain

theorem qlock_kcore {a : Reg} {e : EventRec} (hf : InRange s l [rfld codeA a]) (hp : (rd s l r codeA a).poison = false)
    (he : (s.kcore k).event = some e) (hq : e.ofQueue = true) (hn : e.queue = (rd s l r codeA a).val.toNat) :
    exec (.qlock a) s = if s.passesLock k then .next (past l r (s.acquires r deviceScope))
      else .next (parked l r (.lock e.queue) (s.modKcore k fun x => { x with status := .qlock })) := by
  have hkind : s.eventQueueIs k e.queue = true := by simp [State.eventQueueIs, he, hq]
  have hkill : ((s.acquires r deviceScope).group r.1).taskKill = false := by
    rw [State.acquires, group_modLane_taskKill, State.freshL1]
    split <;> exact h.alone.plain
  show execQlock a s = _
  rw [execQlock, withComplex_kcore h, begin_kcore h hf]
  simp only [show (s.work l).live = [r] from h.alone.only, show (s.work l).queueArg r a = rd s l r codeA a from rfl, hp, ← hn,
    show (s.work l).s = s from rfl, hkind, Bool.false_eq_true, if_false, Bool.not_true]
  split
  · exact h.alone.finish_of rfl rfl h.alone.late rfl hkill
  · exact h.alone.done_park (u := s.modKcore k fun x => { x with status := .qlock }) h.alone.plain _

theorem qunlock_kcore {a : Reg} {e : EventRec} (hf : InRange s l [rfld codeA a]) (hp : (rd s l r codeA a).poison = false)
    (he : (s.kcore k).event = some e) (hq : e.ofQueue = true) (hn : e.queue = (rd s l r codeA a).val.toNat) :
    exec (.qunlock a) s = if s.holdsLock k then .next (past l r (s.releaseLock k)) else .next (past l r s) := by
  have hkind : s.eventQueueIs k e.queue = true := by simp [State.eventQueueIs, he, hq]
  have hkill : ((s.releaseLock k).group r.1).taskKill = false := by
    obtain ⟨qs, ks, hkeeps⟩ := releaseLock_keeps s k
    rw [hkeeps]
    exact h.alone.plain
  show execQunlock a s = _
  rw [execQunlock, withComplex_kcore h, begin_kcore h hf]
  simp only [show (s.work l).live = [r] from h.alone.only, show (s.work l).queueArg r a = rd s l r codeA a from rfl, hp, ← hn,
    show (s.work l).s = s from rfl, hkind, Bool.false_eq_true, if_false, Bool.true_and]
  split
  · exact h.alone.finish_of rfl rfl h.alone.late rfl hkill
  · exact h.alone.finish h.alone.plain

end

/-- Settles O53: a Kolesque core's words by the event that it serves; on a compute core all of them strike alike. -/
theorem eventAndLockResults : Obligations.EventAndLockResults := by
  refine ⟨fun s l r d a h hd => privilege_of_complex h hd d a, fun s l r k h => ⟨fun d hf hs _ => ?_, fun a e hf hp he hq hn => ?_⟩⟩
  · obtain ⟨qs, ks, hkeeps⟩ := releaseLock_keeps s k
    have hself : ((s.releaseLock k).modKcore k fun x => { x with
        event := none, released := false, dest := regNo s l r codeD d, status := .idle }).kcore k = { (s.releaseLock k).kcore k with
        event := none, released := false, dest := regNo s l r codeD d, status := .idle } := kcore_modKcore_self ..
    refine ⟨_, exec_evwait_kcore h d hf hs, queues_releaseLock s k, ?_, ?_, ?_, ?_, fun j hj => ?_, ?_, ?_⟩
    · exact congrArg KCore.event hself
    · exact congrArg KCore.status hself
    · exact congrArg KCore.dest hself
    · rw [hkeeps]
      exact lane_modLane_self _ _ _ h.alone.has
    · rw [parked, show ∀ (u : State) g, (u.modLane r g).kcore j = u.kcore j from fun _ _ => rfl, kcore_modKcore_ne _ hj,
        kcore_releaseLock_ne s hj]
    · rw [hkeeps]; rfl
    · rw [hkeeps]; rfl
  · have hholds : s.holdsLock k = true ↔ e.void = false ∧ (s.kcore k).released = false ∧ (s.queue e.queue).serving = e.ticket := by
      simp [State.holdsLock, he, hq, and_assoc]
    have hpasses : s.passesLock k = (s.holdsLock k || e.void) := by simp [State.passesLock, he]
    refine ⟨fun hserves => ?_, fun hserves hvoid => ?_, fun hserves => ?_, fun hserves => ?_⟩
    · rw [qlock_kcore h hf hp he hq hn, hpasses, if_pos (by simpa [hholds] using hserves)]
      rfl
    · rw [qlock_kcore h hf hp he hq hn, hpasses, if_neg (by simpa [hholds, hvoid] using hserves)]
    · rw [qunlock_kcore h hf hp he hq hn, if_pos (hholds.2 hserves), State.releaseLock, he]
      simp only [hq, hserves.1, hserves.2.1, Bool.not_false, Bool.and_self, if_true]
    · rw [qunlock_kcore h hf hp he hq hn, if_neg (fun hh => hserves (hholds.1 hh))]

end Sys2Proof.Machine
end

section
/-!
PROOFS. What the writes of the hardware, of the host and of other devices leave alone, whatever regions they abort and
installations they wait for (R310, R311): everything but HBM, the regions and what groups and lanes note of theirs.
-/

namespace Sys2Proof.Machine

open Sys2Proof Sys2Proof.Machine.Claims

/-- A group without what it notes of its region. -/
def Group.aside (g : Group) : Group := { g with region := none, spec := [], lanes := g.lanes.map fun x => { x with async := [] } }

/-- A state without HBM, its regions and what is noted of them. -/
def State.aside (s : State) : State :=
  { s with
    hbm := {}, sectorKeys := [], l1 := [], dies := [], regions := [], images := [], past := [], delayed := []
    groups := s.groups.map Group.aside }

/-- Two states alike in all that a region's decision leaves alone: of the dies it changes the directories. -/
structure Beside (s t : State) : Prop where
  rest : t.aside = s.aside
  dies : ∀ d, { t.die d with dir := [] } = { s.die d with dir := [] }

theorem Beside.refl (s : State) : Beside s s := ⟨rfl, fun _ => rfl⟩

theorem Beside.trans {s t u : State} (h : Beside s t) (k : Beside t u) : Beside s u :=
  ⟨k.rest.trans h.rest, fun d => (k.dies d).trans (h.dies d)⟩

theorem Beside.of_onlyHbm {s t : State} (h : OnlyHbm s t) : Beside s t :=
  ⟨h.keep State.aside fun _ _ _ _ => rfl, fun d => h.keep (fun u => { u.die d with dir := [] }) fun _ _ _ _ => rfl⟩

theorem beside_foldl {β : Type} {f : State → β → State} (hf : ∀ (s : State) b, Beside s (f s b)) (ls : List β) (s : State) :
    Beside s (ls.foldl f s) := foldl_related Beside Beside.refl (fun h k => h.trans k) f hf ls s

theorem beside_ite {s t u : State} {c : Prop} [Decidable c] (ht : Beside s t) (hu : Beside s u) :
    Beside s (if c then t else u) := by
  split
  · exact ht
  · exact hu

theorem beside_modGroup (s : State) (gid : Nat) {f : Group → Group} (hf : ∀ g : Group, (f g).aside = g.aside) :
    Beside s (s.modGroup gid f) := by
  have hmap : (s.groups.map fun g => if g.gid == gid then f g else g).map Group.aside = s.groups.map Group.aside := by
    rw [List.map_map]
    refine List.map_congr_left fun g _ => ?_
    rw [Function.comp]
    split
    · exact hf g
    · rfl
  exact ⟨congrArg (fun gs => ({ s with
    hbm := {}, sectorKeys := [], l1 := [], dies := [], regions := [], images := [], past := [], delayed := []
    groups := gs } : State)) hmap, fun _ => rfl⟩

theorem beside_dropRecords (s : State) (i : Nat) : Beside s (s.dropRecords i) := by
  unfold State.dropRecords
  refine beside_foldl (fun s d => ?_) _ s
  refine beside_ite (Beside.refl s) ⟨rfl, fun e => ?_⟩
  by_cases he : e = d
  · subst he
    rw [die_modDie_self]
  · rw [die_modDie_ne s he]

theorem beside_modRegion (s : State) (i : Nat) (f : Region → Region) : Beside s (s.modRegion i f) := ⟨rfl, fun _ => rfl⟩

theorem beside_dropSaved (s : State) (gid : Nat) : Beside s (s.dropSaved gid) := ⟨rfl, fun _ => rfl⟩

theorem beside_freeRegion (s : State) (i : Nat) : Beside s (s.freeRegion i) := by
  unfold State.freeRegion
  exact beside_ite ⟨rfl, fun _ => rfl⟩ (Beside.refl s)

theorem beside_abortRegion (s : State) (i : Nat) (reason : Byte) : Beside s (s.abortRegion i reason) := by
  unfold State.abortRegion
  dsimp only
  refine beside_ite (.trans ?_ (beside_freeRegion _ i)) (Beside.refl s)
  refine .trans ?_ (beside_foldl (fun s gid => ?_) _ _)
  · refine .trans ?_ (beside_foldl (fun s gid => ?_) _ _)
    · exact (beside_dropRecords s i).trans (beside_modRegion ..)
    · exact beside_ite (Beside.refl s) (beside_dropSaved s gid)
  · refine beside_modGroup s gid fun g => ?_
    simp only [Group.aside, List.map_map]
    refine congrArg (fun ls => ({ g with region := none, spec := [], lanes := ls } : Group)) (List.map_congr_left fun x _ => ?_)
    rw [Function.comp]
    split <;> rfl

theorem beside_hbmAtom (s : State) (key a aop : Nat) (d : PWord) (c : Word) : Beside s (s.hbmAtom key a aop d c).1 := by
  unfold State.hbmAtom
  dsimp only
  split
  · exact Beside.refl _
  · exact (Beside.of_onlyHbm (hbmWord_only ..)).trans ⟨rfl, fun _ => rfl⟩

theorem beside_admission {s t : State} {a : Nat} (h : s.admission none a = .apply t) : Beside s t := by
  unfold State.admission at h
  split at h
  · cases h; exact Beside.refl _
  · cases h
  · split at h
    · cases h
    · cases h
      exact beside_abortRegion ..

theorem beside_outsideAtom (s : State) (key a : Nat) (aop : BitVec 4) (d : PWord) (c : Word) :
    Beside s (s.outsideAtom key a aop d c) := by
  unfold State.outsideAtom
  split
  · next t _ h => exact (beside_admission h).trans (beside_hbmAtom ..)
  · exact Beside.refl _

theorem beside_applySpec (s : State) (ops : List (Option Nat × SpecOp)) : Beside s (applySpec s ops) := by
  unfold applySpec
  refine beside_foldl (fun s x => ?_) ops s
  exact beside_ite ⟨rfl, fun _ => rfl⟩ (beside_outsideAtom ..)

theorem beside_commitSpec (s : State) (gid : Nat) : Beside s (s.commitSpec gid) :=
  (beside_applySpec s _).trans (beside_modGroup _ gid fun _ => rfl)

theorem beside_commitMember (s : State) (gid : Nat) : Beside s (s.commitMember gid) := by
  unfold State.commitMember
  dsimp only
  exact beside_ite (beside_commitSpec s gid) ((beside_dropSaved s gid).trans (beside_applySpec ..))

theorem beside_applyT (s : State) (w : TWrite) : Beside s (s.applyT w) := by
  cases w with
  | bytes key addr cs tag => exact .of_onlyHbm (hbmStore_only ..)
  | atom key addr aop d compare => exact beside_hbmAtom ..

theorem beside_installRecords (s : State) (i : Nat) : Beside s (s.installRecords i) :=
  beside_foldl (fun s _ => beside_foldl (fun s _ => beside_foldl (fun s w => beside_applyT s w) _ s) _ s) _ s

theorem beside_finishInstall (s : State) (i : Nat) : Beside s (s.finishInstall i) := by
  unfold State.finishInstall
  dsimp only
  refine beside_ite (.trans ?_ (beside_applySpec ..)) (Beside.refl s)
  have hrecords := ((beside_installRecords s i).trans (beside_dropRecords _ i)).trans
    (beside_modRegion _ i fun x => { x with state := .committed })
  have hmembers := (hrecords.trans (beside_foldl (fun s gid => beside_commitMember s gid) (s.region i).members _)).trans
    (beside_freeRegion _ i)
  exact hmembers.trans ⟨rfl, fun _ => rfl⟩

theorem beside_awaitLines (s : State) (a n : Nat) : Beside s (s.awaitLines a n) :=
  beside_foldl (fun s i => beside_finishInstall s i) _ s

theorem beside_admitOutside (s : State) (a n : Nat) : Beside s (s.admitOutside a n) := by
  unfold State.admitOutside
  refine (beside_awaitLines s a n).trans (beside_foldl (fun s k => ?_) _ _)
  split
  · next h => exact beside_admission h
  · exact Beside.refl _

/-- A store of the hardware, the host or another device. -/
theorem beside_hbmOutside (s : State) (key a : Nat) (cs : List Chunk) (tag : Bool) : Beside s (s.hbmOutside key a cs tag) :=
  (beside_admitOutside ..).trans (.of_onlyHbm (hbmStore_only ..))

theorem beside_outsideWrite (s : State) (key a : Nat) (bs : List Byte) : Beside s (s.outsideWrite key a bs) := by
  unfold State.outsideWrite
  exact beside_ite ⟨rfl, fun _ => rfl⟩ (beside_hbmOutside ..)

/-! ### What that says of a group -/

theorem Beside.group {s t : State} (h : Beside s t) (x : Nat) : (t.group x).aside = (s.group x).aside := by
  have hfind : ∀ u : State, (u.group x).aside = ((u.aside.groups.find? (·.gid == x)).getD (Group.aside { gid := x })) := by
    intro u
    rw [show u.aside.groups = u.groups.map Group.aside from rfl, find_map_gid u.groups Group.aside fun _ => rfl, State.group]
    cases u.groups.find? (·.gid == x) <;> rfl
  rw [hfind t, hfind s, h.rest]

theorem Beside.taskKill {s t : State} (h : Beside s t) (x : Nat) : (t.group x).taskKill = (s.group x).taskKill := by
  rw [show (t.group x).taskKill = (t.group x).aside.taskKill from rfl, h.group]
  rfl

end Sys2Proof.Machine
end

section
/-!
PROOFS. Translation changes the TLBs alone (R319).
-/

namespace Sys2Proof.Machine

open Sys2Proof Sys2Proof.Machine.Claims

theorem Claims.OnlyTlbs.refl (s : State) : OnlyTlbs s s := ⟨rfl, fun _ => rfl, fun _ => rfl⟩

theorem Claims.OnlyTlbs.trans {s t u : State} (h : OnlyTlbs s t) (k : OnlyTlbs t u) : OnlyTlbs s u where
  rest := by
    have hrest := h.rest
    rw [← k.rest] at hrest
    exact hrest
  cores c := by
    have hcore := h.cores c
    rw [← k.cores c] at hcore
    exact hcore
  dies d := by
    have hdie := h.dies d
    rw [← k.dies d] at hdie
    exact hdie

/-- It keeps every field that is neither the cores' nor the dies'. -/
theorem Claims.OnlyTlbs.keep {α : Type} {s t : State} (h : OnlyTlbs s t) (p : State → α)
    (hp : ∀ (x : State) (c : List (Nat × Core)) (d : List (Nat × Die)), p { x with cores := c, dies := d } = p x) : p t = p s := by
  rw [← hp t s.cores s.dies, h.rest]

theorem onlyTlbs_modCore (s : State) (c : Nat) (tlb : List TlbEntry) : OnlyTlbs s (s.modCore c fun x => { x with tlb := tlb }) where
  rest := rfl
  cores j := by
    by_cases hj : j = c
    · subst hj
      rw [core_modCore_self]
    · rw [core_modCore_ne s hj]
  dies _ := rfl

theorem onlyTlbs_modDie (s : State) (d : Nat) (tlb : List TlbEntry) : OnlyTlbs s (s.modDie d fun x => { x with tlb := tlb }) where
  rest := rfl
  cores _ := rfl
  dies j := by
    by_cases hj : j = d
    · subst hj
      rw [die_modDie_self]
    · rw [die_modDie_ne s hj]

/-- The state with a translation held in a die's TLB and in a core's (R319). -/
def State.holding (s : State) (core : Option Nat) (die : Nat) (e : TlbEntry) : State :=
  let t := s.modDie die fun d => { d with tlb := e :: d.tlb.take 8191 }
  match core with
  | some c => t.modCore c fun x => { x with tlb := e :: x.tlb.take 63 }
  | none => t

theorem onlyTlbs_holding (s : State) (core : Option Nat) (die : Nat) (e : TlbEntry) : OnlyTlbs s (s.holding core die e) := by
  have hdie : OnlyTlbs s (s.modDie die fun d => { d with tlb := e :: d.tlb.take 8191 }) :=
    onlyTlbs_modDie s die (e :: (s.die die).tlb.take 8191)
  cases core with
  | none => exact hdie
  | some c => exact hdie.trans (onlyTlbs_modCore _ c (e :: ((s.modDie die fun d => { d with tlb := e :: d.tlb.take 8191 }).core c).tlb.take 63))

/-- The TLB entries that a translation looks at. -/
def State.entriesFor (s : State) (core : Option Nat) (die : Nat) : List TlbEntry :=
  (match core with | some c => (s.core c).tlb | none => []) ++ (s.die die).tlb

section
variable (s : State) (core : Option Nat) (die asid va : Nat) (k : Kind)

/-- A held entry that allows the access is used; else a walk is made, and what it gives is held. -/
theorem translate_eq : s.translate core die asid va k =
    match (s.entriesFor core die).find? fun e => e.covers asid va && !lacks k e.rd e.w e.x with
    | some e => (s, .ok e)
    | none => ((match s.walk asid va k with | .ok e => s.holding core die e | _ => s), s.walk asid va k) := by
  unfold State.translate
  cases core with
  | none => cases s.walk asid va k <;> rfl
  | some c => cases s.walk asid va k <;> rfl

theorem translate_onlyTlbs : OnlyTlbs s (s.translate core die asid va k).1 := by
  rw [translate_eq]
  cases (s.entriesFor core die).find? (fun e => e.covers asid va && !lacks k e.rd e.w e.x) with
  | some e => exact .refl s
  | none =>
    cases s.walk asid va k with
    | ok e => exact onlyTlbs_holding s core die e
    | recoverable => exact .refl s
    | fatal => exact .refl s

theorem locate_fst : (s.locate core die asid va k).1 = if 2 ^ 56 ≤ va then s else (s.translate core die asid va k).1 := by
  unfold State.locate
  split
  · rfl
  · split
    · next h => rw [h]
    · next h => rw [h]
    · next h =>
      rw [h]
      split <;> rfl

/-- A location changes the TLBs alone. -/
theorem locate_onlyTlbs : OnlyTlbs s (s.locate core die asid va k).1 := by
  rw [locate_fst]
  split
  · exact .refl s
  · exact translate_onlyTlbs s core die asid va k

end

end Sys2Proof.Machine
end

section
/-!
PROOFS. The operations of the command complex (R359, R362): what a row of priv answers, and the rows that read, answer or
raise something at once.
-/

namespace Sys2Proof.Machine

open Sys2Proof Sys2Proof.Machine.Claims

section
variable {s : State} {l : Latch} {r : LRef} {k : Nat} (h : OnComplex s l r k) {d a : Reg} (hb : GoodBlock s l r d a)
include h hb

/-- What an operation of the complex gives where the words of its block are read unpoisoned. -/
theorem complexOp_gives {reads : List Nat} (hreads : ∀ i ∈ reads, i < 4) (f : State → (Nat → Word) → Done) :
    complexOp s d a reads f =
      match f s fun i => (blockWord s l r a i).val with
      | .wait t => ((t.work l).hold r).done
      | .trap t c x => ((t.work l).strikeAt r c x x).finish
      | .now t status out => (((t.wrs r (regNo s l r codeA a) (out.map fun v => { val := v })).wr r (regNo s l r codeD d)
          { val := status }).work l).finish := by
  have hpoison : (reads.any fun i => (blockWord s l r a i).poison) = false := by
    rw [List.any_eq_false]
    exact fun i hi => by rw [Bool.not_eq_true]; exact hb.2 i (hreads i hi)
  rw [complexOp, withComplex_kcore h, begin_kcore h hb.1]
  simp only [show (s.work l).live = [r] from h.alone.only, show (s.work l).s = s from rfl,
    show ∀ i, s.reg r ((s.work l).rnum r codeA a.toNat + i) = blockWord s l r a i from fun _ => rfl,
    hpoison, Bool.false_eq_true, if_false]
  cases f s fun i => (blockWord s l r a i).val with
  | wait t =>
    show (Work.hold { s.work l with s := t, live := [r] } r).done = _
    rw [← h.alone.only]
    rfl
  | trap t c x =>
    show (Work.strikeAt { s.work l with s := t, live := [r] } r c x x).finish = _
    rw [← h.alone.only]
    rfl
  | now t status out =>
    show (Work.finish { s.work l with s := _, live := [r] }) = _
    rw [← h.alone.only]
    rfl

theorem complexOp_now {reads : List Nat} (hreads : ∀ i ∈ reads, i < 4) {f : State → (Nat → Word) → Done} {t : State}
    {status : Word} {out : List Word} (hf : f s (fun i => (blockWord s l r a i).val) = .now t status out)
    (hk : (t.group r.1).taskKill = false) : complexOp s d a reads f = .next (past l r
      ((t.wrs r (regNo s l r codeA a) (out.map fun v => ⟨v, false⟩)).wr r (regNo s l r codeD d) ⟨status, false⟩)) := by
  rw [complexOp_gives h hb hreads, hf]
  refine h.alone.finish ?_
  rw [State.wr, group_modLane_taskKill, wrs_eq_modLane, group_modLane_taskKill, hk]

omit hb in
theorem privFields_issued (hw : PrivWord l d a) : privFields s = (d, a) := by
  have hfield : ∀ (x : Reg) (p : Nat), l.word.toNat / 2 ^ p % 64 = x.toNat → BitVec.ofNat 6 (bitsAt l.word.toNat p 6) = x :=
    fun x p hx => by
      rw [bitsAt, show (2 : Nat) ^ 6 = 64 from rfl, hx, BitVec.ofNat_toNat, BitVec.setWidth_eq]
  rw [privFields, h.alone.ready.latched]
  exact Prod.ext (hfield d 19 hw.1) (hfield a 12 hw.2)

/-- A row of priv answers what its operation gives. -/
theorem answers_of_privRun (hw : PrivWord l d a) {i : Instr} {reads : List Nat} {f : State → (Nat → Word) → Done}
    (hi : exec i s = privRun s reads f) (hreads : ∀ i ∈ reads, i < 4) {t : State}
    {status : Word} {out : List Word} (hf : f s (fun i => (blockWord s l r a i).val) = .now t status out)
    (hk : (t.group r.1).taskKill = false) : Answers i s l r d a t status out := by
  rw [Answers, hi, privRun, privFields_issued h hw]
  exact complexOp_now h hb hreads hf hk

end

/-! ### Breakpoints -/

section
variable {s : State} {word : Nat → Word} (hn : (word 0).toNat < 256) (hphase : (s.ctx (word 0).toNat).phase ≠ .free)
include hn hphase

theorem debugOp_allowed (hdebug : (s.ctx (word 0).toNat).hdr.debug = true) (f : Nat → Ctx → Done) :
    debugOp s word f = f (word 0).toNat (s.ctx (word 0).toNat) := by
  rw [debugOp, if_neg (by simp [hphase, hn]), hdebug]
  rfl

theorem debugOp_refused (hdebug : (s.ctx (word 0).toNat).hdr.debug = false) (f : Nat → Ctx → Done) :
    debugOp s word f = Machine.refused s 3 := by
  rw [debugOp, if_neg (by simp [hphase, hn]), hdebug]
  rfl

end

theorem pokeCode_taskKill {s t : State} {n va : Nat} {w : Word} (hp : s.pokeCode n va w = some t) (x : Nat) :
    (t.group x).taskKill = (s.group x).taskKill := by
  unfold State.pokeCode at hp
  split at hp
  · next u key pa hu =>
    cases hp
    rw [(beside_outsideWrite u key pa _).taskKill]
    have htlbs := locate_onlyTlbs s none 0 (s.ctx n).hdr.asid va .fetch
    rw [hu] at htlbs
    exact htlbs.keep (fun u => (u.group x).taskKill) fun _ _ _ => rfl
  · cases hp

theorem waitingOn_all {s : State} {f : FaultRec} {die i : Nat}
    (hall : ∀ q ∈ f.lanes, (s.lane q).status = .parked (.replay die i) (s.lane q).pc) : s.waitingOn die i f = f.lanes := by
  rw [State.waitingOn, List.filter_eq_self]
  intro q hq
  rw [hall q hq]
  simp

/-- A trap whose policy and lane let it be delivered is delivered, and counted (R327, R337). -/
theorem handle_one {u : State} {t : Trap} (hp : u.policy (u.group t.lane.1).ctx t.cause = 0) (hc : (u.lane t.lane).canDeliver = true)
    (ctx : Nat) : u.handle ctx [t] = (u.deliver t.lane t.cause t.pc t.data).count ctx 6 1 := by
  simp only [State.handle, sortBy, List.foldl_cons, List.foldl_nil, insertBy, List.map_cons, List.map_nil, State.handling, hp,
    hc, if_true]
  rfl

/-- Return entries given up change no header. -/
theorem hdr_givenUp (page c : Nat) : ∀ (cs : List Nat) (s : State),
    ((cs.foldl (fun s c => s.modCtx c fun y => { y with givenUp := sput page y.givenUp }) s).ctx c).hdr = (s.ctx c).hdr
  | [], _ => rfl
  | e :: t, s => by
    rw [List.foldl_cons, hdr_givenUp page c t]
    by_cases hc : c = e
    · subst hc
      rw [ctx_modCtx_self]
    · rw [ctx_modCtx_ne s hc]

theorem groups_givenUp (page : Nat) : ∀ (cs : List Nat) (s : State),
    (cs.foldl (fun s c => s.modCtx c fun y => { y with givenUp := sput page y.givenUp }) s).groups = s.groups
  | [], _ => rfl
  | e :: t, s => by rw [List.foldl_cons, groups_givenUp page t]; rfl

theorem has_of_canDeliver {s : State} {q : LRef} (h : (s.lane q).canDeliver = true) : s.has q := by
  by_contra hno
  have hempty : s.lane q = {} := by
    rw [State.lane]
    by_cases hheld : s.holds q.1 = true
    · rw [List.getElem?_eq_none (by_contra fun hl => hno ⟨hheld, by omega⟩)]
      rfl
    · have hfind : s.groups.find? (·.gid == q.1) = none := by
        rw [List.find?_eq_none]
        exact fun g hg hgid => hheld (by rw [State.holds, List.any_eq_true]; exact ⟨g, hg, hgid⟩)
      rw [State.group, hfind]
      rfl
  rw [hempty] at h
  exact absurd h (by decide)

section
variable {s : State} {l : Latch} {r : LRef} {k : Nat} (h : OnComplex s l r k) {d a : Reg} (hb : GoodBlock s l r d a)
  (hw : PrivWord l d a)
include h hb hw

theorem plant_answers (hn : (blockWord s l r a 0).val.toNat < 256) (hphase : (s.ctx (blockWord s l r a 0).val.toNat).phase ≠ .free)
    (hdebug : (s.ctx (blockWord s l r a 0).val.toNat).hdr.debug = true) {old : Word} {t : State} (ha : blockAddr s l r a 1 % 4 = 0)
    (hnone : tget (blockAddr s l r a 1) (s.ctx (blockWord s l r a 0).val.toNat).bkpts = none)
    (hlen : (s.ctx (blockWord s l r a 0).val.toNat).bkpts.length < 64)
    (hpeek : s.peekCode (blockWord s l r a 0).val.toNat (blockAddr s l r a 1) = some old)
    (hpoke : s.pokeCode (blockWord s l r a 0).val.toNat (blockAddr s l r a 1) 0xF8000000 = some t) :
    Answers .privPlantBreakpoint s l r d a (t.modCtx (blockWord s l r a 0).val.toNat fun c =>
      { c with bkpts := tput (blockAddr s l r a 1) old c.bkpts }) 0 [] := by
  refine answers_of_privRun h hb hw (i := .privPlantBreakpoint) (reads := [0, 1, 2])
    (show execPrivPlantBreakpoint s = privRun s _ _ from rfl) (by decide) ?_
    ((pokeCode_taskKill hpoke r.1).trans h.alone.plain)
  rw [debugOp_allowed hn hphase hdebug]
  simp only [show longAt (fun i => (blockWord s l r a i).val) 1 = blockAddr s l r a 1 from rfl, ha, hnone, hpeek,
    show s.pokeCode (blockWord s l r a 0).val.toNat (blockAddr s l r a 1) bkptWord = some t from hpoke]
  rw [if_neg (by simp), if_neg (by omega)]
  rfl

theorem remove_answers (hn : (blockWord s l r a 0).val.toNat < 256) (hphase : (s.ctx (blockWord s l r a 0).val.toNat).phase ≠ .free)
    (hdebug : (s.ctx (blockWord s l r a 0).val.toNat).hdr.debug = true) {old : Word} {t : State}
    (hold : tget (blockAddr s l r a 1) (s.ctx (blockWord s l r a 0).val.toNat).bkpts = some old)
    (hpoke : s.pokeCode (blockWord s l r a 0).val.toNat (blockAddr s l r a 1) old = some t) :
    Answers .privRemoveBreakpoint s l r d a (t.modCtx (blockWord s l r a 0).val.toNat fun c =>
      { c with bkpts := tdel (blockAddr s l r a 1) c.bkpts }) 0 [] := by
  refine answers_of_privRun h hb hw (i := .privRemoveBreakpoint) (reads := [0, 1, 2])
    (show execPrivRemoveBreakpoint s = privRun s _ _ from rfl) (by decide) ?_
    ((pokeCode_taskKill hpoke r.1).trans h.alone.plain)
  rw [debugOp_allowed hn hphase hdebug]
  simp only [show longAt (fun i => (blockWord s l r a i).val) 1 = blockAddr s l r a 1 from rfl, hold, hpoke]
  rfl

theorem revoke_answers (hn : (blockWord s l r a 0).val.toNat < 256) (hdebug : (s.ctx (blockWord s l r a 0).val.toNat).hdr.debug = true)
    (hrun : (s.ctx (blockWord s l r a 0).val.toNat).phase = .running) (hnone : (s.ctx (blockWord s l r a 0).val.toNat).bkpts = []) :
    Answers .privRevokeDebug s l r d a (s.modCtx (blockWord s l r a 0).val.toNat fun c =>
      { c with bkpts := [], hdr := { c.hdr with debug := false } }) 0 [] := by
  refine answers_of_privRun h hb hw (i := .privRevokeDebug) (reads := [0])
    (show execPrivRevokeDebug s = privRun s _ _ from rfl) (by decide) ?_ h.alone.plain
  rw [debugOp_allowed hn (by rw [hrun]; decide) hdebug]
  simp only [hnone, hrun, List.foldl_nil]
  rw [if_neg (by decide), if_neg (by decide)]
  rfl

theorem debug_refused (hn : (blockWord s l r a 0).val.toNat < 256) (hphase : (s.ctx (blockWord s l r a 0).val.toNat).phase ≠ .free)
    (hdebug : (s.ctx (blockWord s l r a 0).val.toNat).hdr.debug = false) :
    ∀ i ∈ [Instr.privPlantBreakpoint, .privRemoveBreakpoint, .privRevokeDebug], Answers i s l r d a s (Claims.refusal 3) [] := by
  simp only [List.forall_mem_cons, List.not_mem_nil, false_imp_iff, implies_true, and_true]
  refine ⟨?_, ?_, ?_⟩
  · exact answers_of_privRun h hb hw (i := .privPlantBreakpoint) (reads := [0, 1, 2])
      (show execPrivPlantBreakpoint s = privRun s _ _ from rfl) (by decide)
      (debugOp_refused hn hphase hdebug _) h.alone.plain
  · exact answers_of_privRun h hb hw (i := .privRemoveBreakpoint) (reads := [0, 1, 2])
      (show execPrivRemoveBreakpoint s = privRun s _ _ from rfl) (by decide)
      (debugOp_refused hn hphase hdebug _) h.alone.plain
  · exact answers_of_privRun h hb hw (i := .privRevokeDebug) (reads := [0])
      (show execPrivRevokeDebug s = privRun s _ _ from rfl) (by decide)
      (debugOp_refused hn hphase hdebug _) h.alone.plain

theorem derate_answers (hn : (blockWord s l r a 0).val.toNat < 8) (hms : (blockWord s l r a 1).val.toNat < 65536) :
    Answers .privDerate s l r d a { s with
      derateNext := some (blockWord s l r a 0).val.toNat
      hangMs := if (blockWord s l r a 1).val.toNat = 0 then s.hangMs else (blockWord s l r a 1).val.toNat } 0 [] := by
  refine answers_of_privRun h hb hw (i := .privDerate) (reads := [0, 1])
    (show execPrivDerate s = privRun s _ _ from rfl) (by decide) ?_ h.alone.plain
  dsimp only
  rw [if_neg (by omega)]
  rfl

theorem poolQuery_answers (hn : (blockWord s l r a 0).val.toNat < 256) (hphase : (s.ctx (blockWord s l r a 0).val.toNat).phase ≠ .free) :
    Answers .privPoolQuery s l r d a s 0
      (BitVec.ofNat 32 (s.ctx (blockWord s l r a 0).val.toNat).freeGranules :: [1, 2, 3].map (Config.poolWord s.steps)) := by
  refine answers_of_privRun h hb hw (i := .privPoolQuery) (reads := [0])
    (show execPrivPoolQuery s = privRun s _ _ from rfl) (by decide) ?_ h.alone.plain
  dsimp only
  rw [if_neg (by simp [hphase, hn])]

theorem queueDisable_answers (hn : (blockWord s l r a 0).val.toNat < 1024) (hx : (blockWord s l r a 1).val.toNat = 0) :
    Answers .privQueueDisable s l r d a (s.modQueue (blockWord s l r a 0).val.toNat fun q => { q with active := false }) 0 [] := by
  refine answers_of_privRun h hb hw (i := .privQueueDisable) (reads := [0, 1])
    (show execPrivQueueDisable s = privRun s _ _ from rfl) (by decide) ?_ h.alone.plain
  dsimp only
  rw [if_neg (by omega)]
  rfl

theorem queueActivate_answers (hn : (blockWord s l r a 0).val.toNat < 1024) (hx : (blockWord s l r a 1).val.toNat = 1) :
    Answers .privQueueActivate s l r d a ((s.voidTickets (blockWord s l r a 0).val.toNat).modQueue
      (blockWord s l r a 0).val.toNat fun _ => { active := true }) 0 [] := by
  refine answers_of_privRun h hb hw (i := .privQueueActivate) (reads := [0, 1])
    (show execPrivQueueActivate s = privRun s _ _ from rfl) (by decide) ?_ h.alone.plain
  dsimp only
  rw [if_neg (by omega)]
  rfl

theorem msix_answers (hn : (blockWord s l r a 0).val.toNat < 64) :
    Answers .privMsix s l r d a { s with msix := sput (blockWord s l r a 0).val.toNat s.msix } 0 [] := by
  refine answers_of_privRun h hb hw (i := .privMsix) (reads := [0])
    (show execPrivMsix s = privRun s _ _ from rfl) (by decide) ?_ h.alone.plain
  dsimp only
  rw [if_neg (by omega)]
  rfl

theorem handover_answers (hfw : (s.firmware (blockAddr s l r a 1)).isSome = true) (hs : s.complex.successor = none) :
    Answers .privHandover s l r d a { s with
      complex := { s.complex with state := .handover, successor := some (blockAddr s l r a 1) }
      kcores := s.kcores.map fun (y : Nat × KCore) =>
        (y.1, { y.2 with status := if y.2.status = .idle then .stopped else y.2.status }) } 0 [] := by
  refine answers_of_privRun h hb hw (i := .privHandover) (reads := [1, 2])
    (show execPrivHandover s = privRun s _ _ from rfl) (by decide) ?_ h.alone.plain
  dsimp only
  simp only [show longAt (fun i => (blockWord s l r a i).val) 1 = blockAddr s l r a 1 from rfl]
  rw [if_neg (by rw [Option.isNone_iff_eq_none]; exact fun hnone => by rw [hnone] at hfw; cases hfw), if_neg (by rw [hs]; decide)]
  simp only [beq_iff_eq]
  rfl

/-! ### Fault records -/

theorem readFault_answers {f : FaultRec} (hn : (blockWord s l r a 0).val.toNat < 4) (hx : (blockWord s l r a 1).val.toNat < 1024)
    (hf : tget (blockWord s l r a 1).val.toNat (s.die (blockWord s l r a 0).val.toNat).faults = some f) :
    Answers .privReadFaultRecord s l r d a
      (if f.fatal then s.dropFault (blockWord s l r a 0).val.toNat (blockWord s l r a 1).val.toNat else s) 0 f.words := by
  refine answers_of_privRun h hb hw (i := .privReadFaultRecord) (reads := [0, 1])
    (show execPrivReadFaultRecord s = privRun s _ _ from rfl) (by decide) ?_ ?_
  · dsimp only
    rw [State.faultAt, if_neg (by omega), hf]
  · split
    · exact h.alone.plain
    · exact h.alone.plain

theorem replay_answers {f : FaultRec} (hn : (blockWord s l r a 0).val.toNat < 4) (hx : (blockWord s l r a 1).val.toNat < 1024)
    (hf : tget (blockWord s l r a 1).val.toNat (s.die (blockWord s l r a 0).val.toNat).faults = some f)
    (hfatal : f.fatal = false) (h2 : (blockWord s l r a 2).val.toNat = 0) (hbins : f.bins = []) (hcopies : f.copies = [])
    (hgrids : f.grids = []) (hall : ∀ q ∈ f.lanes,
      (s.lane q).status = .parked (.replay (blockWord s l r a 0).val.toNat (blockWord s l r a 1).val.toNat) (s.lane q).pc) :
    Answers .privFaultReplay s l r d a ((f.lanes.foldl (fun t q => t.modLane q fun y =>
        { y with status := .ready, loop := y.loop.map fun z => { z with body := [] } }) s).dropFault
      (blockWord s l r a 0).val.toNat (blockWord s l r a 1).val.toNat) 0 [] := by
  refine answers_of_privRun h hb hw (i := .privFaultReplay) (reads := [0, 1, 2])
    (show execPrivFaultReplay s = privRun s _ _ from rfl) (by decide) ?_ ?_
  · dsimp only
    rw [State.faultAt, if_neg (by omega), hf]
    simp only [hfatal, h2, hbins, hcopies, hgrids, List.foldl_nil, waitingOn_all hall]
    rw [if_neg (by simp)]
    rfl
  · exact (foldl_modLane_taskKill (fun _ y => { y with status := .ready, loop := y.loop.map fun z => { z with body := [] } }) r.1 f.lanes s).trans
      h.alone.plain

theorem fail_answers {f : FaultRec} (hn : (blockWord s l r a 0).val.toNat < 4) (hx : (blockWord s l r a 1).val.toNat < 1024)
    (hf : tget (blockWord s l r a 1).val.toNat (s.die (blockWord s l r a 0).val.toNat).faults = some f)
    (hfatal : f.fatal = false) (h2 : (blockWord s l r a 2).val.toNat = 1) (hbins : f.bins = []) (hcopies : f.copies = [])
    (hgrids : f.grids = []) {q : LRef} (hone : f.lanes = [q])
    (hq : (s.lane q).status = .parked (.replay (blockWord s l r a 0).val.toNat (blockWord s l r a 1).val.toNat) (s.lane q).pc)
    (hp : s.policy (s.group q.1).ctx 0x09 = 0) (hc : (s.lane q).canDeliver = true) :
    Answers .privFaultFail s l r d a
      ((((f.saves.foldl (fun t c => t.modCtx c fun y => { y with givenUp := sput (f.va / 4096) y.givenUp })
        (s.modLane q fun y => { y with status := .ready, pendReplay := false, stack := y.stack.take 8})).dropFault
          (blockWord s l r a 0).val.toNat (blockWord s l r a 1).val.toNat).deliver q 0x09 (s.lane q).pc (s.lane q).faultVa).count
        (s.group q.1).ctx 6 1) 0 [] := by
  generalize hn' : (blockWord s l r a 0).val.toNat = n at *
  generalize hx' : (blockWord s l r a 1).val.toNat = x at *
  have hwait : s.waitingOn n x f = [q] := by
    rw [waitingOn_all (fun p hp' => ?_), hone]
    rw [hone, List.mem_singleton] at hp'
    rw [hp', hq]
  have hcut : (s.modLane q fun y => { y with status := .ready, pendReplay := false }).cutStack q =
      s.modLane q fun y => { y with status := .ready, pendReplay := false, stack := y.stack.take 8 } := modLane_modLane ..
  generalize hu : (f.saves.foldl (fun t c => t.modCtx c fun y => { y with givenUp := sput (f.va / 4096) y.givenUp })
        (s.modLane q fun y => { y with status := .ready, pendReplay := false, stack := y.stack.take 8 })) = u
  have hgroups : u.groups = (s.modLane q fun y => { y with status := .ready, pendReplay := false, stack := y.stack.take 8 }).groups := by
    rw [← hu, groups_givenUp]
  have hgroup : ∀ g, u.group g = (s.modLane q fun y => { y with status := .ready, pendReplay := false, stack := y.stack.take 8 }).group g :=
    fun g => by rw [State.group, State.group, hgroups]
  have hlane : u.lane q = { s.lane q with status := .ready, pendReplay := false, stack := (s.lane q).stack.take 8 } := by
    rw [State.lane, hgroup]
    exact lane_modLane_self s q _ (has_of_canDeliver hc)
  have hctx : (u.group q.1).ctx = (s.group q.1).ctx := by rw [hgroup, group_modLane_ctx]
  have hpolicy : u.policy (u.group q.1).ctx 0x09 = 0 := by
    rw [← hp, State.policy, State.policy, hctx, ← hu, hdr_givenUp]
    rfl
  refine answers_of_privRun h hb hw (i := .privFaultFail) (reads := [0, 1, 2])
    (show execPrivFaultFail s = privRun s _ _ from rfl) (by decide) ?_ ?_
  · dsimp only
    rw [State.faultAt, hn', hx', if_neg (by omega), hf]
    simp only [hfatal, h2, hbins, hcopies, hgrids, List.foldl_nil, hwait, List.foldl_cons, List.map_cons, List.map_nil, hcut, hu]
    rw [if_neg (by simp), (List.nodup_singleton _).dedup, List.foldl_cons, List.foldl_nil, hlane, hctx, List.filter_cons_of_pos, List.filter_nil]
    · rw [handle_one]
      · rfl
      · exact hpolicy
      · exact (congrArg Lane.canDeliver hlane).trans hc
    · rw [beq_iff_eq]
      exact hctx
  · rw [State.deliver]
    show (((u.dropFault n x).modLane q _).group r.1).taskKill = false
    rw [group_modLane_taskKill]
    show (u.group r.1).taskKill = false
    rw [hgroup, group_modLane_taskKill]
    exact h.alone.plain

end

end Sys2Proof.Machine
end

section
/-!
PROOFS. The reset of a matrix engine (R284): what a discarded operation leaves of a lane, and the crews that wait anew.
-/

namespace Sys2Proof.Machine

open Sys2Proof Sys2Proof.Machine.Claims

/-! ### The queue of those that wait -/

theorem mem_insertBy {α : Type} (before : α → α → Bool) (x y : α) : ∀ ls : List α, y ∈ insertBy before x ls ↔ y = x ∨ y ∈ ls
  | [] => by simp [insertBy]
  | z :: t => by
    rw [insertBy]
    split
    · simp
    · simp only [List.mem_cons, mem_insertBy before x y t]
      tauto

theorem mem_foldl_insertBy {α : Type} (before : α → α → Bool) (y : α) : ∀ ls t : List α,
    y ∈ ls.foldl (fun s x => insertBy before x s) t ↔ y ∈ ls ∨ y ∈ t
  | [], t => by simp
  | x :: ls, t => by
    rw [List.foldl_cons, mem_foldl_insertBy before y ls, mem_insertBy, List.mem_cons]
    tauto

theorem mem_sortBy {α : Type} (before : α → α → Bool) (y : α) (ls : List α) : y ∈ sortBy before ls ↔ y ∈ ls := by
  rw [sortBy, mem_foldl_insertBy]
  simp

/-- Sorted by a number, a list rises in it. -/
theorem rises_insertBy {α : Type} (key : α → Nat) (x : α) : ∀ {ls : List α}, ls.Pairwise (fun a b => key a ≤ key b) →
    (insertBy (fun a b => decide (key a < key b)) x ls).Pairwise fun a b => key a ≤ key b
  | [], _ => by simp [insertBy]
  | z :: t, h => by
    rw [insertBy]
    obtain ⟨hz, ht⟩ := List.pairwise_cons.1 h
    split
    · next hlt =>
      have hlt' : key x < key z := of_decide_eq_true hlt
      refine List.pairwise_cons.2 ⟨fun y hy => ?_, h⟩
      rcases List.mem_cons.1 hy with rfl | hy
      · omega
      · have := hz y hy; omega
    · next hge =>
      have hge' : ¬ key x < key z := fun hlt => hge (decide_eq_true hlt)
      refine List.pairwise_cons.2 ⟨fun y hy => ?_, rises_insertBy key x ht⟩
      rcases (mem_insertBy ..).1 hy with rfl | hy
      · omega
      · exact hz y hy

theorem rises_sortBy {α : Type} (key : α → Nat) (ls : List α) :
    (sortBy (fun a b => decide (key a < key b)) ls).Pairwise fun a b => key a ≤ key b := by
  have hfold : ∀ (ls t : List α), t.Pairwise (fun a b => key a ≤ key b) →
      (ls.foldl (fun s x => insertBy (fun a b => decide (key a < key b)) x s) t).Pairwise fun a b => key a ≤ key b := by
    intro ls
    induction ls with
    | nil => exact fun t ht => ht
    | cons x ls ih => exact fun t ht => ih _ (rises_insertBy key x ht)
  exact hfold ls [] List.Pairwise.nil

section
variable {α : Type} [BEq α] [LawfulBEq α]

omit [LawfulBEq α] in
theorem firsts_append_one (ls : List α) (x : α) :
    firsts (ls ++ [x]) = if (firsts ls).contains x then firsts ls else firsts ls ++ [x] := by
  rw [firsts, List.foldl_append, ← firsts]
  rfl

theorem mem_firsts (ls : List α) (y : α) : y ∈ firsts ls ↔ y ∈ ls := by
  induction ls using List.reverseRecOn with
  | nil => simp [firsts]
  | append_singleton ls x ih =>
    rw [firsts_append_one, List.mem_append, List.mem_singleton, ← ih]
    split
    · next hx => exact ⟨.inl, fun h => h.elim id fun hy => hy ▸ List.contains_iff_mem.1 hx⟩
    · rw [List.mem_append, List.mem_singleton]

theorem nodup_firsts (ls : List α) : (firsts ls).Nodup := by
  induction ls using List.reverseRecOn with
  | nil => exact List.nodup_nil
  | append_singleton ls x ih =>
    rw [firsts_append_one]
    split
    · exact ih
    · next hx => exact List.nodup_append.2 ⟨ih, List.nodup_singleton x, fun a ha b hb => by
        rw [List.mem_singleton] at hb
        rintro rfl
        exact hx (List.contains_iff_mem.2 (hb ▸ ha))⟩

/-- Of a list that rises in its first parts, an earlier element has a first part that none of a later one's falls below. -/
theorem firsts_rise {ls : List (Nat × α)} (h : ls.Pairwise fun a b => a.1 ≤ b.1) : (firsts (ls.map (·.2))).Pairwise fun y z =>
    ∃ p, (p, y) ∈ ls ∧ ∀ q, (q, z) ∈ ls → p ≤ q := by
  induction ls using List.reverseRecOn with
  | nil => exact List.Pairwise.nil
  | append_singleton ls x ih =>
    obtain ⟨hrise, -, hlast⟩ := List.pairwise_append.1 h
    have hold : (firsts (ls.map (·.2))).Pairwise fun y z => ∃ p, (p, y) ∈ ls ++ [x] ∧ ∀ q, (q, z) ∈ ls ++ [x] → p ≤ q := by
      refine (ih hrise).imp fun {y z} hyz => ?_
      obtain ⟨p, hp, hle⟩ := hyz
      refine ⟨p, List.mem_append_left _ hp, fun q hq => ?_⟩
      rcases List.mem_append.1 hq with hq | hq
      · exact hle q hq
      · rw [List.mem_singleton] at hq
        exact (hq ▸ hlast _ hp x (List.mem_singleton.2 rfl) : p ≤ (q, z).1)
    rw [List.map_append, List.map_singleton, firsts_append_one]
    split
    · exact hold
    · next hx =>
      refine List.pairwise_append.2 ⟨hold, List.pairwise_singleton .., fun y hy z hz => ?_⟩
      rw [List.mem_singleton] at hz
      obtain ⟨⟨p, y'⟩, hp, rfl⟩ := List.mem_map.1 ((mem_firsts ..).1 hy)
      refine ⟨p, List.mem_append_left _ hp, fun q hq => ?_⟩
      rcases List.mem_append.1 hq with hq | hq
      · exact absurd (List.contains_iff_mem.2 ((mem_firsts ..).2 (List.mem_map.2 ⟨_, hq, rfl⟩))) (hz ▸ hx)
      · rw [List.mem_singleton] at hq
        exact (hq ▸ hlast _ hp x (List.mem_singleton.2 rfl) : p ≤ (q, z).1)

end

/-! ### A lane as operations are discarded -/

/-- What the discarding of operations leaves of a lane, and what it may change. -/
structure Lane.Discarded (ids : Nat → Prop) (x z : Lane) : Prop where
  crew : z.crew = x.crew
  size : z.regs.length = x.regs.length
  poison : ∀ i, (x.regs.getD i {}).poison = true → (z.regs.getD i {}).poison = true
  owned : ∀ w ∈ z.owned, w ∈ x.owned
  async : ∀ e ∈ x.async, e ∈ z.async
  unexited : z.unexited = x.unexited
  status : (z.status = x.status ∧ z.parkedAt = x.parkedAt ∧ z.loop = x.loop ∧ z.code = x.code) ∨
    ∃ id pc, ids id ∧ x.status = .parked (.op id) pc ∧ z.status = .ready ∧ z.pc = (x.advance pc).pc

/-- The register written is poisoned, the others are as before. -/
theorem Lane.poison_setReg (x : Lane) (n i : Nat) (w : PWord) :
    ((x.setReg n w).regs.getD i {}) = if n = i ∧ i < x.regs.length then w else x.regs.getD i {} := by
  show (x.regs.set n w).getD i {} = _
  rw [List.getD_eq_getElem?_getD, List.getElem?_set, List.getD_eq_getElem?_getD]
  by_cases hn : n = i
  · subst hn
    by_cases hl : n < x.regs.length
    · rw [if_pos rfl, if_pos hl, if_pos ⟨rfl, hl⟩]
      rfl
    · rw [if_pos rfl, if_neg hl, if_neg (fun hh => hl hh.2), List.getElem?_eq_none (by omega)]
  · rw [if_neg hn, if_neg (fun hh => hn hh.1)]

/-- Where an advance goes hangs on the loop and on the code. -/
theorem Lane.advance_pc_congr {x y : Lane} (hloop : y.loop = x.loop) (hcode : y.code = x.code) (pc : DWord) :
    (y.advance pc).pc = (x.advance pc).pc := by
  rw [Lane.advance, Lane.advance]
  simp only [Lane.dropHeld, hloop]
  cases x.loop with
  | none => simp only [Lane.goto, Lane.pc, hcode]
  | some lp =>
    dsimp only
    split
    · simp only [Lane.goto, Lane.pc, hcode]
    · split <;> simp only [Lane.goto, Lane.pc, hcode]

theorem Lane.advance_leaves (x : Lane) (pc : DWord) :
    (x.advance pc).crew = x.crew ∧ (x.advance pc).owned = x.owned ∧ (x.advance pc).async = x.async := by
  unfold Lane.advance
  dsimp only
  split
  · exact ⟨rfl, rfl, rfl⟩
  · split_ifs <;> exact ⟨rfl, rfl, rfl⟩

section
variable {ids : Nat → Prop}

theorem Lane.Discarded.refl (x : Lane) : x.Discarded ids x :=
  ⟨rfl, rfl, fun _ h => h, fun _ h => h, fun _ h => h, rfl, .inl ⟨rfl, rfl, rfl, rfl⟩⟩

theorem Lane.Discarded.trans {x y z : Lane} (h : x.Discarded ids y) (k : y.Discarded ids z) : x.Discarded ids z where
  crew := k.crew.trans h.crew
  size := k.size.trans h.size
  poison i hi := k.poison i (h.poison i hi)
  owned w hw := h.owned w (k.owned w hw)
  async e he := k.async e (h.async e he)
  unexited := k.unexited.trans h.unexited
  status := by
    rcases h.status with ⟨hs, hp, hl, hc⟩ | ⟨id, pc, hid, hx, hy, hpc⟩
    · rcases k.status with ⟨ks, kp, kl, kc⟩ | ⟨id, pc, hid, hy, hz, hpc⟩
      · exact .inl ⟨ks.trans hs, kp.trans hp, kl.trans hl, kc.trans hc⟩
      · exact .inr ⟨id, pc, hid, hs ▸ hy, hz, hpc.trans (Lane.advance_pc_congr hl hc pc)⟩
    · rcases k.status with ⟨ks, -, -, kc⟩ | ⟨id', pc', -, hy', -, -⟩
      · refine .inr ⟨id, pc, hid, hx, ks.trans hy, ?_⟩
        rw [← hpc, Lane.pc, Lane.pc, kc]
      · rw [hy] at hy'
        cases hy'

theorem Lane.Discarded.setReg (x : Lane) (n : Nat) {w : PWord} (hw : w.poison = true) : x.Discarded ids (x.setReg n w) where
  crew := rfl
  size := List.length_set
  poison i hi := by
    rw [Lane.poison_setReg]
    split
    · exact hw
    · exact hi
  owned _ h := h
  async _ h := h
  unexited := rfl
  status := .inl ⟨rfl, rfl, rfl, rfl⟩

theorem Lane.Discarded.disown (x : Lane) (id : Nat) : x.Discarded ids (x.disown id) :=
  ⟨rfl, rfl, fun _ h => h, fun _ h => (List.mem_filter.1 h).1, fun _ h => h, rfl, .inl ⟨rfl, rfl, rfl, rfl⟩⟩

theorem Lane.Discarded.told (x : Lane) (es : List Async) : x.Discarded ids { x with async := x.async ++ es } :=
  ⟨rfl, rfl, fun _ h => h, fun _ h => h, fun _ h => List.mem_append_left _ h, rfl, .inl ⟨rfl, rfl, rfl, rfl⟩⟩

end

/-- A lane that waits for an operation goes on (R284). -/
def Lane.goneOn (id : Nat) (x : Lane) : Lane :=
  match x.status with
  | .parked (.op j) pc => if j = id then x.advance pc else x
  | _ => x

theorem Lane.goneOn_parked {x : Lane} {id : Nat} {pc : DWord} (h : x.status = .parked (.op id) pc) : x.goneOn id = x.advance pc := by
  rw [Lane.goneOn, h]
  exact if_pos rfl

theorem Lane.goneOn_other {x : Lane} {id : Nat} (h : ∀ pc, x.status ≠ .parked (.op id) pc) : x.goneOn id = x := by
  unfold Lane.goneOn
  split
  · next j pc hs => exact if_neg fun hj : j = id => h pc (hj ▸ hs)
  · rfl

theorem Lane.Discarded.goneOn {ids : Nat → Prop} (x : Lane) {id : Nat} (hid : ids id) : x.Discarded ids (x.goneOn id) := by
  by_cases h : ∃ pc, x.status = .parked (.op id) pc
  · obtain ⟨pc, hpc⟩ := h
    rw [Lane.goneOn_parked hpc]
    obtain ⟨hregs, -⟩ := Lane.advance_keeps x pc
    obtain ⟨hcrew, howned, hasync⟩ := Lane.advance_leaves x pc
    refine ⟨hcrew, by rw [hregs], fun i hi => hregs ▸ hi, fun w hw => howned ▸ hw, fun e he => hasync ▸ he, ?_, .inr ⟨id, pc, hid, hpc, Lane.advance_status x pc, rfl⟩⟩
    rw [Lane.unexited, Lane.unexited, Lane.advance_status, hpc]
  · rw [Lane.goneOn_other fun pc hpc => h ⟨pc, hpc⟩]
    exact .refl x

/-! ### A state as operations are discarded -/

/-- A group whose lanes are as the discarding of operations leaves them. -/
structure Group.Discarded (ids : Nat → Prop) (g h : Group) : Prop where
  shell : { h with lanes := g.lanes } = g
  size : h.lanes.length = g.lanes.length
  lanes : ∀ i (hi : i < g.lanes.length), (g.lanes[i]).Discarded ids (h.lanes[i]'(size ▸ hi))

/-- A state whose lanes are as the discarding of operations leaves them, and that has nothing else changed but its operations. -/
structure State.Discarded (ids : Nat → Prop) (s t : State) : Prop where
  rest : { t with groups := s.groups, ops := s.ops } = s
  groups : ∃ f : Group → Group, t.groups = s.groups.map f ∧ ∀ g : Group, g.Discarded ids (f g)

section
variable {ids : Nat → Prop}

theorem Group.Discarded.refl (g : Group) : g.Discarded ids g := ⟨rfl, rfl, fun _ _ => .refl _⟩

theorem Group.Discarded.trans {g h k : Group} (x : g.Discarded ids h) (y : h.Discarded ids k) : g.Discarded ids k where
  shell := by
    have hx := x.shell
    rw [← y.shell] at hx
    exact hx
  size := y.size.trans x.size
  lanes i hi := (x.lanes i hi).trans (y.lanes i (x.size ▸ hi))

theorem Group.Discarded.gid {g h : Group} (x : g.Discarded ids h) : h.gid = g.gid := by
  rw [← x.shell]

theorem Group.Discarded.map (g : Group) {f : Lane → Lane} (hf : ∀ x : Lane, x.Discarded ids (f x)) :
    g.Discarded ids { g with lanes := g.lanes.map f } where
  shell := rfl
  size := List.length_map ..
  lanes i hi := by
    simp only [List.getElem_map]
    exact hf _

theorem Group.Discarded.modify (g : Group) (n : Nat) {f : Lane → Lane} (hf : ∀ x : Lane, x.Discarded ids (f x)) :
    g.Discarded ids { g with lanes := g.lanes.modify n f } where
  shell := rfl
  size := List.length_modify ..
  lanes i hi := by
    simp only [List.getElem_modify]
    split
    · exact hf _
    · exact .refl _

theorem State.Discarded.refl (s : State) : s.Discarded ids s :=
  ⟨rfl, id, (List.map_id _).symm, fun g => .refl g⟩

theorem State.Discarded.trans {s t u : State} (h : s.Discarded ids t) (k : t.Discarded ids u) : s.Discarded ids u := by
  obtain ⟨f, hf, hfg⟩ := h.groups
  obtain ⟨f', hf', hfg'⟩ := k.groups
  refine ⟨?_, f' ∘ f, by rw [hf', hf, List.map_map], fun g => (hfg g).trans (hfg' (f g))⟩
  have hrest := h.rest
  rw [← k.rest] at hrest
  exact hrest

theorem State.Discarded.foldl {β : Type} {f : State → β → State} {ls : List β} (hf : ∀ b ∈ ls, ∀ s : State, s.Discarded ids (f s b)) :
    ∀ s : State, s.Discarded ids (ls.foldl f s) := by
  induction ls with
  | nil => exact fun s => .refl s
  | cons b ls ih =>
    exact fun s => (hf b (List.mem_cons_self ..) s).trans (ih (fun c hc => hf c (List.mem_cons_of_mem _ hc)) _)

theorem State.Discarded.modLane (s : State) (r : LRef) {f : Lane → Lane} (hf : ∀ x : Lane, x.Discarded ids (f x)) :
    s.Discarded ids (s.modLane r f) := by
  refine ⟨rfl, _, rfl, fun g => ?_⟩
  dsimp only
  split
  · exact .modify g r.2 hf
  · exact .refl g

section
variable {s t : State} (h : s.Discarded ids t)
include h

theorem State.Discarded.keep {α : Type} (p : State → α) (hp : ∀ (x : State) (gs : List Group) (os : List MxOp),
    p { x with groups := gs, ops := os } = p x) : p t = p s := by
  rw [← hp t s.groups s.ops, h.rest]

theorem State.Discarded.holds (x : Nat) : t.holds x = s.holds x := by
  obtain ⟨f, hf, hfg⟩ := h.groups
  rw [State.holds, State.holds, hf, List.any_map]
  exact congrArg s.groups.any (funext fun g => by rw [Function.comp, (hfg g).gid])

theorem State.Discarded.group (x : Nat) : (s.group x).Discarded ids (t.group x) := by
  obtain ⟨f, hf, hfg⟩ := h.groups
  rw [State.group, State.group, hf, find_map_gid s.groups f fun g => (hfg g).gid]
  cases s.groups.find? (·.gid == x) with
  | none => exact .refl _
  | some g => exact hfg g

theorem State.Discarded.has (q : LRef) : t.has q ↔ s.has q := by
  rw [State.has, State.has, h.holds, (h.group q.1).size]

theorem State.Discarded.lane (q : LRef) : (s.lane q).Discarded ids (t.lane q) := by
  have hg := h.group q.1
  rw [State.lane, State.lane]
  by_cases hq : q.2 < (s.group q.1).lanes.length
  · rw [List.getElem?_eq_getElem hq, List.getElem?_eq_getElem (hg.size ▸ hq)]
    exact hg.lanes q.2 hq
  · rw [List.getElem?_eq_none (by omega), List.getElem?_eq_none (by rw [hg.size]; omega)]
    exact .refl _

end

/-- What a step of a fold brings about and later steps keep stands at its end. -/
theorem State.Discarded.reached {β : Type} {f : State → β → State} {ls : List β} (hf : ∀ b ∈ ls, ∀ s : State, s.Discarded ids (f s b))
    {p : State → Prop} (hkeep : ∀ t u : State, t.Discarded ids u → p t → p u) {b : β} (hb : b ∈ ls) {s : State}
    (hp : ∀ t : State, s.Discarded ids t → p (f t b)) : p (ls.foldl f s) := by
  obtain ⟨as, bs, rfl⟩ := List.append_of_mem hb
  rw [List.foldl_append, List.foldl_cons]
  refine hkeep _ _ (State.Discarded.foldl (fun c hc => hf c ?_) _) (hp _ (State.Discarded.foldl (fun c hc => hf c ?_) s))
  · exact List.mem_append_right _ (List.mem_cons_of_mem _ hc)
  · exact List.mem_append_left _ hc

end

/-! ### One operation discarded -/

/-- Registers of a lane, named from `d` on, are poisoned. -/
def Lane.spoilt (is : List Nat) (d : Nat) (x : Lane) : Lane :=
  is.foldl (fun (l : Lane) i => l.setReg (d + i) { l.regs.getD (d + i) {} with poison := true }) x

/-- The lanes of an operation's block that wait for it go on. -/
def State.goneOn (o : MxOp) (s : State) : State :=
  { s with groups := s.groups.map fun g => if g.isK || g.block != o.block then g else { g with lanes := g.lanes.map (Lane.goneOn o.id) } }

/-- The signers' accumulators are poisoned, and those that wait go on. -/
def State.spoilt (o : MxOp) (s : State) : State :=
  o.signers.foldl (fun s y => s.modLane (signerLane y) fun x => (x.spoilt (upto o.perSigner) y.d).goneOn o.id) s

theorem discardOp_eq (s : State) (o : MxOp) : s.discardOp o = (((s.spoilt o).goneOn o).releaseOp o).tellSigners o 0x0F := rfl

/-- The signers own nothing for the operation any more. -/
def State.disowned (o : MxOp) (s : State) : State :=
  o.signers.foldl (fun s y => s.modLane (signerLane y) fun x => x.disown o.id) s

theorem releaseOp_eq (s : State) (o : MxOp) :
    s.releaseOp o = { s.disowned o with ops := (s.disowned o).ops.filter fun x => x.id != o.id } := rfl

/-- What one signer takes of its operation's end. -/
def State.told (o : MxOp) (s : State) (y : Signer) : State :=
  if s.signerLives y then
    s.modLane (signerLane y) fun x => { x with async := x.async ++
      [.engine 0x0F (((o.nums.find? fun w => w.1 == y.gid).map (·.2)).getD 0) (lo32 (o.pc - o.entry))] }
  else s

theorem tellSigners_eq (s : State) (o : MxOp) : s.tellSigners o 0x0F = o.signers.foldl (State.told o) s := rfl

section
variable {ids : Nat → Prop}

theorem Lane.Discarded.spoilt (d : Nat) (is : List Nat) (x : Lane) : x.Discarded ids (x.spoilt is d) := by
  unfold Lane.spoilt
  induction is generalizing x with
  | nil => exact .refl x
  | cons i t ih =>
    rw [List.foldl_cons]
    exact (Lane.Discarded.setReg x (d + i) rfl).trans (ih _)

theorem Lane.poison_spoilt {d j : Nat} {is : List Nat} {x : Lane} (hj : j ∈ is) (hd : d + j < x.regs.length) :
    ((x.spoilt is d).regs.getD (d + j) {}).poison = true := by
  induction is generalizing x with
  | nil => cases hj
  | cons i t ih =>
    rw [show x.spoilt (i :: t) d = (x.setReg (d + i) { x.regs.getD (d + i) {} with poison := true }).spoilt t d from rfl]
    rcases List.mem_cons.1 hj with rfl | ht
    · refine (Lane.Discarded.spoilt (ids := fun _ => True) d t _).poison (d + j) ?_
      rw [Lane.poison_setReg, if_pos ⟨rfl, hd⟩]
    · refine ih ht ?_
      rw [(Lane.Discarded.setReg (ids := fun _ => True) x (d + i) rfl).size]
      exact hd

theorem discarded_goneOn (s : State) {o : MxOp} (ho : ids o.id) : s.Discarded ids (s.goneOn o) := by
  refine ⟨rfl, _, rfl, fun g => ?_⟩
  split
  · exact .refl g
  · exact .map g fun x => .goneOn x ho

theorem discarded_spoilt (s : State) {o : MxOp} (ho : ids o.id) : s.Discarded ids (s.spoilt o) :=
  .foldl (fun _ _ s => .modLane s _ fun x => (Lane.Discarded.spoilt _ _ x).trans (.goneOn _ ho)) s

theorem discarded_disown (s : State) (o : MxOp) : s.Discarded ids (s.disowned o) :=
  .foldl (fun _ _ s => .modLane s _ fun x => .disown x _) s

theorem discarded_ops (s : State) (os : List MxOp) : s.Discarded ids { s with ops := os } :=
  ⟨rfl, id, (List.map_id _).symm, fun g => .refl g⟩

theorem discarded_releaseOp (s : State) (o : MxOp) : s.Discarded ids (s.releaseOp o) := by
  rw [releaseOp_eq]
  exact (discarded_disown s o).trans (discarded_ops ..)

theorem discarded_told (s : State) (o : MxOp) (y : Signer) : s.Discarded ids (s.told o y) := by
  unfold State.told
  split
  · exact .modLane s _ fun x => .told x _
  · exact .refl s

theorem discarded_tellSigners (s : State) (o : MxOp) : s.Discarded ids (s.tellSigners o 0x0F) := by
  rw [tellSigners_eq]
  exact .foldl (fun _ _ s => discarded_told s o _) s

theorem discarded_discardOp (s : State) {o : MxOp} (ho : ids o.id) : s.Discarded ids (s.discardOp o) := by
  rw [discardOp_eq]
  exact (((discarded_spoilt s ho).trans (discarded_goneOn _ ho)).trans (discarded_releaseOp ..)).trans (discarded_tellSigners ..)

end

theorem lane_goneOn (s : State) (o : MxOp) (q : LRef) : (s.goneOn o).lane q =
    if (s.group q.1).isK = true ∨ (s.group q.1).block ≠ o.block then s.lane q else (s.lane q).goneOn o.id := by
  have hgroup : (s.goneOn o).group q.1 = if (s.group q.1).isK = true ∨ (s.group q.1).block ≠ o.block then s.group q.1
      else { s.group q.1 with lanes := (s.group q.1).lanes.map (Lane.goneOn o.id) } := by
    rw [State.group, State.goneOn]
    rw [find_map_gid s.groups _ fun g => by split <;> rfl, State.group]
    cases s.groups.find? (·.gid == q.1) with
    | none =>
      rw [Option.map_none, Option.getD_none]
      split <;> rfl
    | some g =>
      simp only [Option.map_some, Option.getD_some, Bool.or_eq_true, bne_iff_ne]
  rw [State.lane, hgroup]
  split
  · rfl
  · rw [State.lane, List.getElem?_map]
    cases (s.group q.1).lanes[q.2]? with
    | none => rfl
    | some x => rfl

/-- A lane that may issue stays where it is. -/
theorem Lane.Discarded.ready {ids : Nat → Prop} {x z : Lane} (h : x.Discarded ids z) (hx : x.status = .ready) :
    z.status = .ready ∧ z.pc = x.pc := by
  rcases h.status with ⟨hs, -, -, hc⟩ | ⟨id, pc, -, hp, -, -⟩
  · exact ⟨hs.trans hx, by rw [Lane.pc, Lane.pc, hc]⟩
  · rw [hx] at hp
    cases hp

section
variable {ids : Nat → Prop} {o : MxOp} (ho : ids o.id) (s : State) {y : Signer} (hy : y ∈ o.signers) (hhas : s.has (signerLane y))

section
include ho hy hhas

theorem discardOp_poison {j : Nat} (hj : j < o.perSigner) (hd : y.d + j < (s.lane (signerLane y)).regs.length) :
    (((s.discardOp o).lane (signerLane y)).regs.getD (y.d + j) {}).poison = true := by
  have hspoilt : (((s.spoilt o).lane (signerLane y)).regs.getD (y.d + j) {}).poison = true := by
    refine State.Discarded.reached (ids := ids) (p := fun t => ((t.lane (signerLane y)).regs.getD (y.d + j) {}).poison = true)
      (fun y' _ t => .modLane t _ fun x => (Lane.Discarded.spoilt _ _ x).trans (.goneOn _ ho))
      (fun t u htu hp => (htu.lane _).poison _ hp) hy fun t ht => ?_
    rw [lane_modLane_self t _ _ ((ht.has _).2 hhas)]
    refine (Lane.Discarded.goneOn _ ho).poison _ (Lane.poison_spoilt (by simp [upto, hj]) ?_)
    rw [(ht.lane _).size]
    exact hd
  rw [discardOp_eq]
  exact ((((discarded_goneOn _ ho).trans (discarded_releaseOp ..)).trans (discarded_tellSigners ..)).lane _).poison _ hspoilt

theorem discardOp_owned : ∀ w ∈ ((s.discardOp o).lane (signerLane y)).owned, w.2.2 ≠ o.id := by
  have hbefore : s.Discarded ids ((s.spoilt o).goneOn o) := (discarded_spoilt s ho).trans (discarded_goneOn _ ho)
  have hreleased : ∀ w ∈ ((((s.spoilt o).goneOn o).disowned o).lane (signerLane y)).owned, w.2.2 ≠ o.id := by
    refine State.Discarded.reached (ids := ids) (p := fun t => ∀ w ∈ (t.lane (signerLane y)).owned, w.2.2 ≠ o.id)
      (fun y' _ t => .modLane t _ fun x => .disown x _)
      (fun t u htu hp w hw => hp w ((htu.lane _).owned w hw)) hy fun t ht w hw => ?_
    rw [lane_modLane_self t _ _ (((hbefore.trans ht).has _).2 hhas)] at hw
    simpa using (List.mem_filter.1 hw).2
  rw [discardOp_eq]
  have hlater := discarded_tellSigners (ids := ids) (((s.spoilt o).goneOn o).releaseOp o) o
  exact fun w hw => hreleased w ((hlater.lane _).owned w hw)

theorem discardOp_told (hlives : (s.lane (signerLane y)).unexited = true) {num : Word}
    (hnum : o.nums.find? (fun w => w.1 == y.gid) = some (y.gid, num)) :
    .engine 0x0F num (lo32 (o.pc - o.entry)) ∈ ((s.discardOp o).lane (signerLane y)).async := by
  have hbefore : s.Discarded ids (((s.spoilt o).goneOn o).releaseOp o) :=
    ((discarded_spoilt s ho).trans (discarded_goneOn _ ho)).trans (discarded_releaseOp ..)
  rw [discardOp_eq, tellSigners_eq]
  refine State.Discarded.reached (ids := ids) (p := fun t => _ ∈ (t.lane (signerLane y)).async)
    (fun y' _ t => discarded_told t o y') (fun t u htu hp => (htu.lane _).async _ hp) hy fun t ht => ?_
  have hlive : t.signerLives y = true := ((((hbefore.trans ht).lane (signerLane y)).unexited).trans hlives : _)
  rw [State.told, if_pos hlive, lane_modLane_self t _ _ (((hbefore.trans ht).has _).2 hhas), hnum]
  exact List.mem_append_right _ (List.mem_singleton.2 rfl)

end

include ho in
theorem discardOp_goesOn {q : LRef} {pc : DWord} (hk : (s.group q.1).isK = false) (hblock : (s.group q.1).block = o.block)
    (hq : (s.lane q).status = .parked (.op o.id) pc) :
    ((s.discardOp o).lane q).status = .ready ∧ ((s.discardOp o).lane q).pc = ((s.lane q).advance pc).pc := by
  have hspoilt := discarded_spoilt s ho
  have hgone : ((((s.spoilt o).goneOn o).lane q).status = .ready) ∧ (((s.spoilt o).goneOn o).lane q).pc = ((s.lane q).advance pc).pc := by
    rcases (hspoilt.lane q).status with ⟨hs, -, hl, hc⟩ | ⟨id, pc', -, hp, hz, hpc⟩
    · have hgroup := hspoilt.group q.1
      rw [lane_goneOn, if_neg, Lane.goneOn_parked (hs.trans hq)]
      · exact ⟨Lane.advance_status .., Lane.advance_pc_congr hl hc pc⟩
      · rw [← hgroup.shell] at hk hblock
        exact fun hcase => hcase.elim (fun hk' => by rw [show (((s.spoilt o).group q.1)).isK = false from hk] at hk'; cases hk') fun hb => hb hblock
    · rw [hq] at hp
      cases hp
      have hgone := ((discarded_goneOn (s.spoilt o) ho).lane q).ready hz
      exact ⟨hgone.1, hgone.2.trans hpc⟩
  rw [discardOp_eq]
  have hlater := (((discarded_releaseOp (ids := ids) ((s.spoilt o).goneOn o) o).trans (discarded_tellSigners _ o)).lane q).ready hgone.1
  exact ⟨hlater.1, hlater.2.trans hgone.2⟩

theorem foldl_modLane_elsewhere {q : LRef} (f : Signer → Lane → Lane) : ∀ {ys : List Signer} (s : State), (∀ y ∈ ys, signerLane y ≠ q) →
    (ys.foldl (fun s y => s.modLane (signerLane y) (f y)) s).lane q = s.lane q
  | [], _, _ => rfl
  | y :: ys, s, h => by
    rw [List.foldl_cons, foldl_modLane_elsewhere f _ fun z hz => h z (List.mem_cons_of_mem _ hz),
      lane_modLane_ne s (Ne.symm (h y (List.mem_cons_self ..)))]

theorem foldl_told_elsewhere {q : LRef} (o : MxOp) : ∀ {ys : List Signer} (s : State), (∀ y ∈ ys, signerLane y ≠ q) →
    (ys.foldl (State.told o) s).lane q = s.lane q
  | [], _, _ => rfl
  | y :: ys, s, h => by
    rw [List.foldl_cons, foldl_told_elsewhere o _ fun z hz => h z (List.mem_cons_of_mem _ hz), State.told]
    split
    · exact lane_modLane_ne s (Ne.symm (h y (List.mem_cons_self ..))) _
    · rfl

/-- A lane that neither signs an operation nor waits for it keeps as it is. -/
theorem discardOp_elsewhere {q : LRef} (hsign : ∀ y ∈ o.signers, signerLane y ≠ q) (hwait : ∀ pc, (s.lane q).status ≠ .parked (.op o.id) pc) :
    (s.discardOp o).lane q = s.lane q := by
  have hspoilt : (s.spoilt o).lane q = s.lane q := foldl_modLane_elsewhere _ s hsign
  have hgone : ((s.spoilt o).goneOn o).lane q = s.lane q := by
    rw [lane_goneOn, hspoilt, Lane.goneOn_other hwait, ite_self]
  rw [discardOp_eq, tellSigners_eq, foldl_told_elsewhere o _ hsign, releaseOp_eq]
  exact (foldl_modLane_elsewhere (fun _ x => x.disown o.id) _ hsign).trans hgone

end

/-! ### All of them -/

theorem ops_foldl_told (o : MxOp) : ∀ (ys : List Signer) (s : State), (ys.foldl (State.told o) s).ops = s.ops
  | [], _ => rfl
  | y :: ys, s => by
    rw [List.foldl_cons, ops_foldl_told o ys, State.told]
    split <;> rfl

theorem ops_foldl_modLane (f : Signer → Lane → Lane) : ∀ (ys : List Signer) (s : State),
    (ys.foldl (fun s y => s.modLane (signerLane y) (f y)) s).ops = s.ops
  | [], _ => rfl
  | y :: ys, s => by
    rw [List.foldl_cons, ops_foldl_modLane f ys]
    rfl

theorem ops_discardOp (s : State) (o : MxOp) : (s.discardOp o).ops = s.ops.filter fun x => x.id != o.id := by
  have hdisowned : (((s.spoilt o).goneOn o).disowned o).ops = s.ops :=
    (ops_foldl_modLane (fun _ x => x.disown o.id) o.signers _).trans (ops_foldl_modLane _ o.signers s)
  rw [discardOp_eq, tellSigners_eq, ops_foldl_told, releaseOp_eq, hdisowned]

theorem ops_discarded : ∀ (ds : List MxOp) (s : State) (o : MxOp),
    o ∈ (ds.foldl State.discardOp s).ops ↔ o ∈ s.ops ∧ ∀ x ∈ ds, o.id ≠ x.id
  | [], s, o => by simp
  | d :: ds, s, o => by
    rw [List.foldl_cons, ops_discarded ds, ops_discardOp, List.mem_filter, List.forall_mem_cons, bne_iff_ne, and_assoc]

section
variable {ids : Nat → Prop} {ds : List MxOp} (hd : ∀ o ∈ ds, ids o.id) (s : State)
include hd

theorem discarded_all : s.Discarded ids (ds.foldl State.discardOp s) :=
  .foldl (fun o ho s => discarded_discardOp s (hd o ho)) s

section
variable {o : MxOp} (ho : o ∈ ds)
include ho

/-- What the discarding of one operation brings about stands at the end. -/
theorem discarded_reaches {p : State → Prop} (hkeep : ∀ t u : State, t.Discarded ids u → p t → p u)
    (hp : ∀ t : State, s.Discarded ids t → p (t.discardOp o)) : p (ds.foldl State.discardOp s) :=
  State.Discarded.reached (fun o ho s => discarded_discardOp s (hd o ho)) hkeep ho hp

theorem discarded_goesOn {q : LRef} {pc : DWord} (hk : (s.group q.1).isK = false) (hblock : (s.group q.1).block = o.block)
    (hq : (s.lane q).status = .parked (.op o.id) pc) :
    ((ds.foldl State.discardOp s).lane q).status = .ready ∧
      ((ds.foldl State.discardOp s).lane q).pc = ((s.lane q).advance pc).pc := by
  refine discarded_reaches hd s ho (p := fun t => (t.lane q).status = .ready ∧ (t.lane q).pc = ((s.lane q).advance pc).pc)
    (fun t u htu ⟨hready, hpc⟩ => ?_) fun t ht => ?_
  · have hlater := (htu.lane q).ready hready
    exact ⟨hlater.1, hlater.2.trans hpc⟩
  · rcases (ht.lane q).status with ⟨hs, -, hl, hc⟩ | ⟨id, pc', -, hp, hz, hpc⟩
    · have hgroup := (ht.group q.1).shell
      rw [← hgroup] at hk hblock
      have hgone := discardOp_goesOn (hd o ho) t hk hblock (hs.trans hq)
      exact ⟨hgone.1, hgone.2.trans (Lane.advance_pc_congr hl hc pc)⟩
    · rw [hq] at hp
      cases hp
      have hlater := ((discarded_discardOp t (hd o ho)).lane q).ready hz
      exact ⟨hlater.1, hlater.2.trans hpc⟩

variable {y : Signer} (hy : y ∈ o.signers) (hhas : s.has (signerLane y))
include hy hhas

theorem discarded_poison {j : Nat} (hj : j < o.perSigner) (hlen : y.d + j < (s.lane (signerLane y)).regs.length) :
    (((ds.foldl State.discardOp s).lane (signerLane y)).regs.getD (y.d + j) {}).poison = true :=
  discarded_reaches hd s ho (p := fun t => ((t.lane (signerLane y)).regs.getD (y.d + j) {}).poison = true)
    (fun _ _ htu hp => (htu.lane _).poison _ hp)
    fun t ht => discardOp_poison (hd o ho) t hy ((ht.has _).2 hhas) hj (by rw [(ht.lane _).size]; exact hlen)

theorem discarded_owned : ∀ w ∈ ((ds.foldl State.discardOp s).lane (signerLane y)).owned, w.2.2 ≠ o.id :=
  discarded_reaches hd s ho (p := fun t => ∀ w ∈ (t.lane (signerLane y)).owned, w.2.2 ≠ o.id)
    (fun _ _ htu hp w hw => hp w ((htu.lane _).owned w hw))
    fun t ht => discardOp_owned (hd o ho) t hy ((ht.has _).2 hhas)

theorem discarded_told_engine (hlives : (s.lane (signerLane y)).unexited = true) {num : Word}
    (hnum : o.nums.find? (fun w => w.1 == y.gid) = some (y.gid, num)) :
    .engine 0x0F num (lo32 (o.pc - o.entry)) ∈ ((ds.foldl State.discardOp s).lane (signerLane y)).async :=
  discarded_reaches hd s ho (p := fun t => _ ∈ (t.lane (signerLane y)).async)
    (fun _ _ htu hp => (htu.lane _).async _ hp)
    fun t ht => discardOp_told (hd o ho) t hy ((ht.has _).2 hhas) ((ht.lane _).unexited.trans hlives) hnum

end

end

theorem discarded_elsewhere {q : LRef} : ∀ {ds : List MxOp} (s : State), (∀ o ∈ ds, (∀ y ∈ o.signers, signerLane y ≠ q) ∧
    ∀ pc, (s.lane q).status ≠ .parked (.op o.id) pc) → (ds.foldl State.discardOp s).lane q = s.lane q
  | [], _, _ => rfl
  | d :: ds, s, h => by
    obtain ⟨hsign, hwait⟩ := h d (List.mem_cons_self ..)
    have hone := discardOp_elsewhere s hsign hwait
    rw [List.foldl_cons, discarded_elsewhere _ fun o ho => ?_, hone]
    rw [hone]
    exact h o (List.mem_cons_of_mem _ ho)

/-! ### The crews that wait -/

/-- The lanes of a core's blocks that wait for the baton, each by the time at which it began to wait and its crew. -/
def State.waiting (s : State) (core : Nat) : List (Nat × Nat × Nat) :=
  (s.groups.filter fun g => !g.isK && (s.block g.block).rest.isNone && (s.block g.block).core0 == core).flatMap fun g =>
    (g.lanes.filter fun x => match x.status with | .parked .baton _ => true | _ => false).map fun x => (x.parkedAt, (g.block, x.crew))

theorem batonWaiters_eq (s : State) (core : Nat) :
    s.batonWaiters core = firsts ((sortBy (fun a b => decide (a.1 < b.1)) (s.waiting core)).map (·.2)) := rfl

/-- A lane waits for the baton of a core's engine. -/
def State.waitsFor (s : State) (core : Nat) (q : LRef) : Prop :=
  s.has q ∧ (s.group q.1).isK = false ∧ (s.block (s.group q.1).block).rest = none ∧
    (s.block (s.group q.1).block).core0 = core ∧ ∃ pc, (s.lane q).status = .parked .baton pc

theorem mem_waiting {s : State} (hg : ∀ g ∈ s.groups, g = s.group g.gid) (core p : Nat) (y : Nat × Nat) :
    (p, y) ∈ s.waiting core ↔ ∃ q, s.waitsFor core q ∧ ((s.group q.1).block, (s.lane q).crew) = y ∧ (s.lane q).parkedAt = p := by
  have hbaton : ∀ x : Lane, (match x.status with | .parked .baton _ => true | _ => false) = true ↔ ∃ pc, x.status = .parked .baton pc := by
    intro x
    constructor
    · intro h
      split at h
      · next pc hs => exact ⟨pc, hs⟩
      · cases h
    · rintro ⟨pc, hs⟩
      rw [hs]
  simp only [State.waiting, List.mem_flatMap, List.mem_filter, List.mem_map, Bool.and_eq_true, Bool.not_eq_true', Option.isNone_iff_eq_none,
    beq_iff_eq, hbaton, Prod.mk.injEq]
  constructor
  · rintro ⟨g, ⟨hgs, ⟨hk, hrest⟩, hcore⟩, x, ⟨hx, hs⟩, rfl, rfl⟩
    obtain ⟨i, hi, rfl⟩ := List.getElem_of_mem hx
    have hgid := hg g hgs
    have hlane : s.lane (g.gid, i) = g.lanes[i] := by
      rw [State.lane, ← hgid, List.getElem?_eq_getElem hi]
      rfl
    refine ⟨(g.gid, i), ⟨⟨List.any_eq_true.2 ⟨g, hgs, by simp⟩, by rw [← hgid]; exact hi⟩, ?_, ?_, ?_, ?_⟩, ?_, ?_⟩
    all_goals simp only [hlane, ← hgid]
    exacts [hk, hrest, hcore, hs]
  · rintro ⟨q, ⟨⟨hheld, hi⟩, hk, hrest, hcore, hs⟩, rfl, rfl⟩
    have hlane : s.lane q = (s.group q.1).lanes[q.2] := by
      rw [State.lane, List.getElem?_eq_getElem hi]
      rfl
    obtain ⟨g, hgs, hgid⟩ := List.any_eq_true.1 hheld
    have hmem : s.group q.1 ∈ s.groups := by
      rw [← beq_iff_eq.1 hgid, ← hg g hgs]
      exact hgs
    exact ⟨s.group q.1, ⟨hmem, ⟨hk, hrest⟩, hcore⟩, s.lane q, ⟨hlane ▸ List.getElem_mem hi, hs⟩, rfl, rfl⟩

theorem State.Discarded.found {ids : Nat → Prop} {s t : State} (h : s.Discarded ids t) (hg : ∀ g ∈ s.groups, g = s.group g.gid) :
    ∀ g ∈ t.groups, g = t.group g.gid := by
  obtain ⟨f, hf, hfg⟩ := h.groups
  rw [hf]
  intro g hgt
  obtain ⟨g₀, hg₀, rfl⟩ := List.mem_map.1 hgt
  have hfound := hg g₀ hg₀
  have hsome : ∃ g₁, s.groups.find? (·.gid == g₀.gid) = some g₁ := Option.isSome_iff_exists.1 (by
    rw [List.find?_isSome]
    exact ⟨g₀, hg₀, by simp⟩)
  obtain ⟨g₁, hg₁⟩ := hsome
  rw [State.group, hg₁, Option.getD_some] at hfound
  rw [State.group, hf, find_map_gid s.groups f fun g => (hfg g).gid, (hfg g₀).gid, hg₁, Option.map_some, Option.getD_some, ← hfound]

/-- Who waits for a baton waits for it still. -/
theorem State.Discarded.waitsFor {ids : Nat → Prop} {s t : State} (h : s.Discarded ids t) (core : Nat) (q : LRef) :
    t.waitsFor core q ↔ s.waitsFor core q := by
  have hgroup := (h.group q.1).shell
  have hblock : ∀ b, t.block b = s.block b := fun b => h.keep (·.block b) fun _ _ _ => rfl
  have hisK : (t.group q.1).isK = (s.group q.1).isK := by rw [← hgroup]; rfl
  have hin : (t.group q.1).block = (s.group q.1).block := by rw [← hgroup]
  have hstatus : (∃ pc, (t.lane q).status = .parked .baton pc) ↔ ∃ pc, (s.lane q).status = .parked .baton pc := by
    rcases (h.lane q).status with ⟨hs, -⟩ | ⟨id, pc, -, hs, ht, -⟩
    · rw [hs]
    · simp [hs, ht]
  rw [State.waitsFor, State.waitsFor, h.has, hisK, hin, hblock, hstatus]

theorem State.waitsFor.parkedAt {ids : Nat → Prop} {s t : State} (h : s.Discarded ids t) {core : Nat} {q : LRef} (hq : s.waitsFor core q) :
    (t.lane q).parkedAt = (s.lane q).parkedAt := by
  obtain ⟨-, -, -, -, pc, hs⟩ := hq
  rcases (h.lane q).status with ⟨-, hp, -⟩ | ⟨id, pc', -, hp, -⟩
  · exact hp
  · rw [hs] at hp
    cases hp

/-- The crews that wait, once operations have been discarded, are those that waited before. -/
theorem mem_waiting_discarded {ids : Nat → Prop} {s t : State} (h : s.Discarded ids t) (hg : ∀ g ∈ s.groups, g = s.group g.gid)
    (core p : Nat) (y : Nat × Nat) :
    (p, y) ∈ t.waiting core ↔ ∃ q, s.waitsFor core q ∧ ((s.group q.1).block, (s.lane q).crew) = y ∧ (s.lane q).parkedAt = p := by
  rw [mem_waiting (h.found hg)]
  refine exists_congr fun q => ?_
  rw [h.waitsFor]
  refine and_congr_right fun hq => ?_
  rw [hq.parkedAt h, (h.lane q).crew, show (t.group q.1).block = (s.group q.1).block from by rw [← (h.group q.1).shell]]

section
variable {s t : State} (core : Nat)

theorem mem_batonWaiters (y : Nat × Nat) : y ∈ t.batonWaiters core ↔ ∃ p, (p, y) ∈ t.waiting core := by
  rw [batonWaiters_eq, mem_firsts, List.mem_map]
  constructor
  · rintro ⟨⟨p, y'⟩, hy, rfl⟩
    exact ⟨p, (mem_sortBy ..).1 hy⟩
  · rintro ⟨p, hy⟩
    exact ⟨(p, y), (mem_sortBy ..).2 hy, rfl⟩

theorem nodup_batonWaiters : (t.batonWaiters core).Nodup := nodup_firsts _

theorem batonWaiters_rise : (t.batonWaiters core).Pairwise fun y z =>
    ∃ p, (p, y) ∈ t.waiting core ∧ ∀ q, (q, z) ∈ t.waiting core → p ≤ q := by
  rw [batonWaiters_eq]
  refine (firsts_rise (rises_sortBy (fun a : Nat × Nat × Nat => a.1) (t.waiting core))).imp fun {y z} hyz => ?_
  obtain ⟨p, hp, hle⟩ := hyz
  exact ⟨p, (mem_sortBy ..).1 hp, fun q hq => hle q ((mem_sortBy ..).2 hq)⟩

end

end Sys2Proof.Machine
end

section
/-!
PROOFS. priv 3 to 13 (Table 21.7): each row by its lemma, and the reset of an engine by what its discarded operations leave.
-/

namespace Sys2Proof.Machine

open Sys2Proof Sys2Proof.Machine.Claims

/-- The operations that the reset of a core's engine discards. -/
def State.doomedOps (s : State) (core : Nat) : List MxOp := s.ops.filter fun o => o.core == core && o.inEngine

theorem mem_doomedOps {s : State} {core : Nat} {o : MxOp} :
    o ∈ s.doomedOps core ↔ o ∈ s.ops ∧ o.core = core ∧ o.phase ≠ .signing ∧ o.phase ≠ .baton := by
  have hin : o.inEngine = true ↔ o.phase ≠ .signing ∧ o.phase ≠ .baton := by
    cases h : o.phase <;> simp [MxOp.inEngine, h]
  rw [State.doomedOps, List.mem_filter, Bool.and_eq_true, beq_iff_eq, hin]

theorem resetEngine_eq (s : State) (core : Nat) : s.resetEngine core = ((s.doomedOps core).foldl State.discardOp s).modCore core
    fun k => { k with tickets := ((s.doomedOps core).foldl State.discardOp s).batonWaiters core } := rfl

theorem perSigner_of_mem {o : MxOp} {y : Signer} (hy : y ∈ o.signers) : o.perSigner = 4096 / o.signers.length := by
  rw [MxOp.perSigner, max_eq_left (List.length_pos_of_mem hy)]

/-- A list of distinct numbers names each of its elements by its number. -/
theorem eq_of_id_eq {os : List MxOp} (hn : (os.map (·.id)).Nodup) {o x : MxOp} (ho : o ∈ os) (hx : x ∈ os) (hid : o.id = x.id) : o = x :=
  List.inj_on_of_nodup_map hn ho hx hid

theorem ops_resetEngine {s : State} (hn : (s.ops.map (·.id)).Nodup) (core : Nat) (o : MxOp) :
    o ∈ (s.resetEngine core).ops ↔ o ∈ s.ops ∧ o ∉ s.doomedOps core := by
  rw [resetEngine_eq, modCore_ops, ops_discarded]
  refine and_congr_right fun ho => ⟨fun h hd => h o hd rfl, fun h x hx hid => h ?_⟩
  rw [eq_of_id_eq hn ho (mem_doomedOps.1 hx).1 hid]
  exact hx

section
variable {s : State} {l : Latch} {r : LRef} {k : Nat} (h : OnComplex s l r k) {d a : Reg} (hb : GoodBlock s l r d a)
  (hw : PrivWord l d a)
include h hb hw

theorem reset_answers (hn : (blockWord s l r a 0).val.toNat < 160) :
    Answers .privEngineReset s l r d a (s.resetEngine (blockWord s l r a 0).val.toNat) 0 [] := by
  refine answers_of_privRun h hb hw (i := .privEngineReset) (reads := [0]) (show execPrivEngineReset s = privRun s _ _ from rfl)
    (by decide) ?_ ?_
  · dsimp only
    rw [if_neg (by omega)]
    rfl
  · have hall := discarded_all (ids := fun _ => True) (ds := s.doomedOps (blockWord s l r a 0).val.toNat) (fun _ _ => trivial) s
    have hkill := h.alone.plain
    rw [← (hall.group r.1).shell] at hkill
    exact hkill

end

/-- Settles O56: each row of priv 3 to 13 answers what its operation gives. -/
theorem privilegedOperationResults : Obligations.PrivilegedOperationResults := by
  intro s l r k d a h hb hw
  dsimp only
  refine ⟨fun hn hphase hdebug => ⟨fun old t ha hnone hlen hpeek hpoke => ?_, fun old t hold hpoke => ?_, fun hrun hnone => ?_⟩,
    fun hn hphase hdebug => debug_refused h hb hw hn hphase hdebug, fun hn hnodup hfound => ?_, fun hn hms => derate_answers h hb hw hn hms,
    fun f hn hx hf => ⟨fun hfatal h2 hbins hcopies hgrids hall => ?_, fun hfatal h2 hbins hcopies hgrids q hone hq hp hc => ?_, ?_⟩,
    fun hn hphase => ⟨_, poolQuery_answers h hb hw hn hphase, rfl⟩, fun hn hx => queueDisable_answers h hb hw hn hx, fun hn hx => ?_,
    fun hn => msix_answers h hb hw hn, fun hfw hs => handover_answers h hb hw hfw hs⟩
  · exact plant_answers h hb hw hn hphase hdebug ha hnone hlen hpeek hpoke
  · exact remove_answers h hb hw hn hphase hdebug hold hpoke
  · exact revoke_answers h hb hw hn hdebug hrun hnone
  · generalize hcore : (blockWord s l r a 0).val.toNat = core at hn
    have hdiscarded := discarded_all (ids := fun _ => True) (ds := s.doomedOps core) (fun _ _ => trivial) s
    have hmem := mem_waiting_discarded hdiscarded hfound core
    have htickets : ((s.resetEngine core).core core).tickets = ((s.doomedOps core).foldl State.discardOp s).batonWaiters core := by
      rw [resetEngine_eq, core_modCore_self]
    refine ⟨s.resetEngine core, hcore ▸ reset_answers h hb hw (hcore ▸ hn), ?_, ?_, fun j hj => ?_, fun o => ?_, ?_, fun y => ?_,
      fun i j y z hi hj hij => ?_, fun o ho y hy hhas => ⟨fun j hj hlen => ?_, ?_, fun hlives num hnum => ?_⟩,
      fun o ho q pc hhas hk hblock hq => ?_, fun q hq => ?_⟩
    · exact hdiscarded.keep (·.hbm) fun _ _ _ => rfl
    · exact hdiscarded.keep (·.blocks) fun _ _ _ => rfl
    · rw [resetEngine_eq, core_modCore_ne _ hj]
      exact hdiscarded.keep (·.core j) fun _ _ _ => rfl
    · rw [ops_resetEngine hnodup, mem_doomedOps]
    · rw [htickets]
      exact nodup_batonWaiters core
    · rw [htickets, mem_batonWaiters]
      exact ⟨fun ⟨p, hp⟩ => let ⟨q, hwaits, hcrew, _⟩ := (hmem p y).1 hp; ⟨q, hwaits, hcrew⟩,
        fun ⟨q, hwaits, hcrew⟩ => ⟨_, (hmem _ y).2 ⟨q, hwaits, hcrew, rfl⟩⟩⟩
    · rw [htickets] at hi hj
      obtain ⟨p, hp, hle⟩ := List.pairwise_iff_getElem.1 (batonWaiters_rise core) i j (List.getElem?_eq_some_iff.1 hi).1
        (List.getElem?_eq_some_iff.1 hj).1 hij
      rw [(List.getElem?_eq_some_iff.1 hi).2] at hp
      rw [(List.getElem?_eq_some_iff.1 hj).2] at hle
      obtain ⟨q, hwaits, hcrew, rfl⟩ := (hmem p y).1 hp
      exact ⟨q, hwaits, hcrew, fun q' hwaits' hcrew' => hle _ ((hmem _ z).2 ⟨q', hwaits', hcrew', rfl⟩)⟩
    · exact discarded_poison (ids := fun _ => True) (fun _ _ => trivial) s (mem_doomedOps.2 ho) hy hhas (by rw [perSigner_of_mem hy]; exact hj) hlen
    · exact discarded_owned (ids := fun _ => True) (fun _ _ => trivial) s (mem_doomedOps.2 ho) hy hhas
    · exact discarded_told_engine (ids := fun _ => True) (fun _ _ => trivial) s (mem_doomedOps.2 ho) hy hhas hlives hnum
    · exact discarded_goesOn (ids := fun _ => True) (fun _ _ => trivial) s (mem_doomedOps.2 ho) hk hblock hq
    · exact discarded_elsewhere s fun o ho => hq o (mem_doomedOps.1 ho)
  · exact replay_answers h hb hw hn hx hf hfatal h2 hbins hcopies hgrids hall
  · exact fail_answers h hb hw hn hx hf hfatal h2 hbins hcopies hgrids hone hq hp hc
  · exact readFault_answers h hb hw hn hx hf
  · have hactivate := queueActivate_answers h hb hw hn hx
    rw [State.voidTickets] at hactivate
    simpa only [Bool.and_eq_true, beq_iff_eq] using hactivate

end Sys2Proof.Machine
end

section
/-!
PROOFS. priv 0 to 2 (Table 21.7): TLBs, identifiers and keys, and translation (R315, R318, R319).
-/

namespace Sys2Proof.Machine

open Sys2Proof Sys2Proof.Machine.Claims

/-! ### TLBs and identifiers -/

theorem accessing_iff (s : State) (y : Remote) : y ∈ s.accessing ↔ Pending s y := by
  simp only [State.accessing, Pending, List.mem_append, List.mem_flatMap, List.mem_filter, List.mem_map, Bool.not_eq_true', and_assoc]

theorem invalidate_done {s : State} {used : Remote → Bool} (h : ∀ y, Pending s y → used y = false) (p : TlbEntry → Bool)
    (f : State → Done) : s.invalidate p used f = f (dropped s p) := by
  have hnone : (s.dropTlb p).accessing.any used = false := by
    rw [List.any_eq_false]
    exact fun y hy => by rw [h y ((accessing_iff s y).1 hy)]; decide
  rw [State.invalidate, if_neg (by rw [hnone]; decide)]
  rfl

theorem invalidate_waits {s : State} {used : Remote → Bool} {y : Remote} (hy : Pending s y) (hu : used y = true) (p : TlbEntry → Bool)
    (f : State → Done) : s.invalidate p used f = .wait (dropped s p) := by
  have hsome : (s.dropTlb p).accessing.any used = true := List.any_eq_true.2 ⟨y, (accessing_iff s y).2 hy, hu⟩
  rw [State.invalidate, if_pos hsome]
  rfl

section
variable {s : State} {l : Latch} {r : LRef} {k : Nat} (h : OnComplex s l r k) {d a : Reg} (hb : GoodBlock s l r d a)
  (hw : PrivWord l d a)
include h hb hw

/-- A row of priv that waits is held back. -/
theorem heldBack_of_privRun {i : Instr} {reads : List Nat} {f : State → (Nat → Word) → Done}
    (hi : exec i s = privRun s reads f) (hreads : ∀ i ∈ reads, i < 4) {t : State}
    (hf : f s (fun i => (blockWord s l r a i).val) = .wait t) (hk : (t.group r.1).taskKill = false) : exec i s = .next (heldBack r t) := by
  rw [hi, privRun, privFields_issued h hw]
  dsimp only
  rw [complexOp_gives h hb hreads, hf]
  dsimp only
  rw [h.alone.hold_work]
  exact h.alone.quiet _ (by rw [heldBack, group_modLane_taskKill, hk]) _ rfl rfl rfl

/-- An invalidation answers once no access that used an entry is outstanding, and is held back until then. -/
theorem clears_of_privRun {i : Instr} {reads : List Nat} {f : State → (Nat → Word) → Done}
    (hi : exec i s = privRun s reads f) (hreads : ∀ i ∈ reads, i < 4) {p : TlbEntry → Bool} {used : Remote → Bool} {g : State → State}
    (hf : f s (fun i => (blockWord s l r a i).val) = s.invalidate p used fun t => Machine.finished (g t))
    (hg : (g (dropped s p)).groups = s.groups) :
    ((∀ y, Pending s y → used y = false) → Answers i s l r d a (g (dropped s p)) 0 []) ∧
    (∀ y, Pending s y → used y = true → exec i s = .next (heldBack r (dropped s p))) := by
  have hkill := h.alone.plain
  refine ⟨fun hall => answers_of_privRun h hb hw hi hreads (hf.trans (invalidate_done hall p _)) ?_,
    fun y hy hu => heldBack_of_privRun h hb hw hi hreads (hf.trans (invalidate_waits hy hu p _)) hkill⟩
  rw [State.group, hg]
  exact hkill

end

/-! ### Keys -/

/-- A unit that some bytes touch holds one of them. -/
theorem exists_byte_of_mem_unitsOf {u a n k : Nat} (hu : 0 < u) (hk : k ∈ unitsOf u a n) : ∃ j, j < n ∧ k = (a + j) / u := by
  obtain ⟨hn, hlo, hhi⟩ := mem_unitsOf.1 hk
  have hhi' : k * u ≤ a + n - 1 := (Nat.le_div_iff_mul_le hu).1 hhi
  by_cases hka : k * u ≤ a
  · have hle : k ≤ a / u := (Nat.le_div_iff_mul_le hu).2 hka
    exact ⟨0, by omega, by rw [Nat.add_zero]; omega⟩
  · refine ⟨k * u - a, by omega, ?_⟩
    rw [show a + (k * u - a) = k * u by omega, Nat.mul_div_cancel _ hu]

/-- The bytes of a line have one record. -/
theorem lineRec_line (s : State) (a : Nat) : s.lineRec (128 * (a / 128)) = s.lineRec a := by
  have hhome : homeDie (128 * (a / 128)) = homeDie a := by
    unfold homeDie
    omega
  rw [State.lineRec, State.lineRec, hhome, show 128 * (a / 128) / 128 = a / 128 by omega]

/-- Where no byte lies in a line with records, nothing is waited for. -/
theorem awaitLines_plain {s : State} {a n : Nat} (h : ∀ j, j < n → s.lineRec (a + j) = none) : s.awaitLines a n = s := by
  have hnone : s.regionsOn a n = [] := by
    rw [State.regionsOn, List.filterMap_eq_nil_iff.2 fun k hk => ?_]
    · rfl
    · obtain ⟨j, hj, rfl⟩ := exists_byte_of_mem_unitsOf (by decide) hk
      rw [lineRec_line, h j hj]
      rfl
  rw [State.awaitLines, hnone]
  rfl

theorem Beside.leaseKey {s t : State} (h : Beside s t) : t.leaseKey = s.leaseKey := by
  rw [State.leaseKey, State.drawnKey, show t.sexton = t.aside.sexton from rfl, h.rest]
  rfl

section
variable {s : State} {l : Latch} {r : LRef} {k : Nat} (h : OnComplex s l r k) {d a : Reg} (hb : GoodBlock s l r d a)
  (hw : PrivWord l d a)
include h hb hw

theorem keyLoad_badSlot (hx : (blockWord s l r a 0).val.toNat = 0 ∨ 64 ≤ (blockWord s l r a 0).val.toNat) :
    Answers .privKeyLoad s l r d a s (Claims.refusal 1) [] := by
  refine answers_of_privRun h hb hw (i := .privKeyLoad) (reads := [0, 1, 2, 3]) (show execPrivKeyLoad s = privRun s _ _ from rfl)
    (by decide) ?_ h.alone.plain
  dsimp only
  rw [if_pos hx]
  rfl

theorem keyLoad_held (h0 : 0 < (blockWord s l r a 0).val.toNat) (h64 : (blockWord s l r a 0).val.toNat < 64)
    (hkey : (tget (blockWord s l r a 0).val.toNat s.keys).isSome = true) :
    Answers .privKeyLoad s l r d a s (Claims.refusal 2) [] := by
  refine answers_of_privRun h hb hw (i := .privKeyLoad) (reads := [0, 1, 2, 3]) (show execPrivKeyLoad s = privRun s _ _ from rfl)
    (by decide) ?_ h.alone.plain
  dsimp only
  rw [if_neg (by omega), if_pos hkey]
  rfl

theorem keyLoad_outside (h0 : 0 < (blockWord s l r a 0).val.toNat) (h64 : (blockWord s l r a 0).val.toNat < 64)
    (hkey : tget (blockWord s l r a 0).val.toNat s.keys = none) (hat : 2 ^ 39 < blockAddr s l r a 1 + 64) :
    Answers .privKeyLoad s l r d a s (Claims.refusal 1) [] := by
  refine answers_of_privRun h hb hw (i := .privKeyLoad) (reads := [0, 1, 2, 3]) (show execPrivKeyLoad s = privRun s _ _ from rfl)
    (by decide) ?_ h.alone.plain
  dsimp only
  simp only [show longAt (fun i => (blockWord s l r a i).val) 1 = blockAddr s l r a 1 from rfl]
  rw [if_neg (by omega), if_neg (by rw [hkey]; decide), if_pos (show hbmSize < _ from hat)]
  rfl

theorem keyLoad_answers (h0 : 0 < (blockWord s l r a 0).val.toNat) (h64 : (blockWord s l r a 0).val.toNat < 64)
    (hkey : tget (blockWord s l r a 0).val.toNat s.keys = none) (hat : blockAddr s l r a 1 + 64 ≤ 2 ^ 39) (hlease : s.leaseLost = false) :
    Answers .privKeyLoad s l r d a
      { (s.awaitLines (blockAddr s l r a 1) 64).outsideWrite s.leaseKey (blockAddr s l r a 1) (List.replicate 64 0) with
        keys := tput (blockWord s l r a 0).val.toNat
          (3 * leNat ((s.awaitLines (blockAddr s l r a 1) 64).hbmBytes s.leaseKey (blockAddr s l r a 1) 64) + 1)
          ((s.awaitLines (blockAddr s l r a 1) 64).outsideWrite s.leaseKey (blockAddr s l r a 1) (List.replicate 64 0)).keys } 0 [] := by
  have hawait := beside_awaitLines s (blockAddr s l r a 1) 64
  refine answers_of_privRun h hb hw (i := .privKeyLoad) (reads := [0, 1, 2, 3]) (show execPrivKeyLoad s = privRun s _ _ from rfl)
    (by decide) ?_ ?_
  · dsimp only
    simp only [show longAt (fun i => (blockWord s l r a i).val) 1 = blockAddr s l r a 1 from rfl]
    rw [if_neg (by omega), if_neg (by rw [hkey]; decide), if_neg (show ¬ hbmSize < _ from not_lt.2 hat), if_neg (by rw [hlease]; decide),
      hawait.leaseKey]
    rfl
  · exact ((hawait.trans (beside_outsideWrite ..)).taskKill r.1).trans h.alone.plain

theorem keyDestroy_badSlot (hx : 64 ≤ (blockWord s l r a 0).val.toNat) : Answers .privKeyDestroy s l r d a s (Claims.refusal 1) [] := by
  refine answers_of_privRun h hb hw (i := .privKeyDestroy) (reads := [0, 3]) (show execPrivKeyDestroy s = privRun s _ _ from rfl)
    (by decide) ?_ h.alone.plain
  dsimp only
  rw [if_pos hx]
  rfl

theorem keyDestroy_named (hx : (blockWord s l r a 0).val.toNat < 64) (hnamed : (∃ y ∈ s.asids, y.2.live = true ∧
    y.2.key = (blockWord s l r a 0).val.toNat) ∨ s.aperSlot.toNat = (blockWord s l r a 0).val.toNat) :
    Answers .privKeyDestroy s l r d a s (Claims.refusal 2) [] := by
  refine answers_of_privRun h hb hw (i := .privKeyDestroy) (reads := [0, 3]) (show execPrivKeyDestroy s = privRun s _ _ from rfl)
    (by decide) ?_ h.alone.plain
  dsimp only
  rw [if_neg (by omega), if_pos (by simpa only [List.any_eq_true, Bool.and_eq_true, beq_iff_eq] using hnamed)]
  rfl

theorem keyDestroy_answers (hx : (blockWord s l r a 0).val.toNat < 64) (hnamed : ¬ ((∃ y ∈ s.asids, y.2.live = true ∧
    y.2.key = (blockWord s l r a 0).val.toNat) ∨ s.aperSlot.toNat = (blockWord s l r a 0).val.toNat)) :
    Answers .privKeyDestroy s l r d a (match s.keyOf (blockWord s l r a 0).val.toNat with
      | none => s
      | some key => { s.loseLines key with
        keys := tdel (blockWord s l r a 0).val.toNat s.keys, leaseLost := s.leaseLost || (blockWord s l r a 0).val.toNat == 0 }) 0 [] := by
  refine answers_of_privRun h hb hw (i := .privKeyDestroy) (reads := [0, 3]) (show execPrivKeyDestroy s = privRun s _ _ from rfl)
    (by decide) ?_ ?_
  · dsimp only
    rw [if_neg (by omega), if_neg (by simpa only [List.any_eq_true, Bool.and_eq_true, beq_iff_eq] using hnamed)]
    cases s.keyOf (blockWord s l r a 0).val.toNat <;> rfl
  · cases s.keyOf (blockWord s l r a 0).val.toNat with
    | none => exact h.alone.plain
    | some key => exact h.alone.plain

end

/-! ### The crash of the complex over an empty slot 0 -/

/-- The complex and the fault records stand. -/
structure KeepsBlame (s t : State) : Prop where
  complex : t.complex = s.complex
  faults : ∀ d, (t.die d).faults = (s.die d).faults
  lease : t.leaseLost = s.leaseLost

theorem KeepsBlame.refl (s : State) : KeepsBlame s s := ⟨rfl, fun _ => rfl, rfl⟩

theorem KeepsBlame.trans {s t u : State} (h : KeepsBlame s t) (k : KeepsBlame t u) : KeepsBlame s u :=
  ⟨k.complex.trans h.complex, fun d => (k.faults d).trans (h.faults d), k.lease.trans h.lease⟩

theorem Beside.keepsBlame {s t : State} (h : Beside s t) : KeepsBlame s t where
  complex := by rw [show t.complex = t.aside.complex from rfl, h.rest]; rfl
  faults d := by rw [show (t.die d).faults = { t.die d with dir := [] }.faults from rfl, h.dies]
  lease := by rw [show t.leaseLost = t.aside.leaseLost from rfl, h.rest]; rfl

theorem keepsBlame_foldl {β : Type} {f : State → β → State} (hf : ∀ (s : State) b, KeepsBlame s (f s b)) (ls : List β) (s : State) :
    KeepsBlame s (ls.foldl f s) := foldl_related KeepsBlame KeepsBlame.refl (fun h k => h.trans k) f hf ls s

theorem keepsBlame_event (s : State) (kind : Byte) (w2 w3 : Word) : KeepsBlame s (s.event kind w2 w3) := by
  unfold State.event State.offer
  split
  · exact ⟨rfl, fun _ => rfl, rfl⟩
  · exact ⟨rfl, fun _ => rfl, rfl⟩

theorem keepsBlame_freeze (s : State) (ctx : Nat) : KeepsBlame s (s.freeze ctx) := by
  have hstop : KeepsBlame s (s.stopLanes ctx) := ⟨rfl, fun _ => rfl, rfl⟩
  have hrows : KeepsBlame (s.stopLanes ctx) ((s.stopLanes ctx).keepRows ctx) := by
    unfold State.keepRows
    split
    · exact ⟨rfl, fun _ => rfl, rfl⟩
    · exact .refl _
  have hpay : ∀ t : State, KeepsBlame t (t.payOwed ctx) := fun t =>
    (keepsBlame_foldl (fun s op => keepsBlame_event s _ _ _) (t.ctx ctx).owed t).trans ⟨rfl, fun _ => rfl, rfl⟩
  have howed := (hstop.trans hrows).trans (hpay _)
  have hclose : ∀ (t : State) f, KeepsBlame t (t.modCtx ctx f) := fun _ _ => ⟨rfl, fun _ => rfl, rfl⟩
  have hsaved : KeepsBlame s (if (s.ctx ctx).toSave then (((s.stopLanes ctx).keepRows ctx).payOwed ctx).opFinished ctx 3
      else ((s.stopLanes ctx).keepRows ctx).payOwed ctx) := by
    split
    · exact howed.trans (keepsBlame_event ..)
    · exact howed
  unfold State.freeze
  dsimp only
  split
  · exact (hsaved.trans (keepsBlame_event ..)).trans (hclose _ _)
  · exact hsaved.trans (hclose _ _)

theorem keepsBlame_freezeAll (s : State) : KeepsBlame s s.freezeAll := by
  unfold State.freezeAll
  refine keepsBlame_foldl (fun s x => ?_) _ s
  split
  · exact .refl s
  · exact keepsBlame_freeze s x.1

theorem keepsBlame_requeue (s : State) (evs : List EventRec) : KeepsBlame s (s.requeue evs) := by
  unfold State.requeue
  refine (keepsBlame_foldl (fun s e => ?_) evs s).trans ⟨rfl, fun _ => rfl, rfl⟩
  split
  · exact ⟨rfl, fun _ => rfl, rfl⟩
  · exact .refl s

theorem keepsBlame_killPoint (s : State) (gid : Nat) : KeepsBlame s (s.killPoint gid) := by
  unfold State.killPoint
  dsimp only
  split
  · split
    · split
      · exact .refl s
      · exact ⟨rfl, fun _ => rfl, rfl⟩
    · exact (beside_commitSpec s gid).keepsBlame
  · exact (beside_commitSpec s gid).keepsBlame
  · exact .refl s

theorem keepsBlame_blockingPoint (s : State) (ls : List LRef) : KeepsBlame s (s.blockingPoint ls) := by
  unfold State.blockingPoint
  refine keepsBlame_foldl (fun s gid => ?_) _ s
  split
  · exact keepsBlame_killPoint s gid
  · exact .refl s

/-- With slot 0 empty no firmware is read, and the crash path notes its cause (R365, R370). -/
theorem crash_lost {s : State} (hlost : s.leaseLost = true) (cause : Byte) :
    (s.crash cause).complex.cause = cause ∧ (s.crash cause).complex.warm = true ∧
      ∀ d, ((s.crash cause).die d).faults = (s.die d).faults := by
  have hkept := (keepsBlame_freezeAll s).trans (keepsBlame_requeue s.freezeAll (s.freezeAll.kcores.filterMap fun x => x.2.event))
  have hserve : ∀ t : State, t.leaseLost = true → ∀ a, t.canServe a = false := by
    intro t ht a
    rw [State.canServe, State.firmware]
    dsimp only
    rw [if_pos (.inl ht)]
    rfl
  unfold State.crash
  dsimp only
  rw [hserve _ (hkept.lease.trans hlost)]
  exact ⟨rfl, rfl, fun d => hkept.faults d⟩

/-- The record of a read of the complex with slot 0 empty. -/
def fatalOf (a : Nat) : FaultRec := { va := a, asid := 0, core := 0xFF, reason := 8, level := 7, kind := .read, fatal := true }

/-- A fatal fault of the complex stands in its die's queue, in the record that it joins or in a new one (R321, R370). -/
theorem complexFault_stands {s : State} {a : Nat} (hfree : (freeIndex (s.die (homeDie a)).faults).isSome = true) :
    ∃ t i f, s.complexFault a .read = (t, some i) ∧ t.groups = s.groups ∧ t.leaseLost = s.leaseLost ∧
      tget i (t.die (homeDie a)).faults = some f ∧ f.fatal = true ∧ f.va / 4096 = a / 4096 ∧
      ((∀ q ∈ (s.die (homeDie a)).faults, q.2.joins 0 a .read true = false) → f.va = a ∧ f.reason = 8) := by
  unfold State.complexFault State.fault
  dsimp only
  cases hjoin : (s.die (homeDie a)).faults.find? fun e => e.2.joins 0 a .read true with
  | some e =>
    have hjoins := List.find?_some hjoin
    have hmem := List.mem_of_find?_eq_some hjoin
    have hparts := hjoins
    simp only [FaultRec.joins, Bool.and_eq_true, beq_iff_eq] at hparts
    obtain ⟨⟨⟨-, hpage⟩, -⟩, hfatal⟩ := hparts
    refine ⟨_, e.1, e.2, rfl, rfl, rfl, by simp [die_modDie_self, tget_tput_self], hfatal, hpage, fun hnone => ?_⟩
    rw [hnone e hmem] at hjoins
    cases hjoins
  | none =>
    obtain ⟨i, hi⟩ := Option.isSome_iff_exists.1 hfree
    rw [hi]
    have hevent := keepsBlame_event (s.modDie (homeDie a) fun d => { d with faults := tput i (fatalOf a) d.faults }) 0x05
        (BitVec.ofNat 32 (homeDie a * 2 ^ 16 + i)) (BitVec.ofNat 32 0)
    refine ⟨_, i, _, rfl, ?_, hevent.lease, (congrArg (tget i) (hevent.faults _)).trans (by rw [die_modDie_self, tget_tput_self]),
      rfl, rfl, fun _ => ⟨rfl, rfl⟩⟩
    unfold State.event State.offer
    split <;> rfl

section
variable {s : State} {l : Latch} {r : LRef} {k : Nat} (h : OnComplex s l r k) {d a : Reg} (hb : GoodBlock s l r d a)
  (hw : PrivWord l d a)
include h hb hw

/-- A trap on a Kolesque core is the crash of the complex (R365). -/
theorem crash_of_privRun {i : Instr} {reads : List Nat} {f : State → (Nat → Word) → Done}
    (hi : exec i s = privRun s reads f) (hreads : ∀ i ∈ reads, i < 4) {t : State} {cause : Byte} {x : DWord}
    (hf : f s (fun i => (blockWord s l r a i).val) = .trap t cause x) (ht : t.groups = s.groups) :
    exec i s = .next ((t.crash cause).parkedPoint l.lanes) := by
  have hreal : (t.lane r).helper = false := by
    rw [State.lane, State.group, ht]
    exact h.alone.real
  rw [hi, privRun, privFields_issued h hw]
  dsimp only
  rw [complexOp_gives h hb hreads, hf]
  dsimp only
  rw [Work.strikeAt, h.alone.strike_work hreal]
  simp only [List.map_cons, List.map_nil, beq_self_eq_true, Bool.and_self, if_true, Work.finish, Work.advance, List.append_nil,
    List.filter_nil, List.foldl_nil, Work.done, Work.settleTraps, h.agent]
  rfl

theorem keyLoad_crashes (h0 : 0 < (blockWord s l r a 0).val.toNat) (h64 : (blockWord s l r a 0).val.toNat < 64)
    (hkey : tget (blockWord s l r a 0).val.toNat s.keys = none) (hat : blockAddr s l r a 1 + 64 ≤ 2 ^ 39) (hlease : s.leaseLost = true)
    (hfree : (freeIndex (s.die (homeDie (blockAddr s l r a 1))).faults).isSome = true) :
    ∃ t, exec .privKeyLoad s = .next t ∧ t.complex.cause = 9 ∧ t.complex.warm = true ∧
      ∃ i f, tget i (t.die (homeDie (blockAddr s l r a 1))).faults = some f ∧ f.fatal = true ∧
        f.va / 4096 = blockAddr s l r a 1 / 4096 ∧
        ((∀ q ∈ (s.die (homeDie (blockAddr s l r a 1))).faults, q.2.joins 0 (blockAddr s l r a 1) .read true = false) →
          f.va = blockAddr s l r a 1 ∧ f.reason = 8) := by
  obtain ⟨t, i, f, hfault, hgroups, hlost, hf⟩ := complexFault_stands hfree
  have hpoint := keepsBlame_blockingPoint (t.crash 9) (l.lanes.filter fun q => ((t.crash 9).lane q).atBlocking && !((t.crash 9).lane q).halted)
  obtain ⟨hcause, hwarm, hfaults⟩ := crash_lost (hlost.trans hlease) 9
  refine ⟨(t.crash 9).parkedPoint l.lanes, crash_of_privRun h hb hw (i := .privKeyLoad) (reads := [0, 1, 2, 3])
    (show execPrivKeyLoad s = privRun s _ _ from rfl) (by decide) (x := BitVec.ofNat 64 (blockAddr s l r a 1)) ?_ hgroups, ?_, ?_, i, f, ?_⟩
  · dsimp only
    simp only [show longAt (fun i => (blockWord s l r a i).val) 1 = blockAddr s l r a 1 from rfl]
    rw [if_neg (by omega), if_neg (by rw [hkey]; decide), if_neg (show ¬ hbmSize < _ from not_lt.2 hat), if_pos hlease, hfault]
  · exact (congrArg Complex.cause hpoint.complex).trans hcause
  · exact (congrArg Complex.warm hpoint.complex).trans hwarm
  · rw [show ((t.crash 9).parkedPoint l.lanes).die (homeDie (blockAddr s l r a 1)) = _ from rfl]
    have hsame := (hpoint.faults (homeDie (blockAddr s l r a 1))).trans (hfaults _)
    exact ⟨(congrArg (tget i) hsame).trans hf.1, hf.2⟩

theorem keyLoad_waits (h0 : 0 < (blockWord s l r a 0).val.toNat) (h64 : (blockWord s l r a 0).val.toNat < 64)
    (hkey : tget (blockWord s l r a 0).val.toNat s.keys = none) (hat : blockAddr s l r a 1 + 64 ≤ 2 ^ 39) (hlease : s.leaseLost = true)
    (hfull : freeIndex (s.die (homeDie (blockAddr s l r a 1))).faults = none)
    (hnone : ∀ q ∈ (s.die (homeDie (blockAddr s l r a 1))).faults, q.2.joins 0 (blockAddr s l r a 1) .read true = false) :
    exec .privKeyLoad s = .next (heldBack r s) := by
  refine heldBack_of_privRun h hb hw (i := .privKeyLoad) (reads := [0, 1, 2, 3]) (show execPrivKeyLoad s = privRun s _ _ from rfl)
    (by decide) ?_ h.alone.plain
  dsimp only
  simp only [show longAt (fun i => (blockWord s l r a i).val) 1 = blockAddr s l r a 1 from rfl]
  rw [if_neg (by omega), if_neg (by rw [hkey]; decide), if_neg (show ¬ hbmSize < _ from not_lt.2 hat), if_pos hlease, State.complexFault,
    fault_full (List.find?_eq_none.2 fun q hq => by rw [hnone q hq]; decide) hfull]

end

/-! ### Translation -/

theorem permits_eq (y : TlbEntry) (kind : Kind) : permits y kind = !lacks kind y.rd y.w y.x := by
  cases kind <;> simp [permits, lacks]

theorem grants_iff (e : Nat) (kind : Kind) : grants e kind ↔ lacks kind (mbit e 2) (mbit e 3) (mbit e 4) = false := by
  cases kind <;> simp [grants, lacks, mbit]

theorem leafBytes_eq (e : Nat) {lvl : Nat} (h : lvl ≤ 2) : leafSize lvl (mbit e 7) = leafBytes e lvl := by
  have hcases : lvl = 0 ∨ lvl = 1 ∨ lvl = 2 := by omega
  rcases hcases with rfl | rfl | rfl
  · simp [leafSize, leafBytes, mbit]
  · rfl
  · simp [leafSize, leafBytes, mbit]

section
variable (s : State) (asid u : Nat) (kind : Kind)

theorem walk_dead (h : (s.asid asid).live = false) : ∃ n, s.walk asid u kind = .fatal n 4 := by
  rw [State.walk, h]
  exact ⟨_, rfl⟩

theorem walk_live (h : (s.asid asid).live = true) (hl : s.leaseLost = false) :
    s.walk asid u kind = walkFrom s asid u kind 5 (s.asid asid).root := by
  rw [State.walk, h, hl]
  rfl

/-- The entry that a walk reads at a level. -/
def State.entryAt (s : State) (u lvl pa : Nat) : Nat := leNat (s.hbmBytes s.leaseKey (pa + 8 * vaIndex u lvl) 8)

/-- What a valid entry without stray bits gives. -/
def State.leafOrTable (s : State) (asid u : Nat) (kind : Kind) (lvl e : Nat) : Walked :=
  if !mbit e 1 then
    if lvl = 0 then .fatal 3 lvl
    else if !s.isHere (e / 2 ^ 56) then .fatal 4 lvl
    else walkFrom s asid u kind lvl (e / 2 ^ 12 % 2 ^ 40 * 2 ^ 12)
  else if 2 < lvl then .fatal 3 lvl
  else if lvl = 1 ∧ mbit e 7 then .fatal 2 lvl
  else if !s.isHere (e / 2 ^ 56) ∧ ¬ s.routes.contains (e / 2 ^ 56) then .fatal 2 lvl
  else if e / 2 ^ 12 % 2 ^ 40 * 2 ^ 12 % leafSize lvl false ≠ 0 then .fatal 5 lvl
  else
    let size := leafSize lvl (mbit e 7)
    let base := e / 2 ^ 12 % 2 ^ 40 * 2 ^ 12 / size * size
    if lacks kind (mbit e 2) (mbit e 3) (mbit e 4) then .recoverable 6 lvl
    else if s.isHere (e / 2 ^ 56) ∧ hbmSize < base + size then .fatal 7 lvl
    else .ok { asid := asid, va := u / size * size, size := size, dev := if s.isHere (e / 2 ^ 56) then 0xFF else e / 2 ^ 56,
               pa := base, rd := mbit e 2, w := mbit e 3, x := mbit e 4, pol := e / 2 ^ 8 % 4 }

theorem walkFrom_succ (lvl pa : Nat) : walkFrom s asid u kind (lvl + 1) pa =
    if hbmSize ≤ pa + 8 * vaIndex u lvl then .fatal 7 lvl
    else if s.hbmPoison (pa + 8 * vaIndex u lvl) 8 then .fatal 1 lvl
    else if !mbit (s.entryAt u lvl pa) 0 then .recoverable 0 lvl
    else if s.entryAt u lvl pa / 2 ^ 52 % 16 ≠ 0 ∨ s.entryAt u lvl pa / 2 ^ 10 % 4 ≠ 0 ∨ s.entryAt u lvl pa / 2 ^ 5 % 4 ≠ 0 ∨
        (192 ≤ s.entryAt u lvl pa / 2 ^ 56 ∧ s.entryAt u lvl pa / 2 ^ 56 ≤ 254) ∨
        (¬ mbit (s.entryAt u lvl pa) 1 ∧ (s.entryAt u lvl pa / 2 ^ 2 % 8 ≠ 0 ∨ mbit (s.entryAt u lvl pa) 7 ∨
          s.entryAt u lvl pa / 2 ^ 8 % 4 ≠ 0)) then .fatal 2 lvl
    else s.leafOrTable asid u kind lvl (s.entryAt u lvl pa) := rfl

theorem mbit_iff (e i : Nat) : mbit e i = true ↔ e / 2 ^ i % 2 = 1 := by rw [mbit, beq_iff_eq]

theorem isHere_iff (dev : Nat) : s.isHere dev = true ↔ dev = 0xFF ∨ dev = s.domid.toNat := by
  rw [State.isHere, Bool.or_eq_true, beq_iff_eq, beq_iff_eq]

/-- The bits that no valid entry holds, as the walk tests them, are those of the table but for a leaf at level 1. -/
theorem strayBits_iff (e lvl : Nat) : strayBits e lvl ↔
    (e / 2 ^ 52 % 16 ≠ 0 ∨ e / 2 ^ 10 % 4 ≠ 0 ∨ e / 2 ^ 5 % 4 ≠ 0 ∨ (192 ≤ e / 2 ^ 56 ∧ e / 2 ^ 56 ≤ 254) ∨
      (¬ mbit e 1 ∧ (e / 2 ^ 2 % 8 ≠ 0 ∨ mbit e 7 ∨ e / 2 ^ 8 % 4 ≠ 0))) ∨ (mbit e 1 = true ∧ lvl = 1 ∧ mbit e 7 = true) := by
  have hbits : e / 2 ^ 7 % 8 ≠ 0 ∨ e / 2 ^ 2 % 8 ≠ 0 ↔ e / 2 ^ 2 % 8 ≠ 0 ∨ e / 2 ^ 7 % 2 = 1 ∨ e / 2 ^ 8 % 4 ≠ 0 := by omega
  have hlow : ¬ e / 2 % 2 = 1 ↔ e / 2 % 2 = 0 := by omega
  have hone : e / 2 ^ 1 % 2 = 1 ↔ e / 2 % 2 = 1 := by omega
  simp only [strayBits, mbit_iff, hbits, hlow, hone, or_assoc]

section
variable {s asid u kind} {lvl pa : Nat} (hplace : pa + 8 * vaIndex u lvl < hbmSize) (hclean : s.hbmPoison (pa + 8 * vaIndex u lvl) 8 = false)
include hplace hclean

theorem walk_absent (hv : s.entryAt u lvl pa % 2 = 0) : walkFrom s asid u kind (lvl + 1) pa = .recoverable 0 lvl := by
  rw [walkFrom_succ, if_neg (by omega), if_neg (by rw [hclean]; decide), if_pos]
  rw [Bool.not_eq_true', ← Bool.not_eq_true, mbit_iff]
  omega

/-- A valid entry with stray bits is fatal, and any other is a leaf or a table. -/
theorem walk_valid (hv : s.entryAt u lvl pa % 2 = 1) : (strayBits (s.entryAt u lvl pa) lvl →
      walkFrom s asid u kind (lvl + 1) pa = .fatal 2 lvl) ∧
    (¬ strayBits (s.entryAt u lvl pa) lvl → walkFrom s asid u kind (lvl + 1) pa = s.leafOrTable asid u kind lvl (s.entryAt u lvl pa)) := by
  have hvalid : ¬ (!mbit (s.entryAt u lvl pa) 0) = true := by
    rw [Bool.not_eq_true', Bool.not_eq_false, mbit_iff]
    omega
  rw [walkFrom_succ, if_neg (by omega), if_neg (by rw [hclean]; decide), if_neg hvalid, strayBits_iff]
  generalize s.entryAt u lvl pa = e
  refine ⟨fun hstray => ?_, fun hstray => if_neg fun h => hstray (.inl h)⟩
  rcases hstray with hstray | ⟨hleaf, hlvl, hcont⟩
  · exact if_pos hstray
  · split
    · rfl
    · rw [State.leafOrTable, if_neg (by rw [hleaf]; decide), if_neg (by omega), if_pos ⟨hlvl, hcont⟩]

end

section
variable {s asid u kind} {lvl e : Nat}

theorem leafOrTable_table (hl : e / 2 % 2 = 0) : (lvl = 0 → s.leafOrTable asid u kind lvl e = .fatal 3 0) ∧
    (0 < lvl → ¬ (e / 2 ^ 56 = 0xFF ∨ e / 2 ^ 56 = s.domid.toNat) → s.leafOrTable asid u kind lvl e = .fatal 4 lvl) ∧
    (0 < lvl → (e / 2 ^ 56 = 0xFF ∨ e / 2 ^ 56 = s.domid.toNat) →
      s.leafOrTable asid u kind lvl e = walkFrom s asid u kind lvl (e / 2 ^ 12 % 2 ^ 40 * 4096)) := by
  have htable : (!mbit e 1) = true := by
    rw [Bool.not_eq_true', ← Bool.not_eq_true, mbit_iff]
    omega
  rw [State.leafOrTable, if_pos htable, ← isHere_iff]
  refine ⟨fun h => by rw [if_pos h, h], fun h hd => ?_, fun h hd => ?_⟩
  · rw [if_neg (by omega), if_pos (by simpa using hd)]
  · rw [if_neg (by omega), if_neg (by simpa using hd)]
    rfl

theorem leafOrTable_high (hl : e / 2 % 2 = 1) (h : 2 < lvl) : s.leafOrTable asid u kind lvl e = .fatal 3 lvl := by
  rw [State.leafOrTable, if_neg (by rw [Bool.not_eq_true', Bool.not_eq_false, mbit_iff]; omega), if_pos h]

theorem leafOrTable_unrouted (hl : e / 2 % 2 = 1) (h : lvl ≤ 2) (hd : ¬ (e / 2 ^ 56 = 0xFF ∨ e / 2 ^ 56 = s.domid.toNat))
    (hr : e / 2 ^ 56 ∉ s.routes) : s.leafOrTable asid u kind lvl e = .fatal 2 lvl := by
  rw [State.leafOrTable, if_neg (by rw [Bool.not_eq_true', Bool.not_eq_false, mbit_iff]; omega), if_neg (by omega)]
  split
  · rfl
  · rw [if_pos]
    rw [← isHere_iff] at hd
    exact ⟨by simpa using hd, by simpa using hr⟩

theorem leafOrTable_leaf (hl : e / 2 % 2 = 1) (h : lvl ≤ 2) (hstray : ¬ strayBits e lvl)
    (hd : (e / 2 ^ 56 = 0xFF ∨ e / 2 ^ 56 = s.domid.toNat) ∨ e / 2 ^ 56 ∈ s.routes) : s.leafOrTable asid u kind lvl e =
    if e / 2 ^ 12 % 2 ^ 40 * 4096 % leafSize lvl false ≠ 0 then .fatal 5 lvl
    else if lacks kind (mbit e 2) (mbit e 3) (mbit e 4) then .recoverable 6 lvl
    else if s.isHere (e / 2 ^ 56) ∧ 2 ^ 39 < e / 2 ^ 12 % 2 ^ 40 * 4096 / leafBytes e lvl * leafBytes e lvl + leafBytes e lvl then .fatal 7 lvl
    else .ok { asid := asid, va := u / leafBytes e lvl * leafBytes e lvl, size := leafBytes e lvl,
               dev := if s.isHere (e / 2 ^ 56) then 0xFF else e / 2 ^ 56
               pa := e / 2 ^ 12 % 2 ^ 40 * 4096 / leafBytes e lvl * leafBytes e lvl
               rd := mbit e 2, w := mbit e 3, x := mbit e 4, pol := e / 2 ^ 8 % 4 } := by
  have hleaf : mbit e 1 = true := by
    rw [mbit_iff]
    omega
  have hone : ¬ (lvl = 1 ∧ mbit e 7 = true) := fun hc => hstray ((strayBits_iff e lvl).2 (.inr ⟨hleaf, hc⟩))
  rw [State.leafOrTable, if_neg (by rw [hleaf]; decide), if_neg (by omega), if_neg hone, if_neg, leafBytes_eq e h]
  · rfl
  · rw [← isHere_iff] at hd
    rintro ⟨hno, hroute⟩
    rcases hd with hd | hd
    · rw [hd] at hno; cases hno
    · exact hroute (by simpa using hd)

end

end

section
variable (s : State) (core die asid u : Nat) (kind : Kind)

theorem covering_eq : (fun y : TlbEntry => y.covers asid u && permits y kind) =
    fun y => y.covers asid u && !lacks kind y.rd y.w y.x := funext fun y => by rw [permits_eq]

/-- The TLBs of other cores and dies stand. -/
theorem translate_elsewhere : (∀ c, c ≠ core → (s.translate (some core) die asid u kind).1.core c = s.core c) ∧
    ∀ d, d ≠ die → (s.translate (some core) die asid u kind).1.die d = s.die d := by
  have hholding : ∀ e, (∀ c, c ≠ core → (s.holding (some core) die e).core c = s.core c) ∧
      ∀ d, d ≠ die → (s.holding (some core) die e).die d = s.die d :=
    fun e => ⟨fun c hc => core_modCore_ne _ hc _, fun d hd =>
      die_modDie_ne s hd fun x => { x with tlb := e :: x.tlb.take 8191 }⟩
  rw [translate_eq]
  cases (s.entriesFor (some core) die).find? fun e => e.covers asid u && !lacks kind e.rd e.w e.x with
  | some e => exact ⟨fun _ _ => rfl, fun _ _ => rfl⟩
  | none =>
    cases s.walk asid u kind with
    | ok e => exact hholding e
    | recoverable => exact ⟨fun _ _ => rfl, fun _ _ => rfl⟩
    | fatal => exact ⟨fun _ _ => rfl, fun _ _ => rfl⟩

theorem translate_held {y : TlbEntry}
    (hy : ((s.core core).tlb ++ (s.die die).tlb).find? (fun y => y.covers asid u && permits y kind) = some y) :
    s.translate (some core) die asid u kind = (s, .ok y) := by
  rw [covering_eq] at hy
  rw [translate_eq, show s.entriesFor (some core) die = (s.core core).tlb ++ (s.die die).tlb from rfl, hy]

theorem translate_walked (hnone : ∀ y ∈ (s.core core).tlb ++ (s.die die).tlb, y.covers asid u = true → permits y kind = false) :
    (s.translate (some core) die asid u kind).2 = s.walk asid u kind ∧
    (∀ y, s.walk asid u kind = .ok y →
      ((s.translate (some core) die asid u kind).1.core core).tlb = y :: (s.core core).tlb.take 63 ∧
      ((s.translate (some core) die asid u kind).1.die die).tlb = y :: (s.die die).tlb.take 8191) ∧
    ((∀ y, s.walk asid u kind ≠ .ok y) → (s.translate (some core) die asid u kind).1 = s) := by
  have hfind : ((s.core core).tlb ++ (s.die die).tlb).find? (fun y => y.covers asid u && permits y kind) = none :=
    List.find?_eq_none.2 fun y hy => by
      rw [Bool.and_eq_true]
      exact fun hboth => by rw [hnone y hy hboth.1] at hboth; exact absurd hboth.2 (by decide)
  rw [covering_eq] at hfind
  rw [translate_eq, show s.entriesFor (some core) die = (s.core core).tlb ++ (s.die die).tlb from rfl, hfind]
  refine ⟨rfl, fun y hy => ?_, fun hno => ?_⟩
  · rw [hy]
    dsimp only [State.holding]
    rw [core_modCore_self]
    exact ⟨rfl, congrArg Die.tlb (die_modDie_self s die fun x => { x with tlb := y :: x.tlb.take 8191 })⟩
  · cases hw : s.walk asid u kind with
    | ok y => exact absurd hw (hno y)
    | recoverable => rfl
    | fatal => rfl

end

/-- A translation with an entry gives its place, where the slot of the identifier holds a key. -/
theorem locate_of_translate {s t : State} {core : Option Nat} {die asid u : Nat} {kind : Kind} {y : TlbEntry} (hu : u < 2 ^ 56)
    (htr : s.translate core die asid u kind = (t, .ok y)) :
    (t.keyOf (t.asid asid).key = none → s.locate core die asid u kind = (t, .error (true, 8, y.level))) ∧
    ∀ key, t.keyOf (t.asid asid).key = some key → s.locate core die asid u kind = (t, .ok (entryPlace y key u)) := by
  rw [State.locate, if_neg (by omega), htr]
  refine ⟨fun hkey => ?_, fun key hkey => ?_⟩
  · dsimp only
    rw [hkey]
  · dsimp only
    rw [hkey]
    rfl

/-- The identifier entry of a block's words (Table 19.3). -/
def asidOf (w : Nat → Word) : Asid :=
  { live := (w 3).getLsbD 31, key := field (w 3) 0 6, root := field (w 2) 0 20 * 2 ^ 32 + field (w 1) 12 20 * 2 ^ 12 }

theorem asidOf_eq (w : Nat → Word) : asidOf w =
    { live := decide ((w 3).toNat / 2 ^ 31 = 1)
      key := (w 3).toNat % 64
      root := (w 2).toNat % 2 ^ 20 * 2 ^ 32 + (w 1).toNat / 4096 * 4096 } := by
  have hlive : (w 3).getLsbD 31 = decide ((w 3).toNat / 2 ^ 31 = 1) := by
    rw [Bool.eq_iff_iff, decide_eq_true_eq, BitVec.getLsbD, Nat.testBit_eq_decide_div_mod_eq, decide_eq_true_eq]
    have := (w 3).isLt
    omega
  have hkey : field (w 3) 0 6 = (w 3).toNat % 64 := by
    rw [field]
    omega
  have hlow : field (w 2) 0 20 = (w 2).toNat % 2 ^ 20 := by
    rw [field, pow_zero, Nat.div_one]
  have hhigh : field (w 1) 12 20 * 2 ^ 12 = (w 1).toNat / 4096 * 4096 := by
    rw [field]
    have := (w 1).isLt
    omega
  rw [asidOf, hlive, hkey, hlow, hhigh]

section
variable {s : State} {l : Latch} {r : LRef} {k : Nat} (h : OnComplex s l r k) {d a : Reg} (hb : GoodBlock s l r d a)
  (hw : PrivWord l d a)
include h hb hw

theorem identifier_live (hx : (blockWord s l r a 0).val.toNat < 512) (hlive : (asidOf fun i => (blockWord s l r a i).val).live = true) :
    Answers .privIdentifierEntry s l r d a { s with
      asids := tput (blockWord s l r a 0).val.toNat (asidOf fun i => (blockWord s l r a i).val) s.asids } 0 [] := by
  refine answers_of_privRun h hb hw (i := .privIdentifierEntry) (reads := [0, 1, 2, 3])
    (show execPrivIdentifierEntry s = privRun s _ _ from rfl) (by decide) ?_ h.alone.plain
  dsimp only
  rw [if_neg (by omega)]
  exact if_pos hlive

theorem identifier_dead (hx : (blockWord s l r a 0).val.toNat < 512) (hlive : (asidOf fun i => (blockWord s l r a i).val).live = false) :
    ((∀ y, Pending s y → (y.asid == (blockWord s l r a 0).val.toNat) = false) → Answers .privIdentifierEntry s l r d a
      { dropped s (fun y => y.asid == (blockWord s l r a 0).val.toNat) with
        asids := tput (blockWord s l r a 0).val.toNat (asidOf fun i => (blockWord s l r a i).val) s.asids } 0 []) ∧
    (∀ y, Pending s y → (y.asid == (blockWord s l r a 0).val.toNat) = true → exec .privIdentifierEntry s =
      .next (heldBack r (dropped s fun y => y.asid == (blockWord s l r a 0).val.toNat))) := by
  refine clears_of_privRun h hb hw (i := .privIdentifierEntry) (reads := [0, 1, 2, 3])
    (g := fun t => { t with asids := tput (blockWord s l r a 0).val.toNat (asidOf fun i => (blockWord s l r a i).val) t.asids })
    (show execPrivIdentifierEntry s = privRun s _ _ from rfl) (by decide) ?_ rfl
  dsimp only
  rw [if_neg (by omega)]
  exact if_neg (fun hl => by rw [show (asidOf fun i => (blockWord s l r a i).val).live = true from hl] at hlive; cases hlive)

end

/-- What the loss of a key's lines leaves of the keys of sectors (R370). -/
theorem loseLines_sectors {s : State} {key : Nat} (hmod : key % 3 ≠ 2) :
    (s.baseKey ≠ key → (s.loseLines key).baseKey = s.baseKey) ∧ (s.loseLines key).baseKey ≠ key ∧
    (s.loseLines key).sectorKeys.map (·.1) = s.sectorKeys.map (·.1) ∧
    (∀ y ∈ (s.loseLines key).sectorKeys, y.2 = key → Config.lineKept s.steps (y.1 / 4) = true) ∧
    ∀ y ∈ s.sectorKeys, y.2 ≠ key ∨ Config.lineKept s.steps (y.1 / 4) = true → y ∈ (s.loseLines key).sectorKeys := by
  have hbase : (s.loseLines key).baseKey = if s.baseKey = key then 3 * s.nextId + 2 else s.baseKey := rfl
  have hsectors : (s.loseLines key).sectorKeys = s.sectorKeys.map fun x =>
    if x.2 == key && !Config.lineKept s.steps (x.1 / 4) then (x.1, 3 * s.nextId + 2) else x := rfl
  have hother : ∀ (x : Nat × Nat), (x.2 ≠ key ∨ Config.lineKept s.steps (x.1 / 4) = true) →
      (if x.2 == key && !Config.lineKept s.steps (x.1 / 4) then (x.1, 3 * s.nextId + 2) else x) = x :=
    fun x hx => if_neg (by simpa [imp_iff_not_or] using hx)
  rw [hbase, hsectors, List.map_map]
  refine ⟨fun hne => if_neg hne, ?_, List.map_congr_left fun x _ => ?_, fun y hy hkey => ?_, fun y hy hstay => ?_⟩
  · split
    · omega
    · next hne => exact hne
  · rw [Function.comp]
    split <;> rfl
  · obtain ⟨x, -, rfl⟩ := List.mem_map.1 hy
    by_cases hx : x.2 ≠ key ∨ Config.lineKept s.steps (x.1 / 4) = true
    · rw [hother x hx] at hkey ⊢
      exact hx.resolve_left fun hne => hne hkey
    · rw [if_pos (by simpa [not_or] using hx)] at hkey
      dsimp only at hkey
      omega
  · exact List.mem_map.2 ⟨y, hy, hother y hstay⟩

/-- Settles O55: the rows of priv 0 to 2 by what they give, and translation by its walk, level by level. -/
theorem translationAndKeyResults : Obligations.TranslationAndKeyResults := by
  refine ⟨fun s l r k d a h hb hw => ?_, fun s asid u kind => ⟨walk_dead s asid u kind, walk_live s asid u kind, fun lvl pa _ => ?_,
    fun core die => ?_⟩⟩
  · dsimp only
    have hentry := asidOf_eq fun i => (blockWord s l r a i).val
    refine ⟨fun hmode => ?_, fun hx => ?_, fun hx hva => ?_, fun hx => ⟨fun hlive => ?_, fun hlive => ?_⟩,
      ⟨keyLoad_badSlot h hb hw, fun h0 h64 => ⟨keyLoad_held h hb hw h0 h64, keyLoad_outside h hb hw h0 h64,
        fun hkey hat hlease => ⟨keyLoad_answers h hb hw h0 h64 hkey hat hlease, awaitLines_plain⟩,
        fun hkey hat hlease => ⟨keyLoad_crashes h hb hw h0 h64 hkey hat hlease, keyLoad_waits h hb hw h0 h64 hkey hat hlease⟩⟩⟩,
      keyDestroy_badSlot h hb hw, fun hx => ⟨keyDestroy_named h hb hw hx, fun hnamed hkey => ?_, fun key hnamed hkey hmod => ?_⟩⟩
    · refine clears_of_privRun h hb hw (i := .privTlbInvalidateAll) (g := id) (reads := [0])
        (show execPrivTlbInvalidateAll s = privRun s _ _ from rfl) (by decide) ?_ rfl
      dsimp only
      rw [if_neg hmode]
      rfl
    · refine clears_of_privRun h hb hw (i := .privTlbInvalidateAsid) (g := id) (reads := [0, 1])
        (show execPrivTlbInvalidateAsid s = privRun s _ _ from rfl) (by decide) ?_ rfl
      dsimp only
      rw [if_neg (by omega)]
      rfl
    · refine clears_of_privRun h hb hw (i := .privTlbInvalidateRange) (g := id) (reads := [0, 1, 2, 3])
        (show execPrivTlbInvalidateRange s = privRun s _ _ from rfl) (by decide) ?_ rfl
      dsimp only
      rw [if_neg (fun hbad => hbad.elim (fun hn => by omega) fun ha => ha hva)]
      rfl
    · have hset := identifier_live h hb hw hx
      rw [hentry] at hset
      exact hset hlive
    · have hset := identifier_dead h hb hw hx
      rw [hentry] at hset
      exact hset hlive
    · have hdestroy := keyDestroy_answers h hb hw hx hnamed
      rw [hkey] at hdestroy
      exact hdestroy
    · have hdestroy := keyDestroy_answers h hb hw hx hnamed
      rw [hkey] at hdestroy
      exact ⟨_, hdestroy, rfl, rfl, rfl, rfl, loseLines_sectors hmod⟩
  · dsimp only
    rw [show pa + 8 * (u / 2 ^ (12 + 9 * lvl) % (if lvl = 4 then 256 else 512)) = pa + 8 * vaIndex u lvl from rfl,
      show leNat (s.hbmBytes s.leaseKey (pa + 8 * vaIndex u lvl) 8) = s.entryAt u lvl pa from rfl]
    refine ⟨fun hout => ?_, fun hin hpoison => ?_, fun hin hclean => ⟨walk_absent hin hclean, fun hv => (walk_valid hin hclean hv).1,
      fun hv hstray hl => ?_, fun hv hstray hl => ?_⟩⟩
    · rw [walkFrom_succ]
      exact if_pos hout
    · rw [walkFrom_succ, if_neg (show ¬ hbmSize ≤ _ from not_le.2 hin), if_pos hpoison]
    · rw [(walk_valid hin hclean hv).2 hstray]
      exact leafOrTable_table hl
    · rw [(walk_valid hin hclean hv).2 hstray]
      refine ⟨leafOrTable_high hl, fun hlvl hd hr => leafOrTable_unrouted hl hlvl hd hr, fun hlvl hd => ?_⟩
      rw [leafOrTable_leaf hl hlvl hstray hd, grants_iff, ← isHere_iff]
      generalize s.entryAt u lvl pa = e at *
      have hleast : leafSize lvl false = if lvl = 0 then 4096 else if lvl = 1 then 2097152 else 1073741824 := by
        have hcases : lvl = 0 ∨ lvl = 1 ∨ lvl = 2 := by omega
        rcases hcases with rfl | rfl | rfl <;> rfl
      rw [hleast]
      refine ⟨fun hmis => if_pos hmis, fun hmis hno => ?_, fun hmis hgr hhere hout => ?_, fun hmis hgr hin => ?_⟩
      · rw [if_neg (not_not.2 hmis), if_pos (by simpa using hno)]
      · rw [if_neg (not_not.2 hmis), if_neg (by simpa using hgr), if_pos ⟨hhere, hout⟩]
      · rw [if_neg (not_not.2 hmis), if_neg (by simpa using hgr), if_neg (fun hc => hin.elim (fun hn => hn hc.1) fun hle => not_lt.2 hle hc.2)]
        refine ⟨_, rfl, rfl, rfl, rfl, rfl, ?_, fun hn => if_neg hn, ?_, ?_, ?_⟩
        · dsimp only
          split
          · next hhere => exact ⟨fun _ => hhere, fun _ => rfl⟩
          · next hhere => exact ⟨fun hff => absurd ((isHere_iff s _).2 (.inl hff)) hhere, fun hh => absurd hh hhere⟩
        · exact mbit_iff e 2
        · exact mbit_iff e 3
        · exact mbit_iff e 4
  · dsimp only
    refine ⟨translate_onlyTlbs s (some core) die asid u kind, fun c hc => (translate_elsewhere s core die asid u kind).1 c hc,
      fun e he => (translate_elsewhere s core die asid u kind).2 e he, fun y hy => translate_held s core die asid u kind hy,
      fun hnone => translate_walked s core die asid u kind hnone, fun hu => ?_, fun t y hu htr => locate_of_translate hu htr⟩
    rw [State.locate, if_pos hu]

end Sys2Proof.Machine
end

section
/-!
PROOFS. What bytes of HBM read after a write under a key (R370), byte by byte.
-/

namespace Sys2Proof.Machine

open Sys2Proof Sys2Proof.Machine.Claims

/-! ### The keys of sectors -/

theorem tget_tdel_self {α : Type} (k : Nat) : ∀ t : List (Nat × α), tget k (tdel k t) = none
  | [] => rfl
  | (j, v) :: t => by
    rw [tdel, List.filter_cons]
    split
    · next h =>
      rw [tget, if_neg (by simpa using h)]
      exact tget_tdel_self k t
    · exact tget_tdel_self k t

theorem tget_tdel_ne {α : Type} {k j : Nat} (h : k ≠ j) : ∀ t : List (Nat × α), tget k (tdel j t) = tget k t
  | [] => rfl
  | (i, v) :: t => by
    rw [tdel, List.filter_cons]
    split
    · rw [tget, tget]
      split
      · rfl
      · exact tget_tdel_ne h t
    · next hi =>
      have hij : i = j := by simpa using hi
      rw [tget, if_neg (by omega)]
      exact tget_tdel_ne h t

/-- The key of a sector, of those not listed the base key. -/
def keyIn (base k : Nat) (keys : List (Nat × Nat)) : Nat := (tget k keys).getD base

theorem keyIn_step (base key k j : Nat) (t : List (Nat × Nat)) :
    keyIn base k (if key = base then tdel j t else tput j key t) = if k = j then key else keyIn base k t := by
  by_cases hkj : k = j
  · subst hkj
    rw [if_pos rfl]
    split
    · next h => rw [keyIn, tget_tdel_self, h]; rfl
    · rw [keyIn, tget_tput_self]; rfl
  · rw [if_neg hkj]
    split
    · rw [keyIn, tget_tdel_ne hkj, keyIn]
    · rw [keyIn, tget_tput_ne hkj, keyIn]

theorem keyIn_foldl (base key k : Nat) : ∀ (ks : List Nat) (t : List (Nat × Nat)),
    keyIn base k (ks.foldl (fun t j => if key = base then tdel j t else tput j key t) t) = if k ∈ ks then key else keyIn base k t
  | [], t => by simp
  | j :: ks, t => by
    rw [List.foldl_cons, keyIn_foldl base key k ks, keyIn_step]
    by_cases hk : k ∈ ks
    · rw [if_pos hk, if_pos (List.mem_cons_of_mem _ hk)]
    · by_cases hj : k = j
      · rw [if_neg hk, if_pos hj, if_pos (by simp [hj])]
      · rw [if_neg hk, if_neg hj, if_neg (by simp [hk, hj])]

/-! ### One piece -/

/-- A byte stands under a key as written. -/
structure Stands (s : State) (key x : Nat) (b : Byte) : Prop where
  key : s.sectorKey x = key
  byte : s.hbm.byte x = b

theorem Stands.hbmByte {s : State} {key x : Nat} {b : Byte} (h : Stands s key x b) : s.hbmByte key x = b := by
  rw [State.hbmByte, if_pos h.key, h.byte]

theorem upto_length (n : Nat) : (upto n).length = n := by simp [upto]

/-- A sector that stands under the key is left alone as others are read anew. -/
theorem stands_rekey {s : State} {key x : Nat} {b : Byte} (hwf : s.hbm.wf = true) (h : Stands s key x b) (a n : Nat) :
    Stands (s.rekey key a n) key x b := by
  unfold State.rekey
  generalize unitsOf 32 a n = ks
  induction ks generalizing s with
  | nil => exact h
  | cons j t ih =>
    rw [List.foldl_cons]
    by_cases hkey : s.sectorKey (j * 32) = key
    · rw [if_pos hkey]
      exact ih hwf h
    · rw [if_neg hkey]
      have hlen : (s.hbmBytes key (j * 32) 32).length = 32 := by rw [State.hbmBytes, List.length_map, upto_length]
      have hout : ¬ (j * 32 ≤ x ∧ x < j * 32 + 32) := fun hin => hkey (by
        rw [← h.key, State.sectorKey, State.sectorKey, show j * 32 / 32 = x / 32 by omega])
      have hbyte : (s.hbm.setBytes (j * 32) (s.hbmBytes key (j * 32) 32)).byte x = b := by
        rw [Memory.byte_setBytes hwf, hlen, if_neg hout, h.byte]
      generalize s.hbmBytes key (j * 32) 32 = bs at hbyte
      exact ih (Memory.untag_wf (Memory.setBytes_wf hwf _ _) _ _) ⟨h.key, hbyte⟩

theorem keys_rekey (s : State) (key a n : Nat) : (s.rekey key a n).sectorKeys = s.sectorKeys ∧ (s.rekey key a n).baseKey = s.baseKey := by
  unfold State.rekey
  induction unitsOf 32 a n generalizing s with
  | nil => exact ⟨rfl, rfl⟩
  | cons j t ih =>
    rw [List.foldl_cons]
    split
    · exact ih s
    · exact ih _

theorem byte_piece {s : State} (hwf : s.hbm.wf = true) {a : Nat} (hr : s.isRetired a = false) (key : Nat) (bs : List Byte) (x : Nat) :
    (s.hbmPiece key a bs).hbm.byte x = if a ≤ x ∧ x < a + bs.length then bs.getD (x - a) 0 else (s.rekey key a bs.length).hbm.byte x := by
  rw [State.hbmPiece, if_neg (by rw [hr]; decide)]
  exact Memory.byte_setBytes (rekey_wf hwf key a bs.length)

theorem sectorKey_piece {s : State} {a : Nat} (hr : s.isRetired a = false) (key : Nat) (bs : List Byte) (x : Nat) :
    (s.hbmPiece key a bs).sectorKey x = if x / 32 ∈ unitsOf 32 a bs.length then key else s.sectorKey x := by
  rw [State.hbmPiece, if_neg (by rw [hr]; decide)]
  obtain ⟨hkeys, hbase⟩ := keys_rekey s key a bs.length
  show keyIn (s.rekey key a bs.length).baseKey (x / 32) (setKeys (s.rekey key a bs.length).sectorKeys (s.rekey key a bs.length).baseKey
    key a bs.length) = _
  rw [hkeys, hbase, setKeys, keyIn_foldl]
  rfl

/-- Bytes of a piece stand as written. -/
theorem stands_piece {s : State} (hwf : s.hbm.wf = true) {a : Nat} (hr : s.isRetired a = false) (key : Nat) (bs : List Byte) {x : Nat}
    (hlo : a ≤ x) (hhi : x < a + bs.length) : Stands (s.hbmPiece key a bs) key x (bs.getD (x - a) 0) where
  key := by
    rw [sectorKey_piece hr, if_pos]
    exact mem_unitsOf.2 ⟨by omega, Nat.div_le_div_right hlo, Nat.div_le_div_right (by omega)⟩
  byte := by rw [byte_piece hwf hr, if_pos ⟨hlo, hhi⟩]

/-- A byte that stands under the key stands after a piece elsewhere. -/
theorem Stands.piece {s : State} {key x : Nat} {b : Byte} (h : Stands s key x b) (hwf : s.hbm.wf = true) (a : Nat) (bs : List Byte)
    (hx : x < a ∨ a + bs.length ≤ x) : Stands (s.hbmPiece key a bs) key x b := by
  cases hr : s.isRetired a with
  | true =>
    rw [State.hbmPiece, if_pos hr]
    exact h
  | false =>
    refine ⟨?_, ?_⟩
    · rw [sectorKey_piece hr, h.key, ite_self]
    · rw [byte_piece hwf hr, if_neg (by omega), (stands_rekey hwf h a bs.length).byte]

/-! ### A write -/

theorem isRetired_congr {s : State} {a b : Nat} (h : a / 4096 = b / 4096) : s.isRetired a = s.isRetired b := by
  rw [State.isRetired, State.isRetired, h]

/-- The piece of a write in one granule. -/
def State.pieceOf (key a : Nat) (bs : List Byte) (s : State) (g : Nat) : State :=
  s.hbmPiece key (max a (4096 * g)) ((bs.drop (max a (4096 * g) - a)).take (4096 * (g + 1) - max a (4096 * g)))

theorem hbmWrite_eq (s : State) (key a : Nat) (bs : List Byte) :
    s.hbmWrite key a bs = (unitsOf 4096 a bs.length).foldl (State.pieceOf key a bs) s := rfl

theorem nodup_unitsOf (u a n : Nat) : (unitsOf u a n).Nodup := by
  unfold unitsOf
  split
  · exact List.nodup_nil
  · exact List.nodup_range.map fun i j hij => by simpa using hij

theorem foldl_pieceOf_keeps (key a : Nat) (bs : List Byte) : ∀ (gs : List Nat) {s : State}, s.hbm.wf = true →
    (gs.foldl (State.pieceOf key a bs) s).hbm.wf = true ∧ (gs.foldl (State.pieceOf key a bs) s).retired = s.retired
  | [], _, h => ⟨h, rfl⟩
  | g :: gs, s, h => by
    have hone : OnlyHbm s (s.pieceOf key a bs g) := hbmPiece_only ..
    have hrest := foldl_pieceOf_keeps key a bs gs (s := s.pieceOf key a bs g) (hbmPiece_wf h ..)
    exact ⟨hrest.1, hrest.2.trans hone.retired⟩

theorem Stands.pieces {key a x : Nat} {bs : List Byte} {b : Byte} : ∀ {gs : List Nat} {s : State}, x / 4096 ∉ gs → s.hbm.wf = true →
    Stands s key x b → Stands (gs.foldl (State.pieceOf key a bs) s) key x b
  | [], _, _, _, h => h
  | g :: gs, s, hg, hwf, h => by
    obtain ⟨hne, hnot⟩ := not_or.1 (fun hor => hg (List.mem_cons.2 hor))
    refine Stands.pieces (s := s.pieceOf key a bs g) hnot (hbmPiece_wf hwf ..) (h.piece hwf _ _ ?_)
    rw [List.length_take, List.length_drop]
    by_cases hlt : x < max a (4096 * g)
    · exact .inl (by omega)
    · exact .inr (by omega)

/-- A byte of a write under a key, in no retired granule, reads as written under it. -/
theorem hbmByte_hbmWrite {s : State} (hwf : s.hbm.wf = true) {key a : Nat} {bs : List Byte} {i : Nat} (hi : i < bs.length)
    (hr : s.isRetired (a + i) = false) : (s.hbmWrite key a bs).hbmByte key (a + i) = bs.getD i 0 := by
  have hmem : (a + i) / 4096 ∈ unitsOf 4096 a bs.length :=
    mem_unitsOf.2 ⟨by omega, Nat.div_le_div_right (by omega), Nat.div_le_div_right (by omega)⟩
  obtain ⟨before, after, hsplit⟩ := List.append_of_mem hmem
  have hnodup := nodup_unitsOf 4096 a bs.length
  rw [hsplit] at hnodup
  have hnot : (a + i) / 4096 ∉ after := (List.nodup_cons.1 (List.nodup_append.1 hnodup).2.1).1
  obtain ⟨hwf', hret⟩ := foldl_pieceOf_keeps key a bs before hwf
  rw [hbmWrite_eq, hsplit, List.foldl_append, List.foldl_cons]
  generalize before.foldl (State.pieceOf key a bs) s = t at *
  refine (Stands.pieces hnot (hbmPiece_wf hwf' ..) ?_).hbmByte
  have hgran : (max a (4096 * ((a + i) / 4096))) / 4096 = (a + i) / 4096 := by omega
  have hret' : t.isRetired (max a (4096 * ((a + i) / 4096))) = false := by
    rw [State.isRetired, hret, hgran]
    exact hr
  have hpiece := stands_piece hwf' hret' key ((bs.drop (max a (4096 * ((a + i) / 4096)) - a)).take
    (4096 * ((a + i) / 4096 + 1) - max a (4096 * ((a + i) / 4096)))) (x := a + i) (by omega)
    (by rw [List.length_take, List.length_drop]; omega)
  have hbyte : ((bs.drop (max a (4096 * ((a + i) / 4096)) - a)).take (4096 * ((a + i) / 4096 + 1) - max a (4096 * ((a + i) / 4096)))).getD
      (a + i - max a (4096 * ((a + i) / 4096))) 0 = bs.getD i 0 := by
    rw [List.getD_eq_getElem?_getD, List.getElem?_take_of_lt (by omega), List.getElem?_drop, List.getD_eq_getElem?_getD]
    congr 2
    omega
  rw [hbyte] at hpiece
  exact hpiece

end Sys2Proof.Machine
end

section
/-!
PROOFS. The events of power, gating, links, the board and other devices (R368, R377 to R385).
-/

namespace Sys2Proof.Machine

open Sys2Proof Sys2Proof.Machine.Claims

/-! ### Power -/

theorem voltsOk_iff (v : Nat) : voltsOk v = true ↔ 4800 ≤ v ∧ v ≤ 5400 := by
  rw [voltsOk, Bool.and_eq_true, decide_eq_true_eq, decide_eq_true_eq]

theorem exec_inputVoltage (s : State) : exec .inputVoltageOutOfRange s =
    .next (if s.power.on && !voltsOk s.ev.a then { s.losePower with power := { s.losePower.power with volts := s.ev.a } }
      else { s with power := { s.power with volts := s.ev.a } }) := by
  show execInputVoltageOutOfRange s = _
  rw [execInputVoltageOutOfRange]
  split <;> rfl

theorem exec_powerWindowEnd {s : State} (hon : s.power.on = true) (hb : s.ev.b ≤ 60) : exec .powerWindowEnd s = .next
    ({ s with power := { s.power with watts := s.ev.a, inlet := s.ev.b, hottest := s.ev.c } }.setBrake (decide (2400 < s.ev.a))
      (decide (45 < s.ev.b) || (s.power.fresh && s.power.thermBrake)) false) := by
  show execPowerWindowEnd s = _
  rw [execPowerWindowEnd, if_neg (by rw [hon]; decide)]
  dsimp only
  rw [if_neg (by omega)]

theorem exec_inletOver {s : State} (hon : s.power.on = true) (ha : 45 < s.ev.a) : exec .inletOverTemperature s = .next
    (if 60 < s.ev.a then { s with power := { s.power with inlet := s.ev.a } }.losePower
      else { s with power := { s.power with inlet := s.ev.a } }.setBrake s.power.pwrBrake true true) := by
  show execInletOverTemperature s = _
  rw [execInletOverTemperature, if_neg (by rw [hon]; simp [ha])]

/-! ### Gates and reports -/

theorem coreBlocked_of {s : State} {core : Nat} (hrows : (s.core core).rows ≠ [])
    (hall : ∀ y ∈ (s.core core).rows, s.rowBlocked core y.1 = true) : s.coreBlocked core = true := by
  rw [State.coreBlocked, Bool.and_eq_true, List.all_eq_true, Bool.not_eq_true', List.isEmpty_eq_false_iff]
  exact ⟨hrows, hall⟩

/-- An event changes the event queue alone. -/
theorem event_keep {α : Type} (p : State → α) (hp : ∀ (x : State) (q h : List EventRec) (n : Nat),
    p { x with eventQ := q, eventHeld := h, eventOrder := n } = p x) (s : State) (kind : Byte) (w2 w3 : Word) :
    p (s.event kind w2 w3) = p s := by
  unfold State.event State.offer
  split
  · exact hp s _ s.eventHeld _
  · exact hp s s.eventQ _ s.eventOrder

theorem raises_event (s : State) (kind : Byte) (w2 w3 : Word) : Raises s (s.event kind w2 w3) kind w2 w3 := by
  unfold State.event State.offer
  split
  · next h =>
    have hheld : s.eventHeld = [] := by simpa using (Bool.and_eq_true_iff.1 h).1
    refine ⟨{ kind := kind, w2 := w2, w3 := w3, order := s.eventOrder }, ?_, fun _ _ => hheld, rfl, rfl, rfl, rfl⟩
    show (s.eventQ ++ [_]) ++ s.eventHeld = _
    rw [hheld, List.append_nil, List.append_nil]
    rfl
  · next h =>
    refine ⟨{ kind := kind, w2 := w2, w3 := w3 }, ?_, fun hheld hroom => absurd ?_ h, rfl, rfl, rfl, rfl⟩
    · exact (List.append_assoc ..).symm
    · rw [hheld, Bool.and_eq_true, decide_eq_true_eq]
      exact ⟨rfl, hroom⟩

/-- Rows of a core are reported one after another, each to its context. -/
theorem reports_foldl (core : Nat) : ∀ (rows : List (Nat × Row)) (u : State), ∃ cs, rows.foldl (fun s x =>
      s.modCtx (s.grid x.2.grid).ctx fun c => { c with reports := c.reports ++ s.hangEntries core x.1 }) u = { u with ctxs := cs } ∧
    (∀ c e, e ∈ (u.ctx c).reports → e ∈ (({ u with ctxs := cs } : State).ctx c).reports) ∧
    ∀ y ∈ rows, ∀ e ∈ u.hangEntries core y.1, e ∈ (({ u with ctxs := cs } : State).ctx (u.grid y.2.grid).ctx).reports
  | [], u => ⟨u.ctxs, rfl, fun _ _ h => h, fun _ h => by cases h⟩
  | x :: rows, u => by
    obtain ⟨cs, hfold, hkept, hrows⟩ := reports_foldl core rows
      (u.modCtx (u.grid x.2.grid).ctx fun c => { c with reports := c.reports ++ u.hangEntries core x.1 })
    have hstep : ∀ c e, e ∈ (u.ctx c).reports → e ∈ ((u.modCtx (u.grid x.2.grid).ctx fun c =>
        { c with reports := c.reports ++ u.hangEntries core x.1 }).ctx c).reports := by
      intro c e he
      by_cases hc : c = (u.grid x.2.grid).ctx
      · rw [hc, ctx_modCtx_self]
        exact List.mem_append_left _ (hc ▸ he)
      · rw [ctx_modCtx_ne u hc]
        exact he
    refine ⟨cs, hfold, fun c e he => hkept c e (hstep c e he), fun y hy e he => ?_⟩
    rcases List.mem_cons.1 hy with rfl | hy
    · refine hkept _ e ?_
      rw [ctx_modCtx_self]
      exact List.mem_append_right _ he
    · exact hrows y hy e he

/-- The lanes of an entry, as a mask. -/
theorem getLsbD_foldl_lanes {k : Nat} (hk : k < 64) : ∀ (xs : List (Nat × Lane)) (m : DWord),
    (xs.foldl (fun m x => m ||| (1#64 <<< x.1)) m).getLsbD k = (m.getLsbD k || xs.any fun x => x.1 == k)
  | [], m => by simp
  | x :: xs, m => by
    have hbit : (1#64 <<< x.1).getLsbD k = (x.1 == k) := by
      by_cases hx : x.1 = k
      · simp [hx, hk]
      · simp only [BitVec.getLsbD_shiftLeft, BitVec.getLsbD_one, beq_eq_false_iff_ne.2 hx]
        by_cases hlt : k < x.1
        · simp [hlt]
        · simp [show k - x.1 ≠ 0 by omega]
    rw [List.foldl_cons, getLsbD_foldl_lanes hk xs, BitVec.getLsbD_or, hbit, List.any_cons, Bool.or_assoc]

/-- An unexited lane of a reported row stands in an entry of its place. -/
theorem hangEntries_has {s : State} {core row : Nat} {g : Group} (hg : g ∈ s.groups) (hagent : g.agent = .core core) (hrow : g.row = row)
    (hfreed : g.freed = false) {k : Nat} {z : Lane} (hk : k < 64) (hz : g.lanes[k]? = some z) (hlive : z.unexited = true) :
    ∃ e ∈ s.hangEntries core row, e.block = (s.block g.block).index ∧ e.gidx = g.gidx ∧ e.core = core ∧ e.lanes.getLsbD k = true ∧
      e.pc = z.pc ∧ ∀ d m pc, z.status = .parked (.replay d m) pc → e.kind = 1 ∧ e.cause = 0x08 := by
  have hnum : (k, z) ∈ g.numbered := List.mem_of_getElem? (i := k) (by rw [Group.numbered_getElem?, hz]; rfl)
  have hstuck : (k, z) ∈ g.numbered.filter fun x => x.2.unexited := List.mem_filter.2 ⟨hnum, hlive⟩
  refine ⟨_, List.mem_flatMap.2 ⟨g, List.mem_filter.2 ⟨hg, by simp [hagent, hrow, hfreed]⟩, List.mem_map.2
    ⟨(z.wakeBy, z.pc), List.mem_dedup.2 (List.mem_map.2 ⟨(k, z), hstuck, rfl⟩), rfl⟩⟩, rfl, rfl, rfl, ?_, rfl, fun d m pc hpark => ?_⟩
  · dsimp only
    rw [getLsbD_foldl_lanes hk, Bool.or_eq_true, List.any_eq_true]
    exact .inr ⟨(k, z), List.mem_filter.2 ⟨hstuck, beq_self_eq_true _⟩, beq_self_eq_true _⟩
  · have hwake : z.wakeBy.1 = 16 := by rw [Lane.wakeBy, hpark]
    dsimp only
    rw [hwake]
    exact ⟨rfl, rfl⟩

theorem exec_hangReport {s : State} {n : Nat} {row : Row} {rest : List (Nat × Row)} (hrows : (s.core s.ev.a).rows = (n, row) :: rest)
    (hblocked : s.coreBlocked s.ev.a = true) (hclock : (s.core s.ev.a).gate.clock = true) (hnew : (s.core s.ev.a).gate.reported = false) :
    exec .hangReport s = .next (((s.reportRows s.ev.a).modCore s.ev.a fun c => { c with gate := { c.gate with reported := true } }).event 0x06
      (BitVec.ofNat 32 s.ev.a) (BitVec.ofNat 32 (s.grid row.grid).ctx)) := by
  show execHangReport s = _
  rw [execHangReport]
  dsimp only
  rw [hrows]
  dsimp only
  rw [hblocked, hclock, hnew]
  rfl

theorem hangReport_reports {s : State} {n : Nat} {row : Row} {rest : List (Nat × Row)} (hrows : (s.core s.ev.a).rows = (n, row) :: rest)
    (hblocked : s.coreBlocked s.ev.a = true) (hclock : (s.core s.ev.a).gate.clock = true) (hnew : (s.core s.ev.a).gate.reported = false) :
    ∃ t, exec .hangReport s = .next t ∧ Raised s t 0x06 s.ev.a (s.grid row.grid).ctx ∧ (t.core s.ev.a).gate.reported = true ∧
      t.groups = s.groups ∧ t.hbm = s.hbm ∧ ∀ y ∈ (s.core s.ev.a).rows, ∀ g ∈ s.groups, g.agent = .core s.ev.a → g.row = y.1 →
        g.freed = false → ∀ k z, k < 64 → g.lanes[k]? = some z → z.unexited = true →
          ∃ e ∈ (t.ctx (s.grid y.2.grid).ctx).reports, e.block = (s.block g.block).index ∧ e.gidx = g.gidx ∧ e.core = s.ev.a ∧
            e.lanes.getLsbD k = true ∧ e.pc = z.pc ∧ ∀ d m pc, z.status = .parked (.replay d m) pc → e.kind = 1 ∧ e.cause = 0x08 := by
  obtain ⟨cs, hfold, -, hreports⟩ := reports_foldl s.ev.a (s.core s.ev.a).rows s
  have hstate : s.reportRows s.ev.a = { s with ctxs := cs } := hfold
  refine ⟨_, exec_hangReport hrows hblocked hclock hnew, ?_, ?_, ?_, ?_, fun y hy g hg hagent hrow hfreed k z hk hz hlive => ?_⟩
  · rw [hstate]
    exact raises_event _ _ _ _
  · rw [event_keep (fun u => (u.core s.ev.a).gate.reported) (fun _ _ _ _ => rfl), core_modCore_self]
  · rw [event_keep (·.groups) (fun _ _ _ _ => rfl), hstate]
    rfl
  · rw [event_keep (·.hbm) (fun _ _ _ _ => rfl), hstate]
    rfl
  · obtain ⟨e, he, hparts⟩ := hangEntries_has hg hagent hrow hfreed hk hz hlive
    refine ⟨e, ?_, hparts⟩
    rw [event_keep (fun u => (u.ctx (s.grid y.2.grid).ctx).reports) (fun _ _ _ _ => rfl), hstate]
    exact hreports y hy e he

/-! ### The board -/

theorem exec_leaseReset_none {s : State} (h : s.power.on = false ∨ s.sexton.state ∈ [1, 4]) (wipe : Bool) : s.leaseReset wipe = s := by
  rw [State.leaseReset, if_pos]
  rcases h with h | h
  · exact .inl (by simp [h])
  · rcases List.mem_cons.1 h with h | h
    · exact .inr (.inl h)
    · exact .inr (.inr (List.mem_singleton.1 h))

theorem leaseReset_asks {s : State} (hon : s.power.on = true) (h : s.sexton.state = 0) : s.leaseReset false = leaseAsked s false := by
  rw [State.leaseReset, if_neg (by simp [hon, h]), if_pos h]
  rfl

theorem leaseReset_begins {s : State} (hon : s.power.on = true) (h : s.sexton.state ∉ [0, 1, 4]) (wipe : Bool) :
    LeaseBegun s (s.leaseReset wipe) := by
  simp only [List.mem_cons, List.not_mem_nil, or_false, not_or] at h
  obtain ⟨h0, h1, h4⟩ := h
  rw [State.leaseReset, if_neg (by simp [hon, h1, h4]), if_neg h0]
  exact ⟨rfl, rfl, ⟨rfl, rfl, rfl, rfl, rfl, rfl⟩, ⟨rfl, rfl, rfl, rfl⟩, ⟨rfl, rfl⟩, ⟨hon, rfl, rfl, rfl, rfl, rfl, rfl⟩⟩

theorem exec_i3cLeasereq (s : State) : exec .i3cLeasereq s = .next (if s.ev.value.getLsbD 0 then s.leaseReset false else s) := rfl

/-! ### Routes and regions -/

theorem exec_fabricRouteLost (s : State) : exec .fabricRouteLost s = .next ((s.regions.filter fun x => x.2.holders.contains s.ev.a ||
      if x.1 < 256 then x.2.remote.any fun y => y.1 == s.ev.a else (x.1 - 256) / 256 % 256 == s.ev.a).foldl
    (fun (s : State) x => s.abortRegion x.1 8) { s with routes := sdel s.ev.a s.routes }) := rfl

/-- A region that holds, that has members or whose home is at a device. -/
def liesAt (dev : Nat) (x : Nat × Region) : Prop :=
  dev ∈ x.2.holders ∨ (x.1 < 256 ∧ ∃ z ∈ x.2.remote, z.1 = dev) ∨ (256 ≤ x.1 ∧ (x.1 - 256) / 256 % 256 = dev)

theorem liesAt_iff (dev : Nat) (x : Nat × Region) : (x.2.holders.contains dev ||
    if x.1 < 256 then x.2.remote.any fun y => y.1 == dev else (x.1 - 256) / 256 % 256 == dev) = true ↔ liesAt dev x := by
  rw [Bool.or_eq_true, List.contains_iff_mem, liesAt]
  refine or_congr Iff.rfl ?_
  by_cases h : x.1 < 256
  · rw [if_pos h, List.any_eq_true]
    simp only [h, true_and, beq_iff_eq, show ¬ 256 ≤ x.1 by omega, false_and, or_false]
  · rw [if_neg h]
    simp only [h, false_and, beq_iff_eq, show 256 ≤ x.1 by omega, true_and, false_or]

/-- A step that keeps a part of the state keeps it in a fold. -/
theorem foldl_keeps {α β : Type} (p : State → α) {f : State → β → State} (hf : ∀ (s : State) b, p (f s b) = p s) (ls : List β) (s : State) :
    p (ls.foldl f s) = p s := by
  induction ls generalizing s with
  | nil => rfl
  | cons b t ih => rw [List.foldl_cons, ih, hf]

/-- The abort of an open or sealed region up to its end: its records go, and its members' tentative operations. -/
def State.aborting (s : State) (i : Nat) (reason : Byte) : State :=
  let t := (s.dropRecords i).modRegion i fun x => { x with state := .aborted, reason := reason }
  (s.region i).members.foldl (fun s gid => s.modGroup gid fun g =>
    { g with
      region := g.region.map fun m => { m with aborted := some reason }
      spec := []
      lanes := g.lanes.map fun l => if l.unexited && !l.helper then { l with async := l.async ++ [.region reason] } else l })
    ((s.region i).members.foldl (fun s gid => if s.groups.any fun g => g.gid == gid then s else s.dropSaved gid) t)

theorem abortRegion_active {s : State} {i : Nat} (h : (s.region i).state = .opened ∨ (s.region i).state = .sealed) (reason : Byte) :
    s.abortRegion i reason = (s.aborting i reason).freeRegion i := by
  rw [State.abortRegion]
  dsimp only
  rw [if_pos]
  · rfl
  · rcases h with h | h <;> rw [h] <;> rfl

theorem abortRegion_idle {s : State} {i : Nat} (h : ¬ ((s.region i).state = .opened ∨ (s.region i).state = .sealed)) (reason : Byte) :
    s.abortRegion i reason = s := by
  rw [State.abortRegion]
  dsimp only
  rw [if_neg]
  simpa using h

section
variable {α : Type} (p : State → α) (hgroups : ∀ (s : State) gs, p { s with groups := gs } = p s)
  (himages : ∀ (s : State) is, p { s with images := is } = p s) (hdies : ∀ (s : State) ds, p { s with dies := ds } = p s)
include hgroups himages hdies

theorem aborting_keeps (s : State) (i : Nat) (reason : Byte) :
    p (s.aborting i reason) = p (s.modRegion i fun x => { x with state := .aborted, reason := reason }) := by
  have hrecords : ∃ ds, s.dropRecords i = { s with dies := ds } := by
    unfold State.dropRecords
    generalize upto 4 = js
    induction js using List.reverseRecOn with
    | nil => exact ⟨s.dies, rfl⟩
    | append_singleton js j ih =>
      obtain ⟨ds, hds⟩ := ih
      rw [List.foldl_append, hds, List.foldl_cons, List.foldl_nil]
      split
      · exact ⟨ds, rfl⟩
      · exact ⟨_, rfl⟩
  obtain ⟨ds, hds⟩ := hrecords
  unfold State.aborting
  dsimp only
  rw [hds]
  refine (foldl_keeps p (fun s gid => ?_) _ _).trans ((foldl_keeps p (fun s gid => ?_) _ _).trans ?_)
  · exact hgroups s _
  · split
    · rfl
    · exact himages s _
  · exact hdies (s.modRegion i fun x => { x with state := .aborted, reason := reason }) ds

theorem abortRegion_keeps (hregions : ∀ (s : State) rs, p { s with regions := rs } = p s) (s : State) (i : Nat) (reason : Byte) :
    p (s.abortRegion i reason) = p s := by
  have hfree : ∀ t : State, p (t.freeRegion i) = p t := by
    intro t
    unfold State.freeRegion
    dsimp only
    split
    · exact hregions t _
    · rfl
  by_cases h : (s.region i).state = .opened ∨ (s.region i).state = .sealed
  · rw [abortRegion_active h, hfree, aborting_keeps p hgroups himages hdies]
    exact hregions s _
  · rw [abortRegion_idle h]

end

/-- An aborted region stands with its reason, or, with no member, is free. -/
theorem region_abortRegion {s : State} {i : Nat} (h : (s.region i).state = .opened ∨ (s.region i).state = .sealed) (reason : Byte) :
    ((s.abortRegion i reason).region i = { s.region i with state := .aborted, reason := reason }) ∨
    ((s.region i).members = [] ∧ (s.abortRegion i reason).region i = ({} : Region)) := by
  have hregion : (s.aborting i reason).region i = { s.region i with state := .aborted, reason := reason } := by
    rw [aborting_keeps (fun u => u.region i) (fun _ _ => rfl) (fun _ _ => rfl) (fun _ _ => rfl), region_modRegion_self]
  rw [abortRegion_active h, State.freeRegion]
  dsimp only
  rw [hregion]
  split
  · next hfree =>
    have hmembers : (s.region i).members = [] := by
      simp only [Bool.and_eq_true] at hfree
      exact List.isEmpty_iff.1 hfree.1.2
    refine .inr ⟨hmembers, ?_⟩
    show (tget i (tdel i _)).getD ({} : Region) = _
    rw [tget_tdel_self]
    rfl
  · exact .inl hregion

/-! ### Accesses of other devices -/

theorem portsUp_of {s : State} (hon : s.power.on = true) (h0 : s.sexton.state ≠ 0) (h4 : s.sexton.state ≠ 4) : s.portsUp = true := by
  simp [State.portsUp, hon, h0, h4]

theorem portsUp_down {s : State} (h : s.power.on = false ∨ s.sexton.state = 0 ∨ s.sexton.state = 4) : s.portsUp = false := by
  rcases h with h | h | h <;> simp [State.portsUp, h]

/-- Without ports an access and a message change nothing. -/
theorem exec_remote_down {s : State} (h : s.portsUp = false) :
    exec .remoteAccessRequest s = .next s ∧ exec .remoteRegionMessage s = .next s := by
  refine ⟨?_, ?_⟩
  · show execRemoteAccessRequest s = _
    rw [execRemoteAccessRequest, h]
    cases hq : s.ev.req with
    | none => rfl
    | some q =>
      dsimp only
      cases hop : q.op <;> simp
  · show execRemoteRegionMessage s = _
    rw [execRemoteRegionMessage, h]
    cases s.ev.msg <;> rfl

/-- Operations of none of a group's are none. -/
theorem farOps_none {s : State} {g : Nat × Nat} (h : ∀ y ∈ s.farSpec, y.1 ≠ g) : s.farOps g = [] := by
  rw [State.farOps, List.filter_eq_nil_iff.2 fun y hy => by simpa using h y hy]
  rfl

theorem exec_remoteRead {s : State} {q : RemoteReq} {n key : Nat} (hq : s.ev.req = some q) (hop : q.op = .read n) (hup : s.portsUp = true)
    (hkey : s.keyOf q.slot = some key) (hin : q.addr + n ≤ 2 ^ 39) (hplain : ∀ i, i < n → s.lineRec (q.addr + i) = none)
    (hmine : ∀ y ∈ s.farSpec, q.group ≠ some y.1.2 ∨ q.dev ≠ y.1.1) :
    exec .remoteAccessRequest s = .next (s.answer s key q.addr n) := by
  have hops : (if q.group.isSome then s.farOps (q.dev, q.group.getD 0) else []) = [] := by
    cases hg : q.group with
    | none => rfl
    | some k =>
      refine farOps_none fun y hy heq => ?_
      rcases hmine y hy with hne | hne
      · exact hne (by rw [hg, heq]; rfl)
      · exact hne (by rw [heq])
  have hinside : (s.portsUp && decide (q.addr + reachOf q.op ≤ hbmSize)) = true := by
    rw [hup, hop, Bool.true_and, decide_eq_true_eq]
    exact hin
  show execRemoteAccessRequest s = _
  rw [execRemoteAccessRequest, hq]
  dsimp only
  rw [hops, if_pos hinside, hkey, hop]
  dsimp only
  rw [awaitLines_plain hplain]
  rfl

theorem exec_remoteWrite {s : State} {q : RemoteReq} {bs : List Byte} {key : Nat} (hq : s.ev.req = some q)
    (hop : q.op = .write bs false false) (hup : s.portsUp = true) (hkey : s.keyOf q.slot = some key) (hin : q.addr + bs.length ≤ 2 ^ 39)
    (hplain : ∀ i, i < bs.length → s.lineRec (q.addr + i) = none) :
    exec .remoteAccessRequest s = .next (s.hbmWrite key q.addr bs) := by
  have hunits : ∀ k ∈ unitsOf 128 q.addr (joined [(bs, false)]).1.length, s.lineRec (128 * k) = none := by
    intro k hk
    obtain ⟨j, hj, rfl⟩ := exists_byte_of_mem_unitsOf (by decide) hk
    rw [lineRec_line]
    exact hplain j (by simpa [joined] using hj)
  have htag : (farCap q.addr bs false).tag = false := rfl
  have hinside : (s.portsUp && decide (q.addr + reachOf q.op ≤ hbmSize)) = true := by
    rw [hup, hop, Bool.true_and, decide_eq_true_eq]
    exact hin
  show execRemoteAccessRequest s = _
  rw [execRemoteAccessRequest, hq]
  dsimp only
  rw [if_pos hinside, hkey, hop]
  dsimp only
  rw [htag, hbmOutside_plain hunits]
  have hjoined : joined [(bs, false)] = (bs, false) := by simp [joined]
  rw [State.hbmStore, hjoined]
  rfl

theorem exec_remoteSpeculate {s : State} {q : RemoteReq} {k lane : Nat} {aop : BitVec 4} {x cmp : Word} {bad : Bool} {key : Nat}
    (hq : s.ev.req = some q) (hg : q.group = some k) (hop : q.op = .speculate lane aop x cmp bad) (hup : s.portsUp = true)
    (hkey : s.keyOf q.slot = some key) (hin : q.addr + 4 ≤ 2 ^ 39) (hplain : ∀ i, i < 4 → s.lineRec (q.addr + i) = none)
    (hmine : ∀ y ∈ s.farSpec, y.1 ≠ (q.dev, k)) (hroom : s.dirUsed (homeDie q.addr) < dirCapacity) :
    exec .remoteAccessRequest s = .next ({ s with
      farSpec := s.farSpec ++ [((q.dev, k), (⟨lane, key, q.addr, aop, ⟨x, bad⟩, cmp⟩ : SpecOp))], hostOver := false }.answer s key q.addr 4) := by
  have hinside : (s.portsUp && decide (q.addr + reachOf q.op ≤ hbmSize)) = true := by
    rw [hup, hop, Bool.true_and, decide_eq_true_eq]
    exact hin
  have hfar : s.farSpeculate (q.dev, k) (⟨lane, key, q.addr, aop, ⟨x, bad⟩, cmp⟩ : SpecOp) = { s with
      farSpec := s.farSpec ++ [((q.dev, k), (⟨lane, key, q.addr, aop, ⟨x, bad⟩, cmp⟩ : SpecOp))], hostOver := false } := by
    rw [State.farSpeculate, farOps_none hmine, State.roomFor, if_pos]
    rw [List.any_nil, Bool.false_or, decide_eq_true_eq]
    exact hroom
  show execRemoteAccessRequest s = _
  rw [execRemoteAccessRequest, hq]
  dsimp only
  rw [if_pos hinside, hkey, hop, hg]
  dsimp only [Option.getD_some, Option.isSome_some, if_true]
  rw [awaitLines_plain hplain, farOps_none hmine, hfar]
  rfl

theorem exec_remoteDiscard {s : State} {q : RemoteReq} {k : Nat} {which : Option Nat} (hq : s.ev.req = some q) (hg : q.group = some k)
    (hop : q.op = .discard which) (hup : s.portsUp = true) : exec .remoteAccessRequest s = .next { s with
      farSpec := s.farSpec.filter fun y => !(decide (y.1 = (q.dev, k)) && (which.isNone || decide (which = some y.2.lane))) } := by
  have htest : (fun y : (Nat × Nat) × SpecOp => y.1 != (q.dev, k) || which.any fun n => y.2.lane != n) =
      fun y => !(decide (y.1 = (q.dev, k)) && (which.isNone || decide (which = some y.2.lane))) := by
    funext y
    cases which with
    | none => simp [bne, beq_eq_decide]
    | some n => simp [bne, beq_eq_decide, eq_comm]
  show execRemoteAccessRequest s = _
  rw [execRemoteAccessRequest, hq]
  dsimp only
  rw [hop, hg]
  dsimp only [Option.getD_some]
  rw [if_pos hup, htest]

/-- `t` is `s` but for HBM and what atomics have replaced in it. -/
def OnlyAtoms (s t : State) : Prop := { t with hbm := s.hbm, sectorKeys := s.sectorKeys, l1 := s.l1, past := s.past } = s

theorem OnlyAtoms.refl (s : State) : OnlyAtoms s s := rfl

theorem OnlyAtoms.trans {s t u : State} (h : OnlyAtoms s t) (k : OnlyAtoms t u) : OnlyAtoms s u := by
  unfold OnlyAtoms at *
  rw [← h, ← k]

theorem OnlyAtoms.keep {α : Type} {s t : State} (h : OnlyAtoms s t) (p : State → α)
    (hp : ∀ (x : State) (m : Memory) (k l : List (Nat × Nat)) (a : List Past),
      p { x with hbm := m, sectorKeys := k, l1 := l, past := a } = p x) : p t = p s := by
  rw [← hp t s.hbm s.sectorKeys s.l1 s.past,
    show ({ t with hbm := s.hbm, sectorKeys := s.sectorKeys, l1 := s.l1, past := s.past } : State) = s from h]

theorem OnlyHbm.onlyAtoms {s t : State} (h : OnlyHbm s t) : OnlyAtoms s t := by
  unfold OnlyAtoms
  rw [← h.keep (·.past) fun _ _ _ _ => rfl]
  exact h

theorem onlyAtoms_hbmAtom (s : State) (key a aop : Nat) (d : PWord) (c : Word) : OnlyAtoms s (s.hbmAtom key a aop d c).1 := by
  unfold State.hbmAtom
  dsimp only
  split
  · exact .refl s
  · exact (hbmWord_only ..).onlyAtoms.trans rfl

theorem onlyAtoms_outsideAtom {s : State} {a : Nat} (h : s.lineRec a = none) (key : Nat) (aop : BitVec 4) (d : PWord) (c : Word) :
    OnlyAtoms s (s.outsideAtom key a aop d c) := by
  have hadm : s.admission none a = .apply s := by simp only [State.admission, h]
  unfold State.outsideAtom
  rw [hadm]
  split
  · next t _ ht =>
    cases ht
    exact onlyAtoms_hbmAtom ..
  · exact .refl s

/-- Speculative operations on lines without records change HBM, and what it held, alone. -/
theorem onlyAtoms_applySpec {s : State} {ops : List (Option Nat × SpecOp)} (h : ∀ o ∈ ops, s.lineRec o.2.addr = none) :
    OnlyAtoms s (applySpec s ops) := by
  induction ops using List.reverseRecOn with
  | nil => exact .refl s
  | append_singleton ops o ih =>
    have hfold := ih fun x hx => h x (List.mem_append_left _ hx)
    have hline : (applySpec s ops).lineRec o.2.addr = none :=
      (hfold.keep (·.lineRec o.2.addr) fun _ _ _ _ _ => rfl).trans (h o (List.mem_append_right _ (List.mem_singleton.2 rfl)))
    have hstall : (applySpec s ops).stalled o.2.addr = false := by rw [State.stalled, hline]
    have hlast : applySpec s (ops ++ [o]) = (applySpec s ops).outsideAtom o.2.key o.2.addr o.2.aop o.2.operand o.2.compare := by
      unfold applySpec at hstall ⊢
      rw [List.foldl_append, List.foldl_cons, List.foldl_nil]
      exact if_neg (by rw [hstall]; decide)
    rw [hlast]
    exact hfold.trans (onlyAtoms_outsideAtom hline ..)

theorem exec_remoteCommit {s : State} {q : RemoteReq} {k : Nat} (hq : s.ev.req = some q) (hg : q.group = some k) (hop : q.op = .commit)
    (hup : s.portsUp = true) (hplain : ∀ y ∈ s.farSpec, y.1 = (q.dev, k) → s.lineRec y.2.addr = none) :
    ∃ t, exec .remoteAccessRequest s = .next t ∧ t.groups = s.groups ∧ t.blocks = s.blocks ∧ (∀ y ∈ t.farSpec, y.1 ≠ (q.dev, k)) ∧
      ((∀ y ∈ s.farSpec, y.1 ≠ (q.dev, k)) → t.hbm = s.hbm) := by
  have hexec : exec .remoteAccessRequest s = .next (s.farCommit (q.dev, k)) := by
    show execRemoteAccessRequest s = _
    rw [execRemoteAccessRequest, hq]
    dsimp only
    rw [hop, hg]
    dsimp only [Option.getD_some]
    rw [if_pos hup]
  have honly : OnlyAtoms { s with farSpec := s.farSpec.filter fun x => x.1 != (q.dev, k) } (s.farCommit (q.dev, k)) := by
    refine onlyAtoms_applySpec fun o ho => ?_
    obtain ⟨o', ho', rfl⟩ := List.mem_map.1 ho
    obtain ⟨y, hy, rfl⟩ := List.mem_map.1 ho'
    obtain ⟨hmem, hkey⟩ := List.mem_filter.1 hy
    exact hplain y hmem (beq_iff_eq.1 hkey)
  refine ⟨_, hexec, honly.keep (·.groups) fun _ _ _ _ _ => rfl, honly.keep (·.blocks) fun _ _ _ _ _ => rfl, ?_, fun hnone => ?_⟩
  · rw [honly.keep (·.farSpec) fun _ _ _ _ _ => rfl]
    exact fun y hy => by simpa using (List.mem_filter.1 hy).2
  · rw [State.farCommit, farOps_none hnone]
    rfl

theorem exec_regionAbort {s : State} {i : Nat} {reason : Byte} (hm : s.ev.msg = some (.abort i reason)) (hup : s.portsUp = true) :
    exec .remoteRegionMessage s = .next (s.abortRegion i reason) := by
  show execRemoteRegionMessage s = _
  rw [execRemoteRegionMessage, hm]
  dsimp only
  rw [if_pos hup]
  rfl

/-- Settles O59: each event by what it is, the losses of power and the leases by the state that they make anew. -/
theorem powerLinkBoardEvents : Obligations.PowerLinkBoardEvents := by
  intro s
  dsimp only
  refine ⟨fun ha hon => ?_, fun ha => ?_, fun hon hb => ?_, fun hon ha hle => ?_, fun hon ha => ?_, fun hrows hall => ?_, rfl, rfl, rfl,
    fun hbit hflag => ?_, fun hbit => ?_, fun hbit hdown => ?_, fun hbit hon h0 => ?_, fun hbit hon h => ?_, ?_, rfl, rfl, rfl, rfl, rfl,
    fun hnone => ?_, fun i x hone hstate hmembers hlies => ?_, fun ha hdom hne => ?_, fun q hq hon h0 h4 key hkey => ⟨fun n hop hin hplain hmine => ?_,
      fun bs hop hin hne hwf hplain => ?_⟩, fun q k hq hg hon h0 h4 => ⟨fun lane aop d cmp bad key hop hkey hin hplain hmine hroom => ?_,
      fun which hop => ?_, fun hop hplain => ?_⟩, fun hdown => exec_remote_down (portsUp_down hdown),
    fun i reason hon h0 h4 hmsg hopen => ?_⟩
  · rw [exec_inputVoltage, if_pos]
    · exact ⟨_, rfl, rfl, rfl, rfl, rfl, rfl, rfl, rfl⟩
    · have hvolts := voltsOk_iff s.ev.a
      rw [hon, Bool.true_and, Bool.not_eq_true', ← Bool.not_eq_true, hvolts]
      omega
  · rw [exec_inputVoltage, if_neg]
    have hvolts := voltsOk_iff s.ev.a
    rw [Bool.and_eq_true, Bool.not_eq_true', ← Bool.not_eq_true, hvolts]
    rintro ⟨hon, hout⟩
    rcases ha with ha | ha
    · exact hout ha
    · rw [hon] at ha
      cases ha
  · rw [exec_powerWindowEnd hon hb, State.setBrake]
    dsimp only
    cases hp : s.power.pwrBrake <;> cases ht : s.power.thermBrake <;> simp [hp, ht]
  · rw [exec_inletOver hon ha, if_neg (by omega), State.setBrake]
    dsimp only
    cases hp : s.power.pwrBrake <;> cases ht : s.power.thermBrake <;> simp [hp, ht]
  · rw [exec_inletOver hon (by omega), if_pos ha]
    exact ⟨_, rfl, rfl, rfl⟩
  · have hblocked := coreBlocked_of hrows hall
    refine ⟨fun hclock => ?_, fun hclock => ?_, fun n row rest hfirst hclock hnew => hangReport_reports hfirst hblocked hclock hnew⟩
    · show execCicadaClockGate s = _
      rw [execCicadaClockGate, hblocked, hclock]
      rfl
    · show execCicadaPowerGate s = _
      rw [execCicadaPowerGate, hblocked, hclock]
      rfl
  · rw [exec_i3cLeasereq, if_pos hbit, ← hflag]
    rfl
  · rw [exec_i3cLeasereq, if_neg (by rw [hbit]; decide)]
  · rw [exec_i3cLeasereq, if_pos hbit, exec_leaseReset_none hdown]
  · rw [exec_i3cLeasereq, if_pos hbit, leaseReset_asks hon h0]
  · exact ⟨_, by rw [exec_i3cLeasereq, if_pos hbit], leaseReset_begins hon h false⟩
  · simp only [List.forall_mem_cons, List.not_mem_nil, false_imp_iff, implies_true, and_true, ← Option.isNone_iff_eq_none]
    exact ⟨rfl, rfl⟩
  · rw [exec_fabricRouteLost, List.filter_eq_nil_iff.2 fun y hy => ?_]
    · rfl
    · rw [liesAt_iff]
      obtain ⟨hholds, hfar⟩ := hnone y hy
      rintro (h | ⟨hlt, z, hz, heq⟩ | ⟨hge, heq⟩)
      · exact hholds h
      · rw [if_pos hlt] at hfar
        exact hfar z hz heq
      · rw [if_neg (by omega)] at hfar
        exact hfar heq
  · have hfar : [(i, x)].filter (fun x => x.2.holders.contains s.ev.a ||
        if x.1 < 256 then x.2.remote.any fun y => y.1 == s.ev.a else (x.1 - 256) / 256 % 256 == s.ev.a) = [(i, x)] :=
      List.filter_cons_of_pos ((liesAt_iff s.ev.a (i, x)).2 hlies)
    have hregion : ({ s with routes := sdel s.ev.a s.routes } : State).region i = x := by
      show (tget i s.regions).getD {} = x
      rw [hone, tget, if_pos rfl]
      rfl
    have hactive : (({ s with routes := sdel s.ev.a s.routes } : State).region i).state = .opened ∨
        (({ s with routes := sdel s.ev.a s.routes } : State).region i).state = .sealed := by rwa [hregion]
    have hexec : exec .fabricRouteLost s = .next (({ s with routes := sdel s.ev.a s.routes } : State).abortRegion i 8) :=
      (exec_fabricRouteLost s).trans (congrArg
        (fun rs : List (Nat × Region) => Host.Outcome.next (rs.foldl (fun s x => s.abortRegion x.1 8) { s with routes := sdel s.ev.a s.routes }))
        ((congrArg (List.filter _) hone).trans hfar))
    refine ⟨_, hexec, ?_, ?_, ?_⟩
    · rcases region_abortRegion hactive 8 with h | ⟨h, -⟩
      · rw [h]
      · rw [hregion] at h
        exact absurd h hmembers
    · rcases region_abortRegion hactive 8 with h | ⟨h, -⟩
      · rw [h]
      · rw [hregion] at h
        exact absurd h hmembers
    · exact abortRegion_keeps (·.hbm) (fun _ _ => rfl) (fun _ _ => rfl) (fun _ _ => rfl) (fun _ _ => rfl) _ i 8
  · show execFabricRouteRestored s = _
    rw [execFabricRouteRestored, if_pos ⟨ha, hdom, hne⟩]
  · rw [exec_remoteRead hq hop (portsUp_of hon h0 h4) hkey hin hplain hmine, State.answer]
    have htag : (n == 16 && s.hbmTag key q.addr) = (decide (n = 16) && s.hbmTag key q.addr) := by rw [beq_eq_decide]
    rw [htag]
    rfl
  · rw [exec_remoteWrite hq hop (portsUp_of hon h0 h4) hkey hin fun i hi => (hplain i hi).1]
    have honly := hbmWrite_only s key q.addr bs
    exact ⟨_, rfl, honly.groups, honly.blocks, fun i hi => hbmByte_hbmWrite hwf hi (hplain i hi).2⟩
  · rw [exec_remoteSpeculate hq hg hop (portsUp_of hon h0 h4) hkey hin hplain hmine hroom]
    rfl
  · exact exec_remoteDiscard hq hg hop (portsUp_of hon h0 h4)
  · exact exec_remoteCommit hq hg hop (portsUp_of hon h0 h4) hplain
  · have hleaves := fun {β : Type} (p : State → β) (hr : ∀ (s : State) rs, p { s with regions := rs } = p s)
        (hgr : ∀ (s : State) gs, p { s with groups := gs } = p s) (hi : ∀ (s : State) is, p { s with images := is } = p s)
        (hd : ∀ (s : State) ds, p { s with dies := ds } = p s) => abortRegion_keeps p hgr hi hd hr s i reason
    refine ⟨_, exec_regionAbort hmsg (portsUp_of hon h0 h4), hleaves (·.hbm) (fun _ _ => rfl) (fun _ _ => rfl) (fun _ _ => rfl) (fun _ _ => rfl),
      hleaves (·.blocks) (fun _ _ => rfl) (fun _ _ => rfl) (fun _ _ => rfl) (fun _ _ => rfl), ?_⟩
    rcases region_abortRegion (.inl hopen) reason with h | ⟨-, h⟩
    · rw [h]
      exact .inr ⟨rfl, rfl⟩
    · rw [h]
      exact .inl rfl

end Sys2Proof.Machine
end

section
/-!
PROOFS. The instructions of the concurrent regions (R299 to R306), with one lane.
-/

namespace Sys2Proof.Machine

open Sys2Proof Sys2Proof.Machine.Claims

/-! ### What the bounds check's counts leave -/

section
variable {s t : State} (h : Tallied s t)
include h

theorem Tallied.regions : t.regions = s.regions := by rw [← h.rest]
theorem Tallied.images : t.images = s.images := by rw [← h.rest]
theorem Tallied.domid : t.domid = s.domid := by rw [← h.rest]
theorem Tallied.openCount : t.openCount = s.openCount := by rw [← h.rest]
theorem Tallied.routes : t.routes = s.routes := by rw [← h.rest]
theorem Tallied.dies : t.dies = s.dies := by rw [← h.rest]
theorem Tallied.regionOf (c : DWord) : t.regionOf c = s.regionOf c := by
  simp only [State.regionOf, h.domid, h.region]

theorem Tallied.freeObject : t.freeObject = s.freeObject := by
  simp only [State.freeObject, h.region]

theorem Tallied.keepsAge (c : Cap) : t.keepsAge c = s.keepsAge c := by
  simp only [State.keepsAge, State.isHome, h.domid, h.regionOf, h.region]

theorem Tallied.allVoted (k : Nat) : t.allVoted k = s.allVoted k := by
  simp only [State.allVoted, State.hasVoted, h.region, h.groups, h.images]

theorem Tallied.regNo (l : Latch) (r : LRef) (code : Nat) (n : Reg) : regNo t l r code n = regNo s l r code n := h.num l r code n.toNat

theorem Tallied.rdCap (l : Latch) (r : LRef) (code : Nat) (n : Reg) : rdCap t l r code n = rdCap s l r code n := by
  rw [Claims.rdCap, Claims.rdCap, h.cap, h.regNo]

theorem Tallied.rdBad (l : Latch) (r : LRef) (code : Nat) (n : Reg) : rdBad t l r code n = rdBad s l r code n := by
  rw [Claims.rdBad, Claims.rdBad, h.quadPoison, h.regNo]

theorem Tallied.rd (l : Latch) (r : LRef) (code : Nat) (n : Reg) : rd t l r code n = rd s l r code n := by
  rw [Claims.rd, Claims.rd, h.regNo, h.reg]

theorem Tallied.abortTarget (l : Latch) (r : LRef) (b : Reg) : (t.work l).abortTarget r b = (s.work l).abortTarget r b := by
  simp only [Work.abortTarget, h.num, show ∀ u : State, (u.work l).s = u from fun _ => rfl, h.cap, h.quadPoison, h.lane]

end

/-- What a change of groups leaves of each of them it leaves of a group. -/
theorem group_modGroup_field {α : Type} (p : Group → α) {f : Group → Group} (hid : ∀ g, (f g).gid = g.gid) (hp : ∀ g, p (f g) = p g)
    (s : State) (gid x : Nat) : p ((s.modGroup gid f).group x) = p (s.group x) := by
  have hstep : ∀ g : Group, (if g.gid == gid then f g else g).gid = g.gid := by
    intro g
    split
    · exact hid g
    · rfl
  rw [State.group, State.modGroup, find_map_gid _ _ hstep, State.group]
  cases s.groups.find? (·.gid == x) with
  | none => rfl
  | some g =>
    simp only [Option.map_some, Option.getD_some]
    split
    · exact hp g
    · rfl

/-! ### Beginnings -/

section
variable {s : State} {l : Latch} {r : LRef} (h : Alone s l r)
include h

/-- A lane with a sound handle passes the checks of R302. -/
theorem checkRegion_good {a : Reg} (hbad : rdBad s l r codeA a = false) (htag : (rdCap s l r codeA a).tag = true)
    (hty : (rdCap s l r codeA a).otype = 1) : (s.work l).checkRegion a = s.work l := by
  rw [Work.checkRegion, h.actors_work h.real, List.foldl_cons, List.foldl_nil]
  have hverdict : regVerdict (s.cap r ((s.work l).quadA r a)) (s.quadPoison r ((s.work l).quadA r a)) = none := by
    rw [regVerdict, show s.quadPoison r ((s.work l).quadA r a) = false from hbad,
      show s.cap r ((s.work l).quadA r a) = rdCap s l r codeA a from rfl, htag, hty]
    rfl
  rw [show (s.work l).s = s from rfl, hverdict]

/-! ### Opening -/

omit h in
theorem openLane_none {n : Nat} (hfree : s.freeObject = none) (reopen : Bool) :
    (s.work l).openLane r n reopen = (s.wrCap r n {} []).work l := by
  rw [Work.openLane, show (s.work l).s = s from rfl, hfree]
  rfl

omit h in
theorem openLane_new {n k : Nat} (hfree : s.freeObject = some k) :
    (s.work l).openLane r n false =
      (({ s.modRegion k (fun _ => { state := .opened, count := s.openCount.toNat, ctx := (s.group r.1).ctx }) with
          openCount := s.openCount + 1 }.wrCap r n
        (mkHandle (s.openCount.toNat * 65536 + s.domid.toNat * 256 + k) 0x80 1) []).work l) := by
  rw [Work.openLane, show (s.work l).s = s from rfl, hfree]
  rfl

omit h in
theorem openLane_kept {n k : Nat} (hfree : s.freeObject = some k) (hbad : s.quadPoison r n = false) (hage : s.keepsAge (s.cap r n) = true) :
    (s.work l).openLane r n true =
      ((s.modRegion k (fun _ => { state := .opened, count := (s.cap r n).cursor.toNat / 65536, ctx := (s.group r.1).ctx })).wrCap r n
        (mkHandle ((s.cap r n).cursor.toNat / 65536 * 65536 + s.domid.toNat * 256 + k) 0x80 1) []).work l := by
  rw [Work.openLane, show (s.work l).s = s from rfl, hfree, hbad]
  dsimp only
  rw [hage]
  rfl

theorem openOp_eq {d a : Reg} (hf : InRange s l [rfld codeD d 4, rfld codeA a]) (hp : (rd s l r codeA a).poison = false) :
    openOp d a s = ((((counted s l [rfld codeD d 4, rfld codeA a]).work l).openLane r (regNo s l r codeD d)
      ((rd s l r codeA a).val.getLsbD 0)).zeroRegs codeD d.toNat 4).finish := by
  have h0 := tallied_counted hf
  have hu := h.counted hf
  rw [openOp, withGather_latched h.ready.latched, sources_counted hf none rfl]
  simp only [show ((counted s l [rfld codeD d 4, rfld codeA a]).work l).live = [r] from h.only, List.foldl_cons, List.foldl_nil]
  have hreg : ((counted s l [rfld codeD d 4, rfld codeA a]).work l).regOf r codeA a = rd s l r codeA a := h0.rd l r codeA a
  have hno : ((counted s l [rfld codeD d 4, rfld codeA a]).work l).rnum r codeD d.toNat = regNo s l r codeD d := h0.regNo l r codeD d
  rw [hreg, hp, hno, show ((counted s l [rfld codeD d 4, rfld codeA a]).work l).s.lane r =
    (counted s l [rfld codeD d 4, rfld codeA a]).lane r from rfl, hu.real]
  rfl

/-! ### Joining -/

omit h in
theorem joinRegion_opened {c : DWord} {k : Nat} (hk : s.regionOf c = some k) (hopen : (s.region k).state = .opened)
    (hnone : (s.group r.1).region = none) (hroom : (s.region k).members.length + (s.region k).remote.length < 4096)
    (target : Cap × DWord) : s.joinRegion r.1 c target = .ok ((s.modGroup r.1 fun x =>
      { x with region := some { handle := c, target := target.1, anchor := target.2 } }).modRegion k fun x =>
        { x with members := x.members ++ [r.1] }) := by
  have hjoin : s.joinable c = some (s, k) := by
    rw [State.joinable, hk]
    dsimp only
    rw [hopen]
    rfl
  rw [State.joinRegion]
  dsimp only
  rw [hnone, hjoin]
  simp only [Option.isSome_none, Bool.false_and, Bool.false_eq_true, if_false]
  rw [decide_eq_false (Nat.not_le.2 hroom)]
  rfl

omit h in
theorem abortTarget_eq (b : Reg) : (s.work l).abortTarget r b =
    if rdBad s l r codeB b then .error (0x0A, (rdCap s l r codeB b).cursor)
    else if (rdCap s l r codeB b).tag then
      if (rdCap s l r codeB b).otype ≠ 0 then .error (0x07, (rdCap s l r codeB b).cursor)
      else if !(rdCap s l r codeB b).perm 5 then .error (0x06, (rdCap s l r codeB b).cursor)
      else .ok (rdCap s l r codeB b, (rdCap s l r codeB b).cursor)
    else if (rdCap s l r codeB b).md ≠ 0 then .error (0x04, (rdCap s l r codeB b).cursor)
    else .ok ((s.lane r).code.at ((s.lane r).entry + (rdCap s l r codeB b).cursor), (s.lane r).anchor) := rfl

omit h in
theorem actual_one (hreal : (s.lane r).helper = false) : s.actual r.1 [r] = [r] := by
  simp [State.actual, hreal]

theorem exec_arjoin_good {a b : Reg} (hf : InRange s l [rfld codeA a 4, rfld codeB b 4]) (hbad : rdBad s l r codeA a = false)
    (htag : (rdCap s l r codeA a).tag = true) (hty : (rdCap s l r codeA a).otype = 1) {k : Nat}
    (hk : s.regionOf (rdCap s l r codeA a).cursor = some k) (hopen : (s.region k).state = .opened) (hnone : (s.group r.1).region = none)
    (hroom : (s.region k).members.length + (s.region k).remote.length < 4096) {target : Cap × DWord}
    (htarget : (s.work l).abortTarget r b = .ok target) : exec (.arjoin a b) s = .next (past l r
      (((counted s l [rfld codeA a 4, rfld codeB b 4]).modGroup r.1 fun x =>
        { x with region := some { handle := (rdCap s l r codeA a).cursor, target := target.1, anchor := target.2 } }).modRegion
          k fun x => { x with members := x.members ++ [r.1] })) := by
  have h0 := tallied_counted hf
  have hu := h.counted hf
  show execArjoin a b s = _
  rw [execArjoin, withGather_latched h.ready.latched, sources_counted hf none rfl]
  generalize counted s l [rfld codeA a 4, rfld codeB b 4] = u at h0 hu ⊢
  rw [checkRegion_good hu ((h0.rdBad ..).trans hbad) (by rw [h0.rdCap, htag]) (by rw [h0.rdCap, hty])]
  have hactual : u.actual r.1 [r] = [r] := actual_one hu.real
  have hhandle : (u.work l).handleA r a = (rdCap s l r codeA a).cursor := congrArg (·.cursor) (h0.rdCap l r codeA a)
  simp only [show (u.work l).live = [r] from h.only, show (u.work l).s = u from rfl, groupsOf_one, List.foldl_cons, List.foldl_nil, hactual,
    hhandle, h0.abortTarget, htarget, List.any_nil, Bool.false_eq_true, if_false]
  rw [joinRegion_opened (r := r) ((h0.regionOf _).trans hk) (by rw [h0.region, hopen]) (by rw [h0.group, hnone])
    (by rw [h0.region]; exact hroom)]
  exact h.finish_of rfl rfl h.late rfl ((group_modGroup_field (·.taskKill)
    (f := fun x => { x with region := some { handle := (rdCap s l r codeA a).cursor, target := target.1, anchor := target.2 } })
    (fun _ => rfl) (fun _ => rfl) u r.1 r.1).trans hu.plain)

/-! ### Sealing and aborting -/

omit h in
theorem decideRegion_waits {t : State} {k : Nat} (hv : t.allVoted k = false) : t.decideRegion k = t := by
  rw [State.decideRegion, hv, Bool.and_false, if_neg (by decide)]

omit h in
theorem allVoted_modRegion {k : Nat} {f : Region → Region} (hm : ∀ x, (f x).members = x.members) (hr : ∀ x, (f x).remote = x.remote)
    (hv : ∀ x, (f x).remoteVoted = x.remoteVoted) (t : State) : (t.modRegion k f).allVoted k = t.allVoted k := by
  rw [State.allVoted, State.allVoted, region_modRegion_self]
  simp only [hm, hr, hv]
  rfl

/-- The handle of a lane with a sound one. -/
structure RegionHandle (s : State) (l : Latch) (r : LRef) (a : Reg) : Prop where
  bad : rdBad s l r codeA a = false
  tag : (rdCap s l r codeA a).tag = true
  otype : (rdCap s l r codeA a).otype = 1

/-- What every instruction on a handle begins with. -/
theorem handle_begin {flds : List Fld} (hf : InRange s l flds) {a : Reg} (hh : RegionHandle s l r a) :
    ((s.work l).sources flds none none none).checkRegion a = (counted s l flds).work l ∧
      ((counted s l flds).work l).handleA r a = (rdCap s l r codeA a).cursor ∧ ((counted s l flds).work l).actors = [r] := by
  have h0 := tallied_counted hf
  rw [sources_counted hf none rfl]
  exact ⟨checkRegion_good (h.counted hf) ((h0.rdBad ..).trans hh.bad) (by rw [h0.rdCap, hh.tag]) (by rw [h0.rdCap, hh.otype]),
    congrArg (·.cursor) (h0.rdCap l r codeA a), (h.counted hf).actors_work (h.counted hf).real⟩

theorem exec_arseal_open {a : Reg} {k : Nat} (hf : InRange s l [rfld codeA a 4]) (hh : RegionHandle s l r a)
    (hk : s.regionOf (rdCap s l r codeA a).cursor = some k) (hopen : (s.region k).state = .opened) (hv : s.allVoted k = false) :
    exec (.arseal a) s = .next (past l r ((counted s l [rfld codeA a 4]).modRegion k fun y => { y with state := .sealed })) := by
  have h0 := tallied_counted hf
  obtain ⟨hbegin, hhandle, hactors⟩ := handle_begin h hf hh
  show execArseal a s = _
  rw [execArseal, withGather_latched h.ready.latched, hbegin]
  dsimp only
  rw [hactors, List.foldl_cons, List.foldl_nil, hhandle, show ((counted s l [rfld codeA a 4]).work l).s = counted s l [rfld codeA a 4] from rfl,
    (h0.regionOf _).trans hk]
  dsimp only
  rw [h0.region, hopen, if_pos (by decide), decideRegion_waits ((allVoted_modRegion (f := fun y => { y with state := .sealed }) (fun _ => rfl) (fun _ => rfl)
    (fun _ => rfl) _).trans ((h0.allVoted k).trans hv))]
  exact h.finish_of rfl h.only h.late rfl (h.counted hf).plain

theorem exec_arseal_other {a : Reg} {k : Nat} (hf : InRange s l [rfld codeA a 4]) (hh : RegionHandle s l r a)
    (hk : s.regionOf (rdCap s l r codeA a).cursor = some k) (hopen : (s.region k).state ≠ .opened) :
    exec (.arseal a) s = .next (past l r (counted s l [rfld codeA a 4])) := by
  have h0 := tallied_counted hf
  obtain ⟨hbegin, hhandle, hactors⟩ := handle_begin h hf hh
  show execArseal a s = _
  rw [execArseal, withGather_latched h.ready.latched, hbegin]
  dsimp only
  rw [hactors, List.foldl_cons, List.foldl_nil, hhandle, show ((counted s l [rfld codeA a 4]).work l).s = counted s l [rfld codeA a 4] from rfl,
    (h0.regionOf _).trans hk]
  dsimp only
  rw [h0.region, if_neg (by simpa using hopen)]
  exact h.finish_of rfl h.only h.late rfl (h.counted hf).plain

theorem exec_arabort_named {a : Reg} {k : Nat} (hf : InRange s l [rfld codeA a 4]) (hh : RegionHandle s l r a)
    (hk : s.regionOf (rdCap s l r codeA a).cursor = some k) :
    exec (.arabort a) s = .next (past l r ((counted s l [rfld codeA a 4]).abortRegion k 1)) := by
  have h0 := tallied_counted hf
  obtain ⟨hbegin, hhandle, hactors⟩ := handle_begin h hf hh
  show execArabort a s = _
  rw [execArabort, withGather_latched h.ready.latched, hbegin]
  dsimp only
  rw [hactors, List.foldl_cons, List.foldl_nil, hhandle, show ((counted s l [rfld codeA a 4]).work l).s = counted s l [rfld codeA a 4] from rfl,
    (h0.regionOf _).trans hk]
  exact h.finish_of rfl h.only h.late rfl (((beside_abortRegion _ k 1).taskKill r.1).trans (h.counted hf).plain)

omit h in
/-- Of a lane a region's decision changes what it is to be struck with alone. -/
theorem Beside.lane_field {t : State} (hb : Beside s t) {α : Type} (p : Lane → α) (hp : ∀ (x : Lane) as, p { x with async := as } = p x)
    (q : LRef) : p (t.lane q) = p (s.lane q) := by
  have haside : ∀ u : State, p (u.lane q) = p (((u.group q.1).aside.lanes[q.2]?).getD {}) := by
    intro u
    rw [State.lane, show (u.group q.1).aside.lanes = (u.group q.1).lanes.map fun x => { x with async := [] } from rfl, List.getElem?_map]
    cases (u.group q.1).lanes[q.2]? with
    | none => rfl
    | some x => exact (hp x []).symm
  rw [haside t, haside s, hb.group]

omit h in
theorem Beside.has {t : State} (hb : Beside s t) {q : LRef} (hq : s.has q) : t.has q := by
  have hids : t.groups.map (·.gid) = s.groups.map (·.gid) := by
    have hgs : ∀ u : State, u.aside.groups.map (·.gid) = u.groups.map (·.gid) := fun u => by
      rw [show u.aside.groups = u.groups.map Group.aside from rfl, List.map_map]
      rfl
    rw [← hgs t, ← hgs s, hb.rest]
  have hholds : ∀ u : State, u.holds q.1 = (u.groups.map (·.gid)).any (· == q.1) := fun u => by
    rw [State.holds, List.any_map]
    rfl
  have hlength : ∀ u : State, (u.group q.1).lanes.length = (u.group q.1).aside.lanes.length := fun u => by
    rw [show (u.group q.1).aside.lanes = (u.group q.1).lanes.map fun x => { x with async := [] } from rfl, List.length_map]
  exact ⟨by rw [hholds, hids, ← hholds]; exact hq.1, by rw [hlength, hb.group, ← hlength]; exact hq.2⟩

omit h in
theorem dir_dropRecords (k d : Nat) (hd : d < 4) : ((s.dropRecords k).die d).dir = (s.die d).dir.filter fun y => !(y.region == k) := by
  have hstep : ∀ (t : State) (j : Nat), ((if (t.die j).dir.isEmpty then t else t.modDie j fun x =>
      { x with dir := x.dir.filter fun y => !(y.region == k) }).die d).dir =
      if d = j then (t.die d).dir.filter fun y => !(y.region == k) else (t.die d).dir := by
    intro t j
    split
    · next hempty =>
      split
      · next hj => rw [hj, List.isEmpty_iff.1 hempty, List.filter_nil]
      · rfl
    · split
      · next hj => rw [hj, die_modDie_self]
      · next hj => rw [die_modDie_ne _ hj]
  have hfold : ∀ (js : List Nat) (t : State), js.Nodup → ((js.foldl (fun t j => if (t.die j).dir.isEmpty then t else t.modDie j fun x =>
      { x with dir := x.dir.filter fun y => !(y.region == k) }) t).die d).dir =
      if d ∈ js then (t.die d).dir.filter fun y => !(y.region == k) else (t.die d).dir := by
    intro js
    induction js with
    | nil => exact fun t _ => rfl
    | cons j js ih =>
      intro t hn
      obtain ⟨hj, hjs⟩ := List.nodup_cons.1 hn
      rw [List.foldl_cons, ih _ hjs, hstep]
      by_cases hd : d = j
      · rw [if_neg (hd ▸ hj), if_pos hd, if_pos (hd ▸ List.mem_cons_self)]
      · rw [if_neg hd]
        simp only [List.mem_cons, hd, false_or]
  rw [State.dropRecords, hfold _ _ (by decide), if_pos]
  interval_cases d <;> decide

omit h in
theorem dir_abortRegion {k : Nat} (hact : (s.region k).state = .opened ∨ (s.region k).state = .sealed) (reason : Byte) (d : Nat) (hd : d < 4) :
    ((s.abortRegion k reason).die d).dir = (s.die d).dir.filter fun y => y.region != k := by
  have hfree : ∀ t : State, (t.freeRegion k).die d = t.die d := by
    intro t
    unfold State.freeRegion
    dsimp only
    split
    · rfl
    · rfl
  rw [abortRegion_active hact, hfree, State.aborting]
  refine (foldl_keeps (fun u : State => (u.die d).dir) ?_ _ _).trans
    ((foldl_keeps (fun u : State => (u.die d).dir) ?_ _ _).trans (dir_dropRecords k d hd))
  · exact fun _ _ => rfl
  intro u gid
  split
  · rfl
  · rfl

/-! ### Voting -/

omit h in
theorem decideRegion_keeps (t : State) (k : Nat) : ∃ rs, t.decideRegion k = { t with regions := rs } := by
  unfold State.decideRegion
  dsimp only
  split
  · split
    · exact ⟨_, rfl⟩
    · exact ⟨_, rfl⟩
  · exact ⟨t.regions, rfl⟩

omit h in
theorem region_decideRegion_open {t : State} {k : Nat} (hs : (t.region k).state = .opened) :
    ((t.decideRegion k).region k).state = .opened := by
  rw [State.decideRegion, hs, show (RegionState.opened == .sealed) = false from rfl, Bool.and_false, Bool.false_and, if_neg (by decide), hs]

omit h in
theorem region_decideRegion_sealed {t : State} {k : Nat} (hs : (t.region k).state = .sealed) (hk : k < 256) (hv : t.allVoted k = true)
    (hm : (t.region k).members ≠ []) : ((t.decideRegion k).region k).state = .committing := by
  rw [State.decideRegion, hs, hv, decide_eq_true hk, if_pos (by decide), List.isEmpty_eq_false_iff.2 hm, Bool.false_and,
    if_neg (by decide), region_modRegion_self]

omit h in
/-- A group that is here has voted if it notes so. -/
theorem hasVoted_of {t : State} {gid : Nat} (hh : t.holds gid = true) {m : Member} (hm : (t.group gid).region = some m) (hv : m.voted = true) :
    t.hasVoted gid = true := by
  obtain ⟨g, hg⟩ : ∃ g, t.groups.find? (·.gid == gid) = some g := by
    rw [← Option.isSome_iff_exists, List.find?_isSome]
    simpa [State.holds] using hh
  rw [State.group, hg] at hm
  rw [State.hasVoted]
  simp only [List.find?_append, hg, Option.some_or]
  rw [show g.region = some m from hm]
  exact hv

/-- The lane's own arrival completes its group's, if every other lane that counts is there. -/
theorem allAtVote_parked (hall : ((s.group r.1).numbered.all fun y => y.1 == r.2 || !y.2.unexited || y.2.helper ||
      match y.2.status with | .parked .vote _ => true | _ => false) = true) :
    ((parked l r .vote s).group r.1).allAtVote = true := by
  rw [parked, group_modLane_self _ _ _ h.has.1, Group.allAtVote, List.all_eq_true]
  intro x hx
  obtain ⟨j, hj⟩ := List.mem_iff_getElem?.1 hx
  rw [List.getElem?_modify] at hj
  obtain ⟨y, hy, hyx⟩ := Option.map_eq_some_iff.1 hj
  by_cases hr : r.2 = j
  · rw [if_pos hr] at hyx
    rw [← hyx]
    simp
  · rw [if_neg hr] at hyx
    have hmem : (j, y) ∈ (s.group r.1).numbered :=
      List.mem_of_getElem? (i := j) (by rw [Group.numbered_getElem?, hy]; rfl)
    have hthere := List.all_eq_true.1 hall _ hmem
    rw [beq_eq_false_iff_ne.2 (fun e => hr e.symm), Bool.false_or] at hthere
    rw [← hyx]
    exact hthere

theorem exec_arvote_all {a : Reg} {k : Nat} {m : Member} (hf : InRange s l [rfld codeA a 4]) (hh : RegionHandle s l r a)
    (hk : s.regionOf (rdCap s l r codeA a).cursor = some k) (hm : (s.group r.1).region = some m)
    (heq : m.handle = (rdCap s l r codeA a).cursor) (hlive : m.aborted = none)
    (hall : ((s.group r.1).numbered.all fun y => y.1 == r.2 || !y.2.unexited || y.2.helper ||
      match y.2.status with | .parked .vote _ => true | _ => false) = true) :
    exec (.arvote a) s = .next (((parked l r .vote (counted s l [rfld codeA a 4])).modGroup r.1 fun g =>
      { g with region := g.region.map fun m => { m with voted := true } }).decideRegion k) := by
  have h0 := tallied_counted hf
  have hu := h.counted hf
  obtain ⟨hbegin, hhandle, hactors⟩ := handle_begin h hf hh
  show execArvote a s = _
  rw [execArvote, withGather_latched h.ready.latched, hbegin]
  generalize counted s l [rfld codeA a 4] = u at h0 hu hhandle hactors ⊢
  have hgroup : ((parked l r .vote u).group r.1).region = some m :=
    (group_modLane_field (·.region) (fun _ _ => rfl) u r _ r.1).trans (by rw [h0.group, hm])
  have hmember : (parked l r .vote u).memberOf r.1 = some k := by
    rw [State.memberOf, hgroup]
    dsimp only
    rw [hlive, heq]
    exact (h0.regionOf _).trans hk
  have hvote : (parked l r .vote u).voteGroup r.1 = ((parked l r .vote u).modGroup r.1 fun g =>
      { g with region := g.region.map fun m => { m with voted := true } }).decideRegion k := by
    rw [State.voteGroup, hmember]
    exact if_pos (allAtVote_parked hu (by rw [h0.group]; exact hall))
  simp only [hactors, List.foldl_cons, List.foldl_nil, hhandle, show (u.work l).live = [r] from h.only, groupsOf_one,
    show (u.work l).s = u from rfl, show (u.group r.1).region = some m by rw [h0.group, hm], heq, beq_self_eq_true, if_true]
  rw [hu.park_work]
  dsimp only
  rw [hvote]
  obtain ⟨rs, hrs⟩ := decideRegion_keeps ((parked l r .vote u).modGroup r.1 fun g =>
    { g with region := g.region.map fun m => { m with voted := true } }) k
  refine h.finish_left ?_ rfl rfl rfl rfl rfl
  rw [hrs]
  exact (group_modGroup_field (·.taskKill) (f := fun g => { g with region := g.region.map fun m => { m with voted := true } })
    (fun _ => rfl) (fun _ => rfl) (parked l r .vote u) r.1 r.1).trans ((group_modLane_taskKill u r _ r.1).trans hu.plain)

/-! ### The status word -/

theorem exec_arstat_word {d a : Reg} (hf : InRange s l [rfld codeD d, rfld codeA a 4]) (hh : RegionHandle s l r a) :
    exec (.arstat d a) s = .next (past l r ((counted s l [rfld codeD d, rfld codeA a 4]).wr r (regNo s l r codeD d)
      ⟨s.statWord r.1 (rdCap s l r codeA a).cursor, false⟩)) := by
  have h0 := tallied_counted hf
  have hu := h.counted hf
  obtain ⟨hbegin, hhandle, -⟩ := handle_begin h hf hh
  show execArstat d a s = _
  rw [execArstat, withGather_latched h.ready.latched, hbegin]
  dsimp only
  have hword : (counted s l [rfld codeD d, rfld codeA a 4]).statWord r.1 (rdCap s l r codeA a).cursor =
      s.statWord r.1 (rdCap s l r codeA a).cursor := by
    rw [State.statWord, State.statWord, State.farStat, State.farStat, State.isHome, State.isHome, h0.group, h0.domid, h0.regionOf, h0.steps,
      show (counted s l [rfld codeD d, rfld codeA a 4]).region = s.region from funext h0.region]
  rw [hu.writeDst_work, hu.real, if_neg (by decide), hhandle, hword, h0.regNo]
  exact hu.finish (show (((counted s l [rfld codeD d, rfld codeA a 4]).modLane r _).group r.1).taskKill = false by
    rw [group_modLane_taskKill, hu.plain])

omit h in
theorem isHome_iff (c : DWord) : s.isHome c = true ↔ c.toNat / 256 % 256 = s.domid.toNat := beq_iff_eq

/-- The group's own bits of a status word. -/
def ownBits (s : State) (gid : Nat) (c : DWord) : Nat :=
  match (s.group gid).region with
  | some m => if m.handle = c then (if m.voted = true then 24 else 8) else 0
  | none => 0

omit h in
theorem ownBits_mem (gid : Nat) (c : DWord) : ownBits s gid c = 0 ∨ ownBits s gid c = 8 ∨ ownBits s gid c = 24 := by
  unfold ownBits
  split
  · split
    · split
      · exact .inr (.inr rfl)
      · exact .inr (.inl rfl)
    · exact .inl rfl
  · exact .inl rfl

omit h in
theorem code_eq (x : RegionState) : x.code = match x with
    | .free => 0 | .opened => 1 | .sealed => 2 | .committing => 3 | .committed => 4 | .aborted => 5 := by
  cases x <;> rfl

omit h in
theorem code_le (x : RegionState) : x.code ≤ 5 := by
  cases x <;> decide

omit h in
theorem statWord_home {gid : Nat} {c : DWord} (hc : c.toNat / 256 % 256 = s.domid.toNat) {k : Nat} (hk : s.regionOf c = some k) :
    s.statWord gid c = BitVec.ofNat 32 (((s.region k).members.length + (s.region k).remote.length) * 65536 +
      (if (s.region k).state = .aborted then (s.region k).reason.toNat * 256 else 0) + ownBits s gid c + (s.region k).state.code) := by
  rw [State.statWord]
  dsimp only
  rw [if_pos ((isHome_iff c).2 hc), hk]
  have hif : (if (s.region k).state == .aborted then (s.region k).reason.toNat * 256 else 0) =
      if (s.region k).state = .aborted then (s.region k).reason.toNat * 256 else 0 := if_congr beq_iff_eq rfl rfl
  exact congrArg (fun n => BitVec.ofNat 32 ((_ + n) + ownBits s gid c + _)) hif

omit h in
theorem statWord_stale {gid : Nat} {c : DWord} (hc : c.toNat / 256 % 256 = s.domid.toNat) (hk : s.regionOf c = none) :
    s.statWord gid c = 0 := by
  rw [State.statWord]
  dsimp only
  rw [if_pos ((isHome_iff c).2 hc), hk]

omit h in
/-- The state, the reason and the members of a region of another home, in their fields. -/
theorem farStat_fields (c : DWord) : ∃ n e k : Nat, s.farStat c = n * 65536 + e * 256 + k ∧ n ≤ 4096 ∧ e < 256 ∧ k ≤ 5 ∧
    (k ≠ 5 → e = 0) ∧ ∀ i, s.regionOf c = some i → k = (s.region i).state.code := by
  have hfields : ∀ n k e : Nat, ∃ n' e' k' : Nat, (if k = 0 then 0 else n % 4097 * 2 ^ 16 + (if k = 5 then e * 256 else 0) + k) =
      n' * 65536 + e' * 256 + k' ∧ n' ≤ 4096 ∧ (e < 256 → e' < 256) ∧ k' = k ∧ (k' ≠ 5 → e' = 0) := by
    intro n k e
    by_cases h0 : k = 0
    · exact ⟨0, 0, 0, by rw [if_pos h0], by decide, fun _ => by decide, h0.symm, fun _ => rfl⟩
    · refine ⟨n % 4097, if k = 5 then e else 0, k, ?_, by omega, fun he => ?_, rfl, fun h5 => if_neg h5⟩
      · rw [if_neg h0, ite_mul, Nat.zero_mul]
        rfl
      · split
        · exact he
        · decide
  rw [State.farStat]
  cases hr : s.regionOf c with
  | none =>
    obtain ⟨n, e, k, heq, hn, he, rfl, hke⟩ := hfields ((Config.remoteStat s.steps c.toNat).toNat / 2 ^ 16)
      ((Config.remoteStat s.steps c.toNat).toNat % 6) (1 + (Config.remoteStat s.steps c.toNat).toNat / 8 % 8)
    exact ⟨n, e, _, heq, hn, he (by omega), by omega, hke, fun i hi => by cases hi⟩
  | some i =>
    obtain ⟨n, e, k, heq, hn, he, rfl, hke⟩ := hfields ((Config.remoteStat s.steps c.toNat).toNat / 2 ^ 16)
      (s.region i).state.code (s.region i).reason.toNat
    exact ⟨n, e, _, heq, hn, he (s.region i).reason.isLt, code_le _, hke, fun j hj => by cases hj; rfl⟩

omit h in
/-- Own bits stand beside a state. -/
theorem or_fields {n e k o : Nat} (hk : k ≤ 5) (ho : o = 0 ∨ o = 8 ∨ o = 24) :
    (n * 65536 + e * 256 + k) ||| o = n * 65536 + e * 256 + o + k := by
  have hsmall : k ||| o = o + k := by
    rcases ho with rfl | rfl | rfl <;> interval_cases k <;> rfl
  have hsplit : n * 65536 + e * 256 + k = 2 ^ 5 * (n * 2048 + e * 8) + k := by omega
  rw [hsplit, Nat.two_pow_add_eq_or_of_lt (show k < 2 ^ 5 by omega), Nat.or_assoc, hsmall,
    ← Nat.two_pow_add_eq_or_of_lt (show o + k < 2 ^ 5 by omega)]
  omega

omit h in
theorem statWord_far {gid : Nat} {c : DWord} (hc : c.toNat / 256 % 256 ≠ s.domid.toNat) : ∃ w, s.statWord gid c = w ∧ w.toNat % 8 ≤ 5 ∧
    w.toNat / 8 % 4 = ownBits s gid c / 8 ∧ w.toNat / 65536 ≤ 4096 ∧ (w.toNat % 8 ≠ 5 → w.toNat / 256 % 256 = 0) ∧
    ∀ k, s.regionOf c = some k → w.toNat % 8 = (s.region k).state.code := by
  obtain ⟨n, e, k, hfar, hn, he, hk, hke, hcode⟩ := farStat_fields (s := s) c
  have ho := ownBits_mem (s := s) gid c
  have hw : (s.statWord gid c).toNat = n * 65536 + e * 256 + ownBits s gid c + k := by
    rw [State.statWord]
    dsimp only
    rw [if_neg (fun hhome => hc ((isHome_iff c).1 hhome)), ← BitVec.ofNat_or, BitVec.toNat_ofNat, hfar]
    exact (congrArg (· % 2 ^ 32) (or_fields hk ho)).trans (Nat.mod_eq_of_lt (by omega))
  refine ⟨_, rfl, ?_⟩
  rw [hw]
  have hstate : (n * 65536 + e * 256 + ownBits s gid c + k) % 8 = k := by omega
  refine ⟨by omega, by omega, by omega, fun h5 => ?_, fun i hi => by rw [hstate, hcode i hi]⟩
  rw [hke (by omega)]
  omega

end

/-! ### The statement -/

/-- Settles O51: each instruction begins with a sound handle, whose region the bounds check's counts leave as it is. -/
theorem regionResults : Obligations.RegionResults := by
  intro s l r h
  dsimp only
  refine ⟨?_, ?_, ?_, ?_⟩
  · intro d a hf hp i hi
    have h0 := tallied_counted hf
    have hu := h.counted hf
    have hexec : exec i s = openOp d a s := by
      rcases List.mem_cons.1 hi with rfl | hi
      · rfl
      · rcases List.mem_singleton.1 hi with rfl
        rfl
    have hkill : ∀ (t : State), t.groups = s.groups → ∀ (n : Nat) c p, ((t.wrCap r n c p).group r.1).taskKill = false := by
      intro t ht n c p
      rw [State.wrCap, group_modLane_taskKill, State.group, ht]
      exact h.plain
    refine ⟨fun hfree => ?_, fun k hfree hbit => ?_, fun k hfree hbit hbad hage => ?_⟩
    · rw [hexec, openOp_eq h hf hp, openLane_none (h0.freeObject.trans hfree), zeroRegs_work]
      exact h.finish (hkill _ h0.groups _ _ _)
    · rw [hexec, openOp_eq h hf hp, hbit, openLane_new (h0.freeObject.trans hfree), zeroRegs_work, h0.openCount, h0.group, h0.domid]
      exact h.finish (hkill _ h0.groups _ _ _)
    · rw [hexec, openOp_eq h hf hp, hbit, openLane_kept (h0.freeObject.trans hfree) ((h0.quadPoison r _).trans hbad)
        (by rw [h0.keepsAge, h0.cap, hage]), zeroRegs_work, h0.cap, h0.group, h0.domid]
      exact h.finish (hkill _ h0.groups _ _ _)
  · intro a b k hf hgood hk hopen hnone hroom hbad
    obtain ⟨hbadA, htag, hty⟩ := hgood
    refine ⟨fun htagB htyB hperm => ?_, fun htagB hmd => ?_⟩
    · refine exec_arjoin_good h hf hbadA htag hty hk hopen hnone hroom (target := (rdCap s l r codeB b, (rdCap s l r codeB b).cursor)) ?_
      rw [abortTarget_eq, hbad, htagB, htyB, hperm]
      rfl
    · refine exec_arjoin_good h hf hbadA htag hty hk hopen hnone hroom 
        (target := ((s.lane r).code.at ((s.lane r).entry + (rdCap s l r codeB b).cursor), (s.lane r).anchor)) ?_
      rw [abortTarget_eq, hbad, htagB, hmd]
      rfl
  · intro a k hf hgood hk
    obtain ⟨hbadA, htag, hty⟩ := hgood
    have hh : RegionHandle s l r a := ⟨hbadA, htag, hty⟩
    have h0 := tallied_counted hf
    refine ⟨exec_arseal_open h hf hh hk, exec_arseal_other h hf hh hk, fun hact => ?_, fun m hm heq hlive _ hall => ?_⟩
    · have hb : Beside (counted s l [rfld codeA a 4]) ((counted s l [rfld codeA a 4]).abortRegion k 1) := beside_abortRegion _ k 1
      have hactu : ((counted s l [rfld codeA a 4]).region k).state = .opened ∨ ((counted s l [rfld codeA a 4]).region k).state = .sealed := by
        rwa [h0.region]
      have hlane := lane_modLane_self _ r (·.advance l.pc) (hb.has (h.counted hf).has)
      have hkeep : ∀ {β : Type} (p : Lane → β), (∀ (x : Lane) as, p { x with async := as } = p x) →
          p (((counted s l [rfld codeA a 4]).abortRegion k 1).lane r) = p (s.lane r) := fun p hp => by
        rw [hb.lane_field p hp, h0.lane]
      refine ⟨_, exec_arabort_named h hf hh hk, ?_, ?_, ?_, ?_, ?_, ?_, ?_⟩
      · show ((((counted s l [rfld codeA a 4]).abortRegion k 1).region k).state) ∈ _
        rcases region_abortRegion hactu 1 with hr | ⟨-, hr⟩
        · rw [hr]
          simp
        · rw [hr]
          simp
      · show ((((counted s l [rfld codeA a 4]).abortRegion k 1).region k).state) = _ →
          ((((counted s l [rfld codeA a 4]).abortRegion k 1).region k).reason) = 1
        rcases region_abortRegion hactu 1 with hr | ⟨-, hr⟩
        · rw [hr]
          exact fun _ => rfl
        · rw [hr]
          exact fun e => by cases e
      · rw [past, hlane, (Lane.advance_keeps _ _).1]
        exact hkeep (·.regs) fun _ _ => rfl
      · rw [past, hlane]
        exact Lane.advance_pc_congr (hkeep (·.loop) fun _ _ => rfl) (hkeep (·.code) fun _ _ => rfl) _
      · exact (abortRegion_keeps (·.hbm) (fun _ _ => rfl) (fun _ _ => rfl) (fun _ _ => rfl) (fun _ _ => rfl) _ k 1).trans h0.hbm
      · exact (abortRegion_keeps (·.blocks) (fun _ _ => rfl) (fun _ _ => rfl) (fun _ _ => rfl) (fun _ _ => rfl) _ k 1).trans h0.blocks
      · intro d hd
        refine (dir_abortRegion hactu 1 d hd).trans ?_
        rw [h0.die]
    · have hexec := exec_arvote_all h hf hh hk hm heq hlive hall
      have hfields : ∀ {β : Type} (p : State → β), (∀ (t : State) rs, p { t with regions := rs } = p t) →
          p (((parked l r .vote (counted s l [rfld codeA a 4])).modGroup r.1 fun g =>
            { g with region := g.region.map fun m => { m with voted := true } }).decideRegion k) =
          p ((parked l r .vote (counted s l [rfld codeA a 4])).modGroup r.1 fun g =>
            { g with region := g.region.map fun m => { m with voted := true } }) := by
        intro β p hp
        obtain ⟨rs, hrs⟩ := decideRegion_keeps ((parked l r .vote (counted s l [rfld codeA a 4])).modGroup r.1 fun g =>
          { g with region := g.region.map fun m => { m with voted := true } }) k
        rw [hrs, hp]
      have hlane : ∀ q, ((parked l r .vote (counted s l [rfld codeA a 4])).modGroup r.1 fun g =>
          { g with region := g.region.map fun m => { m with voted := true } }).lane q =
          (parked l r .vote (counted s l [rfld codeA a 4])).lane q := fun q => by
        rw [State.lane, State.lane]
        exact congrArg (fun ls : List Lane => (ls[q.2]?).getD {}) (group_modGroup_field (·.lanes)
          (f := fun g => { g with region := g.region.map fun m => { m with voted := true } }) (fun _ => rfl) (fun _ => rfl) _ r.1 q.1)
      have hself := (hlane r).trans (lane_modLane_self (counted s l [rfld codeA a 4]) r _ (h.counted hf).has)
      have hholds : (parked l r .vote (counted s l [rfld codeA a 4])).holds r.1 = true :=
        (holds_modLane _ _ _ _).trans (h.counted hf).has.1
      have hgroup : (((parked l r .vote (counted s l [rfld codeA a 4])).modGroup r.1 fun g =>
          { g with region := g.region.map fun m => { m with voted := true } }).group r.1).region = some { m with voted := true } := by
        rw [group_modGroup_self _ _ _ (fun _ => by rfl) hholds]
        have hbefore : ((parked l r .vote (counted s l [rfld codeA a 4])).group r.1).region = some m :=
          (group_modLane_field (·.region) (fun _ _ => rfl) _ r _ r.1).trans (by rw [h0.group, hm])
        rw [hbefore]
        rfl
      refine ⟨_, hexec, ?_, ?_, fun q hq => ?_, ?_, ?_, fun hopen => ?_, fun hsealed hk256 hmembers hremote => ?_⟩
      · rw [hfields (fun t => t.lane r) (fun _ _ => rfl), hself]
      · rw [hfields (fun t => t.lane r) (fun _ _ => rfl), hself, h0.lane]
      · rw [hfields (fun t => t.lane q) (fun _ _ => rfl), hlane, parked, lane_modLane_ne _ hq, h0.lane]
      · exact (hfields (·.hbm) fun _ _ => rfl).trans h0.hbm
      · rw [hfields (fun t => t.group r.1) (fun _ _ => rfl), hgroup]
      · exact region_decideRegion_open (show ((counted s l [rfld codeA a 4]).region k).state = .opened by rw [h0.region, hopen])
      · have hregion : ((parked l r .vote (counted s l [rfld codeA a 4])).modGroup r.1 fun g =>
            { g with region := g.region.map fun m => { m with voted := true } }).region k = s.region k := h0.region k
        refine region_decideRegion_sealed (by rw [hregion, hsealed]) hk256 ?_ (by rw [hregion, hmembers]; simp)
        rw [State.allVoted, hregion, hmembers, hremote]
        simp only [List.all_cons, List.all_nil, Bool.and_true]
        exact hasVoted_of ((holds_modGroup _ _ _ _ fun _ => by rfl).trans hholds) hgroup rfl
  · intro d a hf hgood
    obtain ⟨hbadA, htag, hty⟩ := hgood
    have hexec := exec_arstat_word h hf ⟨hbadA, htag, hty⟩
    refine ⟨fun hfar => ?_, fun hhome hk => ?_, fun k hhome hk => ?_⟩
    · obtain ⟨w, hw, hstate, hown, hcount, hreason, hcode⟩ := statWord_far (gid := r.1) hfar
      rw [hw] at hexec
      exact ⟨w, hexec, hstate, hown, hcount, hreason, fun k hk => (hcode k hk).trans (code_eq _)⟩
    · rw [hexec, statWord_stale hhome hk]
    · rw [hexec, statWord_home hhome hk, code_eq]
      rfl

end Sys2Proof.Machine
end

section
/-!
PROOFS. Loads that bring what they read (R142, R321), and the instructions of task records, bounds and incumbents (R286 to R294),
with one lane.
-/

namespace Sys2Proof.Machine

open Sys2Proof Sys2Proof.Machine.Claims

theorem Tallied.incumbents {s t : State} (h : Tallied s t) : t.incumbents = s.incumbents := by rw [← h.rest]

theorem groups_freshL1 (s : State) (r : LRef) : (s.freshL1 r).groups = s.groups := congrArg (·.groups) (freshL1_rest s r)

theorem groups_improve (s : State) (reg : Nat) (key tag : Word) : (s.improve reg key tag).groups = s.groups := rfl

/-- Two words of tdata as one number. -/
theorem tdata_eq (lo hi : Word) : tdata lo hi = BitVec.ofNat 64 (lo.toNat + hi.toNat * 2 ^ 32) := by
  apply BitVec.eq_of_toNat_eq
  rw [tdata, pair64, BitVec.toNat_or, BitVec.toNat_shiftLeft, BitVec.toNat_setWidth, BitVec.toNat_setWidth, BitVec.toNat_ofNat,
    Nat.mod_eq_of_lt (show hi.toNat < 2 ^ 64 by omega), Nat.mod_eq_of_lt (show lo.toNat < 2 ^ 64 by omega), Nat.shiftLeft_eq,
    Nat.mod_eq_of_lt (show hi.toNat * 2 ^ 32 < 2 ^ 64 by omega), Nat.mod_eq_of_lt (show lo.toNat + hi.toNat * 2 ^ 32 < 2 ^ 64 by omega),
    Nat.mul_comm hi.toNat, ← Nat.two_pow_add_eq_or_of_lt lo.isLt]
  omega

/-! ### Loads -/

/-- A gather that an access leaves as it is, but for what translation holds in TLBs. -/
structure OnlyHolds (w v : Work) : Prop where
  same : v = { w with s := v.s }
  tlbs : OnlyTlbs w.s v.s

theorem OnlyHolds.refl (w : Work) : OnlyHolds w w := ⟨rfl, .refl _⟩

theorem OnlyHolds.trans {w v u : Work} (h : OnlyHolds w v) (k : OnlyHolds v u) : OnlyHolds w u :=
  ⟨by rw [k.same, h.same], h.tlbs.trans k.tlbs⟩

theorem resolve_some {w v : Work} {r : LRef} {x : Acc} {p : Spot} (he : w.resolve r x = (v, some p)) : OnlyHolds w v := by
  have hstay : ∀ {q : Spot}, (w, some q) = (v, some p) → OnlyHolds w v := fun h => by
    obtain ⟨rfl, -⟩ := Prod.mk.inj h
    exact .refl w
  have hleave : ∀ {u : Work}, (u, (none : Option Spot)) = (v, some p) → OnlyHolds w v := fun h => by
    cases (Prod.mk.inj h).2
  rw [Work.resolve] at he
  split at he
  · exact hleave he
  · dsimp only at he
    split at he
    · split at he
      · split at he
        · exact hleave he
        · split at he
          · exact hleave he
          · exact hstay he
      · split at he
        · exact hleave he
        · exact hstay he
      · split at he
        · exact hleave he
        · exact hstay he
    · next core _ =>
      split at he
      · split at he
        · exact hstay he
        · have htlbs := locate_onlyTlbs w.s (some core) (dieOf core) (w.s.ctx (w.s.group r.1).ctx).hdr.asid x.addr.toNat x.kind
          split at he
          · split at he
            · exact hleave he
            · exact hleave he
          · next hl =>
            rw [hl] at htlbs
            obtain ⟨rfl, -⟩ := Prod.mk.inj he
            exact ⟨rfl, htlbs⟩
          · next hl =>
            rw [hl] at htlbs
            obtain ⟨rfl, -⟩ := Prod.mk.inj he
            exact ⟨rfl, htlbs⟩
      · split at he
        · exact hleave he
        · exact hstay he

theorem fetchSpot_some {w v : Work} {r : LRef} {p : Spot} {n : Nat} {k : Kind} {x : Loaded} (he : w.fetchSpot r p n k = (v, some x)) :
    v = w := by
  have hleave : ∀ {u : Work}, (u, (none : Option Loaded)) = (v, some x) → v = w := fun h => by
    cases (Prod.mk.inj h).2
  cases p with
  | scratch block off =>
    rw [Work.fetchSpot] at he
    split at he
    · exact (Prod.mk.inj he).1.symm
    · exact hleave he
  | hbm key pa =>
    rw [Work.fetchSpot] at he
    split at he
    · exact hleave he
    · exact (Prod.mk.inj he).1.symm
  | remote dev pa va =>
    rw [Work.fetchSpot] at he
    split at he
    · exact (Prod.mk.inj he).1.symm
    · exact hleave he
  | kdata k a => exact (Prod.mk.inj he).1.symm
  | queues a => exact (Prod.mk.inj he).1.symm

theorem load_some {w v : Work} {r : LRef} {x : Acc} {y : Loaded} (he : w.load r x = (v, some y)) : OnlyHolds w v := by
  rw [Work.load] at he
  split at he
  · cases (Prod.mk.inj he).2
  · next hr =>
    rw [fetchSpot_some he]
    exact resolve_some hr

theorem whole_true {w v : Work} {r : LRef} {x : Acc} (he : w.whole r x = (v, true)) : OnlyHolds w v := by
  rw [Work.whole] at he
  split at he
  · cases (Prod.mk.inj he).2
  · split at he
    · obtain ⟨rfl, -⟩ := Prod.mk.inj he
      exact .refl w
    · obtain ⟨rfl, hp⟩ := Prod.mk.inj he
      obtain ⟨q, hq⟩ := Option.isSome_iff_exists.1 hp
      exact resolve_some (Prod.ext rfl hq)

theorem loadWords_some {r : LRef} {c : Cap} : ∀ {ks : List Nat} {w v : Work} {ws ys : List PWord},
    w.loadWords r c ks ws = (v, some ys) → OnlyHolds w v
  | [], w, v, ws, ys, he => by
    obtain ⟨rfl, -⟩ := Prod.mk.inj he
    exact .refl w
  | k :: ks, w, v, ws, ys, he => by
    rw [Work.loadWords] at he
    split at he
    · cases (Prod.mk.inj he).2
    · next hl => exact (load_some hl).trans (loadWords_some he)

theorem loadTask_some {w v : Work} {r : LRef} {c : Cap} {poison : Bool} {n : Nat} {ys : List PWord}
    (he : w.loadTask r c poison n = (v, some ys)) : OnlyHolds w v := by
  rw [Work.loadTask] at he
  split at he
  · cases (Prod.mk.inj he).2
  · next hw => exact (whole_true hw).trans (loadWords_some he)

/-! ### Bins -/

theorem launchDecision_waits {s : State} {ctx die node : Nat} {n : Node} (hn : tget node (s.ctx ctx).nodes = some n)
    (hfew : ((s.ctx ctx).bin die node).records.length < n.count) (hfresh : ((s.ctx ctx).bin die node).expired = false) (fuel : Nat) :
    s.launchDecision ctx die node fuel = s := by
  cases fuel with
  | zero => rfl
  | succ fuel =>
    rw [State.launchDecision, hn]
    dsimp only
    rw [hfresh, decide_eq_false (by omega), Bool.and_false, Bool.or_false, Bool.not_false, Bool.or_true, if_pos rfl]

@[simp] theorem bin_modBin_self (s : State) (ctx die node : Nat) (f : Bin → Bin) :
    ((s.modBin ctx die node f).ctx ctx).bin die node = f ((s.ctx ctx).bin die node) := by
  rw [State.modBin, ctx_modCtx_self, Ctx.bin]
  simp only [tget_tput_self, Option.getD_some]

theorem nodes_modBin (s : State) (ctx die node : Nat) (f : Bin → Bin) : ((s.modBin ctx die node f).ctx ctx).nodes = (s.ctx ctx).nodes := by
  rw [State.modBin, ctx_modCtx_self]

theorem binArrive_hopeless {s : State} {ctx die node : Nat} {rec' : List PWord} (hh : s.hopeless ctx die rec' = true) :
    s.binArrive ctx die node rec' = s.modCtx ctx fun c => { c with dropEmit := c.dropEmit + 1 } := by
  rw [State.binArrive, hh, if_pos rfl]

/-- A record that its bin takes, without a decision. -/
def Bin.taking (rec' : List PWord) (b : Bin) : Bin :=
  { b with records := b.records ++ [rec'], timer := true, expired := if b.records.isEmpty then false else b.expired }

theorem binArrive_taken {s : State} {ctx die node : Nat} {rec' : List PWord} {n : Node} (hh : s.hopeless ctx die rec' = false)
    (hn : tget node (s.ctx ctx).nodes = some n) (hfew : ((s.ctx ctx).bin die node).records.length + 1 < n.count)
    (hfresh : ((s.ctx ctx).bin die node).expired = false) :
    s.binArrive ctx die node rec' = s.modBin ctx die node (Bin.taking rec') := by
  have hexpired : (Bin.taking rec' ((s.ctx ctx).bin die node)).expired = false := by
    rw [Bin.taking, hfresh]
    split <;> rfl
  rw [State.binArrive, hh, if_neg (by decide)]
  exact launchDecision_waits (n := n) (by rw [nodes_modBin, hn]) (by rw [bin_modBin_self]; simpa [Bin.taking] using hfew)
    (by rw [bin_modBin_self]; exact hexpired) 300

/-- A bin is busy that is full, or that a lane of its own waits for. -/
theorem binBusy_iff {s : State} {ctx die node : Nat} {n : Node} (hn : tget node (s.ctx ctx).nodes = some n) :
    s.binBusy ctx die node = true ↔ 4 * n.count ≤ ((s.ctx ctx).bin die node).records.length ∨
      ∃ q ∈ ((s.ctx ctx).bin die node).waiters, (s.lane q).halted = false ∧ (s.lane q).kill = false ∧ (s.group q.1).evicted = false := by
  simp only [State.binBusy, Ctx.binFull, hn, Bool.or_eq_true, decide_eq_true_eq, List.any_eq_true, Lane.wakes, Bool.and_eq_true,
    Bool.not_eq_true', and_assoc]

/-! ### nemit -/

theorem isNaN32_eq_false {x : Word} (h : fval x ≠ .nan) : isNaN32 x = false := by
  unfold isNaN32
  split
  · next hn => exact absurd hn h
  · rfl

section
variable {s : State} {l : Latch} {r : LRef} (h : Alone s l r)
include h

/-- What nemit does with a record that it has read. -/
theorem exec_nemit_read {a b : Reg} {n : Node} {v : State} {rec' : List PWord} (hf : InRange s l [rfld codeA a 4, rfld codeB b])
    (hp : (rd s l r codeB b).poison = false) (hn : tget (rd s l r codeB b).val.toNat (s.ctx (s.group r.1).ctx).nodes = some n)
    (hload : ((counted s l [rfld codeA a 4, rfld codeB b]).work l).loadTask r (rdCap s l r codeA a) (rdBad s l r codeA a) (n.size / 4) =
      (v.work l, some rec'))
    (hkey : (rec'.headD {}).poison = false) (hnan : fval (rec'.headD {}).val ≠ .nan) (hk : (rd s l r codeB b).val.toNat < 256) :
    exec (.nemit a b) s = ((v.work l).emit r (rd s l r codeB b).val.toNat rec').finish := by
  have h0 := tallied_counted hf
  have hu := h.counted hf
  show execNemit a b s = _
  rw [execNemit, withGather_latched h.ready.latched, sources_counted hf none rfl]
  generalize counted s l [rfld codeA a 4, rfld codeB b] = u at h0 hu hload ⊢
  dsimp only
  rw [hu.actors_work hu.real, List.foldl_cons, List.foldl_nil]
  have hreg : (u.work l).regOf r codeB b = rd s l r codeB b := h0.rd l r codeB b
  have hnode : tget (rd s l r codeB b).val.toNat (u.ctx (u.group r.1).ctx).nodes = some n := by
    rw [h0.group, h0.ctx_field (·.nodes) (fun _ => rfl), hn]
  have hread : (u.work l).loadTask r (u.cap r ((u.work l).quadA r a)) (u.quadPoison r ((u.work l).quadA r a)) (n.size / 4) =
      (v.work l, some rec') := by
    rw [← hload]
    exact congrArg₂ (fun c p => (u.work l).loadTask r c p (n.size / 4)) (h0.rdCap l r codeA a) (h0.rdBad l r codeA a)
  rw [hreg, hp, if_neg (by decide), if_neg (by omega), show (u.work l).s = u from rfl, hnode]
  dsimp only
  rw [hread]
  dsimp only
  rw [hkey, if_neg (by decide), isNaN32_eq_false hnan, if_neg (by decide)]

theorem exec_nemit_unknown {a b : Reg} (hf : InRange s l [rfld codeA a 4, rfld codeB b]) (hp : (rd s l r codeB b).poison = false)
    (hn : 256 ≤ (rd s l r codeB b).val.toNat ∨ tget (rd s l r codeB b).val.toNat (s.ctx (s.group r.1).ctx).nodes = none) :
    exec (.nemit a b) s = (((counted s l [rfld codeA a 4, rfld codeB b]).work l).strike r 0x14 (tdata 9 (rd s l r codeB b).val)).finish := by
  have h0 := tallied_counted hf
  have hu := h.counted hf
  show execNemit a b s = _
  rw [execNemit, withGather_latched h.ready.latched, sources_counted hf none rfl]
  generalize counted s l [rfld codeA a 4, rfld codeB b] = u at h0 hu ⊢
  dsimp only
  rw [hu.actors_work hu.real, List.foldl_cons, List.foldl_nil]
  have hreg : (u.work l).regOf r codeB b = rd s l r codeB b := h0.rd l r codeB b
  have hnode : (if 256 ≤ (rd s l r codeB b).val.toNat then none else tget (rd s l r codeB b).val.toNat (u.ctx (u.group r.1).ctx).nodes) = none := by
    split
    · rfl
    · next hlt =>
      rw [h0.group, h0.ctx_field (·.nodes) (fun _ => rfl)]
      exact hn.resolve_left hlt
  rw [hreg, hp, if_neg (by decide), show (u.work l).s = u from rfl, hnode]

omit h in
theorem Claims.OnlyTlbs.alone {v : State} (ht : OnlyTlbs s v) (hs : Alone s l r) : Alone v l r := by
  have hgroups : v.groups = s.groups := ht.keep (·.groups) fun _ _ _ => rfl
  have hgroup : ∀ x, v.group x = s.group x := fun x => by rw [State.group, State.group, hgroups]
  have hlane : ∀ q, v.lane q = s.lane q := fun q => by rw [State.lane, State.lane, hgroup]
  refine ⟨⟨?_, hs.ready.alone, hs.ready.nodup, fun q hq => ?_, fun q hq hend => ?_⟩, hs.only, ?_, ?_⟩
  · rw [ht.keep (·.issue) fun _ _ _ => rfl, hs.ready.latched]
  · obtain ⟨hholds, hlen⟩ := hs.ready.there q hq
    exact ⟨by rw [State.holds, hgroups]; exact hholds, by rw [hgroup]; exact hlen⟩
  · rw [hlane] at hend
    rw [hgroup]
    exact hs.ready.noKill q hq hend
  · rw [hlane, hs.real]
  · rw [hgroup, hs.plain]

/-! ### bound, incrd and incimp -/

theorem exec_bound_number {a : Reg} (hf : InRange s l [rfld codeA a]) (hp : (rd s l r codeA a).poison = false)
    (hnan : fval (rd s l r codeA a).val ≠ .nan) :
    exec (.bound a) s = .next (past l r ((counted s l [rfld codeA a]).modGroup r.1 fun g => { g with bound := some (rd s l r codeA a).val })) := by
  have h0 := tallied_counted hf
  have hu := h.counted hf
  show execBound a s = _
  rw [execBound, withGather_latched h.ready.latched, sources_counted hf none rfl]
  generalize counted s l [rfld codeA a] = u at h0 hu ⊢
  dsimp only
  have hreg : (u.work l).regOf r codeA a = rd s l r codeA a := h0.rd l r codeA a
  have hactual : u.actual r.1 [r] = [r] := actual_one hu.real
  rw [hu.actors_work hu.real, List.foldl_cons, List.foldl_nil, hreg, hp, if_neg (by decide), isNaN32_eq_false hnan, if_neg (by decide)]
  simp only [show (u.work l).live = [r] from h.only, show (u.work l).s = u from rfl, groupsOf_one, List.foldl_cons, List.foldl_nil, hactual,
    List.map_cons, List.map_nil, hreg]
  exact h.finish_of rfl rfl h.late rfl ((group_modGroup_field (·.taskKill) (f := fun g => { g with bound := some (rd s l r codeA a).val })
    (fun _ => rfl) (fun _ => rfl) u r.1 r.1).trans hu.plain)

theorem exec_incrd_granted {d a : Reg} {k : Nat} (hf : InRange s l [rfld codeD d 2, rfld codeA a]) (hp : (rd s l r codeA a).poison = false)
    (hlt : (rd s l r codeA a).val.toNat < 16) (hk : tget (rd s l r codeA a).val.toNat (s.ctx (s.group r.1).ctx).slots = some k) :
    exec (.incrd d a) s = .next (past l r ((counted s l [rfld codeD d 2, rfld codeA a]).wrs r (regNo s l r codeD d)
      [⟨(s.replica (dieOf (s.group r.1).coreOf) k).1, false⟩, ⟨(s.replica (dieOf (s.group r.1).coreOf) k).2, false⟩])) := by
  have h0 := tallied_counted hf
  have hu := h.counted hf
  show execIncrd d a s = _
  rw [execIncrd, withGather_latched h.ready.latched, sources_counted hf none rfl]
  have hreplica : ∀ m x, (counted s l [rfld codeD d 2, rfld codeA a]).replica m x = s.replica m x := fun m x => by
    rw [State.replica, State.replica, h0.die]
  generalize counted s l [rfld codeD d 2, rfld codeA a] = u at h0 hu hreplica ⊢
  dsimp only
  have hreg : (u.work l).regOf r codeA a = rd s l r codeA a := h0.rd l r codeA a
  have hslot : (u.work l).s.slotReg ((u.work l).s.group r.1).ctx (rd s l r codeA a).val.toNat = some k := by
    show u.slotReg (u.group r.1).ctx _ = _
    rw [State.slotReg, h0.group, h0.ctx_field (·.slots) (fun _ => rfl), hk]
  rw [hu.actors_work hu.real, List.foldl_cons, List.foldl_nil]
  simp only [hreg, hp, Bool.false_eq_true, if_false, hslot, Option.isNone_some, or_false, Nat.not_le.2 hlt, hu.writeRegs_work, zeroRegs_work,
    hu.real]
  rw [h0.group, hreplica, show (u.work l).rnum r codeD d.toNat = regNo s l r codeD d from h0.regNo l r codeD d]
  exact h.finish (by rw [wrs_eq_modLane, group_modLane_taskKill, hu.plain])


/-- An incimp of a lane that may make one. -/
theorem exec_incimp_granted {d a b : Reg} {k : Nat} (hf : InRange s l [rfld codeD d, rfld codeA a 2, rfld codeB b])
    (hkey : (rd s l r codeA a).poison = false) (htag : (s.reg r (regNo s l r codeA a + 1)).poison = false)
    (hslot : (rd s l r codeB b).poison = false) (hlt : (rd s l r codeB b).val.toNat < 16)
    (hk : tget (rd s l r codeB b).val.toNat (s.ctx (s.group r.1).ctx).slots = some k) (hnan : fval (rd s l r codeA a).val ≠ .nan) :
    exec (.incimp d a b) s = .next
      ((if fcmp .lt (rd s l r codeA a).val (s.home k).1 == 1 then
          (acquired (some 3) r (counted s l [rfld codeD d, rfld codeA a 2, rfld codeB b])).improve k (rd s l r codeA a).val
            (s.reg r (regNo s l r codeA a + 1)).val
        else acquired (some 3) r (counted s l [rfld codeD d, rfld codeA a 2, rfld codeB b])).modLane r fun x =>
        { x with heldA := none, heldB := none,
                 status := .result (regNo s l r codeD d) (boolWord (fcmp .lt (rd s l r codeA a).val (s.home k).1 == 1)) k l.pc }) := by
  have h0 := tallied_counted hf
  have hu := h.counted hf
  show execIncimp d a b s = _
  rw [execIncimp, withGather_latched h.ready.latched, sources_counted hf none rfl]
  have hhome : ∀ m, (counted s l [rfld codeD d, rfld codeA a 2, rfld codeB b]).home m = s.home m := fun m => by
    rw [State.home, State.home, h0.incumbents]
  generalize counted s l [rfld codeD d, rfld codeA a 2, rfld codeB b] = u at h0 hu hhome ⊢
  dsimp only
  have hreg : (u.work l).regOf r codeB b = rd s l r codeB b := h0.rd l r codeB b
  have hno : (u.work l).rnum r codeA a.toNat = regNo s l r codeA a := h0.regNo l r codeA a
  have hnoD : (u.work l).rnum r codeD d.toNat = regNo s l r codeD d := h0.regNo l r codeD d
  have hreg' : u.reg r (regNo s l r codeA a) = rd s l r codeA a := h0.reg r _
  have hname : u.slotReg (u.group r.1).ctx (rd s l r codeB b).val.toNat = some k := by
    rw [State.slotReg, h0.group, h0.ctx_field (·.slots) (fun _ => rfl), hk]
  have hleft : [r].filter (fun x => !(x == r)) = [] := by simp
  simp only [hu.actors_work hu.real, List.foldl_cons, List.foldl_nil, show (u.work l).s = u from rfl, hreg, hno, hnoD, hreg', h0.reg,
    hkey, htag, hslot, Bool.or_false, Bool.false_eq_true, if_false, Nat.not_le.2 hlt, hname, isNaN32_eq_false hnan, hhome,
    show (u.work l).live = [r] from h.only, hleft]
  refine h.finish_left ?_ rfl rfl rfl rfl h.late
  rw [group_modLane_taskKill]
  have hacquired : ((u.acquires r 3).group r.1).taskKill = false := by
    rw [State.acquires, group_modLane_taskKill, State.group, groups_freshL1]
    exact hu.plain
  split
  · rw [State.group, groups_improve]
    exact hacquired
  · exact hacquired


end

/-! ### The statement -/

theorem better_iff {x y : Word} : (fcmp .lt x y == 1) = true ↔ fOrder x y = some .lt := by
  unfold fcmp
  rw [show fOrder x y = (fval x).cmp (fval y) from rfl]
  generalize (fval x).cmp (fval y) = o
  rcases o with _ | _ | _ | _ <;> decide

/-- Settles O50: nemit's record comes by a load that changes TLBs alone; its bin takes it, drops it or has the lane wait. -/
theorem taskResults : Obligations.TaskResults := by
  intro s l r h
  dsimp only
  refine ⟨?_, ?_, ?_, ?_, ?_⟩
  · intro a b n v rec' hf hp hn hload hkey hnan hk
    have h0 := tallied_counted hf
    have hexec := exec_nemit_read h hf hp hn hload hkey hnan hk
    have htlbs : OnlyTlbs (counted s l [rfld codeA a 4, rfld codeB b]) v := (loadTask_some hload).tlbs
    have hv := htlbs.alone (h.counted hf)
    generalize counted s l [rfld codeA a 4, rfld codeB b] = u at h0 htlbs
    have hgroups : v.groups = s.groups := (htlbs.keep (·.groups) fun _ _ _ => rfl).trans h0.groups
    have hgroup : ∀ x, v.group x = s.group x := fun x => by rw [State.group, State.group, hgroups]
    have hlane : ∀ q, v.lane q = s.lane q := fun q => by rw [State.lane, State.lane, hgroup]
    have hctx : ∀ {β : Type} (p : Ctx → β), (∀ c : Ctx, p c.noPerf = p c) → ∀ c, p (v.ctx c) = p (s.ctx c) := fun p hp c => by
      rw [htlbs.keep (fun t => t.ctx c) fun _ _ _ => rfl, h0.ctx_field p hp]
    have hbin : ∀ m k, (v.ctx (s.group r.1).ctx).bin m k = (s.ctx (s.group r.1).ctx).bin m k := fun m k =>
      hctx (fun c => c.bin m k) (fun _ => rfl) _
    have hnode : tget (rd s l r codeB b).val.toNat (v.ctx (s.group r.1).ctx).nodes = some n := by
      rw [hctx (·.nodes) (fun _ => rfl), hn]
    have hbusy := binBusy_iff (die := dieOf (s.group r.1).coreOf) hnode
    simp only [hbin, hlane, hgroup] at hbusy
    have hemit : (v.work l).emit r (rd s l r codeB b).val.toNat rec' =
        if v.binBusy (s.group r.1).ctx (dieOf (s.group r.1).coreOf) (rd s l r codeB b).val.toNat then
          ((v.modBin (s.group r.1).ctx (dieOf (s.group r.1).coreOf) (rd s l r codeB b).val.toNat fun x =>
            { x with waiters := x.waiters ++ [r] }).work l).park r (.bin (dieOf (s.group r.1).coreOf) (rd s l r codeB b).val.toNat rec')
        else (v.binArrive (s.group r.1).ctx (dieOf (s.group r.1).coreOf) (rd s l r codeB b).val.toNat rec').work l := by
      rw [Work.emit, show (v.work l).s = v from rfl, hgroup]
      rfl
    refine ⟨fun hroom hfree hfew hhope hfresh => ?_, fun hroom hfree hhope => ?_, fun hwaits => ?_⟩
    · have htaken := binArrive_taken hhope hnode (by rw [hbin]; exact hfew) (by rw [hbin]; exact hfresh)
      have hidle : ¬ v.binBusy (s.group r.1).ctx (dieOf (s.group r.1).coreOf) (rd s l r codeB b).val.toNat = true := fun hb =>
        (hbusy.1 hb).elim (by omega) hfree
      rw [hemit, if_neg hidle, htaken] at hexec
      refine ⟨_, hexec.trans (h.finish hv.plain), ?_, ?_, ?_, fun q hq => ?_, ?_, ?_, ?_⟩
      · show (((v.modBin _ _ _ _).ctx _).bin _ _).records = _
        rw [bin_modBin_self, hbin]
        rfl
      · show (((v.modBin _ _ _ _).ctx _).bin _ _).timer = _
        rw [bin_modBin_self]
        rfl
      · exact (lane_modLane_self _ r _ hv.has).trans (congrArg (·.advance l.pc) (hlane r))
      · exact (lane_modLane_ne _ hq _).trans (hlane q)
      · exact (htlbs.keep (·.hbm) fun _ _ _ => rfl).trans h0.hbm
      · exact (htlbs.keep (·.blocks) fun _ _ _ => rfl).trans h0.blocks
      · exact (htlbs.keep (·.grids) fun _ _ _ => rfl).trans h0.grids
    · have hidle : ¬ v.binBusy (s.group r.1).ctx (dieOf (s.group r.1).coreOf) (rd s l r codeB b).val.toNat = true := fun hb =>
        (hbusy.1 hb).elim (by omega) hfree
      rw [hexec, hemit, if_neg hidle, binArrive_hopeless hhope]
      exact h.finish hv.plain
    · rw [hemit, if_pos (hbusy.2 hwaits)] at hexec
      refine ⟨_, hexec.trans (h.finish_park (u := v.modBin _ _ _ _) hv.plain _), ?_, ?_, ?_, ?_⟩
      · have hsteps : v.steps = s.steps := (htlbs.keep (·.steps) fun _ _ _ => rfl).trans h0.steps
        exact (lane_modLane_self _ r _ hv.has).trans (congrArg₂ (fun (x : Lane) n =>
          { x with status := .parked (.bin (dieOf (s.group r.1).coreOf) (rd s l r codeB b).val.toNat rec') l.pc, parkedAt := n })
          (hlane r) hsteps)
      · exact (htlbs.keep (·.hbm) fun _ _ _ => rfl).trans h0.hbm
      · exact (congrArg Bin.records (bin_modBin_self v _ _ _ fun x => { x with waiters := x.waiters ++ [r] })).trans
          (by rw [← hbin])
      · exact (congrArg Bin.waiters (bin_modBin_self v _ _ _ fun x => { x with waiters := x.waiters ++ [r] })).trans
          (congrArg (fun x : Bin => x.waiters ++ [r]) (hbin _ _))
  · intro a b hf hp hn
    refine h.traps hf ((exec_nemit_unknown h hf hp hn).trans ?_)
    rw [tdata_eq]
    rfl
  · exact fun a hf hp hnan => exec_bound_number h hf hp hnan
  · exact fun d a k hf hp hlt hk => exec_incrd_granted h hf hp hlt hk
  · intro d a b k hf hkey htag hslot hlt hk hnan
    have hexec := exec_incimp_granted h hf hkey htag hslot hlt hk hnan
    refine ⟨fun hworse => ?_, fun hbetter => ?_⟩
    · rw [hexec, Bool.eq_false_iff.2 fun hb => hworse ((better_iff (y := (s.home k).1)).1 hb)]
      rfl
    · rw [hexec, (better_iff (y := (s.home k).1)).2 hbetter]
      rfl

end Sys2Proof.Machine
end

section
/-!
PROOFS. Launches, joins and polls, with one lane (R232 to R243).
-/

namespace Sys2Proof.Machine

open Sys2Proof Sys2Proof.Machine.Claims

/-! ### Reading a record -/

theorem loadRecord_some {w v : Work} {r : LRef} {c : Cap} {poison : Bool} {x : LaunchRec} (he : w.loadRecord r c poison = (v, some x)) :
    OnlyHolds w v := by
  rw [Work.loadRecord] at he
  dsimp only at he
  split at he
  · cases (Prod.mk.inj he).2
  · next hw =>
    split at he
    · cases (Prod.mk.inj he).2
    · next hx =>
      split at he
      · cases (Prod.mk.inj he).2
      · next hy =>
        obtain ⟨rfl, -⟩ := Prod.mk.inj he
        exact ((whole_true hw).trans (load_some hx)).trans (load_some hy)

/-- A state that the counts of the bounds check and translation alone have changed. -/
structure Read (s v : State) : Prop where
  exists_counted : ∃ u, Tallied s u ∧ OnlyTlbs u v

section
variable {s v : State} (h : Read s v)
include h

theorem Read.keep {α : Type} (p : State → α) (hp : ∀ (x : State) (c : List (Nat × Core)) (d : List (Nat × Die)) (k : List (Nat × Ctx)),
    p { x with cores := c, dies := d, ctxs := k } = p x) : p v = p s := by
  obtain ⟨u, h0, ht⟩ := h.exists_counted
  have hu : p u = p s := by
    rw [← hp u u.cores u.dies s.ctxs, h0.rest]
  exact (ht.keep p fun x c d => hp x c d x.ctxs).trans hu

theorem Read.group (x : Nat) : v.group x = s.group x := h.keep (·.group x) fun _ _ _ _ => rfl
theorem Read.lane (q : LRef) : v.lane q = s.lane q := h.keep (·.lane q) fun _ _ _ _ => rfl
theorem Read.grid (g : Nat) : v.grid g = s.grid g := h.keep (·.grid g) fun _ _ _ _ => rfl

theorem Read.ctx_field {α : Type} (p : Ctx → α) (hp : ∀ c : Ctx, p c.noPerf = p c) (n : Nat) : p (v.ctx n) = p (s.ctx n) := by
  obtain ⟨u, h0, ht⟩ := h.exists_counted
  rw [ht.keep (·.ctx n) fun _ _ _ => rfl, h0.ctx_field p hp]

theorem Read.cap (r : LRef) (n : Nat) : v.cap r n = s.cap r n := h.keep (·.cap r n) fun _ _ _ _ => rfl
theorem Read.quadPoison (r : LRef) (n : Nat) : v.quadPoison r n = s.quadPoison r n := h.keep (·.quadPoison r n) fun _ _ _ _ => rfl

theorem Read.handleVerdict (n : Nat) (c : Cap) (bad : Bool) : v.handleVerdict n c bad = s.handleVerdict n c bad := by
  have hkey : (v.ctx n).hdr.key = (s.ctx n).hdr.key := h.ctx_field (fun c => c.hdr.key) (fun _ => rfl) n
  rw [State.handleVerdict, State.handleVerdict, hkey]

theorem Read.alone {l : Latch} {r : LRef} (ha : Alone s l r) : Alone v l r := by
  obtain ⟨u, h0, ht⟩ := h.exists_counted
  refine ht.alone ⟨h0.ready ha.ready, ha.only, ?_, ?_⟩
  · rw [h0.lane, ha.real]
  · rw [h0.group, ha.plain]

theorem Read.delivers {l : Latch} {r : LRef} {cause : Byte} (hd : Delivers s l r cause) : Delivers v l r cause := by
  refine ⟨hd.agent, ?_, ?_⟩
  · rw [State.policy, h.ctx_field (fun c => c.hdr.policy) (fun _ => rfl), h.group]
    exact hd.policy
  · rw [h.lane]
    exact hd.can

end

/-! ### Zeroing -/

/-- No line has records of a region. -/
def Unrecorded (s : State) : Prop := ∀ d, d < 4 → (s.die d).dir = []

theorem Unrecorded.lineRec {s : State} (h : Unrecorded s) (a : Nat) : s.lineRec a = none := by
  have hhome : homeDie a < 4 := by
    unfold homeDie
    omega
  rw [State.lineRec, h (homeDie a) hhome, List.find?_nil]

theorem Claims.OnlyTlbs.unrecorded {s v : State} (h : OnlyTlbs s v) (hs : Unrecorded s) : Unrecorded v := fun d hd =>
  (congrArg Die.dir (h.dies d)).trans (hs d hd)

/-- What zeroing changes: HBM and TLBs, and what becomes of regions that have records there. -/
structure Zeroes (s z : State) : Prop where
  beside : Beside s { z with cores := s.cores, dies := s.dies }
  plain : Unrecorded s → z.groups = s.groups ∧ Unrecorded z

theorem Zeroes.refl (s : State) : Zeroes s s := ⟨.refl s, fun h => ⟨rfl, h⟩⟩

theorem Zeroes.trans {s t u : State} (h : Zeroes s t) (k : Zeroes t u) : Zeroes s u where
  beside := by
    have hrest : { u with cores := s.cores, dies := s.dies }.aside = { t with cores := s.cores, dies := s.dies }.aside :=
      congrArg (fun x : State => { x with cores := s.cores }) k.beside.rest
    exact ⟨hrest.trans h.beside.rest, fun _ => rfl⟩
  plain hs := by
    obtain ⟨hgroups, hplain⟩ := h.plain hs
    obtain ⟨hgroups', hplain'⟩ := k.plain hplain
    exact ⟨hgroups'.trans hgroups, hplain'⟩

theorem Claims.OnlyTlbs.zeroes {s v : State} (h : OnlyTlbs s v) : Zeroes s v where
  beside := by
    rw [h.rest]
    exact .refl s
  plain hs := ⟨h.keep (·.groups) fun _ _ _ => rfl, h.unrecorded hs⟩

theorem zeroes_hbmOutside (s : State) (key a : Nat) (cs : List Chunk) (tag : Bool) : Zeroes s (s.hbmOutside key a cs tag) where
  beside := by
    have hcores := congrArg (·.cores) (beside_hbmOutside s key a cs tag).rest
    refine ⟨?_, fun _ => rfl⟩
    rw [← (beside_hbmOutside s key a cs tag).rest]
    exact congrArg (fun cs' => { (s.hbmOutside key a cs tag).aside with cores := cs' }) hcores.symm
  plain hs := by
    have honly : OnlyHbm s (s.hbmOutside key a cs tag) := by
      rw [hbmOutside_plain fun k _ => hs.lineRec (128 * k)]
      exact hbmStore_only ..
    exact ⟨honly.groups, fun d hd => (honly.keep (fun t => (t.die d).dir) fun _ _ _ _ => rfl).trans (hs d hd)⟩

theorem zeroGranules_zeroes {core : Option Nat} {die asid : Nat} : ∀ {n : Nat} {s z : State} {va : Nat},
    zeroGranules core die asid n s va = .ok z → Zeroes s z
  | 0, s, z, va, hz => by
    cases hz
    exact .refl s
  | n + 1, s, z, va, hz => by
    have htlbs := locate_onlyTlbs s core die asid va .write
    rw [zeroGranules] at hz
    split at hz
    · cases hz
    · next hl =>
      rw [hl] at htlbs
      exact (htlbs.zeroes.trans (zeroes_hbmOutside ..)).trans (zeroGranules_zeroes hz)
    · next hl =>
      rw [hl] at htlbs
      exact htlbs.zeroes.trans (zeroGranules_zeroes hz)

/-! ### One lane's launch -/

/-- What launch and launcha end with. -/
def Work.launchEnd (w : Work) (d : Reg) : Host.Outcome State Fault Refusal :=
  let helpers := w.live.filter fun r => (w.s.lane r).helper
  ({ w with s := helpers.foldl (fun s r => s.wrs r (w.rnum r codeD d.toNat) (List.replicate 4 {})) w.s }.zeroRegs codeD d.toNat 4).finish

theorem launchEnd_real {w : Work} (hz : w.zero = []) (hreal : ∀ q ∈ w.live, (w.s.lane q).helper = false) (d : Reg) :
    w.launchEnd d = w.finish := by
  have hnone : (w.live.filter fun r => (w.s.lane r).helper) = [] := List.filter_eq_nil_iff.2 fun q hq => by
    rw [hreal q hq]
    decide
  rw [Work.launchEnd, hnone, List.foldl_nil, Work.zeroRegs]
  dsimp only
  rw [hz, List.foldl_nil]
  exact congrArg (fun z => Work.finish { w with zero := z }) hz.symm

section
variable {s : State} {l : Latch} {r : LRef} (h : Alone s l r)
include h

/-- The operands of a launch: its second handle, if it has one, is good. -/
theorem launchOp_read {d a : Reg} {b : Option Reg} {v : State} {x : LaunchRec}
    (hf : InRange s l ([rfld codeD d 4, rfld codeA a 4] ++ (b.map fun x => rfld codeB x 4).toList))
    (hload : ((counted s l ([rfld codeD d 4, rfld codeA a 4] ++ (b.map fun x => rfld codeB x 4).toList)).work l).loadRecord r
      (rdCap s l r codeA a) (rdBad s l r codeA a) = (v.work l, some x))
    (hb : ∀ y, b = some y → s.handleVerdict (s.group r.1).ctx (rdCap s l r codeB y) (rdBad s l r codeB y) = none) :
    Read s v ∧ launchOp d a b s =
      ((v.work l).launchLane r (regNo s l r codeD d) (rdCap s l r codeA a) x (b.map fun y => rdCap s l r codeB y)).launchEnd d := by
  have h0 := tallied_counted hf
  have hu := h.counted hf
  have hread : Read s v := ⟨_, h0, (loadRecord_some hload).tlbs⟩
  refine ⟨hread, ?_⟩
  rw [launchOp, withGather_latched h.ready.latched, sources_counted hf none rfl]
  generalize counted s l ([rfld codeD d 4, rfld codeA a 4] ++ (b.map fun x => rfld codeB x 4).toList) = u at h0 hu hload ⊢
  dsimp only
  rw [hu.actors_work hu.real, List.foldl_cons, List.foldl_nil]
  have hcap : u.cap r ((u.work l).quadA r a) = rdCap s l r codeA a := h0.rdCap l r codeA a
  have hbad : u.quadPoison r ((u.work l).quadA r a) = rdBad s l r codeA a := h0.rdBad l r codeA a
  have hno : (v.work l).rnum r codeD d.toNat = regNo s l r codeD d := by
    show regNo v l r codeD d = _
    exact hread.keep (fun t => regNo t l r codeD d) fun _ _ _ _ => rfl
  rw [show (u.work l).s = u from rfl, hcap, hbad, hload]
  dsimp only
  rw [hno]
  cases b with
  | none =>
    simp only [Option.map_none, Option.bind_none]
    rfl
  | some y =>
    have hnoB : (u.work l).rnum r codeB y.toNat = regNo s l r codeB y := h0.regNo l r codeB y
    have hverdict : v.handleVerdict (v.group r.1).ctx (v.cap r (regNo s l r codeB y)) (v.quadPoison r (regNo s l r codeB y)) = none := by
      rw [← hb y rfl, hread.handleVerdict, hread.group, hread.cap, hread.quadPoison]
      rfl
    simp only [Option.map_some, Option.bind_some, Option.getD_some, hnoB, show (v.work l).s = v from rfl, hverdict]
    rw [show v.cap r (regNo s l r codeB y) = rdCap s l r codeB y from hread.cap r _]
    rfl

/-- A launch that traps. -/
theorem launchEnd_strike {cause : Byte} (hd : Delivers s l r cause) (d : Reg) (data : DWord) :
    ((s.work l).strike r cause data).launchEnd d = .next (trapped l r cause data s) := by
  rw [launchEnd_real, h.finish_strike h.plain h.real hd]
  · rw [h.strike_work h.real]
  · rw [h.strike_work h.real]
    exact fun q hq => by cases hq

omit h in
theorem startGrid_queued {g p : Grid} {k : Nat} {now : Bool} (hq : (g.coop && now) = false) :
    s.startGrid g p k now = some ((s.makeGrid g p k).1.enqueueGrid (s.makeGrid g p k).2) := by
  rw [State.startGrid]
  exact if_neg (Bool.eq_false_iff.1 hq)

variable {n : Nat} {c : Cap} {x : LaunchRec} {pred : Option Cap}

omit h in
theorem launchLane_poisoned (hp : ∃ w ∈ x.ws, w.poison = true) :
    (s.work l).launchLane r n c x pred = (s.work l).strike r 0x0A c.cursor := by
  rw [Work.launchLane, if_pos (List.any_eq_true.2 hp)]

section
variable (hp : ∀ w ∈ x.ws, w.poison = false)
include hp
omit h

theorem launchLane_reason {k : Nat} (hk : x.reason (s.grid (s.group r.1).grid) (s.lane r) = some k) :
    (s.work l).launchLane r n c x pred = (s.work l).strike r 0x14 (BitVec.ofNat 64 k) := by
  rw [Work.launchLane, if_neg (by simpa using hp), show (s.work l).s = s from rfl, hk]

variable (hk : x.reason (s.grid (s.group r.1).grid) (s.lane r) = none)
include hk

theorem launchLane_above (hbig : (s.ctx (s.grid (s.group r.1).grid).ctx).hdr.poolsize < x.granules) :
    (s.work l).launchLane r n c x pred = (s.work l).strike r 0x13
      (tdata (BitVec.ofNat 32 x.granules) (BitVec.ofNat 32 (s.ctx (s.grid (s.group r.1).grid).ctx).hdr.poolsize)) := by
  rw [Work.launchLane, if_neg (by simpa using hp), show (s.work l).s = s from rfl, hk]
  exact if_pos hbig

variable (hfits : x.granules ≤ (s.ctx (s.grid (s.group r.1).grid).ctx).hdr.poolsize)
  (hqueue : (s.ctx (s.grid (s.group r.1).grid).ctx).granQ = [])
include hfits hqueue

theorem launchLane_waits (hrun : (s.ctx (s.grid (s.group r.1).grid).ctx).findRun x.granules = none) :
    (s.work l).launchLane r n c x pred = ((s.modCtx (s.grid (s.group r.1).grid).ctx fun y =>
      { y with granQ := [(r.1, r.2, x.granules)] }).work l).park r .granules := by
  have hmay : s.mayTake (s.grid (s.group r.1).grid).ctx r = true := by
    rw [State.mayTake, State.granHead, hqueue]
    rfl
  have hpark : s.modCtx (s.grid (s.group r.1).grid).ctx (fun c =>
      if c.granQ.any fun e => e.1 == r.1 && e.2.1 == r.2 then c else { c with granQ := c.granQ ++ [(r.1, r.2, x.granules)] }) =
      s.modCtx (s.grid (s.group r.1).grid).ctx fun y => { y with granQ := [(r.1, r.2, x.granules)] } := by
    rw [State.modCtx, State.modCtx, hqueue]
    rfl
  rw [Work.launchLane, if_neg (by simpa using hp), show (s.work l).s = s from rfl, hk]
  dsimp only
  rw [if_neg (by omega), if_pos hmay, hrun]
  dsimp only
  rw [Work.parkGranules, show (s.work l).s = s from rfl, hpark]
  rfl

/-- A launched grid, its frame's granules zeroed: the frame, the queue and the handle. -/
def State.launched (z : State) (r : LRef) (n : Nat) (g p : Grid) (k : Nat) : State :=
  let t := ((z.leaveGranules p.ctx r).fresh.1.makeGrid g p k)
  let u := t.1.enqueueGrid t.2
  u.wrCap r n ((u.ctx p.ctx).handleOf k) []

theorem launchLane_made {k : Nat} {z : State} (hrun : (s.ctx (s.grid (s.group r.1).grid).ctx).findRun x.granules = some k)
    (hzero : zeroGranules (some (s.group r.1).coreOf) (dieOf (s.group r.1).coreOf) (s.ctx (s.grid (s.group r.1).grid).ctx).hdr.asid
      x.granules s ((s.ctx (s.grid (s.group r.1).grid).ctx).granuleAt k) = .ok z) (hlater : x.coop = true → pred.isNone = false) :
    (s.work l).launchLane r n c x pred = (z.launched r n (x.grid z.nextId (s.grid (s.group r.1).grid) (s.lane r)
      (pred.bind fun h => ((s.ctx (s.grid (s.group r.1).grid).ctx).named h.cursor).map (·.grid))) (s.grid (s.group r.1).grid) k).work l := by
  have hmay : s.mayTake (s.grid (s.group r.1).grid).ctx r = true := by
    rw [State.mayTake, State.granHead, hqueue]
    rfl
  rw [Work.launchLane, if_neg (by simpa using hp), show (s.work l).s = s from rfl, hk]
  dsimp only
  rw [if_neg (by omega), if_pos hmay, hrun]
  dsimp only
  rw [hzero]
  dsimp only
  rw [startGrid_queued]
  · rfl
  · show (x.coop && pred.isNone) = false
    cases hcoop : x.coop with
    | false => exact Bool.false_and _
    | true => rw [hlater hcoop, Bool.and_false]

end

end

/-! ### What a launch has made -/

theorem putCap_helper (x : Lane) (n : Nat) (c : Cap) (p : List Bool) : (putCap x n c p).helper = x.helper := by
  have hreg : ∀ (y : Lane) (m : Nat) (w : PWord), (y.putReg m w).helper = y.helper := fun y m w => by
    unfold Lane.putReg
    split <;> rfl
  rw [putCap]
  exact (hreg _ _ _).trans ((hreg _ _ _).trans ((hreg _ _ _).trans (hreg _ _ _)))

section
variable (z : State) (r : LRef) (n : Nat) (g p : Grid) (k : Nat)

/-- The grid with its frame and its display. -/
def State.framed (z : State) (g p : Grid) (k : Nat) : Grid :=
  { g with frame := k, display := p.display.take g.level ++ [(z.ctx g.ctx).frameCap k g.granules] }

theorem frameCap_leaveGranules (ctx j m len : Nat) : ((z.leaveGranules ctx r).ctx j).frameCap m len = (z.ctx j).frameCap m len := by
  rw [State.leaveGranules]
  by_cases hj : j = ctx
  · rw [hj, ctx_modCtx_self]
    rfl
  · rw [ctx_modCtx_ne _ hj]

theorem grids_launched : (z.launched r n g p k).grids = z.grids ++ [z.framed g p k] := by
  rw [State.framed, ← frameCap_leaveGranules z r p.ctx]
  rfl

end

/-- What is left of a context by a launch but for its frames and its queue for granules. -/
theorem ctx_launched {α : Type} (f : Ctx → α) (hf : ∀ (c : Ctx) fs q, f { c with frames := fs, granQ := q } = f c) (z : State) (r : LRef)
    (n : Nat) (g p : Grid) (k j : Nat) : f ((z.launched r n g p k).ctx j) = f (z.ctx j) := by
  have hleft : f ((z.leaveGranules p.ctx r).ctx j) = f (z.ctx j) := by
    rw [State.leaveGranules]
    by_cases hj : j = p.ctx
    · rw [hj, ctx_modCtx_self]
      exact hf (z.ctx p.ctx) (z.ctx p.ctx).frames _
    · rw [ctx_modCtx_ne _ hj]
  refine Eq.trans ?_ hleft
  show f (((z.leaveGranules p.ctx r).addFrame g.ctx k g.granules g.uid _).ctx j) = _
  rw [State.addFrame]
  by_cases hj : j = g.ctx
  · rw [hj, ctx_modCtx_self]
    exact hf ((z.leaveGranules p.ctx r).ctx g.ctx) _ ((z.leaveGranules p.ctx r).ctx g.ctx).granQ
  · rw [ctx_modCtx_ne _ hj]

theorem hbm_launched (z : State) (r : LRef) (n : Nat) (g p : Grid) (k : Nat) : (z.launched r n g p k).hbm = z.hbm := rfl

theorem blocks_launched (z : State) (r : LRef) (n : Nat) (g p : Grid) (k : Nat) : (z.launched r n g p k).blocks = z.blocks := rfl

theorem frames_launched (z : State) (r : LRef) (n : Nat) (g p : Grid) (k : Nat) :
    (((z.launched r n g p k).ctx g.ctx).frames.getLast?).map (fun f => (f.granule, f.len, f.grid, f.refs)) =
      some (k, g.granules, g.uid, 1) := by
  show ((((z.leaveGranules p.ctx r).addFrame g.ctx k g.granules g.uid _).ctx g.ctx).frames.getLast?).map _ = _
  rw [State.addFrame, ctx_modCtx_self, List.getLast?_append]
  rfl

theorem launchQueue_launched (z : State) (r : LRef) (n : Nat) (g p : Grid) (k : Nat) :
    (z.launched r n g p k).launchQueue (z.ctx g.ctx).hdr.priority = z.launchQueue (z.ctx g.ctx).hdr.priority ++ [g.uid] := by
  have hpriority := ctx_launched (fun c => c.hdr.priority) (fun _ _ _ => rfl) z r n g p k g.ctx
  show (tget _ (tput ((z.launched r n g p k).ctx g.ctx).hdr.priority
    (z.launchQueue ((z.launched r n g p k).ctx g.ctx).hdr.priority ++ [g.uid]) z.launchQ)).getD [] = _
  rw [hpriority, tget_tput_self]
  rfl

theorem lane_launched (z : State) {r : LRef} (hr : z.has r) (n : Nat) (g p : Grid) (k : Nat) : (z.launched r n g p k).lane r =
    putCap (z.lane r) n ((z.ctx p.ctx).handleOf k) [] := by
  have hhandle := ctx_launched (fun c => c.handleOf k) (fun _ _ _ => rfl) z r n g p k p.ctx
  rw [State.launched, wrCap_eq_modLane]
  refine (lane_modLane_self _ r _ hr).trans ?_
  exact congrArg (fun c => putCap (z.lane r) n c []) hhandle

theorem lane_launched_ne (z : State) {r q : LRef} (hq : q ≠ r) (n : Nat) (g p : Grid) (k : Nat) :
    (z.launched r n g p k).lane q = z.lane q := by
  rw [State.launched, wrCap_eq_modLane, lane_modLane_ne _ hq]
  rfl

/-! ### join and jpoll -/

theorem named_eq (s : State) (r : LRef) (c : Cap) : (s.ctx (s.group r.1).ctx).named c.cursor = named s r c := rfl

theorem failedHandle_iff (s : State) (r : LRef) (h : Cap) : (s.ctx (s.group r.1).ctx).failedHandle h.cursor = true ↔ Failed s r h := by
  simp only [Ctx.failedHandle, List.any_eq_true, Bool.and_eq_true, beq_iff_eq, Failed]

section
variable {s : State} {l : Latch} {r : LRef} (h : Alone s l r)
include h

theorem checkHandles_one (a : Reg) : (s.work l).checkHandles a =
    match s.handleVerdict (s.group r.1).ctx (rdCap s l r codeA a) (rdBad s l r codeA a) with
    | some (k, d) => (s.work l).strike r k d
    | none => s.work l := by
  rw [Work.checkHandles, h.actors_work h.real, List.foldl_cons, List.foldl_nil]
  rfl

omit h in
theorem handleVerdict_good {a : Reg} (hh : Claims.Handle s l r codeA a) :
    s.handleVerdict (s.group r.1).ctx (rdCap s l r codeA a) (rdBad s l r codeA a) = none := by
  obtain ⟨hbad, htag, hty, hkey⟩ := hh
  rw [State.handleVerdict, hbad, htag, if_neg (by decide), if_neg (by decide), if_neg]
  rintro (ht | hk)
  · exact ht hty
  · exact hk hkey

/-- What join and jpoll begin with. -/
theorem handles_begin {flds : List Fld} (hf : InRange s l flds) (d : Option Dst) (hd : d.bind dstChan = none) (a : Reg) :
    ((s.work l).sources flds d none none).checkHandles a =
      match s.handleVerdict (s.group r.1).ctx (rdCap s l r codeA a) (rdBad s l r codeA a) with
      | some (k, e) => ((counted s l flds).work l).strike r k e
      | none => (counted s l flds).work l := by
  have h0 := tallied_counted hf
  have hkey : ∀ n, ((counted s l flds).ctx n).hdr.key = (s.ctx n).hdr.key := h0.ctx_field (fun c => c.hdr.key) fun _ => rfl
  rw [sources_counted hf d hd, checkHandles_one (h.counted hf), h0.group, h0.rdCap, h0.rdBad]
  rw [show (counted s l flds).handleVerdict (s.group r.1).ctx (rdCap s l r codeA a) (rdBad s l r codeA a) =
    s.handleVerdict (s.group r.1).ctx (rdCap s l r codeA a) (rdBad s l r codeA a) by rw [State.handleVerdict, State.handleVerdict, hkey]]

/-- A handle that does not pass. -/
theorem join_strikes {a : Reg} (hf : InRange s l [rfld codeA a 4]) {k : Byte} {e : DWord}
    (hv : s.handleVerdict (s.group r.1).ctx (rdCap s l r codeA a) (rdBad s l r codeA a) = some (k, e)) :
    TrapsWith (.join a) s l r [rfld codeA a 4] k e := by
  refine h.traps hf ?_
  have hu := h.counted hf
  show execJoin a s = _
  rw [execJoin, withGather_latched h.ready.latched, handles_begin h hf none rfl, hv]
  dsimp only
  rw [hu.strike_work hu.real]
  rw [Work.finishPoint_quiet]
  · rfl
  · exact fun q hq => by cases hq

theorem jpoll_strikes {d a : Reg} (hf : InRange s l [rfld codeD d, rfld codeA a 4]) {k : Byte} {e : DWord}
    (hv : s.handleVerdict (s.group r.1).ctx (rdCap s l r codeA a) (rdBad s l r codeA a) = some (k, e)) :
    TrapsWith (.jpoll (.reg d) a) s l r [rfld codeD d, rfld codeA a 4] k e := by
  refine h.traps hf ?_
  have hu := h.counted hf
  show execJpoll (.reg d) a s = _
  rw [execJpoll, withGather_latched h.ready.latched]
  rw [show dstFlds (.reg d) ++ [rfld codeA a 4] = [rfld codeD d, rfld codeA a 4] from rfl, handles_begin h hf _ rfl, hv]
  dsimp only
  rw [hu.strike_work hu.real]
  rfl

omit h in
/-- The frame that a lane's handle names is the same after the counts. -/
theorem namedBy_counted {flds : List Fld} (hf : InRange s l flds) (a : Reg) :
    ((counted s l flds).work l).namedBy r a = named s r (rdCap s l r codeA a) := by
  have h0 := tallied_counted hf
  rw [Work.namedBy]
  show ((counted s l flds).ctx ((counted s l flds).group r.1).ctx).named (rdCap (counted s l flds) l r codeA a).cursor = _
  rw [h0.rdCap, h0.group, ← named_eq]
  exact h0.ctx_field (fun c => c.named (rdCap s l r codeA a).cursor) (fun _ => rfl) _

omit h in
theorem ordersBy_counted {flds : List Fld} (hf : InRange s l flds) (a : Reg) : ((counted s l flds).work l).ordersBy r a = true ↔
    match named s r (rdCap s l r codeA a) with
    | some f => f.done = true ∧ f.failed = false
    | none => ¬ Failed s r (rdCap s l r codeA a) := by
  have h0 := tallied_counted hf
  have hfailed : ((counted s l flds).ctx ((counted s l flds).group r.1).ctx).failedHandle
      ((counted s l flds).cap r (((counted s l flds).work l).quadA r a)).cursor =
      (s.ctx (s.group r.1).ctx).failedHandle (rdCap s l r codeA a).cursor := by
    show ((counted s l flds).ctx ((counted s l flds).group r.1).ctx).failedHandle (rdCap (counted s l flds) l r codeA a).cursor = _
    rw [h0.rdCap, h0.group]
    exact h0.ctx_field (fun c => c.failedHandle (rdCap s l r codeA a).cursor) (fun _ => rfl) _
  rw [Work.ordersBy, namedBy_counted hf, show ((counted s l flds).work l).s = counted s l flds from rfl, hfailed]
  cases named s r (rdCap s l r codeA a) with
  | none => rw [Bool.not_eq_true', ← Bool.not_eq_true, failedHandle_iff]
  | some f => simp

theorem exec_join_good {a : Reg} (hf : InRange s l [rfld codeA a 4]) (hh : Claims.Handle s l r codeA a) :
    exec (.join a) s = (match (named s r (rdCap s l r codeA a)).filter fun (f : Frame) => !f.done with
      | some f => ((counted s l [rfld codeA a 4]).work l).park r (.grid f.grid)
      | none => if ((counted s l [rfld codeA a 4]).work l).ordersBy r a then ((counted s l [rfld codeA a 4]).acquires r 3).work l
          else (counted s l [rfld codeA a 4]).work l).finishPoint := by
  have hu := h.counted hf
  show execJoin a s = _
  rw [execJoin, withGather_latched h.ready.latched, handles_begin h hf none rfl, handleVerdict_good hh]
  dsimp only
  rw [hu.actors_work hu.real, List.foldl_cons, List.foldl_nil, namedBy_counted hf]
  rfl

omit h in
theorem lane_acquires (hr : s.has r) (k : Nat) : (s.acquires r k).lane r = (s.lane r).acquire k s.past.length := by
  have hlane : (s.freshL1 r).lane r = s.lane r := by rw [State.lane, State.lane, State.group, State.group, groups_freshL1]
  have hhas : (s.freshL1 r).has r := by
    rw [State.has, State.holds, State.group, groups_freshL1]
    exact hr
  rw [State.acquires, lane_modLane_self _ _ _ hhas, hlane]

omit h in
theorem regNo_eq (s : State) (l : Latch) (r : LRef) (code : Nat) (n : Reg) :
    regNo s l r code n = ((n.toNat : Int) + idxValue (s.lane r) l.hints code + loopStep (s.lane r) code).toNat := rfl

omit h in
/-- An acquire point leaves what a lane's handle names. -/
theorem namedBy_acquires (hr : s.has r) (k : Nat) (a : Reg) : ((s.acquires r k).work l).namedBy r a = (s.work l).namedBy r a := by
  have hrest := freshL1_rest s r
  have hsteps : (s.acquires r k).steps = s.steps := (congrArg State.steps hrest :)
  have hctxs : (s.acquires r k).ctxs = s.ctxs := (congrArg State.ctxs hrest :)
  have hctx : ((s.acquires r k).group r.1).ctx = (s.group r.1).ctx := by
    rw [State.acquires, group_modLane_ctx, State.group, State.group, groups_freshL1]
  have hquad : ((s.acquires r k).work l).quadA r a = (s.work l).quadA r a := by
    show regNo (s.acquires r k) l r codeA a = regNo s l r codeA a
    rw [regNo_eq, regNo_eq, lane_acquires hr]
    rfl
  have hcap : ∀ n, (s.acquires r k).cap r n = s.cap r n := fun n => by
    simp only [State.cap, State.quadWords, State.reg, lane_acquires hr, hsteps]
    rfl
  show ((s.acquires r k).ctx ((s.acquires r k).group r.1).ctx).named ((s.acquires r k).cap r (((s.acquires r k).work l).quadA r a)).cursor = _
  rw [hctx, hquad, hcap, State.ctx, hctxs]
  rfl

theorem acquires_plain (k : Nat) : ((s.acquires r k).group r.1).taskKill = false := by
  rw [State.acquires, group_modLane_taskKill, State.group, groups_freshL1]
  exact h.plain

theorem exec_join_on {a : Reg} (hf : InRange s l [rfld codeA a 4]) (hh : Claims.Handle s l r codeA a)
    (hdone : ∀ f, named s r (rdCap s l r codeA a) = some f → f.done = true) :
    exec (.join a) s = .next (past l r (if ((counted s l [rfld codeA a 4]).work l).ordersBy r a then
      acquired (some 3) r (counted s l [rfld codeA a 4]) else counted s l [rfld codeA a 4])) := by
  have hu := h.counted hf
  have hfilter : (named s r (rdCap s l r codeA a)).filter (fun (f : Frame) => !f.done) = none :=
    Option.filter_eq_none_iff.2 fun f hn => by simp [hdone f hn]
  rw [exec_join_good h hf hh, hfilter]
  dsimp only
  split
  · exact h.finishPoint (acquires_plain hu 3)
  · exact h.finishPoint hu.plain

theorem exec_join_waits {a : Reg} (hf : InRange s l [rfld codeA a 4]) (hh : Claims.Handle s l r codeA a) {f : Frame}
    (hn : named s r (rdCap s l r codeA a) = some f) (hdone : f.done = false) :
    exec (.join a) s = .next (parked l r (.grid f.grid) (counted s l [rfld codeA a 4])) := by
  have hfilter : (named s r (rdCap s l r codeA a)).filter (fun (f : Frame) => !f.done) = some f := by
    rw [hn, Option.filter_some, if_pos (by rw [hdone]; rfl)]
  rw [exec_join_good h hf hh, hfilter]
  exact h.finishPoint_park (h.counted hf).plain _

theorem exec_jpoll_good {d a : Reg} (hf : InRange s l [rfld codeD d, rfld codeA a 4]) (hh : Claims.Handle s l r codeA a) :
    exec (.jpoll (.reg d) a) s = .next (past l r ((if ((counted s l [rfld codeD d, rfld codeA a 4]).work l).ordersBy r a then
      acquired (some 3) r (counted s l [rfld codeD d, rfld codeA a 4]) else counted s l [rfld codeD d, rfld codeA a 4]).wr r (regNo s l r codeD d)
      ⟨jpollWord (named s r (rdCap s l r codeA a)), false⟩)) := by
  have hu := h.counted hf
  have h0 := tallied_counted hf
  show execJpoll (.reg d) a s = _
  rw [execJpoll, withGather_latched h.ready.latched, show dstFlds (.reg d) ++ [rfld codeA a 4] = [rfld codeD d, rfld codeA a 4] from rfl,
    handles_begin h hf _ rfl, handleVerdict_good hh]
  dsimp only
  have hnamed := namedBy_counted (r := r) hf a
  generalize counted s l [rfld codeD d, rfld codeA a 4] = u at h0 hu hnamed ⊢
  have hlive : ((u.work l).live.filter fun q => !((u.work l).s.lane q).helper && (u.work l).ordersBy q a) =
      if (u.work l).ordersBy r a then [r] else [] := by
    rw [show (u.work l).live = [r] from h.only, show (u.work l).s = u from rfl, List.filter_cons, hu.real, Bool.not_false, Bool.true_and,
      List.filter_nil]
  rw [hlive, show (u.work l).s = u from rfl]
  have hgoes : ∀ t : State, (t.lane r).helper = false → (t.group r.1).taskKill = false → regNo t l r codeD d = regNo s l r codeD d →
      (t.work l).namedBy r a = named s r (rdCap s l r codeA a) →
      ((t.work l).writeDst (.reg d) fun s r => if (s.lane r).helper then {} else { val := jpollWord ((t.work l).namedBy r a) }).finish =
        .next (past l r (t.wr r (regNo s l r codeD d) ⟨jpollWord (named s r (rdCap s l r codeA a)), false⟩)) := by
    intro t hreal hplain hno hn
    rw [h.writeDst_work, hreal, if_neg (by decide), hn, hno]
    exact h.finish (by rw [State.wr, group_modLane_taskKill]; exact hplain)
  cases (u.work l).ordersBy r a with
  | false =>
    simp only [Bool.false_eq_true, if_false, List.foldl_nil]
    exact hgoes u hu.real hu.plain (h0.regNo l r codeD d) hnamed
  | true =>
    simp only [if_true, List.foldl_cons, List.foldl_nil]
    rw [show deviceScope = 3 from rfl, show acquired (some 3) r u = u.acquires r 3 from rfl]
    have hlane : (u.acquires r 3).lane r = (u.lane r).acquire 3 u.past.length := lane_acquires hu.has 3
    have hreal : ((u.acquires r 3).lane r).helper = false := by
      rw [hlane]
      exact hu.real
    have hno : regNo (u.acquires r 3) l r codeD d = regNo s l r codeD d := by
      rw [← h0.regNo l r codeD d, regNo_eq, regNo_eq, hlane]
      rfl
    have hplain := acquires_plain hu 3
    have hn := (namedBy_acquires hu.has 3 a).trans hnamed
    generalize u.acquires r 3 = t at hreal hno hplain hn ⊢
    exact hgoes t hreal hplain hno hn

end

/-! ### Waking -/

/-- A lane parked on a grid that has ended goes on. -/
theorem wake_grid {s : State} {q : LRef} {g : Nat} {pc : DWord} (hstatus : (s.lane q).status = .parked (.grid g) pc)
    (hhalted : (s.lane q).halted = false) (hkill : (s.lane q).kill = false)
    (hdone : ∀ x ∈ s.grids, x.uid = g → x.state = .completed ∨ x.state = .failed) :
    s.wake q = if s.orderless q (.grid g) then s.modLane q fun x => x.advance pc else (s.modLane q fun x => x.advance pc).acquires q 3 := by
  have hover : s.gridDone g = true := by
    rw [State.gridDone]
    split
    · next x hx =>
      have huid : x.uid = g := by simpa using List.find?_some hx
      rcases hdone x (List.mem_of_find?_eq_some hx) huid with hs | hs <;> rw [hs] <;> rfl
    · rfl
  have hwake : s.wakeOf q (.grid g) = some true := by
    rw [State.wakeOf]
    exact if_pos hover
  rw [State.wake, Lane.wakes, hhalted, hkill, if_neg (by decide), hstatus]
  dsimp only
  rw [hwake]
  rfl

/-! ### The statement -/

section
variable {s : State} {l : Latch} {r : LRef} (h : Alone s l r)
include h

/-- What launch and launcha do with a record that they have read. -/
theorem exec_launch_read {d a b : Reg} {i : Instr} {flds : List Fld} {pred : Option Nat} {v : State} {x : LaunchRec}
    (hi : (i = .launch d a ∧ flds = [rfld codeD d 4, rfld codeA a 4] ∧ pred = none) ∨
      (i = .launcha d a b ∧ flds = [rfld codeD d 4, rfld codeA a 4, rfld codeB b 4] ∧ Claims.Handle s l r codeB b ∧
        pred = (named s r (rdCap s l r codeB b)).map (·.grid)))
    (hf : InRange s l flds) (hpctx : (s.grid (s.group r.1).grid).ctx = (s.group r.1).ctx)
    (hload : ((counted s l flds).work l).loadRecord r (rdCap s l r codeA a) (rdBad s l r codeA a) = (v.work l, some x)) :
    Read s v ∧ ∃ before : Option Cap,
      exec i s = ((v.work l).launchLane r (regNo s l r codeD d) (rdCap s l r codeA a) x before).launchEnd d ∧
      (before.bind fun h => ((v.ctx (v.grid (v.group r.1).grid).ctx).named h.cursor).map (·.grid)) = pred ∧
      (i = .launcha d a b → before.isNone = false) := by
  rcases hi with ⟨rfl, rfl, rfl⟩ | ⟨rfl, rfl, hh, rfl⟩
  · obtain ⟨hread, hexec⟩ := launchOp_read h (b := none) hf hload fun y hy => by cases hy
    exact ⟨hread, none, hexec, rfl, fun e => by cases e⟩
  · obtain ⟨hread, hexec⟩ := launchOp_read h (b := some b) hf hload fun y hy => by
      cases hy
      obtain ⟨hbad, htag, hty, hkey⟩ := hh
      rw [State.handleVerdict, hbad, htag, if_neg (by decide), if_neg (by decide), if_neg]
      rintro (ht | hk)
      · exact ht hty
      · exact hk hkey
    refine ⟨hread, some (rdCap s l r codeB b), hexec, ?_, fun _ => rfl⟩
    rw [Option.bind_some, hread.group, hread.grid, hpctx, ← named_eq]
    exact congrArg (Option.map (·.grid)) (hread.ctx_field (fun c => c.named (rdCap s l r codeB b).cursor) (fun _ => rfl) _)

omit h in
theorem field_zero (w : Word) (n : Nat) : field w 0 n = w.toNat % 2 ^ n := by
  rw [field, Nat.pow_zero, Nat.div_one]

/-- A launch that passes ends with the lane past its word. -/
theorem launched_ends {d : Reg} {n : Nat} {z : State} {g p : Grid} {k : Nat} (hhas : z.has r) (hkill : (z.group r.1).taskKill = false)
    (hreal : (z.lane r).helper = false) : ((z.launched r n g p k).work l).launchEnd d = .next (past l r (z.launched r n g p k)) := by
  have hlane := lane_launched z hhas n g p k
  have hplain : ((z.launched r n g p k).group r.1).taskKill = false := by
    rw [State.launched, wrCap_eq_modLane, group_modLane_taskKill]
    exact hkill
  generalize z.launched r n g p k = t at hlane hplain ⊢
  rw [launchEnd_real rfl]
  · exact h.finish hplain
  · intro q hq
    rw [show (t.work l).live = [r] from h.only, List.mem_singleton] at hq
    rw [hq, show (t.work l).s = t from rfl, hlane, putCap_helper, hreal]

omit h in
theorem lane_launched_past {n : Nat} {z : State} {g p : Grid} {k : Nat} (hhas : z.has r) : (past l r (z.launched r n g p k)).lane r =
    (putCap (z.lane r) n ((z.ctx p.ctx).handleOf k) []).advance l.pc := by
  have hthere : (z.launched r n g p k).has r := by
    rw [State.launched, wrCap_eq_modLane, has_modLane]
    exact hhas
  rw [past, lane_modLane_self _ _ _ hthere, lane_launched z hhas]

omit h in
/-- A record's fields, as the grid has them (Table 13.1). -/
theorem record_fields (x : LaunchRec) : x.dimx = (x.word 4).toNat ∧ x.dimy = (x.word 5).toNat % 65536 ∧ x.dimz = (x.word 5).toNat / 65536 ∧
    x.blksize = (x.word 6).toNat % 4096 ∧ x.width = 8 * 2 ^ ((x.word 6).toNat / 4096 % 4) ∧
    x.regs = 8 * ((x.word 6).toNat / 16384 % 8 + 1) ∧ x.level = (x.word 6).toNat / 131072 % 8 ∧ x.lines = (x.word 7).toNat % 65536 ∧
    x.granules = max ((x.word 7).toNat / 65536 % 1024) 1 := by
  have hdimz : x.dimz = (x.word 5).toNat / 65536 := Nat.mod_eq_of_lt (by have := (x.word 5).isLt; omega)
  exact ⟨rfl, field_zero _ _, hdimz, field_zero _ _, rfl, rfl, rfl, field_zero _ _, rfl⟩

/-- What a launch that passes has done, zeroing having given `z`. -/
theorem launched_of {d : Reg} {i : Instr} {v z : State} {x : LaunchRec} {k : Nat} {pred : Option Nat} (hread : Read s v)
    (hexec : exec i s = (((z.launched r (regNo s l r codeD d) (x.grid z.nextId (s.grid (s.group r.1).grid) (s.lane r) pred)
      (s.grid (s.group r.1).grid) k).work l).launchEnd d)) (hz : Zeroes v z) :
    ∃ t, exec i s = .next t ∧ Launched s z t l r d x k pred := by
  have hv := hread.alone h
  have hb := hz.beside
  have hhas : z.has r := hb.has hv.has
  have hctxs : z.ctxs = v.ctxs := congrArg (·.ctxs) hb.rest
  have hctx : ∀ {β : Type} (f : Ctx → β), (∀ c : Ctx, f c.noPerf = f c) → ∀ n, f (z.ctx n) = f (s.ctx n) := fun f hf n => by
    rw [State.ctx, hctxs]
    exact hread.ctx_field f hf n
  have hnext : z.nextId = s.nextId := (congrArg (·.nextId) hb.rest).trans (hread.keep (·.nextId) fun _ _ _ _ => rfl)
  have hlaunchQ : z.launchQ = s.launchQ := (congrArg (·.launchQ) hb.rest).trans (hread.keep (·.launchQ) fun _ _ _ _ => rfl)
  have hblocks : z.blocks = s.blocks := (congrArg (·.blocks) hb.rest).trans (hread.keep (·.blocks) fun _ _ _ _ => rfl)
  have hgrids : z.grids = s.grids := (congrArg (·.grids) hb.rest).trans (hread.keep (·.grids) fun _ _ _ _ => rfl)
  rw [launched_ends h hhas ((hb.taskKill r.1).trans hv.plain) ((hb.lane_field (·.helper) (fun _ _ => rfl) r).trans hv.real)] at hexec
  refine ⟨_, hexec, ?_⟩
  rw [Launched]
  have hpast : ∀ {β : Type} (f : State → β), (∀ (t : State) gs, f { t with groups := gs } = f t) → ∀ t, f (past l r t) = f t :=
    fun f hf t => hf t _
  refine ⟨(hpast (·.hbm) (fun _ _ => rfl) _).trans (hbm_launched ..), _,
    (hpast (·.grids) (fun _ _ => rfl) _).trans (grids_launched z r _ _ _ k), hnext, rfl, rfl, ?_⟩
  obtain ⟨hx, hy, hz', hblk, hwidth, hregs, hlevel, hlines, hgran⟩ := record_fields x
  refine ⟨hx, hy, hz', hblk, hwidth, hregs, hlevel, hlines, hgran, rfl, rfl, rfl, rfl, rfl, ?_, rfl, rfl, ?_, ?_, ?_, fun q hq => ?_, ?_,
    fun hdir => ⟨hgrids, fun q => ?_⟩⟩
  · exact congrArg (fun c => (s.grid (s.group r.1).grid).display.take x.level ++ [c])
      (hctx (fun c => c.frameCap k x.granules) (fun _ => rfl) (s.grid (s.group r.1).grid).ctx)
  · have hqueue := launchQueue_launched z r (regNo s l r codeD d) (x.grid z.nextId (s.grid (s.group r.1).grid) (s.lane r) pred)
      (s.grid (s.group r.1).grid) k
    have hpriority := hctx (fun c => c.hdr.priority) (fun _ => rfl) (s.grid (s.group r.1).grid).ctx
    rw [hpast (fun t => t.launchQueue _) (fun _ _ => rfl), ← hpriority]
    refine hqueue.trans ?_
    rw [State.launchQueue, hlaunchQ]
    rfl
  · rw [hpast (fun t => t.ctx _) (fun _ _ => rfl)]
    exact frames_launched z r (regNo s l r codeD d) (x.grid z.nextId (s.grid (s.group r.1).grid) (s.lane r) pred)
      (s.grid (s.group r.1).grid) k
  · rw [lane_launched_past hhas]
    exact congrArg (fun c => (putCap (z.lane r) (regNo s l r codeD d) c []).advance l.pc)
      (hctx (fun c => c.handleOf k) (fun _ => rfl) (s.grid (s.group r.1).grid).ctx)
  · rw [past, lane_modLane_ne _ hq, lane_launched_ne z hq]
  · exact (hpast (·.blocks) (fun _ _ => rfl) _).trans ((blocks_launched ..).trans hblocks)
  · have hdies : ∀ d, d < 4 → (v.die d).dir = [] := by
      obtain ⟨u, h0, ht⟩ := hread.exists_counted
      exact ht.unrecorded fun d hd => (congrArg Die.dir (h0.die d)).trans (hdir d hd)
    rw [State.lane, State.group, (hz.plain hdies).1]
    exact hread.lane q

end

/-- Settles O49: a launch's record comes by loads that change TLBs alone; zeroing changes HBM and what becomes of regions. -/
theorem launchResults : Obligations.LaunchResults := by
  intro s l r h
  dsimp only
  refine ⟨?_, ?_, ?_, ?_, ?_⟩
  · intro d a b i flds pred v z x k hi hf hpctx hload
    obtain ⟨hread, before, hexec, hbefore, hlater⟩ := exec_launch_read h hi hf hpctx hload
    have hv := hread.alone h
    have hp : v.grid (v.group r.1).grid = s.grid (s.group r.1).grid := by rw [hread.group, hread.grid]
    have hctx : ∀ {β : Type} (f : Ctx → β), (∀ c : Ctx, f c.noPerf = f c) →
        f (v.ctx (v.grid (v.group r.1).grid).ctx) = f (s.ctx (s.grid (s.group r.1).grid).ctx) := fun f hf => by
      rw [hread.ctx_field f hf, hp]
    have hreason : ∀ {o : Option Nat}, x.reason (s.grid (s.group r.1).grid) (s.lane r) = o →
        x.reason (v.grid (v.group r.1).grid) (v.lane r) = o := fun ho => by rw [hp, hread.lane, ho]
    refine ⟨fun hbad hd => ?_, fun hclean => ⟨fun n hn hd => ?_, fun hn hbig hd => ?_,
      fun hn hfits hqueue => ⟨fun hrun => ?_, fun hrun hcoop hz => ?_⟩⟩⟩
    · rw [hexec, launchLane_poisoned hbad, launchEnd_strike hv (hread.delivers hd)]
    · rw [hexec, launchLane_reason hclean (hreason hn), launchEnd_strike hv (hread.delivers hd)]
    · rw [hexec, launchLane_above hclean (hreason hn) (by rw [hctx (fun c => c.hdr.poolsize) fun _ => rfl]; exact hbig),
        launchEnd_strike hv (hread.delivers hd), tdata_eq, hctx (fun c => c.hdr.poolsize) fun _ => rfl, BitVec.toNat_ofNat, BitVec.toNat_ofNat,
        Nat.add_comm]
    · have hwaits := launchLane_waits (l := l) (n := regNo s l r codeD d) (c := rdCap s l r codeA a) (pred := before) hclean (hreason hn)
        (by rw [hctx (fun c => c.hdr.poolsize) fun _ => rfl]; exact hfits) (by rw [hctx (·.granQ) fun _ => rfl]; exact hqueue)
        (by rw [hctx (·.findRun x.granules) fun _ => rfl]; exact hrun)
      rw [hexec, hwaits, launchEnd_real, h.finish_park (show ((v.modCtx _ _).group r.1).taskKill = false from hv.plain), hp]
      · rw [h.park_work]
      · rw [h.park_work]
        exact fun q hq => by cases hq
    · have hz' : zeroGranules (some (v.group r.1).coreOf) (dieOf (v.group r.1).coreOf) (v.ctx (v.grid (v.group r.1).grid).ctx).hdr.asid
          x.granules v ((v.ctx (v.grid (v.group r.1).grid).ctx).granuleAt k) = .ok z := by
        rw [hctx (fun c => c.hdr.asid) fun _ => rfl, hctx (·.granuleAt k) fun _ => rfl, hread.group]
        exact hz
      have hmade := launchLane_made (l := l) (n := regNo s l r codeD d) (c := rdCap s l r codeA a) (pred := before) hclean (hreason hn)
        (by rw [hctx (fun c => c.hdr.poolsize) fun _ => rfl]; exact hfits) (by rw [hctx (·.granQ) fun _ => rfl]; exact hqueue)
        (by rw [hctx (·.findRun x.granules) fun _ => rfl]; exact hrun) hz' (fun hc => hlater (hcoop hc))
      rw [hbefore, hp, hread.lane] at hmade
      rw [hmade] at hexec
      exact launched_of h hread hexec (zeroGranules_zeroes hz)
  · intro d a e he hf
    have hstrikes : ∀ {k : Byte} {x : DWord}, s.handleVerdict (s.group r.1).ctx (rdCap s l r codeA a) (rdBad s l r codeA a) = some (k, x) →
        TrapsWith e.1 s l r e.2 k x := fun hv => by
      rcases List.mem_cons.1 he with rfl | he
      · exact join_strikes h hf hv
      · rcases List.mem_singleton.1 he with rfl
        exact jpoll_strikes h hf hv
    refine ⟨fun hbad => hstrikes ?_, fun hbad htag => hstrikes ?_, fun hbad htag hother => hstrikes ?_⟩
    · rw [State.handleVerdict, hbad, if_pos rfl]
    · rw [State.handleVerdict, hbad, htag]
      rfl
    · rw [State.handleVerdict, hbad, htag, if_neg (by decide), if_neg (by decide), if_pos hother]
  · intro a hf hh
    have horders := ordersBy_counted (r := r) hf a
    refine ⟨fun hn => ?_, fun y hn hdone => ?_, fun y hn hdone => exec_join_waits h hf hh hn hdone⟩
    · have hexec := exec_join_on h hf hh fun f hf' => by rw [hn] at hf'; cases hf'
      rw [hn] at horders
      refine ⟨fun hgood => ?_, fun hfailed => ?_⟩
      · rw [hexec, if_pos (horders.2 hgood)]
      · rw [hexec, if_neg fun ho => horders.1 ho hfailed]
    · have hexec := exec_join_on h hf hh fun f hf' => by
        rw [hn] at hf'
        cases hf'
        exact hdone
      rw [hn] at horders
      refine ⟨fun hgood => ?_, fun hfailed => ?_⟩
      · rw [hexec, if_pos (horders.2 ⟨hdone, by simpa using hgood⟩)]
      · rw [hexec, if_neg fun ho => by rw [(horders.1 ho).2] at hfailed; cases hfailed]
  · intro d a hf hh
    have horders := ordersBy_counted (r := r) hf a
    have hexec := exec_jpoll_good h hf hh
    refine ⟨fun hn hgood => ?_, fun hn hfailed => ?_, fun y hn => ?_⟩
    · rw [hn] at horders hexec
      rw [hexec, if_pos (horders.2 hgood)]
      rfl
    · rw [hn] at horders hexec
      rw [hexec, if_neg fun ho => horders.1 ho hfailed]
      rfl
    · rw [hn] at horders hexec
      refine ⟨fun hdone hgood => ?_, fun hdone hfailed => ?_, fun hdone => ?_⟩
      · rw [hexec, if_pos (horders.2 ⟨hdone, hgood⟩), jpollWord, hdone, hgood]
        rfl
      · rw [hexec, if_neg fun ho => by rw [(horders.1 ho).2] at hfailed; cases hfailed]
        rw [jpollWord, hdone, hfailed]
        rfl
      · rw [hexec, if_neg fun ho => by rw [(horders.1 ho).1] at hdone; cases hdone]
        rw [jpollWord, hdone]
        rfl
  · intro q g pc hstatus hhalted hkill hdone
    rw [wake_grid hstatus hhalted hkill hdone]
    have horderless : s.orderless q (.grid g) = true ↔ ∃ y ∈ (s.ctx (s.group q.1).ctx).failures, y.1 = g := by
      simp only [State.orderless, Ctx.failedGrid, List.any_eq_true, beq_iff_eq]
    exact if_congr horderless rfl rfl

end Sys2Proof.Machine
end

section
/-!
PROOFS. Two blocks of one number: what an operation makes of the object of a block it makes of each from its own words.
-/

namespace Sys2Proof.Machine

open Sys2Proof Sys2Proof.Machine.Claims

/-- The state of the bound ring at the edge, with a second block of the same number whose scratchpad is clear. -/
def twinState : State :=
  { edgeRingState with blocks := edgeRingState.blocks ++ [{ bid := 0, grid := 0, index := 0 }] }

theorem twinState_alone : Alone twinState edgeLatch (1, 0) where
  ready := ⟨rfl, rfl, by decide, fun r hr => by cases List.mem_singleton.1 hr; exact ⟨by decide, by decide⟩, by decide⟩
  only := rfl
  real := rfl
  plain := rfl

/-- The first word of the second block's scratchpad, after an instruction. -/
def twinWord (o : Host.Outcome State Fault Refusal) : Option Word :=
  match o with
  | .next t => (t.blocks[1]?).map fun b => (b.scratch.word 8 0).val
  | _ => none

/-- Refutes O38: chclose sets the closed bit of each block's own header word, and the second block's is clear but for it. -/
theorem not_channelControl : ¬ Obligations.ChannelControl := by
  intro h
  obtain ⟨-, -, hclose⟩ := h 0 twinState edgeLatch (1, 0) twinState_alone
  obtain ⟨hnext, -⟩ := hclose 0 ⟨⟨16, rfl⟩, by decide, by decide, by decide, by decide⟩
  have hword := congrArg twinWord hnext
  revert hword
  decide

end Sys2Proof.Machine
end

section
/-!
PROOFS. Blocks and their objects (R215), convergence registers, straggler records and checksums, with one lane (R224 to R229).
-/

namespace Sys2Proof.Machine

open Sys2Proof Sys2Proof.Machine.Claims

/-! ### Blocks -/

theorem find_map_bid (bs : List Block) {f : Block → Block} (hf : ∀ b, (f b).bid = b.bid) (x : Nat) :
    (bs.map f).find? (·.bid == x) = (bs.find? (·.bid == x)).map f := by
  rw [List.find?_map]
  exact congrArg (Option.map f) (congrArg (bs.find? ·) (funext fun b => congrArg (· == x) (hf b)))

section
variable (s : State) (b : Nat) {f : Block → Block} (hf : ∀ x, (f x).bid = x.bid)
include hf

theorem modBlock_bid (x : Block) : (if x.bid == b then f x else x).bid = x.bid := by
  split
  · exact hf x
  · rfl

theorem block_modBlock_ne {x : Nat} (hx : x ≠ b) : (s.modBlock b f).block x = s.block x := by
  rw [State.block, State.modBlock, find_map_bid _ (modBlock_bid b hf), State.block]
  cases hfind : s.blocks.find? (·.bid == x) with
  | none => rfl
  | some y =>
    have hy : y.bid = x := by simpa using List.find?_some hfind
    rw [Option.map_some, Option.getD_some, Option.getD_some, if_neg (by simpa [hy] using hx)]

theorem block_modBlock_self (hb : (s.blocks.any fun x => x.bid == b) = true) : (s.modBlock b f).block b = f (s.block b) := by
  obtain ⟨y, hy⟩ : ∃ y, s.blocks.find? (·.bid == b) = some y := by
    rw [← Option.isSome_iff_exists, List.find?_isSome]
    simpa using hb
  have hid : y.bid = b := by simpa using List.find?_some hy
  rw [State.block, State.modBlock, find_map_bid _ (modBlock_bid b hf), State.block, hy, Option.map_some, Option.getD_some,
    Option.getD_some, if_pos (by simpa using hid)]

/-- What a change of a block leaves of each block it leaves of one. -/
theorem block_modBlock_field {α : Type} (p : Block → α) (hp : ∀ x, p (f x) = p x) (x : Nat) :
    p ((s.modBlock b f).block x) = p (s.block x) := by
  rw [State.block, State.modBlock, find_map_bid _ (modBlock_bid b hf), State.block]
  cases s.blocks.find? (·.bid == x) with
  | none => rfl
  | some y =>
    rw [Option.map_some, Option.getD_some, Option.getD_some]
    split
    · exact hp y
    · rfl

end

/-! ### Objects -/

section
variable {s : State} {l : Latch} {r : LRef} {a : Reg} {off : Nat} (ho : Obj s l r a off)
include ho

theorem Claims.Obj.objVerdict : objVerdict (rdCap s l r codeA a) (rdBad s l r codeA a) false = none := by
  rw [Machine.objVerdict, ho.clean, ho.tag, ho.plain]
  rfl

theorem Claims.Obj.objRange : s.objRange r (rdCap s l r codeA a) 16 = none := by
  have hspace : ((rdCap s l r codeA a).space == 1 || (rdCap s l r codeA a).space == 2) = true := by
    rcases ho.space with h | h <;> rw [h] <;> rfl
  have hwithin : (rdCap s l r codeA a).within (rdCap s l r codeA a).cursor.toNat 16 = true := by
    rw [Cap.within, decide_eq_true ho.within.1, Bool.true_and]
    exact decide_eq_true (by have := ho.within.2; omega)
  rw [State.objRange, hspace, ho.perms.1, ho.perms.2, if_neg (by decide), if_neg (by rw [ho.aligned]; decide), hwithin,
    decide_eq_false (Nat.not_lt.2 ho.size), if_neg (by decide)]

theorem Claims.Obj.offsetOf : s.offsetOf r (rdCap s l r codeA a) = off := by
  have hspace : (rdCap s l r codeA a).space ≠ 0 := by
    rcases ho.space with h | h <;> rw [h] <;> decide
  rw [State.offsetOf, State.placeOf, if_neg hspace, ho.here]

theorem Claims.Obj.object : (s.work l).object r (rdCap s l r codeA a) = (s.work l, some off) := by
  rw [Work.object, show (s.work l).s = s from rfl, ho.objRange]
  dsimp only
  rw [ho.offsetOf, ho.present, if_pos rfl]

theorem Claims.Obj.counted {u : State} (h0 : Tallied s u) : Obj u l r a off := by
  have hpresent : u.present (u.group r.1).block (off / 128) = s.present (s.group r.1).block (off / 128) := by
    rw [State.present, State.present, h0.group, h0.block, State.copyPending, State.copyPending, show u.copies = s.copies by rw [← h0.rest]]
  refine ⟨?_, ?_, ?_, ?_, ?_, ?_, ?_, ?_, ?_, ho.off16, hpresent.trans ho.present, ?_, ?_, ?_⟩
  all_goals simp only [h0.rdBad, h0.rdCap, h0.spaceSize, h0.group, h0.block, h0.blocks]
  · exact ho.clean
  · exact ho.tag
  · exact ho.plain
  · exact ho.space
  · exact ho.perms
  · exact ho.aligned
  · exact ho.within
  · exact ho.size
  · exact ho.here
  · exact ho.held
  · exact ho.wf
  · exact ho.core

end

/-! ### Convergence registers -/

theorem signReason_none {v : CvReg} {k t : Nat} (hcount : v.count ≠ 0) (hmask : mbit v.mask t = false) (hkind : v.kind = 0 ∨ v.kind = k) :
    v.signReason k t = none := by
  rw [CvReg.signReason, if_neg hcount, hmask, if_neg (by decide), if_neg]
  rintro ⟨h0, hk⟩
  exact hkind.elim h0 hk

/-- The signatures of a lane whose register `n` starts a generation. -/
def passed (n : Nat) (sigs : List (Nat × Sig)) : List (Nat × Sig) :=
  sigs.map fun (x : Nat × Sig) =>
    match x.2 with
    | .plain _ => if x.1 = n then (n, .passed) else x
    | _ => x

theorem tget_passed {n : Nat} {g : Nat} : ∀ {sigs : List (Nat × Sig)}, tget n sigs = some (.plain g) → tget n (passed n sigs) = some .passed
  | [], h => by cases h
  | (j, x) :: t, h => by
    rw [tget] at h
    split at h
    · next hj =>
      cases h
      rw [passed, List.map_cons, tget]
      simp only [hj, if_true]
    · next hj =>
      have hkey : ((match x with
        | .plain _ => if j = n then (n, Sig.passed) else (j, x)
        | _ => (j, x)) : Nat × Sig) = (j, x) := by
        split
        · rw [if_neg hj]
        · rfl
      rw [passed, List.map_cons]
      dsimp only
      rw [hkey, tget, if_neg hj]
      exact tget_passed h

/-- What passSigs does to a group. -/
def Group.passing (block n : Nat) (g : Group) : Group :=
  if g.block == block && !g.isK then { g with lanes := g.lanes.map fun x => { x with sigs := passed n x.sigs } } else g

theorem group_passSigs (s : State) (block n x : Nat) : (s.passSigs block n).group x = (s.group x).passing block n := by
  have hgid : ∀ g : Group, (g.passing block n).gid = g.gid := fun g => by
    unfold Group.passing
    split <;> rfl
  have hdefault : Group.passing block n { gid := x } = { gid := x } := by
    unfold Group.passing
    split <;> rfl
  rw [State.group, show (s.passSigs block n).groups = s.groups.map (Group.passing block n) from rfl, find_map_gid _ _ hgid, State.group]
  cases s.groups.find? (·.gid == x) with
  | none => exact hdefault.symm
  | some g => rfl

theorem passSigs_group_field {α : Type} (p : Group → α) (hp : ∀ (g : Group) ls, p { g with lanes := ls } = p g) (s : State) (block n x : Nat) :
    p ((s.passSigs block n).group x) = p (s.group x) := by
  rw [group_passSigs, Group.passing]
  split
  · exact hp _ _
  · rfl

theorem lane_passSigs (s : State) (block n : Nat) (q : LRef) : (s.passSigs block n).lane q =
    if (s.group q.1).block == block && !(s.group q.1).isK then { s.lane q with sigs := passed n (s.lane q).sigs } else s.lane q := by
  rw [State.lane, group_passSigs, Group.passing, State.lane]
  split
  · rw [List.getElem?_map]
    cases (s.group q.1).lanes[q.2]? with
    | none => rfl
    | some x => rfl
  · rfl

theorem has_passSigs {s : State} {q : LRef} (hq : s.has q) (block n : Nat) : (s.passSigs block n).has q := by
  have hgid : ∀ g : Group, (g.passing block n).gid = g.gid := fun g => by
    unfold Group.passing
    split <;> rfl
  refine ⟨?_, ?_⟩
  · have hholds := hq.1
    rw [State.holds] at hholds ⊢
    rw [show (s.passSigs block n).groups = s.groups.map (Group.passing block n) from rfl, List.any_map]
    simpa [Function.comp, hgid] using hholds
  · rw [group_passSigs, Group.passing]
    split
    · rw [List.length_map]
      exact hq.2
    · exact hq.2

theorem Lane.advance_sigs (x : Lane) (pc : DWord) : (x.advance pc).sigs = x.sigs := by
  unfold Lane.advance
  dsimp only
  split
  · rfl
  · split_ifs <;> rfl

section
variable {s : State} {l : Latch} {r : LRef} (h : Alone s l r)
include h

theorem exec_cvinit_idle {n : BitVec 6} {a : Reg} (hf : InRange s l [rfld codeA a]) (hp : (rd s l r codeA a).poison = false)
    (h0 : 0 < (rd s l r codeA a).val.toNat) (hk : (rd s l r codeA a).val.toNat ≤ (s.grid (s.group r.1).grid).blksize)
    (hidle : ((s.block (s.group r.1).block).cv n.toNat).signed = 0) :
    exec (.cvinit n a) s = .next (past l r ((counted s l [rfld codeA a]).modBlock (s.group r.1).block fun x =>
      { x with cvs := tput n.toNat { (s.block (s.group r.1).block).cv n.toNat with count := (rd s l r codeA a).val.toNat } x.cvs })) := by
  have ht := tallied_counted hf
  have hu := h.counted hf
  show execCvinit n a s = _
  rw [execCvinit, withGather_latched h.ready.latched, sources_counted hf none rfl]
  have hgrid := ht.grid
  generalize counted s l [rfld codeA a] = u at ht hu hgrid ⊢
  have hreg : (u.work l).regOf r codeA a = rd s l r codeA a := ht.rd l r codeA a
  have hzero : (rd s l r codeA a).val ≠ 0 := fun e => by
    rw [e] at h0
    exact absurd h0 (by decide)
  have hok : ¬ ((rd s l r codeA a).val = 0 ∨ (s.grid (s.group r.1).grid).blksize < (rd s l r codeA a).val.toNat ∨
      ((s.block (s.group r.1).block).cv n.toNat).signed ≠ 0) := by
    rintro (e | e | e)
    · exact hzero e
    · omega
    · exact e hidle
  simp only [show (u.work l).live = [r] from h.only, List.foldl_cons, List.foldl_nil, hreg, hp, Bool.false_eq_true, if_false,
    show (u.work l).s = u from rfl, hu.real, ht.group, ht.block, hgrid, if_neg hok]
  exact h.finish_of rfl rfl h.late rfl hu.plain

theorem exec_cvsign_counts {n : BitVec 6} (hcount : ((s.block (s.group r.1).block).cv n.toNat).count ≠ 0)
    (hmask : mbit ((s.block (s.group r.1).block).cv n.toNat).mask ((s.group r.1).tidx r.2) = false)
    (hkind : ((s.block (s.group r.1).block).cv n.toNat).kind = 0 ∨ ((s.block (s.group r.1).block).cv n.toNat).kind = 1) :
    exec (.cvsign n) s = .next (past l r (
      if (((s.block (s.group r.1).block).cv n.toNat).sign 1 ((s.group r.1).tidx r.2)).2 then
        (((counted s l []).modBlock (s.group r.1).block fun b =>
          b.setCv n.toNat (((s.block (s.group r.1).block).cv n.toNat).sign 1 ((s.group r.1).tidx r.2)).1).modLane r fun x =>
            { x with sigs := tput n.toNat (.plain ((s.block (s.group r.1).block).cv n.toNat).gen) x.sigs }).passSigs (s.group r.1).block n.toNat
      else ((counted s l []).modBlock (s.group r.1).block fun b =>
          b.setCv n.toNat (((s.block (s.group r.1).block).cv n.toNat).sign 1 ((s.group r.1).tidx r.2)).1).modLane r fun x =>
            { x with sigs := tput n.toNat (.plain ((s.block (s.group r.1).block).cv n.toNat).gen) x.sigs })) := by
  have hf := inRange_nil s l
  have ht := tallied_counted hf
  have hu := h.counted hf
  show execCvsign n s = _
  rw [execCvsign, withGather_latched h.ready.latched, begin_counted hf]
  generalize counted s l [] = u at ht hu ⊢
  simp only [hu.actors_work hu.real, List.foldl_cons, List.foldl_nil, show (u.work l).s = u from rfl, ht.group, ht.block,
    signReason_none hcount hmask hkind]
  refine h.finish_of rfl h.only h.late rfl ?_
  have hplain : (((u.modBlock (s.group r.1).block fun b => b.setCv n.toNat
      (((s.block (s.group r.1).block).cv n.toNat).sign 1 ((s.group r.1).tidx r.2)).1).modLane r fun x =>
        { x with sigs := tput n.toNat (.plain ((s.block (s.group r.1).block).cv n.toNat).gen) x.sigs }).group r.1).taskKill = false := by
    rw [group_modLane_taskKill]
    exact hu.plain
  dsimp only
  split
  · rw [passSigs_group_field (·.taskKill) fun _ _ => rfl]
    exact hplain
  · exact hplain

/-! ### Straggler records and checksums -/

theorem exec_strag_object {d a : Reg} {off : Nat} (ho : Obj s l r a off) (hf : InRange s l [rfld codeD d 4, rfld codeA a 4]) :
    exec (.strag d a) s = .next (past l r ((counted s l [rfld codeD d 4, rfld codeA a 4]).wrs r (regNo s l r codeD d)
      (plainWords (match (s.block (s.group r.1).block).armed off with
        | some (_, e) => e.record.words
        | none => List.replicate 4 0)))) := by
  have ht := tallied_counted hf
  have hu := h.counted hf
  have hou := ho.counted ht
  show execStrag d a s = _
  rw [execStrag, withGather_latched h.ready.latched, sources_counted hf none rfl]
  generalize counted s l [rfld codeD d 4, rfld codeA a 4] = u at ht hu hou ⊢
  have hverdict : objVerdict (u.cap r ((u.work l).quadA r a)) (u.quadPoison r ((u.work l).quadA r a)) false = none := hou.objVerdict
  have hspace : ¬ ((rdCap u l r codeA a).space = 0 ∧ (rdCap u l r codeA a).perm 6 = true) := fun hz => by
    rcases hou.space with e | e <;> rw [hz.1] at e <;> cases e
  have hread : (u.work l).stragOf r (u.cap r ((u.work l).quadA r a)) = (u.work l, some (match (s.block (s.group r.1).block).armed off with
      | some (_, e) => e.record.words
      | none => List.replicate 4 0)) := by
    have hobject := hou.object
    rw [Work.stragOf]
    dsimp only
    rw [show u.cap r ((u.work l).quadA r a) = rdCap u l r codeA a from rfl, if_neg hspace, hobject]
    dsimp only
    rw [show (u.work l).s = u from rfl, ht.group, ht.block]
    cases (s.block (s.group r.1).block).armed off with
    | none => rfl
    | some x => rfl
  generalize (match (s.block (s.group r.1).block).armed off with
    | some (_, e) => e.record.words
    | none => List.replicate 4 0) = ws at hread ⊢
  simp only [show (u.work l).live = [r] from h.only, List.foldl_cons, List.foldl_nil, show (u.work l).s = u from rfl, hverdict, hread,
    List.nil_append, hu.writeRegs_work, zeroRegs_work, List.find?_cons, beq_self_eq_true, Option.map_some, Option.getD_some]
  rw [show (u.work l).rnum r codeD d.toNat = regNo s l r codeD d from ht.regNo l r codeD d]
  exact h.finish (by rw [wrs_eq_modLane, group_modLane_taskKill, hu.plain])

omit h in
theorem fold_one (s : State) (r : LRef) : (s.group r.1).fold [r.2] = sumOf (s.lane r) (s.group r.1).regs := by
  rw [Group.fold, List.foldl_cons, List.foldl_nil, sumOf]
  refine congrArg (fun f => (List.range (s.group r.1).regs).foldl f (0 : DWord)) (funext fun h => funext fun n => ?_)
  rw [foldStep, show ((s.group r.1).lanes[r.2]?).getD {} = s.lane r from rfl, Lane.foldWord]
  simp only [Bool.or_eq_true]
  split
  · rfl
  · rfl

theorem exec_csum_one {d : Reg} (hf : InRange s l [rfld codeD d 2]) :
    exec (.csum d) s = .next (past l r ((counted s l [rfld codeD d 2]).wrs r (regNo s l r codeD d)
      [⟨lo32 (sumOf (s.lane r) (s.group r.1).regs), false⟩, ⟨hi32 (sumOf (s.lane r) (s.group r.1).regs), false⟩])) := by
  have ht := tallied_counted hf
  have hu := h.counted hf
  show execCsum d s = _
  rw [execCsum, withGather_latched h.ready.latched, sources_counted hf none rfl]
  generalize counted s l [rfld codeD d 2] = u at ht hu ⊢
  have hactual : u.actual r.1 [r] = [r] := actual_one hu.real
  have hsum := fold_one u r
  rw [ht.lane, ht.group] at hsum
  simp only [show (u.work l).live = [r] from h.only, groupsOf_one, List.map_cons, List.map_nil, show (u.work l).s = u from rfl, hactual,
    ht.group, hsum, tget, if_true, Option.getD_some, hu.writeRegs_work, zeroRegs_work]
  rw [show (u.work l).rnum r codeD d.toNat = regNo s l r codeD d from ht.regNo l r codeD d]
  exact h.finish (by rw [wrs_eq_modLane, group_modLane_taskKill, hu.plain])

end

/-! ### The statement -/

/-- Settles O46: a signature is one change of the block's register and of the lane's note of it. -/
theorem convergenceResults : Obligations.ConvergenceResults := by
  intro s l r h
  dsimp only
  refine ⟨fun n a hf hp h0 hk hidle => exec_cvinit_idle h hf hp h0 hk hidle, fun n hcount hmask hkind => ⟨fun hmore => ?_,
    fun hlast hheld _ => ?_⟩, fun d a off ho hf => exec_strag_object h ho hf, fun d hf => exec_csum_one h hf⟩
  · rw [exec_cvsign_counts h hcount hmask hkind, CvReg.sign, if_neg hmore]
    rfl
  · have hexec := exec_cvsign_counts h hcount hmask hkind
    have ht := tallied_counted (inRange_nil s l)
    have hu := h.counted (inRange_nil s l)
    rw [CvReg.sign, if_pos hlast] at hexec
    dsimp only at hexec
    rw [if_pos rfl] at hexec
    refine ⟨_, hexec, ?_⟩
    generalize counted s l [] = u at ht hu
    generalize hv : (s.block (s.group r.1).block).cv n.toNat = v
    have hmod : ∀ b : Block, (b.setCv n.toNat { v with gen := (v.gen + 1) % 64, signed := 0, kind := 0, mask := 0 }).bid = b.bid := fun _ => rfl
    have hhas : ((u.modBlock (s.group r.1).block fun b =>
        b.setCv n.toNat { v with gen := (v.gen + 1) % 64, signed := 0, kind := 0, mask := 0 }).modLane r fun x =>
          { x with sigs := tput n.toNat (.plain v.gen) x.sigs }).has r := (has_modLane ..).2 hu.has
    have hlane := lane_modLane_self _ r (fun x => x.advance l.pc) (has_passSigs hhas (s.group r.1).block n.toNat)
    have hinner := lane_modLane_self (u.modBlock (s.group r.1).block fun b =>
      b.setCv n.toNat { v with gen := (v.gen + 1) % 64, signed := 0, kind := 0, mask := 0 }) r
        (fun x => { x with sigs := tput n.toNat (.plain v.gen) x.sigs }) hu.has
    have hkeep : ∀ {β : Type} (p : Lane → β), (∀ (x : Lane) sg, p { x with sigs := sg } = p x) →
        p ((((u.modBlock (s.group r.1).block fun b =>
          b.setCv n.toNat { v with gen := (v.gen + 1) % 64, signed := 0, kind := 0, mask := 0 }).modLane r fun x =>
            { x with sigs := tput n.toNat (.plain v.gen) x.sigs }).passSigs (s.group r.1).block n.toNat).lane r) = p (s.lane r) := by
      intro β p hp
      rw [lane_passSigs, hinner]
      have hbase : p { u.lane r with sigs := tput n.toNat (.plain v.gen) (u.lane r).sigs } = p (s.lane r) := by rw [hp, ht.lane]
      split
      · exact (hp _ _).trans hbase
      · exact hbase
    refine ⟨?_, ?_, ?_, ht.hbm, fun _ hcore => ?_, fun x => ?_⟩
    · refine (congrArg (fun b : Block => b.cv n.toNat) (block_modBlock_self u (s.group r.1).block hmod (by rw [ht.blocks]; exact hheld))).trans ?_
      rw [Block.cv, Block.setCv, tget_tput_self]
      rfl
    · rw [past, hlane]
      exact Lane.advance_pc_congr (hkeep (·.loop) fun _ _ => rfl) (hkeep (·.code) fun _ _ => rfl) _
    · rw [past, hlane, (Lane.advance_keeps _ _).1]
      exact hkeep (·.regs) fun _ _ => rfl
    · have hblock : (((u.modBlock (s.group r.1).block fun b =>
          b.setCv n.toNat { v with gen := (v.gen + 1) % 64, signed := 0, kind := 0, mask := 0 }).modLane r fun x =>
            { x with sigs := tput n.toNat (.plain v.gen) x.sigs }).group r.1).block = (s.group r.1).block :=
        (group_modLane_block _ r _ r.1).trans (congrArg Group.block (ht.group r.1))
      have hisK : (((u.modBlock (s.group r.1).block fun b =>
          b.setCv n.toNat { v with gen := (v.gen + 1) % 64, signed := 0, kind := 0, mask := 0 }).modLane r fun x =>
            { x with sigs := tput n.toNat (.plain v.gen) x.sigs }).group r.1).isK = false :=
        (group_modLane_field (·.isK) (fun _ _ => rfl) _ r _ r.1).trans ((congrArg Group.isK (ht.group r.1)).trans hcore)
      rw [past, hlane, Lane.advance_sigs, lane_passSigs, hblock, hisK, if_pos (by simp), hinner]
      exact tget_passed (tget_tput_self ..)
    · exact (block_modBlock_field u (s.group r.1).block hmod (·.scratch) (fun _ => rfl) x).trans (congrArg Block.scratch (ht.block x))

end Sys2Proof.Machine
end

section
/-!
PROOFS. Copies, the wait for them, and presence bits, with one lane (R174 to R183, R262 to R265).
-/

namespace Sys2Proof.Machine

open Sys2Proof Sys2Proof.Machine.Claims

/-! ### Issuing -/

theorem Tallied.copies {s t : State} (h : Tallied s t) : t.copies = s.copies := by rw [← h.rest]

theorem Tallied.outstanding {s t : State} (h : Tallied s t) (gid : Nat) (n : Word) : t.outstanding gid n = s.outstanding gid n := by
  have hrest := h.rest
  rw [← hrest]
  rfl

/-- One copy of a lane, as `s` has the lane, in its core's queue in `u`, under its group's next number. -/
def queuedCopy (s u : State) (l : Latch) (r : LRef) (copyIn : Bool) (x : Xfer) : State :=
  { u.modGroup r.1 (fun y => { y with engseq := y.engseq + 1 }) with
    nextId := u.nextId + 1
    copies := u.copies ++ [{
      id := u.nextId, core := (s.group r.1).coreOf, ctx := (s.group r.1).ctx, gid := r.1, block := (s.group r.1).block, pc := l.pc,
      entry := (s.lane r).entry, seq := (s.group r.1).engseq, copyIn := copyIn, xfers := [x] }] }

theorem queuedCopy_taskKill (s u : State) (l : Latch) (r : LRef) (copyIn : Bool) (x : Xfer) :
    ((queuedCopy s u l r copyIn x).group r.1).taskKill = (u.group r.1).taskKill :=
  group_modGroup_field (·.taskKill) (f := fun y => { y with engseq := y.engseq + 1 }) (fun _ => rfl) (fun _ => rfl) u r.1 r.1

theorem Tallied.queuedCopy {s u : State} (h : Tallied s u) (l : Latch) (r : LRef) (copyIn : Bool) (x : Xfer) :
    queuedCopy u u l r copyIn x = queuedCopy s u l r copyIn x := by
  rw [Machine.queuedCopy, Machine.queuedCopy, h.group, h.lane]

section
variable {s : State} {l : Latch} {r : LRef} (h : Alone s l r)
include h

/-- One copy of the lane enters its core's queue. -/
theorem issueCopies_one {copyIn : Bool} {f : State → LRef → Xfer} (hroom : (s.copies.filter fun c => c.core == (s.group r.1).coreOf).length < 128)
    (htag : (s.lane r).tiletag = 0) (hdone : (f s r).done = 0) (htotal : 0 < (f s r).total) :
    (s.work l).issueCopies copyIn f = (queuedCopy s s l r copyIn (f s r)).work l := by
  have hactual : s.actual r.1 [r] = [r] := actual_one h.real
  rw [Work.issueCopies]
  simp only [show (s.work l).live = [r] from h.only, groupsOf_one, List.foldl_cons, List.foldl_nil, show (s.work l).s = s from rfl, hactual,
    Nat.not_le.2 hroom, if_false, List.map_cons, List.map_nil, htag, Copy.written, List.all_cons, List.all_nil, hdone, Nat.not_le.2 htotal,
    decide_false, Bool.false_and, Bool.and_false, Bool.false_eq_true]
  rw [State.stamp, if_pos rfl, State.work, State.work, h.only]
  rfl

omit h in
theorem copyArgs_eq (s : State) (l : Latch) (r : LRef) (d a b : Reg) : (s.work l).copyArgs r d a b =
    { cd := rdCap s l r codeD d, pd := rdBad s l r codeD d, ca := rdCap s l r codeA a, pa := rdBad s l r codeA a, b := rd s l r codeB b } := rfl

omit h in
theorem Tallied.copyArgs {u : State} (h0 : Tallied s u) (d a b : Reg) : (u.work l).copyArgs r d a b = (s.work l).copyArgs r d a b := by
  rw [copyArgs_eq, copyArgs_eq, h0.rdCap, h0.rdBad, h0.rdCap, h0.rdBad, h0.rd]

omit h in
theorem Tallied.placeOf {u : State} (h0 : Tallied s u) (c : Cap) : u.placeOf r c = s.placeOf r c := by
  rw [State.placeOf, State.placeOf, h0.group, h0.block]

omit h in
theorem Tallied.moveVerdict {u : State} (h0 : Tallied s u) (x : CopyArgs) : u.moveVerdict r x = s.moveVerdict r x := by
  rw [State.moveVerdict, State.moveVerdict]
  simp only [h0.spaceSize]

/-- The lanes whose operands of cpyin or cpyout pass. -/
def Work.checkMoves (w : Work) (copyIn : Bool) (d a b : Reg) : Work :=
  w.actors.foldl (fun v r =>
    match (w.copyArgs r d a b).verdict copyIn [1] with
    | some (c, t) => v.strike r c t
    | none => match v.s.moveVerdict r (w.copyArgs r d a b) with | some (c, t) => v.strike r c t | none => v) w

/-- What a lane moves. -/
def Work.move (w : Work) (d a b : Reg) (s : State) (r : LRef) : Xfer :=
  let x := w.copyArgs r d a b
  { lane := r.2, src := s.placeOf r x.ca, dst := s.placeOf r x.cd, len := x.b.val.toNat, total := x.b.val.toNat / 16,
    tags := x.ca.perm 2 && x.cd.perm 3, through := x.cd }

omit h in
theorem moveCopy_eq (copyIn : Bool) (d a b : Reg) (s : State) : moveCopy copyIn d a b s = withGather s fun w =>
    ((((w.sources (copyFlds d a b) none none none).checkMoves copyIn d a b).issueCopies copyIn
      (((w.sources (copyFlds d a b) none none none).checkMoves copyIn d a b).move d a b)).finish) := rfl

theorem checkMoves_passes {copyIn : Bool} {d a b : Reg} (hv : ((s.work l).copyArgs r d a b).verdict copyIn [1] = none)
    (hm : s.moveVerdict r ((s.work l).copyArgs r d a b) = none) : (s.work l).checkMoves copyIn d a b = s.work l := by
  rw [Work.checkMoves, h.actors_work h.real, List.foldl_cons, List.foldl_nil]
  generalize (s.work l).copyArgs r d a b = x at hv hm ⊢
  have hm' : (s.work l).s.moveVerdict r x = none := hm
  generalize x.verdict copyIn [1] = v at hv ⊢
  generalize (s.work l).s.moveVerdict r x = m at hm' ⊢
  subst hv hm'
  rfl

/-- A copy whose operands pass enters the queue. -/
theorem moveCopy_passes {copyIn : Bool} {d a b : Reg} (hf : InRange s l (copyFlds d a b))
    (hroom : (s.copies.filter fun c => c.core == (s.group r.1).coreOf).length < 128) (htag : (s.lane r).tiletag = 0) {x : CopyArgs}
    (hx : (s.work l).copyArgs r d a b = x) (hv : x.verdict copyIn [1] = none) (hm : s.moveVerdict r x = none) (hn : 16 ≤ x.b.val.toNat) :
    moveCopy copyIn d a b s = .next (past l r (queuedCopy s (counted s l (copyFlds d a b)) l r copyIn {
      lane := r.2, src := s.placeOf r x.ca, dst := s.placeOf r x.cd, len := x.b.val.toNat, total := x.b.val.toNat / 16,
      tags := x.ca.perm 2 && x.cd.perm 3, through := x.cd })) := by
  have h0 := tallied_counted hf
  have hu := h.counted hf
  rw [moveCopy_eq, withGather_latched h.ready.latched, sources_counted hf none rfl]
  have hcopies := h0.copies
  generalize counted s l (copyFlds d a b) = u at h0 hu hcopies ⊢
  have hargs : (u.work l).copyArgs r d a b = x := (h0.copyArgs d a b).trans hx
  have hmove : (u.work l).move d a b u r = { lane := r.2, src := s.placeOf r x.ca, dst := s.placeOf r x.cd, len := x.b.val.toNat,
                                              total := x.b.val.toNat / 16, tags := x.ca.perm 2 && x.cd.perm 3, through := x.cd } := by
    rw [Work.move, hargs, h0.placeOf, h0.placeOf]
  rw [checkMoves_passes hu (by rw [hargs, hv]) (by rw [hargs, h0.moveVerdict, hm]),
    issueCopies_one hu (by rw [hcopies, h0.group]; exact hroom) (by rw [h0.lane]; exact htag) (by rw [hmove])
      (by rw [hmove]; exact Nat.div_pos hn (by decide)), hmove, h0.queuedCopy]
  exact h.finish ((queuedCopy_taskKill ..).trans hu.plain)

/-! ### Conversions -/

/-- The lanes whose operands of cpycvt pass. -/
def Work.checkConversions (w : Work) (d a b : Reg) : Work :=
  w.actors.foldl (fun v r =>
    match (w.copyArgs r d a b).verdict true [0, 1] with
    | some (c, t) => v.strike r c t
    | none =>
      match v.s.cvtVerdict r (w.copyArgs r d a b) with
      | some (c, t) => v.strikeSeq r c t
      | none =>
        match v.s.placeOf r (w.copyArgs r d a b).cd with
        | .global _ => v
        | .scratch off =>
          match (unitsOf 128 off 32).find? fun k => !v.s.present (v.s.group r.1).block k with
          | some k => v.park r (.line (v.s.group r.1).block k)
          | none => match v.s.imageVerdict r (w.copyArgs r d a b) with | some (c, t) => v.strikeSeq r c t | none => v) w

/-- What a lane converts. -/
def Work.conversion (w : Work) (d a b : Reg) (s : State) (r : LRef) : Xfer :=
  let x := w.copyArgs r d a b
  let cv := s.convOf r x
  let h := hdrOf cv.header
  { lane := r.2, src := s.placeOf r x.ca, dst := s.placeOf r x.cd, len := h.size, total := 64 * h.segs, conv := some cv }

omit h in
theorem execCpycvt_eq (d a b : Reg) (s : State) : execCpycvt d a b s = withGather s fun w =>
    ((((w.sources (copyFlds d a b) none none none).checkConversions d a b).issueCopies true
      (((w.sources (copyFlds d a b) none none none).checkConversions d a b).conversion d a b)).finish) := rfl

theorem checkConversions_passes {d a b : Reg} {x : CopyArgs} {off : Nat} (hx : (s.work l).copyArgs r d a b = x)
    (hv : x.verdict true [0, 1] = none) (hc : s.cvtVerdict r x = none) (hplace : s.placeOf r x.cd = .scratch off)
    (hpresent : ∀ k ∈ unitsOf 128 off 32, s.present (s.group r.1).block k = true) (hi : s.imageVerdict r x = none) :
    (s.work l).checkConversions d a b = s.work l := by
  have hfind : ((unitsOf 128 off 32).find? fun k => !(s.work l).s.present ((s.work l).s.group r.1).block k) = none :=
    List.find?_eq_none.2 fun k hk => by
      show ¬ (!s.present (s.group r.1).block k) = true
      rw [hpresent k hk]
      decide
  rw [Work.checkConversions, h.actors_work h.real, List.foldl_cons, List.foldl_nil, hx]
  have hc' : (s.work l).s.cvtVerdict r x = none := hc
  have hp' : (s.work l).s.placeOf r x.cd = .scratch off := hplace
  have hi' : (s.work l).s.imageVerdict r x = none := hi
  generalize x.verdict true [0, 1] = v at hv ⊢
  generalize (s.work l).s.cvtVerdict r x = m at hc' ⊢
  generalize (s.work l).s.placeOf r x.cd = p at hp' ⊢
  generalize (s.work l).s.imageVerdict r x = i at hi' ⊢
  subst hv hc' hp' hi'
  refine Eq.trans (b := match (unitsOf 128 off 32).find? fun k => !(s.work l).s.present ((s.work l).s.group r.1).block k with
    | some k => (s.work l).park r (.line ((s.work l).s.group r.1).block k)
    | none => s.work l) rfl ?_
  rw [hfind]

omit h in
theorem Tallied.headerAt {u : State} (h0 : Tallied s u) (c : Cap) : u.headerAt r c = s.headerAt r c := by
  rw [State.headerAt, State.headerAt, h0.placeOf, h0.group]
  simp only [h0.block]

omit h in
theorem Tallied.cvtVerdict {u : State} (h0 : Tallied s u) (x : CopyArgs) : u.cvtVerdict r x = s.cvtVerdict r x := by
  rw [State.cvtVerdict, State.cvtVerdict]
  simp only [h0.spaceSize]

omit h in
theorem Tallied.imageVerdict {u : State} (h0 : Tallied s u) (x : CopyArgs) : u.imageVerdict r x = s.imageVerdict r x := by
  rw [State.imageVerdict, State.imageVerdict]
  simp only [h0.spaceSize, h0.headerAt]

omit h in
theorem Tallied.present {u : State} (h0 : Tallied s u) (b k : Nat) : u.present b k = s.present b k := by
  rw [State.present, State.present, h0.block, State.copyPending, State.copyPending, h0.copies]

omit h in
/-- An image that passes has segments. -/
theorem segs_pos {x : CopyArgs} (hi : s.imageVerdict r x = none) : 0 < (hdrOf ((s.headerAt r x.cd).map (·.val))).segs := by
  rw [State.imageVerdict] at hi
  split at hi
  · cases hi
  · split at hi
    · cases hi
    · next hvalid =>
      by_contra hz
      rw [Hdr.invalid] at hvalid
      split_ifs at hvalid with h1 h2 h3 h4
      exact h3 (.inr (.inr (.inr (.inr (.inl (Nat.eq_zero_of_not_pos hz))))))

omit h in
theorem space_of_verdict {x : CopyArgs} (hv : x.verdict true [0, 1] = none) :
    (x.cd.space = 1 ∨ x.cd.space = 2) ∧ x.ca.space = 0 := by
  simp only [CopyArgs.verdict, if_true] at hv
  split_ifs at hv with h1 h2 h3 h4 h5 h6 h7 h8 h9
  simp only [Bool.not_eq_true', Bool.not_eq_false, Bool.and_eq_true, Bool.or_eq_true, beq_iff_eq] at h8 h9
  exact ⟨h8.1, h9.1⟩

/-- A conversion whose operands pass enters the queue. -/
theorem exec_cpycvt_passes {d a b : Reg} (hf : InRange s l (copyFlds d a b))
    (hroom : (s.copies.filter fun c => c.core == (s.group r.1).coreOf).length < 128) (htag : (s.lane r).tiletag = 0) {x : CopyArgs} {off : Nat}
    (hx : (s.work l).copyArgs r d a b = x) (hv : x.verdict true [0, 1] = none) (hc : s.cvtVerdict r x = none)
    (hplace : s.placeOf r x.cd = .scratch off) (hpresent : ∀ k ∈ unitsOf 128 off 32, s.present (s.group r.1).block k = true)
    (hi : s.imageVerdict r x = none) :
    exec (.cpycvt d a b) s = .next (past l r (queuedCopy s (counted s l (copyFlds d a b)) l r true {
      lane := r.2, src := s.placeOf r x.ca, dst := .scratch off, len := (hdrOf (s.convOf r x).header).size,
      total := 64 * (hdrOf (s.convOf r x).header).segs, conv := some (s.convOf r x) })) := by
  have h0 := tallied_counted hf
  have hu := h.counted hf
  show execCpycvt d a b s = _
  rw [execCpycvt_eq, withGather_latched h.ready.latched, sources_counted hf none rfl]
  have hcopies := h0.copies
  generalize counted s l (copyFlds d a b) = u at h0 hu hcopies ⊢
  have hargs : (u.work l).copyArgs r d a b = x := (h0.copyArgs d a b).trans hx
  have hconv : u.convOf r x = s.convOf r x := by
    rw [State.convOf, State.convOf, h0.headerAt, h0.placeOf]
  have hdoes : (u.work l).conversion d a b u r =
      { lane := r.2, src := s.placeOf r x.ca, dst := .scratch off, len := (hdrOf (s.convOf r x).header).size,
        total := 64 * (hdrOf (s.convOf r x).header).segs, conv := some (s.convOf r x) } := by
    rw [Work.conversion, hargs, hconv, h0.placeOf, h0.placeOf, hplace]
  rw [checkConversions_passes hu hargs hv ((h0.cvtVerdict x).trans hc) ((h0.placeOf _).trans hplace)
      (fun k hk => by rw [h0.present, h0.group]; exact hpresent k hk) ((h0.imageVerdict x).trans hi),
    issueCopies_one hu (by rw [hcopies, h0.group]; exact hroom) (by rw [h0.lane]; exact htag) (by rw [hdoes])
      (by rw [hdoes]; exact Nat.mul_pos (by decide) (segs_pos hi)), hdoes, h0.queuedCopy]
  exact h.finish ((queuedCopy_taskKill ..).trans hu.plain)

/-! ### Waiting -/

omit h in
theorem freshL1_eq (u : State) (hl : l.lanes = [r]) : u.freshL1 r = freshL1s u l := by
  rw [State.freshL1, freshL1s, hl]
  cases hagent : (u.group r.1).agent with
  | core c =>
    show u.dropL1 c = _
    rw [State.dropL1]
    refine congrArg (fun xs => { u with l1 := xs }) (List.filter_congr fun e _ => ?_)
    simp only [List.any_cons, List.any_nil, Bool.or_false, hagent]
    by_cases hc : e.1 / 2 ^ 34 = c
    · rw [hc]
      simp
    · rw [beq_eq_false_iff_ne.2 hc, beq_eq_false_iff_ne.2 fun e => hc (Agent.core.inj e).symm]
  | kcore c =>
    have hall : u.l1.filter (fun e => !([r].any fun q => (u.group q.1).agent == .core (e.1 / 2 ^ 34))) = u.l1 :=
      List.filter_eq_self.2 fun e _ => by simp [hagent]
    rw [hall]

theorem exec_cpywait_one {a : Reg} (hf : InRange s l [rfld codeA a]) (hp : (rd s l r codeA a).poison = false) :
    exec (.cpywait a) s = .next (if s.outstanding r.1 (rd s l r codeA a).val then
      parked l r (.copies (rd s l r codeA a).val) (counted s l [rfld codeA a]) else past l r (freshL1s (counted s l [rfld codeA a]) l)) := by
  have h0 := tallied_counted hf
  have hu := h.counted hf
  show execCpywait a s = _
  rw [execCpywait, withGather_latched h.ready.latched, sources_counted hf none rfl]
  generalize counted s l [rfld codeA a] = u at h0 hu ⊢
  have hreg : (u.work l).regOf r codeA a = rd s l r codeA a := h0.rd l r codeA a
  have hout : u.outstanding r.1 (rd s l r codeA a).val = s.outstanding r.1 (rd s l r codeA a).val := h0.outstanding _ _
  simp only [show (u.work l).live = [r] from h.only, List.foldl_cons, List.foldl_nil, hreg, hp, Bool.false_eq_true, if_false,
    show (u.work l).s = u from rfl, hout]
  split
  · exact h.finishPoint_park hu.plain _
  · rw [← freshL1_eq u h.only]
    refine h.finishPoint_of rfl rfl h.late rfl ?_
    rw [State.group, groups_freshL1]
    exact hu.plain

/-! ### Presence bits -/

omit h in
theorem scratchVerdict_none {c : Cap} {k : Nat} (htag : c.tag = true) (hty : c.otype = 0) (hspace : c.space = 1 ∨ c.space = 2)
    (hperm : c.perm k = true) : scratchVerdict c false k = none := by
  have hs : (c.space == 1 || c.space == 2) = true := by
    rcases hspace with e | e <;> rw [e] <;> rfl
  rw [scratchVerdict, htag, hty, hs, hperm]
  rfl

omit h in
theorem placeOf_scratch {c : Cap} (hspace : c.space = 1 ∨ c.space = 2) : s.placeOf r c =
    .scratch ((s.block (s.group r.1).block).offset (s.group r.1).coreOf c.space c.cursor.toNat) := by
  rw [State.placeOf, if_neg]
  rcases hspace with e | e <;> rw [e] <;> decide

theorem exec_pres_scratch {d a : Reg} (hf : InRange s l [rfld codeD d, rfld codeA a 4]) (hbad : rdBad s l r codeA a = false)
    (htag : (rdCap s l r codeA a).tag = true) (hty : (rdCap s l r codeA a).otype = 0)
    (hspace : (rdCap s l r codeA a).space = 1 ∨ (rdCap s l r codeA a).space = 2) (hperm : (rdCap s l r codeA a).perm 0 = true)
    (hin : (rdCap s l r codeA a).cursor.toNat < s.spaceSize r (rdCap s l r codeA a).space) :
    exec (.pres (.reg d) a) s = .next (past l r ((counted s l [rfld codeD d, rfld codeA a 4]).wr r (regNo s l r codeD d)
      ⟨boolWord (s.present (s.group r.1).block ((s.block (s.group r.1).block).offset (s.group r.1).coreOf (rdCap s l r codeA a).space
        (rdCap s l r codeA a).cursor.toNat / 128)), false⟩)) := by
  have h0 := tallied_counted hf
  have hu := h.counted hf
  show execPres (.reg d) a s = _
  rw [execPres, withGather_latched h.ready.latched, show dstFlds (.reg d) ++ [rfld codeA a 4] = [rfld codeD d, rfld codeA a 4] from rfl,
    sources_counted hf _ rfl]
  generalize counted s l [rfld codeD d, rfld codeA a 4] = u at h0 hu ⊢
  have hcap : u.cap r ((u.work l).quadA r a) = rdCap s l r codeA a := h0.rdCap l r codeA a
  have hclean : u.quadPoison r ((u.work l).quadA r a) = false := (h0.rdBad l r codeA a).trans hbad
  have hpresent : ∀ b k, u.present b k = s.present b k := fun b k => by
    rw [State.present, State.present, h0.block, State.copyPending, State.copyPending, h0.copies]
  simp only [show (u.work l).live = [r] from h.only, List.foldl_cons, List.foldl_nil, show (u.work l).s = u from rfl, hcap, hclean,
    scratchVerdict_none htag hty hspace hperm, h0.spaceSize, if_neg (Nat.not_le.2 hin), hu.writeDst_work, h0.placeOf,
    placeOf_scratch hspace, h0.group, hpresent, h0.regNo]
  exact h.finish (by rw [State.wr, group_modLane_taskKill, hu.plain])

theorem exec_pclr_scratch {a b : Reg} (hf : InRange s l [rfld codeA a 4, rfld codeB b]) (hbad : rdBad s l r codeA a = false)
    (htag : (rdCap s l r codeA a).tag = true) (hty : (rdCap s l r codeA a).otype = 0)
    (hspace : (rdCap s l r codeA a).space = 1 ∨ (rdCap s l r codeA a).space = 2) (hperm : (rdCap s l r codeA a).perm 1 = true)
    (hp : (rd s l r codeB b).poison = false)
    (hwithin : (rdCap s l r codeA a).within (rdCap s l r codeA a).cursor.toNat (rd s l r codeB b).val.toNat = true)
    (hin : (rdCap s l r codeA a).cursor.toNat + (rd s l r codeB b).val.toNat ≤ s.spaceSize r (rdCap s l r codeA a).space) :
    exec (.pclr a b) s = .next (past l r ((counted s l [rfld codeA a 4, rfld codeB b]).modBlock (s.group r.1).block fun y =>
      { y with pclr := (unitsOf 128 ((s.block (s.group r.1).block).offset (s.group r.1).coreOf (rdCap s l r codeA a).space
        (rdCap s l r codeA a).cursor.toNat) (rd s l r codeB b).val.toNat).foldl (fun t k => tput k 0 t) y.pclr })) := by
  have h0 := tallied_counted hf
  have hu := h.counted hf
  show execPclr a b s = _
  rw [execPclr, withGather_latched h.ready.latched, sources_counted hf none rfl]
  generalize counted s l [rfld codeA a 4, rfld codeB b] = u at h0 hu ⊢
  have hcap : u.cap r ((u.work l).quadA r a) = rdCap s l r codeA a := h0.rdCap l r codeA a
  have hclean : u.quadPoison r ((u.work l).quadA r a) = false := (h0.rdBad l r codeA a).trans hbad
  have hreg : (u.work l).regOf r codeB b = rd s l r codeB b := h0.rd l r codeB b
  simp only [hu.actors_work hu.real, List.foldl_cons, List.foldl_nil, show (u.work l).s = u from rfl, hcap, hclean, hreg, hp,
    scratchVerdict_none htag hty hspace hperm, hwithin, Bool.not_true, Bool.false_eq_true, if_false, h0.spaceSize, if_neg (Nat.not_lt.2 hin),
    h0.placeOf, placeOf_scratch hspace, h0.group]
  exact h.finish_of rfl h.only h.late rfl hu.plain

end

/-! ### The statement -/

/-! ### Operands of a copy that pass -/

/-- What the statement asks of the capability of either side of a copy. -/
structure CopySide (c : Cap) (p n : Nat) : Prop where
  tag : c.tag = true
  unsealed : c.otype = 0
  perm : c.perm p = true
  aligned : c.cursor.toNat % 16 = 0
  within : c.within c.cursor.toNat n = true

theorem CopySide.of {c : Cap} {p n : Nat} (h : c.tag = true ∧ c.otype = 0 ∧ c.perm p = true ∧ c.cursor.toNat % 16 = 0 ∧
    c.base ≤ c.cursor.toNat ∧ (c.cursor.toNat : Int) + n ≤ c.top) : CopySide c p n := by
  obtain ⟨htag, hty, hperm, halign, hbase, htop⟩ := h
  refine ⟨htag, hty, hperm, halign, ?_⟩
  rw [Cap.within, decide_eq_true hbase, decide_eq_true htop]
  rfl

/-- Where in the memory's address range, or in the scratchpad's, the bytes of one side of a copy end. -/
def Fits (s : State) (r : LRef) (c : Cap) (n : Nat) : Prop :=
  c.space = 0 ∨ ((c.space = 1 ∨ c.space = 2) ∧ c.cursor.toNat + n ≤ s.spaceSize r c.space)

theorem Fits.not_beyond {s : State} {r : LRef} {c : Cap} {n : Nat} (h : Fits s r c n) :
    ((c.space == 1 || c.space == 2) && decide (s.spaceSize r c.space < c.cursor.toNat + n)) = false := by
  rcases h with h | ⟨-, h⟩
  · rw [h]
    rfl
  · rw [decide_eq_false (Nat.not_lt.2 h), Bool.and_false]

theorem moveVerdict_none {s : State} {r : LRef} {x : CopyArgs} {p q : Nat} (hd : CopySide x.cd p x.b.val.toNat)
    (ha : CopySide x.ca q x.b.val.toNat) (hn : x.b.val.toNat % 16 = 0) (fd : Fits s r x.cd x.b.val.toNat) (fa : Fits s r x.ca x.b.val.toNat) :
    s.moveVerdict r x = none := by
  rw [State.moveVerdict]
  simp only [hd.within, ha.within, hd.aligned, ha.aligned, hn, fd.not_beyond, fa.not_beyond, Bool.not_true, Bool.false_eq_true, ne_eq,
    not_true_eq_false, if_false]

theorem scratch_test {c : Cap} (h : c.space = 1 ∨ c.space = 2) : (c.space == 1 || c.space == 2) = true := by
  rcases h with h | h <;> rw [h] <;> rfl

theorem verdict_in_none {x : CopyArgs} {n : Nat} (hpd : x.pd = false) (hpa : x.pa = false) (hpb : x.b.poison = false) (hd : CopySide x.cd 1 n)
    (ha : CopySide x.ca 0 n) (hsd : x.cd.space = 1 ∨ x.cd.space = 2) (hsa : x.ca.space = 0) : x.verdict true [1] = none := by
  rw [CopyArgs.verdict]
  simp [hpd, hpa, hpb, hd.tag, ha.tag, hd.unsealed, ha.unsealed, hd.perm, ha.perm, scratch_test hsd, hsa]

theorem verdict_out_none {x : CopyArgs} {n : Nat} (hpd : x.pd = false) (hpa : x.pa = false) (hpb : x.b.poison = false) (hd : CopySide x.cd 1 n)
    (ha : CopySide x.ca 0 n) (hsa : x.ca.space = 1 ∨ x.ca.space = 2) (hsd : x.cd.space = 0) : x.verdict false [1] = none := by
  rw [CopyArgs.verdict]
  simp [hpd, hpa, hpb, hd.tag, ha.tag, hd.unsealed, ha.unsealed, hd.perm, ha.perm, hsd, scratch_test hsa]

theorem placeOf_global {s : State} {r : LRef} {c : Cap} (h : c.space = 0) : s.placeOf r c = .global c.cursor.toNat := by
  rw [State.placeOf, if_pos h]

theorem units_of_bytes {n : Nat} (hn : n % 16 = 0) (hpos : 0 < n) : 16 ≤ n := by omega

/-- The conversion's parameters, with its header read in the block's scratchpad. -/
theorem convOf_scratch {s : State} {r : LRef} {x : CopyArgs} {off : Nat} (h : s.placeOf r x.cd = .scratch off) : s.convOf r x =
    { header := (List.range 8).map fun i => ((s.block (s.group r.1).block).scratch.word 8 (off + 4 * i)).val, image := off,
      stride := x.b.val.toNat / 65536, src := x.b.val.toNat % 4 } := by
  rw [State.convOf, State.headerAt, h]
  dsimp only
  rw [Block.wordsAt, List.map_map, field_zero]
  rfl

/-- Settles O47: each instruction's one lane passes its checks, and one copy enters the queue under its group's number. -/
theorem copyResults : Obligations.CopyResults := by
  intro s l r h
  dsimp only
  refine ⟨?_, ?_, ?_, ?_⟩
  · intro d a b hf hroom htag hcd hca hb hokd hoka hn hpos
    have hd := CopySide.of hokd
    have ha := CopySide.of hoka
    have hargs := copyArgs_eq s l r d a b
    constructor
    · intro hscratch hspace
      have hm := moveVerdict_none (s := s) (r := r) (x := (s.work l).copyArgs r d a b) hd ha hn (.inr hscratch) (.inl hspace)
      have hexec := moveCopy_passes (copyIn := true) h hf hroom htag rfl (verdict_in_none hcd hca hb hd ha hscratch.1 hspace) hm
        (units_of_bytes hn hpos)
      rw [hargs, placeOf_scratch hscratch.1, placeOf_global hspace] at hexec
      exact hexec
    · intro hscratch hspace
      have hm := moveVerdict_none (s := s) (r := r) (x := (s.work l).copyArgs r d a b) hd ha hn (.inl hspace) (.inr hscratch)
      have hexec := moveCopy_passes (copyIn := false) h hf hroom htag rfl (verdict_out_none hcd hca hb hd ha hscratch.1 hspace) hm
        (units_of_bytes hn hpos)
      rw [hargs, placeOf_scratch hscratch.1, placeOf_global hspace] at hexec
      exact hexec
  · intro d a b hf hroom htag hv hc hi hcore hpresent
    obtain ⟨hd, ha⟩ := space_of_verdict hv
    have hplace := placeOf_scratch (s := s) (r := r) hd
    have hexec := exec_cpycvt_passes h hf hroom htag (copyArgs_eq s l r d a b) hv hc hplace hpresent hi
    rw [convOf_scratch hplace, placeOf_global ha] at hexec
    exact hexec
  · intro a hf hp
    have hexec := exec_cpywait_one h hf hp
    exact ⟨fun hout => by rw [hexec, hout]; rfl, fun hout => by rw [hexec, hout]; rfl⟩
  · intro d a b hbad htag hty hspace
    refine ⟨fun hf hperm hin => exec_pres_scratch h hf hbad htag hty hspace hperm hin, fun hf hperm hp hbase htop hin => ?_⟩
    refine exec_pclr_scratch h hf hbad htag hty hspace hperm hp ?_ hin
    rw [Cap.within, decide_eq_true hbase, decide_eq_true htop]
    rfl

end Sys2Proof.Machine
end

section
/-!
PROOFS. The grid barrier, with one lane (R223, R224, R227).
-/

namespace Sys2Proof.Machine

open Sys2Proof Sys2Proof.Machine.Claims

/-! ### A grid that the state has -/

theorem uid_grid {s : State} {n : Nat} (h : (s.grids.any fun x => x.uid == n) = true) : (s.grid n).uid = n := by
  obtain ⟨y, hy⟩ : ∃ y, s.grids.find? (·.uid == n) = some y := by
    rw [← Option.isSome_iff_exists, List.find?_isSome]
    simpa using h
  rw [State.grid, hy]
  simpa using List.find?_some hy

theorem grid_modGrid_self {s : State} {n : Nat} (h : (s.grids.any fun x => x.uid == n) = true) {f : Grid → Grid}
    (hf : ∀ g, (f g).uid = g.uid) : (s.modGrid n f).grid n = f (s.grid n) := by
  obtain ⟨y, hy⟩ : ∃ y, s.grids.find? (·.uid == n) = some y := by
    rw [← Option.isSome_iff_exists, List.find?_isSome]
    simpa using h
  have hid : (fun x : Grid => (if x.uid == n then f x else x).uid == n) = fun x => x.uid == n := funext fun x => by
    split
    · rw [hf]
    · rfl
  have hyn : (y.uid == n) = true := List.find?_some (p := fun x : Grid => x.uid == n) hy
  rw [State.grid, State.grid, State.modGrid, List.find?_map, hy, show ((fun x : Grid => x.uid == n) ∘ fun x => if x.uid == n then f x else x) = _
    from hid, hy, Option.map_some, Option.getD_some, Option.getD_some, if_pos hyn]

theorem any_modGrid {s : State} {n : Nat} (h : (s.grids.any fun x => x.uid == n) = true) {f : Grid → Grid} (hf : ∀ g, (f g).uid = g.uid) :
    ((s.modGrid n f).grids.any fun x => x.uid == n) = true := by
  rw [State.modGrid, List.any_map]
  refine Eq.trans (congrArg s.grids.any (funext fun x => ?_)) h
  show ((if x.uid == n then f x else x).uid == n) = _
  split
  · rw [hf]
  · rfl

/-! ### One arrival -/

/-- The grid with a thread more that has arrived. -/
def Grid.joined (s : State) (g0 : Grid) (t : Whose) (x : Grid) : Grid :=
  { x with
    gbarArrived := x.gbarArrived ++ [(t.block, t.tidx)]
    gbarFirst := if g0.gbarArrived.isEmpty then s.clock g0.home else x.gbarFirst
    gbarFspeed := if g0.gbarArrived.isEmpty then (fusedEntry t.core) else x.gbarFspeed }

/-- The grid behind the last arrival of a generation. -/
def Grid.rearmed (rec' : Straggler) (x : Grid) : Grid := { x with gbarGen := x.gbarGen + 1, gbarArrived := [], gbarRecord := rec' }

variable {s : State} {n : Nat}

theorem gbarArrive_eq (t : Whose) : s.gbarArrive n t = (s.modGrid n (Grid.joined s (s.grid n) t)).gbarCheck n t := rfl

theorem gridThreads_modGrid (m : Nat) (f : Grid → Grid) : (s.modGrid m f).gridThreads n = s.gridThreads n := rfl

theorem gbarArrive_waits {t : Whose} (hn : (s.grids.any fun x => x.uid == n) = true)
    (hall : ((s.gridThreads n).all fun x => ((s.grid n).gbarArrived ++ [(t.block, t.tidx)]).contains x) = false) :
    s.gbarArrive n t = s.modGrid n (Grid.joined s (s.grid n) t) := by
  rw [gbarArrive_eq, State.gbarCheck, grid_modGrid_self hn (f := Grid.joined s (s.grid n) t) fun _ => rfl, gridThreads_modGrid]
  have hall' : ((s.gridThreads n).all fun x => (Grid.joined s (s.grid n) t (s.grid n)).gbarArrived.contains x) = false := hall
  simp only [hall', Bool.and_false, Bool.false_eq_true, if_false]

theorem gbarArrive_completes {t : Whose} (hn : (s.grids.any fun x => x.uid == n) = true) (hcoop : (s.grid n).coop = true)
    (hall : ((s.gridThreads n).all fun x => ((s.grid n).gbarArrived ++ [(t.block, t.tidx)]).contains x) = true) :
    s.gbarArrive n t = ((s.modGrid n (Grid.joined s (s.grid n) t)).modGrid n (Grid.rearmed (mkStraggler s t 1
      (Grid.joined s (s.grid n) t (s.grid n)).gbarFspeed (Grid.joined s (s.grid n) t (s.grid n)).gbarFirst (s.clock (s.grid n).home)))).count
        (s.grid n).ctx 7 1 := by
  rw [gbarArrive_eq, State.gbarCheck, grid_modGrid_self hn (f := Grid.joined s (s.grid n) t) fun _ => rfl, gridThreads_modGrid]
  have hall' : ((s.gridThreads n).all fun x => (Grid.joined s (s.grid n) t (s.grid n)).gbarArrived.contains x) = true := hall
  have hcoop' : (Grid.joined s (s.grid n) t (s.grid n)).coop = true := hcoop
  have hsome : (Grid.joined s (s.grid n) t (s.grid n)).gbarArrived.isEmpty = false := by
    show ((s.grid n).gbarArrived ++ [(t.block, t.tidx)]).isEmpty = false
    simp
  simp only [hall', hcoop', hsome, Bool.not_false, Bool.and_true, if_true]
  rfl

/-! ### The checksum that an arrival folds -/

/-- A group with the checksum of an arrival. -/
def Group.summed (h : DWord) (g : Group) : Group := { g with csum := h }

theorem foldArrival_quiet {gid : Nat} (hlog : (s.ctx (s.group gid).ctx).hdr.log = false) (lanes : List Nat) (pc : DWord) (phase : Word)
    (kind off : Nat) : s.foldArrival gid lanes pc phase kind off = s.modGroup gid (Group.summed ((s.group gid).fold lanes)) := by
  rw [State.foldArrival, hlog]
  rfl

theorem foldArrivals_one {w : Work} {r : LRef} (hreal : (w.s.lane r).helper = false) (hlog : (w.s.ctx (w.s.group r.1).ctx).hdr.log = false)
    (kind : Nat) (phase : Word) (off : Nat) : w.foldArrivals kind [(r, phase, off)] =
      { w with s := w.s.modGroup r.1 (Group.summed (sumOf (w.s.lane r) (w.s.group r.1).regs)) } := by
  rw [Work.foldArrivals]
  simp only [List.filter_cons, List.filter_nil, hreal, Bool.not_false, if_true, List.map_cons, List.map_nil, groupsOf_one, List.foldl_cons,
    List.foldl_nil, beq_self_eq_true]
  rw [foldArrival_quiet hlog, fold_one]

section
variable {l : Latch} {r : LRef} (h : Alone s l r)
include h

/-- What a lane's arrival makes of the work, with the grid's uid and the state in which it has arrived. -/
def Work.gbarOn (w : Work) (uid : Nat) (r : LRef) : Work × List Arrival :=
  let gen := (w.s.grid uid).gbarGen
  let v := if (w.s.lane r).helper then w else { w with s := w.s.gbarArrive uid (w.s.whose r) }
  (if (v.s.grid uid).gbarGen = gen then v.park r (.gbar gen) else { v with s := v.s.acquires r deviceScope }, [(r, gen, 0xFFFFFFFF)])

theorem exec_gbar_coop (hcoop : (s.grid (s.group r.1).grid).coop = true) (hn : (s.grid (s.group r.1).grid).uid = (s.group r.1).grid) :
    exec .gbar s = ((((counted s l []).work l).gbarOn (s.group r.1).grid r).1.foldArrivals 2
      (((counted s l []).work l).gbarOn (s.group r.1).grid r).2).finishPoint := by
  have hf := inRange_nil s l
  have h0 := tallied_counted hf
  show execGbar s = _
  rw [execGbar, withGather_latched h.ready.latched, begin_counted hf]
  have hgrid : ∀ g, (counted s l []).grid g = s.grid g := fun g => by rw [State.grid, State.grid, h0.grids]
  generalize counted s l [] = u at h0 hgrid ⊢
  simp only [show (u.work l).live = [r] from h.only, show (u.work l).s = u from rfl, h0.group, hgrid, hcoop, Bool.not_true, Bool.false_eq_true,
    if_false, List.foldl_cons, List.foldl_nil, hn, List.nil_append]
  simp only [Work.gbarOn, show (u.work l).live = [r] from h.only, show (u.work l).s = u from rfl, hgrid]

theorem exec_gbar_plain (hcoop : (s.grid (s.group r.1).grid).coop = false) :
    exec .gbar s = (((counted s l []).work l).strike r 0x0D (barData 7 0xFFFFFFFF)).finish := by
  have hf := inRange_nil s l
  have h0 := tallied_counted hf
  show execGbar s = _
  rw [execGbar, withGather_latched h.ready.latched, begin_counted hf]
  have hgrid : ∀ g, (counted s l []).grid g = s.grid g := fun g => by rw [State.grid, State.grid, h0.grids]
  generalize counted s l [] = u at h0 hgrid ⊢
  simp only [show (u.work l).live = [r] from h.only, show (u.work l).s = u from rfl, h0.group, hgrid, hcoop, Bool.not_false, if_true,
    Work.strikeAll, List.foldl_cons, List.foldl_nil]

end

/-! ### Lanes and groups under a checksum -/

/-- An acquire point changes lanes and L1s only. -/
theorem acquires_keep {α : Type} (p : State → α) (hp : ∀ (x : State) (gs : List Group) (ls : List (Nat × Nat)),
    p { x with groups := gs, l1 := ls } = p x) (v : State) (r : LRef) (k : Nat) : p (v.acquires r k) = p v := by
  have hgroups : p (v.acquires r k) = p (v.freshL1 r) := hp (v.freshL1 r) (v.acquires r k).groups (v.freshL1 r).l1
  rw [hgroups, ← hp (v.freshL1 r) v.groups v.l1]
  refine congrArg p (Eq.trans ?_ (freshL1_rest v r))
  rw [← groups_freshL1 v r]

theorem log_count (v : State) (c i n k : Nat) : ((v.count c i n).ctx k).hdr.log = (v.ctx k).hdr.log := by
  rw [State.count]
  by_cases hk : k = c
  · rw [hk, ctx_modCtx_self]
  · rw [ctx_modCtx_ne v hk]

theorem group_summed_field {α : Type} (p : Group → α) (hp : ∀ c g, p (Group.summed c g) = p g) (v : State) (m : Nat) (c : DWord) (x : Nat) :
    p ((v.modGroup m (Group.summed c)).group x) = p (v.group x) :=
  group_modGroup_field p (f := Group.summed c) (fun _ => rfl) (hp c) v m x

theorem lane_summed (v : State) (m : Nat) (c : DWord) (q : LRef) : (v.modGroup m (Group.summed c)).lane q = v.lane q :=
  group_summed_field (fun g => (g.lanes[q.2]?).getD {}) (fun _ _ => rfl) v m c q.1

theorem has_summed {v : State} {q : LRef} (hq : v.has q) (m : Nat) (c : DWord) : (v.modGroup m (Group.summed c)).has q := by
  obtain ⟨hholds, hlen⟩ := hq
  refine ⟨?_, ?_⟩
  · rw [State.holds, State.modGroup, List.any_map]
    refine Eq.trans (congrArg v.groups.any (funext fun g => ?_)) hholds
    show ((if g.gid == m then Group.summed c g else g).gid == q.1) = _
    split <;> rfl
  · rw [group_summed_field (fun g => g.lanes) fun _ _ => rfl]
    exact hlen

theorem csum_summed {v : State} {m : Nat} (hm : v.holds m = true) (c : DWord) : ((v.modGroup m (Group.summed c)).group m).csum = c := by
  rw [group_modGroup_self v m (Group.summed c) (fun _ => rfl) hm]
  rfl

theorem sumOf_status (x : Lane) (st : LaneStatus) (t n : Nat) : sumOf { x with status := st, parkedAt := t } n = sumOf x n := rfl

theorem sumOf_acquire (x : Lane) (k t n : Nat) : sumOf (x.acquire k t) n = sumOf x n := rfl

section
variable {l : Latch} {r : LRef} (h : Alone s l r)
include h

/-- The state behind an arrival that waits: the grid has it, the lane is parked, the group has the checksum. -/
theorem gbarOn_waits {u : State} {m : Nat} (hgroups : u.groups = s.groups) (hlog : (u.ctx (s.group r.1).ctx).hdr.log = false)
    (hm : (u.grids.any fun x => x.uid == m) = true)
    (hall : ((u.gridThreads m).all fun x => ((u.grid m).gbarArrived ++ [((u.whose r).block, (u.whose r).tidx)]).contains x) = false) :
    (((u.work l).gbarOn m r).1.foldArrivals 2 ((u.work l).gbarOn m r).2).finishPoint = .next
      ((parked l r (.gbar (u.grid m).gbarGen) (u.modGrid m (Grid.joined u (u.grid m) (u.whose r)))).modGroup r.1
        (Group.summed (sumOf (s.lane r) (s.group r.1).regs))) := by
  have hgroup : ∀ x, u.group x = s.group x := fun x => by rw [State.group, State.group, hgroups]
  have hlane : ∀ q, u.lane q = s.lane q := fun q => by rw [State.lane, State.lane, hgroup]
  have hhas : (u.modGrid m (Grid.joined u (u.grid m) (u.whose r))).has r := by
    rw [State.has, State.holds, modGrid_groups, hgroups, State.group, modGrid_groups, hgroups]
    exact h.has
  have hgen : ((u.modGrid m (Grid.joined u (u.grid m) (u.whose r))).grid m).gbarGen = (u.grid m).gbarGen := by
    rw [grid_modGrid_self hm (f := Grid.joined u (u.grid m) (u.whose r)) fun _ => rfl]
    rfl
  have hon : (u.work l).gbarOn m r = (((u.modGrid m (Grid.joined u (u.grid m) (u.whose r))).work l).park r (.gbar (u.grid m).gbarGen),
      [(r, (u.grid m).gbarGen, 0xFFFFFFFF)]) := by
    rw [Work.gbarOn]
    simp only [show (u.work l).s = u from rfl, hlane, h.real, Bool.false_eq_true, if_false, gbarArrive_waits hm hall, hgen, if_true]
    rfl
  have hgroup' : ∀ x, (u.modGrid m (Grid.joined u (u.grid m) (u.whose r))).group x = s.group x := hgroup
  have hlane' : ∀ x, (u.modGrid m (Grid.joined u (u.grid m) (u.whose r))).lane x = s.lane x := hlane
  have hlog' : ((u.modGrid m (Grid.joined u (u.grid m) (u.whose r))).ctx (s.group r.1).ctx).hdr.log = false := hlog
  rw [hon, h.park_work]
  generalize u.modGrid m (Grid.joined u (u.grid m) (u.whose r)) = a at hhas hgroup' hlane' hlog' ⊢
  have hparked : (parked l r (.gbar (u.grid m).gbarGen) a).lane r =
      { s.lane r with status := .parked (.gbar (u.grid m).gbarGen) l.pc, parkedAt := a.steps } := by
    rw [parked, lane_modLane_self _ _ _ hhas, hlane']
  have hregs : ((parked l r (.gbar (u.grid m).gbarGen) a).group r.1).regs = (s.group r.1).regs := by
    rw [parked, group_modLane_regs, hgroup']
  have hctx : ((parked l r (.gbar (u.grid m).gbarGen) a).group r.1).ctx = (s.group r.1).ctx := by
    rw [parked, group_modLane_ctx, hgroup']
  have hsum : sumOf ((parked l r (.gbar (u.grid m).gbarGen) a).lane r) ((parked l r (.gbar (u.grid m).gbarGen) a).group r.1).regs =
      sumOf (s.lane r) (s.group r.1).regs := by
    rw [hparked, hregs, sumOf_status]
  rw [foldArrivals_one (by rw [hparked]; exact h.real) (by rw [hctx]; exact hlog')]
  refine h.finishPoint_left ?_ rfl (congrArg (fun c => (parked l r _ a).modGroup r.1 (Group.summed c)) hsum) rfl rfl rfl
  rw [group_summed_field (fun g => g.taskKill) fun _ _ => rfl, parked, group_modLane_taskKill, hgroup']
  exact h.plain

/-- The state of the grid behind the last arrival of a generation. -/
def State.gbarDone (u : State) (m : Nat) (t : Whose) : State :=
  ((u.modGrid m (Grid.joined u (u.grid m) t)).modGrid m (Grid.rearmed (mkStraggler u t 1
    (Grid.joined u (u.grid m) t (u.grid m)).gbarFspeed (Grid.joined u (u.grid m) t (u.grid m)).gbarFirst (u.clock (u.grid m).home)))).count
      (u.grid m).ctx 7 1

omit h in
theorem grid_gbarDone {u : State} {m : Nat} (hm : (u.grids.any fun x => x.uid == m) = true) (t : Whose) :
    (u.gbarDone m t).grid m = Grid.rearmed (mkStraggler u t 1 (Grid.joined u (u.grid m) t (u.grid m)).gbarFspeed
      (Grid.joined u (u.grid m) t (u.grid m)).gbarFirst (u.clock (u.grid m).home)) (Grid.joined u (u.grid m) t (u.grid m)) := by
  rw [State.gbarDone, State.grid, count_grids]
  generalize mkStraggler u t 1 _ _ _ = x
  refine (grid_modGrid_self (any_modGrid hm (f := Grid.joined u (u.grid m) t) fun _ => rfl) (f := Grid.rearmed x) (fun _ => rfl)).trans ?_
  rw [grid_modGrid_self hm (f := Grid.joined u (u.grid m) t) fun _ => rfl]

/-- The state behind the last arrival: the lane has made an acquire point and goes on. -/
theorem gbarOn_completes {u : State} {m : Nat} (hgroups : u.groups = s.groups) (hlog : (u.ctx (s.group r.1).ctx).hdr.log = false)
    (hm : (u.grids.any fun x => x.uid == m) = true) (hcoop : (u.grid m).coop = true)
    (hall : ((u.gridThreads m).all fun x => ((u.grid m).gbarArrived ++ [((u.whose r).block, (u.whose r).tidx)]).contains x) = true) :
    (((u.work l).gbarOn m r).1.foldArrivals 2 ((u.work l).gbarOn m r).2).finishPoint = .next
      (past l r (((u.gbarDone m (u.whose r)).acquires r 3).modGroup r.1 (Group.summed (sumOf (s.lane r) (s.group r.1).regs)))) := by
  have hgroup : ∀ x, u.group x = s.group x := fun x => by rw [State.group, State.group, hgroups]
  have hlane : ∀ q, u.lane q = s.lane q := fun q => by rw [State.lane, State.lane, hgroup]
  have hhas : (u.gbarDone m (u.whose r)).has r := by
    show u.has r
    rw [State.has, State.holds, hgroups, hgroup]
    exact h.has
  have hgen : ((u.gbarDone m (u.whose r)).grid m).gbarGen ≠ (u.grid m).gbarGen := by
    rw [grid_gbarDone hm]
    show (u.grid m).gbarGen + 1 ≠ (u.grid m).gbarGen
    generalize (u.grid m).gbarGen = g
    bv_omega
  have harrive : u.gbarArrive m (u.whose r) = u.gbarDone m (u.whose r) := gbarArrive_completes hm hcoop hall
  have hon : (u.work l).gbarOn m r = (((u.gbarDone m (u.whose r)).acquires r 3).work l, [(r, (u.grid m).gbarGen, 0xFFFFFFFF)]) := by
    rw [Work.gbarOn]
    simp only [show (u.work l).s = u from rfl, hlane, h.real, Bool.false_eq_true, if_false, harrive, hgen]
    rfl
  have hgroup' : ∀ x, (u.gbarDone m (u.whose r)).group x = s.group x := hgroup
  have hlane' : ∀ x, (u.gbarDone m (u.whose r)).lane x = s.lane x := hlane
  have hlog' : ((u.gbarDone m (u.whose r)).ctx (s.group r.1).ctx).hdr.log = false := by
    rw [State.gbarDone, log_count]
    exact hlog
  rw [hon]
  generalize u.gbarDone m (u.whose r) = a at hhas hgroup' hlane' hlog' ⊢
  have hlane2 : (a.acquires r 3).lane r = (s.lane r).acquire 3 a.past.length := by
    rw [lane_acquires hhas, hlane']
  have hregs : ((a.acquires r 3).group r.1).regs = (s.group r.1).regs := by
    rw [State.acquires, group_modLane_regs, State.group, groups_freshL1]
    exact congrArg Group.regs (hgroup' r.1)
  have hctx : ((a.acquires r 3).group r.1).ctx = (s.group r.1).ctx := by
    rw [State.acquires, group_modLane_ctx, State.group, groups_freshL1]
    exact congrArg Group.ctx (hgroup' r.1)
  have hplain : ((a.acquires r 3).group r.1).taskKill = false := by
    rw [State.acquires, group_modLane_taskKill, State.group, groups_freshL1]
    exact (congrArg Group.taskKill (hgroup' r.1)).trans h.plain
  have hsum : sumOf ((a.acquires r 3).lane r) ((a.acquires r 3).group r.1).regs = sumOf (s.lane r) (s.group r.1).regs := by
    rw [hlane2, hregs, sumOf_acquire]
  rw [foldArrivals_one (by show ((a.acquires r 3).lane r).helper = _; rw [hlane2]; exact h.real)
    (by show ((a.acquires r 3).ctx ((a.acquires r 3).group r.1).ctx).hdr.log = _
        rw [hctx, acquires_keep (fun x => x.ctx (s.group r.1).ctx) fun _ _ _ => rfl]
        exact hlog')]
  refine (h.finishPoint_of rfl h.only h.late rfl ?_).trans ?_
  · rw [group_summed_field (fun g => g.taskKill) fun _ _ => rfl]
    exact hplain
  · exact congrArg (fun c => Host.Outcome.next (past l r ((a.acquires r 3).modGroup r.1 (Group.summed c)))) hsum

end

/-- The words of the record that the last arrival leaves. -/
theorem words_mkStraggler (u : State) (r : LRef) {kind : Nat} (hk : kind < 2) (f : Nat) (first last : Word) :
    (mkStraggler u (u.whose r) kind f first last).words = stragWords u r kind f first last := by
  rw [Straggler.words, stragWords, show (mkStraggler u (u.whose r) kind f first last).kind = kind from rfl, Nat.mod_eq_of_lt hk]
  rfl

theorem Tallied.stragWords {u : State} (h0 : Tallied s u) (r : LRef) (kind f : Nat) (first last : Word) :
    stragWords u r kind f first last = stragWords s r kind f first last := by
  rw [Claims.stragWords, Claims.stragWords, h0.group, h0.block]

theorem isEmpty_true_eq {α : Type} (xs : List α) : (xs.isEmpty = true) = (xs = []) := propext List.isEmpty_iff

section
variable {l : Latch} {r : LRef} (h : Alone s l r)
include h

theorem gbar_waits_claims {u : State} (h0 : Tallied s u) (hany : (u.grids.any fun x => x.uid == n) = true) (w : Wait) (c : DWord)
    {a t : State} (ha : a = u.modGrid n (Grid.joined u (u.grid n) (u.whose r))) (ht : t = (parked l r w a).modGroup r.1 (Group.summed c)) :
    t.hbm = s.hbm ∧ t.blocks = s.blocks ∧ (∀ q, q ≠ r → t.lane q = s.lane q) ∧ (t.group r.1).csum = c ∧
      t.lane r = { s.lane r with status := .parked w l.pc, parkedAt := s.steps } ∧
      t.grid n = Grid.joined u (u.grid n) (u.whose r) (u.grid n) := by
  have hlane : ∀ q, a.lane q = s.lane q := fun q => by rw [ha, ← h0.lane]; rfl
  have hhas : a.has r := by
    rw [ha, State.has, State.holds, modGrid_groups, h0.groups, State.group, modGrid_groups, h0.groups]
    exact h.has
  have hsteps : a.steps = s.steps := by rw [ha, ← h0.steps]; rfl
  have hholds : (parked l r w a).holds r.1 = true := ((has_modLane a r _ r).2 hhas).1
  refine ⟨?_, ?_, fun q hq => ?_, ?_, ?_, ?_⟩
  · rw [ht, ← h0.hbm, ha]; rfl
  · rw [ht, ← h0.blocks, ha]; rfl
  · rw [ht, lane_summed, parked, lane_modLane_ne _ hq, hlane]
  · rw [ht, csum_summed hholds]
  · rw [ht, lane_summed, parked, lane_modLane_self _ _ _ hhas, hlane, hsteps]
  · rw [ht, ← grid_modGrid_self hany (f := Grid.joined u (u.grid n) (u.whose r)) fun _ => rfl, ← ha]
    rfl

theorem gbar_completes_claims {u : State} (h0 : Tallied s u) (c : DWord) {a t : State} (ha : a = u.gbarDone n (u.whose r))
    (ht : t = past l r ((a.acquires r 3).modGroup r.1 (Group.summed c))) :
    t.hbm = s.hbm ∧ t.blocks = s.blocks ∧ (∀ q, q ≠ r → t.lane q = s.lane q) ∧ (t.group r.1).csum = c ∧
      t.lane r = ((s.lane r).acquire 3 s.past.length).advance l.pc ∧ t.grid n = (u.gbarDone n (u.whose r)).grid n := by
  have hlane : ∀ q, a.lane q = s.lane q := fun q => by rw [ha, ← h0.lane]; rfl
  have hhas : a.has r := by
    rw [ha]
    show u.has r
    rw [State.has, State.holds, h0.groups, h0.group]
    exact h.has
  have hhas2 : (a.acquires r 3).has r := by
    rw [State.acquires, has_modLane, State.has, State.holds, State.group, groups_freshL1]
    exact hhas
  have hpast : a.past.length = s.past.length := by rw [ha, ← h0.past]; rfl
  have hkeep : ∀ {α : Type} (p : State → α), (∀ x gs ls, p { x with groups := gs, l1 := ls } = p x) → p t = p a := fun p hp => by
    rw [ht, ← acquires_keep p hp a r 3]
    exact hp (a.acquires r 3) _ (a.acquires r 3).l1
  refine ⟨?_, ?_, fun q hq => ?_, ?_, ?_, ?_⟩
  · rw [hkeep (·.hbm) fun _ _ _ => rfl, ← h0.hbm, ha]; rfl
  · rw [hkeep (·.blocks) fun _ _ _ => rfl, ← h0.blocks, ha]; rfl
  · rw [ht, past, lane_modLane_ne _ hq, lane_summed, State.acquires, lane_modLane_ne _ hq, State.lane, State.group, groups_freshL1]
    exact hlane q
  · rw [ht, past, group_modLane_field (·.csum) (fun _ _ => rfl), csum_summed hhas2.1]
  · rw [ht, past, lane_modLane_self _ _ _ (has_summed hhas2 _ _), lane_summed, lane_acquires hhas, hlane, hpast]
  · rw [hkeep (·.grid n) fun _ _ _ => rfl, ha]

end

/-- Settles O45: the last arrival is told from the others by the threads of the grid that have arrived. -/
theorem gridBarrierResults : Obligations.GridBarrierResults := by
  intro s l r h
  dsimp only
  have hf := inRange_nil s l
  have h0 := tallied_counted hf
  refine ⟨fun hcoop => h.traps hf ((exec_gbar_plain h hcoop).trans ?_), fun hany hcoop hk hlog => ?_⟩
  · rw [show barData 7 0xFFFFFFFF = BitVec.ofNat 64 (0xFFFFFFFF * 2 ^ 32 + 7) by decide]
  have hexec := exec_gbar_coop h hcoop (uid_grid hany)
  have hlog' : ((counted s l []).ctx (s.group r.1).ctx).hdr.log = false := (h0.ctx_field (fun c => c.hdr.log) (fun _ => rfl) _).trans hlog
  generalize counted s l [] = u at h0 hexec hlog'
  have hgrid : ∀ g, u.grid g = s.grid g := fun g => by rw [State.grid, State.grid, h0.grids]
  have hwhose : u.whose r = s.whose r := by rw [State.whose, State.whose, h0.group]
  have hthreads : ∀ g, u.gridThreads g = s.gridThreads g := fun g => by rw [State.gridThreads, State.gridThreads, h0.groups]
  have hany' : (u.grids.any fun x => x.uid == (s.group r.1).grid) = true := by rw [h0.grids]; exact hany
  have hclock : ∀ c, u.clock c = s.clock c := fun c => by rw [State.clock, State.clock, h0.core]
  have hlists : ((u.gridThreads (s.group r.1).grid).all fun x => ((u.grid (s.group r.1).grid).gbarArrived ++
      [((u.whose r).block, (u.whose r).tidx)]).contains x) = ((s.gridThreads (s.group r.1).grid).all fun x =>
        ((s.grid (s.group r.1).grid).gbarArrived ++ [((s.group r.1).block, (s.group r.1).tidx r.2)]).contains x) := by
    rw [hthreads, hgrid, hwhose]
    rfl
  generalize hall : ((s.gridThreads (s.group r.1).grid).all fun x =>
        ((s.grid (s.group r.1).grid).gbarArrived ++ [((s.group r.1).block, (s.group r.1).tidx r.2)]).contains x) = all at hlists ⊢
  have hjoined : Grid.joined u (u.grid (s.group r.1).grid) (u.whose r) (u.grid (s.group r.1).grid) =
      Grid.joined s (s.grid (s.group r.1).grid) (s.whose r) (s.grid (s.group r.1).grid) := by
    rw [Grid.joined, hgrid, hwhose, hclock]
    rfl
  cases all with
  | false =>
    rw [gbarOn_waits h h0.groups hlog' hany' hlists] at hexec
    obtain ⟨hhbm, hblocks, hother, hsum, hlane, hg⟩ := gbar_waits_claims h h0 hany' _ _ rfl rfl
    refine ⟨_, hexec, hhbm, hblocks, hother, hsum, fun _ => ?_, fun he => absurd he (by decide)⟩
    rw [hg, hjoined, hlane, hgrid]
    refine ⟨rfl, rfl, rfl, ?_, ?_⟩
    · rw [Grid.joined]; simp only [isEmpty_true_eq]
    · rw [Grid.joined]; simp only [isEmpty_true_eq]; rfl
  | true =>
    rw [gbarOn_completes h h0.groups hlog' hany' (by rw [hgrid]; exact hcoop) hlists] at hexec
    obtain ⟨hhbm, hblocks, hother, hsum, hlane, hg⟩ := gbar_completes_claims (n := (s.group r.1).grid) h h0 _ rfl rfl
    refine ⟨_, hexec, hhbm, hblocks, hother, hsum, fun he => absurd he (by decide), fun _ => ?_⟩
    rw [hg, hlane, grid_gbarDone hany', hjoined]
    refine ⟨rfl, rfl, rfl, ?_⟩
    show (mkStraggler u (u.whose r) 1 _ _ _).words = _
    rw [words_mkStraggler u r (by decide), h0.stragWords, hclock, hgrid, Grid.joined]
    simp only [isEmpty_true_eq]
    rfl

end Sys2Proof.Machine
end

section
/-!
PROOFS. The instructions that only go past, fences, and kill points (R118, R193 to R195, R232, R292).
-/

namespace Sys2Proof.Machine

open Sys2Proof Sys2Proof.Machine.Claims

/-! ### Lanes that stay as they are -/

theorem modLane_id (s : State) (r : LRef) : s.modLane r (fun x => x) = s := by
  have hgroup : ∀ g : Group, ({ g with lanes := g.lanes.modify r.2 (fun x => x) } : Group) = g := fun g => by
    rw [show (fun x : Lane => x) = id from rfl, List.modify_id]
  rw [State.modLane, State.modGroup]
  refine congrArg (fun gs => { s with groups := gs }) ((List.map_congr_left fun g _ => ?_).trans (List.map_id' _))
  rw [hgroup]
  exact ite_self _

theorem foldl_modLane_id (ls : List LRef) (s : State) : ls.foldl (fun s r => s.modLane r fun x => x) s = s := by
  induction ls with
  | nil => rfl
  | cons r rs ih => rw [List.foldl_cons, modLane_id, ih]

/-- A gather of which nothing but the perf counts has changed goes past. -/
theorem finish_unchanged {s s0 : State} {l : Latch} (hr : Ready s l) (h0 : Tallied s s0) :
    ∃ t, (s0.work l).finish = .next t ∧ LanesOnly l.lanes s t ∧ ∀ r ∈ l.lanes, t.lane r = (s.lane r).advance l.pc := by
  obtain ⟨t, ht, hall⟩ := finish_lanes hr h0 (g := fun _ x => x) fun _ _ => rfl
  exact ⟨t, by rw [foldl_modLane_id] at ht; exact ht, hall⟩

/-- An instruction that comes, after its perf counts, to the end of its gather. -/
theorem moves_past {i : Instr} {s : State} {l : Latch} (hr : Ready s l) (he : exec i s = ((counted s l []).work l).finish) :
    Moves i s l fun _ x => x.advance l.pc := by
  obtain ⟨t, ht, hall⟩ := finish_unchanged hr (tallied_counted (inRange_nil s l))
  exact ⟨t, he.trans ht, hall⟩

section
variable {s : State} {l : Latch} (hr : Ready s l)
include hr

theorem moves_nop : Moves .nop s l fun _ x => x.advance l.pc := moves_past hr (by
  show execNop s = _
  rw [execNop, withGather_latched hr.latched, begin_counted (inRange_nil s l)])

theorem moves_fenceop : Moves .fenceop s l fun _ x => x.advance l.pc := moves_past hr (by
  show execFenceop s = _
  rw [execFenceop, withGather_latched hr.latched, begin_counted (inRange_nil s l)])

/-! ### Trace rings and kill points that are not there -/

omit hr in
theorem mem_groupsOf {ls : List LRef} {g : Nat} (hg : g ∈ groupsOf ls) : ∃ r ∈ ls, r.1 = g := by
  rw [groupsOf] at hg
  simpa using hg

omit hr in
theorem foldl_fixed {α β : Type} (f : β → α → β) (b : β) : ∀ {xs : List α}, (∀ x ∈ xs, f b x = b) → xs.foldl f b = b
  | [], _ => rfl
  | x :: xs, h => by
    rw [List.foldl_cons, h x List.mem_cons_self]
    exact foldl_fixed f b fun y hy => h y (List.mem_cons_of_mem x hy)

theorem moves_dbgmark (htrace : ∀ r ∈ l.lanes, (s.ctx (s.group r.1).ctx).hdr.tracesize < 16) (m : BitVec 8) :
    Moves (.dbgmark m) s l fun _ x => x.advance l.pc := moves_past hr (by
  have h0 := tallied_counted (inRange_nil s l)
  show execDbgmark m s = _
  rw [execDbgmark, withGather_latched hr.latched, begin_counted (inRange_nil s l)]
  generalize counted s l [] = u at h0 ⊢
  refine congrArg (fun v => ({ u.work l with s := v } : Work).finish) (foldl_fixed _ u fun g hg => ?_)
  obtain ⟨r, hmem, rfl⟩ := mem_groupsOf hg
  have hsize : (u.ctx (u.group r.1).ctx).hdr.tracesize < 16 := by
    rw [h0.group, h0.ctx_field (fun c => c.hdr.tracesize) fun _ => rfl]
    exact htrace r (List.mem_of_mem_filter hmem)
  rw [State.trace, if_pos hsize])

theorem moves_killpt (hbound : ∀ r ∈ l.lanes, (s.group r.1).bound = none) : Moves .killpt s l fun _ x => x.advance l.pc :=
  moves_past hr (by
    have h0 := tallied_counted (inRange_nil s l)
    show execKillpt s = _
    rw [execKillpt, withGather_latched hr.latched, begin_counted (inRange_nil s l)]
    generalize counted s l [] = u at h0 ⊢
    refine congrArg (fun v => ({ u.work l with s := v } : Work).finish) (foldl_fixed _ u fun g hg => ?_)
    obtain ⟨r, hmem, rfl⟩ := mem_groupsOf hg
    have hnone : (u.group r.1).bound = none := by
      rw [h0.group]
      exact hbound r hmem
    rw [State.killPoint, hnone])

/-! ### Fences -/

omit hr in
/-- The entries of the L1s that no core of the lanes' groups holds. -/
def keptL1 (v : State) (ls : List LRef) (e : Nat × Nat) : Bool := !(ls.any fun r => (v.group r.1).agent == .core (e.1 / 2 ^ 34))

omit hr in
theorem freshL1_filter (l : Latch) (v : State) (r : LRef) : v.freshL1 r = { v with l1 := v.l1.filter (keptL1 v [r]) } :=
  freshL1_eq v (l := { l with lanes := [r] }) rfl

omit hr in
theorem keptL1_cons (v : State) (r : LRef) (ls : List LRef) (e : Nat × Nat) : keptL1 v (r :: ls) e = (keptL1 v ls e && keptL1 v [r] e) := by
  simp only [keptL1, List.any_cons, List.any_nil, Bool.or_false, Bool.not_or, Bool.and_comm]

omit hr in
/-- Acquire points of several lanes: the L1s of their cores drop what they hold, and each lane notes it. -/
theorem foldl_acquires (l : Latch) (k : Nat) : ∀ (ls : List LRef) (v : State), ls.foldl (fun s r => s.acquires r k) v =
    ls.foldl (fun s r => s.modLane r fun x => x.acquire k v.past.length) { v with l1 := v.l1.filter (keptL1 v ls) }
  | [], v => by
    have hall : v.l1.filter (keptL1 v []) = v.l1 := List.filter_eq_self.2 fun e _ => rfl
    rw [List.foldl_nil, List.foldl_nil, hall]
  | r :: ls, v => by
    have hpast : (v.acquires r k).past = v.past := acquires_keep (·.past) (fun _ _ _ => rfl) v r k
    have hagent : ∀ x, ((v.acquires r k).group x).agent = (v.group x).agent := fun x => by
      rw [State.acquires, group_modLane_agent, State.group, groups_freshL1]
      rfl
    have hkept : keptL1 (v.acquires r k) ls = keptL1 v ls := funext fun e => by
      simp only [keptL1, hagent]
    have hl1 : (v.acquires r k).l1 = v.l1.filter (keptL1 v [r]) := by
      rw [State.acquires, freshL1_filter l]
      rfl
    have hfilter : (v.l1.filter (keptL1 v [r])).filter (keptL1 v ls) = v.l1.filter (keptL1 v (r :: ls)) := by
      rw [List.filter_filter]
      exact congrArg (v.l1.filter ·) (funext fun e => (keptL1_cons v r ls e).symm)
    rw [List.foldl_cons, List.foldl_cons, foldl_acquires l k ls, hpast, hkept, hl1, hfilter, State.acquires, freshL1_filter l]
    rfl

omit hr in
theorem Tallied.freshL1s {u : State} (h0 : Tallied s u) (l : Latch) :
    Tallied (Claims.freshL1s s l) (Claims.freshL1s u l) where
  rest := by
    have hrest := h0.rest
    rw [Claims.freshL1s, Claims.freshL1s]
    simp only [h0.group, h0.l1]
    exact congrArg (fun v : State => { v with l1 := s.l1.filter (keptL1 s l.lanes) }) hrest
  ctxs := h0.ctxs

theorem ready_freshL1s : Ready (freshL1s s l) l := ⟨hr.latched, hr.alone, hr.nodup, hr.there, hr.noKill⟩

theorem exec_fence (kind : BitVec 2) (scope : BitVec 3) : exec (.fence kind scope) s =
    (((counted s l []).work l).acquireAll (!(kind == 1)) scope.toNat).finish := by
  show execFence kind scope s = _
  rw [execFence, withGather_latched hr.latched, begin_counted (inRange_nil s l)]

theorem fence_release (kind : BitVec 2) (scope : BitVec 3) (hk : kind = 1) : Moves (.fence kind scope) s l fun _ x => x.advance l.pc :=
  moves_past hr (by
    rw [exec_fence hr, hk]
    rfl)

theorem fence_acquires (kind : BitVec 2) (scope : BitVec 3) (hk : kind ≠ 1) : ∃ t, exec (.fence kind scope) s = .next t ∧
    LanesOnly l.lanes (freshL1s s l) t ∧ ∀ r ∈ l.lanes, t.lane r = ((s.lane r).acquire scope.toNat s.past.length).advance l.pc := by
  have h0 := tallied_counted (inRange_nil s l)
  rw [exec_fence hr, Work.acquireAll, if_pos (by rw [beq_eq_false_iff_ne.2 hk]; rfl)]
  generalize counted s l [] = u at h0 ⊢
  have hpast := h0.past
  obtain ⟨t, ht, hall⟩ := finish_lanes (ready_freshL1s hr) (h0.freshL1s l) (g := fun _ x => x.acquire scope.toNat s.past.length) fun _ _ => rfl
  refine ⟨t, ?_, hall⟩
  have hfold : l.lanes.foldl (fun s r => s.acquires r scope.toNat) u =
      l.lanes.foldl (fun v r => v.modLane r fun x => x.acquire scope.toNat s.past.length) (freshL1s u l) := by
    rw [← hpast]
    exact foldl_acquires l scope.toNat l.lanes u
  rw [← ht, ← hfold]
  rfl

end

/-! ### One lane -/

/-- A group whose lanes that have not exited a kill takes. -/
def Group.killing (g : Group) : Group :=
  { g with lanes := g.lanes.map fun x => if x.unexited then { x with kill := true } else x }

section
variable {s : State} {l : Latch} {r : LRef} (h : Alone s l r)
include h

theorem exec_yield_core {c : Nat} (hc : l.agent = .core c) : exec .yield s = .next (past l r ((counted s l []).modRow c l.row fun x =>
    { x with passOver := (s.core c).gathers + 64 })) := by
  have hf := inRange_nil s l
  have h0 := tallied_counted hf
  have hu := h.counted hf
  show execYield s = _
  rw [execYield, withGather_latched h.ready.latched, begin_counted hf]
  have hcore : ∀ k, (counted s l []).core k = s.core k := h0.core
  generalize counted s l [] = u at h0 hu hcore ⊢
  simp only [show (u.work l).l = l from rfl, hc, show (u.work l).s = u from rfl, hcore]
  exact h.finish (u := u.modRow c l.row fun x => { x with passOver := (s.core c).gathers + 64 }) hu.plain

theorem exec_killpt_kills {b k : Word} (hb : (s.group r.1).bound = some b)
    (hk : s.killKey (s.group r.1).ctx (dieOf (s.group r.1).coreOf) = some k) (hbeat : cannotBeat b k = true)
    (hall : (s.group r.1).lanes.all (fun x => !x.kill && !x.halted) = true) :
    exec .killpt s = .next (past l r ((counted s l []).modGroup r.1 Group.killing)) := by
  have hf := inRange_nil s l
  have h0 := tallied_counted hf
  have hu := h.counted hf
  have hslots : ((counted s l []).ctx (s.group r.1).ctx).slots = (s.ctx (s.group r.1).ctx).slots :=
    h0.ctx_field (fun c => c.slots) (fun _ => rfl) _
  show execKillpt s = _
  rw [execKillpt, withGather_latched h.ready.latched, begin_counted hf]
  generalize counted s l [] = u at h0 hu hslots ⊢
  have hkey : u.killKey (s.group r.1).ctx (dieOf (s.group r.1).coreOf) = some k := by
    rw [← hk, State.killKey, State.killKey, hslots]
    refine congrArg (fun f => Option.map f _) (funext fun reg => ?_)
    rw [← h0.rest]
    rfl
  have hnone : ((s.group r.1).lanes.any fun x => x.kill || x.halted) = false := by
    rw [List.any_eq_false]
    intro x hx
    have hq := List.all_eq_true.1 hall x hx
    simpa using hq
  have hpoint : u.killPoint r.1 = u.modGroup r.1 Group.killing := by
    rw [State.killPoint, h0.group, hb, hkey]
    dsimp only
    rw [if_pos hbeat, hnone, if_neg (by decide)]
    rfl
  simp only [show (u.work l).live = [r] from h.only, show (u.work l).s = u from rfl, groupsOf_one, List.foldl_cons, List.foldl_nil, hpoint]
  refine h.finish_of rfl rfl h.late rfl ?_
  exact (group_modGroup_field (·.taskKill) (f := Group.killing) (fun _ => rfl) (fun _ => rfl) u r.1 r.1).trans hu.plain

end

/-- Settles O43: a fence acquires lane by lane, and the others change nothing but what their clause names. -/
theorem quietResults : Obligations.QuietResults := by
  refine ⟨fun s l hr => ⟨fun i hi => ?_, fun k sc => ?_, moves_dbgmark hr, moves_killpt hr⟩, fun s l r h =>
    ⟨fun c hc => exec_yield_core h hc, fun b k hb hk hbeat hall => exec_killpt_kills h hb hk hbeat hall⟩⟩
  · rcases List.mem_pair.1 hi with rfl | rfl
    · exact moves_nop hr
    · exact moves_fenceop hr
  · by_cases hk : k = 1
    · simp only [if_pos hk]
      exact fence_release hr k sc hk
    · simp only [if_neg hk]
      exact fence_acquires hr k sc hk

end Sys2Proof.Machine
end

section
/-!
PROOFS. Reconvergence records, arrivals at them, and the start of a loop (R115, R123, R124), with one lane.
-/

namespace Sys2Proof.Machine

open Sys2Proof Sys2Proof.Machine.Claims

/-! ### Records that complete, and records that wait -/

/-- A record of a group has members, and all of them have arrived or exited. -/
def Group.completes (g : Group) (x : Rec) : Bool := x.members != 0 && g.numbered.all fun y => x.met y.1 y.2

/-- The group with a record completed: idle, and the lanes held at it on their way. -/
def Group.released (b : Nat) (x : Rec) (g : Group) : Group :=
  { g with
    recs := g.recs.set b {}
    lanes := g.lanes.map fun l => if l.status == .held b then { l.goto (x.target + 4) with status := .ready } else l }

/-- One record settled. -/
def Group.settle (g : Group) (y : Nat × Rec) : Group := if g.completes y.2 then g.released y.1 y.2 else g

theorem settleRecs_eq (g : Group) : g.settleRecs = ((upto 8).zip g.recs).foldl Group.settle g := rfl

theorem mem_numbered {g : Group} {i : Nat} {x : Lane} : (i, x) ∈ g.numbered ↔ g.lanes[i]? = some x := by
  rw [List.mem_iff_getElem?]
  constructor
  · rintro ⟨k, hk⟩
    rw [Group.numbered_getElem?] at hk
    obtain ⟨y, hy, he⟩ := Option.map_eq_some_iff.1 hk
    obtain ⟨rfl, rfl⟩ := Prod.mk.inj he
    exact hy
  · intro h
    exact ⟨i, by rw [Group.numbered_getElem?, h]; rfl⟩

/-- A record that a member of it still keeps from completing. -/
def Group.Awaits (g : Group) (x : Rec) : Prop :=
  ∃ i z, g.lanes[i]? = some z ∧ x.members.getLsbD i = true ∧ x.arrived.getLsbD i = false ∧ z.unexited = true

theorem completes_of_idle (g : Group) {x : Rec} (h : x.members = 0) : g.completes x = false := by
  rw [Group.completes, h]
  rfl

theorem completes_of_awaits {g : Group} {x : Rec} (h : g.Awaits x) : g.completes x = false := by
  obtain ⟨i, z, hz, hm, ha, hu⟩ := h
  rw [Group.completes, Bool.and_eq_false_iff]
  refine .inr (List.all_eq_false.2 ⟨(i, z), mem_numbered.2 hz, ?_⟩)
  rw [Rec.met, hm, ha, hu]
  decide

theorem completes_of_met {g : Group} {x : Rec} (h : x.members ≠ 0)
    (hmet : ∀ i z, g.lanes[i]? = some z → x.members.getLsbD i = true → x.arrived.getLsbD i = true ∨ z.unexited = false) :
    g.completes x = true := by
  rw [Group.completes, Bool.and_eq_true]
  refine ⟨by simpa using h, List.all_eq_true.2 fun ⟨i, z⟩ hz => ?_⟩
  have hi := hmet i z (mem_numbered.1 hz)
  rw [Rec.met]
  cases hm : x.members.getLsbD i with
  | false => rfl
  | true =>
    rcases hi hm with ha | hu
    · simp only [ha, Bool.not_true, Bool.false_or, Bool.true_or]
    · simp only [hu, Bool.not_true, Bool.false_or, Bool.not_false, Bool.or_true]

theorem recs_of_mem {recs : List Rec} {b : Nat} {x : Rec} (h : (b, x) ∈ (upto 8).zip recs) : recs[b]? = some x := by
  obtain ⟨k, hk⟩ := List.mem_iff_getElem?.1 h
  obtain ⟨hb, hx⟩ := List.getElem?_zip_eq_some.1 hk
  obtain ⟨hlt, he⟩ := List.getElem?_eq_some_iff.1 hb
  rw [← show k = b by simpa [upto] using he]
  exact hx

/-- With no record complete, settling changes nothing. -/
theorem settleRecs_none {g : Group} (h : ∀ (b : Nat) (x : Rec), g.recs[b]? = some x → g.completes x = false) : g.settleRecs = g := by
  rw [settleRecs_eq]
  refine foldl_fixed _ g fun y hy => ?_
  rw [Group.settle, h y.1 y.2 (recs_of_mem hy), if_neg (by decide)]

/-- With one record complete, settling releases the lanes that are held at it. -/
theorem settleRecs_one {g : Group} {b : Nat} {x : Rec} (hlen : g.recs.length = 8) (hx : g.recs[b]? = some x) (hc : g.completes x = true)
    (hother : ∀ (k : Nat) (y : Rec), g.recs[k]? = some y → k ≠ b → g.completes y = false ∧ (g.released b x).completes y = false) :
    g.settleRecs = g.released b x := by
  have hb : b < 8 := hlen ▸ (List.getElem?_eq_some_iff.1 hx).1
  have hmem : (b, x) ∈ (upto 8).zip g.recs := List.mem_iff_getElem?.2 ⟨b, List.getElem?_zip_eq_some.2 ⟨by simp [upto, hb], hx⟩⟩
  have hkeys : (((upto 8).zip g.recs).map Prod.fst).Nodup := by
    rw [List.map_fst_zip (by rw [hlen]; decide)]
    exact List.nodup_range
  obtain ⟨pre, post, hsplit⟩ := List.append_of_mem hmem
  have hall : ∀ y ∈ pre ++ post, g.recs[y.1]? = some y.2 ∧ y.1 ≠ b := fun y hy => by
    have hin : y ∈ (upto 8).zip g.recs := by
      rw [hsplit]
      rcases List.mem_append.1 hy with h | h
      · exact List.mem_append_left _ h
      · exact List.mem_append_right _ (List.mem_cons_of_mem _ h)
    refine ⟨recs_of_mem hin, fun he => ?_⟩
    rw [hsplit, List.map_append, List.map_cons, List.nodup_middle, List.nodup_cons, ← List.map_append] at hkeys
    exact hkeys.1 (List.mem_map.2 ⟨y, hy, he⟩)
  have hpre : pre.foldl Group.settle g = g := foldl_fixed _ g fun y hy => by
    obtain ⟨hy', hne⟩ := hall y (List.mem_append_left _ hy)
    rw [Group.settle, (hother y.1 y.2 hy' hne).1, if_neg (by decide)]
  have hpost : post.foldl Group.settle (g.released b x) = g.released b x := foldl_fixed _ _ fun y hy => by
    obtain ⟨hy', hne⟩ := hall y (List.mem_append_right _ hy)
    rw [Group.settle, (hother y.1 y.2 hy' hne).2, if_neg (by decide)]
  rw [settleRecs_eq, hsplit, List.foldl_append, hpre, List.foldl_cons, Group.settle, hc, if_pos rfl, hpost]

/-- Completing a record leaves each lane exited or not. -/
theorem awaits_released {g : Group} {b : Nat} {x y : Rec} (h : g.Awaits y) : (g.released b x).Awaits y := by
  obtain ⟨i, z, hz, hm, ha, hu⟩ := h
  refine ⟨i, _, (List.getElem?_map ..).trans (congrArg _ hz), hm, ha, ?_⟩
  dsimp only
  split
  · rfl
  · exact hu

/-! ### Arrivals -/

/-- A group with a lane more that has arrived at record `b` and is held there. -/
def Group.arriving (b i : Nat) (g : Group) : Group :=
  { g with
    recs := g.recs.modify b fun y => { y with arrived := y.arrived ||| (1#64 <<< i) }
    lanes := g.lanes.modify i fun l => { l.dropHeld with status := .held b } }

theorem awaits_arriving {g : Group} {b i : Nat} {y : Rec} (h : g.Awaits y) : (g.arriving b i).Awaits y := by
  obtain ⟨k, z, hz, hm, ha, hu⟩ := h
  refine ⟨k, _, (List.getElem?_modify ..).trans (congrArg _ hz), hm, ha, ?_⟩
  dsimp only
  split
  · rfl
  · exact hu

theorem lanes_arriving_ne (g : Group) {b i k : Nat} (h : k ≠ i) : (g.arriving b i).lanes[k]? = g.lanes[k]? := by
  rw [Group.arriving, List.getElem?_modify]
  simp only [if_neg (Ne.symm h)]
  cases g.lanes[k]? <;> rfl

theorem getLsbD_or_bit {m : BitVec 64} {i k : Nat} (hi : i < 64) : (m ||| (1#64 <<< i)).getLsbD k = (m.getLsbD k || decide (k = i)) := by
  rw [BitVec.getLsbD_or, ← BitVec.twoPow_eq, BitVec.getLsbD_twoPow]
  by_cases hk : k = i
  · subst hk
    simp [hi]
  · simp [hk, Ne.symm hk]

/-- A group with a record set. -/
def Group.recorded (b : Nat) (x : Rec) (g : Group) : Group := { g with recs := g.recs.set b x }

theorem modGroup_twice (s : State) (n : Nat) (f k : Group → Group) (hf : ∀ g, (f g).gid = g.gid) :
    (s.modGroup n f).modGroup n k = s.modGroup n (k ∘ f) := by
  rw [State.modGroup, State.modGroup, State.modGroup]
  refine congrArg (fun gs => { s with groups := gs }) ((List.map_map ..).trans (List.map_congr_left fun g _ => ?_))
  rw [Function.comp_apply]
  split
  · next hg => rw [hf, if_pos hg, Function.comp_apply]
  · next hg => rfl

theorem modGroup_congr {s : State} {n : Nat} {f k : Group → Group} (h : ∀ g ∈ s.groups, g.gid = n → f g = k g) :
    s.modGroup n f = s.modGroup n k := by
  rw [State.modGroup, State.modGroup]
  refine congrArg (fun gs => { s with groups := gs }) (List.map_congr_left fun g hg => ?_)
  split
  · next he => exact h g hg (by simpa using he)
  · rfl

theorem modGroup_same {s : State} {n : Nat} {f : Group → Group} (h : ∀ g ∈ s.groups, g.gid = n → f g = g) : s.modGroup n f = s := by
  rw [modGroup_congr (k := id) h, State.modGroup]
  refine congrArg (fun gs => { s with groups := gs }) ((List.map_congr_left fun g _ => ?_).trans (List.map_id _))
  exact ite_self _

theorem settleRecs_field {α : Type} (p : Group → α) (hp : ∀ (g : Group) rs ls, p { g with recs := rs, lanes := ls } = p g) (g : Group) :
    p g.settleRecs = p g := by
  rw [settleRecs_eq]
  generalize (upto 8).zip g.recs = ys
  induction ys generalizing g with
  | nil => rfl
  | cons y ys ih =>
    rw [List.foldl_cons, ih, Group.settle]
    split
    · exact hp g _ _
    · rfl

section
variable {s : State} {l : Latch} {r : LRef} (h : Alone s l r)
include h

theorem exec_rcvset_free {b : BitVec 3} {imm : BitVec 12} (hfree : ((s.group r.1).lanes.all fun x => x.status != .held b.toNat) = true) :
    exec (.rcvset b imm) s = .next (past l r ((counted s l []).modGroup r.1 (Group.recorded b.toNat
      { target := target l (immOf s l r true imm).toInt, members := 1#64 <<< r.2, arrived := 0 }))) := by
  have hf := inRange_nil s l
  have h0 := tallied_counted hf
  have hu := h.counted hf
  show execRcvset b imm s = _
  rw [execRcvset, withGather_latched h.ready.latched, begin_counted hf]
  generalize counted s l [] = u at h0 hu ⊢
  have himm : (u.work l).imm12 r true imm = immOf s l r true imm := (h0.imm12 l r true imm).trans (imm12_eq_immOf s l r true imm)
  have hany : ((s.group r.1).lanes.any fun x => x.status == .held b.toNat) = false := by
    rw [List.any_eq_false]
    intro x hx
    have hne := List.all_eq_true.1 hfree x hx
    simpa using hne
  simp only [show (u.work l).live = [r] from h.only, show (u.work l).s = u from rfl, groupsOf_one, List.foldl_cons, List.foldl_nil, h0.group,
    hany, Bool.false_eq_true, if_false, List.filter_cons, List.filter_nil, beq_self_eq_true, if_true, himm,
    show (0 : BitVec 64) ||| 1#64 <<< r.2 = 1#64 <<< r.2 from BitVec.zero_or]
  exact h.finish_of (w := { s := u.modGroup r.1 (Group.recorded b.toNat { target := target l (immOf s l r true imm).toInt, members := _ })
                            l := l, live := [r], traps := l.late }) rfl rfl h.late rfl
    ((group_modGroup_field (·.taskKill) (f := Group.recorded b.toNat _) (fun _ => rfl) (fun _ => rfl) u r.1 r.1).trans hu.plain)

theorem exec_rcvwait_other {b : BitVec 6} (hsettled : ∀ y ∈ s.groups, y.gid = r.1 → y.settleRecs = y)
    (hm : ((s.group r.1).recs.getD b.toNat {}).members.getLsbD r.2 = false) : exec (.rcvwait b) s = .next (past l r (counted s l [])) := by
  have hf := inRange_nil s l
  have h0 := tallied_counted hf
  have hu := h.counted hf
  show execRcvwait b s = _
  rw [execRcvwait, withGather_latched h.ready.latched, begin_counted hf]
  generalize counted s l [] = u at h0 hu ⊢
  simp only [show (u.work l).live = [r] from h.only, show (u.work l).s = u from rfl, List.foldl_cons, List.foldl_nil, h0.group, hm,
    Bool.not_false, if_true, show (u.work l).l.lanes = [r] from h.only, groupsOf_one]
  rw [modGroup_same (by rw [h0.groups]; exact hsettled)]
  exact h.finish_of (w := { s := u, l := l, live := [r], traps := l.late }) rfl rfl h.late rfl hu.plain

theorem exec_rcvwait_member {b : BitVec 6} (hm : ((s.group r.1).recs.getD b.toNat {}).members.getLsbD r.2 = true)
    (hpc : l.pc = ((s.group r.1).recs.getD b.toNat {}).target) :
    exec (.rcvwait b) s = .next (((counted s l []).modGroup r.1 (Group.arriving b.toNat r.2)).modGroup r.1 Group.settleRecs) := by
  have hf := inRange_nil s l
  have h0 := tallied_counted hf
  have hu := h.counted hf
  show execRcvwait b s = _
  rw [execRcvwait, withGather_latched h.ready.latched, begin_counted hf]
  generalize counted s l [] = u at h0 hu ⊢
  simp only [show (u.work l).live = [r] from h.only, show (u.work l).s = u from rfl, List.foldl_cons, List.foldl_nil, h0.group, hm,
    Bool.not_true, Bool.false_eq_true, if_false, show (u.work l).l = l from rfl, hpc, ne_eq, not_true_eq_false,
    show l.lanes = [r] from h.only, groupsOf_one, List.filter_cons, List.filter_nil, bne_self_eq_false]
  refine h.finish_left (w := { s := (u.modGroup r.1 (Group.arriving b.toNat r.2)).modGroup r.1 Group.settleRecs, l := l, live := [],
                               traps := l.late }) ?_ rfl rfl rfl rfl h.late
  refine (group_modGroup_field (·.taskKill) (f := Group.settleRecs) (settleRecs_field (·.gid) fun _ _ _ => rfl)
    (settleRecs_field (·.taskKill) fun _ _ _ => rfl) _ r.1 r.1).trans ?_
  exact (group_modGroup_field (·.taskKill) (f := Group.arriving b.toNat r.2) (fun _ => rfl) (fun _ => rfl) u r.1 r.1).trans hu.plain

end

/-! ### What settling makes of an arrival -/

section
variable {g : Group} {b i : Nat} {x : Rec} (hlen : g.recs.length = 8) (hb : b < 8) (hx : g.recs.getD b {} = x)
  (hm : x.members.getLsbD i = true)
  (hothers : ∀ (k : Nat) (y : Rec), g.recs[k]? = some y → k ≠ b → y.members = 0 ∨ g.Awaits y)
include hlen hb hx

theorem rec_at : g.recs[b]? = some x := by
  rw [List.getD_eq_getElem?_getD] at hx
  have hlt : b < g.recs.length := hlen ▸ hb
  rw [List.getElem?_eq_getElem hlt] at hx ⊢
  exact congrArg some hx

/-- The record behind the arrival of lane `i`. -/
def Rec.joined (i : Nat) (x : Rec) : Rec := { x with arrived := x.arrived ||| (1#64 <<< i) }

theorem recs_arriving : (g.arriving b i).recs = g.recs.set b (x.joined i) := by
  have hat := rec_at hlen hb hx
  show g.recs.modify b (Rec.joined i) = _
  refine List.ext_getElem? fun k => ?_
  rw [List.getElem?_modify, List.getElem?_set]
  by_cases hk : b = k
  · subst hk
    rw [hat, if_pos rfl, if_pos (hlen ▸ hb)]
    simp
  · simp [hk]

include hothers in
theorem others_incomplete (k : Nat) (y : Rec) (hk : (g.arriving b i).recs[k]? = some y) (hne : k ≠ b) :
    y.members = 0 ∨ (g.arriving b i).Awaits y := by
  rw [recs_arriving hlen hb hx, List.getElem?_set_ne (Ne.symm hne)] at hk
  exact (hothers k y hk hne).imp_right awaits_arriving

include hm hothers

theorem settle_arriving_waits
    (hwait : ∃ k y, g.lanes[k]? = some y ∧ k ≠ i ∧ x.members.getLsbD k = true ∧ x.arrived.getLsbD k = false ∧ y.unexited = true) :
    (g.arriving b i).settleRecs = g.arriving b i := by
  have hi : i < 64 := BitVec.lt_of_getLsbD hm
  refine settleRecs_none fun k y hk => ?_
  by_cases hne : k = b
  · subst hne
    rw [recs_arriving hlen hb hx, List.getElem?_set_self (hlen ▸ hb)] at hk
    obtain rfl := Option.some.inj hk
    obtain ⟨j, z, hz, hji, hmj, haj, hu⟩ := hwait
    refine completes_of_awaits ⟨j, z, ?_, hmj, ?_, hu⟩
    · rw [lanes_arriving_ne _ hji, hz]
    · show (x.arrived ||| (1#64 <<< i)).getLsbD j = _
      rw [getLsbD_or_bit hi, haj, decide_eq_false hji]
      rfl
  · exact (others_incomplete hlen hb hx hothers k y hk hne).elim (completes_of_idle _) completes_of_awaits

theorem settle_arriving_completes
    (hall : ∀ k y, g.lanes[k]? = some y → k ≠ i → x.members.getLsbD k = true → x.arrived.getLsbD k = true ∨ y.unexited = false) :
    (g.arriving b i).settleRecs = (g.arriving b i).released b (x.joined i) := by
  have hi : i < 64 := BitVec.lt_of_getLsbD hm
  have hrecs := recs_arriving hlen hb hx (i := i)
  refine settleRecs_one (by rw [hrecs, List.length_set, hlen]) (by rw [hrecs, List.getElem?_set_self (hlen ▸ hb)])
    (completes_of_met ?_ fun j z hz hmj => ?_) fun k y hk hne => ?_
  · intro h0
    have hm' : (x.joined i).members.getLsbD i = true := hm
    rw [h0] at hm'
    simp at hm'
  · have hmj' : x.members.getLsbD j = true := hmj
    show (x.arrived ||| (1#64 <<< i)).getLsbD j = true ∨ _
    rw [getLsbD_or_bit hi]
    by_cases hji : j = i
    · exact .inl (by rw [decide_eq_true hji, Bool.or_true])
    · rw [lanes_arriving_ne _ hji] at hz
      exact (hall j z hz hji hmj').imp_left fun ha => by rw [ha, Bool.true_or]
  · have hinc := others_incomplete hlen hb hx hothers k y hk hne
    exact ⟨hinc.elim (completes_of_idle _) completes_of_awaits,
      hinc.elim (completes_of_idle _) fun ha => completes_of_awaits (awaits_released ha)⟩

end

/-! ### Loops -/

theorem groups_check (w : Work) (f : State → LRef → Verdict) : (w.check f).s.groups = w.s.groups := by rw [Work.check_s]

theorem fetch_groups {w v : Work} {a : DWord} {x : Word} (he : w.fetch a = (v, some x)) : v.s.groups = w.s.groups := by
  have hleave : ∀ {u : Work}, (u, (none : Option Word)) = (v, some x) → v.s.groups = w.s.groups := fun h => by cases (Prod.mk.inj h).2
  have hkeep : ∀ {u : Work} {y : Word}, u.s.groups = w.s.groups → (u, some y) = (v, some x) → v.s.groups = w.s.groups := fun hu h => by
    rw [← (Prod.mk.inj h).1]
    exact hu
  have hs := groups_check w fun s r => fetchVerdict (s.lane r) a
  rw [Work.fetch] at he
  generalize w.check (fun s r => fetchVerdict (s.lane r) a) = c at he hs
  dsimp only at he
  split at he
  · exact hleave he
  · split at he
    · split at he
      · exact hleave he
      · exact hkeep hs he
    · next core _ =>
      have hlocate : ∀ (die asid : Nat), (c.s.locate (some core) die asid a.toNat .fetch).1.groups = w.s.groups := fun die asid =>
        ((locate_onlyTlbs c.s (some core) die asid a.toNat .fetch).keep (·.groups) fun _ _ _ => rfl).trans hs
      split at he
      · exact hleave he
      · next heq =>
        have hg := (congrArg (fun p => p.1.groups) heq).symm.trans (hlocate _ _)
        dsimp only at hg
        split at he
        · exact hleave he
        · split at he
          · exact hleave he
          · refine hkeep ?_ he
            split <;> exact hg
      · next heq =>
        have hg := (congrArg (fun p => p.1.groups) heq).symm.trans (hlocate _ _)
        split at he
        · exact hleave he
        · exact hkeep hg he

theorem fetchWords_groups {v : Work} {ys : List Word} : ∀ {n : Nat} {w : Work} {a : DWord} {ws : List Word},
    fetchWords w a n ws = (v, some ys) → v.s.groups = w.s.groups
  | 0, w, a, ws, he => by
    rw [← (Prod.mk.inj he).1]
  | n + 1, w, a, ws, he => by
    rw [fetchWords] at he
    split at he
    · cases (Prod.mk.inj he).2
    · next heq => exact (fetchWords_groups he).trans (fetch_groups heq)

section
variable {s : State} {l : Latch} {r : LRef} (h : Alone s l r)
include h

/-- Where a lane is behind loop, with the value of the count. -/
def loopStart (l : Latch) (n : Nat) (body : List Word) (c : Word) (x : Lane) : Lane :=
  if c = 0 then goOn x (x.code.at (l.pc + 4 * BitVec.ofNat 64 (n + 1)))
  else { goOn x (x.code.at (l.pc + 4)) with
    loop := some { n := c, p := 0, i := 0, len := n, steps := l.hints.lsteps, body := body.map fun w => ⟨w, false⟩ } }

theorem exec_loop_fetched {d : Reg} {len : BitVec 6} {v : State} {body : List Word}
    (hfetch : fetchWords (s.work l) (l.pc + 4) (len.toNat + 1) [] = (v.work l, some body))
    (hlegal : loopError (match l.agent with | .kcore _ => true | .core _ => false) l.run body = none) (hf : InRange v l [rfld codeD d])
    (hp : (rd v l r codeD d).poison = false) : exec (.loop d len) s = .next ((counted v l [rfld codeD d]).modLane r
      (loopStart l (len.toNat + 1) body (rd v l r codeD d).val)) := by
  have h0 := tallied_counted hf
  have hgroups : v.groups = s.groups := fetchWords_groups hfetch
  show execLoop d len s = _
  rw [execLoop, withGather_latched h.ready.latched]
  have hl : (s.work l).l = l := rfl
  simp only [hl, hfetch, show (v.work l).l = l from rfl, sources_counted hf none rfl]
  split
  · next off bad heq => exact absurd (heq.symm.trans hlegal) (by simp)
  generalize counted v l [rfld codeD d] = u at h0 ⊢
  have hreg : (u.work l).regOf r codeD d = rd v l r codeD d := h0.rd l r codeD d
  simp only [show (u.work l).live = [r] from h.only, List.foldl_cons, List.foldl_nil, hreg, hp, Bool.false_eq_true, if_false]
  refine h.quiet (u.modLane r (loopStart l (len.toNat + 1) body (rd v l r codeD d).val)) ?_
    (Work.passZero { s := u.modLane r _, l := l, live := [], traps := l.late }) rfl rfl h.late
  rw [group_modLane_taskKill, h0.group, State.group, hgroups]
  exact h.plain

end

/-- A group whose lanes held at a record go on behind it, as the statement writes it. -/
theorem released_arriving {g : Group} {b i : Nat} {x : Rec} {pc : DWord} (hrecs : (g.arriving b i).recs = g.recs.set b (x.joined i))
    (hpc : pc = x.target) : (g.arriving b i).released b (x.joined i) =
      { g with
        recs := g.recs.set b {}
        lanes := (g.lanes.modify i fun x => { x with heldA := none, heldB := none, status := LaneStatus.held b }).map fun y =>
          if y.status = .held b then { y with status := .ready, code := y.code.at (pc + 4) } else y } := by
  have hset : (g.arriving b i).recs.set b {} = g.recs.set b {} := by rw [hrecs, List.set_set]
  rw [Group.released, hset, hpc]
  refine congrArg (fun ls => { g with recs := g.recs.set b {}, lanes := ls }) (List.map_congr_left fun y _ => ?_)
  simp only [beq_iff_eq]
  rfl

/-- Settles O42: settling the records of the group releases the lanes of the one that is complete, and of no other. -/
theorem reconvergenceAndLoopResults : Obligations.ReconvergenceAndLoopResults := by
  refine ⟨fun s l r h => ?_, fun s l r d len v body h hfetch hlegal hf hp => ?_⟩
  · dsimp only
    refine ⟨fun b imm hfree => exec_rcvset_free h hfree, fun b hb => ⟨fun hs hm => exec_rcvwait_other h hs hm,
      fun hm hpc hlen hothers hgroups => ?_⟩⟩
    have hrecs := recs_arriving hlen hb rfl (i := r.2)
    have h0 := tallied_counted (inRange_nil s l)
    rw [exec_rcvwait_member h hm hpc, modGroup_twice _ _ (Group.arriving b.toNat r.2) Group.settleRecs fun _ => rfl]
    refine ⟨fun hwait => congrArg Host.Outcome.next (modGroup_congr fun g hg hid => ?_),
      fun hall => congrArg Host.Outcome.next (modGroup_congr fun g hg hid => ?_)⟩
    · rw [hgroups g (h0.groups ▸ hg) hid, Function.comp_apply, settle_arriving_waits hlen hb rfl hm hothers hwait]
      exact congrArg (fun rs => { Group.arriving b.toNat r.2 (s.group r.1) with recs := rs }) hrecs
    · rw [hgroups g (h0.groups ▸ hg) hid, Function.comp_apply, settle_arriving_completes hlen hb rfl hm hothers hall]
      exact released_arriving hrecs hpc
  · dsimp only
    rw [exec_loop_fetched h hfetch hlegal hf hp]
    exact ⟨fun hn => by rw [hn]; rfl, fun hn => congrArg (fun f => Host.Outcome.next (State.modLane _ r f)) (funext fun x => if_neg hn)⟩

end Sys2Proof.Machine
end

section
/-!
PROOFS. The words of a barrier object, and what an operation on it leaves alone (R213 to R217).
-/

namespace Sys2Proof.Machine

open Sys2Proof Sys2Proof.Machine.Claims

/-! ### Bytes and words of a memory -/

theorem leNat_leBytes : ∀ (n x : Nat), leNat (leBytes n x) = x % 256 ^ n
  | 0, x => by rw [leBytes, leNat, pow_zero, Nat.mod_one]
  | n + 1, x => by
    rw [leBytes, leNat, leNat_leBytes n, BitVec.toNat_ofNat]
    exact (Nat.mod_mul (x := x) (a := 256) (b := 256 ^ n)).symm.trans (congrArg (x % ·) (Nat.pow_succ' (m := 256)).symm)

theorem leBytes_length : ∀ (n x : Nat), (leBytes n x).length = n
  | 0, _ => rfl
  | n + 1, x => congrArg (· + 1) (leBytes_length n (x / 256))

theorem Memory.bytes_congr {m k : Memory} : ∀ {n a c : Nat}, (∀ i, i < n → m.byte (a + i) = k.byte (c + i)) → m.bytes a n = k.bytes c n
  | 0, _, _, _ => rfl
  | n + 1, a, c, h => by
    rw [Memory.bytes, Memory.bytes, show m.byte a = k.byte c from h 0 (Nat.succ_pos n)]
    refine congrArg _ (Memory.bytes_congr fun i hi => ?_)
    rw [Nat.add_assoc, Nat.add_assoc, Nat.add_comm 1]
    exact h (i + 1) (Nat.succ_lt_succ hi)

theorem Memory.byte_writeWord {m : Memory} (h : m.wf = true) (u a x : Nat) (w : PWord) :
    (m.writeWord u a w).byte x = if a ≤ x ∧ x < a + 4 then (leBytes 4 w.val.toNat).getD (x - a) 0 else m.byte x := by
  have hb : (m.writeWord u a w).byte x = (m.setBytes a (leBytes 4 w.val.toNat)).byte x := by
    rw [Memory.writeWord]
    split <;> rfl
  rw [hb, Memory.byte_setBytes h, leBytes_length]

theorem Memory.bytes_writeWord_self {m : Memory} (h : m.wf = true) (u a : Nat) (w : PWord) :
    (m.writeWord u a w).bytes a 4 = leBytes 4 w.val.toNat := by
  have hlen := leBytes_length 4 w.val.toNat
  have hbyte : ∀ i, i < 4 → (m.writeWord u a w).byte (a + i) = (leBytes 4 w.val.toNat).getD i 0 := fun i hi => by
    rw [Memory.byte_writeWord h, if_pos ⟨Nat.le_add_right a i, Nat.add_lt_add_left hi a⟩, Nat.add_sub_cancel_left]
  rw [Memory.bytes, Memory.bytes, Memory.bytes, Memory.bytes, Memory.bytes, Nat.add_assoc, Nat.add_assoc, hbyte 1 (by decide),
    hbyte (1 + 1) (by decide), hbyte (1 + (1 + 1)) (by decide), show (m.writeWord u a w).byte a = _ from hbyte 0 (by decide)]
  rfl

/-! ### The words of an object -/

section
variable {b : Block} (h : b.scratch.wf = true) (off i : Nat) (w : Word)
include h

theorem wf_setObj : (b.setObj off i w).scratch.wf = true := Memory.writeWord_wf h 8 (off + 4 * i) _

theorem objWord_setObj (j : Nat) : (b.setObj off i w).objWord off j = if j = i then w else b.objWord off j := by
  rw [Block.objWord, Block.setObj, Memory.word]
  dsimp only
  split
  · next hj =>
    rw [hj, Memory.bytes_writeWord_self h, leNat_leBytes]
    exact BitVec.eq_of_toNat_eq (by
      rw [BitVec.toNat_ofNat]
      exact (Nat.mod_mod _ _).trans (Nat.mod_eq_of_lt w.isLt))
  · next hj =>
    rw [Block.objWord, Memory.word]
    refine congrArg (fun bs => BitVec.ofNat 32 (leNat bs)) (Memory.bytes_congr fun k hk => ?_)
    rw [Memory.byte_writeWord h, if_neg (by omega)]

theorem byte_setObj (hi : i < 4) {x : Nat} (hx : x < off ∨ off + 16 ≤ x) : (b.setObj off i w).scratch.byte x = b.scratch.byte x := by
  rw [Block.setObj]
  dsimp only
  rw [Memory.byte_writeWord h, if_neg (by omega)]

end

/-- `c` is `b` but for the object's 16 bytes and the roster, and its scratchpad is in canonical form. -/
structure Touched (off : Nat) (b c : Block) : Prop where
  rest : { c with scratch := {}, roster := [] } = { b with scratch := {}, roster := [] }
  bytes : ∀ x, x < off ∨ off + 16 ≤ x → c.scratch.byte x = b.scratch.byte x
  wf : c.scratch.wf = true

theorem Touched.refl {off : Nat} {b : Block} (h : b.scratch.wf = true) : Touched off b b := ⟨rfl, fun _ _ => rfl, h⟩

theorem Touched.trans {off : Nat} {b c d : Block} (h : Touched off b c) (k : Touched off c d) : Touched off b d :=
  ⟨k.rest.trans h.rest, fun x hx => (k.bytes x hx).trans (h.bytes x hx), k.wf⟩

theorem Touched.setObj {off : Nat} {b c : Block} (h : Touched off b c) {i : Nat} (hi : i < 4) (w : Word) : Touched off b (c.setObj off i w) :=
  h.trans ⟨rfl, fun _ hx => byte_setObj h.wf off i w hi hx, wf_setObj h.wf off i w⟩

theorem Touched.roster {off : Nat} {b c : Block} (h : Touched off b c) (rs : List (Nat × Roster)) : Touched off b { c with roster := rs } :=
  ⟨h.rest, h.bytes, h.wf⟩

/-! ### States that differ in an object -/

/-- `v` is `s` but for perf counts, the object's 16 bytes, and the block's roster. -/
structure AtObject (s v : State) (bid off : Nat) : Prop where
  ctxs : ∀ c, (v.ctx c).noPerf = (s.ctx c).noPerf
  block : Touched off (s.block bid) (v.block bid)
  blocks : ∀ b, b ≠ bid → v.block b = s.block b
  rest : { v with ctxs := s.ctxs, blocks := s.blocks } = s
  held : (v.blocks.any fun x => x.bid == bid) = true

section
variable {s v : State} {bid off : Nat} (h : AtObject s v bid off)

theorem AtObject.of_tallied {u : State} (h0 : Tallied s u) (hheld : (s.blocks.any fun x => x.bid == bid) = true)
    (hwf : (s.block bid).scratch.wf = true) : AtObject s u bid off where
  ctxs := h0.ctxs
  block := by rw [h0.block]; exact .refl hwf
  blocks b _ := h0.block b
  rest := by
    have hrest := h0.rest
    exact (congrArg (fun x : State => { x with blocks := s.blocks }) hrest)
  held := by rw [h0.blocks]; exact hheld

include h

theorem AtObject.modBlock {f : Block → Block} (hf : ∀ b, (f b).bid = b.bid) (ht : Touched off (v.block bid) (f (v.block bid))) :
    AtObject s (v.modBlock bid f) bid off where
  ctxs := h.ctxs
  block := by rw [block_modBlock_self v bid hf h.held]; exact h.block.trans ht
  blocks b hb := by rw [block_modBlock_ne v bid hf hb]; exact h.blocks b hb
  rest := h.rest
  held := by
    rw [State.modBlock, List.any_map]
    refine Eq.trans (congrArg v.blocks.any (funext fun x => ?_)) h.held
    exact congrArg (· == bid) (modBlock_bid bid hf x)

theorem AtObject.count (c i n : Nat) : AtObject s (v.count c i n) bid off where
  ctxs k := by
    rw [← h.ctxs k, State.count]
    by_cases hk : k = c
    · rw [hk, ctx_modCtx_self]
      rfl
    · rw [ctx_modCtx_ne v hk]
  block := h.block
  blocks := h.blocks
  rest := h.rest
  held := h.held

/-- What a field that no perf count and no block is part of holds. -/
theorem AtObject.keep {α : Type} (p : State → α) (hp : ∀ (x : State) (k : List (Nat × Ctx)) (bs : List Block),
    p { x with ctxs := k, blocks := bs } = p x) : p v = p s := by
  rw [← hp v s.ctxs s.blocks, h.rest]

theorem AtObject.groups : v.groups = s.groups := h.keep (·.groups) fun _ _ _ => rfl
theorem AtObject.group (x : Nat) : v.group x = s.group x := h.keep (·.group x) fun _ _ _ => rfl
theorem AtObject.lane (q : LRef) : v.lane q = s.lane q := h.keep (·.lane q) fun _ _ _ => rfl

/-- An operation on lanes behind one on the object. -/
theorem AtObject.objectOnly {t : State} {r : LRef} (ht : { t with groups := v.groups } = v) (hlanes : ∀ q, q ≠ r → t.lane q = v.lane q)
    (hgroups : ∀ g, { (t.group g).shell with csum := 0 } = { (v.group g).shell with csum := 0 }) : ObjectOnly s t r bid off := by
  have hctx : ∀ c, t.ctx c = v.ctx c := fun c => (congrArg (·.ctx c) ht :)
  have hblock : ∀ b, t.block b = v.block b := fun b => (congrArg (·.block b) ht :)
  refine ⟨fun q hq => (hlanes q hq).trans (h.lane q), fun g => (hgroups g).trans (by rw [h.group]), fun c => by rw [hctx]; exact h.ctxs c,
    fun a ha => by rw [hblock]; exact h.block.bytes a ha, by rw [hblock]; exact h.block.rest, fun b hb => by rw [hblock]; exact h.blocks b hb, ?_⟩
  have hback : { t with groups := s.groups } = v := by
    rw [← h.groups]
    exact ht
  exact (congrArg (fun x : State => { x with ctxs := s.ctxs, blocks := s.blocks }) hback).trans h.rest

end

/-! ### Operations on an object -/

/-- The block with one arrival more at an object that already has `arrived`. -/
def Block.arriving (off slot arrived expected : Nat) (now : Word) (entry : Nat) (e : Roster) (b : Block) : Block :=
  let b := if arrived = 0 then (b.setObj off 2 now).setObj off 3 (BitVec.ofNat 32 (slot * 256 + entry % 32)) else b
  { b.setObj off 0 (barWord (arrived + 1) expected) with roster := tput slot e b.roster }

/-- The block with an object's counts set. -/
def Block.counting (off slot : Nat) (w : Word) (e : Roster) (b : Block) : Block :=
  { b.setObj off 0 w with roster := tput slot e b.roster }

/-- The block with the words of an object in its next phase. -/
def Block.nextPhase (off slot expected : Nat) (b : Block) : Block :=
  ((((b.setObj off 1 (b.objWord off 1 + 1)).setObj off 2 0).setObj off 3 (BitVec.ofNat 32 (slot * 256))).setObj off 0
    (if expected = 0 then 0 else barWord 0 expected))

/-- The roster behind a completed phase. -/
def nextRoster (slot expected : Nat) (e : Roster) (rec' : Straggler) (rs : List (Nat × Roster)) : List (Nat × Roster) :=
  if expected = 0 then tdel slot rs else tput slot { e with arrived := 0, began := false, record := rec' } rs

/-- The block with an object in its next phase. -/
def Block.advancing (off slot expected : Nat) (e : Roster) (rec' : Straggler) (b : Block) : Block :=
  let b := b.nextPhase off slot expected
  { b with roster := nextRoster slot expected e rec' b.roster }

theorem bid_setObj (b : Block) (off i : Nat) (w : Word) : (b.setObj off i w).bid = b.bid := rfl

theorem bid_advancing (off slot expected : Nat) (e : Roster) (rec' : Straggler) (b : Block) :
    (b.advancing off slot expected e rec').bid = b.bid := by
  simp only [Block.advancing, Block.nextPhase, bid_setObj]

theorem bid_counting (off slot : Nat) (w : Word) (e : Roster) (b : Block) : (b.counting off slot w e).bid = b.bid := rfl

theorem bid_arriving (off slot arrived expected : Nat) (now : Word) (entry : Nat) (e : Roster) (b : Block) :
    (b.arriving off slot arrived expected now entry e).bid = b.bid := by
  simp only [Block.arriving, bid_setObj]
  split <;> simp only [bid_setObj]

section
variable {b : Block} (h : b.scratch.wf = true) (off slot : Nat)
include h

theorem touched_arriving (arrived expected : Nat) (now : Word) (entry : Nat) (e : Roster) :
    Touched off b (b.arriving off slot arrived expected now entry e) := by
  have hb := Touched.refl (off := off) h
  rw [Block.arriving]
  refine Touched.roster (Touched.setObj ?_ (by decide) _) _
  split
  · exact (hb.setObj (by decide) _).setObj (by decide) _
  · exact hb

theorem touched_counting (w : Word) (e : Roster) : Touched off b (b.counting off slot w e) :=
  ((Touched.refl h).setObj (by decide) w).roster _

theorem touched_advancing (expected : Nat) (e : Roster) (rec' : Straggler) : Touched off b (b.advancing off slot expected e rec') :=
  (((((Touched.refl h).setObj (by decide) _).setObj (by decide) _).setObj (by decide) _).setObj (by decide) _).roster _

/-- The four words of an object in a block. -/
def Block.words (b : Block) (off : Nat) : List Word := (List.range 4).map fun i => b.objWord off i

omit h in
theorem words_eq (b : Block) : b.words off = [b.objWord off 0, b.objWord off 1, b.objWord off 2, b.objWord off 3] := rfl

omit h in
theorem objWord_roster (b : Block) (rs : List (Nat × Roster)) (i : Nat) : Block.objWord { b with roster := rs } off i = b.objWord off i := rfl

theorem words_counting (w : Word) (e : Roster) :
    (b.counting off slot w e).words off = [w, b.objWord off 1, b.objWord off 2, b.objWord off 3] := by
  simp only [words_eq, Block.counting, objWord_roster, objWord_setObj h]
  rfl

theorem words_advancing (expected : Nat) (e : Roster) (rec' : Straggler) : (b.advancing off slot expected e rec').words off =
    [if expected = 0 then 0 else barWord 0 expected, b.objWord off 1 + 1, 0, BitVec.ofNat 32 (slot * 256)] := by
  have h1 := wf_setObj h off 1 (b.objWord off 1 + 1)
  have h2 := wf_setObj h1 off 2 0
  have h3 := wf_setObj h2 off 3 (BitVec.ofNat 32 (slot * 256))
  simp only [words_eq, Block.advancing, objWord_roster, Block.nextPhase, objWord_setObj h, objWord_setObj h1, objWord_setObj h2, objWord_setObj h3]
  rfl

theorem words_arriving (arrived expected : Nat) (now : Word) (entry : Nat) (e : Roster) :
    (b.arriving off slot arrived expected now entry e).words off = [barWord (arrived + 1) expected, b.objWord off 1,
      if arrived = 0 then now else b.objWord off 2,
      if arrived = 0 then BitVec.ofNat 32 (slot * 256 + entry % 32) else b.objWord off 3] := by
  rw [Block.arriving]
  by_cases h0 : arrived = 0
  · have h2 := wf_setObj h off 2 now
    have h3 := wf_setObj h2 off 3 (BitVec.ofNat 32 (slot * 256 + entry % 32))
    simp only [if_pos h0, words_eq, objWord_roster, objWord_setObj h, objWord_setObj h2, objWord_setObj h3]
    rfl
  · simp only [if_neg h0, words_eq, objWord_roster, objWord_setObj h]
    rfl

end

theorem arrive_eq (s : State) (t : Whose) (off slot : Nat) (e : Roster) : s.arrive t off slot e =
    (let b := s.block t.block
     let e' := { e with arrived := mset e.arrived t.tidx, began := true }
     let v := s.modBlock t.block (Block.arriving off slot (b.arrivedAt off) (b.expectedAt off) (s.clock (b.homeCore off)) (fusedEntry t.core) e')
     if b.arrivedAt off + 1 = b.expectedAt off then v.completePhase t off slot e' else v) := rfl

theorem dropFrom_eq (s : State) (t : Whose) (off slot : Nat) (e : Roster) : s.dropFrom t off slot e =
    (let b := s.block t.block
     let arrived := if mbit e.arrived t.tidx then b.arrivedAt off - 1 else b.arrivedAt off
     let expected := b.expectedAt off - 1
     let e' := { e with arrived := mclr e.arrived t.tidx, dropped := mset e.dropped t.tidx }
     let v := s.modBlock t.block (Block.counting off slot (barWord arrived expected) e')
     if expected = 0 ∨ (arrived = expected ∧ 0 < arrived) then v.completePhase t off slot e' else v) := rfl

/-- What a completion writes into the roster. -/
def phaseRecord (s : State) (t : Whose) (off : Nat) (e : Roster) : Straggler :=
  mkStraggler s t 0 (if e.began then field ((s.block t.block).objWord off 3) 0 5 else fusedEntry t.core)
    (if e.began then (s.block t.block).objWord off 2 else s.clock ((s.block t.block).homeCore off)) (s.clock ((s.block t.block).homeCore off))

theorem completePhase_eq (s : State) (t : Whose) (off slot : Nat) (e : Roster) : s.completePhase t off slot e =
    (s.modBlock t.block (Block.advancing off slot ((s.block t.block).expectedAt off) e (phaseRecord s t off e))).count
      (s.grid (s.block t.block).grid).ctx 7 1 := rfl

end Sys2Proof.Machine
end

section
/-!
PROOFS. Barrier objects (R213 to R221), with one lane.
-/

namespace Sys2Proof.Machine

open Sys2Proof Sys2Proof.Machine.Claims

/-! ### Counts in word 0 -/

theorem expected_barWord (a e : Nat) : field (barWord a e) 0 12 = e % 4096 := by
  rw [field, barWord, BitVec.toNat_ofNat]
  omega

theorem expectedAt_lt (b : Block) (off : Nat) : b.expectedAt off < 4096 := Nat.mod_lt _ (by decide)

theorem expectedAt_of_words {b : Block} {off a e : Nat} {x y z : Word} (h : b.words off = [barWord a e, x, y, z]) :
    b.expectedAt off = e % 4096 := by
  have h0 : b.objWord off 0 = barWord a e := (List.cons.inj h).1
  rw [Block.expectedAt, h0, expected_barWord]

theorem armedWord_eq (a e : Nat) : armedWord a e = barWord a e := rfl

theorem objWord_one_of_words {b : Block} {off : Nat} {x y z w : Word} (h : b.words off = [x, y, z, w]) : b.objWord off 1 = y :=
  (List.cons.inj (List.cons.inj h).2).1

/-! ### Straggler records of a phase -/

theorem stragWords_mod {s : State} {r : LRef} {kind f k : Nat} {first last : Word} (h : f % 32 = k % 32) :
    stragWords s r kind f first last = stragWords s r kind k first last := by
  rw [stragWords, stragWords, h]

theorem field_low5 (w : Word) : field w 0 5 = w.toNat % 32 := by
  rw [field, Nat.pow_zero, Nat.div_one]
  rfl

theorem block_count (s : State) (c i n b : Nat) : (s.count c i n).block b = s.block b := rfl

theorem tget_nextRoster {slot expected : Nat} (h : expected ≠ 0) (e : Roster) (rec' : Straggler) (rs : List (Nat × Roster)) :
    tget slot (nextRoster slot expected e rec' rs) = some { e with arrived := 0, began := false, record := rec' } := by
  rw [nextRoster, if_neg h, tget_tput_self]

section
variable {s v : State} {bid off : Nat} (h : AtObject s v bid off)
include h

theorem AtObject.homeCore : (v.block bid).homeCore off = (s.block bid).homeCore off := (congrArg (·.homeCore off) h.block.rest :)

theorem AtObject.clock (c : Nat) : v.clock c = s.clock c := h.keep (·.clock c) fun _ _ _ => rfl

theorem AtObject.grid (n : Nat) : v.grid n = s.grid n := h.keep (·.grid n) fun _ _ _ => rfl

theorem AtObject.whose (r : LRef) : v.whose r = s.whose r := h.keep (·.whose r) fun _ _ _ => rfl

theorem AtObject.index : (v.block bid).index = (s.block bid).index := (congrArg (·.index) h.block.rest :)

theorem AtObject.stragWords {r : LRef} (hr : (s.group r.1).block = bid) (kind f : Nat) (first last : Word) :
    stragWords v r kind f first last = stragWords s r kind f first last := by
  rw [Claims.stragWords, Claims.stragWords, h.group, hr, h.index]

/-- Completing a phase: the words of the object, and the record in the roster. -/
theorem AtObject.completePhase {r : LRef} (hr : (s.group r.1).block = bid) (slot : Nat) (e : Roster) :
    AtObject s (v.completePhase (s.whose r) off slot e) bid off ∧
    ((v.completePhase (s.whose r) off slot e).block bid).words off = [if (v.block bid).expectedAt off = 0 then 0
      else barWord 0 ((v.block bid).expectedAt off), (v.block bid).objWord off 1 + 1, 0, BitVec.ofNat 32 (slot * 256)] ∧
    ((v.block bid).expectedAt off ≠ 0 → Recorded (v.completePhase (s.whose r) off slot e) bid slot
      (Claims.stragWords s r 0 (if e.began then field ((v.block bid).objWord off 3) 0 5 else fusedEntry (s.group r.1).coreOf)
        (if e.began then (v.block bid).objWord off 2 else s.clock ((s.block bid).homeCore off)) (s.clock ((s.block bid).homeCore off)))) := by
  have ht : (s.whose r).block = bid := hr
  have hrec : (phaseRecord v (s.whose r) off e).words = Claims.stragWords s r 0
      (if e.began then field ((v.block bid).objWord off 3) 0 5 else fusedEntry (s.group r.1).coreOf)
      (if e.began then (v.block bid).objWord off 2 else s.clock ((s.block bid).homeCore off)) (s.clock ((s.block bid).homeCore off)) := by
    rw [phaseRecord, ht, h.clock, h.homeCore, ← h.whose r, words_mkStraggler v r (by decide), h.stragWords hr]
    rw [h.whose r]
    rfl
  rw [completePhase_eq, ht]
  generalize hx : phaseRecord v (s.whose r) off e = x at hrec ⊢
  have hbid : ∀ b, (Block.advancing off slot ((v.block bid).expectedAt off) e x b).bid = b.bid := bid_advancing off slot _ e x
  have htouched := touched_advancing h.block.wf off slot ((v.block bid).expectedAt off) e x
  have hwords := words_advancing h.block.wf off slot ((v.block bid).expectedAt off) e x
  have hroster : (v.block bid).expectedAt off ≠ 0 → tget slot (Block.advancing off slot ((v.block bid).expectedAt off) e x (v.block bid)).roster =
      some { e with arrived := 0, began := false, record := x } := fun hne => tget_nextRoster hne e x _
  generalize Block.advancing off slot ((v.block bid).expectedAt off) e x = f at hbid htouched hwords hroster ⊢
  have hself := block_modBlock_self v bid hbid h.held
  refine ⟨(h.modBlock hbid htouched).count _ 7 1, ?_, fun hne => ?_⟩
  · rw [block_count, hself, hwords]
  · rw [Recorded, block_count, hself]
    exact ⟨_, hroster hne, rfl, hrec⟩

end

section
variable {s u : State} {r : LRef} {off slot : Nat} {e : Roster} (h0 : Tallied s u)
  (hheld : (s.blocks.any fun x => x.bid == (s.group r.1).block) = true) (hwf : (s.block (s.group r.1).block).scratch.wf = true)
include h0 hheld hwf

/-- The words of an object behind an arrival that is not the last. -/
def arrivedWords (s : State) (r : LRef) (off slot : Nat) : List Word :=
  let b := s.block (s.group r.1).block
  [barWord (b.arrivedAt off + 1) (b.expectedAt off), b.objWord off 1,
   if b.arrivedAt off = 0 then s.clock (b.homeCore off) else b.objWord off 2,
   if b.arrivedAt off = 0 then BitVec.ofNat 32 (slot * 256 + fusedEntry (s.group r.1).coreOf % 32) else b.objWord off 3]

omit h0 hheld hwf in
theorem fused_low (r : LRef) : (BitVec.ofNat 32 (slot * 256 + fusedEntry (s.group r.1).coreOf % 32)).toNat % 32 =
    fusedEntry (s.group r.1).coreOf % 32 := by
  rw [BitVec.toNat_ofNat]
  omega

/-- The state behind an arrival: it has only touched the object. -/
theorem arrive_claims :
    AtObject s (u.arrive (s.whose r) off slot e) (s.group r.1).block off ∧
    (let b := s.block (s.group r.1).block
     let now := s.clock (b.homeCore off)
     let fused := fusedEntry (s.group r.1).coreOf
     (b.arrivedAt off + 1 = b.expectedAt off → Recorded (u.arrive (s.whose r) off slot e) (s.group r.1).block slot
        (Claims.stragWords s r 0 (if b.arrivedAt off = 0 then fused else (b.objWord off 3).toNat % 32)
          (if b.arrivedAt off = 0 then now else b.objWord off 2) now)) ∧
     ((u.arrive (s.whose r) off slot e).block (s.group r.1).block).words off = if b.arrivedAt off + 1 = b.expectedAt off then
        [barWord 0 (b.expectedAt off), b.objWord off 1 + 1, 0, BitVec.ofNat 32 (slot * 256)] else arrivedWords s r off slot) := by
  have hu : AtObject s u (s.group r.1).block off := .of_tallied h0 hheld hwf
  have ht : (s.whose r).block = (s.group r.1).block := rfl
  dsimp only
  rw [arrive_eq, ht, h0.block]
  dsimp only
  rw [hu.clock]
  have hlt := expectedAt_lt (s.block (s.group r.1).block) off
  generalize he' : ({ e with arrived := mset e.arrived (s.whose r).tidx, began := true } : Roster) = e'
  have hbegan : e'.began = true := by rw [← he']
  have hbid := bid_arriving off slot ((s.block (s.group r.1).block).arrivedAt off) ((s.block (s.group r.1).block).expectedAt off)
    (s.clock ((s.block (s.group r.1).block).homeCore off)) (fusedEntry (s.whose r).core) e'
  have htouched := touched_arriving hwf off slot ((s.block (s.group r.1).block).arrivedAt off) ((s.block (s.group r.1).block).expectedAt off)
    (s.clock ((s.block (s.group r.1).block).homeCore off)) (fusedEntry (s.whose r).core) e'
  have hwords := words_arriving hwf off slot ((s.block (s.group r.1).block).arrivedAt off) ((s.block (s.group r.1).block).expectedAt off)
    (s.clock ((s.block (s.group r.1).block).homeCore off)) (fusedEntry (s.whose r).core) e'
  generalize Block.arriving off slot ((s.block (s.group r.1).block).arrivedAt off) ((s.block (s.group r.1).block).expectedAt off)
    (s.clock ((s.block (s.group r.1).block).homeCore off)) (fusedEntry (s.whose r).core) e' = f at hbid htouched hwords ⊢
  have hself : (u.modBlock (s.group r.1).block f).block (s.group r.1).block = f (s.block (s.group r.1).block) := by
    rw [block_modBlock_self u _ hbid hu.held, h0.block]
  have hv := hu.modBlock hbid (by rw [h0.block]; exact htouched)
  generalize u.modBlock (s.group r.1).block f = v at hself hv ⊢
  rw [← hself] at hwords
  by_cases hlast : (s.block (s.group r.1).block).arrivedAt off + 1 = (s.block (s.group r.1).block).expectedAt off
  · simp only [if_pos hlast]
    obtain ⟨hat, hfin, hrec⟩ := hv.completePhase rfl slot e'
    have hexp : (v.block (s.group r.1).block).expectedAt off = (s.block (s.group r.1).block).expectedAt off :=
      (expectedAt_of_words hwords).trans (Nat.mod_eq_of_lt hlt)
    have hne : (s.block (s.group r.1).block).expectedAt off ≠ 0 := by omega
    rw [words_eq] at hwords
    obtain ⟨-, hw1, hw2, hw3⟩ : _ ∧ (v.block (s.group r.1).block).objWord off 1 = _ ∧ (v.block (s.group r.1).block).objWord off 2 = _ ∧
        (v.block (s.group r.1).block).objWord off 3 = _ := by simpa using hwords
    rw [hexp, hw1, if_neg hne] at hfin
    refine ⟨hat, fun _ => ?_, hfin⟩
    have hrec' := hrec (by rw [hexp]; exact hne)
    rw [hbegan, if_pos rfl, if_pos rfl, hw2, hw3] at hrec'
    rw [stragWords_mod] at hrec'
    · exact hrec'
    · rw [field_low5]
      split
      · rw [Nat.mod_mod]
        exact fused_low r
      · rfl
  · simp only [if_neg hlast]
    exact ⟨hv, fun he => absurd he hlast, hwords⟩

/-- The state behind a drop of a thread that has not arrived: it has only touched the object. -/
theorem dropFrom_claims (hfresh : mbit e.arrived ((s.group r.1).tidx r.2) = false) :
    AtObject s (u.dropFrom (s.whose r) off slot e) (s.group r.1).block off ∧
    (let b := s.block (s.group r.1).block
     let now := s.clock (b.homeCore off)
     let go := b.expectedAt off - 1
     (go ≠ 0 → b.arrivedAt off = go → Recorded (u.dropFrom (s.whose r) off slot e) (s.group r.1).block slot
        (Claims.stragWords s r 0 (if e.began then (b.objWord off 3).toNat % 32 else fusedEntry (s.group r.1).coreOf)
          (if e.began then b.objWord off 2 else now) now)) ∧
     ((u.dropFrom (s.whose r) off slot e).block (s.group r.1).block).words off =
        if go = 0 then [0, b.objWord off 1 + 1, 0, BitVec.ofNat 32 (slot * 256)]
        else if b.arrivedAt off = go ∧ 0 < b.arrivedAt off then [barWord 0 go, b.objWord off 1 + 1, 0, BitVec.ofNat 32 (slot * 256)]
        else [barWord (b.arrivedAt off) go, b.objWord off 1, b.objWord off 2, b.objWord off 3]) := by
  have hu : AtObject s u (s.group r.1).block off := .of_tallied h0 hheld hwf
  have ht : (s.whose r).block = (s.group r.1).block := rfl
  have hhad : mbit e.arrived (s.whose r).tidx = false := hfresh
  dsimp only
  rw [dropFrom_eq, ht, h0.block]
  dsimp only
  rw [hhad]
  simp only [Bool.false_eq_true, if_false]
  have hlt := expectedAt_lt (s.block (s.group r.1).block) off
  generalize he' : ({ e with arrived := mclr e.arrived (s.whose r).tidx, dropped := mset e.dropped (s.whose r).tidx } : Roster) = e'
  have hbegan : e'.began = e.began := by rw [← he']
  generalize hgo : (s.block (s.group r.1).block).expectedAt off - 1 = go
  have hbid := bid_counting off slot (barWord ((s.block (s.group r.1).block).arrivedAt off) go) e'
  have htouched := touched_counting hwf off slot (barWord ((s.block (s.group r.1).block).arrivedAt off) go) e'
  have hwords := words_counting hwf off slot (barWord ((s.block (s.group r.1).block).arrivedAt off) go) e'
  generalize Block.counting off slot (barWord ((s.block (s.group r.1).block).arrivedAt off) go) e' = f at hbid htouched hwords ⊢
  have hself : (u.modBlock (s.group r.1).block f).block (s.group r.1).block = f (s.block (s.group r.1).block) := by
    rw [block_modBlock_self u _ hbid hu.held, h0.block]
  have hv := hu.modBlock hbid (by rw [h0.block]; exact htouched)
  generalize u.modBlock (s.group r.1).block f = v at hself hv ⊢
  rw [← hself] at hwords
  obtain ⟨hat, hfin, hrec⟩ := hv.completePhase (r := r) rfl slot e'
  have hexp : (v.block (s.group r.1).block).expectedAt off = go :=
    (expectedAt_of_words hwords).trans (Nat.mod_eq_of_lt (by omega))
  have hparts := hwords
  rw [words_eq] at hparts
  obtain ⟨-, hw1, hw2, hw3⟩ : _ ∧ (v.block (s.group r.1).block).objWord off 1 = _ ∧ (v.block (s.group r.1).block).objWord off 2 = _ ∧
      (v.block (s.group r.1).block).objWord off 3 = _ := by simpa using hparts
  rw [hexp, hw1] at hfin
  rw [hexp, hbegan, hw2, hw3, field_low5] at hrec
  by_cases hz : go = 0
  · simp only [if_pos hz, if_pos (Or.inl hz : go = 0 ∨ _)]
    rw [if_pos hz] at hfin
    exact ⟨hat, fun hne => absurd hz hne, hfin⟩
  · rw [if_neg hz] at hfin
    simp only [hz, false_or]
    by_cases hlast : (s.block (s.group r.1).block).arrivedAt off = go ∧ 0 < (s.block (s.group r.1).block).arrivedAt off
    · simp only [if_pos hlast]
      exact ⟨hat, fun _ _ => hrec hz, hfin⟩
    · simp only [if_neg hlast]
      exact ⟨hv, fun _ he => absurd ⟨he, by omega⟩ hlast, hwords⟩

end

/-! ### One lane at an object -/

section
variable {s u : State} {l : Latch} {r : LRef} {a : Reg} {off : Nat} (h : Alone s l r) (ho : Obj s l r a off)
include h ho

/-- What an instruction of one operand quad does at the object of its one lane. -/
theorem onObjects_one {B : Work → LRef → PWord} {f : Work → LRef → Nat → Word → Work} (hclean : (B (s.work l) r).poison = false) :
    (s.work l).onObjects a B f = f (s.work l) r off (B (s.work l) r).val := by
  have hv : objVerdict (s.cap r ((s.work l).quadA r a)) (s.quadPoison r ((s.work l).quadA r a)) (B (s.work l) r).poison = none := by
    rw [hclean]
    exact ho.objVerdict
  have hobj : (s.work l).object r (s.cap r ((s.work l).quadA r a)) = (s.work l, some off) := ho.object
  rw [Work.onObjects, show (s.work l).live = [r] from h.only, List.foldl_cons, List.foldl_nil]
  dsimp only
  rw [show (s.work l).s = s from rfl, hv]
  dsimp only
  rw [hobj]

theorem arriveAll_some {kind : Nat} {f : Work → LRef → Nat → Word → Work} {w : Work} {t : Word}
    (hw : (s.work l).arriveLane r off = (w, some t)) :
    (s.work l).arriveAll kind a f = ((f w r off t).foldArrivals kind [(r, t, off)], [(r, t, off)]) := by
  have hv : objVerdict (s.cap r ((s.work l).quadA r a)) (s.quadPoison r ((s.work l).quadA r a)) false = none := ho.objVerdict
  have hobj : (s.work l).object r (s.cap r ((s.work l).quadA r a)) = (s.work l, some off) := ho.object
  rw [Work.arriveAll, show (s.work l).live = [r] from h.only, List.foldl_cons, List.foldl_nil]
  dsimp only
  rw [show (s.work l).s = s from rfl, hv]
  dsimp only
  rw [hobj]
  dsimp only
  rw [hw]
  rfl

theorem arriveAll_none {kind : Nat} {f : Work → LRef → Nat → Word → Work} {w : Work} (hw : (s.work l).arriveLane r off = (w, none)) :
    (s.work l).arriveAll kind a f = (w, []) := by
  have hv : objVerdict (s.cap r ((s.work l).quadA r a)) (s.quadPoison r ((s.work l).quadA r a)) false = none := ho.objVerdict
  have hobj : (s.work l).object r (s.cap r ((s.work l).quadA r a)) = (s.work l, some off) := ho.object
  rw [Work.arriveAll, show (s.work l).live = [r] from h.only, List.foldl_cons, List.foldl_nil]
  dsimp only
  rw [show (s.work l).s = s from rfl, hv]
  dsimp only
  rw [hobj]
  dsimp only
  rw [hw]
  rfl

omit h ho in
theorem memberReason_may {slot : Nat} {e : Roster} (hm : MayArrive s r off slot e) (arrival : Bool) :
    (s.block (s.group r.1).block).memberReason off ((s.group r.1).tidx r.2) arrival = none := by
  rw [Block.memberReason, hm.armed]
  dsimp only
  rw [if_neg (Nat.not_le.2 hm.member), hm.fresh, hm.stays, Bool.and_false]
  rfl

omit ho in
theorem arriveLane_may {slot : Nat} {e : Roster} (h0 : Tallied s u) (hm : MayArrive s r off slot e) : (u.work l).arriveLane r off =
    ((u.arrive (s.whose r) off slot e).work l, some ((s.block (s.group r.1).block).objWord off 1)) := by
  have hreason := memberReason_may hm true
  have hwhose : u.whose r = s.whose r := by rw [State.whose, State.whose, h0.group]
  rw [Work.arriveLane]
  rw [show (u.work l).s = u from rfl, h0.group, h0.block, hm.armed]
  dsimp only
  rw [h0.lane, h.real, hwhose, show (s.whose r).tidx = (s.group r.1).tidx r.2 from rfl, hreason]
  rfl

omit ho in
/-- What is wrong with an arrival strikes the lane. -/
theorem arriveLane_bad {n : Nat} (h0 : Tallied s u) (hn : (s.block (s.group r.1).block).memberReason off ((s.group r.1).tidx r.2) true = some n) :
    (u.work l).arriveLane r off = ((u.work l).strike r 0x0D (barData n off), none) := by
  have hwhose : u.whose r = s.whose r := by rw [State.whose, State.whose, h0.group]
  rw [Work.arriveLane]
  rw [show (u.work l).s = u from rfl, h0.group, h0.block]
  cases harmed : (s.block (s.group r.1).block).armed off with
  | none =>
    rw [Block.memberReason, harmed] at hn
    cases hn
    rfl
  | some x =>
    dsimp only
    rw [h0.lane, h.real, hwhose, show (s.whose r).tidx = (s.group r.1).tidx r.2 from rfl, hn]
    rfl

/-! ### bararr -/

/-- The end of bararr, behind the arrivals of its lanes. -/
def bararrEnd (d : Reg) (lanes : List LRef) (p : Work × List Arrival) : Work :=
  let tokens := p.2.map fun x => (x.1, x.2.1)
  let w := ({ p.1 with live := lanes.filter fun r => p.1.live.contains r } : Work).writeDst (.reg d)
    fun _ r => { val := ((tokens.find? fun x => x.1 == r).map (·.2)).getD 0 }
  { w with s := tokens.foldl (fun (s : State) (x : LRef × Word) => s.modLane x.1 Lane.keepToken) w.s }

omit ho in
theorem exec_bararr_eq {d : Reg} (hf : InRange s l [rfld codeD d, rfld codeA a 4]) : exec (.bararr (.reg d) a) s =
    (bararrEnd d [r] (((counted s l [rfld codeD d, rfld codeA a 4]).work l).arriveAll 0 a fun w _ _ _ => w)).finish := by
  show execBararr (.reg d) a s = _
  rw [execBararr, withGather_latched h.ready.latched, show dstFlds (.reg d) ++ [rfld codeA a 4] = [rfld codeD d, rfld codeA a 4] from rfl,
    sources_counted hf _ rfl]
  generalize counted s l [rfld codeD d, rfld codeA a 4] = u
  have hback : ({ u.work l with live := [r] } : Work) = u.work l := by
    rw [← h.only]
    rfl
  simp only [show (u.work l).live = [r] from h.only, List.filterMap_cons, Lane.tokenFor, Option.map_none, List.filterMap_nil, List.any_nil,
    Bool.not_false, List.filter_cons, List.filter_nil, if_true, List.nil_append, Bool.or_false]
  simp only [hback]
  generalize (u.work l).arriveAll 0 a (fun w _ _ _ => w) = p
  simp only [bararrEnd, List.filter_cons, List.filter_nil]

omit h ho in
theorem advance_keepToken (x : Lane) (pc : DWord) : x.keepToken.advance pc = x.advance pc := by
  unfold Lane.keepToken
  split <;> rfl

omit ho in
theorem bararrEnd_one (v : State) (d : Reg) (t : Word) (k : Nat) : bararrEnd d [r] (v.work l, [(r, t, k)]) =
    ((v.wr r (regNo v l r codeD d) ⟨t, false⟩).modLane r Lane.keepToken).work l := by
  have hlive : ({ v.work l with live := [r].filter fun q => (v.work l).live.contains q } : Work) = v.work l := by
    rw [show (v.work l).live = [r] from h.only]
    simp only [List.filter_cons, List.filter_nil, List.contains_cons, beq_self_eq_true, Bool.true_or, if_true]
    rw [← h.only]
    rfl
  rw [bararrEnd, hlive, h.writeDst_work]
  simp only [List.map_cons, List.map_nil, List.find?_cons_of_pos, beq_self_eq_true, Option.map_some, Option.getD_some, List.foldl_cons,
    List.foldl_nil]
  rfl

/-- bararr of a lane that may arrive. -/
theorem exec_bararr_may {slot : Nat} {e : Roster} {d : Reg} (hf : InRange s l [rfld codeD d, rfld codeA a 4]) (hm : MayArrive s r off slot e) :
    ∃ t, exec (.bararr (.reg d) a) s = .next t ∧
      t = past l r (((((counted s l [rfld codeD d, rfld codeA a 4]).arrive (s.whose r) off slot e).modGroup r.1
        (Group.summed (sumOf (s.lane r) (s.group r.1).regs))).wr r (regNo s l r codeD d)
          ⟨(s.block (s.group r.1).block).objWord off 1, false⟩).modLane r Lane.keepToken) := by
  have h0 := tallied_counted hf
  have hu := h.counted hf
  rw [exec_bararr_eq h hf]
  generalize counted s l [rfld codeD d, rfld codeA a 4] = u at h0 hu ⊢
  have hou := ho.counted h0
  have hwhose : u.whose r = s.whose r := by rw [State.whose, State.whose, h0.group]
  obtain ⟨hat, -⟩ := arrive_claims (off := off) (slot := slot) (e := e) h0 ho.held ho.wf
  rw [arriveAll_some hu hou (arriveLane_may h h0 hm)]
  generalize u.arrive (s.whose r) off slot e = A at hat ⊢
  have hreal : (A.lane r).helper = false := by rw [hat.lane]; exact h.real
  have hlog : (A.ctx (A.group r.1).ctx).hdr.log = false := by
    rw [hat.group]
    exact (congrArg (fun c => c.hdr.log) (hat.ctxs _)).trans hm.noLog
  rw [foldArrivals_one (w := A.work l) hreal hlog, show (A.work l).s = A from rfl, hat.lane, hat.group]
  have hlane : (A.modGroup r.1 (Group.summed (sumOf (s.lane r) (s.group r.1).regs))).lane r = s.lane r := by rw [lane_summed, hat.lane]
  have hplain : ((A.modGroup r.1 (Group.summed (sumOf (s.lane r) (s.group r.1).regs))).group r.1).taskKill = false := by
    rw [group_summed_field (·.taskKill) fun _ _ => rfl, hat.group]
    exact h.plain
  generalize A.modGroup r.1 (Group.summed (sumOf (s.lane r) (s.group r.1).regs)) = B at hlane hplain ⊢
  have hno : regNo B l r codeD d = regNo s l r codeD d := by rw [regNo_eq, regNo_eq, hlane]
  refine ⟨_, ?_, rfl⟩
  rw [show ({ A.work l with s := B } : Work) = B.work l from rfl, bararrEnd_one h, hno]
  refine h.finish ?_
  rw [group_modLane_taskKill, State.wr, group_modLane_taskKill]
  exact hplain

end

/-! ### What operations on the one lane leave of the others -/

theorem shell_modLane (v : State) (r : LRef) (f : Lane → Lane) (x : Nat) : ((v.modLane r f).group x).shell = (v.group x).shell :=
  group_modGroup_field (·.shell) (f := fun g => { g with lanes := g.lanes.modify r.2 f }) (fun _ => rfl)
    (fun g => congrArg (fun ls => { g with lanes := ls }) (by rw [List.map_const', List.map_const', List.length_modify])) v r.1 x

/-- `t` is `v` but for lane `r` and the checksum of its group. -/
structure LaneAndSum (v t : State) (r : LRef) : Prop where
  rest : { t with groups := v.groups } = v
  lanes : ∀ q, q ≠ r → t.lane q = v.lane q
  shells : ∀ g, { (t.group g).shell with csum := 0 } = { (v.group g).shell with csum := 0 }

theorem LaneAndSum.refl (v : State) (r : LRef) : LaneAndSum v v r := ⟨rfl, fun _ _ => rfl, fun _ => rfl⟩

section
variable {v t : State} {r : LRef} (h : LaneAndSum v t r)
include h

theorem LaneAndSum.modLane (f : Lane → Lane) : LaneAndSum v (t.modLane r f) r where
  rest := h.rest
  lanes q hq := (lane_modLane_ne t hq f).trans (h.lanes q hq)
  shells g := by rw [shell_modLane]; exact h.shells g

theorem LaneAndSum.summed (c : DWord) : LaneAndSum v (t.modGroup r.1 (Group.summed c)) r where
  rest := h.rest
  lanes q hq := (lane_summed t r.1 c q).trans (h.lanes q hq)
  shells g := (group_summed_field (fun g => { g.shell with csum := 0 }) (fun _ _ => rfl) t r.1 c g).trans (h.shells g)

theorem LaneAndSum.block (b : Nat) : t.block b = v.block b := (congrArg (·.block b) h.rest :)

theorem LaneAndSum.past : t.past = v.past := (congrArg (·.past) h.rest :)

theorem LaneAndSum.objectOnly {s : State} {bid off : Nat} (ha : AtObject s v bid off) : ObjectOnly s t r bid off :=
  ha.objectOnly h.rest h.lanes h.shells

end

theorem AtObject.freshL1s {s v : State} {bid off : Nat} (h : AtObject s v bid off) (l : Latch) :
    AtObject (Claims.freshL1s s l) (Claims.freshL1s v l) bid off where
  ctxs := h.ctxs
  block := h.block
  blocks := h.blocks
  rest := by
    have hrest := h.rest
    rw [Claims.freshL1s, Claims.freshL1s]
    simp only [h.group, h.keep (·.l1) fun _ _ _ => rfl]
    exact congrArg (fun v : State => { v with l1 := s.l1.filter (keptL1 s l.lanes) }) hrest
  held := h.held

/-! ### barsync -/

theorem exec_barsync_eq {s : State} {l : Latch} {r : LRef} {a : Reg} (h : Alone s l r) (hf : InRange s l [rfld codeA a 4]) :
    exec (.barsync a) s = (((counted s l [rfld codeA a 4]).work l).arriveAll 1 a Work.waitPhase).1.finishPoint := by
  show execBarsync a s = _
  rw [execBarsync, withGather_latched h.ready.latched, sources_counted hf none rfl]

section
variable {s : State} {l : Latch} {r : LRef} {a : Reg} {off slot : Nat} {e : Roster} (h : Alone s l r) (ho : Obj s l r a off)
  (hm : MayArrive s r off slot e) (hf : InRange s l [rfld codeA a 4])
include h ho hm hf

theorem exec_barsync_waits (hw : (((counted s l [rfld codeA a 4]).arrive (s.whose r) off slot e).block (s.group r.1).block).objWord off 1 =
    (s.block (s.group r.1).block).objWord off 1) : exec (.barsync a) s = .next
      ((parked l r (.bar off ((s.block (s.group r.1).block).objWord off 1)) ((counted s l [rfld codeA a 4]).arrive (s.whose r) off slot e)).modGroup
        r.1 (Group.summed (sumOf (s.lane r) (s.group r.1).regs))) := by
  have h0 := tallied_counted hf
  have hu := h.counted hf
  rw [exec_barsync_eq h hf]
  generalize counted s l [rfld codeA a 4] = u at h0 hu hw ⊢
  have hou := ho.counted h0
  have hwhose : u.whose r = s.whose r := by rw [State.whose, State.whose, h0.group]
  obtain ⟨hat, -⟩ := arrive_claims (off := off) (slot := slot) (e := e) h0 ho.held ho.wf
  rw [arriveAll_some hu hou (arriveLane_may h h0 hm)]
  generalize u.arrive (s.whose r) off slot e = A at hat hw ⊢
  have hhas : A.has r := by
    rw [State.has, State.holds, hat.group, hat.groups]
    exact h.has
  rw [Work.waitPhase, show (A.work l).s = A from rfl, hat.group, if_pos hw, h.park_work]
  generalize hW : Wait.bar off ((s.block (s.group r.1).block).objWord off 1) = W
  have hlane : (parked l r W A).lane r = { s.lane r with status := .parked W l.pc, parkedAt := A.steps } := by
    rw [parked, lane_modLane_self _ _ _ hhas, hat.lane]
  have hregs : ((parked l r W A).group r.1).regs = (s.group r.1).regs := by rw [parked, group_modLane_regs, hat.group]
  have hctx : ((parked l r W A).group r.1).ctx = (s.group r.1).ctx := by rw [parked, group_modLane_ctx, hat.group]
  have hplain : ((parked l r W A).group r.1).taskKill = false := by rw [parked, group_modLane_taskKill, hat.group]; exact h.plain
  have hlog : ((parked l r W A).ctx (s.group r.1).ctx).hdr.log = false :=
    (congrArg (fun c => c.hdr.log) (hat.ctxs (s.group r.1).ctx)).trans hm.noLog
  generalize parked l r W A = P at hlane hregs hctx hplain hlog ⊢
  rw [foldArrivals_one (by rw [hlane]; exact h.real) (by rw [hctx]; exact hlog)]
  refine h.finishPoint_left ?_ rfl ?_ rfl rfl rfl
  · rw [group_summed_field (·.taskKill) fun _ _ => rfl]
    exact hplain
  · show P.modGroup r.1 (Group.summed (sumOf (P.lane r) (P.group r.1).regs)) = _
    rw [hlane, hregs, sumOf_status]

theorem exec_barsync_goes (hw : (((counted s l [rfld codeA a 4]).arrive (s.whose r) off slot e).block (s.group r.1).block).objWord off 1 ≠
    (s.block (s.group r.1).block).objWord off 1) : exec (.barsync a) s = .next
      (past l r ((((counted s l [rfld codeA a 4]).arrive (s.whose r) off slot e).acquires r 1).modGroup
        r.1 (Group.summed (sumOf (s.lane r) (s.group r.1).regs)))) := by
  have h0 := tallied_counted hf
  have hu := h.counted hf
  rw [exec_barsync_eq h hf]
  generalize counted s l [rfld codeA a 4] = u at h0 hu hw ⊢
  have hou := ho.counted h0
  have hwhose : u.whose r = s.whose r := by rw [State.whose, State.whose, h0.group]
  obtain ⟨hat, -⟩ := arrive_claims (off := off) (slot := slot) (e := e) h0 ho.held ho.wf
  rw [arriveAll_some hu hou (arriveLane_may h h0 hm)]
  generalize u.arrive (s.whose r) off slot e = A at hat hw ⊢
  have hhas : A.has r := by
    rw [State.has, State.holds, hat.group, hat.groups]
    exact h.has
  rw [Work.waitPhase, show (A.work l).s = A from rfl, hat.group, if_neg hw]
  have hlane : (A.acquires r blockScope).lane r = (s.lane r).acquire 1 A.past.length := by
    rw [lane_acquires hhas, hat.lane]
    rfl
  have hgroup : ∀ {α : Type} (p : Group → α), (∀ g ls, p { g with lanes := ls } = p g) → p ((A.acquires r blockScope).group r.1) =
      p (s.group r.1) := fun p hp => by
    rw [State.acquires, group_modLane_field p hp, State.group, groups_freshL1]
    exact congrArg p (hat.group r.1)
  have hlog : ((A.acquires r blockScope).ctx (s.group r.1).ctx).hdr.log = false := by
    rw [acquires_keep (fun x => x.ctx (s.group r.1).ctx) fun _ _ _ => rfl]
    exact (congrArg (fun c => c.hdr.log) (hat.ctxs (s.group r.1).ctx)).trans hm.noLog
  have hregs := hgroup (·.regs) fun _ _ => rfl
  have hctx := hgroup (·.ctx) fun _ _ => rfl
  have hplain := (hgroup (·.taskKill) fun _ _ => rfl).trans h.plain
  show (Work.foldArrivals ((A.acquires r blockScope).work l) 1 _).finishPoint = .next (past l r ((A.acquires r blockScope).modGroup r.1 _))
  generalize A.acquires r blockScope = P at hlane hregs hctx hplain hlog ⊢
  rw [foldArrivals_one (w := P.work l) (by rw [show (P.work l).s = P from rfl, hlane]; exact h.real)
    (by rw [show (P.work l).s = P from rfl, hctx]; exact hlog)]
  rw [show (P.work l).s = P from rfl, hlane, hregs, sumOf_acquire]
  refine h.finishPoint ?_
  rw [group_summed_field (·.taskKill) fun _ _ => rfl]
  exact hplain

end

/-! ### Misuse -/

theorem barData_eq (n off : Nat) (hn : n < 8) : barData n off = BitVec.ofNat 64 (off * 4294967296 + n) := by
  rw [barData, tdata_eq]
  apply BitVec.eq_of_toNat_eq
  simp only [BitVec.toNat_ofNat]
  omega

/-- What is wrong with an arrival or a drop of a lane (reasons 1 to 4 of Table 12.4), as the statement orders it. -/
theorem memberReason_cases (b : Block) (off me : Nat) (arrival : Bool) :
    (b.armed off = none → b.memberReason off me arrival = some 1) ∧
    (∀ k e, b.armed off = some (k, e) →
      (e.n ≤ me → b.memberReason off me arrival = some 2) ∧
      (me < e.n → arrival = true → mbit e.arrived me = true → b.memberReason off me arrival = some 3) ∧
      (me < e.n → (arrival = true → mbit e.arrived me = false) → mbit e.dropped me = true → b.memberReason off me arrival = some 4)) := by
  refine ⟨fun h => by rw [Block.memberReason, h], fun k e h => ?_⟩
  rw [Block.memberReason, h]
  dsimp only
  refine ⟨fun hn => if_pos hn, fun hn harr hbit => ?_, fun hn harr hbit => ?_⟩
  · rw [harr, hbit]
    exact if_neg (Nat.not_le.2 hn)
  · have hno : (arrival && mbit e.arrived me) = false := by
      cases arrival with
      | false => rfl
      | true => rw [harr rfl]; rfl
    rw [hno, hbit]
    exact if_neg (Nat.not_le.2 hn)

section
variable {s : State} {l : Latch} {r : LRef} {a : Reg} {off : Nat} (h : Alone s l r) (ho : Obj s l r a off)
include h ho

theorem exec_bararr_bad {d : Reg} {n : Nat} (hf : InRange s l [rfld codeD d, rfld codeA a 4])
    (hn : (s.block (s.group r.1).block).memberReason off ((s.group r.1).tidx r.2) true = some n) :
    exec (.bararr (.reg d) a) s = (((counted s l [rfld codeD d, rfld codeA a 4]).work l).strike r 0x0D (barData n off)).finish := by
  have h0 := tallied_counted hf
  have hu := h.counted hf
  rw [exec_bararr_eq h hf]
  generalize counted s l [rfld codeD d, rfld codeA a 4] = u at h0 hu ⊢
  rw [arriveAll_none hu (ho.counted h0) (arriveLane_bad h h0 hn), h.strike_work hu.real]
  rfl

theorem exec_barsync_bad {n : Nat} (hf : InRange s l [rfld codeA a 4])
    (hn : (s.block (s.group r.1).block).memberReason off ((s.group r.1).tidx r.2) true = some n) :
    exec (.barsync a) s = (((counted s l [rfld codeA a 4]).work l).strike r 0x0D (barData n off)).finish := by
  have h0 := tallied_counted hf
  have hu := h.counted hf
  rw [exec_barsync_eq h hf]
  generalize counted s l [rfld codeA a 4] = u at h0 hu ⊢
  rw [arriveAll_none hu (ho.counted h0) (arriveLane_bad h h0 hn), h.strike_work hu.real]
  rfl

/-! ### bardrop -/

/-- What bardrop does for one lane. -/
def Work.dropLane (w : Work) (r : LRef) (off : Nat) : Work :=
  if (w.s.lane r).helper then w
  else
    match (w.s.block (w.s.group r.1).block).memberReason off (w.s.whose r).tidx false, (w.s.block (w.s.group r.1).block).armed off with
    | none, some (slot, e) => { w with s := w.s.dropFrom (w.s.whose r) off slot e }
    | some n, _ => w.strike r 0x0D (barData n off)
    | none, none => w

theorem exec_bardrop_eq (hf : InRange s l [rfld codeA a 4]) :
    exec (.bardrop a) s = (((counted s l [rfld codeA a 4]).work l).dropLane r off).finish := by
  have h0 := tallied_counted hf
  have hu := h.counted hf
  show execBardrop a s = _
  rw [execBardrop, withGather_latched h.ready.latched, sources_counted hf none rfl]
  generalize counted s l [rfld codeA a 4] = u at h0 hu ⊢
  exact congrArg Work.finish (onObjects_one (B := noB) (f := fun w r off _ => w.dropLane r off) hu (ho.counted h0) rfl)

theorem exec_bardrop_bad {n : Nat} (hf : InRange s l [rfld codeA a 4])
    (hn : (s.block (s.group r.1).block).memberReason off ((s.group r.1).tidx r.2) false = some n) :
    exec (.bardrop a) s = (((counted s l [rfld codeA a 4]).work l).strike r 0x0D (barData n off)).finish := by
  have h0 := tallied_counted hf
  have hu := h.counted hf
  rw [exec_bardrop_eq h ho hf]
  generalize counted s l [rfld codeA a 4] = u at h0 hu ⊢
  have hwhose : u.whose r = s.whose r := by rw [State.whose, State.whose, h0.group]
  rw [Work.dropLane, show (u.work l).s = u from rfl, hu.real, hwhose, h0.group, h0.block, show (s.whose r).tidx = (s.group r.1).tidx r.2 from rfl, hn]
  rfl

theorem exec_bardrop_may {slot : Nat} {e : Roster} (hf : InRange s l [rfld codeA a 4]) (hm : MayArrive s r off slot e) :
    exec (.bardrop a) s = .next (past l r ((counted s l [rfld codeA a 4]).dropFrom (s.whose r) off slot e)) := by
  have h0 := tallied_counted hf
  have hu := h.counted hf
  rw [exec_bardrop_eq h ho hf]
  generalize counted s l [rfld codeA a 4] = u at h0 hu ⊢
  have hwhose : u.whose r = s.whose r := by rw [State.whose, State.whose, h0.group]
  obtain ⟨hat, -⟩ := dropFrom_claims (off := off) (slot := slot) (e := e) h0 ho.held ho.wf hm.fresh
  rw [Work.dropLane, show (u.work l).s = u from rfl, hu.real, hwhose, h0.group, h0.block, show (s.whose r).tidx = (s.group r.1).tidx r.2 from rfl,
    memberReason_may hm false, hm.armed]
  refine h.finish (u := u.dropFrom (s.whose r) off slot e) ?_
  rw [hat.group]
  exact h.plain

/-! ### barwait -/

theorem exec_barwait_object {x : Reg} (hf : InRange s l [rfld codeA a 4, rfld codeB x]) (hp : (rd s l r codeB x).poison = false) :
    exec (.barwait a (.reg x)) s = (((counted s l [rfld codeA a 4, rfld codeB x]).work l).waitPhase r off (rd s l r codeB x).val).finishPoint := by
  have h0 := tallied_counted hf
  have hu := h.counted hf
  have hsources : (s.work l).sources (rfld codeA a 4 :: srcFlds (.reg x) codeB) none none (some (.reg x)) =
      (counted s l [rfld codeA a 4, rfld codeB x]).work l := sources_counted hf none rfl
  show execBarwait a (.reg x) s = _
  rw [execBarwait, withGather_latched h.ready.latched, hsources]
  generalize counted s l [rfld codeA a 4, rfld codeB x] = u at h0 hu ⊢
  have hreg : (u.work l).src r codeB (.reg x) = rd s l r codeB x := h0.rd l r codeB x
  have hone := onObjects_one (B := fun w r => w.src r codeB (.reg x)) (f := fun w r off x => w.waitPhase r off x) hu (ho.counted h0)
    (by rw [hreg]; exact hp)
  rw [hreg] at hone
  exact congrArg Work.finishPoint hone

theorem exec_barwait_goes {x : Reg} (hf : InRange s l [rfld codeA a 4, rfld codeB x]) (hp : (rd s l r codeB x).poison = false)
    (hw : (rd s l r codeB x).val ≠ (s.block (s.group r.1).block).objWord off 1) :
    exec (.barwait a (.reg x)) s = .next (past l r ((counted s l [rfld codeA a 4, rfld codeB x]).acquires r 1)) := by
  have h0 := tallied_counted hf
  have hu := h.counted hf
  rw [exec_barwait_object h ho hf hp]
  generalize counted s l [rfld codeA a 4, rfld codeB x] = u at h0 hu ⊢
  rw [Work.waitPhase, show (u.work l).s = u from rfl, h0.group, h0.block, if_neg (Ne.symm hw)]
  exact h.finishPoint (acquires_plain hu 1)

theorem exec_barwait_waits {x : Reg} (hf : InRange s l [rfld codeA a 4, rfld codeB x]) (hp : (rd s l r codeB x).poison = false)
    (hw : (rd s l r codeB x).val = (s.block (s.group r.1).block).objWord off 1) :
    exec (.barwait a (.reg x)) s = .next (parked l r (.bar off ((s.block (s.group r.1).block).objWord off 1))
      (counted s l [rfld codeA a 4, rfld codeB x])) := by
  have h0 := tallied_counted hf
  have hu := h.counted hf
  rw [exec_barwait_object h ho hf hp]
  generalize counted s l [rfld codeA a 4, rfld codeB x] = u at h0 hu ⊢
  rw [Work.waitPhase, show (u.work l).s = u from rfl, h0.group, h0.block, if_pos hw.symm, hw]
  exact h.finishPoint_park hu.plain _

/-! ### barinit -/

theorem exec_barinit_object {x : Reg} (hf : InRange s l [rfld codeA a 4, rfld codeB x]) (hp : (rd s l r codeB x).poison = false) :
    exec (.barinit a x) s = (((counted s l [rfld codeA a 4, rfld codeB x]).work l).barInit r off (rd s l r codeB x).val).finish := by
  have h0 := tallied_counted hf
  have hu := h.counted hf
  show execBarinit a x s = _
  rw [execBarinit, withGather_latched h.ready.latched, sources_counted hf none rfl]
  generalize counted s l [rfld codeA a 4, rfld codeB x] = u at h0 hu ⊢
  have hreg : (u.work l).regOf r codeB x = rd s l r codeB x := h0.rd l r codeB x
  have hone := onObjects_one (B := fun w r => w.regOf r codeB x) (f := fun w r off n => if (w.s.lane r).helper then w else w.barInit r off n) hu
    (ho.counted h0) (by rw [hreg]; exact hp)
  rw [hreg] at hone
  rw [show (u.work l).s = u from rfl, hu.real, if_neg (by decide)] at hone
  exact congrArg Work.finish hone

end

/-- The block with an object armed that was not. -/
def Block.fresh (off slot n : Nat) (b : Block) : Block :=
  { ((b.setObj off 0 (barWord 0 n)).setObj off 2 0).setObj off 3 (BitVec.ofNat 32 (slot * 256)) with
    roster := tput slot { off := off, n := n } b.roster }

theorem bid_fresh (off slot n : Nat) (b : Block) : (b.fresh off slot n).bid = b.bid := rfl

section
variable {b : Block} (h : b.scratch.wf = true) (off slot n : Nat)
include h

theorem touched_fresh : Touched off b (b.fresh off slot n) :=
  ((((Touched.refl h).setObj (by decide) _).setObj (by decide) _).setObj (by decide) _).roster _

theorem words_fresh : (b.fresh off slot n).words off = [barWord 0 n, b.objWord off 1, 0, BitVec.ofNat 32 (slot * 256)] := by
  have h1 := wf_setObj h off 0 (barWord 0 n)
  have h2 := wf_setObj h1 off 2 0
  simp only [words_eq, Block.fresh, objWord_roster, objWord_setObj h, objWord_setObj h1, objWord_setObj h2]
  rfl

end

section
variable {s u : State} {l : Latch} {r : LRef} {off : Nat} {n : Word} (h0 : Tallied s u)
include h0

theorem barInit_five (hn : n.toNat = 0 ∨ (s.grid (s.block (s.group r.1).block).grid).blksize < n.toNat) :
    (u.work l).barInit r off n = (u.work l).strike r 0x0D (barData 5 off) := by
  have hz : n = 0 ∨ (s.grid (s.block (s.group r.1).block).grid).blksize < n.toNat := hn.imp_left fun hn => BitVec.eq_of_toNat_eq (by simpa using hn)
  rw [Work.barInit, show (u.work l).s = u from rfl, h0.group, h0.block, h0.grid]
  exact if_pos hz

variable (hpos : 0 < n.toNat) (hle : n.toNat ≤ (s.grid (s.block (s.group r.1).block).grid).blksize)
include hpos hle

theorem barInit_sized : (u.work l).barInit r off n =
    match (s.block (s.group r.1).block).armed off with
    | some (slot, e) =>
      if (s.block (s.group r.1).block).expectedAt off = n.toNat then u.work l
      else if (s.block (s.group r.1).block).arrivedAt off ≠ 0 ∨ u.barWaiting (s.group r.1).block off then
        (u.work l).strike r 0x0D (barData 5 off)
      else (u.modBlock (s.group r.1).block (Block.counting off slot (barWord 0 n.toNat) { off := e.off, n := n.toNat })).work l
    | none =>
      match (upto 32).find? fun k => (tget k (s.block (s.group r.1).block).roster).isNone with
      | none => (u.work l).strike r 0x0D (barData 6 off)
      | some slot => (u.modBlock (s.group r.1).block (Block.fresh off slot n.toNat)).work l := by
  have hz : ¬ (n = 0 ∨ (s.grid (s.block (s.group r.1).block).grid).blksize < n.toNat) := by
    rintro (e | e)
    · rw [e] at hpos
      exact absurd hpos (by decide)
    · omega
  rw [Work.barInit, show (u.work l).s = u from rfl, h0.group, h0.block, h0.grid]
  exact if_neg hz

end

/-! ### The states behind each operation -/

section
variable {s : State} {l : Latch} {r : LRef} {off : Nat} (h : Alone s l r)
include h

theorem AtObject.hasLane {v : State} {bid : Nat} (hat : AtObject s v bid off) : v.has r := by
  rw [State.has, State.holds, hat.group, hat.groups]
  exact h.has

/-- An operation on the object, the lane going past. -/
theorem past_atObject {v : State} {bid : Nat} (hat : AtObject s v bid off) : ObjectOnly s (past l r v) r bid off ∧
    (past l r v).lane r = (s.lane r).advance l.pc := by
  refine ⟨((LaneAndSum.refl v r).modLane _).objectOnly hat, ?_⟩
  rw [past, lane_modLane_self _ _ _ (AtObject.hasLane h hat), hat.lane]

variable {a : Reg} (ho : Obj s l r a off)
include ho

theorem barinit_claims {x : Reg} (hf : InRange s l [rfld codeA a 4, rfld codeB x]) (hp : (rd s l r codeB x).poison = false) :
    let flds := [rfld codeA a 4, rfld codeB x]
    let bid := (s.group r.1).block
    let b := s.block bid
    let w := fun (i : Nat) => b.objWord off i
    let n := (rd s l r codeB x).val.toNat
    let blksize := (s.grid b.grid).blksize
    let five := TrapsWith (.barinit a x) s l r flds 0x0D (BitVec.ofNat 64 (off * 4294967296 + 5))
    (n = 0 ∨ blksize < n → five) ∧
    (0 < n → n ≤ blksize → n < 4096 →
      (b.armed off = none → (∀ k, k < 32 → (tget k b.roster).isSome = true) →
        TrapsWith (.barinit a x) s l r flds 0x0D (BitVec.ofNat 64 (off * 4294967296 + 6))) ∧
      (∀ k, b.armed off = none → k < 32 → tget k b.roster = none → (∀ j, j < k → (tget j b.roster).isSome = true) →
        ∃ t, exec (.barinit a x) s = .next t ∧ ObjectOnly s t r bid off ∧ t.lane r = (s.lane r).advance l.pc ∧
          objWords t bid off = [armedWord 0 n, w 1, 0, BitVec.ofNat 32 (k * 256)] ∧
          (t.block bid).roster = tput k { off := off, n := n } b.roster) ∧
      (∀ k e, b.armed off = some (k, e) →
        (b.expectedAt off ≠ n → b.arrivedAt off ≠ 0 ∨ s.barWaiting bid off = true → five) ∧
        (b.expectedAt off ≠ n → b.arrivedAt off = 0 → s.barWaiting bid off = false →
          ∃ t, exec (.barinit a x) s = .next t ∧ ObjectOnly s t r bid off ∧ t.lane r = (s.lane r).advance l.pc ∧
            objWords t bid off = [armedWord 0 n, w 1, w 2, w 3] ∧ (t.block bid).roster = tput k { off := e.off, n := n } b.roster) ∧
        (b.expectedAt off = n → ∃ t, exec (.barinit a x) s = .next t ∧ ObjectOnly s t r bid off ∧ t.lane r = (s.lane r).advance l.pc ∧
          objWords t bid off = [w 0, w 1, w 2, w 3] ∧ (t.block bid).roster = b.roster))) := by
  have h0 := tallied_counted hf
  have hu := h.counted hf
  have hexec := exec_barinit_object h ho hf hp
  have hstrike : ∀ {k : Nat}, k < 8 → exec (.barinit a x) s =
      (((counted s l [rfld codeA a 4, rfld codeB x]).work l).strike r 0x0D (barData k off)).finish →
      TrapsWith (.barinit a x) s l r [rfld codeA a 4, rfld codeB x] 0x0D (BitVec.ofNat 64 (off * 4294967296 + k)) := fun hk he =>
    h.traps hf (he.trans (by rw [barData_eq _ _ hk]))
  dsimp only
  generalize counted s l [rfld codeA a 4, rfld codeB x] = u at h0 hu hexec hstrike
  generalize (rd s l r codeB x).val = n at hexec ⊢
  have hself : AtObject s u (s.group r.1).block off := .of_tallied h0 ho.held ho.wf
  have hwait : u.barWaiting (s.group r.1).block off = s.barWaiting (s.group r.1).block off := by
    rw [State.barWaiting, State.barWaiting, h0.groups]
  refine ⟨fun hn => hstrike (by decide) (by rw [hexec, barInit_five h0 hn]), fun hpos hle hlt => ?_⟩
  rw [barInit_sized h0 hpos hle] at hexec
  have hdone : ∀ {f : Block → Block}, (∀ b, (f b).bid = b.bid) →
      Touched off (s.block (s.group r.1).block) (f (s.block (s.group r.1).block)) →
      exec (.barinit a x) s = ((u.modBlock (s.group r.1).block f).work l).finish →
      ∃ t, exec (.barinit a x) s = .next t ∧ ObjectOnly s t r (s.group r.1).block off ∧ t.lane r = (s.lane r).advance l.pc ∧
        t.block (s.group r.1).block = f (s.block (s.group r.1).block) := fun {f} hbid ht he => by
    have hat := hself.modBlock hbid (by rw [h0.block]; exact ht)
    have hplain : ((u.modBlock (s.group r.1).block f).group r.1).taskKill = false := by rw [hat.group]; exact h.plain
    obtain ⟨honly, hlane⟩ := past_atObject h hat
    refine ⟨_, he.trans (h.finish hplain), honly, hlane, ?_⟩
    exact (block_modBlock_self u _ hbid hself.held).trans (by rw [h0.block])
  refine ⟨fun harmed hfull => ?_, fun k harmed hk hfree hbefore => ?_, fun k e harmed => ⟨fun hne hbusy => ?_, fun hne hzero hidle => ?_,
    fun heq => ?_⟩⟩
  · have hfind : ((upto 32).find? fun k => (tget k (s.block (s.group r.1).block).roster).isNone) = none :=
      List.find?_eq_none.2 fun k hk => by
        have hs := hfull k (List.mem_range.1 hk)
        rw [Option.isSome_iff_ne_none] at hs
        simpa using hs
    rw [harmed] at hexec
    dsimp only at hexec
    rw [hfind] at hexec
    exact hstrike (by decide) hexec
  · have hfind : ((upto 32).find? fun k => (tget k (s.block (s.group r.1).block).roster).isNone) = some k := by
      rw [upto, List.find?_range_eq_some]
      refine ⟨by rw [hfree]; rfl, List.mem_range.2 hk, fun j hj => ?_⟩
      have hs := hbefore j hj
      cases ht : tget j (s.block (s.group r.1).block).roster with
      | none => rw [ht] at hs; cases hs
      | some y => rfl
    rw [harmed] at hexec
    dsimp only at hexec
    rw [hfind] at hexec
    obtain ⟨t, he, honly, hlane, hblock⟩ := hdone (bid_fresh off k n.toNat) (touched_fresh ho.wf off k n.toNat) hexec
    refine ⟨t, he, honly, hlane, ?_, ?_⟩
    · exact (congrArg (·.words off) hblock).trans (words_fresh ho.wf off k n.toNat)
    · rw [hblock]
      rfl
  · rw [harmed] at hexec
    dsimp only at hexec
    rw [if_neg hne, if_pos (by rw [hwait]; exact hbusy)] at hexec
    exact hstrike (by decide) hexec
  · rw [harmed] at hexec
    dsimp only at hexec
    rw [if_neg hne, if_neg (by rw [hwait, hidle]; simp [hzero])] at hexec
    obtain ⟨t, he, honly, hlane, hblock⟩ := hdone (bid_counting off k _ _) (touched_counting ho.wf off k _ _) hexec
    refine ⟨t, he, honly, hlane, ?_, ?_⟩
    · exact (congrArg (·.words off) hblock).trans (words_counting ho.wf off k _ _)
    · rw [hblock]
      rfl
  · rw [harmed] at hexec
    dsimp only at hexec
    rw [if_pos heq, h.finish hu.plain] at hexec
    obtain ⟨honly, hlane⟩ := past_atObject h hself
    refine ⟨_, hexec, honly, hlane, ?_, ?_⟩
    · show (u.block (s.group r.1).block).words off = _
      rw [h0.block]
      rfl
    · exact congrArg Block.roster (h0.block _)

variable {slot : Nat} {e : Roster}

omit ho h in
/-- The words behind an arrival that is not the last, as the statement writes them. -/
theorem arrivedWords_eq : arrivedWords s r off slot =
    [armedWord ((s.block (s.group r.1).block).arrivedAt off + 1) ((s.block (s.group r.1).block).expectedAt off),
      (s.block (s.group r.1).block).objWord off 1,
      if (s.block (s.group r.1).block).arrivedAt off = 0 then s.clock ((s.block (s.group r.1).block).homeCore off)
        else (s.block (s.group r.1).block).objWord off 2,
      if (s.block (s.group r.1).block).arrivedAt off = 0 then BitVec.ofNat 32 (slot * 256 + fusedEntry (s.group r.1).coreOf)
        else (s.block (s.group r.1).block).objWord off 3] := by
  have hfused : fusedEntry (s.group r.1).coreOf % 32 = fusedEntry (s.group r.1).coreOf :=
    Nat.mod_eq_of_lt (Nat.lt_of_lt_of_le (Nat.mod_lt _ (by decide)) (by decide : 21 ≤ 32))
  rw [arrivedWords, hfused]
  rfl

theorem bararr_claims {d : Reg} (hm : MayArrive s r off slot e) (hf : InRange s l [rfld codeD d, rfld codeA a 4]) :
    ∃ t A, exec (.bararr (.reg d) a) s = .next t ∧ ObjectOnly s t r (s.group r.1).block off ∧
      t.lane r = ((s.lane r).wr (regNo s l r codeD d) ⟨(s.block (s.group r.1).block).objWord off 1, false⟩).advance l.pc ∧
      (t.group r.1).csum = sumOf (s.lane r) (s.group r.1).regs ∧ (∀ b, t.block b = State.block A b) ∧
      A = (counted s l [rfld codeD d, rfld codeA a 4]).arrive (s.whose r) off slot e := by
  have h0 := tallied_counted hf
  obtain ⟨t, he, ht⟩ := exec_bararr_may h ho hf hm
  obtain ⟨hat, -⟩ := arrive_claims (off := off) (slot := slot) (e := e) h0 ho.held ho.wf
  refine ⟨t, _, he, ?_, ?_, ?_, ?_, rfl⟩ <;>
    generalize (counted s l [rfld codeD d, rfld codeA a 4]).arrive (s.whose r) off slot e = A at hat ht ⊢
  · rw [ht]
    exact (((((LaneAndSum.refl A r).summed _).modLane _).modLane _).modLane _).objectOnly hat
  · have hhas := has_summed (AtObject.hasLane h hat) r.1 (sumOf (s.lane r) (s.group r.1).regs)
    rw [ht, past, lane_modLane_self, lane_modLane_self, State.wr, lane_modLane_self, lane_summed, hat.lane, advance_keepToken]
    · exact hhas
    · exact (has_modLane _ r _ r).2 hhas
    · exact (has_modLane _ r _ r).2 ((has_modLane _ r _ r).2 hhas)
  · rw [ht, past, group_modLane_field (·.csum) fun _ _ => rfl, group_modLane_field (·.csum) fun _ _ => rfl, State.wr,
      group_modLane_field (·.csum) fun _ _ => rfl, csum_summed (AtObject.hasLane h hat).1]
  · rw [ht]
    exact fun _ => rfl

variable (hm : MayArrive s r off slot e) (hf : InRange s l [rfld codeA a 4])
include hm hf

theorem barsync_goes_claims (hw : (((counted s l [rfld codeA a 4]).arrive (s.whose r) off slot e).block (s.group r.1).block).objWord off 1 ≠
    (s.block (s.group r.1).block).objWord off 1) :
    ∃ t A, exec (.barsync a) s = .next t ∧ ObjectOnly (freshL1s s l) t r (s.group r.1).block off ∧
      t.lane r = ((s.lane r).acquire 1 s.past.length).advance l.pc ∧
      (t.group r.1).csum = sumOf (s.lane r) (s.group r.1).regs ∧ (∀ b, t.block b = State.block A b) ∧
      A = (counted s l [rfld codeA a 4]).arrive (s.whose r) off slot e := by
  have h0 := tallied_counted hf
  have he := exec_barsync_goes h ho hm hf hw
  obtain ⟨hat, -⟩ := arrive_claims (off := off) (slot := slot) (e := e) h0 ho.held ho.wf
  refine ⟨_, _, he, ?_, ?_, ?_, ?_, rfl⟩ <;>
    generalize (counted s l [rfld codeA a 4]).arrive (s.whose r) off slot e = A at hat ⊢
  · rw [State.acquires, freshL1_eq A h.only]
    exact ((((LaneAndSum.refl (freshL1s A l) r).modLane _).summed _).modLane _).objectOnly (hat.freshL1s l)
  · have hhas : (A.acquires r 1).has r := by
      rw [State.acquires, has_modLane, State.has, State.holds, State.group, groups_freshL1]
      exact AtObject.hasLane h hat
    rw [past, lane_modLane_self, lane_summed, lane_acquires (AtObject.hasLane h hat), hat.lane, hat.keep (·.past) fun _ _ _ => rfl]
    exact has_summed hhas r.1 _
  · rw [past, group_modLane_field (·.csum) fun _ _ => rfl, csum_summed]
    show State.holds (State.modLane _ r _) r.1 = true
    have hhas : (A.acquires r 1).has r := by
      rw [State.acquires, has_modLane, State.has, State.holds, State.group, groups_freshL1]
      exact AtObject.hasLane h hat
    exact hhas.1
  · intro b
    show (A.acquires r 1).block b = A.block b
    exact acquires_keep (·.block b) (fun _ _ _ => rfl) A r 1

theorem barsync_waits_claims (hw : (((counted s l [rfld codeA a 4]).arrive (s.whose r) off slot e).block (s.group r.1).block).objWord off 1 =
    (s.block (s.group r.1).block).objWord off 1) :
    ∃ t A, exec (.barsync a) s = .next t ∧ ObjectOnly s t r (s.group r.1).block off ∧
      t.lane r = { s.lane r with status := .parked (.bar off ((s.block (s.group r.1).block).objWord off 1)) l.pc, parkedAt := s.steps } ∧
      (t.group r.1).csum = sumOf (s.lane r) (s.group r.1).regs ∧ (∀ b, t.block b = State.block A b) ∧
      A = (counted s l [rfld codeA a 4]).arrive (s.whose r) off slot e := by
  have h0 := tallied_counted hf
  have he := exec_barsync_waits h ho hm hf hw
  obtain ⟨hat, -⟩ := arrive_claims (off := off) (slot := slot) (e := e) h0 ho.held ho.wf
  refine ⟨_, (counted s l [rfld codeA a 4]).arrive (s.whose r) off slot e, he, ?_, ?_, ?_, fun _ => rfl, rfl⟩ <;>
    generalize (counted s l [rfld codeA a 4]).arrive (s.whose r) off slot e = A at hat ⊢
  · exact (((LaneAndSum.refl A r).modLane _).summed _).objectOnly hat
  · rw [lane_summed, parked, lane_modLane_self _ _ _ (AtObject.hasLane h hat), hat.lane, hat.keep (·.steps) fun _ _ _ => rfl]
  · exact csum_summed ((has_modLane A r _ r).2 (AtObject.hasLane h hat)).1 _

end

/-- Settles O44: an operation on an object has touched only the object's words and the roster when the lane goes on or parks. -/
theorem barrierResults : Obligations.BarrierResults := by
  intro s l r a off h ho
  refine ⟨fun x hf hp => barinit_claims h ho hf hp, fun slot e d hm hslot => ?_, fun d p hp hf => ?_, fun x hf hp =>
    ⟨exec_barwait_goes h ho hf hp, exec_barwait_waits h ho hf hp⟩⟩
  · dsimp only
    refine ⟨fun hf => ?_, fun hf => ?_, fun hf hone => ?_⟩
    · obtain ⟨t, A, he, honly, hlane, hsum, hblocks, hA⟩ := bararr_claims h ho hm hf
      obtain ⟨-, hrec, hwords⟩ := arrive_claims (off := off) (slot := slot) (e := e) (tallied_counted hf) ho.held ho.wf
      rw [← hA, arrivedWords_eq] at hwords
      rw [← hA] at hrec
      refine ⟨t, he, honly, hlane, hsum, fun hlast => ?_, (congrArg (Block.words · off) (hblocks _)).trans hwords⟩
      rw [Recorded, hblocks]
      exact hrec hlast
    · obtain ⟨-, hrec, hwords⟩ := arrive_claims (off := off) (slot := slot) (e := e) (tallied_counted hf) ho.held ho.wf
      by_cases hlast : (s.block (s.group r.1).block).arrivedAt off + 1 = (s.block (s.group r.1).block).expectedAt off
      · simp only [if_pos hlast] at hwords ⊢
        have hphase : (((counted s l [rfld codeA a 4]).arrive (s.whose r) off slot e).block (s.group r.1).block).objWord off 1 ≠
            (s.block (s.group r.1).block).objWord off 1 := by
          rw [objWord_one_of_words hwords]
          generalize (s.block (s.group r.1).block).objWord off 1 = w
          bv_omega
        obtain ⟨t, A, he, honly, hlane, hsum, hblocks, hA⟩ := barsync_goes_claims h ho hm hf hphase
        rw [← hA] at hwords hrec
        refine ⟨t, he, honly, hsum, fun _ => ?_, hlane, (congrArg (Block.words · off) (hblocks _)).trans hwords⟩
        rw [Recorded, hblocks]
        exact hrec hlast
      · simp only [if_neg hlast] at hwords ⊢
        have hphase := objWord_one_of_words hwords
        rw [arrivedWords_eq] at hwords
        obtain ⟨t, A, he, honly, hlane, hsum, hblocks, hA⟩ := barsync_waits_claims h ho hm hf hphase
        rw [← hA] at hwords
        exact ⟨t, he, honly, hsum, fun hl => absurd hl hlast, hlane, (congrArg (Block.words · off) (hblocks _)).trans hwords⟩
    · obtain ⟨hat, hrec, hwords⟩ := dropFrom_claims (off := off) (slot := slot) (e := e) (tallied_counted hf) ho.held ho.wf hm.fresh
      obtain ⟨honly, hlane⟩ := past_atObject h hat
      exact ⟨_, exec_bardrop_may h ho hf hm, honly, hlane, hrec, hwords⟩
  · have hbad := memberReason_cases (s.block (s.group r.1).block) off ((s.group r.1).tidx r.2) p.2.2
    have htraps : ∀ n, n < 8 → (s.block (s.group r.1).block).memberReason off ((s.group r.1).tidx r.2) p.2.2 = some n →
        TrapsWith p.1 s l r p.2.1 0x0D (BitVec.ofNat 64 (off * 4294967296 + n)) := fun n hn hr => by
      rw [← barData_eq n off hn]
      simp only [List.mem_cons, List.not_mem_nil, or_false] at hp
      rcases hp with rfl | rfl | rfl
      · exact h.traps hf (exec_bararr_bad h ho hf hr)
      · exact h.traps hf (exec_barsync_bad h ho hf hr)
      · exact h.traps hf (exec_bardrop_bad h ho hf hr)
    refine ⟨fun harmed => htraps 1 (by decide) (hbad.1 harmed), fun k e harmed => ?_⟩
    obtain ⟨h2, h3, h4⟩ := hbad.2 k e harmed
    exact ⟨fun hn => htraps 2 (by decide) (h2 hn), fun hn ha hb => htraps 3 (by decide) (h3 hn ha hb),
      fun hn ha hb => htraps 4 (by decide) (h4 hn ha hb)⟩

end Sys2Proof.Machine
end

section
/-!
PROOFS. What a lane sees at a place (R142 to R147, R173, R210), byte by byte as the statements write it and in words as the model
loads it.
-/

namespace Sys2Proof.Machine

open Sys2Proof Sys2Proof.Machine.Claims

/-! ### Marks of units, byte by byte -/

/-- A mark of some bytes is the mark of one of them. -/
def Bytewise (f : Nat → Nat → Bool) : Prop := ∀ a n, 0 < n → f a n = (List.range n).any fun i => f (a + i) 1

theorem any_unitsOf (u a n : Nat) (p : Nat → Bool) : (unitsOf u a n).any p = true ↔ ∃ i, i < n ∧ p ((a + i) / u) = true := by
  rw [List.any_eq_true]
  constructor
  · rintro ⟨k, hk, hp⟩
    obtain ⟨hn, hlo, hhi⟩ := mem_unitsOf.1 hk
    rcases Nat.eq_zero_or_pos u with rfl | hu
    · rw [Nat.div_zero] at hhi
      exact ⟨0, Nat.pos_of_ne_zero hn, by rw [Nat.div_zero, ← Nat.le_zero.1 hhi]; exact hp⟩
    · by_cases hin : a ≤ k * u
      · have hle : k * u ≤ a + n - 1 := (Nat.le_div_iff_mul_le hu).1 hhi
        refine ⟨k * u - a, by omega, ?_⟩
        rw [Nat.add_sub_cancel' hin, Nat.mul_div_cancel _ hu]
        exact hp
      · have hk' : k ≤ a / u := (Nat.le_div_iff_mul_le hu).2 (Nat.le_of_not_le hin)
        exact ⟨0, Nat.pos_of_ne_zero hn, by rw [Nat.add_zero, Nat.le_antisymm hlo hk']; exact hp⟩
  · rintro ⟨i, hi, hp⟩
    exact ⟨(a + i) / u, mem_unitsOf.2 ⟨by omega, Nat.div_le_div_right (Nat.le_add_right a i), Nat.div_le_div_right (by omega)⟩, hp⟩

theorem bytewise_units (u : Nat) (p : Nat → Bool) : Bytewise fun a n => (unitsOf u a n).any p := fun a n _ => by
  rw [Bool.eq_iff_iff, any_unitsOf, List.any_eq_true]
  constructor
  · rintro ⟨i, hi, hp⟩
    exact ⟨i, List.mem_range.2 hi, (any_unitsOf ..).2 ⟨0, Nat.one_pos, hp⟩⟩
  · rintro ⟨i, hi, hp⟩
    obtain ⟨j, hj, hp⟩ := (any_unitsOf ..).1 hp
    obtain rfl : j = 0 := by omega
    exact ⟨i, List.mem_range.1 hi, hp⟩

theorem Bytewise.or {f g : Nat → Nat → Bool} (hf : Bytewise f) (hg : Bytewise g) : Bytewise fun a n => f a n || g a n := fun a n hn => by
  show (f a n || g a n) = _
  rw [hf a n hn, hg a n hn, Bool.eq_iff_iff]
  simp only [Bool.or_eq_true, List.any_eq_true]
  constructor
  · rintro (⟨i, hi, h⟩ | ⟨i, hi, h⟩)
    · exact ⟨i, hi, .inl h⟩
    · exact ⟨i, hi, .inr h⟩
  · rintro ⟨i, hi, h | h⟩
    · exact .inl ⟨i, hi, h⟩
    · exact .inr ⟨i, hi, h⟩

theorem bytewise_const (b : Bool) : Bytewise fun _ _ => b := fun a n hn => by
  rw [Bool.eq_iff_iff, List.any_eq_true]
  exact ⟨fun h => ⟨0, List.mem_range.2 hn, h⟩, fun ⟨_, _, h⟩ => h⟩

theorem bytewise_poisoned (m : Memory) : Bytewise (m.poisoned 8) := bytewise_units 8 _

theorem bytewise_loadPoison (v : State) (r : LRef) : Bytewise (v.loadPoison r) := by
  have hmem : Bytewise v.hbmPoison := bytewise_units 32 _
  cases hagent : (v.group r.1).agent with
  | core c =>
    have hl1 : Bytewise (v.l1Poison c) := bytewise_units 32 _
    have heq : v.loadPoison r = fun a n => v.hbmPoison a n || v.l1Poison c a n := funext fun a => funext fun n => by
      rw [State.loadPoison, hagent]
    rw [heq]
    exact hmem.or hl1
  | kcore c =>
    have heq : v.loadPoison r = v.hbmPoison := funext fun a => funext fun n => by
      rw [State.loadPoison, hagent]
      exact Bool.or_false _
    rw [heq]
    exact hmem

/-! ### What is loaded -/

/-- What was loaded is what is seen. -/
structure Shows (x : Loaded) (m : Seen) (n : Nat) : Prop where
  bytes : x.bytes = (List.range n).map m.byte
  poison : x.poison = if n ≤ 4 then [(List.range n).any m.bad]
    else (List.range (n / 4)).map fun i => (List.range 4).any fun k => m.bad (4 * i + k)
  tag : x.tag = m.tag

theorem poisonWords_bytes {f : Nat → Nat → Bool} (hf : Bytewise f) {a n : Nat} (hn : 0 < n) : poisonWords f a n =
    if n ≤ 4 then [(List.range n).any fun i => f (a + i) 1]
    else (List.range (n / 4)).map fun i => (List.range 4).any fun k => f (a + (4 * i + k)) 1 := by
  rw [poisonWords]
  split
  · rw [hf a n hn]
  · refine List.map_congr_left fun i _ => ?_
    rw [hf (a + 4 * i) 4 (by decide)]
    simp only [Nat.add_assoc]

theorem Memory.bytes_eq_map (m : Memory) : ∀ (n a : Nat), m.bytes a n = (List.range n).map fun i => m.byte (a + i)
  | 0, _ => rfl
  | n + 1, a => by
    rw [Memory.bytes, Memory.bytes_eq_map m n, List.range_succ_eq_map, List.map_cons, List.map_map, Nat.add_zero]
    exact congrArg _ (List.map_congr_left fun i _ => by rw [Function.comp_apply, Nat.add_assoc, Nat.add_comm 1])

theorem take_eq_map_getD (xs : List Byte) {n : Nat} (h : n ≤ xs.length) : xs.take n = (List.range n).map fun i => xs.getD i 0 := by
  refine List.ext_getElem (by simp [h]) fun i hi hj => ?_
  rw [List.getElem_take, List.getElem_map, List.getElem_range, List.getD_eq_getElem]

/-- Where a lane sees something, the model loads it, and leaves the work as it is. -/
theorem fetchSpot_sees {v : State} {l : Latch} {r : LRef} {p : Spot} {n : Nat} {m : Seen} (hn : 0 < n) (hs : sees v r p n = some m) (k : Kind) :
    ∃ x, (v.work l).fetchSpot r p n k = (v.work l, some x) ∧ Shows x m n := by
  cases p with
  | scratch block off =>
    rw [sees] at hs
    rw [Work.fetchSpot, show (v.work l).s = v from rfl]
    split at hs
    · next hp =>
      obtain rfl := Option.some.inj hs
      rw [if_pos hp]
      exact ⟨_, rfl, Memory.bytes_eq_map _ _ _, poisonWords_bytes (bytewise_poisoned _) hn, rfl⟩
    · cases hs
  | hbm key pa =>
    rw [sees] at hs
    rw [Work.fetchSpot, show (v.work l).s = v from rfl]
    split at hs
    · cases hs
    · next hp =>
      obtain rfl := Option.some.inj hs
      rw [if_neg hp]
      exact ⟨_, rfl, rfl, poisonWords_bytes (bytewise_loadPoison _ r) hn, rfl⟩
  | remote dev pa va =>
    rw [sees] at hs
    obtain ⟨y, hy, rfl⟩ := Option.map_eq_some_iff.1 hs
    have hlen : n ≤ y.bytes.length := by
      have hfound := List.find?_some hy
      simp only [Bool.and_eq_true, decide_eq_true_eq] at hfound
      exact hfound.2
    rw [Work.fetchSpot, show (v.work l).s = v from rfl, show (v.lane r).broughtAt va n = some y from hy]
    exact ⟨_, rfl, take_eq_map_getD _ hlen, poisonWords_bytes (a := pa) (bytewise_const _) hn, rfl⟩
  | kdata c a =>
    obtain rfl := Option.some.inj hs
    exact ⟨_, rfl, Memory.bytes_eq_map _ _ _, poisonWords_bytes (bytewise_poisoned _) hn, rfl⟩
  | queues a =>
    obtain rfl := Option.some.inj hs
    exact ⟨_, rfl, Memory.bytes_eq_map _ _ _, poisonWords_bytes (bytewise_poisoned _) hn, rfl⟩

/-! ### Words -/

theorem leNat_map_range (f : Nat → Byte) (n : Nat) : leNat ((List.range n).map f) =
    (List.range n).foldr (fun k x => (f k).toNat + 256 * x) 0 := by
  induction List.range n with
  | nil => rfl
  | cons i is ih => rw [List.map_cons, leNat, ih, List.foldr_cons]

theorem Seen.num_eq (m : Seen) (i n : Nat) : m.num i n = leNat ((List.range n).map fun k => m.byte (i + k)) :=
  (leNat_map_range ..).symm

/-- The word of a load of 4 bytes or fewer. -/
theorem Shows.word {x : Loaded} {m : Seen} {n : Nat} (h : Shows x m n) (hn : n ≤ 4) (signed : Bool) : x.word signed = m.word 0 n signed := by
  have hlen : x.bytes.length = n := by rw [h.bytes, List.length_map, List.length_range]
  have hnum : leNat x.bytes = m.num 0 n := by
    rw [Seen.num_eq, h.bytes]
    simp only [Nat.zero_add]
  rw [Loaded.word, Seen.word, hlen, hnum, h.poison, if_pos hn]
  have h32 : (8 * n < 32) = (n < 4) := propext ⟨fun h => by omega, fun h => by omega⟩
  simp only [h32, List.headD_cons, Nat.zero_add]

/-- The words of a wider load. -/
theorem Shows.words {x : Loaded} {m : Seen} {n : Nat} (h : Shows x m n) (hn : 4 < n) :
    x.words = (List.range (n / 4)).map fun k => m.word (4 * k) 4 false := by
  have hlen : x.bytes.length = n := by rw [h.bytes, List.length_map, List.length_range]
  rw [Loaded.words, hlen, upto]
  refine List.map_congr_left fun i hi => ?_
  have hi' := List.mem_range.1 hi
  have hbytes : (x.bytes.drop (4 * i)).take 4 = (List.range 4).map fun k => m.byte (4 * i + k) := by
    rw [h.bytes]
    refine List.ext_getElem ?_ fun j hj hk => ?_
    · simp only [List.length_take, List.length_drop, List.length_map, List.length_range]
      omega
    · simp only [List.getElem_take, List.getElem_drop, List.getElem_map, List.getElem_range]
  have hpoison : x.poison.getD i false = (List.range 4).any fun k => m.bad (4 * i + k) := by
    rw [h.poison, if_neg (Nat.not_le.2 hn), List.getD_eq_getElem _ _ (by rw [List.length_map, List.length_range]; exact hi'), List.getElem_map,
      List.getElem_range]
  rw [Seen.word, hbytes, hpoison, Seen.num_eq]
  simp only [Bool.false_eq_true, false_and, if_false]

end Sys2Proof.Machine
end

section
/-!
PROOFS. Loads, with one lane (R141 to R147, R201): the shapes of the instructions, each behind the access of its lane.
-/

namespace Sys2Proof.Machine

open Sys2Proof Sys2Proof.Machine.Claims

/-! ### The shapes of the loads -/

theorem Read.regNo {s v : State} (h : Read s v) (l : Latch) (r : LRef) (code : Nat) (n : Reg) : regNo v l r code n = regNo s l r code n := by
  rw [regNo_eq, regNo_eq, h.lane]

theorem loadAll_some {w v : Work} {r : LRef} {mk : Work → LRef → Acc} {x : Loaded} (hl : w.live = [r])
    (hload : w.load r (mk w r) = (v, some x)) : w.loadAll mk = (v, [(r, x)]) := by
  rw [Work.loadAll, hl, List.foldl_cons, List.foldl_nil]
  dsimp only
  rw [hload]
  rfl

theorem loadAll_none {w v : Work} {r : LRef} {mk : Work → LRef → Acc} (hl : w.live = [r])
    (hload : w.load r (mk w r) = (v, none)) : w.loadAll mk = (v, []) := by
  rw [Work.loadAll, hl, List.foldl_cons, List.foldl_nil]
  dsimp only
  rw [hload]

theorem loadedOf_one (r : LRef) (x : Loaded) : loadedOf [(r, x)] r = x := by
  rw [loadedOf, List.find?_cons_of_pos (by simp)]
  rfl

/-- A lane has left the gather of a work, and no other is in it. -/
structure Gone (w : Work) : Prop where
  live : w.live = []
  zero : w.zero = []

section
variable {s v : State} {l : Latch} {r : LRef} (h : Alone s l r)
include h

omit h in
theorem Gone.writeDst {w : Work} (hw : Gone w) (d : Reg) (f : State → LRef → PWord) : w.writeDst (.reg d) f = w := by
  obtain ⟨hlive, hzero⟩ := hw
  obtain ⟨s, l, live, zero, traps, apart⟩ := w
  obtain rfl : live = [] := hlive
  obtain rfl : zero = [] := hzero
  rfl

theorem loadWord_shape {d : Reg} {flds : List Fld} (hf : InRange s l (rfld codeD d :: flds)) (signed : Bool) (mk : Work → LRef → Acc) :
    loadWord (.reg d) flds signed mk s =
      ((((counted s l (rfld codeD d :: flds)).work l).loadAll mk).1.writeDst (.reg d) fun _ r =>
        (loadedOf (((counted s l (rfld codeD d :: flds)).work l).loadAll mk).2 r).word signed).finish := by
  have hsources : (s.work l).sources (dstFlds (.reg d) ++ flds) (some (.reg d)) none none = (counted s l (rfld codeD d :: flds)).work l :=
    sources_counted hf _ rfl
  rw [loadWord, withGather_latched h.ready.latched, hsources]

theorem loadAcquire_shape {d : Reg} {flds : List Fld} (hf : InRange s l (rfld codeD d :: flds)) (scope : BitVec 3) (mk : Work → LRef → Acc) :
    loadAcquire scope (.reg d) flds mk s =
      (((((counted s l (rfld codeD d :: flds)).work l).loadAll mk).1.acquireAll true scope.toNat).writeDst (.reg d) fun _ r =>
        (loadedOf (((counted s l (rfld codeD d :: flds)).work l).loadAll mk).2 r).word false).finish := by
  have hsources : (s.work l).sources (dstFlds (.reg d) ++ flds) (some (.reg d)) none none = (counted s l (rfld codeD d :: flds)).work l :=
    sources_counted hf _ rfl
  rw [loadAcquire, withGather_latched h.ready.latched, hsources]

theorem loadWide_shape {d : Reg} {n : Nat} {flds : List Fld} (hf : InRange s l (rfld codeD d n :: flds)) (mk : Work → LRef → Acc) :
    loadWide d n flds mk s =
      (((((counted s l (rfld codeD d n :: flds)).work l).loadAll mk).1.writeRegs codeD d.toNat fun _ r =>
        (loadedOf (((counted s l (rfld codeD d n :: flds)).work l).loadAll mk).2 r).words).zeroRegs codeD d.toNat n).finish := by
  rw [loadWide, withGather_latched h.ready.latched, sources_counted hf none rfl]

/-- The capabilities that lanes have loaded, written. -/
def State.writeCaps (s : State) (live : List LRef) (num : LRef → Nat) (ls : List (LRef × Loaded)) : State :=
  live.foldl (fun s r => s.wrCap r (num r) (capOfWords ((loadedOf ls r).words.map (·.val)) (loadedOf ls r).tag) (loadedOf ls r).poison) s

def Work.writeCaps (w : Work) (d : Reg) (ls : List (LRef × Loaded)) : Work :=
  { w with s := w.s.writeCaps w.live (fun r => w.rnum r codeD d.toNat) ls }

theorem loadCap_shape {d : Reg} {flds : List Fld} (hf : InRange s l (rfld codeD d 4 :: flds)) (mk : Work → LRef → Acc) :
    loadCap d flds mk s =
      (((((counted s l (rfld codeD d 4 :: flds)).work l).loadAll mk).1.writeCaps d
        (((counted s l (rfld codeD d 4 :: flds)).work l).loadAll mk).2).zeroRegs codeD d.toNat 4).finish := by
  rw [loadCap, withGather_latched h.ready.latched, sources_counted hf none rfl]
  rfl

/-! ### Loads that deliver -/

variable {x : Loaded} {mk : Work → LRef → Acc}

theorem loadWord_some {d : Reg} {flds : List Fld} (hf : InRange s l (rfld codeD d :: flds)) (signed : Bool)
    (hread : Read s v) (hload : ((counted s l (rfld codeD d :: flds)).work l).load r (mk ((counted s l (rfld codeD d :: flds)).work l) r) =
      (v.work l, some x)) :
    loadWord (.reg d) flds signed mk s = .next (past l r (v.wr r (regNo s l r codeD d) (x.word signed))) := by
  have hv := hread.alone h
  rw [loadWord_shape h hf, loadAll_some h.only hload, hv.writeDst_work, loadedOf_one, hread.regNo]
  exact h.finish (by rw [State.wr, group_modLane_taskKill]; exact hv.plain)

omit h in
theorem wr_acquire (y : Lane) (n k t : Nat) (w : PWord) : (y.acquire k t).wr n w = (y.wr n w).acquire k t := by
  rw [Lane.wr, Lane.wr, Lane.putReg, Lane.putReg, show (y.acquire k t).ownerOf n = y.ownerOf n from rfl]
  split <;> rfl

omit h in
/-- A register write and an acquire point of the lane do not mind their order. -/
theorem wr_acquires (l : Latch) {n k : Nat} {w : PWord} : (v.acquires r k).wr r n w = (v.wr r n w).acquires r k := by
  have hkept : keptL1 (v.wr r n w) [r] = keptL1 v [r] := funext fun e => by
    simp only [keptL1, State.wr, group_modLane_agent]
  have hlanes : ((v.modLane r fun y => y.acquire k v.past.length).modLane r fun y => y.wr n w) =
      (v.modLane r fun y => y.wr n w).modLane r fun y => y.acquire k v.past.length := by
    rw [modLane_modLane, modLane_modLane]
    exact congrArg (v.modLane r) (funext fun y => wr_acquire y n k v.past.length w)
  rw [State.acquires, State.acquires, freshL1_filter l, freshL1_filter l, hkept]
  exact congrArg (fun t : State => { t with l1 := v.l1.filter (keptL1 v [r]) }) hlanes

theorem loadAcquire_some {d : Reg} {flds : List Fld} (hf : InRange s l (rfld codeD d :: flds)) (scope : BitVec 3)
    (hread : Read s v) (hload : ((counted s l (rfld codeD d :: flds)).work l).load r (mk ((counted s l (rfld codeD d :: flds)).work l) r) =
      (v.work l, some x)) :
    loadAcquire scope (.reg d) flds mk s = .next (past l r ((v.wr r (regNo s l r codeD d) (x.word false)).acquires r scope.toNat)) := by
  have hv := hread.alone h
  have hfold : (v.work l).live.foldl (fun s r => s.acquires r scope.toNat) (v.work l).s = v.acquires r scope.toNat := by
    rw [show (v.work l).live = [r] from h.only]
    rfl
  have hacq : (v.work l).acquireAll true scope.toNat = (v.acquires r scope.toNat).work l :=
    congrArg (fun t => ({ v.work l with s := t } : Work)) hfold
  have hno : regNo (v.acquires r scope.toNat) l r codeD d = regNo s l r codeD d := by
    rw [← hread.regNo, regNo_eq, regNo_eq, lane_acquires hv.has]
    rfl
  rw [loadAcquire_shape h hf, loadAll_some h.only hload, hacq, h.writeDst_work, loadedOf_one, hno, wr_acquires l]
  refine h.finish ?_
  rw [State.acquires, group_modLane_taskKill, State.group, groups_freshL1]
  show ((v.wr r _ _).group r.1).taskKill = false
  rw [State.wr, group_modLane_taskKill]
  exact hv.plain

omit h in
theorem group_wrs_taskKill : ∀ (ws : List PWord) (v : State) (n q : Nat), ((v.wrs r n ws).group q).taskKill = (v.group q).taskKill := by
  intro ws v n q
  rw [wrs_eq_modLane, group_modLane_taskKill]

theorem loadWide_some {d : Reg} {n : Nat} {flds : List Fld} (hf : InRange s l (rfld codeD d n :: flds))
    (hread : Read s v) (hload : ((counted s l (rfld codeD d n :: flds)).work l).load r (mk ((counted s l (rfld codeD d n :: flds)).work l) r) =
      (v.work l, some x)) :
    loadWide d n flds mk s = .next (past l r (v.wrs r (regNo s l r codeD d) x.words)) := by
  have hv := hread.alone h
  have hno : (v.work l).rnum r codeD d.toNat = regNo s l r codeD d := hread.regNo l r codeD d
  rw [loadWide_shape h hf, loadAll_some h.only hload, h.writeRegs_work, zeroRegs_work, loadedOf_one, hno]
  exact h.finish (by rw [group_wrs_taskKill]; exact hv.plain)

theorem writeCaps_one (d : Reg) : (v.work l).writeCaps d [(r, x)] = (v.wrCap r (regNo v l r codeD d)
    (capOfWords (x.words.map (·.val)) x.tag) x.poison).work l := by
  have hone : v.writeCaps [r] (fun r => (v.work l).rnum r codeD d.toNat) [(r, x)] =
      v.wrCap r (regNo v l r codeD d) (capOfWords (x.words.map (·.val)) x.tag) x.poison := by
    rw [State.writeCaps, List.foldl_cons, List.foldl_nil, loadedOf_one]
    rfl
  generalize v.wrCap r (regNo v l r codeD d) (capOfWords (x.words.map (·.val)) x.tag) x.poison = t at hone ⊢
  have hlive : (v.work l).s.writeCaps (v.work l).live (fun r => (v.work l).rnum r codeD d.toNat) [(r, x)] = t :=
    (congrArg (fun ls => v.writeCaps ls (fun r => (v.work l).rnum r codeD d.toNat) [(r, x)]) h.only).trans hone
  exact congrArg (fun t => ({ v.work l with s := t } : Work)) hlive

theorem loadCap_some {d : Reg} {flds : List Fld} (hf : InRange s l (rfld codeD d 4 :: flds))
    (hread : Read s v) (hload : ((counted s l (rfld codeD d 4 :: flds)).work l).load r (mk ((counted s l (rfld codeD d 4 :: flds)).work l) r) =
      (v.work l, some x)) :
    loadCap d flds mk s = .next (past l r (v.wrCap r (regNo s l r codeD d) (capOfWords (x.words.map (·.val)) x.tag) x.poison)) := by
  have hv := hread.alone h
  rw [loadCap_shape h hf, loadAll_some h.only hload, writeCaps_one h, zeroRegs_work, hread.regNo]
  exact h.finish (by rw [State.wrCap, group_modLane_taskKill]; exact hv.plain)

/-! ### Loads whose lane has left the gather -/

variable {w : Work} (hw : Gone w)
include hw

theorem loadWord_none {d : Reg} {flds : List Fld} (hf : InRange s l (rfld codeD d :: flds)) (signed : Bool)
    (hload : ((counted s l (rfld codeD d :: flds)).work l).load r (mk ((counted s l (rfld codeD d :: flds)).work l) r) = (w, none)) :
    loadWord (.reg d) flds signed mk s = w.finish := by
  rw [loadWord_shape h hf, loadAll_none h.only hload, hw.writeDst]

theorem loadAcquire_none {d : Reg} {flds : List Fld} (hf : InRange s l (rfld codeD d :: flds)) (scope : BitVec 3)
    (hload : ((counted s l (rfld codeD d :: flds)).work l).load r (mk ((counted s l (rfld codeD d :: flds)).work l) r) = (w, none)) :
    loadAcquire scope (.reg d) flds mk s = w.finish := by
  have hfold : w.live.foldl (fun s r => s.acquires r scope.toNat) w.s = w.s := by
    rw [hw.live]
    rfl
  have hacq : w.acquireAll true scope.toNat = w := congrArg (fun t => ({ w with s := t } : Work)) hfold
  rw [loadAcquire_shape h hf, loadAll_none h.only hload, hacq, hw.writeDst]

theorem loadWide_none {d : Reg} {n : Nat} {flds : List Fld} (hf : InRange s l (rfld codeD d n :: flds))
    (hload : ((counted s l (rfld codeD d n :: flds)).work l).load r (mk ((counted s l (rfld codeD d n :: flds)).work l) r) = (w, none)) :
    loadWide d n flds mk s = w.finish := by
  rw [loadWide_shape h hf, loadAll_none h.only hload]
  obtain ⟨hlive, hzero⟩ := hw
  obtain ⟨s, l, live, zero, traps, apart⟩ := w
  obtain rfl : live = [] := hlive
  obtain rfl : zero = [] := hzero
  rfl

theorem loadCap_none {d : Reg} {flds : List Fld} (hf : InRange s l (rfld codeD d 4 :: flds))
    (hload : ((counted s l (rfld codeD d 4 :: flds)).work l).load r (mk ((counted s l (rfld codeD d 4 :: flds)).work l) r) = (w, none)) :
    loadCap d flds mk s = w.finish := by
  rw [loadCap_shape h hf, loadAll_none h.only hload]
  obtain ⟨hlive, hzero⟩ := hw
  obtain ⟨s, l, live, zero, traps, apart⟩ := w
  obtain rfl : live = [] := hlive
  obtain rfl : zero = [] := hzero
  rfl

end

/-! ### The accesses of the instructions -/

/-- The access of a load that acquires. -/
def accA (c : Quad) (w : Work) (r : LRef) : Acc := w.accC r c 0 4 [0] .read

section
variable {s u : State} {l : Latch} {r : LRef} (h0 : Tallied s u)
include h0

theorem rawImm_tallied (width imm : Nat) : (u.work l).rawImm r width imm = (s.work l).rawImm r width imm := by
  rw [Work.rawImm, Work.rawImm, show (u.work l).s = u from rfl, show (s.work l).s = s from rfl, h0.lane]

theorem accC_tallied (c : Quad) (off : Int) (n : Nat) (perms : List Nat) (k : Kind) :
    (u.work l).accC r c off n perms k = quadAcc s r c off n perms k := by
  rw [Work.accC, quadAcc, show (u.work l).s = u from rfl, h0.cap, h0.quadPoison]

theorem accA_tallied (c : Quad) : accA c (u.work l) r = quadAcc s r c 0 4 [0] .read := by
  rw [accA, accC_tallied h0]

theorem accM_tallied (c : Quad) (imm : BitVec 15) (n : Nat) (perms : List Nat) (k : Kind) :
    accM c imm n perms k (u.work l) r = quadAcc s r c (disp15 s l r imm * n) n perms k := by
  rw [accM, accC_tallied h0, Work.imm15s, rawImm_tallied h0, disp15]

theorem accF_tallied (lv : BitVec 3) (imm : BitVec 15) (n : Nat) (perms : List Nat) (k : Kind) :
    accF lv imm n perms k (u.work l) r = displayAcc s r lv (4 * words15 s l r imm) n perms k := by
  rw [accF, Work.accD, Work.imm15n, rawImm_tallied h0, show (u.work l).s = u from rfl, h0.group, h0.grid]
  rfl

end

section
variable {s v : State} {l : Latch} {r : LRef} (h : Alone s l r) {d : Reg} {c : Quad} {imm : BitVec 15} {lv sc : BitVec 3}
include h

/-- A load of one word that finds `x` delivers its word. -/
theorem wordLoad_some {x : Loaded} {e : MemRow × Bool × Option Nat} (he : e ∈ wordLoads s l r d c imm lv sc) (hf : InRange s l e.1.flds)
    (hread : Read s v) (hload : ((counted s l e.1.flds).work l).load r e.1.acc = (v.work l, some x)) :
    exec e.1.i s = .next (past l r (acquired e.2.2 r (v.wr r (regNo s l r codeD d) (x.word e.2.1)))) := by
  have h0 := tallied_counted hf
  simp only [wordLoads, List.mem_cons, List.not_mem_nil, or_false] at he
  rcases he with rfl | rfl | rfl | rfl | rfl | rfl | rfl | rfl
  · exact loadWord_some h hf true hread (by rw [accM_tallied h0]; exact hload)
  · exact loadWord_some h hf false hread (by rw [accM_tallied h0]; exact hload)
  · exact loadWord_some h hf true hread (by rw [accM_tallied h0]; exact hload)
  · exact loadWord_some h hf false hread (by rw [accM_tallied h0]; exact hload)
  · exact loadWord_some h hf false hread (by rw [accM_tallied h0]; exact hload)
  · exact (loadAcquire_some h hf sc hread (mk := accA c) (by rw [accA_tallied h0]; exact hload) :)
  · exact (loadAcquire_some h hf sc hread (mk := accA c) (by rw [accA_tallied h0]; exact hload) :)
  · exact (loadWord_some h hf false hread (mk := accF lv imm 4 [0] .read) (by rw [accF_tallied h0]; exact hload) :)

theorem wordLoad_none {w : Work} (hw : Gone w) {e : MemRow × Bool × Option Nat} (he : e ∈ wordLoads s l r d c imm lv sc)
    (hf : InRange s l e.1.flds) (hload : ((counted s l e.1.flds).work l).load r e.1.acc = (w, none)) : exec e.1.i s = w.finish := by
  have h0 := tallied_counted hf
  simp only [wordLoads, List.mem_cons, List.not_mem_nil, or_false] at he
  rcases he with rfl | rfl | rfl | rfl | rfl | rfl | rfl | rfl
  · exact loadWord_none h hw hf true (by rw [accM_tallied h0]; exact hload)
  · exact loadWord_none h hw hf false (by rw [accM_tallied h0]; exact hload)
  · exact loadWord_none h hw hf true (by rw [accM_tallied h0]; exact hload)
  · exact loadWord_none h hw hf false (by rw [accM_tallied h0]; exact hload)
  · exact loadWord_none h hw hf false (by rw [accM_tallied h0]; exact hload)
  · exact (loadAcquire_none h hw hf sc (mk := accA c) (by rw [accA_tallied h0]; exact hload) :)
  · exact (loadAcquire_none h hw hf sc (mk := accA c) (by rw [accA_tallied h0]; exact hload) :)
  · exact (loadWord_none h hw hf false (mk := accF lv imm 4 [0] .read) (by rw [accF_tallied h0]; exact hload) :)

theorem wideLoad_some {x : Loaded} {e : MemRow} (he : e ∈ wideLoads s l r d c imm) (hf : InRange s l e.flds)
    (hread : Read s v) (hload : ((counted s l e.flds).work l).load r e.acc = (v.work l, some x)) :
    exec e.i s = .next (past l r (v.wrs r (regNo s l r codeD d) x.words)) := by
  have h0 := tallied_counted hf
  simp only [wideLoads, List.mem_cons, List.not_mem_nil, or_false] at he
  rcases he with rfl | rfl
  · exact loadWide_some h hf hread (by rw [accM_tallied h0]; exact hload)
  · exact loadWide_some h hf hread (by rw [accM_tallied h0]; exact hload)

theorem wideLoad_none {w : Work} (hw : Gone w) {e : MemRow} (he : e ∈ wideLoads s l r d c imm) (hf : InRange s l e.flds)
    (hload : ((counted s l e.flds).work l).load r e.acc = (w, none)) : exec e.i s = w.finish := by
  have h0 := tallied_counted hf
  simp only [wideLoads, List.mem_cons, List.not_mem_nil, or_false] at he
  rcases he with rfl | rfl
  · exact loadWide_none h hw hf (by rw [accM_tallied h0]; exact hload)
  · exact loadWide_none h hw hf (by rw [accM_tallied h0]; exact hload)

theorem capLoad_some {x : Loaded} {e : MemRow} (he : e ∈ capLoads s l r d c imm lv) (hf : InRange s l e.flds)
    (hread : Read s v) (hload : ((counted s l e.flds).work l).load r e.acc = (v.work l, some x)) :
    exec e.i s = .next (past l r (v.wrCap r (regNo s l r codeD d) (capOfWords (x.words.map (·.val)) x.tag) x.poison)) := by
  have h0 := tallied_counted hf
  simp only [capLoads, List.mem_cons, List.not_mem_nil, or_false] at he
  rcases he with rfl | rfl
  · exact loadCap_some h hf hread (by rw [accM_tallied h0]; exact hload)
  · exact (loadCap_some h hf hread (mk := accF lv imm 16 [0, 2] .read) (by rw [accF_tallied h0]; exact hload) :)

theorem capLoad_none {w : Work} (hw : Gone w) {e : MemRow} (he : e ∈ capLoads s l r d c imm lv) (hf : InRange s l e.flds)
    (hload : ((counted s l e.flds).work l).load r e.acc = (w, none)) : exec e.i s = w.finish := by
  have h0 := tallied_counted hf
  simp only [capLoads, List.mem_cons, List.not_mem_nil, or_false] at he
  rcases he with rfl | rfl
  · exact loadCap_none h hw hf (by rw [accM_tallied h0]; exact hload)
  · exact (loadCap_none h hw hf (mk := accF lv imm 16 [0, 2] .read) (by rw [accF_tallied h0]; exact hload) :)

/-! ### Places -/

omit h in
/-- Where an access lands, translation has changed TLBs alone. -/
theorem lands_read {e : MemRow} (hf : InRange s l e.flds) {p : Spot} (hlands : Lands s l r e v p) :
    OnlyTlbs (counted s l e.flds) v ∧ Read s v := by
  have ht := (resolve_some hlands).tlbs
  exact ⟨ht, ⟨_, tallied_counted hf, ht⟩⟩

omit h in
theorem load_of_lands {e : MemRow} {p : Spot} (hlands : Lands s l r e v p) : ((counted s l e.flds).work l).load r e.acc =
    (v.work l).fetchSpot r p e.acc.size e.acc.kind := by
  rw [Work.load, show ((counted s l e.flds).work l).resolve r e.acc = (v.work l, some p) from hlands]

end

/-! ### Loads that find nothing yet -/

theorem fetchSpot_absent {v : State} {l : Latch} {b off : Nat} (hp : v.present b (off / 128) = false) (r : LRef) (n : Nat) (k : Kind) :
    (v.work l).fetchSpot r (.scratch b off) n k = ((v.work l).park r (.line b (off / 128)), none) := by
  rw [Work.fetchSpot, show (v.work l).s = v from rfl, hp]
  rfl

theorem fetchSpot_stalled {v : State} {l : Latch} {pa : Nat} (hp : v.stalled pa = true) (r : LRef) (key n : Nat) (k : Kind) :
    (v.work l).fetchSpot r (.hbm key pa) n k = ((v.work l).hold r, none) := by
  rw [Work.fetchSpot, show (v.work l).s = v from rfl, hp]
  rfl

/-- The request that leaves for another device. -/
def requested (v : State) (l : Latch) (r : LRef) (dev pa va n : Nat) (k : Kind) : State :=
  { v with
    nextId := v.nextId + 1
    remotes := v.remotes ++ [{ id := v.nextId, gid := r.1, lane := r.2, dev := dev, addr := pa, size := n
                               asid := (v.ctx (v.group r.1).ctx).hdr.asid, va := va
                               leaf := v.leafOf (v.group r.1).coreOf (v.ctx (v.group r.1).ctx).hdr.asid va k, run := l.run, word := l.word }] }

theorem fetchSpot_remote {v : State} {l : Latch} {r : LRef} {va n : Nat} (hb : brought v r va n = none) (dev pa : Nat) (k : Kind) :
    (v.work l).fetchSpot r (.remote dev pa va) n k = (((requested v l r dev pa va n k).work l).park r (.remote v.nextId), none) := by
  rw [Work.fetchSpot, show (v.work l).s = v from rfl, show (v.lane r).broughtAt va n = none from hb]
  rfl

section
variable {s v : State} {l : Latch} {r : LRef} (h : Alone s l r)
include h

theorem gone_park (u : State) (wait : Wait) : Gone ((u.work l).park r wait) := by
  rw [h.park_work]
  exact ⟨rfl, rfl⟩

theorem gone_hold (u : State) : Gone ((u.work l).hold r) := by
  rw [h.hold_work]
  exact ⟨rfl, rfl⟩

theorem finish_hold {u : State} (hk : (u.group r.1).taskKill = false) :
    ((u.work l).hold r).finish = .next (u.modLane r fun x => { x with heldBack := true }) := by
  rw [h.hold_work]
  exact h.finish_left ((group_modLane_taskKill ..).trans hk) rfl rfl rfl rfl rfl

end

/-! ### The loads -/

theorem wordLoads_size {s : State} {l : Latch} {r : LRef} {d : Reg} {c : Quad} {imm : BitVec 15} {lv sc : BitVec 3}
    {e : MemRow × Bool × Option Nat} (he : e ∈ wordLoads s l r d c imm lv sc) : 0 < e.1.acc.size ∧ e.1.acc.size ≤ 4 := by
  have hall : ∀ n ∈ (wordLoads s l r d c imm lv sc).map (·.1.acc.size), 0 < n ∧ n ≤ 4 :=
    show ∀ n ∈ [1, 1, 2, 2, 4, 4, 4, 4], 0 < n ∧ n ≤ 4 by decide
  exact hall _ (List.mem_map_of_mem he)

theorem wideLoads_size {s : State} {l : Latch} {r : LRef} {d : Reg} {c : Quad} {imm : BitVec 15} {e : MemRow}
    (he : e ∈ wideLoads s l r d c imm) : 4 < e.acc.size := by
  have hall : ∀ n ∈ (wideLoads s l r d c imm).map (·.acc.size), 4 < n := show ∀ n ∈ [8, 16], 4 < n by decide
  exact hall _ (List.mem_map_of_mem he)

theorem capLoads_size {s : State} {l : Latch} {r : LRef} {d : Reg} {c : Quad} {imm : BitVec 15} {lv : BitVec 3} {e : MemRow}
    (he : e ∈ capLoads s l r d c imm lv) : e.acc.size = 16 := by
  simp only [capLoads, List.mem_cons, List.not_mem_nil, or_false] at he
  rcases he with rfl | rfl <;> rfl

theorem Shows.poison_words {x : Loaded} {m : Seen} (h : Shows x m 16) : x.poison = x.words.map (·.poison) := by
  rw [h.words (by decide), h.poison, List.map_map]
  rfl

section
variable {s v : State} {l : Latch} {r : LRef} (h : Alone s l r) {d : Reg} {c : Quad} {imm : BitVec 15} {lv sc : BitVec 3} {p : Spot} {m : Seen}
include h

theorem wordLoad_sees {e : MemRow × Bool × Option Nat} (he : e ∈ wordLoads s l r d c imm lv sc) (hf : InRange s l e.1.flds)
    (hlands : Lands s l r e.1 v p) (hs : sees v r p e.1.acc.size = some m) :
    exec e.1.i s = .next (past l r (acquired e.2.2 r (v.wr r (regNo s l r codeD d) (m.word 0 e.1.acc.size e.2.1)))) := by
  obtain ⟨hpos, hsmall⟩ := wordLoads_size he
  obtain ⟨x, hx, hshows⟩ := fetchSpot_sees (l := l) hpos hs e.1.acc.kind
  rw [← hshows.word hsmall]
  exact wordLoad_some h he hf (lands_read hf hlands).2 ((load_of_lands hlands).trans hx)

theorem wideLoad_sees {e : MemRow} (he : e ∈ wideLoads s l r d c imm) (hf : InRange s l e.flds)
    (hlands : Lands s l r e v p) (hs : sees v r p e.acc.size = some m) :
    exec e.i s = .next (past l r (v.wrs r (regNo s l r codeD d) ((List.range (e.acc.size / 4)).map fun k => m.word (4 * k) 4 false))) := by
  have hwide := wideLoads_size he
  obtain ⟨x, hx, hshows⟩ := fetchSpot_sees (l := l) (Nat.lt_trans (by decide) hwide) hs e.acc.kind
  rw [← hshows.words hwide]
  exact wideLoad_some h he hf (lands_read hf hlands).2 ((load_of_lands hlands).trans hx)

theorem capLoad_sees {e : MemRow} (he : e ∈ capLoads s l r d c imm lv) (hf : InRange s l e.flds)
    (hlands : Lands s l r e v p) (hs : sees v r p e.acc.size = some m) :
    let ws := (List.range 4).map fun k => m.word (4 * k) 4 false
    exec e.i s = .next (past l r (v.wrCap r (regNo s l r codeD d) (capOfWords (ws.map (·.val)) m.tag) (ws.map (·.poison)))) := by
  have hsize := capLoads_size he
  obtain ⟨x, hx, hshows⟩ := fetchSpot_sees (l := l) (by rw [hsize]; decide) hs e.acc.kind
  rw [hsize] at hshows
  have hwords : x.words = (List.range 4).map fun k => m.word (4 * k) 4 false := hshows.words (by decide)
  have hload := capLoad_some h he hf (lands_read hf hlands).2 ((load_of_lands hlands).trans hx)
  rw [hshows.poison_words, hshows.tag, hwords] at hload
  exact hload

/-- A load of one word that finds nothing yet (R173, R210, R307). -/
theorem wordLoad_waits {e : MemRow × Bool × Option Nat} (he : e ∈ wordLoads s l r d c imm lv sc) (hf : InRange s l e.1.flds) :
    (∀ b off, Lands s l r e.1 v (.scratch b off) → v.present b (off / 128) = false →
      exec e.1.i s = .next (parked l r (.line b (off / 128)) v)) ∧
    (∀ key pa, Lands s l r e.1 v (.hbm key pa) → v.stalled pa = true →
      exec e.1.i s = .next (v.modLane r fun x => { x with heldBack := true })) ∧
    (∀ dev pa va, Lands s l r e.1 v (.remote dev pa va) → brought v r va e.1.acc.size = none →
      exec e.1.i s = .next (sentFar v l r dev pa va e.1.acc.size e.1.acc.kind)) := by
  refine ⟨fun b off hlands hp => ?_, fun key pa hlands hp => ?_, fun dev pa va hlands hb => ?_⟩
  · have hplain := ((lands_read hf hlands).2.alone h).plain
    rw [wordLoad_none h (gone_park h v _) he hf ((load_of_lands hlands).trans (fetchSpot_absent hp ..)), h.finish_park hplain]
  · have hplain := ((lands_read hf hlands).2.alone h).plain
    rw [wordLoad_none h (gone_hold h v) he hf ((load_of_lands hlands).trans (fetchSpot_stalled hp ..)), finish_hold h hplain]
  · have hplain := ((lands_read hf hlands).2.alone h).plain
    rw [wordLoad_none h (gone_park h _ _) he hf ((load_of_lands hlands).trans (fetchSpot_remote hb ..)),
      h.finish_park (show ((requested v l r dev pa va e.1.acc.size e.1.acc.kind).group r.1).taskKill = false from hplain)]
    rfl

end

/-- Settles O33: where an access lands, the model loads what is seen there. -/
theorem loadResults : Obligations.LoadResults := by
  refine ⟨fun d c imm lv sc s l r h => ⟨fun e _ hf v p hlands => (lands_read hf hlands).1,
    fun e he hf v p m hlands hs => wordLoad_sees h he hf hlands hs, fun e he hf v => wordLoad_waits h he hf⟩,
    fun d c imm lv s l r h => ⟨fun e he hf v p m hlands hs => wideLoad_sees h he hf hlands hs,
    fun e he hf v p m hlands hs => capLoad_sees h he hf hlands hs⟩⟩

end Sys2Proof.Machine
end
